-- ==== Sys2Proof/Word.lean ====
section
/-!
DEFINITION. The word types of the NMX-4 (R9, R10): bytes, 32-bit registers, 64-bit register pairs, and the index
types of its units (R1-R3, R24).
-/

namespace Sys2Proof

/-- A byte. -/
abbrev Byte := BitVec 8

/-- A 16-bit field. -/
abbrev Half := BitVec 16

/-- A register (R10). -/
abbrev Word := BitVec 32

/-- A register pair or a 64-bit field (R10). -/
abbrev Quad := BitVec 64

/-- A die by the INDEX of R24: 0-3 are CD0-CD3, 4 is LD0, 5 is LD1. -/
abbrev Die := Fin 6

/-- A compute die CD0-CD3 (R16). -/
abbrev CDie := Fin 4

/-- A strand S00-S63 (R2). -/
abbrev StrandId := Fin 64

/-- A wavelength lane L0-L8 of a strand, L8 the spare (R3). -/
abbrev LaneId := Fin 9

/-- A memory stack (hank) H0-H7 (R1). -/
abbrev HankId := Fin 8

/-- A memory channel by its package number C (R136). -/
abbrev ChanId := Fin 2048

/-- A mailbox MB00-MB63 (R233). -/
abbrev MbxId := Fin 64

/-- A bobbin (hardware queue) by its 20-bit number (R185). -/
abbrev QueueId := Fin 1048576

/-- A command tag (R202): 14 bits. -/
abbrev TagId := Fin 16384

/-- A laser bank: 0 is bank A, 1 is bank B (R2). -/
abbrev BankId := Fin 2

end Sys2Proof
end

