-- ==== Sys2Proof/Syntax.lean ====
section
/-!
DEFINITION. The commands of the NMX-4: one constructor of `Instr` for each step of the opcode table, with what the
environment says in that step as its operands. The small types of those operands come first.
-/

namespace Sys2Proof

/-- R163, R165: the engine that makes an access or holds a write: a spindle CDn.SPs by 2n + s, a vector core CDn.Vc by
64n + c, a transfer engine of a link die by its unit index (R55), the host port, the flyer. -/
inductive Engine where
  | spindle (i : Fin 8)
  | vector (core : Fin 256)
  | transfer (ld : Fin 2) (unit : Fin 256)
  | host
  | flyer
  deriving DecidableEq, Repr, Inhabited

/-- On whose behalf an access is made: a frame-program step by its index, a command by its tag, the host, the flyer, or
the fabric for a remote device's operation. An error reaches it as the rules of that work say (R149, R200, R221). -/
inductive Client where
  | flyer
  | step (i : Nat)
  | command (tag : Nat)
  | host
  | fabric
  deriving DecidableEq, Repr, Inhabited

/-- R165: the scope of a release or an acquire. -/
inductive Scope where
  | core | die | package | domain
  deriving DecidableEq, Repr, Inhabited

/-- R113, R145: an integer atomic, with its operands. -/
inductive AtomicOp where
  /-- Fetch-add of 64 bits. -/
  | fetchAdd (v : Quad)
  /-- Compare-swap of 64 bits: the value compared, the value stored. -/
  | compareSwap (cmp new : Quad)
  deriving DecidableEq, Repr, Inhabited

/-- R23, R134: storage cells of the compute dies that have come to fail their check by the moment of a command; whatever
reaches them from then on meets the error. -/
structure CellFaults where
  /-- R134: local store words (address divided by 8), and whether the error is more than SECDED corrects. -/
  words : List (Nat × Bool) := []
  /-- R23: remote-line cache lines, as (die, line number), whose parity fails. -/
  lines : List (CDie × Nat) := []
  deriving DecidableEq, Repr, Inhabited

/-- R142, R143: an access at a channel controller or a local store: who makes it, where, how many bytes, and the bytes
written, `none` for a read. -/
structure MemAccess where
  engine : Engine := .flyer
  client : Client := .flyer
  addr : BitVec 40 := 0
  len : Nat := 0
  write : Option (List Byte) := none
  /-- R148: blocks of the access that arrive with STATUS 0x1, by block number. -/
  corrected : List Nat := []
  /-- R149: blocks of the access whose stored bits have come to fail their check, by block number. -/
  bad : List Nat := []
  cells : CellFaults := {}
  deriving DecidableEq, Repr, Inhabited

/-- R146: one transfer of a burst (64 bytes) or half burst (32 bytes), as the receiving side finds it: its data and its
check word (16 bits used of a half burst's). -/
structure Burst where
  data : List Byte := []
  word : Word := 0
  deriving DecidableEq, Repr, Inhabited

/-- R24: what the straps of a die spell: its INDEX, its ROLE (a link die or not), its POSITION, and the PARITY strap. -/
structure Straps where
  index : BitVec 3 := 0
  role : Bool := false
  position : BitVec 2 := 0
  parity : Bool := false
  deriving DecidableEq, Repr, Inhabited

/-- What a boot finds outside the registers: what the fuses, straps, dies, flash, stacks and banks answer
(R25-R31, R387, R393, R395, R410, R425). -/
structure BootEnv where
  /-- R387: the fuse array passes its check. -/
  fuseOk : Bool := true
  /-- R26: the ports on which a die answers within 10 ms. -/
  answers : BitVec 6 := 0x3F
  /-- R24, R25: the straps read on each port. -/
  straps : Vector Straps 6 := #v[
    { index := 0, role := false, position := 0, parity := false },
    { index := 1, role := false, position := 1, parity := false },
    { index := 2, role := false, position := 2, parity := false },
    { index := 3, role := false, position := 3, parity := false },
    { index := 4, role := true, position := 0, parity := false },
    { index := 5, role := true, position := 1, parity := false }]
  /-- R28: the capability word of each die. -/
  caps : Vector Word 6 := #v[0x1113007F, 0x1113007F, 0x1113007F, 0x1113007F, 0x20031F00, 0x20031F00]
  /-- R396: module flash can be read. -/
  flashOk : Bool := true
  /-- R405: the slots whose flash read fails (REASON 0x8). -/
  unread : BitVec 2 := 0
  /-- R393: the chosen image does not reach READY. -/
  hangs : Bool := false
  /-- R231: the standby cluster answers. -/
  standby : Bool := true
  /-- R156: a stack that does not answer while its channels are trained. -/
  hankLost : Option HankId := none
  /-- R410: the DPU (row, column) that fails the boot-time test of a re-fused spindle, by spindle. -/
  refuseFail : Vector (Option (Nat × Nat)) 8 := .replicate 8 none
  /-- R425: the serial numbers of banks A and B. -/
  serial : Vector Nat 2 := #v[0, 0]
  /-- R430: a cable is detected in HOST-B. -/
  hostB : Bool := true
  deriving DecidableEq, Repr, Inhabited

/-- R107: a buffer or weight register error that a spindle meets while a step runs. -/
structure BufferError where
  /-- R103: the spindle of the unit's die. -/
  spindle : Fin 2 := 0
  /-- R107: the activation buffer (0), the accumulator store (1) or a weight register (2). -/
  buffer : Fin 3 := 0
  /-- R102: the bank of that buffer. -/
  bank : Fin 65 := 0
  /-- R102: SECDED corrects it; a weight register's parity error never. -/
  corrected : Bool := true
  /-- R107: the outputs that an uncorrectable error affects, as (m, n). -/
  outputs : List (Nat × Nat) := []
  deriving DecidableEq, Repr, Inhabited

/-- R109, R111: a ply: the step whose kernel it runs, its core, the slot it lies in there, and its number in the kernel. -/
structure PlyRef where
  step : Nat := 0
  core : Fin 64 := 0
  slot : Fin 256 := 0
  index : Nat := 0
  deriving DecidableEq, Repr, Inhabited

/-- R23, R134: the errors that a vector core meets in one instruction. -/
structure PlyErrors where
  /-- R134: a register file parity error. -/
  regParity : Bool := false
  cells : CellFaults := {}
  deriving DecidableEq, Repr, Inhabited

/-- R115, R116, R117: a memory access of a ply. The manual leaves the instruction encoding to the toolchain (R112): the
offsets that the lanes name come with the command. -/
structure PlyAccess where
  ref : PlyRef := {}
  /-- R119: region i of the kernel. -/
  region : Fin 16 := 0
  /-- The lanes that take part. -/
  mask : BitVec 32 := 0xFFFFFFFF
  /-- Offsets in the region: one for a vector or scalar access, one for each lane of a gather or scatter. -/
  offs : List (BitVec 40) := []
  /-- Bytes of each lane of a vector or scalar access. -/
  width : Nat := 4
  /-- R116: bytes of each lane of a gather or scatter. -/
  widths : List Nat := []
  /-- The first register of each lane. -/
  reg : Fin 256 := 0
  err : PlyErrors := {}
  deriving DecidableEq, Repr, Inhabited

/-- R112: what a lane's element is: an encoding of R85, FP32, or a 32-bit integer. -/
inductive LaneFmt where
  | fp32 | bf16 | fp16 | e4m3 | e5m2 | int32
  deriving DecidableEq, Repr, Inhabited

/-- R112: an operation on the lanes of a ply. -/
inductive LaneOp where
  | add | sub | mul | fma | div | sqrt | exp | exp2 | log2 | rsqrt | max | min | satAdd | satSub | satMul
  /-- A conversion to a format, to nearest even, truncated, or by the hash of R97 on operands it supplies. -/
  | convert (dst : LaneFmt)
  | convertTruncate (dst : LaneFmt)
  | convertRandom (dst : LaneFmt) (idx : BitVec 48) (tensor stepNo : Word)
  deriving DecidableEq, Repr, Inhabited

/-- R111, R119: where a lane's operand comes from: a register, a word of the kernel's parameters, its thread index. -/
inductive LaneSrc where
  | reg (r : Fin 256)
  | param (word : Fin 1024)
  | thread
  deriving DecidableEq, Repr, Inhabited

/-- R112: an arithmetic instruction of a ply: the register of its result, and its operands. -/
structure PlyArith where
  ref : PlyRef := {}
  fmt : LaneFmt := .fp32
  op : LaneOp := .add
  mask : BitVec 32 := 0xFFFFFFFF
  dst : Fin 256 := 0
  a : LaneSrc := .reg 0
  b : LaneSrc := .reg 0
  c : LaneSrc := .reg 0
  regParity : Bool := false
  deriving DecidableEq, Repr, Inhabited

/-- R112: a reduction over the 32 lanes of a ply. -/
inductive ReduceKind where
  | sum | max | min
  deriving DecidableEq, Repr, Inhabited

/-- R112: a reduction instruction: its source register, and the register of the lanes that take the result. -/
structure PlyReduce where
  ref : PlyRef := {}
  kind : ReduceKind := .sum
  mask : BitVec 32 := 0xFFFFFFFF
  dst : Fin 256 := 0
  src : Fin 256 := 0
  regParity : Bool := false
  deriving DecidableEq, Repr, Inhabited

/-- R113: a local-store atomic. -/
inductive LocalOp where
  | add | min | max | and | or | xor | swap | compareSwap
  deriving DecidableEq, Repr, Inhabited

/-- R113, R119: the lanes of a local-store atomic: those that take part, the offset of region i that each names, and the
errors that its core meets. -/
structure AtomicLanes where
  mask : BitVec 32 := 0xFFFFFFFF
  offs : List (BitVec 40) := []
  err : PlyErrors := {}
  deriving DecidableEq, Repr, Inhabited

/-- R113, R119: a local-store atomic of a ply: each lane that takes part, at its offset of region i, with its operands in
registers (two for 64 bits) and the register that takes the previous value. -/
structure PlyAtomic where
  ref : PlyRef := {}
  region : Fin 16 := 0
  lanes : AtomicLanes := {}
  wide : Bool := false
  op : LocalOp := .add
  a : Fin 256 := 0
  b : Fin 256 := 0
  dst : Option (Fin 256) := none
  deriving DecidableEq, Repr, Inhabited

/-- R145: who asks for a 64-bit atomic on a hank address: an engine outside the kernels, which names the address, or a lane
of a ply, which names an offset of region i (R119) and the register that takes the previous value. -/
inductive AtomicSrc where
  | unit (engine : Engine) (client : Client)
  | ply (ref : PlyRef) (lane : Fin 32) (err : PlyErrors)
  deriving DecidableEq, Repr, Inhabited

/-- R23, R134: a step of the vector cores: the cores that meet a register file parity error in it, and the cells that have
come to fail. -/
structure CoreStep where
  step : Nat := 0
  parity : List (Fin 64) := []
  cells : CellFaults := {}
  deriving DecidableEq, Repr, Inhabited

/-- R116, R135: the ply whose data is whole, and the cycles for which other plies have waited for its entries. -/
structure GatherEnd where
  slot : Fin 256 := 0
  cycles : Word := 0
  deriving DecidableEq, Repr, Inhabited

/-- R259, R263: a calibration request: its message, and what the far end's period is for, which the message does not say. -/
structure CalRequest where
  payload : List Byte := []
  cal : Bool := true
  train : Bool := false
  deriving DecidableEq, Repr, Inhabited

inductive SnoopKind where
  | data | inv | cur
  deriving DecidableEq, Repr, Inhabited
inductive SpillAnswer where
  | data (bytes : List Byte) | poison | failed
  deriving DecidableEq, Repr, Inhabited
inductive IdeKmOp where
  | setKeys (containment : Bool) | refresh
  deriving DecidableEq, Repr, Inhabited

/-- R260: why a strand is due for calibration: its age, a margin that has fallen, a lost lane; or that it has been due for
more than 60 s. -/
inductive CalWhy where
  | age | drift | lane | overdue
  deriving DecidableEq, Repr, Inhabited

/-- R258: what a calibration finds. -/
structure CalResult where
  /-- R258: transmit lanes that fail their check. -/
  txFail : List LaneId := []
  /-- R258: receive lanes that fail their check. -/
  rxFail : List LaneId := []
  /-- R267: lost transmit lanes that pass again. -/
  regained : List LaneId := []
  /-- R71: the strand's one-way latency, ns. -/
  latency : Option Half := none
  /-- R257: the true heater codes found: lane, filter (else modulator), code. -/
  codes : List (LaneId × Bool × BitVec 12) := []
  /-- R258: the stage 3 code of each receive lane, its new baseline. -/
  margins : List (LaneId × Half) := []
  /-- R266: the baseline codes of stages 0 to 3: stage, lane, code. -/
  stages : List (Fin 4 × LaneId × Half) := []
  deriving DecidableEq, Repr, Inhabited

/-- R348, R350: what the regulators and the stage 1 sampling say in one 100 µs interval. -/
structure RegReport where
  /-- R366: the input voltage, 10 mV units. -/
  vin : Half := 0
  /-- R350: the P_IN reading, W. -/
  pIn : Half := 0
  /-- R348: the measured power of the six dies, W. -/
  dieW : Vector Half 6 := .replicate 6 0
  /-- R355: the 10 ms mean would still exceed the cap at the end of the next frame. -/
  short : Bool := false
  deriving DecidableEq, Repr, Inhabited

/-- R374: an area of module flash. -/
inductive FlashArea where
  | records | log | staging | snapshots | slots
  deriving DecidableEq, Repr, Inhabited

/-- R406: a unit of the in-service test: its KIND, its die (0 for a channel or a strand) and its number in it. -/
structure UnitId where
  kind : Fin 8 := 0
  die : Fin 6 := 0
  unit : Fin 2048 := 0
  deriving DecidableEq, Repr, Inhabited

/-- R407, R409: what one segment, cut or whole test of a unit gives. -/
structure SegResult where
  /-- R407: the segments or words this window covers. -/
  count : Nat := 1
  /-- R409: a comparison did not match: for KIND 0x0 the DPU's row and column, for KIND 0x5 the set, for KIND 0x7 the lane
  and 0 for transmit or 1 for receive, else zeros. -/
  fail : Option (Nat × Nat) := none
  deriving DecidableEq, Repr, Inhabited

/-- R418: one reading of the module's sensors; `none` where a sensor gives no reading. -/
structure ModuleReading where
  inlet : Option (BitVec 10) := none
  outlet : Option (BitVec 10) := none
  flow : Option Half := none
  leakA : Option Bool := none
  leakB : Option Bool := none
  deriving DecidableEq, Repr, Inhabited

/-- R380: a buddy generation as the buddy hands it over: the image tag, and each shard as step, offset in the step's
block, and bytes. -/
structure Generation where
  tag : Nat := 0
  shards : List (Nat × Nat × List Byte) := []
  deriving DecidableEq, Repr, Inhabited

/-- The commands: every step of the opcode table, in its order. -/
inductive Instr where
  /-- R395: Power-on, a COLD request or a long undervoltage runs the full boot sequence from fuse check to READY. -/
  | coldReset (env : BootEnv)
  /-- R40: A PACKAGE reset is triggered (watchdog with no standby, uncorrectable flyer SRAM error with no standby, debug unlock) and reboots without relighting lasers. -/
  | packageReset (env : BootEnv)
  /-- R26: A die that has not answered 10 ms after the first training attempt halts boot with E_DIE_ABSENT. -/
  | dieAnswerTimeout (die : Die)
  /-- R394: One SVN fuse bit finishes blowing and is verified, and the next bit of the commit begins. -/
  | svnBitBlown (ok : Bool)
  /-- R227: A CXL function-level reset resets host queues and CXL.io function state while admitted work continues. -/
  | flr
  /-- R227: A link down, a hot reset or PERST# resets the port as a conventional reset. -/
  | hotReset
  /-- R347: Input below 57 V for more than 1 ms causes a COLD reset. -/
  | inputUndervoltage
  /-- R347: Input falls below 57 V for at most 1 ms and sets INPUT_LOW. -/
  | inputLowDip
  /-- R347: Input between 68 V and 72 V sets INPUT_HIGH. -/
  | inputHigh
  /-- R347: Input above 72 V for more than 50 µs shuts stage 1 down and the device is OFF. -/
  | inputOvervoltage
  /-- R420: PRESENT# breaks, stage 1 shuts down within 50 µs and the device loses power. -/
  | presentBreak
  /-- R420: After PRESENT# and 100 ms of input in range, stage 1 starts and power-on follows. -/
  | stage1Start
  /-- R38: A compute die is asked to change operating point, and its target loop begins to lock. -/
  | opTransitionRequest (die : CDie) (op : Fin 8)
  /-- R38: The target loop locks, and the voltage change or clock switch of the transition proceeds. -/
  | targetLoopLock (die : CDie)
  /-- R38: The voltage settles after the clock switch and the transition ends, starting any request that was waiting. -/
  | opTransitionComplete (die : CDie)
  /-- R39: The 156.25 MHz reference is lost and the loops enter holdover. -/
  | referenceLoss
  /-- R39: The reference returns within 100 µs and the loops relock, setting REF_LOST. -/
  | referenceReturn
  /-- R39: Holdover expires after 100 µs without the reference, every die stops its clocks and the device enters FAILED. -/
  | holdoverExpiry
  /-- R44: A die's loop loses lock, its clocks stop and a relock begins. -/
  | loopLossOfLock (die : Die)
  /-- R44: A relock completes and the die's clocks resume. -/
  | relockComplete (die : Die)
  /-- R19: A die-to-die flit fails its CRC and is replayed, and a retrain is queued once replays reach their threshold. -/
  | flitCrcFail (link : Fin 26)
  /-- R44: A queued die-to-die link retrain starts at a frame start. -/
  | d2dRetrainStart (link : Fin 26)
  /-- R44: A link retrain completes, and after three in an hour the weakest wire is mapped to a spare. -/
  | d2dRetrainComplete (link : Fin 26)
  /-- R67: A tick block arrives, its fields are taken, it is relayed to children and the frame start is scheduled. -/
  | tick (strand : StrandId) (payload : List Byte)
  /-- R47: The alignment delay after a tick expires and the frame begins with its index, stretch and period. -/
  | frameBegin (skew : Half)
  /-- R68: The hold point is reached and the device sends its reply with its stretch, hold and flags. -/
  | holdPoint (finishNs nextNs : Nat)
  /-- R354: Each compute die chooses its ladder step for the next frame 2 µs before the hold point. -/
  | stepChoice
  /-- R73: A device sends its supplementary reply with a larger HOLD at its new hold point. -/
  | supplementaryReply (holdUs : Nat)
  /-- R68: A relay or the whorl receives a tick reply and combines it. -/
  | tickReply (strand : StrandId) (payload : List Byte)
  /-- R68: A relay's forwarding deadline expires and it forwards its combined reply without the missing children. -/
  | replyDeadline
  /-- R74: The whorl's emission time arrives and it emits the next tick with STRETCH, HELD and flags. -/
  | tickEmit
  /-- R72: The standby sees no tick by E(N)+2P+2 µs, becomes the whorl and emits a tick with FAIL_PREV. -/
  | whorlTakeover
  /-- R62: The stopped program's in-device work completes and the device goes from DRAINING to READY. -/
  | drainComplete
  /-- R47: A frame-program step completes and the steps that depend on it become ready. -/
  | stepComplete (step : Nat)
  /-- R174: A producer step issues its last write and the release of its SYNC pair is carried out. -/
  | syncRelease (entry : Nat)
  /-- R179: In an NMX2COMPAT image an implied barrier waits for writes and flushes caches before a step starts. -/
  | nmx2Barrier (step : Nat)
  /-- R104: A spindle step computes Y = X·Wᵀ in the exact or canonical regime and writes or keeps the accumulators. -/
  | matmul (step : Nat) (reached : Fin 9) (errs : List BufferError)
  /-- R119: A vector-core step runs a code object over THREADS threads. -/
  | kernel (step : Nat)
  /-- R128: An attention step checks its descriptor, positions, pages and bounds, then writes final outputs or partial records. -/
  | attend (step : CoreStep)
  /-- R132: A MERGE step checks order and folds runs of partial records in ascending segment order. -/
  | merge (step : CoreStep)
  /-- R285: A transfer step sends a PUT, PUT_REDUCE, GET or SIGNAL on a circuit or on the packet class. -/
  | xfer (step : Nat)
  /-- R328: A collective step reduces a vector around the skein ring in both directions and gathers the result. -/
  | allReduce (step : Nat)
  /-- R328: A collective step runs the reduce steps only, leaving each member with its block reduced. -/
  | reduceScatter (step : Nat)
  /-- R328: A collective step runs the gather steps only, distributing each member's block to all. -/
  | allGather (step : Nat)
  /-- R245: A flyer step posts an event record with SOURCE 0x0E. -/
  | post (step : Nat)
  /-- R245: A flyer step copies up to 64 KiB between regions as kind 0x4. -/
  | flyerCopy (step : Nat)
  /-- R115: A vector load reads 64-byte sectors from hank channels or local store. -/
  | vectorLoad (a : PlyAccess)
  /-- R115: A vector store writes 64-byte sectors to hank channels or local store. -/
  | vectorStore (a : PlyAccess)
  /-- R22: A scalar load reads through the remote-line cache for another die's channel, or directly otherwise. -/
  | scalarLoad (a : PlyAccess)
  /-- R22: A scalar store writes through the remote-line cache for another die's channel, or directly otherwise. -/
  | scalarStore (a : PlyAccess)
  /-- R116: A ply's gather groups lanes by half burst into gather-queue entries on the narrow path. -/
  | gather (a : PlyAccess)
  /-- R116: A gather-queue entry frees and a ply waiting for one issues. -/
  | gatherEntryFree (die : CDie) (index : Fin 1024) (cycles : Word)
  /-- R116: The last lane's data returns and the waiting ply continues. -/
  | gatherDataReturn (die : CDie) (core : Fin 64) (ply : GatherEnd)
  /-- R117: A ply's scatter writes half bursts, the higher lane winning on overlap. -/
  | scatter (a : PlyAccess)
  /-- R113: A 32-bit or 64-bit integer atomic is performed on local store. -/
  | localStoreAtomic (ref : PlyRef) (region : Fin 16) (lanes : AtomicLanes) (wide : Bool) (op : LocalOp) (a b : Fin 256) (dest : Option (Fin 256))
  /-- R145: A 64-bit fetch-add or compare-swap is performed at the channel controller as a read-modify-write. -/
  | hankAtomic (src : AtomicSrc) (region : Fin 16) (addr : BitVec 40) (op : AtomicOp) (dest : Option (Fin 256))
  /-- R112: A vector arithmetic or conversion instruction computes its IEEE-defined result. -/
  | vectorArith (a : PlyArith)
  /-- R112: A ply sum, max or min reduction runs as a fixed pairwise tree. -/
  | plyReduction (a : PlyReduce)
  /-- R112: A block sum of R93 is applied to a ply's 32 lane values. -/
  | bsum32 (a : PlyReduce)
  /-- R168: A release over a range and scope completes once writes are issued, dirty lines are written back and remote operations are acknowledged. -/
  | release (engine : Engine) (base len : Nat) (scope : Scope) (cells : CellFaults)
  /-- R169: An acquire over a range makes stale copies current and orders later reads. -/
  | acquire (engine : Engine) (base len : Nat) (scope : Scope) (cells : CellFaults)
  /-- R142: A streaming access reaches a channel controller, merging partial writes in the write-merging buffer. -/
  | streamAccess (a : MemAccess)
  /-- R143: A narrow half-burst access reaches a channel controller, flushing any merging entry of its block first. -/
  | narrowAccess (a : MemAccess)
  /-- R142: A write-merging entry held for 1 µs is written to the stack by a masked write. -/
  | wmbEntryTimeout (block : Nat)
  /-- R147: A burst fails its CRC and is sent again, up to three times, then fails with E_DATA_ERROR and a retrain is queued. -/
  | burstCrcMismatch (chan : ChanId) (transfers : List Burst) (client : Client)
  /-- R149: The stack's own scrub corrects or finds an uncorrectable block and records it. -/
  | stackScrub (block : Nat) (bad : Bool)
  /-- R151: The refresh interval of the hank's temperature band expires and a refresh is issued. -/
  | refresh (hank : HankId)
  /-- R150: In a window with channels free, the row of an uncorrectable block is copied into a spare row. -/
  | rowRepair (block : Nat)
  /-- R150: A row repair completes within 400 µs and channel traffic resumes. -/
  | rowRepairComplete
  /-- R154: A queued retrain or pin repair starts at the next frame start with a planned stretch. -/
  | channelActionStart
  /-- R154: A channel retrain finishes verification and held accesses resume, or a pin repair is queued. -/
  | retrainComplete (ok : Bool) (margins : List Nat)
  /-- R155: A pin repair maps the weakest pin to a spare, retrains and records the pin map. -/
  | pinRepairComplete (ok : Bool) (margins : List Nat)
  /-- R156: A stack silent for more than 100 µs on a channel causes the hank to be lost. -/
  | stackNoAnswer (chan : ChanId)
  /-- R360: The housekeeping round reads its next temperature channel every 2.604 µs. -/
  | thermalChannelRead (reading : Option (BitVec 10))
  /-- R362: The stop's write-back ends, hanks self-refresh, clocks stop, the device enters FAILED and E_DEVICE_FAILED is posted. -/
  | orderlyStopComplete
  /-- R361: At each round the die bands and thermal limits are updated. -/
  | thermalRound
  /-- R363: A 112 °C comparator stops clocks at once and the device enters FAILED with THM_TRIP latched. -/
  | analogTrip (die : Die)
  /-- R257: Each 1 ms round, engine temperature sets every ring heater from its table. -/
  | heaterUpdate
  /-- R140: The Casbomi command sets the placement mode of a run of groups. -/
  | memPlace (mbx : MbxId)
  /-- R159: A write of GO to HNK_LB_CTRL starts a near or far loop-back test of one channel, or is refused. -/
  | loopbackGo (hank : HankId) (value : Word)
  /-- R159: A host-started loop-back test finishes and reports PASS and PIN_FAIL. -/
  | loopbackDone (hank : HankId) (pinFail : BitVec 19)
  /-- R161: A write to HNK_PROBE_HI commits a probe and yields channel and granule for the address. -/
  | hnkProbe (value : Word)
  /-- R184: A write to VIS_RLC_CTRL resizes the flyer partition after a full flush, or is ignored with CTRL_REFUSED. -/
  | visRlcCtrlWrite (die : CDie) (value : Word)
  /-- R188: The Casbomi command assigns or removes a doorbell page's queue range. -/
  | queuePage (mbx : MbxId)
  /-- R188: The Casbomi command writes a new queue descriptor after checking its ring. -/
  | queueCreate (mbx : MbxId)
  /-- R188: The Casbomi command rebinds a queue's ring and increments its epoch. -/
  | queueRebind (mbx : MbxId)
  /-- R188: The Casbomi command disables a queue and waits for INFLIGHT to reach zero. -/
  | queueDestroy (mbx : MbxId)
  /-- R188: INFLIGHT reaches zero and the destroyed queue's CLASS is set to unused. -/
  | queueDestroyDone (mbx : MbxId)
  /-- R191: The Casbomi command checks and binds a new region entry and returns its handle. -/
  | regionBind (mbx : MbxId)
  /-- R192: The Casbomi command checks a new extent and waits for in-flight operations on the region. -/
  | regionRebind (mbx : MbxId) (sinceUs : Nat)
  /-- R192: The Casbomi command frees a region once its operations drain, incrementing GEN. -/
  | regionFree (mbx : MbxId) (sinceUs : Nat)
  /-- R192: Operations naming the handle drain and the new region entry is written with the epoch or GEN incremented. -/
  | regionRebindDone (mbx : MbxId)
  /-- R194: A 32-bit write to a doorbell page's low word is held until the high word commits. -/
  | doorbellLowWrite (page : BitVec 12) (value : Word)
  /-- R195: A committed doorbell is checked and advances a request queue's TAIL or a completion queue's HEAD. -/
  | doorbell (page : BitVec 12) (low : Option Word) (high : Word)
  /-- R203: With a non-row tag free, the scheduler picks a queue by priority and credit and starts its head command. -/
  | commandSelect
  /-- R197: The command does nothing and completes. -/
  | nop (tag : TagId)
  /-- R197: The command copies LENGTH bytes between local regions. -/
  | copy (tag : TagId)
  /-- R197: The command fills a range with an 8-byte pattern. -/
  | fill (tag : TagId)
  /-- R197: The command sends local bytes to a global address on the packet class. -/
  | put (tag : TagId)
  /-- R197: The command fetches remote bytes into a local region. -/
  | get (tag : TagId)
  /-- R197: The command reduces local elements into a remote target. -/
  | putReduce (tag : TagId)
  /-- R197: The command performs a remote 64-bit fetch-add and returns the previous value. -/
  | fetchAdd (tag : TagId)
  /-- R197: The command performs a remote 64-bit compare-swap and returns the previous value. -/
  | compareSwap (tag : TagId)
  /-- R198: The command sends data and then increments a remote counter. -/
  | signal (tag : TagId)
  /-- R205: A ROW command waits for admission into a row that the frame program serves. -/
  | row (queue : QueueId)
  /-- R207: A completion entry is written once its ring has room, and MSI-X is sent if enabled. -/
  | commandCompletion (tag : TagId)
  /-- R217: Unmasking a vector with its pending bit set sends the message. -/
  | msixUnmask (vector : Option (BitVec 11))
  /-- R218: A host M2S read of a window line is served, with poison if the block is uncorrectable. -/
  | hostMemRead (hpa : Quad) (keep own : Bool)
  /-- R218: A host M2S write of a full or partial window line is performed. -/
  | hostMemWrite (hpa : Quad) (mask : Quad) (data : List Byte)
  /-- R220: A BIRsp and any written-back data arrive and free the snoop-filter entry. -/
  | birsp (line : Nat) (data : Option (List Byte))
  /-- R223: A SnpData, SnpInv or SnpCur from the host is answered from the spill agent's cache. -/
  | hostSnoop (kind : SnoopKind) (hpa : Quad)
  /-- R223: An access to a spilled zone is served by the spill agent, fetching lines by CXL.cache on a miss. -/
  | spillAccess (a : MemAccess)
  /-- R224: A CXL.cache response fills a spill line, or a poisoned or failed one gives an error and fails the frame. -/
  | spillFill (addr : BitVec 40) (answer : SpillAnswer)
  /-- R219: The Casbomi command sets a new window base and size. -/
  | hostWindow (mbx : MbxId)
  /-- R222: The Casbomi command maps a hank zone onto host memory. -/
  | hostSpill (mbx : MbxId)
  /-- R222: The Casbomi command removes a zone's spill mapping. -/
  | hostUnspill (mbx : MbxId)
  /-- R219: The host commits the HDM decoder, setting Error Not Committed if its size differs. -/
  | hdmDecoderCommit (base size : Quad)
  /-- R224: Setting Cache Writeback and Invalidate begins writing back and invalidating the spill agent's cache. -/
  | cacheWbInv
  /-- R224: The writeback and invalidate completes. -/
  | cacheWbInvDone
  /-- R225: An IDE integrity check fails, the stream becomes Insecure and host-facing traffic stops. -/
  | ideIntegrityFail (cachemem : Bool)
  /-- R228: A host-link correctable error is counted and may cause recovery or a rate downgrade. -/
  | linkCorrectableError
  /-- R214: The host link enters recovery and host-facing traffic waits. -/
  | linkRecovery
  /-- R215: The function enters D3hot and stops decoding BARs and sending MSI-X. -/
  | d3hotEntry
  /-- R226: A DOE Discovery object is answered. -/
  | doeDiscovery (index : Byte)
  /-- R226: A CDAT request returns the DSMAS and DSLBIS entries of the window. -/
  | cdatRead
  /-- R398: The SPDM request is answered with the supported versions. -/
  | getVersion (req : List Byte)
  /-- R398: The SPDM request is answered with the responder's capabilities. -/
  | getCapabilities (req : List Byte)
  /-- R398: The SPDM request fixes the algorithms. -/
  | negotiateAlgorithms (req : List Byte)
  /-- R398: The SPDM request returns the certificate chain digest of slot 0. -/
  | getDigests (req : List Byte)
  /-- R398: The SPDM request returns the chain of slot 0. -/
  | getCertificate (req : List Byte)
  /-- R398: The SPDM request is answered with CHALLENGE_AUTH signed by the identity key. -/
  | challenge (req : List Byte)
  /-- R399: The SPDM request returns signed measurement blocks, assembled in one flyer step. -/
  | getMeasurements (req : List Byte)
  /-- R398: The SPDM request opens a session, refused beyond two sessions. -/
  | keyExchange (req : List Byte)
  /-- R398: The SPDM request completes session establishment. -/
  | finish (session : Word) (ok : Bool)
  /-- R398: The SPDM request keeps a session alive. -/
  | heartbeat (session : Word)
  /-- R398: The SPDM request updates a session's keys. -/
  | keyUpdate (session : Word)
  /-- R398: The SPDM request closes a session. -/
  | endSession (session : Word)
  /-- R225: IDE_KM messages inside a session set or refresh IDE keys. -/
  | ideKm (session : Word) (cachemem : Bool) (op : IdeKmOp)
  /-- R236: A write of GO to MBX_CTRL queues the mailbox's command, or is ignored with GO_IGNORED. -/
  | mbxGo (mbx : MbxId)
  /-- R240: A write of CANCEL to MBX_CTRL cancels a queued, waiting or cancellable command, or is ignored. -/
  | mbxCancel (mbx : MbxId)
  /-- R236: A flyer core accepts a queued command, checks it and writes its first status. -/
  | mbxAccept (us steps : Word)
  /-- R237: A flyer core runs one step of an IN_PROGRESS command and mirrors it to the standby. -/
  | mailboxStep
  /-- R244: A write to MBX_EVT_HEAD consumes event records, ignored if it would pass the tail. -/
  | mbxEvtHeadWrite (mbx : MbxId) (value : Word)
  /-- R231: Every 100 µs the active cluster sends a heartbeat to the standby. -/
  | flyerHeartbeat
  /-- R232: The standby takes over after 2 ms without a heartbeat, resuming commands from their last step. -/
  | standbyTakeover
  /-- R232: The 10 ms watchdog expires, causing a takeover or, with no standby, a PACKAGE reset. -/
  | watchdogExpiry
  /-- R232: The standby stops acknowledging mirror data, and mirroring stops. -/
  | standbyLost
  /-- R248: A flyer SRAM ECC event is corrected or leads to scrub, takeover or a PACKAGE reset. -/
  | flyerSramEcc (active uncorrectable : Bool)
  /-- R243: The Casbomi command returns part, capability, firmware and identity data. -/
  | devInfo (mbx : MbxId)
  /-- R234: The Casbomi command changes a mailbox's owner, kind and vector. -/
  | mbxAssign (mbx : MbxId)
  /-- R305: The Casbomi command sets the power-feed identifier carried in hellos. -/
  | devFeed (mbx : MbxId)
  /-- R40: The Casbomi command performs a COMPUTE reset, or refuses where FAILED needs a heavier reset. -/
  | resetCompute (mbx : MbxId)
  /-- R40: The Casbomi command answers S_OK and then performs a PACKAGE reset. -/
  | resetPackage (mbx : MbxId)
  /-- R57: The Casbomi command checks a frame program image in order and keeps it if every check passes. -/
  | frameLoad (mbx : MbxId)
  /-- R58: The Casbomi command makes the whorl announce a start at frame N0, or a RESUME. -/
  | frameStart (mbx : MbxId)
  /-- R64: The Casbomi command makes the whorl set STOP with SUSPEND or ABORT in the next tick. -/
  | framePreempt (mbx : MbxId)
  /-- R243: The Casbomi command discards a loaded image that is not running or pending. -/
  | frameUnload (mbx : MbxId)
  /-- R308: The Casbomi command checks and loads a topology plan. -/
  | planLoad (mbx : MbxId)
  /-- R311: The Casbomi command accepts the loaded plan as a revision or a new domain and reports the match. -/
  | planAccept (mbx : MbxId)
  /-- R324: The Casbomi command returns 64 strand records. -/
  | topoStatus (mbx : MbxId)
  /-- R273: The Casbomi command returns laser records for the requested banks. -/
  | laserStatus (mbx : MbxId)
  /-- R351: The Casbomi command sets the power cap and reports the floor. -/
  | capSet (mbx : MbxId)
  /-- R366: The Casbomi command returns the 64-byte power record. -/
  | powerStatus (mbx : MbxId)
  /-- R376: The Casbomi command takes a snapshot at a consistent point, using pause frames while copying. -/
  | snapshotTake (mbx : MbxId)
  /-- R376: The snapshot copy finishes, pause frames end and the snapshot is complete. -/
  | snapshotCopyDone (ms : Nat)
  /-- R377: The Casbomi command checks and writes back a snapshot or a buddy generation. -/
  | snapshotRestore (mbx : MbxId) (readable : Bool) (fetched : Option Generation)
  /-- R378: The Casbomi command assigns or clears this device's buddy. -/
  | buddySet (mbx : MbxId)
  /-- R378: A buddy assignment or release packet arrives and the buddy answers with its FEED or discards staging. -/
  | buddyAssignment (payload : List Byte)
  /-- R382: The Casbomi command sets MTBF and device count and returns the snapshot interval. -/
  | failFeed (mbx : MbxId)
  /-- R384: The Casbomi command copies input-log frame records to a region or host memory. -/
  | logRead (mbx : MbxId)
  /-- R397: The Casbomi command verifies a firmware image and writes it PENDING to the non-active slot. -/
  | fwUpdate (mbx : MbxId)
  /-- R400: The Casbomi command returns the eight measurements unsigned. -/
  | attestMeasure (mbx : MbxId)
  /-- R403: The Casbomi command sets or clears SIGNED_FRAMES for a tenant. -/
  | tenantPolicy (mbx : MbxId)
  /-- R404: debug.unlock phase 0x00 issues a fresh challenge. -/
  | debugUnlockChallenge (mbx : MbxId)
  /-- R404: debug.unlock phase 0x01 verifies the signed response and, on success, unlocks and resets the package. -/
  | debugUnlockResponse (mbx : MbxId)
  /-- R404: A debug challenge expires 60 s after issue. -/
  | debugChallengeExpiry
  /-- R411: The Casbomi command makes the named units due and completes when they have been tested. -/
  | testSchedule (mbx : MbxId)
  /-- R412: The Casbomi command returns the 256-byte test record. -/
  | testStatus (mbx : MbxId)
  /-- R255: Every 10 ms each laser's drive moves by at most 0.1 mA toward its target, capped at DRIVE_MAX. -/
  | laserDriveAdjust (power : List Half)
  /-- R256: A laser output below 10 % or a loss-of-light trip turns the laser off and drops its lanes. -/
  | laserFailure (bank : BankId) (laser : LaneId)
  /-- R260: A strand becomes due for calibration by age, margin drift or a lost lane. -/
  | calibrationDue (strand : StrandId) (why : CalWhy)
  /-- R259: In a suitable period the lower-digest end starts a joint calibration of the strand. -/
  | calibrationStart (strand : StrandId)
  /-- R258: A calibration ends, restoring maps, updating baselines and latency, or failing lanes. -/
  | calibrationComplete (r : CalResult)
  /-- R263: A calibration request lane-control message is answered with accept or refuse. -/
  | calibrationRequest (strand : StrandId) (request : CalRequest)
  /-- R263: A calibration accept message lets the starting end begin. -/
  | calibrationAccept (strand : StrandId)
  /-- R259: A calibration refuse message defers the calibration to the next period. -/
  | calibrationRefuse (strand : StrandId)
  /-- R264: A receiver's loss of light or bit lock loses a lane and a drop request is sent. -/
  | laneLoss (strand : StrandId) (lane : LaneId)
  /-- R264: The sender receives a drop request and announces a map without the lane. -/
  | dropRequest (strand : StrandId) (payload : List Byte)
  /-- R263: An unacknowledged drop request is sent again every 64 blocks. -/
  | dropRequestRepeat (strand : StrandId)
  /-- R252: A map announce message tells the receiver the new lane map and its AT_SEQ. -/
  | mapAnnounce (strand : StrandId) (payload : List Byte)
  /-- R252: Both ends switch lane maps at the announced block sequence number. -/
  | mapSwitch (strand : StrandId) (receive : Bool)
  /-- R263: A margin report from the far end updates transmit margins. -/
  | marginReport (strand : StrandId) (payload : List Byte)
  /-- R263: No margin report for 100 ms leaves the strand out of bank decisions. -/
  | marginReportTimeout (strand : StrandId)
  /-- R268: Every 10 ms margins are read, reports are sent and bank margins recomputed. -/
  | marginReading (readings : List (Nat × Nat × Nat))
  /-- R266: 100 µs stage readings locate a lost lane and S_LANE_DROP is posted. -/
  | lossLocation (strand : StrandId) (lane : LaneId) (codes : Vector Half 4)
  /-- R267: A lane that passes again is restored at a frame boundary with a 1 µs planned stretch. -/
  | laneRestore (strand : StrandId) (lane : LaneId)
  /-- R268: Laser 8 reaches target and locks within 20 ms, and L8 training begins. -/
  | laser8Locked (bank : BankId) (ok : Bool)
  /-- R268: L8 finishes training on a strand and the sender mirrors the fading lane onto it. -/
  | l8Trained (strand : StrandId) (mirrored : Option LaneId)
  /-- R268: A mirror verified message counts a strand ready for the spare swap. -/
  | mirrorVerified (strand : StrandId)
  /-- R268: No mirror verified within 100 ms of training retrains L8 in the next period. -/
  | mirrorTimeout (strand : StrandId)
  /-- R268: At a frame start every strand of the bank moves the fading lane to L8 and the laser is retired. -/
  | spareSwap (bank : BankId)
  /-- R272: A write of GO to OPT_MON_SEL starts a monitor reading. -/
  | optMonGo (value : Word)
  /-- R272: A monitor reading completes and sets VALID in OPT_MON_VALUE. -/
  | monitorReadingDone (code : Half)
  /-- R277: A link block arrives, its CRC and SEQ are checked, its ACK and NAK are taken and it is accepted or a NAK is raised. -/
  | blockReceive (strand : StrandId) (block : List Byte)
  /-- R277: The oldest held block is not acknowledged in time and the sender resends from it. -/
  | replayTimeout (strand : StrandId)
  /-- R285: A circuit open block starts a transfer, checked against R193 at the target or forwarded by transit. -/
  | circuitOpen (strand : StrandId) (route : BitVec 56) (payload : List Byte)
  /-- R286: A circuit data block is performed at the target or forwarded cut-through or buffered at a relay. -/
  | circuitData (strand : StrandId) (route : BitVec 56) (payload : List Byte)
  /-- R285: A circuit close block ends a transfer, its CHECK is tested and an acknowledgement is sent. -/
  | circuitClose (strand : StrandId) (route : BitVec 56) (payload : List Byte)
  /-- R293: A PUT data packet is checked and performed, and the message completes when all packets are counted. -/
  | putData (payload : List Byte) (marks : Fin 128)
  /-- R293: A PUT_REDUCE data packet is combined into its target sectors once. -/
  | putReduceData (payload : List Byte) (marks : Fin 128)
  /-- R297: A GET request is checked with REMOTE_READ and answered with GET-data messages. -/
  | getRequest (payload : List Byte) (marks : Fin 128)
  /-- R297: GET data is checked against the requester's destination region and performed. -/
  | getData (payload : List Byte) (marks : Fin 128)
  /-- R297: A fetch-add packet is performed at the target controller and answered by an atomic reply. -/
  | fetchAddPacket (payload : List Byte) (marks : Fin 128)
  /-- R297: A compare-swap packet is performed at the target controller and answered by an atomic reply. -/
  | compareSwapPacket (payload : List Byte) (marks : Fin 128)
  /-- R297: An atomic reply returns the previous value and completes the atomic. -/
  | atomicReply (payload : List Byte) (marks : Fin 128)
  /-- R297: A SIGNAL increment packet is checked and atomically added to its counter, including peer tails. -/
  | signalIncrement (payload : List Byte) (marks : Fin 128)
  /-- R294: An acknowledgement completes a message, updates the destination rate and may complete an operation. -/
  | acknowledgement (payload : List Byte) (marks : Fin 128)
  /-- R295: A re-request makes the source resend every packet of the message. -/
  | reRequest (payload : List Byte) (marks : Fin 128)
  /-- R297: A synchronisation packet is counted against its SYNC entry and acknowledged. -/
  | synchronisation (payload : List Byte) (marks : Fin 128)
  /-- R287: A lane notice limits the source's blocks per slot in a reservation. -/
  | laneNotice (payload : List Byte) (marks : Fin 128)
  /-- R291: A transit packet waiting 16 block times takes any candidate strand and increments MARKS. -/
  | transitDeflect (index : Nat)
  /-- R291: A transit packet with no strand after 256 block times is dropped and counted. -/
  | transitDrop (index : Nat)
  /-- R295: An incomplete message reaches eight frames and a re-request is sent, or the receiver gives up. -/
  | rerequestTimer (src : BitVec 14) (msg : Half)
  /-- R295: An unanswered message reaches 16 frames and is resent, or the source gives up with E_UNREACHABLE. -/
  | resendTimer (msg : Half)
  /-- R297: An unacknowledged synchronisation packet is resent every 2 µs. -/
  | syncResend
  /-- R303: A hello gives a latency sample and updates the strand's neighbour state. -/
  | hello (strand : StrandId) (payload : List Byte) (t : Quad)
  /-- R302: The hello interval expires and a hello is sent. -/
  | helloSend (strand : StrandId) (t : Quad)
  /-- R304: No hello within 20 ms of service leaves the strand without a neighbour. -/
  | neighbourTimeout (strand : StrandId)
  /-- R304: A neighbour's hellos stop for 50 ms and it is lost. -/
  | neighbourLost (strand : StrandId)
  /-- R313: An alignment block gives depth and tick latency and is forwarded to children. -/
  | alignment (strand : StrandId) (payload : List Byte)
  /-- R313: A summary block from a child updates counts and may complete this device's own summary. -/
  | summary (strand : StrandId) (payload : List Byte)
  /-- R313: 20 ms after alignment a device sends its summary without missing children. -/
  | summaryTimeout
  /-- R315: Every 100 ms after forming a device sends a fresh summary. -/
  | summaryRefresh
  /-- R313: The whorl computes A and A' and sends the form block when counts are in or 1 s has passed. -/
  | formTimeout
  /-- R313: A form block records A and A', sets FORMED and is forwarded. -/
  | form (strand : StrandId) (payload : List Byte)
  /-- R313: 100 µs after the form block the whorl emits tick 0 and H_L is fixed. -/
  | tickZero
  /-- R318: A member with no tick for 4P + 2 µs fails its frame and sets TICK_LOST. -/
  | tickLoss
  /-- R339: A collective chunk's open block is compared field by field, then combined or written and credited. -/
  | collectiveChunk (strand : StrandId) (opening data : List Byte) (check : Word)
  /-- R336: A credit-only chunk returns credits to the sender's window. -/
  | creditOnly (strand : StrandId) (opening : List Byte)
  /-- R340: An abort chunk is forwarded once and the collective completes with E_SKEIN_ABORTED. -/
  | abortChunk (strand : StrandId) (opening : List Byte)
  /-- R348: Every 100 µs regulators report and module input power is sampled. -/
  | regulatorReport (r : RegReport)
  /-- R356: Every 100 µs each die sends its budget message. -/
  | budgetSend (die : Die)
  /-- R356: A budget message is received and the budgets for the next interval are computed. -/
  | budgetMessage (die : Die)
  /-- R358: A rail below 94 % or 90 % stretches the die's clocks by 25 % or 50 %. -/
  | droopDetect (die : CDie) (deep : Bool)
  /-- R358: A rail above 96 % for 64 cycles returns the clocks to nominal. -/
  | droopRecover (die : CDie) (us : Nat) (long : Bool)
  /-- R351: Every 100 ms FLOOR_W is recomputed and CAP_UNREACHABLE re-evaluated and posted if newly set. -/
  | capReevaluation (floorW : Half)
  /-- R352: A 256 ns duty granule boundary pauses or resumes a die's issue. -/
  | dutyGranule (die : CDie) (granule : Fin 16)
  /-- R381: Health mode or the interval makes an automatic snapshot due. -/
  | autoSnapshot
  /-- R381: Every 100 ms the health estimate H is recomputed. -/
  | healthRecompute (l2 l3 hour : Unit)
  /-- R383: The flyer drains staged input-log records to flash in frame order. -/
  | logDrain
  /-- R373: A module flash error fails the operation with E_FLASH, retries on another block and retires failing blocks. -/
  | flashError (area : FlashArea)
  /-- R369: An error window reaches its length, closes and its count returns to zero. -/
  | errorWindowClose (row : Fin 49) (sub : Nat) (key : Nat)
  /-- R408: A unit becomes due 4 hours after its last test, and a planned stretch is requested when 20 hours overdue. -/
  | unitDue (unit : UnitId) (overdue : Bool)
  /-- R407: An idle window runs a segment or whole test of a due unit. -/
  | testSegment (unit : UnitId) (r : SegResult)
  /-- R415: A write of GO to TST_DBG_CTRL performs one debug access while unlocked. -/
  | tstDbgGo (value : Word)
  /-- R418: Every 100 ms coolant and leak sensors are read and conditions reported and alerted. -/
  | moduleSensorRead (r : ModuleReading)
  /-- R428: A sideband READ returns one register value. -/
  | sbRead (offset : Word)
  /-- R428: A sideband COLD request performs a COLD reset. -/
  | sbCold
  /-- R428: A sideband PACKAGE request performs a PACKAGE reset. -/
  | sbPackage
  /-- R428: A sideband chunk is appended to the recovery image. -/
  | recoveryData (offset : Word) (data : List Byte)
  /-- R428: The boot ROM verifies the recovery image and writes it to slot A as PENDING. -/
  | recoveryCommit (len : Word)
  /-- R10: A write to the high word of a 64-bit register pair commits the whole value. -/
  | regPairHighWrite (offset value : Word)
  /-- R10: A read of the low word of a register pair latches the high word. -/
  | regLowRead (offset : Word)
  /-- R82: A write to FRM_SLACK_MIN restarts it at 0xFFFF_FFFF. -/
  | frmSlackMinWrite (value : Word)
  /-- R250: A write to MBX_ACCEPT_MAX restarts it at 0. -/
  | mbxAcceptMaxWrite (value : Word)
  /-- R300: A write to FAB_CBUF_PEAK restarts it at 0. -/
  | fabCbufPeakWrite (value : Word)
  /-- R12: A write to any other register takes effect by its access type: RW stored, W1C clearing, RO ignored. -/
  | registerWrite (offset value : Word)
  /-- R304: A strand direction completes training, enters service with its sequence counter at 0, and starts sending hellos every 10 µs with the 20 ms neighbour timer running. -/
  | strandTrained (strand : StrandId) (receive : Bool) (failed : List LaneId)
  /-- R280: At each block position of a strand direction, the sender chooses what goes out: a guard at a slot boundary where the connection changes, a circuit, resent, packet, tick or link-control block, or an idle block. -/
  | blockPosition (strand : StrandId) (slot : Option (Fin 976)) (position : Nat)
  /-- R359: The analog comparator at stage 1 detects P_IN above 1,900 W within 5 µs, and the fast guard stretches every compute clock by 50 % and lowers the power limits by two steps. -/
  | stage1PeakComparator
  /-- R213: The host link finishes training or leaves recovery to L0 at some rate, width and flit mode, MOD_HP_LINK is updated, and waiting host-facing traffic resumes, with CXL.io only in 68-byte mode. -/
  | hostLinkTrained (rate width flit : Nat)
  /-- R215: The function returns from D3hot to D0, decodes BAR0 and BAR2 again and may send MSI-X messages again. -/
  | d3hotExit
  /-- R40: A COMPUTE reset finishes within 40 ms, or up to 20 µs later after a channel action in progress, and the device enters READY, or FAILED if an orderly stop began during the reset. -/
  | computeResetComplete (hankLost : Option HankId)
  /-- R38: In an upward operating-point transition the core voltage reaches its target within 12 µs, and the clock switches to the target loop with a 64-cycle pause. -/
  | voltageRiseComplete (die : CDie)
  /-- R38: The 64-cycle pause of a clock switch ends and the domain resumes, either ending an upward transition or starting the voltage fall of a downward one. -/
  | clockSwitchPauseEnd (die : CDie)
  deriving DecidableEq, Repr, Inhabited

end Sys2Proof
end

