-- ==== Sys2Proof/Decode.lean ====
section
/-!
DEFINITION. The command that a word spells by the table's bits. The opcode table of this hardware gives no row any
bits (its commands arrive as events, not as words), so every word spells none.
-/

namespace Sys2Proof

/-- The command that the low `nbits` bits of `w` spell: none, since no row of the table has bits. -/
def decodeTableWord (_nbits _w : Nat) : Option Instr :=
  none

end Sys2Proof
end

