-- ==== Sys2Proof/Config.lean ====
section
/-!
DEFINITION. What the manual leaves open, as constants without a body: no proof can see their values, so a statement
holds whatever they are. Each is named in the assumption log.
-/

namespace Sys2Proof

/-- A byte of memory whose contents the manual leaves undefined (R7, R77, R107, R140, R200, R222): by the range's number
and the address. -/
opaque Config.freeByte : Nat → Nat → Byte

/-- A number that the manual leaves open (a cache victim, a nonce, a random number), by the count of free values drawn
so far. -/
opaque Config.freeNat : Nat → Nat

/-- R112: the result of a vector instruction on operands for which the manual states none (an integer out of range, an
operation it does not give the format): by the format, the operation and the operands. -/
opaque Config.laneValue : LaneFmt → LaneOp → Nat → Nat → Nat → Nat

/-- R111: what a register that a kernel has not written holds: by the thread and the register. -/
opaque Config.freshReg : Nat → Nat → Nat

/-- SHA-512, which the manual names and does not define (R56, R375, R389, R391): 64 bytes. -/
opaque Config.sha512 : List Byte → Vector Byte 64

/-- RSASSA-PSS verification under a modulus, of a message and a signature (R389): named, not defined. -/
opaque Config.rsaVerify : List Byte → List Byte → List Byte → Bool

/-- RSASSA-PSS signing with the identity key, by the count of free values drawn (its salt) and the message (R389). -/
opaque Config.rsaSign : Nat → List Byte → Vector Byte 512

/-- R388: the identity certificate chain, DER. -/
opaque Config.certChain : List Byte

/-- R353: S_i of a compute die at an operating point, W, from its fused trim table. -/
opaque Config.staticPower : Nat → Nat → Nat

/-- R373: how many flash blocks the spare pool of 1 % holds; the manual states no block size. -/
opaque Config.flashSpares : Nat

end Sys2Proof
end

