-- ==== Sys2Proof/Machine/Bytes.lean ====
section
/-!
DEFINITION. Byte order, field layouts, register fields, saturating counts and the three cyclic redundancy checks
(R9, R10, R19, R146, R275): the pure helpers that every chapter's layouts are written with.
-/

namespace Sys2Proof.Machine

/-- The number that little-endian bytes spell (R9). -/
def leNat : List Byte → Nat
  | [] => 0
  | b :: bs => b.toNat + 256 * leNat bs

/-- The `n` low bytes of `v`, least significant first (R9). -/
def leBytes : Nat → Nat → List Byte
  | 0, _ => []
  | n + 1, v => BitVec.ofNat 8 v :: leBytes n (v / 256)

/-- Exactly `n` bytes: `bs` cut off, or filled up with zeros. -/
def fitBytes (n : Nat) (bs : List Byte) : List Byte :=
  bs.take n ++ List.replicate (n - bs.length) 0

/-- `n` bytes at offset `off`, zeros past the end. -/
def sliceBytes (bs : List Byte) (off n : Nat) : List Byte :=
  fitBytes n (bs.drop off)

/-- The little-endian field of `n` bytes at offset `off`. -/
def fieldOf (bs : List Byte) (off n : Nat) : Nat :=
  leNat (sliceBytes bs off n)

/-- `new` laid over `old` from offset `off`; nothing is written past the end of `old`. -/
def overlay (old : List Byte) (off : Nat) (new : List Byte) : List Byte :=
  old.take off ++ (new.take (old.length - off)) ++ old.drop (off + new.length)

/-- A record of `size` bytes with the fields (offset, bytes, value); every other byte is zero (R11). -/
def layoutBytes (size : Nat) : List (Nat × Nat × Nat) → List Byte
  | [] => List.replicate size 0
  | (off, n, v) :: fs => overlay (layoutBytes size fs) off (leBytes n v)

/-- Bits [hi:lo] of a number. -/
def bitsOf (n hi lo : Nat) : Nat :=
  n / 2 ^ lo % 2 ^ (hi + 1 - lo)

/-- Bit `i` of a number. -/
def bitOf (n i : Nat) : Bool :=
  n.testBit i

/-- A number from fields (hi, lo, value), each value cut to its field. -/
def packBits : List (Nat × Nat × Nat) → Nat
  | [] => 0
  | (hi, lo, v) :: fs => v % 2 ^ (hi + 1 - lo) * 2 ^ lo + packBits fs

/-- A register's value from its fields (hi, lo, value) (R11: reserved fields read zero). -/
def regOf (fs : List (Nat × Nat × Nat)) : Word :=
  BitVec.ofNat 32 (packBits fs)

/-- 1 for true, 0 for false: a one-bit field. -/
def bit (b : Bool) : Nat :=
  if b then 1 else 0

/-- A number below `2 ^ 32` as a register. -/
def w32 (n : Nat) : Word :=
  BitVec.ofNat 32 n

/-- The mask with bit `i` set for every `i < n` that satisfies `p`. -/
def maskOf (n : Nat) (p : Nat → Bool) : Nat :=
  ((List.range n).map fun i => if p i then 2 ^ i else 0).sum

/-- `n + 1`, holding at `top`. -/
def satInc (top n : Nat) : Nat :=
  if n < top then n + 1 else top

/-- `n + 1` in a counter of `w` bits that wraps. -/
def wrapInc (w n : Nat) : Nat :=
  (n + 1) % 2 ^ w

/-- `n / d` rounded up; 0 for `d = 0`. -/
def ceilDiv (n d : Nat) : Nat :=
  (n + d - 1) / d

/-- `n` rounded up to a multiple of `d`. -/
def roundUp (n d : Nat) : Nat :=
  ceilDiv n d * d

/-- Two's complement value of the low `w` bits of `n`. -/
def signedOf (w n : Nat) : Int :=
  let m := n % 2 ^ w
  if m < 2 ^ (w - 1) then (m : Int) else (m : Int) - (2 ^ w : Nat)

/-- The low `w` bits of an integer, two's complement. -/
def unsignedOf (w : Nat) (z : Int) : Nat :=
  (z % ((2 ^ w : Nat) : Int)).toNat

/-- One bit of an integer square root. -/
def isqrtAt (n : Nat) : Nat → Nat → Nat
  | 0, r => r
  | k + 1, r => isqrtAt n k (if (r + 2 ^ k) * (r + 2 ^ k) ≤ n then r + 2 ^ k else r)

/-- The integer square root of `n`, for roots of at most `k` bits. -/
def isqrt (k n : Nat) : Nat :=
  isqrtAt n k 0

/-- One bit of a left-shifting cyclic redundancy check of `w` bits. -/
def crcBit (w poly : Nat) (crc : Nat) (b : Bool) : Nat :=
  let top := crc.testBit (w - 1) != b
  let sh := crc * 2 % 2 ^ w
  if top then sh ^^^ poly else sh

/-- A left-shifting cyclic redundancy check over bits, first bit first. -/
def crcBits (w poly : Nat) : Nat → List Bool → Nat
  | crc, [] => crc
  | crc, b :: bs => crcBits w poly (crcBit w poly crc b) bs

/-- The bits of a byte, most significant first. -/
def byteBitsMsb (b : Byte) : List Bool :=
  [7, 6, 5, 4, 3, 2, 1, 0].map b.toNat.testBit

/-- The bits of a byte, least significant first. -/
def byteBitsLsb (b : Byte) : List Bool :=
  [0, 1, 2, 3, 4, 5, 6, 7].map b.toNat.testBit

/-- One bit of a right-shifting (reflected) cyclic redundancy check. -/
def crcBitRefl (poly : Nat) (crc : Nat) (b : Bool) : Nat :=
  let low := crc.testBit 0 != b
  if low then (crc / 2) ^^^ poly else crc / 2

/-- A right-shifting (reflected) cyclic redundancy check over bits. -/
def crcBitsRefl (poly : Nat) : Nat → List Bool → Nat
  | crc, [] => crc
  | crc, b :: bs => crcBitsRefl poly (crcBitRefl poly crc b) bs

end Sys2Proof.Machine
end

