-- ==== Sys2Proof/Machine/Tab.lean ====
section
/-!
DEFINITION. Sparse tables in one canonical form: keys strictly rising, and no entry equal to what an unlisted key
reads as. Memory, register files, per-strand, per-channel and per-queue records are all held this way, so that equal
contents are equal data.
-/

namespace Sys2Proof.Machine

/-- A sparse table; a key that is not listed reads as `default`. -/
abbrev Tab (α : Type) := List (Nat × α)

variable {α : Type}

/-- The entry at a key, `default` where none is listed. -/
def tget [Inhabited α] : Tab α → Nat → α
  | [], _ => default
  | (a, v) :: t, k => if a = k then v else tget t k

/-- Put a value at a key and keep the canonical form: a default value removes the entry. -/
def tput [Inhabited α] [DecidableEq α] : Tab α → Nat → α → Tab α
  | [], k, v => if v = default then [] else [(k, v)]
  | (a, w) :: t, k, v =>
    if a < k then (a, w) :: tput t k v
    else if a = k then (if v = default then t else (k, v) :: t)
    else if v = default then (a, w) :: t else (k, v) :: (a, w) :: t

/-- Change the entry at a key. -/
def tmod [Inhabited α] [DecidableEq α] (t : Tab α) (k : Nat) (f : α → α) : Tab α :=
  tput t k (f (tget t k))

/-- Change every listed entry; what an unlisted key reads as stays. -/
def tmap [Inhabited α] [DecidableEq α] (t : Tab α) (f : α → α) : Tab α :=
  (t.map fun e => (e.1, f e.2)).filter fun e => e.2 ≠ default

/-- The listed keys. -/
def tkeys (t : Tab α) : List Nat :=
  t.map Prod.fst

/-- Every listed key is above `lo`. -/
def tabAbove (lo : Nat) : Tab α → Bool
  | [] => true
  | (a, _) :: _ => lo < a

/-- The canonical form: keys strictly rising, no entry equal to `default`. -/
def tabWf [Inhabited α] [DecidableEq α] : Tab α → Bool
  | [] => true
  | (a, v) :: t => v ≠ default && tabAbove a t && tabWf t

end Sys2Proof.Machine
end

