-- ==== Sys2Proof/Machine/State.lean ====
section
/-!
DEFINITION. The state of the NMX-4: every register, buffer, counter, mode and pin that the manual gives it, chapter by
chapter, each field with the rule that names it and its reset value as the default. State is plain data.
-/

namespace Sys2Proof.Machine

/-- R247: the status codes, by their names in the table. -/
inductive Status where
  | sOk | sCapUnreachable | sCorrelatedBuddy | sWhorlTakeover | sPlanMismatch | sFlyerTakeover | sSpareWavelength
  | sLaneDrop | sRefuseScheduled
  | eCommand | ePermission | eState | eCancelled | eAbortedReset | eDeviceFailed | eRole
  | eStrapFault | eDieAbsent | eDieIncompatible
  | eImageFormat | eImageSignature | eNumgenMismatch | eFeatureAbsent | eRankAbsent | eSlackShort | eSyncScope
  | eCircuitOversub | eFrameFailed | eFrameOverrun | ePreempted | eSpindleWithheld | eStartRefused
  | eSeqDescriptor | eSeqPosition | eKvPage | eMergeOrder
  | eDataError | eHankOvertemp | eHankLost | ePlacement | ePlaceBusy
  | eBounds | eRegion | eRegionBusy | eEpochStale | eQueue
  | eWindow | eSpill | eHostLink
  | eUnreachable | eMsgIncomplete | ePlanFormat | eSkeinMismatch | eSkeinAborted
  | eCapRange | eFlash | eFlashFull | eSnapshotAbsent | eSnapshotCorrupt | eLogRange
  | eFwSignature | eFwRollback | eDebugDenied | eTestFailed
  deriving DecidableEq, Repr, Inhabited

/-- R4, R45: the device states, numbered as MOD_STATE.STATE numbers them. -/
inductive DevState where
  | off | boot | ready | running | deterministic | draining | failed
  deriving DecidableEq, Repr, Inhabited

/-- R4, R45: the reset domains, from heaviest to lightest, numbered as MOD_RESET_CAUSE.DOMAIN numbers them. -/
inductive ResetDomain where
  | cold | package | compute | flr
  deriving DecidableEq, Repr, Inhabited

/-- R45: what caused a reset, numbered as MOD_RESET_CAUSE.SOURCE numbers it. -/
inductive ResetSource where
  | powerOn | undervoltage | sideband | resetPackage | resetCompute | watchdog | cxlFlr | sramError | debugUnlock
  deriving DecidableEq, Repr, Inhabited

/-- R38: where an operating-point transition stands. -/
inductive OpPhase where
  | steady | upLock | upVolt | upPause | downLock | downPause | downVolt
  deriving DecidableEq, Repr, Inhabited

/-- R241, R362, R363, R370: what brings a FAILED device back: `reset.compute` after an orderly stop, else a PACKAGE or a
COLD reset, or a COLD reset alone. -/
inductive WayOut where
  | compute | package | cold
  deriving DecidableEq, Repr, Inhabited

/-- R36-R38, R46: the operating point of one compute die. -/
structure OpState where
  /-- R46: OP_CURRENT (3 bits), the operating point in force. -/
  current : Fin 8 := 0
  /-- R46: OP_TARGET (3 bits), the operating point being entered. -/
  target : Fin 8 := 0
  /-- R38: where the transition stands; TRANSIT reads 1 unless it is steady. -/
  phase : OpPhase := .steady
  /-- R38: the operating point whose loop drives the die's clocks (3 bits). -/
  clock : Fin 8 := 0
  /-- R38: a request that waits for the transition in progress. -/
  waiting : Option (Fin 8) := none
  deriving DecidableEq, Repr, Inhabited

/-- R19, R44, R45: one direction of a die-to-die link. -/
structure D2dLink where
  /-- R45: SPARES_LEFT (4 bits), spare wires not yet used. -/
  sparesLeft : Nat := 4
  /-- R44, R76: a retrain waits for the next frame start. -/
  queued : Bool := false
  /-- R76: the stretch for that retrain has been requested. -/
  asked : Bool := false
  /-- R44: the direction is retraining, which stalls the traffic routed over it (R18). -/
  retraining : Bool := false
  deriving DecidableEq, Repr, Inhabited

/-- Chapter 1: the package, its dies, links, clocks and resets. -/
structure Pkg where
  /-- R45: MOD_STATE.STATE (3 bits). -/
  devState : DevState := .off
  /-- R45: MOD_BOOT_STATUS.CODE (8 bits). -/
  bootCode : Nat := 0
  /-- R45: MOD_BOOT_STATUS.DIE_A (4 bits). -/
  dieA : Nat := 0
  /-- R45: MOD_BOOT_STATUS.DIE_B (4 bits). -/
  dieB : Nat := 0
  /-- R45: MOD_RESET_CAUSE.SOURCE (4 bits). -/
  resetSource : ResetSource := .powerOn
  /-- R45: MOD_RESET_CAUSE.DOMAIN (3 bits). -/
  resetDomain : ResetDomain := .cold
  /-- R34: MOD_PKG_CAP (32 bits). -/
  pkgCap : Word := 0
  /-- R28: MOD_DIE_CAPn (6 x 32 bits), read from the dies at boot. [DC 1] -/
  dieCap : Vector Word 6 := .replicate 6 0
  /-- R25, R45: MOD_DIE_STRAPn (6 x 32 bits), read from the straps at boot. [DC 1] -/
  dieStrap : Vector Word 6 := .replicate 6 0
  /-- R45: MOD_D2D_SEL.LINK (5 bits). -/
  d2dSel : Nat := 0
  /-- R19, R45: the 26 die-to-die link directions, by LINK index. -/
  d2d : Tab D2dLink := []
  /-- R36-R38: the operating points of CD0-CD3. -/
  op : Vector OpState 4 := .replicate 4 {}
  /-- R46: PWR_PLL_STATUS.REF_LOST (1 bit). -/
  refLost : Bool := false
  /-- R46: PWR_PLL_STATUS.REF_OK (1 bit). -/
  refOk : Bool := true
  /-- R39: the loops hold their frequency without the reference. -/
  holdover : Bool := false
  /-- R46: PWR_PLL_STATUS.UNLOCK_STICKY (6 bits). -/
  unlockSticky : BitVec 6 := 0
  /-- R46: PWR_PLL_STATUS.LOCKED (6 bits). -/
  locked : BitVec 6 := 0
  /-- R44: the dies whose loops relock, their clocks stopped meanwhile (6 bits). -/
  relocking : BitVec 6 := 0
  /-- R39, R362, R363: the dies whose clocks are stopped for good (6 bits). -/
  clocksStopped : BitVec 6 := 0
  /-- R347, R420: the module is powered (stage 1 runs). -/
  powered : Bool := false
  /-- R40, R43: a COLD or PACKAGE reset that has been triggered and has not been carried out. -/
  resetReq : Option (ResetDomain × ResetSource) := none
  /-- R40: a COMPUTE reset is in progress. -/
  computeReset : Bool := false
  /-- R362: the die whose orderly stop began during the COMPUTE reset. -/
  stopInReset : Option Nat := none
  /-- R241, R370: what brings the FAILED device back. -/
  wayOut : WayOut := .package
  /-- R242, R396: the flyer's firmware runs (false while boot halted or the clocks of LD0 are stopped). -/
  flyerRuns : Bool := false
  /-- R27, R242: BAR0 is decoded although boot halted. -/
  bar0Up : Bool := false
  deriving DecidableEq, Repr, Inhabited

/-- R82: FRM_STATUS.ROLE. -/
inductive Role where
  | member | whorl | standby | none
  deriving DecidableEq, Repr, Inhabited

/-- R82: FRM_STATUS.PROG. -/
inductive Prog where
  | noImage | loaded | startPending | running | draining
  deriving DecidableEq, Repr, Inhabited

/-- R53: the header of a frame program image. -/
structure ImgHeader where
  /-- R53: FLAGS bit 0 (1 bit). -/
  signed : Bool := false
  /-- R53: FLAGS bit 1 (1 bit). -/
  nmx2 : Bool := false
  /-- R53: IMAGE_LEN (32 bits). -/
  len : Nat := 0
  /-- R53: PERIOD_US (16 bits). -/
  periodUs : Nat := 0
  /-- R53: BUDGET_OP (3 bits). -/
  budgetOp : Nat := 0
  /-- R53: NUMGEN (8 bits). -/
  numgen : Nat := 0
  /-- R53: REQ_CFEAT (8 bits). -/
  reqCfeat : Nat := 0
  /-- R53: REQ_LFEAT (8 bits). -/
  reqLfeat : Nat := 0
  /-- R53: MAX_HOLD_LEAD (16 bits), in units of 100 ns. -/
  maxHoldLead : Nat := 0
  /-- R53: FRAMES F (17 bits). -/
  frames : Nat := 1
  /-- R53: RANKS (13 bits). -/
  ranks : Nat := 1
  deriving DecidableEq, Repr, Inhabited

/-- R55: a FRAME_TABLE entry. -/
structure FrameEntry where
  firstStep : Nat := 0
  stepCount : Nat := 0
  idle : Bool := false
  cClk : Nat := 0
  cFix : Nat := 0
  deriving DecidableEq, Repr, Inhabited

/-- R55: a STEPS entry; UNIT split into kind, die and unit index. -/
structure StepEntry where
  kind : Nat := 0
  die : Nat := 0
  unit : Nat := 0
  opcode : Nat := 0
  depCount : Nat := 0
  depFirst : Nat := 0
  argOff : Nat := 0
  argLen : Nat := 0
  estNs : Nat := 0
  deriving DecidableEq, Repr, Inhabited

/-- R55: a SYNC entry. -/
structure SyncEntry where
  prodStep : Nat := 0
  consStep : Nat := 0
  prodRank : Nat := 0
  consRank : Nat := 0
  delta : Nat := 0
  prodKind : Nat := 0
  consKind : Nat := 0
  relScope : Nat := 0
  acqScope : Nat := 0
  region : Nat := 0
  offset : Nat := 0
  length : Nat := 0
  deriving DecidableEq, Repr, Inhabited

/-- R55: a CIRCUITS entry. -/
structure CircEntry where
  frame : Nat := 0
  rank : Nat := 0
  dest : Nat := 0
  firstSlot : Nat := 0
  slotCount : Nat := 0
  strand : Nat := 0
  resv : Nat := 0
  deriving DecidableEq, Repr, Inhabited

/-- R55: a BATCH_SLOTS entry. -/
structure SlotEntry where
  frame : Nat := 0
  rank : Nat := 0
  rows : Nat := 0
  queueFirst : Nat := 0
  queueLast : Nat := 0
  deriving DecidableEq, Repr, Inhabited

/-- R55: a HINTS entry. -/
structure HintEntry where
  frame : Nat := 0
  rank : Nat := 0
  lead : Nat := 0
  powerW : Nat := 0
  duration : Nat := 0
  deriving DecidableEq, Repr, Inhabited

/-- R55: a HOUSEKEEPING entry. -/
structure HkEntry where
  frame : Nat := 0
  rank : Nat := 0
  units : Nat := 0
  startNs : Nat := 0
  lenNs : Nat := 0
  strands : Nat := 0
  deriving DecidableEq, Repr, Inhabited

/-- R52-R56: a loaded frame program image, its sections read. -/
structure Image where
  /-- R53: the header. -/
  hdr : ImgHeader := {}
  /-- R55: RANK_MAP, the device identifier of each rank (14 bits each). -/
  rankMap : List Nat := []
  /-- R55: FRAME_TABLE. -/
  frameTable : List FrameEntry := []
  /-- R55: STEPS. -/
  steps : List StepEntry := []
  /-- R55: DEPS. -/
  deps : List Nat := []
  /-- R55: SYNC. -/
  syncs : List SyncEntry := []
  /-- R55: CIRCUITS. -/
  circuits : List CircEntry := []
  /-- R55: BATCH_SLOTS. -/
  slots : List SlotEntry := []
  /-- R55: HINTS. -/
  hints : List HintEntry := []
  /-- R55: HOUSEKEEPING. -/
  hks : List HkEntry := []
  /-- R54: ARGS. -/
  args : List Byte := []
  /-- R56: the measurement (512 bits). -/
  meas : List Byte := []
  /-- R56: the image tag (64 bits), the first 8 bytes of the measurement. -/
  tag : Nat := 0
  /-- R243: the tenant whose signing policy applied (16 bits). -/
  tenant : Nat := 0xFFFF
  /-- R401: the key digest that signed it, empty where unsigned. -/
  signer : List Byte := []
  deriving DecidableEq, Repr, Inhabited

/-- R67: the fields of a tick. -/
structure Tick where
  frame : Nat := 0
  stretch : Nat := 0
  held : Nat := 0
  period : Nat := 50
  cfgEpoch : Nat := 0
  domain : Nat := 0
  failPrev : Bool := false
  stop : Bool := false
  pause : Bool := false
  det : Bool := false
  rootStandby : Bool := false
  start : Bool := false
  stopMode : Nat := 0
  n0 : Nat := 0
  imageTag : Nat := 0
  deriving DecidableEq, Repr, Inhabited

/-- R68: the fields of a tick reply. -/
structure Reply where
  frame : Nat := 0
  nextReq : Nat := 0
  hold : Nat := 0
  count : Nat := 0
  fail : Bool := false
  supplement : Bool := false
  pauseReq : Bool := false
  notLocked : Bool := false
  imageDiff : Bool := false
  cfgReady : Bool := false
  startRefused : Bool := false
  cause : Nat := 0
  imageTag : Nat := 0
  deriving DecidableEq, Repr, Inhabited

/-- R58, R60, R64: a start that the whorl announces. -/
structure Announce where
  n0 : Nat := 0
  tag : Nat := 0
  resume : Bool := false
  deriving DecidableEq, Repr, Inhabited

/-- Chapter 2: frames, ticks, the loaded program, and the whorl's side. -/
structure Frm where
  /-- R82: FRM_PERIOD (10 bits), the period in force in µs. -/
  period : Nat := 50
  /-- R82: FRM_STATUS.OVERRUN (1 bit). -/
  overrun : Bool := false
  /-- R82: FRM_STATUS.FAILED_FRAME (1 bit). -/
  failedFrame : Bool := false
  /-- R82: FRM_STATUS.TAKEOVER (1 bit). -/
  takeover : Bool := false
  /-- R82: FRM_STATUS.NO_STANDBY (1 bit). -/
  noStandby : Bool := false
  /-- R82: FRM_STATUS.DET (1 bit). -/
  det : Bool := false
  /-- R82: FRM_STATUS.LOCKED (1 bit). -/
  locked : Bool := false
  /-- R82: FRM_STATUS.PAUSE (1 bit). -/
  pause : Bool := false
  /-- R82: FRM_STATUS.ROLE (2 bits). -/
  role : Role := .none
  /-- R82: FRM_STATUS.PROG (3 bits). -/
  prog : Prog := .noImage
  /-- R82: FRM_NUMBER (48 bits). -/
  number : Nat := 0
  /-- R82: FRM_STRETCH.HELD of the previous frame, µs (16 bits). -/
  held : Nat := 0
  /-- R82: FRM_STRETCH.STRETCH of the current frame, µs (16 bits). -/
  stretch : Nat := 0
  /-- R82: FRM_REQUEST.HOLD of the last reply sent, µs (16 bits). -/
  reqHold : Nat := 0
  /-- R82: FRM_REQUEST.NEXT_REQ of the last reply sent, µs (16 bits). -/
  reqNext : Nat := 0
  /-- R82: FRM_CAUSE (8 bits). -/
  cause : Nat := 0
  /-- R70, R82: A of the whorl's tree, ns (16 bits). -/
  alignA : Nat := 0
  /-- R70: A' of the standby's tree, ns (16 bits). -/
  alignA2 : Nat := 0
  /-- R69, R82: L(d) in force in the whorl's tree, ns (16 bits). -/
  latL : Nat := 0
  /-- R69: L'(d) in force in the standby's tree, ns (16 bits). -/
  latL2 : Nat := 0
  /-- R71: the last measured L(d), towards which the one in force moves by at most 1 ns per frame (16 bits). -/
  latNew : Nat := 0
  /-- R71: the last measured L'(d), towards which the one in force moves by at most 1 ns per frame (16 bits). -/
  latNew2 : Nat := 0
  /-- R51: H_L, ns, fixed when the domain forms (17 bits). -/
  holdLead : Nat := 0
  /-- R82: FRM_SKEW (16 bits), two's complement, units of 100 ps. -/
  skew : Nat := 0
  /-- R82: FRM_EPOCH (16 bits). -/
  cfgEpoch : Nat := 0
  /-- R82: FRM_SLACK_MIN (32 bits), ns. -/
  slackMin : Nat := 0xFFFFFFFF
  /-- R82: FRM_START (48 bits), N0. -/
  n0 : Nat := 0
  /-- R82: FRM_FAIL (48 bits). -/
  failNum : Nat := 0
  /-- R82: FRM_COUNTS [31:16], frames with non-zero STRETCH (16 bits). -/
  cntStretch : Nat := 0
  /-- R82: FRM_COUNTS [15:0], frames with non-zero HELD (16 bits). -/
  cntHeld : Nat := 0
  /-- R82: FRM_IMAGE_TAG (64 bits). -/
  imageTag : Nat := 0
  /-- R82: FRM_INDEX (16 bits). -/
  index : Nat := 0
  /-- R57: the image held. -/
  image : Option Image := none
  /-- R67: the tick of the frame in progress. -/
  cur : Tick := {}
  /-- R70: the tick received whose frame has not begun. -/
  next : Option Tick := none
  /-- R278: that tick has come by replay alone. -/
  nextLate : Bool := false
  /-- R60: the announced start that this device has checked, and whether it refuses it. -/
  ann : Option Announce := none
  /-- R60: this device refuses the announced start. -/
  refuses : Bool := false
  /-- R64: a suspended program may be resumed: the index its next frame has, and its tag. -/
  suspended : Option (Nat × Nat) := none
  /-- R62: the frame index has begun (frame N0 has been reached). -/
  runFrame : Bool := false
  /-- R174: the steps of this frame that have completed. -/
  done : List Nat := []
  /-- R55, R106: the steps of this frame whose effects have been performed and that have not completed. -/
  ran : List Nat := []
  /-- R179: the steps of this frame whose implied barrier has been carried out. -/
  barriered : List Nat := []
  /-- R174: the numbers of the program's non-pause frames, newest first, as many as its FRAME_DELTAs reach back. -/
  past : List Nat := []
  /-- R174, R175: the SYNC pairs released, as (entry, producer's frame). -/
  released : List (Nat × Nat) := []
  /-- R173, R174: the SYNC pairs acquired, as (entry, consumer's frame). -/
  acquired : List (Nat × Nat) := []
  /-- R7, R77: what the steps of this frame have written, as (address, bytes). -/
  writes : List (Nat × Nat) := []
  /-- R77: the status of the first failure that this frame has met. -/
  failStatus : Option Status := none
  /-- R77: the status of each step that failed, as (step, status, DETAIL). -/
  stepFail : List (Nat × Status × Nat) := []
  /-- R68: the reply for this frame has been sent. -/
  replied : Bool := false
  /-- R73: the supplementary reply for this frame has been sent. -/
  supplemented : Bool := false
  /-- R68: this device's own reply. -/
  own : Reply := {}
  /-- R68: replies received this frame, by child strand. -/
  kids : Tab (Option Reply) := []
  /-- R68: supplementary replies received this frame, combined. -/
  supp : Option Reply := none
  /-- R68: the combined reply has been forwarded. -/
  forwarded : Bool := false
  /-- R78: the staged configuration's CFG_READY is withheld (R298). -/
  cfgHeld : Bool := false
  /-- R76: planned requests of events that wait for the next frame, µs (16 bits). -/
  planned : Nat := 0
  /-- R68, R76: the CAUSE bits of those requests and of holds (8 bits). -/
  plannedCause : Nat := 0
  /-- R75: an event waits for a pause frame. -/
  pauseWanted : Bool := false
  /-- R58: the whorl's announced start. -/
  wStart : Option Announce := none
  /-- R64: the whorl's STOP mode to be sent in the next tick. -/
  wStop : Option Nat := none
  /-- R48, R63: the domain runs a program, by the whorl's own account. -/
  wRunning : Option Nat := none
  /-- R48: the last tick emitted carried STOP or FAIL_PREV, so that the next one returns to 50 µs. -/
  wDrain : Bool := false
  /-- R64: OPTIONS.RESUME of the announced start. -/
  wResume : Bool := false
  deriving DecidableEq, Repr, Inhabited

/-- R101, R108: SPN_STATUS.RAMP. -/
inductive Ramp where
  | none | up | down
  deriving DecidableEq, Repr, Inhabited

/-- R102: an accumulator entry: the FP32 value of the canonical regime, or the long register of the exact regime with
its special-value flags. -/
inductive AccEntry where
  /-- R102: an FP32 value (32 bits). -/
  | canonical (bits : Nat)
  /-- R89, R102: L (128 bits, signed), and whether a NaN, a positive or a negative infinity has occurred. -/
  | exact (l : Int) (nan posInf negInf : Bool)
  deriving DecidableEq, Repr, Inhabited

/-- R83, R102, R108: one spindle. -/
structure Spindle where
  /-- R108: SPN_STATUS.RANGE (1 bit). -/
  range : Bool := false
  /-- R108: SPN_STATUS.NAN_OUT (1 bit). -/
  nanOut : Bool := false
  /-- R108: SPN_STATUS.OVERFLOW (1 bit). -/
  overflow : Bool := false
  /-- R108: SPN_STATUS.DATA_ERR (1 bit). -/
  dataErr : Bool := false
  /-- R108: SPN_STATUS.WITHHELD (1 bit). -/
  withheld : Bool := false
  /-- R101, R108: SPN_STATUS.RAMP (2 bits). -/
  ramp : Ramp := .none
  /-- R101: the window of 4 cycles that the ramp has reached (1 to 8, 0 where none). -/
  rampWindow : Nat := 0
  /-- R108: SPN_STATUS.BUSY (1 bit): the step that runs. -/
  busy : Option Nat := none
  /-- R108: SPN_STATUS.REGIME (2 bits): 0 idle, 1 canonical, 2 exact. -/
  regime : Nat := 0
  /-- R84, R108: SPN_SPARE ROW_REPLACED (5 bits), if ROW_USED, from the fuses. -/
  rowUsed : Option Nat := none
  /-- R84, R108: SPN_SPARE COL_REPLACED (5 bits), if COL_USED, from the fuses. -/
  colUsed : Option Nat := none
  /-- R108, R410: the DPU awaiting re-fuse: PEND_ROW, PEND_COL (5 bits each). -/
  pending : Option (Nat × Nat) := none
  /-- R107, R108: ABUF_SPARE_USED, and the activation bank the spare stands in for (7 bits). -/
  abufSpare : Option Nat := none
  /-- R107, R108: ACC_SPARE_USED, and the accumulator bank the spare stands in for (7 bits). -/
  accSpare : Option Nat := none
  /-- R108: ABUF_SPARE_USED reads zero since a COMPUTE reset (1 bit); the model's own. [DC 65] -/
  abufHidden : Bool := false
  /-- R108: ACC_SPARE_USED reads zero since a COMPUTE reset (1 bit); the model's own. [DC 65] -/
  accHidden : Bool := false
  /-- R108: SPN_RANGE_COUNT (32 bits). -/
  rangeCount : Nat := 0
  /-- R108: SPN_PASSES (64 bits). -/
  passes : Nat := 0
  /-- R108: SPN_ACTIVE (64 bits). -/
  activeCycles : Nat := 0
  /-- R108: SPN_BUBBLES (32 bits). -/
  bubbles : Nat := 0
  /-- R108: SPN_RAMPS ramp-ups begun (16 bits). -/
  rampUps : Nat := 0
  /-- R108: SPN_RAMPS ramp reversals (16 bits). -/
  reversals : Nat := 0
  /-- R108: SPN_TEST.HOURS (8 bits). -/
  testHours : Nat := 0
  /-- R108: SPN_TEST.LAST_PASS (1 bit). -/
  testPass : Bool := false
  /-- R102: the accumulator store, by entry; `none` is an entry that no step has kept. -/
  acc : Tab (Option AccEntry) := []
  /-- R107: a bank scrub is due (the bank, in activation buffer or accumulator store). -/
  scrubDue : List Nat := []
  deriving DecidableEq, Repr, Inhabited

/-- R116: an entry of a die's gather queue: a ply's half burst. -/
structure GatherEntry where
  /-- R116: the core (6 bits). -/
  core : Nat := 0
  /-- R116: the ply (8 bits). -/
  ply : Nat := 0
  /-- R116: the half burst (address divided by 32). -/
  half : Nat := 0
  deriving DecidableEq, Repr, Inhabited

/-- R116, R117: one lane's access of a gather or scatter: its bytes where it writes. -/
structure GatherLane where
  lane : Nat := 0
  /-- R116: its local address (40 bits). -/
  addr : Nat := 0
  /-- R116: 4, 8, 16 or 32 bytes. -/
  width : Nat := 4
  data : List Byte := []
  deriving DecidableEq, Repr, Inhabited

/-- R116, R117: a gather or scatter that has issued: its ply waits. -/
structure GatherWait where
  core : Nat := 0
  ply : Nat := 0
  lanes : List GatherLane := []
  /-- R117: it is a scatter. -/
  scatter : Bool := false
  /-- R116: the first destination register of each lane. -/
  reg : Nat := 0
  /-- R116: the half bursts that have no entry yet, because the queue is full. -/
  need : List Nat := []
  /-- R116: the half bursts whose data has returned, with it. -/
  got : List (Nat × List Byte) := []
  client : Client := .flyer
  deriving DecidableEq, Repr, Inhabited

/-- R109, R114, R135: the vector cores and the local store of one compute die. -/
structure VecDie where
  /-- R135: VEC_STATUS.BOUNDS (1 bit). -/
  bounds : Bool := false
  /-- R135: VEC_STATUS.DATA_ERR (1 bit). -/
  dataErr : Bool := false
  /-- R135: VEC_STATUS.ATTN_ERR (1 bit). -/
  attnErr : Bool := false
  /-- R135: VEC_STATUS.NAN_OUT (1 bit). -/
  nanOut : Bool := false
  /-- R135: VEC_STATUS.ATTN_CHECK (4 bits). -/
  attnCheck : Nat := 0
  /-- R135: VEC_WITHHELD (64 bits). -/
  withheld : BitVec 64 := 0
  /-- R135: VEC_GATHER_ENTRIES (32 bits). -/
  gatherEntries : Nat := 0
  /-- R135: VEC_GATHER_STALLS (32 bits). -/
  gatherStalls : Nat := 0
  /-- R135: VEC_ATTN_COUNTS ATTEND steps (16 bits). -/
  attends : Nat := 0
  /-- R135: VEC_ATTN_COUNTS MERGE steps (16 bits). -/
  merges : Nat := 0
  /-- R134, R135: LS_SPARE_USED, and the local store bank the spare stands in for (9 bits). -/
  lsSpare : Option Nat := none
  /-- R135: LS_SPARE_USED reads zero since a COMPUTE reset (1 bit); the model's own. [DC 65] -/
  lsHidden : Bool := false
  /-- R134: local store banks whose scrub is due. -/
  scrubDue : List Nat := []
  /-- R116: the gather queue (1,024 entries). -/
  gatherQ : List GatherEntry := []
  /-- R116: plies that wait for their gathers. -/
  waiting : List GatherWait := []
  /-- R109: the register files, by ((core 256 + slot) 32 + lane) 256 + register (32 bits each): what has been written. -/
  regs : Tab (Option Nat) := []
  /-- R110, R111: the ply that each slot holds, by core 256 + slot: its step and its number in the kernel. -/
  plies : Tab (Option (Nat × Nat)) := []
  /-- R110: plies that have run, whose slots later waves have taken: step and number. -/
  ended : List (Nat × Nat) := []
  /-- R118: the step that runs on each group 0 to 7, by group. -/
  group : Tab (Option Nat) := []
  deriving DecidableEq, Repr, Inhabited

/-- R151: a hank's temperature band, numbered as HNK_STATUS.BAND numbers it. -/
inductive Band where
  | normal | double | quadruple | stop
  deriving DecidableEq, Repr, Inhabited

/-- R154, R155: an action on a channel. -/
inductive ActKind where
  | retrain | pinRepair
  deriving DecidableEq, Repr, Inhabited

/-- R136, R160: one hank. -/
structure Hank where
  /-- R160: HNK_STATUS.UE (1 bit). -/
  ue : Bool := false
  /-- R160: HNK_STATUS.OVERTEMP (1 bit). -/
  overtemp : Bool := false
  /-- R160: HNK_STATUS.SENSOR_FAULT (1 bit). -/
  sensorFault : Bool := false
  /-- R160: HNK_STATUS.LOST (1 bit). -/
  lost : Bool := false
  /-- R151, R160: HNK_STATUS.BAND (2 bits). -/
  band : Band := .normal
  /-- R160: HNK_STATUS.ACTIVITY (3 bits) where no action is in progress: 0 not trained, 2 in service, 6 loop-back test. -/
  activity : Nat := 0
  /-- R160: HNK_TEMP highest reading since COLD, °C (8 bits). -/
  tempMax : Nat := 0
  /-- R160: HNK_TEMP latest reading, °C (8 bits). -/
  temp : Nat := 0
  /-- R152: consecutive rounds without a reading. -/
  misses : Nat := 0
  /-- R156: a band change that applies when the channel in action resumes. -/
  bandDue : Option Band := none
  /-- R160: HNK_UE_ADDR (39 bits). -/
  ueAddr : Nat := 0
  /-- R160: HNK_RESENDS (32 bits). -/
  resends : Nat := 0
  /-- R160: HNK_ROW_REPAIRS (16 bits). -/
  rowRepairs : Nat := 0
  /-- R160: HNK_CH_SEL.CH (8 bits). -/
  chSel : Nat := 0
  /-- R160: HNK_LB_CTRL.MODE (2 bits). -/
  lbMode : Nat := 0
  /-- R160: HNK_LB_CTRL.CH (8 bits). -/
  lbCh : Nat := 0
  /-- R159: a host-started loop-back test is in progress. -/
  lbBusy : Bool := false
  /-- R160: HNK_LB_RESULT.DONE (1 bit). -/
  lbDone : Bool := false
  /-- R160: HNK_LB_RESULT.PASS (1 bit). -/
  lbPass : Bool := false
  /-- R160: HNK_LB_RESULT.REFUSED (1 bit). -/
  lbRefused : Bool := false
  /-- R160: HNK_LB_RESULT.PIN_FAIL (19 bits). -/
  lbPinFail : Nat := 0
  /-- R151: refreshes issued to the hank. -/
  refreshes : Nat := 0
  deriving DecidableEq, Repr, Inhabited

/-- R136, R154, R155: one channel. -/
structure Chan where
  /-- R160: HNK_CH_PINMAP S0, the pin it replaces (5 bits), if used. -/
  s0 : Option Nat := none
  /-- R160: HNK_CH_PINMAP S1, the pin it replaces (5 bits), if used. -/
  s1 : Option Nat := none
  /-- R154: the margin of each of the 19 pins, from the last retrain. -/
  margins : List Nat := []
  deriving DecidableEq, Repr, Inhabited

/-- R142: an entry of a channel's write-merging buffer: a block, and which of its bytes are held (64 bits). -/
structure WmbEntry where
  block : Nat := 0
  mask : Nat := 0
  /-- R149: on whose behalf the writes merged here were made. -/
  clients : List Client := []
  deriving DecidableEq, Repr, Inhabited

/-- Chapter 5: hank memory. -/
structure Hnk where
  /-- R138, R161: HNK_PLACE0-3 (128 bits), bit k the mode of group k. -/
  place : BitVec 128 := 0
  /-- R160: the registers of H0-H7. -/
  hank : Tab Hank := []
  /-- R136: the channels by C. -/
  chan : Tab Chan := []
  /-- R154: queued actions, in the order they are served. -/
  queue : List (Nat × ActKind) := []
  /-- R154: the action in progress. -/
  active : Option (Nat × ActKind) := none
  /-- R154: the frame in which the last action started. -/
  actedIn : Option Nat := none
  /-- R18, R44, R154: accesses held for a channel in action or a stalled way, in order of arrival: by the narrow path or
  not. -/
  held : List (Bool × MemAccess) := []
  /-- R147: bursts lost in four transfers, by channel, that the host or another device's operation needed. -/
  lostBursts : List (Nat × Client) := []
  /-- R154: the stretch (or pause) for the head of the queue has been requested. -/
  asked : Bool := false
  /-- R161: HNK_ACTIONS retrains completed (16 bits). -/
  retrains : Nat := 0
  /-- R161: HNK_ACTIONS pin repairs completed (16 bits). -/
  pinRepairs : Nat := 0
  /-- R156, R161: HNK_GLOBAL_STATUS.LOST and LOST_HANK (3 bits). -/
  lost : Option Nat := none
  /-- R161: HNK_PROBE (39 bits). -/
  probe : Nat := 0
  /-- R161: HNK_PROBE_CH.MODE (1 bit). -/
  probeMode : Bool := false
  /-- R161: HNK_PROBE_CH C (11 bits). -/
  probeC : Nat := 0
  /-- R161: HNK_PROBE_ROW s (20 bits). -/
  probeS : Nat := 0
  /-- R149: the uncorrectable 64-byte blocks, by block number (address divided by 64). -/
  ue : Tab Bool := []
  /-- R142: the write-merging buffers of all channels, oldest entry first. -/
  wmb : List WmbEntry := []
  /-- R150: uncorrectable blocks whose row waits for repair, by block number. -/
  rowQueue : List Nat := []
  /-- R150: the block whose row is being repaired. -/
  rowActive : Option Nat := none
  /-- R150: spare rows used in each bank, by 32 C + bank. -/
  rowUsed : Tab Nat := []
  /-- R150: rows that have been repaired, by (32 C + bank) 8192 + row. -/
  rowDone : Tab Bool := []
  /-- R41, R153: the hanks are in self-refresh. -/
  selfRefresh : Bool := false
  /-- R153: the hanks accept no access. -/
  stopped : Bool := false
  deriving DecidableEq, Repr, Inhabited

/-- R22: a line of a remote-line cache. -/
structure RlcLine where
  /-- R22: the way it lies in (4 bits). -/
  way : Nat := 0
  /-- R22: it holds writes that have not been written back. -/
  dirty : Bool := false
  /-- R22: its 64 bytes. -/
  data : List Byte := []
  /-- R23: its stored bits fail their parity. -/
  bad : Bool := false
  deriving DecidableEq, Repr, Inhabited

/-- R22, R184: the remote-line cache of one compute die and its visibility registers. -/
structure VisDie where
  /-- R184: VIS_RLC_STATUS.PARITY_DIRTY (1 bit). -/
  parityDirty : Bool := false
  /-- R184: VIS_RLC_STATUS.CTRL_REFUSED (1 bit). -/
  ctrlRefused : Bool := false
  /-- R184: VIS_RLC_STATUS.FLYER_WAYS and VIS_RLC_CTRL.FLYER_WAYS_REQ (2 bits). -/
  flyerWays : Nat := 2
  /-- R184: VIS_RLC_STATUS.WAYS_DISABLED (16 bits). -/
  waysDisabled : BitVec 16 := 0
  /-- R184: VIS_REL_COUNT (32 bits). -/
  relCount : Nat := 0
  /-- R184: VIS_ACQ_COUNT (32 bits). -/
  acqCount : Nat := 0
  /-- R184: VIS_WALK_CYCLES (32 bits). -/
  walkCycles : Nat := 0
  /-- R184: VIS_WRITEBACKS (32 bits). -/
  writebacks : Nat := 0
  /-- R184: VIS_BARRIERS (32 bits). -/
  barriers : Nat := 0
  /-- R22: the lines held, by line number (address divided by 64). -/
  lines : Tab (Option RlcLine) := []
  deriving DecidableEq, Repr, Inhabited

/-- R163: a write that an engine has issued and that has not been performed. -/
structure HeldWrite where
  /-- R163: the engine that issued it. -/
  engine : Engine := .flyer
  /-- R163: the frame-program step or command it belongs to. -/
  client : Client := .flyer
  /-- R162: the local address of its first byte (40 bits). -/
  addr : Nat := 0
  /-- R163: its bytes. -/
  bytes : List Byte := []
  /-- R142: it goes by the narrow path. -/
  narrow : Bool := false
  deriving DecidableEq, Repr, Inhabited

/-- Chapter 6: what lies between engines and the points of visibility. -/
structure Vis where
  /-- R22, R184: the remote-line caches of CD0-CD3. -/
  die : Vector VisDie 4 := .replicate 4 {}
  /-- R163: writes held in store queues and output queues, oldest first. -/
  held : List HeldWrite := []
  /-- R134: local store words whose stored bits fail their check, by address divided by 8: 1 corrected, 2 not. -/
  words : Tab Nat := []
  deriving DecidableEq, Repr, Inhabited

/-- R185, R187: the class of a queue, numbered as CLASS numbers it. -/
inductive QClass where
  | unused | request | completion | peer
  deriving DecidableEq, Repr, Inhabited

/-- R187: a queue descriptor. -/
structure Queue where
  /-- R187: CLASS (8 bits). -/
  cls : QClass := .unused
  /-- R187: PRIO (3 bits). -/
  prio : Nat := 0
  /-- R187: WEIGHT (8 bits). -/
  weight : Nat := 0
  /-- R187: FLAGS.ENABLED (1 bit). -/
  enabled : Bool := false
  /-- R187: FLAGS.INTERRUPT (1 bit). -/
  interrupt : Bool := false
  /-- R187: TENANT (12 bits). -/
  tenant : Nat := 0
  /-- R187: EPOCH (8 bits). -/
  epoch : Nat := 0
  /-- R187: LOG2_SIZE (8 bits). -/
  log2 : Nat := 0
  /-- R187: RING_REGION (32 bits). -/
  ringRegion : Nat := 0
  /-- R187: LINK (32 bits). -/
  link : Nat := 0
  /-- R187: RING_OFFSET (64 bits). -/
  ringOff : Nat := 0
  /-- R187: HEAD (32 bits). -/
  head : Nat := 0
  /-- R187: TAIL (32 bits). -/
  tail : Nat := 0
  /-- R187: PEER_TAIL (64 bits). -/
  peerTail : Nat := 0
  /-- R187: CREDIT (32 bits, signed). -/
  credit : Int := 0
  /-- R187: INFLIGHT (16 bits). -/
  inflight : Nat := 0
  /-- R207: a head doorbell has been accepted and no entry has been written since (completion queues). -/
  headRung : Bool := false
  deriving DecidableEq, Repr, Inhabited

/-- R190: a region entry. -/
structure Region where
  /-- R189: the entry is bound. -/
  bound : Bool := false
  /-- R190: BASE (40 bits). -/
  base : Nat := 0
  /-- R190: BOUND (64 bits). -/
  size : Nat := 0
  /-- R190: MODE (8 bits). -/
  mode : Nat := 0
  /-- R190: EPOCH (8 bits). -/
  epoch : Nat := 0
  /-- R190: ACCESS (5 bits). -/
  access : BitVec 5 := 0
  /-- R190: GEN (8 bits). -/
  gen : Nat := 0
  /-- R190: TENANT (12 bits). -/
  tenant : Nat := 0
  /-- R186: a system region of the device's own tables. -/
  system : Bool := false
  /-- R192: it has been rebound, so that the 1 ms spacing applies. -/
  rebound : Bool := false
  deriving DecidableEq, Repr, Inhabited

/-- R188, R194: a doorbell page. -/
structure DbPage where
  /-- R210: BOB_PAGE_FIRST.VALID (1 bit). -/
  valid : Bool := false
  /-- R210: QUEUE_FIRST (20 bits). -/
  first : Nat := 0
  /-- R210: QUEUE_LAST (20 bits). -/
  last : Nat := 0
  /-- R210: tenant (12 bits). -/
  tenant : Nat := 0
  deriving DecidableEq, Repr, Inhabited

/-- R201: a command that holds a tag. -/
structure Cmd where
  /-- R207: the queue it came from (20 bits). -/
  queue : Nat := 0
  /-- R207: that queue's EPOCH when it started (8 bits). -/
  epoch : Nat := 0
  /-- R197: the 64 bytes of its entry. -/
  entry : List Byte := []
  /-- R200: its result, once it has ended. -/
  result : Option Status := none
  /-- R207: VALUE (64 bits). -/
  value : Nat := 0
  /-- R198, R199: DETAIL [15:0] (16 bits). -/
  detail : Nat := 0
  /-- R207: DETAIL [23:16], the EPOCH of the region written (8 bits). -/
  wroteEpoch : Nat := 0
  /-- R433: its completion is written whatever QUIET says, with USER zero. -/
  ringError : Bool := false
  /-- R297: its remote messages have been handed to the fabric. -/
  sent : Bool := false
  /-- R209: it came from a host request queue before an FLR, so that its completion is discarded. -/
  discard : Bool := false
  /-- R200: an error met while it ran. -/
  error : Option Status := none
  /-- R205: the row's OUTPUT range, as (local address, bytes), for a ROW. -/
  wrote : List (Nat × Nat) := []
  deriving DecidableEq, Repr, Inhabited

/-- Chapter 7: queues, regions, doorbells, tags. -/
structure Bob where
  /-- R187: the queue descriptor table. -/
  queue : Tab Queue := []
  /-- R190: the region table; the tables of R186 are registered at boot. -/
  region : Tab Region := []
  /-- R194: the doorbell pages. -/
  page : Tab DbPage := []
  /-- R194: the low word each page holds (32 bits). -/
  low : Tab Nat := []
  /-- R201: the commands holding tags, by tag; tags below 0x1000 are rows. -/
  tag : Tab (Option Cmd) := []
  /-- R207: tags whose command has ended and whose completion waits, in order of completion. -/
  finished : List Nat := []
  /-- R210: BOB_ROWS rows admitted at the last hold point (16 bits). -/
  rowsAdmitted : Nat := 0
  /-- R206: the rows admitted at this hold point, to be written with STATE 0x1. -/
  admitted : List Nat := []
  /-- R210: BOB_DB_ERRORS (32 bits). -/
  dbErrors : Nat := 0
  /-- R210: BOB_DB_LAST.PAGE (12 bits). -/
  dbPage : Nat := 0
  /-- R210: BOB_DB_LAST.QUEUE (20 bits). -/
  dbQueue : Nat := 0
  /-- R210: BOB_DB_CAUSE (3 bits). -/
  dbCause : Nat := 0
  /-- R210: BOB_STALE_COUNT (32 bits). -/
  staleCount : Nat := 0
  /-- R210: BOB_FLR_DISCARDS (32 bits). -/
  flrDiscards : Nat := 0
  /-- R210: BOB_Q_SEL (20 bits). -/
  qSel : Nat := 0
  /-- R210: BOB_PAGE_SEL (12 bits). -/
  pageSel : Nat := 0
  /-- R210: BOB_STATUS.DB_ERROR (1 bit). -/
  dbError : Bool := false
  /-- R210: BOB_STATUS.STALE (1 bit). -/
  stale : Bool := false
  /-- R210: BOB_STATUS.PEER_OVERRUN (1 bit). -/
  peerOverrun : Bool := false
  deriving DecidableEq, Repr, Inhabited

/-- R217: an MSI-X table entry. -/
structure MsixEntry where
  /-- R217: message address (64 bits). [PRESUMED 3] -/
  addr : Nat := 0
  /-- R217: message data (32 bits). [PRESUMED 3] -/
  data : Nat := 0
  /-- R217: not masked (1 bit); every entry is masked after a reset (R227). -/
  unmasked : Bool := false
  /-- R217: the pending bit (1 bit). -/
  pending : Bool := false
  deriving DecidableEq, Repr, Inhabited

/-- R220: a snoop-filter entry: a window line that the host may hold. -/
structure SfEntry where
  /-- R220: the host may hold it modified. -/
  modified : Bool := false
  /-- R220: its age, for choosing the oldest of a set. -/
  age : Nat := 0
  /-- R220: a BISnpInv for it is outstanding, or waits to be sent. -/
  snooped : Bool := false
  /-- R170, R227: that snoop belongs to a release on the host's behalf. -/
  release : Bool := false
  deriving DecidableEq, Repr, Inhabited

/-- R223: the state of a line in the spill agent's cache. -/
inductive AgentState where
  | wanted | shared | owned | dirty
  deriving DecidableEq, Repr, Inhabited

/-- R223: a line of the spill agent's cache; its bytes are the memory's at its address. -/
structure AgentLine where
  /-- R223: its state. -/
  st : AgentState := .wanted
  /-- R223: its age, for choosing a victim. -/
  age : Nat := 0
  /-- R223: the request that is outstanding is for ownership. -/
  own : Bool := false
  /-- R223: the steps and commands that wait for it. -/
  askers : List Client := []
  deriving DecidableEq, Repr, Inhabited

/-- R223, R224: a line that the host has answered for a step or command: it has been fetched, or its fetch failed. -/
structure SpillGot where
  /-- R223: who waits for it. -/
  client : Client := .flyer
  /-- R223: the line (local address divided by 64). -/
  line : Nat := 0
  /-- R223: it came with ownership. -/
  own : Bool := false
  /-- R224: the status that its use ends with. -/
  st : Option Status := none
  deriving DecidableEq, Repr, Inhabited

/-- R223: a line that an access in progress has not found in the spill agent's cache. -/
structure SpillMiss where
  line : Nat := 0
  /-- R223: it needs ownership. -/
  write : Bool := false
  /-- R223: the whole line is written. -/
  full : Bool := false
  deriving DecidableEq, Repr, Inhabited

/-- R225: a stream of IDE. -/
inductive IdeState where
  | off | secure | insecure
  deriving DecidableEq, Repr, Inhabited

/-- R225, R398: a secured SPDM session. -/
structure Session where
  /-- R398: the session identifier (32 bits). -/
  id : Nat := 0
  /-- R398: FINISH has completed its establishment. -/
  open_ : Bool := false
  /-- R398: how many times its keys have been updated. -/
  updates : Nat := 0
  deriving DecidableEq, Repr, Inhabited

/-- Chapter 8: the CXL host port. -/
structure Hp where
  /-- R229: MOD_HP_LINK.RATE (4 bits). -/
  rate : Nat := 0
  /-- R229: MOD_HP_LINK.WIDTH (4 bits). -/
  width : Nat := 0
  /-- R229: MOD_HP_LINK.FLIT (2 bits). -/
  flit : Nat := 0
  /-- R229: MOD_HP_LINK.PROTO (3 bits). -/
  proto : BitVec 3 := 0
  /-- R225, R229: the CXL.io IDE stream; MOD_HP_LINK.IDE_IO. -/
  ideIo : IdeState := .off
  /-- R225, R229: CXL.cachemem IDE; MOD_HP_LINK.IDE_CM. -/
  ideCm : IdeState := .off
  /-- R211, R225: CXL.cachemem IDE runs in containment mode, not in skid mode, as the host selects. -/
  containment : Bool := false
  /-- R211, R228: AER: a link correctable error has been logged. -/
  aerLogged : Bool := false
  /-- R211, R228: the CXL RAS capability: poisoned spill data has been received. -/
  rasPoison : Bool := false
  /-- R211, R225: the CXL RAS capability: an integrity check of CXL.cachemem IDE has failed. -/
  rasIde : Bool := false
  /-- R225: an integrity check of the CXL.io stream has failed: traffic stays stopped until new keys after a link down. -/
  heldIo : Bool := false
  /-- R225: the same for CXL.cachemem. -/
  heldCm : Bool := false
  /-- R229: MOD_HP_LINK.DECODER (1 bit). -/
  decoder : Bool := false
  /-- R218: DB, the committed decoder base (64 bits). -/
  db : Nat := 0
  /-- R219: the decoder's Error Not Committed (1 bit). -/
  decErr : Bool := false
  /-- R229: MOD_HP_STATUS.LINK_DOWN (1 bit). -/
  linkDown : Bool := false
  /-- R229: MOD_HP_STATUS.IDE_FAIL (1 bit). -/
  ideFail : Bool := false
  /-- R229: MOD_HP_STATUS.POISON_SENT (1 bit). -/
  poisonSent : Bool := false
  /-- R229: MOD_HP_STATUS.SPILL_ERR (1 bit). -/
  spillErr : Bool := false
  /-- R229: MOD_HP_STATUS.DOWNGRADE (1 bit). -/
  downgrade : Bool := false
  /-- R229: MOD_HP_STATUS.WBINV (1 bit). -/
  wbinv : Bool := false
  /-- R214: the link is in recovery. -/
  recovering : Bool := false
  /-- R228: the port is to retrain at this rate at most. -/
  rateCap : Option Nat := none
  /-- R219, R229: WB (40 bits). -/
  winBase : Nat := 0x7B00000000
  /-- R219, R229: S in units of 256 MiB (9 bits). -/
  winSize : Nat := 0x40
  /-- R220: the snoop filter, by window line (local address divided by 64). -/
  sf : Tab (Option SfEntry) := []
  /-- R220: host reads that wait for an entry of the snoop filter: 2 × line, plus 1 where the host asks to own it. -/
  sfWait : List Nat := []
  /-- R220: lines whose BISnpInv waits to be sent. -/
  snoopQ : List Nat := []
  /-- R227: an FLR has arrived while a release on the host's behalf was in progress. -/
  flrDue : Bool := false
  /-- R220, R223: a count that orders entries by age. -/
  clock : Nat := 0
  /-- R229: MOD_HP_BISNP (32 bits). -/
  bisnp : Nat := 0
  /-- R229: MOD_HP_POISON poisoned spill responses (16 bits). -/
  poisonSpill : Nat := 0
  /-- R229: MOD_HP_POISON poisoned responses sent (16 bits). -/
  poisonHost : Nat := 0
  /-- R229: MOD_HP_SPILL_SEL (9 bits). -/
  spillSel : Nat := 0
  /-- R222: the spilled zones and their host addresses (52 bits). -/
  spill : Tab (Option Nat) := []
  /-- R229: MOD_HP_SPILL_MISS (32 bits). -/
  spillMiss : Nat := 0
  /-- R223: the spill agent's cache, by line (local address divided by 64). -/
  agent : Tab (Option AgentLine) := []
  /-- R223: spill accesses that wait for their line. -/
  spillWait : List MemAccess := []
  /-- R223: the step or command whose accesses are being served; `none` between commands. -/
  serving : Option Client := none
  /-- R223: the lines that it has not found. -/
  missed : List SpillMiss := []
  /-- R223, R224: the lines that the host has answered for steps and commands that wait. -/
  got : List SpillGot := []
  /-- R217: the MSI-X table and pending bits. -/
  msix : Tab MsixEntry := []
  /-- R217: MSI-X is enabled. [PRESUMED 3] -/
  msixOn : Bool := false
  /-- R215: the function is in D3hot. -/
  d3 : Bool := false
  /-- R226: a DOE exchange is in progress; MOD_HP_STATUS.DOE_BUSY. -/
  doeBusy : Bool := false
  /-- R226: the secured sessions. -/
  sessions : List Session := []
  /-- R398: the algorithms have been negotiated. -/
  negotiated : Bool := false
  /-- R398: GET_VERSION has been answered. -/
  versioned : Bool := false
  deriving DecidableEq, Repr, Inhabited

/-- R234: who owns a mailbox, numbered as MBX_OWNER.KIND numbers it. -/
inductive MbxKind where
  | unassigned | host | tenant | eventHost | eventTenant
  deriving DecidableEq, Repr, Inhabited

/-- R236, R249: MBX_STATE.STATE of a command mailbox (an event mailbox reads 0x4 by its owner's kind). -/
inductive MbxPhase where
  | idle | queued | inProgress | done
  deriving DecidableEq, Repr, Inhabited

/-- R239, R243: the resource class of a command. -/
inductive CmdClass where
  | none | mbx | plan | mem | queue | frame | power | flash | sec | test
  deriving DecidableEq, Repr, Inhabited

/-- R235, R236: a request as the flyer copied it at acceptance. -/
structure MbxReq where
  /-- R235: COMMAND (16 bits). -/
  command : Nat := 0
  /-- R235: USER (64 bits). -/
  user : Nat := 0
  /-- R235: PARAMS. -/
  params : List Byte := []
  deriving DecidableEq, Repr, Inhabited

/-- R233-R249: one mailbox. -/
structure Mbx where
  /-- R249: MBX_OWNER.KIND (3 bits). -/
  kind : MbxKind := .unassigned
  /-- R249: MBX_OWNER.TENANT (12 bits). -/
  tenant : Nat := 0
  /-- R234, R249: MBX_OWNER.VECTOR (11 bits); `none` is the boot value 0x7C0 + m. -/
  vector : Option Nat := none
  /-- R249: MBX_STATE.STATE (3 bits). -/
  phase : MbxPhase := .idle
  /-- R249: MBX_STATE.GO_IGNORED (1 bit). -/
  goIgnored : Bool := false
  /-- R249: MBX_STATE.CANCEL_IGNORED (1 bit). -/
  cancelIgnored : Bool := false
  /-- R249: MBX_REPLY_STATUS.STATUS (16 bits). -/
  status : Status := .sOk
  /-- R249: MBX_REPLY_STATUS.COMMAND (16 bits). -/
  answered : Nat := 0
  /-- R249: MBX_STEPS_DONE (32 bits). -/
  stepsDone : Nat := 0
  /-- R249: MBX_STEPS_TOTAL (32 bits). -/
  stepsTotal : Nat := 0
  /-- R249: MBX_REPLY_DETAIL (32 bits). -/
  detail : Nat := 0
  /-- R249: MBX_REPLY_LEN (13 bits). -/
  replyLen : Nat := 0
  /-- R249: MBX_EVT_HEAD (32 bits). -/
  evtHead : Nat := 0
  /-- R249: MBX_EVT_TAIL (32 bits). -/
  evtTail : Nat := 0
  /-- R249: MBX_EVT_LOST (32 bits). -/
  evtLost : Nat := 0
  /-- R244: SEQ, the events posted since boot (32 bits). -/
  evtSeq : Nat := 0
  /-- R233: the payload (4,096 bytes). -/
  payload : Tab Byte := []
  /-- R236: payload bytes written over while QUEUED, as they were before: it is open which the flyer reads. -/
  torn : Tab (Option Byte) := []
  /-- R236: the request being carried out. -/
  req : Option MbxReq := none
  /-- R240: a cancel waits for the next step boundary. -/
  cancelReq : Bool := false
  /-- R239: the command has taken its checks and waits for something outside the flyer (a drain, a copy, a reset). -/
  started : Bool := false
  deriving DecidableEq, Repr, Inhabited

/-- Chapter 9: the flyer clusters and the mailboxes. -/
structure Fly where
  /-- R233: the mailboxes MB00 to MB63; MB00 is the host's and MB63 posts events (R234). -/
  mbx : Tab Mbx := [(0, { kind := .host }), (63, { kind := .eventHost })]
  /-- R237: mailboxes whose GO waits for acceptance, in order of arrival. -/
  goOrder : List Nat := []
  /-- R239: commands in progress in a class, in order of acceptance, as (class, mailbox). -/
  classQ : List (CmdClass × Nat) := []
  /-- R237: the mailbox whose step was taken last (6 bits). [DC 2] -/
  lastStep : Nat := 63
  /-- R237: the mailboxes whose step a core has taken and not ended, oldest first (at most four). -/
  taken : List Nat := []
  /-- R250: MBX_FLYER_STATUS.TAKEOVER (1 bit). -/
  takeover : Bool := false
  /-- R250: MBX_FLYER_STATUS.STANDBY_LOST (1 bit). -/
  standbyLost : Bool := false
  /-- R250: MBX_FLYER_STATUS.NO_STANDBY (1 bit). -/
  noStandby : Bool := false
  /-- R250: MBX_FLYER_STATUS.ACTIVE (1 bit): the LD1 cluster is active. -/
  activeLd1 : Bool := false
  /-- R250: MBX_FLYER_STATUS.CORES_UP (4 bits). -/
  coresUp : BitVec 4 := 0xF
  /-- R250: MBX_FW_VERSION major (16 bits), the running firmware's. [DC 1] -/
  fwMajor : Nat := 0
  /-- R250: MBX_FW_VERSION minor (16 bits), the running firmware's. [DC 1] -/
  fwMinor : Nat := 0
  /-- R250: MBX_HEARTBEAT (32 bits). -/
  heartbeats : Nat := 0
  /-- R250: MBX_ACCEPT_MAX (32 bits), µs. -/
  acceptMax : Nat := 0
  /-- R250: MBX_CMD_COUNT (32 bits). -/
  cmdCount : Nat := 0
  /-- R231: steps acknowledged by the standby since boot (32 bits). -/
  mirrored : Nat := 0
  /-- R248: the clusters (0 active, 1 standby) whose SRAM scrub waits for the next step gap. -/
  scrubDue : List Nat := []
  deriving DecidableEq, Repr, Inhabited

/-- R273: the state of a laser, numbered as STATE of `laser.status` numbers it. -/
inductive LaserState where
  | standby | warming | lit | litAtMax | failed | retired
  deriving DecidableEq, Repr, Inhabited

/-- R254-R256, R273: one laser of a bank. -/
structure Laser where
  /-- R273: STATE (8 bits). -/
  st : LaserState := .standby
  /-- R255, R273: DRIVE, 0.1 mA (16 bits). [DC 1] -/
  drive : Nat := 0
  /-- R255, R273: DRIVE_MAX, 0.1 mA (16 bits), fused at manufacture. [DC 1] -/
  driveMax : Nat := 0
  /-- R273: POWER, the stage 0 reading, 2 µW units (16 bits). -/
  power : Nat := 0
  /-- R273: HOURS lit since manufacture (32 bits). -/
  hours : Nat := 0
  /-- R255, R273: the 10 ms for which it has been lit in the hour that HOURS has not counted yet (0 to 359,999). -/
  litTicks : Nat := 0
  /-- R268: consecutive 10 ms readings of the bank margin below 1.5 dB. -/
  low : Nat := 0
  /-- R268, R273: the bank margin of its wavelength, 0.01 dB; `none` is unknown. -/
  margin : Option Int := none
  /-- R268: its fade has been confirmed. -/
  faded : Bool := false
  deriving DecidableEq, Repr, Inhabited

/-- R272: OPT_BANK.SWAP. -/
inductive SwapPhase where
  | none | warming | training | mirroring | pending | inService
  deriving DecidableEq, Repr, Inhabited

/-- R254, R268, R272: one laser bank. -/
structure Bank where
  /-- R254: lasers 0 to 8. -/
  laser : Vector Laser 9 := .replicate 9 {}
  /-- R272: SWAP (3 bits). -/
  swap : SwapPhase := .none
  /-- R272: SPARE_FOR (4 bits). -/
  spareFor : Option Nat := none
  /-- R425: the serial number of the bank assembly as recorded in module flash. [DC 1] -/
  serial : Nat := 0
  deriving DecidableEq, Repr, Inhabited

/-- R268: where L8 stands on a strand in the current swap. -/
inductive MirrorState where
  | untrained | trained | verified
  deriving DecidableEq, Repr, Inhabited

/-- R252: a map change that waits for its block sequence number. -/
structure MapChange where
  /-- R263: LMAP, the lane at each occupied position. -/
  map : List Nat := []
  /-- R263: AT_SEQ (48 bits). -/
  at_ : Nat := 0
  deriving DecidableEq, Repr, Inhabited

/-- R251-R268: one strand's optics. -/
structure Strand where
  /-- R252: the transmit lane map, lanes at positions 0 to n - 1. -/
  txMap : List Nat := List.range 8
  /-- R252: the receive lane map. -/
  rxMap : List Nat := List.range 8
  /-- R252, R264: a transmit map change announced and not yet in force. -/
  txNext : Option MapChange := none
  /-- R252, R264: a receive map change announced and not yet in force. -/
  rxNext : Option MapChange := none
  /-- R253: the direction is out of service (transmit). -/
  txOut : Bool := true
  /-- R253: the direction is out of service (receive). -/
  rxOut : Bool := true
  /-- R265: withdrawn from packet routing after a lost lane. -/
  withdrawn : Bool := false
  /-- R258: withdrawn for a calibration. -/
  calWithdrawn : Bool := false
  /-- R266, R272: LOC (3 bits). -/
  loc : Nat := 0
  /-- R263: the far end's margins of the transmit lanes, 0.1 dB, by lane; `none` is no reading. -/
  txMargin : Tab (Option Int) := []
  /-- R263: no margin report for 100 ms: transmit margins unknown. -/
  txUnknown : Bool := true
  /-- R261: receive margins measured here, 0.1 dB, by lane. -/
  rxMargin : Tab (Option Int) := []
  /-- R260: the last 10 readings of each receive lane, 0.1 dB, newest first, by lane. -/
  rxLast : Tab (List Int) := []
  /-- R258: each receive lane's baseline margin, 0.1 dB, by lane. -/
  baseline : Tab (Option Int) := []
  /-- R260, R263: the last 10 margins that the far end has reported of each transmit lane, 0.1 dB, newest first, by lane. -/
  txLast : Tab (List Int) := []
  /-- R260: each transmit lane's baseline margin, 0.1 dB, by lane. [DEDUCED 97] -/
  txBase : Tab (Option Int) := []
  /-- R260: a calibration has ended whose transmit baselines the far end has not reported yet. [DEDUCED 97] -/
  txFresh : Bool := false
  /-- R266: the baseline code of each stage's reading on the transmit path, by 16 stage + lane. -/
  stageBase : Tab Nat := []
  /-- R266, R272: the baseline stage 3 code of each receive lane, by lane. -/
  rxCode : Tab Nat := []
  /-- R260: due for calibration. -/
  calDue : Bool := false
  /-- R260, R272: CAL_OVERDUE (1 bit). -/
  calOverdue : Bool := false
  /-- R260, R272: `Opt.clock` at the last calibration. -/
  calAt : Nat := 0
  /-- R264: transmit lanes lost and waiting for a calibration. -/
  lost : List Nat := []
  /-- R271: transmit lanes that stay dropped until a service window. -/
  stay : List Nat := []
  /-- R264: receive lanes lost whose drop request has not been acknowledged. -/
  dropReq : List Nat := []
  /-- R268: where L8 stands in the current swap. -/
  mirror : MirrorState := .untrained
  /-- R268: L8 must be trained (again) in the next period. -/
  trainDue : Bool := false
  /-- R260: the calibration is due to a margin that has fallen. -/
  drift : Bool := false
  /-- R267: lost transmit lanes that a calibration has found to pass again. -/
  passed : List Nat := []
  /-- R268: the receive lane that L8 has been found to mirror. -/
  rxMirror : Option Nat := none
  deriving DecidableEq, Repr, Inhabited

/-- R259: the calibration in progress. -/
structure CalJob where
  strand : Nat := 0
  /-- R259: this device is the end that started it. -/
  starter : Bool := false
  /-- R259: the far end has accepted. -/
  accepted : Bool := false
  /-- R268: L8 is trained in it. -/
  train : Bool := false
  /-- R268: the far end trains its L8 in it. -/
  farTrain : Bool := false
  /-- R258: it calibrates the strand's lanes. -/
  cal : Bool := true
  deriving DecidableEq, Repr, Inhabited

/-- R257: one tunable element: its table and the code set. -/
structure Heater where
  /-- R257: the table's codes from 20 °C to 105 °C (86 x 12 bits). [DC 1] -/
  table : List Nat := List.replicate 86 0
  /-- R257: the code in force (12 bits). -/
  code : Nat := 0
  deriving DecidableEq, Repr, Inhabited

/-- R261, R272: what OPT_MON_SEL selects. -/
structure MonSel where
  /-- R272: INTEG (2 bits). -/
  integ : Nat := 0
  /-- R272: STAGE (2 bits). -/
  stage : Nat := 0
  /-- R272: STRAND (6 bits). -/
  strand : Nat := 0
  /-- R272: LANE (4 bits). -/
  lane : Nat := 0
  deriving DecidableEq, Repr, Inhabited

/-- Chapter 10: lasers, strands, calibration, monitors. -/
structure Opt where
  /-- R272: OPT_STATUS.LANE_EVENT (1 bit). -/
  laneEvent : Bool := false
  /-- R272: OPT_STATUS.SWAP_DONE (1 bit). -/
  swapDone : Bool := false
  /-- R272: OPT_STATUS.CAL_FAIL (1 bit). -/
  calFail : Bool := false
  /-- R259: the calibration or training in progress. -/
  cal : Option CalJob := none
  /-- R254: banks A and B. -/
  bank : Vector Bank 2 := .replicate 2 {}
  /-- R251: the strands. -/
  strand : Tab Strand := []
  /-- R272: OPT_STRAND_SEL (6 bits). -/
  sel : Nat := 0
  /-- R257: the heaters, by (strand 9 + lane) 2 + (0 modulator, 1 filter). -/
  heater : Tab Heater := []
  /-- R272: OPT_MON_SEL. -/
  monSel : MonSel := {}
  /-- R272: the reading in progress, as OPT_MON_SEL was at the last GO. -/
  monRun : Option MonSel := none
  /-- R272: OPT_MON_VALUE.VALID (1 bit). -/
  monValid : Bool := false
  /-- R272: OPT_MON_VALUE.LOW (1 bit). -/
  monLow : Bool := false
  /-- R272: OPT_MON_VALUE.BITS (4 bits). -/
  monBits : Nat := 0
  /-- R272: OPT_MON_VALUE.CODE (16 bits). -/
  monCode : Nat := 0
  /-- R267, R268: lane changes that wait for the next frame boundary, as (strand, new transmit map). -/
  atFrame : List (Nat × List Nat) := []
  /-- R261: the last stage readings (code), by ((stage 64 + strand) 16 + lane). -/
  reading : Tab Nat := []
  /-- R260, R263, R272: the 10 ms readings taken since the last PACKAGE or COLD reset, the model's count of time for MINUTES. -/
  clock : Nat := 0
  deriving DecidableEq, Repr, Inhabited

/-- R274: a link block to be sent, before its SEQ, ACK and CRC are filled in. -/
structure Blk where
  /-- R275: TYPE (4 bits). -/
  typ : Nat := 0
  /-- R274: DUP (1 bit). -/
  dup : Bool := false
  /-- R275: ROUTE (56 bits). -/
  route : Nat := 0
  /-- R274: the payload, at most 256 bytes, zeros after it. -/
  payload : List Byte := []
  deriving DecidableEq, Repr, Inhabited

/-- R291: a packet that waits for a strand. -/
structure Pkt where
  /-- R275: DEST (14 bits). -/
  dest : Nat := 0
  /-- R275: HOPS (7 bits). -/
  hops : Nat := 0
  /-- R275: MARKS (7 bits). -/
  marks : Nat := 0
  /-- R289: the packet's payload. -/
  payload : List Byte := []
  /-- R291: the ingress strand of a transit packet. -/
  ingress : Option Nat := none
  deriving DecidableEq, Repr, Inhabited

/-- R277-R280: the link layer of one strand. -/
structure Link where
  /-- R277: the next sequence number to send (48 bits). -/
  txSeq : Nat := 0
  /-- R277: the replay buffer: blocks sent and not covered by an ACK, oldest first. -/
  held : List (Nat × Blk) := []
  /-- R277: sequence numbers to be resent, in order. -/
  resend : List Nat := []
  /-- R277: the block that the last NAK acted on asked for first. -/
  lastNak : Option Nat := none
  /-- R277: block positions for which a NAK that names the same ACK is still ignored. [DEDUCED 99] -/
  nakQuiet : Nat := 0
  /-- R277: the next sequence number expected (48 bits). -/
  rxSeq : Nat := 0
  /-- R277: NAK is set in every block sent. -/
  nak : Bool := false
  /-- R303: the block accepted last was one that NAKs had asked for. -/
  replayed : Bool := false
  /-- R278: one past the highest sequence number that has been seen (48 bits). -/
  rxTop : Nat := 0
  /-- R278: the block accepted last came behind later ones, by replay. -/
  late : Bool := false
  /-- R300: FAB_STRAND_LINK.WINDOW_FULL (1 bit). -/
  windowFull : Bool := false
  /-- R278: tick copies to be sent. -/
  ticks : List Blk := []
  /-- R280: tick replies and discovery blocks to be sent, in order. -/
  seqd : List Blk := []
  /-- R263, R278: link-control messages to be sent. -/
  ctl : List (List Byte) := []
  /-- R278: block times for which the link-control block that is going out still lasts. -/
  ctlLeft : Nat := 0
  /-- R285: blocks of this device's own transfers, in order, as (RESV, block). -/
  own : List (Nat × Blk) := []
  /-- R286: the circuit buffer: relayed blocks held, as (RESV, block). -/
  cbuf : List (Nat × Blk) := []
  /-- R286: relayed blocks that leave cut-through if a position is open at once, as (RESV, block). -/
  cut : List (Nat × Blk) := []
  /-- R291: the packet chosen for this strand. -/
  pkt : Option Pkt := none
  /-- R281: the slot whose positions are being sent. -/
  slot : Option Nat := none
  /-- R287: circuit blocks of this device sent in this slot, by RESV. -/
  inSlot : Tab Nat := []
  /-- R287: the limits of lane notices in force in this slot, by RESV. -/
  limit : Tab (Option Nat) := []
  deriving DecidableEq, Repr, Inhabited

/-- R285: a transfer that arrives at its target. -/
structure RxXfer where
  /-- R285: OP, RED_OP, DTYPE. -/
  op : Nat := 0
  redOp : Nat := 0
  dtype : Nat := 0
  /-- R285: COUNT (32 bits). -/
  count : Nat := 0
  gaddr : Nat := 0
  len : Nat := 0
  xoff : Nat := 0
  /-- R335: the open block of a collective's chunk. -/
  head : List Byte := []
  /-- R294: dropped under R193 and answered. -/
  dropped : Bool := false
  /-- R285: the data bytes received, in order. -/
  data : List Byte := []
  deriving DecidableEq, Repr, Inhabited

/-- R289-R295: a message this device has sent and that has not been answered. -/
structure TxMsg where
  /-- R294: the operation it belongs to. -/
  op : Nat := 0
  dest : Nat := 0
  /-- R289: the payloads of its packets. -/
  packets : List (List Byte) := []
  /-- R295: frames since it was last sent. -/
  frames : Nat := 0
  /-- R295: how many times it has been resent. -/
  resends : Nat := 0
  deriving DecidableEq, Repr, Inhabited

/-- R293-R295: a message that this device receives. -/
structure RxMsg where
  /-- R293: indices received, and their data. -/
  got : Tab (Option (List Byte)) := []
  /-- R293: COUNT, once LAST has come. -/
  count : Option Nat := none
  /-- R293: CHECK, once LAST has come. -/
  check : Nat := 0
  /-- R294: the sum of MARKS. -/
  marks : Nat := 0
  /-- R294: dropped and answered. -/
  dropped : Bool := false
  /-- R295: frames since its first packet, or since the last re-request. -/
  frames : Nat := 0
  /-- R295: re-requests sent. -/
  rereqs : Nat := 0
  /-- R293, R294: it is complete and has been answered so; a resent packet of it is answered so again. -/
  answer : Option (List Byte) := none
  deriving DecidableEq, Repr, Inhabited

/-- R164, R294: a remote operation that this device has issued. -/
structure RemOp where
  /-- R197: the operation, as OP of R290 numbers it. -/
  op : Nat := 0
  /-- R182: the step or command it belongs to. -/
  client : Client := .flyer
  /-- R182: the issuing unit: a transfer engine or a queue, numbered. -/
  unit : Nat := 0
  /-- R288: the target device. -/
  dest : Nat := 0
  /-- R168, R288: the local address there (40 bits). -/
  addr : Nat := 0
  /-- R168: the bytes it performs there. -/
  len : Nat := 0
  /-- R294: messages and transfers of it that have not been answered. -/
  open_ : Nat := 0
  /-- R294: the status of the first failure. -/
  status : Option Status := none
  /-- R294: its DETAIL. -/
  detail : Nat := 0
  /-- R297: the bytes of a GET still to be performed here. -/
  getLeft : Nat := 0
  /-- R297: the GET's destination region handle. -/
  getRegion : Nat := 0
  /-- R297: the GET's REPLY_GADDR. -/
  getAddr : Nat := 0
  /-- R297: the GET's length. -/
  getLen : Nat := 0
  /-- R297: the previous value that an atomic returned. -/
  value : Nat := 0
  /-- R297: the increment of a SIGNAL, not yet sent: counter address and increment. -/
  incr : Option (Nat × Nat) := none
  /-- R297: earlier operations of the unit to the same target that the increment waits for. -/
  after : List Nat := []
  deriving DecidableEq, Repr, Inhabited

/-- R175, R297: a synchronisation packet that has not been acknowledged. -/
structure SyncOut where
  entry : Nat := 0
  frame : Nat := 0
  dest : Nat := 0
  msg : Nat := 0
  deriving DecidableEq, Repr, Inhabited

/-- R282: a reservation entry. -/
structure Resv where
  strand : Nat := 0
  resv : Nat := 0
  firstSlot : Nat := 0
  slotCount : Nat := 0
  deriving DecidableEq, Repr, Inhabited

/-- R282: a transit entry. -/
structure Transit where
  inStrand : Nat := 0
  resv : Nat := 0
  outStrand : Nat := 0
  deriving DecidableEq, Repr, Inhabited

/-- R282, R291: the tables that a plan brings. -/
structure Tables where
  /-- R291: the mask of productive strands of each destination (64 bits each). -/
  routes : Tab Nat := []
  /-- R282: the reservation table. -/
  resvs : List Resv := []
  /-- R282: the transit table. -/
  transits : List Transit := []
  deriving DecidableEq, Repr, Inhabited

/-- R285: a transfer that this device has sent and that has not been acknowledged. -/
structure TxXfer where
  op : Nat := 0
  dest : Nat := 0
  deriving DecidableEq, Repr, Inhabited

/-- R285: the transfers of an operation that wait for a transfer number. -/
structure XferRest where
  /-- R294: the operation. -/
  op : Nat := 0
  strand : Nat := 0
  resv : Nat := 0
  /-- R285: OP, RED_OP and DTYPE of the open blocks. -/
  code : Nat := 0
  redOp : Nat := 0
  dtype : Nat := 0
  gaddr : Nat := 0
  /-- R285: the operation's LENGTH. -/
  len : Nat := 0
  /-- R285: the transfers still to be queued, in order, by their offset in MiB. -/
  todo : List Nat := []
  /-- R285: the operation's data, as read when it was issued. -/
  data : List Byte := []
  deriving DecidableEq, Repr, Inhabited

/-- R292: the rate for a destination, in blocks per µs, as a fraction. -/
structure Rate where
  num : Nat := 64
  den : Nat := 1
  deriving DecidableEq, Repr, Inhabited

/-- Chapter 11: the fabric. -/
structure Fab where
  /-- R300: FAB_STATUS.CBUF_OVERFLOW (1 bit). -/
  cbufOverflow : Bool := false
  /-- R300: FAB_STATUS.UNREACHABLE (1 bit). -/
  unreachable : Bool := false
  /-- R300: FAB_STATUS.MSG_INCOMPLETE (1 bit). -/
  msgIncomplete : Bool := false
  /-- R300: FAB_STATUS.CHECK_FAIL (1 bit). -/
  checkFail : Bool := false
  /-- R300: FAB_STATUS.LANE_LIMIT (1 bit). -/
  laneLimit : Bool := false
  /-- R298, R300: new tables staged; FAB_STATUS.STAGED. -/
  staged : Option Tables := none
  /-- R300: FAB_DEVICE_ID (14 bits), if valid. -/
  deviceId : Option Nat := none
  /-- R300: FAB_DROPS hop limit (16 bits). -/
  dropHops : Nat := 0
  /-- R300: FAB_DROPS want of a strand or a state entry (16 bits). -/
  dropRoom : Nat := 0
  /-- R300: FAB_DEFLECTIONS (32 bits). -/
  deflections : Nat := 0
  /-- R300: FAB_REQUESTS re-requests sent (16 bits). -/
  rereqs : Nat := 0
  /-- R300: FAB_REQUESTS messages resent (16 bits). -/
  resends : Nat := 0
  /-- R300: FAB_CBUF_PEAK (11 bits). -/
  cbufPeak : Nat := 0
  /-- R300: FAB_CBUF_OVERFLOWS (32 bits). -/
  cbufOver : Nat := 0
  /-- R300: FAB_STRAND_SEL (6 bits). -/
  strandSel : Nat := 0
  /-- R300: FAB_DEST_SEL (14 bits). -/
  destSel : Nat := 0
  /-- R291, R282: the tables in force. -/
  tables : Tables := {}
  /-- R300: a routing table is loaded. -/
  routed : Bool := false
  /-- R277: the link layers of the strands. -/
  link : Tab Link := []
  /-- R292: the rate for each destination. -/
  rate : Tab Rate := []
  /-- R291: packets of this device that wait for a strand, in order. -/
  inject : List Pkt := []
  /-- R291: transit packets that wait for a strand, in order of arrival. -/
  transit : List Pkt := []
  /-- R289: messages sent and not answered, by MSG. -/
  tx : Tab (Option TxMsg) := []
  /-- R289: the next message number (16 bits). -/
  nextMsg : Nat := 0
  /-- R293: messages received in part, by SRC 65536 + MSG. -/
  rx : Tab (Option RxMsg) := []
  /-- R285: transfers being received, by (strand 16384 + SRC) 65536 + RESV 256 + XFER. -/
  rxXfer : Tab (Option RxXfer) := []
  /-- R285: transfers sent and not acknowledged, by RESV 256 + XFER. -/
  txXfer : Tab (Option TxXfer) := []
  /-- R275: the next transfer number at this device (8 bits). -/
  nextXfer : Nat := 0
  /-- R294: operations issued and not complete, by number. -/
  op : Tab (Option RemOp) := []
  /-- R285: operations with transfers that wait for a number, in order. -/
  rest : List XferRest := []
  /-- R294: the next operation number. -/
  nextOp : Nat := 0
  /-- R175: synchronisation packets not yet acknowledged. -/
  syncOut : List SyncOut := []
  /-- R287: blocks per slot that lane notices allow from each strand's next slot on, by RESV; `none` is no limit. -/
  limit : Tab (Option Nat) := []
  /-- R287: sources of relayed blocks held in each strand's buffer this frame and the one before, as (strand, RESV, SRC). -/
  relayed : List (Nat × Nat × Nat) := []
  /-- R287: those of the frame before. -/
  relayedOld : List (Nat × Nat × Nat) := []
  /-- R298: transfers that this device relays and whose close block has not passed, as (egress strand, ROUTE without
  INDEX). -/
  passing : List (Nat × Nat) := []
  deriving DecidableEq, Repr, Inhabited

/-- R309: the state of a strand towards the plan, numbered as STATE numbers it. -/
inductive DiscState where
  | out | discovering | found | none | matched | absent | quarantined | idle
  deriving DecidableEq, Repr, Inhabited

/-- R301: what the last hello of a neighbour said. -/
structure Hello where
  idValid : Bool := false
  matched : Bool := false
  formed : Bool := false
  strand : Nat := 0
  state : Nat := 0
  digest : Nat := 0
  feed : Nat := 0
  devId : Nat := 0
  domain : Nat := 0
  domDigest : Nat := 0
  latency : Nat := 0
  deriving DecidableEq, Repr, Inhabited

/-- R303, R304: the neighbour of a strand. -/
inductive Neighbour where
  | waiting | found | lost | none
  deriving DecidableEq, Repr, Inhabited

/-- R301-R315: one strand's discovery. -/
structure Disc where
  /-- R304: whether a neighbour has been found. -/
  nb : Neighbour := .waiting
  /-- R303: the last 64 samples, in 50 ps units, newest first. -/
  samples : List Nat := []
  /-- R303: the latency, ns (16 bits), of those samples. -/
  latency : Nat := 0
  /-- R301: the last hello. -/
  hello : Option Hello := none
  /-- R301: T_SEND of the last hello accepted, and its arrival time, 50 ps units. -/
  echo : Option (Nat × Nat) := none
  /-- R309: the state (3 bits). -/
  st : DiscState := .out
  /-- R309: REASON (4 bits). -/
  reason : Nat := 0
  /-- R310: MATCHED again: ticks and circuits wait for the next frame start. -/
  fresh : Bool := false
  /-- R313: the last summary of the child for the main tree: COUNT, DEPTH, MAX_L, ALL_MATCH. -/
  sum0 : Option (Nat × Nat × Nat × Bool) := none
  /-- R313: the same for the standby tree. -/
  sum1 : Option (Nat × Nat × Nat × Bool) := none
  /-- R314: the child has been sent an alignment block since it rejoined. -/
  rejoined : Bool := false
  deriving DecidableEq, Repr, Inhabited

/-- R307: a NEIGHBOURS entry. -/
structure PlanNb where
  role : Nat := 0
  farStrand : Nat := 0
  foreign : Bool := false
  farDevice : Nat := 0
  latMax : Nat := 0
  farDigest : Nat := 0
  deriving DecidableEq, Repr, Inhabited

/-- R306, R307: a topology plan, read. -/
structure Plan where
  deviceId : Nat := 0
  domain : Nat := 0
  domainSize : Nat := 0
  whorl : Nat := 0
  standby : Nat := 0xFFFF
  parent : Nat := 0xFF
  sbParent : Nat := 0xFF
  domDigest : Nat := 0
  children : Nat := 0
  sbChildren : Nat := 0
  parentAlt : Nat := 0
  sbParentAlt : Nat := 0
  nbs : List PlanNb := []
  tables : Tables := {}
  /-- R306: the plan tag (64 bits). -/
  tag : Nat := 0
  deriving DecidableEq, Repr, Inhabited

/-- R313: this device's place in one tree. -/
structure TreePos where
  depth : Nat := 0
  lat : Nat := 0
  /-- R313: this device's summary has been sent. -/
  sent : Bool := false
  deriving DecidableEq, Repr, Inhabited

/-- Chapter 12: discovery, the plan and the domain. -/
structure Top where
  /-- R325: TOP_STATUS.MISMATCH (1 bit). -/
  mismatch : Bool := false
  /-- R325: TOP_STATUS.TICK_LOST (1 bit). -/
  tickLost : Bool := false
  /-- R325: TOP_STATUS.QUARANTINE (1 bit). -/
  quarantine : Bool := false
  /-- R325: TOP_STATUS.FORMED (1 bit). -/
  formed : Bool := false
  /-- R305, R325: TOP_FEED (16 bits). -/
  feed : Nat := 0
  /-- R308: the plan loaded and not accepted. -/
  loaded : Option Plan := none
  /-- R311: the plan accepted. -/
  plan : Option Plan := none
  /-- R311: a revision accepted that waits for its configuration epoch. -/
  revision : Option Plan := none
  /-- R311: `plan.accept` waits until no strand is DISCOVERING: its mailbox. -/
  accepting : Option Nat := none
  /-- R301: the strands' discovery. -/
  disc : Tab Disc := []
  /-- R325: TOP_DISCARDS (32 bits). -/
  discards : Nat := 0
  /-- R313, R325: this device's place in the main tree. -/
  main : Option TreePos := none
  /-- R313: its place in the standby tree. -/
  sb : Option TreePos := none
  /-- R313: on the whorl, the standby's totals: COUNT and MAX_L. -/
  sbTotals : Option (Nat × Nat) := none
  /-- R313: on the whorl, the form block has been sent. -/
  formSent : Bool := false
  /-- R315, R325: TOP_SUMMARY COUNT (13 bits). -/
  sumCount : Nat := 0
  /-- R325: TOP_SUMMARY.ALL_MATCH (1 bit). -/
  sumMatch : Bool := false
  /-- R317, R325: TOP_TREE.IN_USE (8 bits), the strand giving main-tree ticks. -/
  inUse : Nat := 0xFF
  /-- R325: TOP_TREE.SB_IN_USE (8 bits). -/
  sbInUse : Nat := 0xFF
  /-- R314: L + 200 ns exceeds A: NOT_LOCKED in every reply. -/
  tooFar : Bool := false
  /-- R305: SERIAL_DIGEST (64 bits), from manufacture. [DC 1] -/
  serial : Nat := 0
  deriving DecidableEq, Repr, Inhabited

/-- R332-R336: one direction of a running collective. -/
structure RingDir where
  /-- R332: chunks still to be sent, in order, as (phase, step, shard, chunk). -/
  toSend : List (Nat × Nat × Nat × Nat) := []
  /-- R339: chunks still expected, in order, as (phase, step, shard, chunk). -/
  toRecv : List (Nat × Nat × Nat × Nat) := []
  /-- R336: chunks sent and not yet credited. -/
  sent : Nat := 0
  /-- R335: the CREDIT last taken from the far end (16 bits). -/
  credSeen : Nat := 0
  /-- R335: chunks received from the neighbour and consumed, cumulative (16 bits). -/
  consumed : Nat := 0
  /-- R336: consumed chunks whose credit has not been returned. -/
  uncredited : Nat := 0
  /-- R346: the next chunk waits for credit and has been counted. -/
  stalled : Bool := false
  deriving DecidableEq, Repr, Inhabited

/-- R336: a chunk that arrived before its step started. -/
structure EarlyChunk where
  open_ : List Byte := []
  data : List Byte := []
  good : Bool := true
  deriving DecidableEq, Repr, Inhabited

/-- R340: an abort that has been received: a collective's skein and SEQ, the position of the detector and the direction in
which the chunk travelled. -/
structure SeenAbort where
  skein : Nat := 0
  seq : Nat := 0
  detector : Nat := 0
  dir : Nat := 0
  deriving DecidableEq, Repr, Inhabited

/-- R336, R346: a context. -/
structure Ctx where
  /-- R346: BOUND (1 bit). -/
  bound : Bool := false
  /-- R346: SKEIN (16 bits). -/
  skein : Nat := 0
  /-- R346: STARTED (1 bit). -/
  started : Bool := false
  /-- R346: SEQ of the context (32 bits). -/
  seq : Nat := 0
  /-- R338: the signature (64 bits). -/
  sig : Nat := 0
  /-- R332: the step of the frame program it runs. -/
  step : Nat := 0
  /-- R332: clockwise. -/
  cw : RingDir := {}
  /-- R332: counter-clockwise. -/
  ccw : RingDir := {}
  /-- R332, R336: the working vector's bytes: own input, partials and finals as they are combined. -/
  work : List Byte := []
  /-- R336: chunks that wait for the step to start. -/
  early : List EarlyChunk := []
  /-- R340: the collective has been stopped. -/
  stopped : Bool := false
  /-- R340: how it completed. -/
  result : Option Status := none
  deriving DecidableEq, Repr, Inhabited

/-- Chapter 13: skeins and collectives. -/
structure Skn where
  /-- R346: SKN_STATUS.MISMATCH (1 bit). -/
  mismatch : Bool := false
  /-- R346: SKN_STATUS.ABORTED (1 bit). -/
  aborted : Bool := false
  /-- R346: SKN_STATUS.CHECK_FAIL (1 bit). -/
  checkFail : Bool := false
  /-- R346: SKN_DONE (32 bits). -/
  doneCount : Nat := 0
  /-- R346: SKN_ABORTS mismatches found here (16 bits). -/
  mismatches : Nat := 0
  /-- R346: SKN_ABORTS aborts received (16 bits). -/
  aborts : Nat := 0
  /-- R346: SKN_LAST SKEIN (16 bits). -/
  lastSkein : Nat := 0
  /-- R346: SKN_LAST detector's position (16 bits). -/
  lastPos : Nat := 0
  /-- R346: SKN_LAST_SEQ (32 bits). -/
  lastSeq : Nat := 0
  /-- R346: SKN_SIG_EXP (64 bits). -/
  sigExp : Nat := 0
  /-- R346: SKN_SIG_GOT (64 bits). -/
  sigGot : Nat := 0
  /-- R346: SKN_CTX_SEL (4 bits). -/
  ctxSel : Nat := 0
  /-- R346: SKN_CHUNKS (32 bits). -/
  chunks : Nat := 0
  /-- R346: SKN_WINDOW_STALLS (32 bits). -/
  stalls : Nat := 0
  /-- R336: the 16 contexts. -/
  ctx : Tab Ctx := []
  /-- R327: the SEQ that each skein's next collective step takes (32 bits). -/
  seq : Tab Nat := []
  /-- R340: the collectives that an abort chunk or a mismatch found here has stopped, those not reached yet among them. -/
  abortedSeq : List SeenAbort := []
  /-- R342: the skein served last on each strand. -/
  lastServed : Tab Nat := []
  deriving DecidableEq, Repr, Inhabited

/-- R356: a budget message. -/
structure BudgetMsg where
  /-- R356: the interval number (16 bits). -/
  interval : Nat := 0
  /-- R356: the die's measured power over the interval, W (16 bits). -/
  power : Nat := 0
  /-- R356: its demand, W (16 bits). -/
  demand : Nat := 0
  /-- R356: its hotspot reading, 0.25 °C units (10 bits). -/
  hot : Nat := 0
  deriving DecidableEq, Repr, Inhabited

/-- R357: a hint that has been announced. -/
structure HintInForce where
  /-- R357: POWER_W (16 bits). -/
  power : Nat := 0
  /-- R357: frames until it applies (16 bits). -/
  lead : Nat := 0
  /-- R367: the non-pause frames it has left once it applies (16 bits). -/
  left : Nat := 0
  /-- R357: the limit it sets on CD0-CD3 (4 x 5 bits). -/
  limit : Vector Nat 4 := .replicate 4 19
  deriving DecidableEq, Repr, Inhabited

/-- R359: what has triggered the fast guard. -/
inductive GuardKind where
  | peak | excursion | cap
  deriving DecidableEq, Repr, Inhabited

/-- R367: the power state of one compute die. -/
structure PwrDie where
  /-- R367: PWR_LIMITn.STEP (5 bits), the step in force. -/
  step : Nat := 0
  /-- R367: PWR_LIMITn.POWER (5 bits). -/
  power : Nat := 19
  /-- R367: PWR_LIMITn.THERMAL (5 bits). -/
  thermal : Nat := 19
  /-- R354: the step chosen for the next frame (5 bits). -/
  next : Option Nat := none
  /-- R352: the duty granule pauses the die's issue. -/
  paused : Bool := false
  /-- R358: the droop stretch, percent (0, 25 or 50). -/
  droop : Nat := 0
  /-- R358: the limit falls one step at the next frame start. -/
  lower : Nat := 0
  /-- R367: PWR_DROOPn [31:16], droop events in the window (16 bits). -/
  droopEvents : Nat := 0
  /-- R367: PWR_DROOPn [15:0], µs of stretch in the window (16 bits). -/
  droopUs : Nat := 0
  /-- R367: PWR_DIEn BUDGET (16 bits), W. -/
  budget : Nat := 0
  /-- R356: the budget computed in this interval, used from the next (16 bits), W. -/
  budgetNext : Nat := 0
  deriving DecidableEq, Repr, Inhabited

/-- Chapter 14: the power controller. -/
structure Pwr where
  /-- R367: PWR_STATUS.GUARD (1 bit). -/
  guard_ : Bool := false
  /-- R367: PWR_STATUS.INPUT_HIGH (1 bit). -/
  inputHigh : Bool := false
  /-- R367: PWR_STATUS.INPUT_LOW (1 bit). -/
  inputLow : Bool := false
  /-- R367: PWR_STATUS.BUDGET_STALE (1 bit). -/
  budgetStale : Bool := false
  /-- R367: PWR_STATUS.CAP_UNREACHABLE (1 bit). -/
  capUnreachable : Bool := false
  /-- R350, R359, R367: length of the run of 100 µs readings above 1,500 W (16 bits); EXCURSION reads 1 while non-zero. -/
  excursion : Nat := 0
  /-- R359, R367: the guard stretch in force; PWR_STATUS.STRETCH. -/
  stretch : List GuardKind := []
  /-- R367: PWR_CAP.CAP_W (16 bits). -/
  capW : Nat := 1400
  /-- R351: a cap accepted that takes effect at the next frame start. -/
  capNext : Option Nat := none
  /-- R367: PWR_CAP.FLOOR_W (16 bits). -/
  floorW : Nat := 0
  /-- R367: PWR_INPUT.VIN, 10 mV units (16 bits). -/
  vin : Nat := 0
  /-- R367: PWR_INPUT.P_IN, W (16 bits). -/
  pIn : Nat := 0
  /-- R367: PWR_MEAN 10 ms mean, W (16 bits). -/
  mean10 : Nat := 0
  /-- R367: PWR_MEAN 1 s mean, W (16 bits). -/
  mean1s : Nat := 0
  /-- R357: the module's last 1 ms mean, W (16 bits). -/
  mean1 : Nat := 0
  /-- R348, R350: the readings of P_IN, latest first, W (at most 10,000 of 16 bits: the last second). -/
  readings : List Nat := []
  /-- R355: for how many readings the 10 ms mean has stayed below 95 % of the limit in force (16 bits). -/
  calm : Nat := 0
  /-- R359: the two steps of a trigger of the fast guard are still to be chosen. -/
  guardDue : Bool := false
  /-- R355: the 10 ms mean would exceed the cap at the end of the next frame. -/
  short : Bool := false
  /-- R367: PWR_DIEn measured power, W (6 x 16 bits). -/
  dieW : Vector Nat 6 := .replicate 6 0
  /-- R352-R359: CD0-CD3. -/
  die : Vector PwrDie 4 := .replicate 4 {}
  /-- R356: the last message of each die. -/
  msg : Vector BudgetMsg 6 := .replicate 6 {}
  /-- R356: the messages on their way from each die. -/
  sent : Vector (Option BudgetMsg) 6 := .replicate 6 none
  /-- R356: intervals for which each die's message has been missing (6 x 16 bits). -/
  missing : Vector Nat 6 := .replicate 6 0
  /-- R356: the dies whose message for this interval has been received (6 bits). -/
  received : BitVec 6 := 0
  /-- R356: the interval number (16 bits). -/
  interval : Nat := 0
  /-- R359, R367: PWR_COUNTS fast guard triggers (16 bits). -/
  guards : Nat := 0
  /-- R367: PWR_COUNTS power-limit reductions (16 bits). -/
  reductions : Nat := 0
  /-- R357: the hints announced. -/
  hints : List HintInForce := []
  deriving DecidableEq, Repr, Inhabited

/-- R361: a die's thermal band, numbered as BAND numbers it. -/
inductive ThmBand where
  | normal | throttle | stop | trip
  deriving DecidableEq, Repr, Inhabited

/-- R360, R368: one temperature sensor. -/
structure Sensor where
  /-- R368: THM_VALUE.VALID (1 bit). -/
  valid : Bool := false
  /-- R368: THM_VALUE.FAULTY (1 bit). -/
  faulty : Bool := false
  /-- R364: consecutive rounds without a reading (2 bits). -/
  misses : Nat := 0
  /-- R368: the latest reading, 0.25 °C units (10 bits). -/
  value : Nat := 0
  deriving DecidableEq, Repr, Inhabited

/-- R361, R368: the thermal state of one die. -/
structure ThmDie where
  /-- R361: the band from its readings; BAND reads 0x3 while the die's THM_TRIP bit is set. -/
  band : ThmBand := .normal
  /-- R361: held in Throttle by a regulator reading. -/
  regHot : Bool := false
  /-- R368: HIGHEST (10 bits). -/
  highest : Nat := 0
  /-- R368: HOTSPOT (10 bits). -/
  hotspot : Nat := 0
  /-- R361: the hotspot of the round before (10 bits). -/
  before : Nat := 0
  /-- R361: it entered Throttle in the round that is running. -/
  entered : Bool := false
  deriving DecidableEq, Repr, Inhabited

/-- Chapter 14: temperatures. -/
structure Thm where
  /-- R368: THM_STATUS.THROTTLE (1 bit). -/
  throttle : Bool := false
  /-- R368: THM_STATUS.SENSOR_FAULT (1 bit). -/
  sensorFault : Bool := false
  /-- R368: THM_STATUS.STOPPED (1 bit). -/
  stopped : Bool := false
  /-- R368: THM_STATUS.STOP_DIES (6 bits). -/
  stopDies : BitVec 6 := 0
  /-- R363, R368: THM_TRIP (6 bits). -/
  trip : BitVec 6 := 0
  /-- R361: the dies. -/
  die : Vector ThmDie 6 := .replicate 6 {}
  /-- R360: the sensors, by channel. -/
  sensor : Tab Sensor := []
  /-- R360: the channel read next (9 bits). -/
  channel : Nat := 0
  /-- R368: THM_SEL (9 bits). -/
  sel : Nat := 0
  /-- R368: THM_ROUNDS (32 bits). -/
  rounds : Nat := 0
  /-- R368: THM_ENGINE_MAX engine (4 bits). -/
  engine : Nat := 0
  /-- R368: THM_ENGINE_MAX reading, 0.25 °C units (10 bits). -/
  engineMax : Nat := 0
  /-- R362: an orderly stop in progress, and the die (0 to 5) that began it. -/
  stopping : Option Nat := none
  deriving DecidableEq, Repr, Inhabited

/-- A range of memory whose contents the manual leaves undefined (R7, R77, R140, R222): a byte of it reads as the free
value of this range until it is written. -/
structure UndefExt where
  base : Nat := 0
  len : Nat := 0
  id : Nat := 0
  deriving DecidableEq, Repr, Inhabited

/-- R375: a snapshot in module flash. -/
structure Snap where
  /-- R375: SNAPSHOT_ID (64 bits), the consistent frame. -/
  id : Nat := 0
  /-- R376: FULL (1 bit). -/
  full : Bool := false
  /-- R376: LABEL (64 bits). -/
  label : Nat := 0
  /-- R381: an automatic snapshot. -/
  auto : Bool := false
  /-- R376: the copy is complete. -/
  complete : Bool := false
  /-- R376: the size in bytes. -/
  size : Nat := 0
  /-- R375: the address ranges held, each byte once, as (base, length). -/
  extents : List (Nat × Nat) := []
  /-- R375: the bytes of those ranges. -/
  data : Tab Byte := []
  /-- R7, R375: parts of those ranges whose contents were undefined. -/
  undef : List UndefExt := []
  /-- R375: the region table. -/
  regions : Tab Region := []
  /-- R375: HNK_PLACE (128 bits). -/
  place : BitVec 128 := 0
  /-- R375: the frame index. -/
  index : Nat := 0
  /-- R375: the SEQ of every skein (32 bits each). -/
  seqs : Tab Nat := []
  /-- R375: the image tag (64 bits). -/
  tag : Nat := 0
  /-- R375: the image measurement (512 bits). -/
  meas : List Byte := []
  /-- R375: the firmware major version (16 bits). -/
  fwMajor : Nat := 0
  /-- R375: the numerics generation (4 bits). -/
  numgen : Nat := 0
  deriving DecidableEq, Repr, Inhabited

/-- R376: a snapshot being taken. -/
structure SnapJob where
  /-- R376: FULL (1 bit). -/
  full : Bool := false
  /-- R376: LABEL (64 bits). -/
  label : Nat := 0
  /-- R381: it is an automatic snapshot. -/
  auto : Bool := false
  /-- R376: the mailbox whose command takes it. -/
  mbx : Option Nat := none
  /-- R376: PAUSE_REQ has been sent, or no program runs: the next frame start is the consistent point. -/
  asked : Bool := false
  /-- R376: copying has begun: the snapshot's identifier. -/
  copying : Option Nat := none
  deriving DecidableEq, Repr, Inhabited

/-- R383: one record of the input log. -/
structure LogRec where
  /-- R383: FRAME (48 bits). -/
  frame : Nat := 0
  /-- R383: the whole record, header and padded contents. -/
  bytes : List Byte := []
  deriving DecidableEq, Repr, Inhabited

/-- R379: one copied shard, keyed by step index and frame number. -/
structure Shard where
  step : Nat := 0
  frame : Nat := 0
  off : Nat := 0
  bytes : List Byte := []
  deriving DecidableEq, Repr, Inhabited

/-- R379: one generation of a protected device's shards. -/
structure BuddyGen where
  /-- R379: the image tag (64 bits). -/
  tag : Nat := 0
  /-- R379: the frame number of its first copy (48 bits). -/
  first : Nat := 0
  /-- R380: the frame number of its last copy (48 bits). -/
  last : Nat := 0
  /-- R379: the shards copied. -/
  shards : List Shard := []
  deriving DecidableEq, Repr, Inhabited

/-- R378, R379: a device that this one protects. -/
structure Protected where
  /-- R378: the protected device's identifier (14 bits). -/
  dev : Nat := 0
  /-- R386: it is protected now: MOD_BUDDY counts it. A PACKAGE or COLD reset ends that, and its staging stays in module
  flash. -/
  live : Bool := true
  /-- R379: the last complete generation. -/
  whole : Option BuddyGen := none
  /-- R379: the generation in progress. -/
  part : Option BuddyGen := none
  deriving DecidableEq, Repr, Inhabited

/-- Chapter 15: module flash, snapshots, buddy copies and the input log. -/
structure Res where
  /-- R386: MOD_RESIL_STATUS.SNAP_FAIL (1 bit). -/
  snapFail : Bool := false
  /-- R386: MOD_RESIL_STATUS.FLASH_ERR (1 bit). -/
  flashErr : Bool := false
  /-- R386: MOD_RESIL_STATUS.LOG_GAP (1 bit). -/
  logGap : Bool := false
  /-- R386: MOD_RESIL_STATUS.BUDDY_ABANDONED (1 bit). -/
  buddyAbandoned : Bool := false
  /-- R386: MOD_RESIL_STATUS.FLASH_RO (1 bit). -/
  flashRo : Bool := false
  /-- R386: MOD_HEALTH.H (8 bits). -/
  health : Nat := 0
  /-- R386: MOD_HEALTH highest H since the last snapshot (8 bits). -/
  healthMax : Nat := 0
  /-- R381: a health snapshot may be taken when H next reaches 128. -/
  healthArmed : Bool := true
  /-- R382, R386: MOD_SNAP_INTERVAL (32 bits), ms. -/
  interval : Nat := 0x36EE80
  /-- R386: MOD_RESIL_LEVELS level-2 actions (16 bits). -/
  level2 : Nat := 0
  /-- R386: MOD_RESIL_LEVELS level-3 actions (16 bits). -/
  level3 : Nat := 0
  /-- R381: the level-2 actions of the last hour: for each, the recomputations of H since, one every 100 ms (16 bits). -/
  recent2 : List Nat := []
  /-- R381: the level-3 actions of the last 24 hours, likewise (20 bits). -/
  recent3 : List Nat := []
  /-- R381: the recomputations of H since the last health snapshot became due (16 bits). -/
  healthAge : Nat := 0
  /-- R375: the snapshots held, oldest first. -/
  snaps : List Snap := []
  /-- R386: MOD_SNAP_LAST (48 bits), the consistent frame of the newest complete snapshot. -/
  snapLast : Nat := 0
  /-- R376: the snapshot being taken. -/
  job : Option SnapJob := none
  /-- R381: an automatic snapshot is due in health mode. -/
  autoDue : Bool := false
  /-- R382: the duration of the last automatic snapshot, ms, once there has been one. -/
  lastAutoMs : Option Nat := none
  /-- R383: records staged and not yet drained, oldest first. -/
  staged : List LogRec := []
  /-- R383: the records in module flash, oldest first. -/
  log : List LogRec := []
  /-- R383: bytes of SYNC ranges acquired in this frame from the host, to be staged. -/
  logInputs : List Byte := []
  /-- R383: the rows admitted into the frame whose record comes next: their records and INPUT bytes. -/
  logRows : List Byte := []
  /-- R383: how many rows those are (16 bits). -/
  logRowCount : Nat := 0
  /-- R177, R383: the rows of the frame in progress are set down once the host has handed back the lines of their inputs;
  the model's own. -/
  logDue : Bool := false
  /-- R386: MOD_BUDDY.CORRELATED (1 bit). -/
  correlated : Bool := false
  /-- R386: MOD_BUDDY buddy identifier (16 bits). -/
  buddy : Nat := 0xFFFF
  /-- R378: a `buddy.set` that waits for the buddy's answer: the mailbox and the buddy named. -/
  buddyWait : Option (Nat × Nat) := none
  /-- R378: the devices protected here (at most 4). -/
  protects : List Protected := []
  /-- R382: MTBF_MS and DEVICES of the last `fail.feed`. -/
  feed : Option (Nat × Nat) := none
  /-- R373: flash blocks retired from the spare pool. -/
  retired : Nat := 0
  /-- R426: bytes written to module flash by snapshots, the input log and buddy copies. [DC 1] -/
  written : Nat := 0
  deriving DecidableEq, Repr, Inhabited

/-- R392: a firmware slot's state, numbered as A_STATE and B_STATE number it. -/
inductive SlotState where
  | empty | valid | pending | active | rejected
  deriving DecidableEq, Repr, Inhabited

/-- R390: what the device keeps of a firmware image. -/
structure FwImage where
  /-- R390: FW_MAJOR (16 bits). -/
  major : Nat := 0
  /-- R390: FW_MINOR (16 bits). -/
  minor : Nat := 0
  /-- R390: SVN (8 bits). -/
  svn : Nat := 0
  /-- R390: CD_REVS (8 bits). -/
  cdRevs : Nat := 0
  /-- R390: LD_REVS (8 bits). -/
  ldRevs : Nat := 0
  /-- R390: the DIGESTs of loader, runtime and microcode (3 x 512 bits). -/
  digests : List (List Byte) := []
  /-- R390: DEBUG_MODULUS (4,096 bits). -/
  debugKey : List Byte := []
  deriving DecidableEq, Repr, Inhabited

/-- R392: a firmware slot of module flash. -/
structure Slot where
  /-- R392: its state (4 bits). [DC 1] -/
  st : SlotState := .empty
  /-- R392, R405: its REASON (4 bits). [DC 1] -/
  reason : Nat := 0
  /-- R393: a PENDING slot has been attempted. [DC 1] -/
  attempted : Bool := false
  /-- R390: its image. [DC 1] -/
  image : Option FwImage := none
  /-- R391: the REASON that its image gives when it is verified, but for the rollback and revision checks, which are
  made at every boot; 0 where it passes. [DC 1] -/
  flaw : Nat := 0
  deriving DecidableEq, Repr, Inhabited

/-- Chapter 16: fuses, slots, attestation, debug. -/
structure Sec where
  /-- R405: SEC_STATUS.FUSE_OK (1 bit). -/
  fuseOk : Bool := false
  /-- R387, R405: the SVN fuse word (64 bits). [DC 1] -/
  svnWord : BitVec 64 := 0
  /-- R387, R405: ROOT_DIGEST (512 bits). [DC 1] -/
  rootDigest : List Byte := List.replicate 64 0
  /-- R394: an SVN commit in progress, and the SVN it goes to; SEC_STATUS.SVN_COMMIT. -/
  commit : Option Nat := none
  /-- R392: slots A and B; a device leaves manufacture with a passing image in slot A. [DC 1] -/
  slot : Vector Slot 2 := #v[{ st := .active, image := some { cdRevs := 7, ldRevs := 3 } }, {}]
  /-- R405: SEC_BOOT.SLOT (1 bit). -/
  booted : Fin 2 := 0
  /-- R405: SEC_BOOT.FALLBACK (1 bit). -/
  fallback : Bool := false
  /-- R405: SEC_STATUS.FW_SIG_FAIL (1 bit). -/
  fwSigFail : Bool := false
  /-- R405: SEC_STATUS.IMAGE_SIG_FAIL (1 bit). -/
  imageSigFail : Bool := false
  /-- R405: SEC_STATUS.DEBUG_DENIED (1 bit). -/
  debugDenied : Bool := false
  /-- R404, R405: SEC_STATUS.DEBUG_UNLOCKED (1 bit). -/
  debugUnlocked : Bool := false
  /-- R404: the unlock that the next PACKAGE reset brings into force. -/
  unlockNext : Bool := false
  /-- R404: the live challenge (512 bits). -/
  challenge : Option (List Byte) := none
  /-- R404: the device has left READY or loaded a frame program since the challenge was issued. -/
  challengeStale : Bool := false
  /-- R404, R405: SEC_SPDM, responses failed (4 bits). -/
  failed : Nat := 0
  /-- R403: the tenants with SIGNED_FRAMES set, ascending. [DC 1] -/
  signedFrames : List Nat := []
  /-- R428: the recovery image received so far. -/
  recovery : List Byte := []
  /-- R399: SHA-512 of the boot ROM (512 bits). [DC 1] -/
  romDigest : List Byte := List.replicate 64 0
  deriving DecidableEq, Repr, Inhabited

/-- R406, R408: the test of one unit. -/
structure TestUnit where
  /-- R412: hours since its last completed test, as the last moment that UNIT_DUE names tells (16 bits); 0 at boot. -/
  hours : Nat := 0
  /-- R408: it is due. -/
  due : Bool := false
  /-- R408: it is more than 20 hours overdue. -/
  overdue : Bool := false
  /-- R107, R134, R408: a retest within 1 hour. -/
  retest : Bool := false
  /-- R407: segments or words completed of the test in progress (20 bits). -/
  progress : Nat := 0
  /-- R409: the first comparison of the test in progress that failed: a DPU's row and column, a cache's set, a strand's
  lane and direction, else zeros. -/
  bad : Option (Nat × Nat) := none
  deriving DecidableEq, Repr, Inhabited

/-- R411: a `test.schedule` that runs. -/
structure HostTest where
  /-- R411: its mailbox (6 bits). -/
  mbx : Nat := 0
  /-- R411: UNITS (4 bits). -/
  units : Nat := 0
  /-- R411: NOT_BEFORE (48 bits). -/
  notBefore : Nat := 0
  /-- R411: the number of units named; STEPS_TOTAL. -/
  total : Nat := 0
  /-- R411: the units tested so far. -/
  tested : List Nat := []
  /-- R411: units that failed. -/
  failing : Nat := 0
  deriving DecidableEq, Repr, Inhabited

/-- R412: the last failure. -/
structure LastFail where
  /-- R412: KIND (3 bits). -/
  kind : Nat := 0
  /-- R412: DIE (8 bits). -/
  die : Nat := 0
  /-- R412: UNIT (32 bits). -/
  unit : Nat := 0
  /-- R412: FRAME (48 bits). -/
  frame : Nat := 0
  deriving DecidableEq, Repr, Inhabited

/-- Chapter 17: in-service test. -/
structure Tst where
  /-- R414: TST_STATUS.FAIL (1 bit). -/
  fail : Bool := false
  /-- R414: TST_STATUS.STRETCHED (1 bit). -/
  stretched : Bool := false
  /-- R414: TST_STATUS.REFUSE (1 bit). -/
  refuse : Bool := false
  /-- R408, R409: the units, by (kind 8 + die) 65536 + unit. -/
  unit : Tab TestUnit := []
  /-- R411: the running `test.schedule`; TST_STATUS.HOST_REQ. -/
  host : Option HostTest := none
  /-- R412: TESTED of each kind in the current 24-hour window (8 x 32 bits). -/
  tested : Vector Nat 8 := .replicate 8 0
  /-- R412: FAILED of each kind in the current 24-hour window (8 x 32 bits). -/
  failed : Vector Nat 8 := .replicate 8 0
  /-- R412, R414: LAST_FAIL. -/
  last : LastFail := {}
  /-- R415: TST_DBG_CTRL.WRITE (1 bit). -/
  dbgWrite : Bool := false
  /-- R415: TST_DBG_CTRL.DONE (1 bit). -/
  dbgDone : Bool := false
  /-- R415: TST_DBG_CTRL.ERROR (1 bit). -/
  dbgError : Bool := false
  /-- R414: TST_DBG_ADDR (40 bits). -/
  dbgAddr : Nat := 0
  /-- R414: TST_DBG_DATA (32 bits). -/
  dbgData : Nat := 0
  /-- R410: queued re-fuse requests, as (spindle, row, column). -/
  queued : List (Nat × Nat × Nat) := []
  deriving DecidableEq, Repr, Inhabited

/-- Chapter 18: the module. -/
structure Mdl where
  /-- R430: MOD_MODULE_STATUS.FLOW_LOW_SEEN (1 bit). -/
  flowLowSeen : Bool := false
  /-- R430: MOD_MODULE_STATUS.INLET_HIGH_SEEN (1 bit). -/
  inletHighSeen : Bool := false
  /-- R430: MOD_MODULE_STATUS.LEAK_SEEN (1 bit). -/
  leakSeen : Bool := false
  /-- R430: MOD_MODULE_STATUS.BANK_CHANGED (1 bit). -/
  bankChanged : Bool := false
  /-- R430: MOD_MODULE_STATUS.PRESENT (1 bit). -/
  present : Bool := false
  /-- R430: MOD_MODULE_STATUS.HOST_B (1 bit). -/
  hostB : Bool := false
  /-- R430: MOD_MODULE_STATUS.COOL_SENSOR (1 bit). -/
  coolSensor : Bool := false
  /-- R430: MOD_MODULE_STATUS.LEAK (1 bit). -/
  leak : Bool := false
  /-- R430: MOD_MODULE_STATUS.INLET_HIGH (1 bit). -/
  inletHigh : Bool := false
  /-- R430: MOD_MODULE_STATUS.FLOW_LOW (1 bit). -/
  flowLow : Bool := false
  /-- R430: MOD_COOLANT outlet, 0.25 °C units (10 bits). -/
  outlet : Nat := 0
  /-- R430: MOD_COOLANT inlet, 0.25 °C units (10 bits). -/
  inlet : Nat := 0
  /-- R430: MOD_FLOW, 0.01 L/min (16 bits). -/
  flow : Nat := 0
  /-- R418: what each leak sensor last read (2 bits). -/
  wet : Vector Bool 2 := .replicate 2 false
  /-- R418: consecutive reads with below its minimum (10 make 1 s). -/
  lowReads : Nat := 0
  /-- R418: consecutive reads without a reading, of inlet, outlet, flow and the leak sensors (5 x 2 bits). -/
  missed : Vector Nat 5 := .replicate 5 0
  /-- R427, R430: MOD_SB (7 bits), 0x58 plus the address straps. [DC 1] -/
  sbAddr : Nat := 0x58
  deriving DecidableEq, Repr, Inhabited

/-- What the device sends to the outside in a step, in order; the model's own record of its outputs. -/
inductive Emit where
  /-- R217: an MSI-X message: address and data. -/
  | msix (addr data : Nat)
  /-- R274: a block sent on a strand. -/
  | block (strand : Nat) (bytes : List Byte)
  /-- R218: the answer to a host read: the line's bytes, and whether they carry poison (R221). -/
  | hostData (bytes : List Byte) (poison : Bool)
  /-- R218: a host write has been performed. -/
  | hostDone
  /-- R220: a BISnpInv (`true`) or a BISnpData for a host address. -/
  | biSnp (inv : Bool) (hpa : Nat)
  /-- R211, R223: a CXL.cache request of the spill agent: RdShared 0, RdOwn 1, DirtyEvict with its bytes 2, CleanEvict
  with its bytes 3, CleanEvictNoData 4, RdOwnNoData 6; and for `log.read` a write of host memory with its bytes (ItoMWr)
  5 (R384). -/
  | cacheReq (kind : Nat) (hpa : Nat) (bytes : List Byte)
  /-- R223: the answer to a host snoop: the state kept (0 invalid, 1 shared), and the bytes handed over if any. -/
  | snoopResp (kept : Nat) (bytes : Option (List Byte))
  /-- R226: a DOE response object. -/
  | doe (bytes : List Byte)
  /-- R398: an SPDM response: request code answered, content, and whether the identity key signs it. -/
  | spdm (code : Nat) (bytes : List Byte) (signed : Bool)
  /-- R428: a sideband answer: result byte and data. -/
  | sideband (result : Nat) (data : List Byte)
  /-- R10: the value that a register read returns. -/
  | regValue (v : Word)
  /-- R228: an error reported in AER. -/
  | aer (correctable : Bool)
  deriving DecidableEq, Repr, Inhabited

/-- Why the machine stops with a fault. -/
inductive Fault where
  /-- Raised by an access of an engine to a local address that R162 maps to nothing (neither a hank nor a local store).
  Safe: the manual gives such an access no effect, since every engine's addresses lie in bound regions (R191). -/
  | unmappedAddress (addr : Nat)
  deriving DecidableEq, Repr

/-- Why a command has no meaning. -/
inductive Refusal where
  /-- Raised by the dispatch for a command whose meaning has not been written. Safe: the machine stops. -/
  | notModelled (mnemonic : String)
  deriving DecidableEq, Repr

/-- The whole device: the waiting commands, and everything the manual gives it. -/
structure State where
  /-- The commands that wait, first in, first out; the model's own. -/
  pending : List Instr := []
  /-- The count from which free values are drawn; the model's own. [DC 4] -/
  free : Nat := 0
  /-- What has been sent to the outside, oldest first; the model's own. [DC 4] -/
  out : List Emit := []
  /-- R162: hank memory and local store at their points of visibility, by local address. -/
  mem : Tab Byte := []
  /-- R7, R140, R222: the ranges whose contents are undefined. -/
  undef : List UndefExt := []
  /-- R369: the error windows' counts, by row, sub-window and object. -/
  win : Tab Nat := []
  /-- R108, R135: what open windows had counted when a reset cleared the registers that show them, keyed as `win`; the
  model's own. [DC 65] -/
  winHide : Tab Nat := []
  /-- R10: high words latched by reads of low words, by the pair's offset (32 bits each). -/
  latch : Tab (Option Nat) := []
  /-- R10: low words written and not yet committed, by the pair's offset (32 bits each). -/
  pairLow : Tab Nat := []
  /-- Chapter 1. -/
  pkg : Pkg := {}
  /-- Chapter 2. -/
  frm : Frm := {}
  /-- Chapter 3: CDn.SPs is entry 2n + s. -/
  spn : Vector Spindle 8 := .replicate 8 {}
  /-- Chapter 4: CD0-CD3. -/
  vec : Vector VecDie 4 := .replicate 4 {}
  /-- Chapter 5. -/
  hnk : Hnk := {}
  /-- Chapter 6. -/
  vis : Vis := {}
  /-- Chapter 7. -/
  bob : Bob := {}
  /-- Chapter 8. -/
  hp : Hp := {}
  /-- Chapter 9. -/
  fly : Fly := {}
  /-- Chapter 10. -/
  opt : Opt := {}
  /-- Chapter 11. -/
  fab : Fab := {}
  /-- Chapter 12. -/
  top : Top := {}
  /-- Chapter 13. -/
  skn : Skn := {}
  /-- Chapter 14: power. -/
  pwr : Pwr := {}
  /-- Chapter 14: temperatures. -/
  thm : Thm := {}
  /-- Chapter 15. -/
  res : Res := {}
  /-- Chapter 16. -/
  sec : Sec := {}
  /-- Chapter 17. -/
  tst : Tst := {}
  /-- Chapter 18. -/
  mdl : Mdl := {}
  deriving DecidableEq, Repr, Inhabited

/-- The device after reset: every register at its COLD reset value, no power yet (MOD_STATE reads OFF), memory with
nothing listed (R40, R45, R395). -/
def State.reset : State := {}

end Sys2Proof.Machine
end

