-- ==== Sys2Proof/Machine/Fields.lean ====
section
/-!
DEFINITION. One update for each part of the state, so that a meaning says what it changes and nothing else, and the
accessors of the records that are held by number.
-/

namespace Sys2Proof.Machine

/-- The entry at a number, a default past the end. -/
def vget {α : Type} {n : Nat} [Inhabited α] (v : Vector α n) (i : Nat) : α :=
  v.getD i default

/-- Change the entry at a number; nothing past the end. -/
def vmod {α : Type} {n : Nat} (v : Vector α n) (i : Nat) (f : α → α) : Vector α n :=
  if h : i < n then v.set i (f v[i]) else v

/-- Change `pkg`. -/
def State.modPkg (s : State) (f : Pkg → Pkg) : State :=
  { s with pkg := f s.pkg }

/-- Change `frm`. -/
def State.modFrm (s : State) (f : Frm → Frm) : State :=
  { s with frm := f s.frm }

/-- Change `hnk`. -/
def State.modHnk (s : State) (f : Hnk → Hnk) : State :=
  { s with hnk := f s.hnk }

/-- Change `vis`. -/
def State.modVis (s : State) (f : Vis → Vis) : State :=
  { s with vis := f s.vis }

/-- Change `bob`. -/
def State.modBob (s : State) (f : Bob → Bob) : State :=
  { s with bob := f s.bob }

/-- Change `hp`. -/
def State.modHp (s : State) (f : Hp → Hp) : State :=
  { s with hp := f s.hp }

/-- Change `fly`. -/
def State.modFly (s : State) (f : Fly → Fly) : State :=
  { s with fly := f s.fly }

/-- Change `opt`. -/
def State.modOpt (s : State) (f : Opt → Opt) : State :=
  { s with opt := f s.opt }

/-- Change `fab`. -/
def State.modFab (s : State) (f : Fab → Fab) : State :=
  { s with fab := f s.fab }

/-- Change `top`. -/
def State.modTop (s : State) (f : Top → Top) : State :=
  { s with top := f s.top }

/-- Change `skn`. -/
def State.modSkn (s : State) (f : Skn → Skn) : State :=
  { s with skn := f s.skn }

/-- Change `pwr`. -/
def State.modPwr (s : State) (f : Pwr → Pwr) : State :=
  { s with pwr := f s.pwr }

/-- Change `thm`. -/
def State.modThm (s : State) (f : Thm → Thm) : State :=
  { s with thm := f s.thm }

/-- Change `res`. -/
def State.modRes (s : State) (f : Res → Res) : State :=
  { s with res := f s.res }

/-- Change `sec`. -/
def State.modSec (s : State) (f : Sec → Sec) : State :=
  { s with sec := f s.sec }

/-- Change `tst`. -/
def State.modTst (s : State) (f : Tst → Tst) : State :=
  { s with tst := f s.tst }

/-- Change `mdl`. -/
def State.modMdl (s : State) (f : Mdl → Mdl) : State :=
  { s with mdl := f s.mdl }

/-- Change entry `i` of `spn`. -/
def State.modSpn (s : State) (i : Nat) (f : Spindle → Spindle) : State :=
  { s with spn := vmod s.spn i f }

/-- Change entry `i` of `vec`. -/
def State.modVec (s : State) (i : Nat) (f : VecDie → VecDie) : State :=
  { s with vec := vmod s.vec i f }

/-- Entry `i` of `hnk.hank`. -/
def State.hankAt (s : State) (i : Nat) : Hank :=
  tget s.hnk.hank i

/-- Change entry `i` of `hnk.hank`. -/
def State.modHank (s : State) (i : Nat) (f : Hank → Hank) : State :=
  s.modHnk fun p => { p with hank := tmod p.hank i f }

/-- Entry `i` of `hnk.chan`. -/
def State.chanAt (s : State) (i : Nat) : Chan :=
  tget s.hnk.chan i

/-- Change entry `i` of `hnk.chan`. -/
def State.modChan (s : State) (i : Nat) (f : Chan → Chan) : State :=
  s.modHnk fun p => { p with chan := tmod p.chan i f }

/-- Entry `i` of `bob.queue`. -/
def State.queueAt (s : State) (i : Nat) : Queue :=
  tget s.bob.queue i

/-- Change entry `i` of `bob.queue`. -/
def State.modQueue (s : State) (i : Nat) (f : Queue → Queue) : State :=
  s.modBob fun p => { p with queue := tmod p.queue i f }

/-- Entry `i` of `bob.region`. -/
def State.regionAt (s : State) (i : Nat) : Region :=
  tget s.bob.region i

/-- Change entry `i` of `bob.region`. -/
def State.modRegion (s : State) (i : Nat) (f : Region → Region) : State :=
  s.modBob fun p => { p with region := tmod p.region i f }

/-- Entry `i` of `bob.page`. -/
def State.pageAt (s : State) (i : Nat) : DbPage :=
  tget s.bob.page i

/-- Change entry `i` of `bob.page`. -/
def State.modPage (s : State) (i : Nat) (f : DbPage → DbPage) : State :=
  s.modBob fun p => { p with page := tmod p.page i f }

/-- Entry `i` of `bob.tag`. -/
def State.tagAt (s : State) (i : Nat) : Option Cmd :=
  tget s.bob.tag i

/-- Change entry `i` of `bob.tag`. -/
def State.modTag (s : State) (i : Nat) (f : (Option Cmd) → (Option Cmd)) : State :=
  s.modBob fun p => { p with tag := tmod p.tag i f }

/-- Entry `i` of `fly.mbx`. -/
def State.mbxAt (s : State) (i : Nat) : Mbx :=
  tget s.fly.mbx i

/-- Change entry `i` of `fly.mbx`. -/
def State.modMbx (s : State) (i : Nat) (f : Mbx → Mbx) : State :=
  s.modFly fun p => { p with mbx := tmod p.mbx i f }

/-- Entry `i` of `opt.strand`. -/
def State.strandAt (s : State) (i : Nat) : Strand :=
  tget s.opt.strand i

/-- Change entry `i` of `opt.strand`. -/
def State.modStrand (s : State) (i : Nat) (f : Strand → Strand) : State :=
  s.modOpt fun p => { p with strand := tmod p.strand i f }

/-- Entry `i` of `opt.bank`. -/
def State.bankAt (s : State) (i : Nat) : Bank :=
  vget s.opt.bank i

/-- Change entry `i` of `opt.bank`. -/
def State.modBank (s : State) (i : Nat) (f : Bank → Bank) : State :=
  s.modOpt fun p => { p with bank := vmod p.bank i f }

/-- Entry `i` of `fab.link`. -/
def State.linkAt (s : State) (i : Nat) : Link :=
  tget s.fab.link i

/-- Change entry `i` of `fab.link`. -/
def State.modLink (s : State) (i : Nat) (f : Link → Link) : State :=
  s.modFab fun p => { p with link := tmod p.link i f }

/-- Entry `i` of `top.disc`. -/
def State.discAt (s : State) (i : Nat) : Disc :=
  tget s.top.disc i

/-- Change entry `i` of `top.disc`. -/
def State.modDisc (s : State) (i : Nat) (f : Disc → Disc) : State :=
  s.modTop fun p => { p with disc := tmod p.disc i f }

/-- Entry `i` of `skn.ctx`. -/
def State.ctxAt (s : State) (i : Nat) : Ctx :=
  tget s.skn.ctx i

/-- Change entry `i` of `skn.ctx`. -/
def State.modCtx (s : State) (i : Nat) (f : Ctx → Ctx) : State :=
  s.modSkn fun p => { p with ctx := tmod p.ctx i f }

/-- Entry `i` of `pwr.die`. -/
def State.pwrDieAt (s : State) (i : Nat) : PwrDie :=
  vget s.pwr.die i

/-- Change entry `i` of `pwr.die`. -/
def State.modPwrDie (s : State) (i : Nat) (f : PwrDie → PwrDie) : State :=
  s.modPwr fun p => { p with die := vmod p.die i f }

/-- Entry `i` of `thm.die`. -/
def State.thmDieAt (s : State) (i : Nat) : ThmDie :=
  vget s.thm.die i

/-- Change entry `i` of `thm.die`. -/
def State.modThmDie (s : State) (i : Nat) (f : ThmDie → ThmDie) : State :=
  s.modThm fun p => { p with die := vmod p.die i f }

/-- Entry `i` of `pkg.op`. -/
def State.opAt (s : State) (i : Nat) : OpState :=
  vget s.pkg.op i

/-- Change entry `i` of `pkg.op`. -/
def State.modOp (s : State) (i : Nat) (f : OpState → OpState) : State :=
  s.modPkg fun p => { p with op := vmod p.op i f }

/-- Entry `i` of `pkg.d2d`. -/
def State.d2dAt (s : State) (i : Nat) : D2dLink :=
  tget s.pkg.d2d i

/-- Change entry `i` of `pkg.d2d`. -/
def State.modD2d (s : State) (i : Nat) (f : D2dLink → D2dLink) : State :=
  s.modPkg fun p => { p with d2d := tmod p.d2d i f }

/-- Entry `i` of `sec.slot`. -/
def State.slotAt (s : State) (i : Nat) : Slot :=
  vget s.sec.slot i

/-- Change entry `i` of `sec.slot`. -/
def State.modSlot (s : State) (i : Nat) (f : Slot → Slot) : State :=
  s.modSec fun p => { p with slot := vmod p.slot i f }

/-- Entry `i` of `vis.die`. -/
def State.rlcAt (s : State) (i : Nat) : VisDie :=
  vget s.vis.die i

/-- Change entry `i` of `vis.die`. -/
def State.modRlc (s : State) (i : Nat) (f : VisDie → VisDie) : State :=
  s.modVis fun p => { p with die := vmod p.die i f }

/-- Entry `i` of `thm.sensor`. -/
def State.sensorAt (s : State) (i : Nat) : Sensor :=
  tget s.thm.sensor i

/-- Change entry `i` of `thm.sensor`. -/
def State.modSensor (s : State) (i : Nat) (f : Sensor → Sensor) : State :=
  s.modThm fun p => { p with sensor := tmod p.sensor i f }

/-- Entry `i` of `tst.unit`. -/
def State.unitAt (s : State) (i : Nat) : TestUnit :=
  tget s.tst.unit i

/-- Change entry `i` of `tst.unit`. -/
def State.modUnit (s : State) (i : Nat) (f : TestUnit → TestUnit) : State :=
  s.modTst fun p => { p with unit := tmod p.unit i f }

/-- Entry `i` of `hp.msix`. -/
def State.msixAt (s : State) (i : Nat) : MsixEntry :=
  tget s.hp.msix i

/-- Change entry `i` of `hp.msix`. -/
def State.modMsix (s : State) (i : Nat) (f : MsixEntry → MsixEntry) : State :=
  s.modHp fun p => { p with msix := tmod p.msix i f }

/-- Record an output. -/
def State.emit (s : State) (e : Emit) : State :=
  { s with out := s.out ++ [e] }

/-- Advance the count that free values are drawn from. -/
def State.drawFree (s : State) : State :=
  { s with free := s.free + 1 }

/-- Advance the count that free values are drawn from by `n`. -/
def State.drawFrees (n : Nat) (s : State) : State :=
  { s with free := s.free + n }

end Sys2Proof.Machine
end

