-- ==== Sys2Proof/Machine/Ops.lean ====
section
/-!
DEFINITION. The operations that every chapter shares: status codes, messages to the host, event records, failing a
frame, entering FAILED, error windows and their levels, and the end of a command.
-/

namespace Sys2Proof.Machine

/-- R246, R247: the value of a status code. -/
def Status.code : Status → Nat
  | .sOk => 0x0000 | .sCapUnreachable => 0x0001 | .sCorrelatedBuddy => 0x0002 | .sWhorlTakeover => 0x0003
  | .sPlanMismatch => 0x0004 | .sFlyerTakeover => 0x0005 | .sSpareWavelength => 0x0006 | .sLaneDrop => 0x0007
  | .sRefuseScheduled => 0x0008
  | .eCommand => 0x0100 | .ePermission => 0x0101 | .eState => 0x0102 | .eCancelled => 0x0103
  | .eAbortedReset => 0x0104 | .eDeviceFailed => 0x0105 | .eRole => 0x0106
  | .eStrapFault => 0x0200 | .eDieAbsent => 0x0201 | .eDieIncompatible => 0x0202
  | .eImageFormat => 0x0300 | .eImageSignature => 0x0301 | .eNumgenMismatch => 0x0302 | .eFeatureAbsent => 0x0303
  | .eRankAbsent => 0x0304 | .eSlackShort => 0x0305 | .eSyncScope => 0x0306 | .eCircuitOversub => 0x0307
  | .eFrameFailed => 0x0308 | .eFrameOverrun => 0x0309 | .ePreempted => 0x030A | .eSpindleWithheld => 0x030B
  | .eStartRefused => 0x030C
  | .eSeqDescriptor => 0x0400 | .eSeqPosition => 0x0401 | .eKvPage => 0x0402 | .eMergeOrder => 0x0403
  | .eDataError => 0x0500 | .eHankOvertemp => 0x0501 | .eHankLost => 0x0502 | .ePlacement => 0x0503
  | .ePlaceBusy => 0x0504
  | .eBounds => 0x0600 | .eRegion => 0x0601 | .eRegionBusy => 0x0602 | .eEpochStale => 0x0603 | .eQueue => 0x0604
  | .eWindow => 0x0700 | .eSpill => 0x0701 | .eHostLink => 0x0702
  | .eUnreachable => 0x0800 | .eMsgIncomplete => 0x0801 | .ePlanFormat => 0x0802 | .eSkeinMismatch => 0x0803
  | .eSkeinAborted => 0x0804
  | .eCapRange => 0x0900
  | .eFlash => 0x0A00 | .eFlashFull => 0x0A01 | .eSnapshotAbsent => 0x0A02 | .eSnapshotCorrupt => 0x0A03
  | .eLogRange => 0x0A04
  | .eFwSignature => 0x0B00 | .eFwRollback => 0x0B01 | .eDebugDenied => 0x0B02
  | .eTestFailed => 0x0C00

/-- R246: values from 0x0100 up are failures. -/
def Status.failure (st : Status) : Bool :=
  0x100 ≤ st.code

/-- Whether an outcome is a failure. -/
def failed (st : Status) : Bool :=
  st.failure

/-! ### Messages and events -/

/-- R225: host-facing traffic passes: no integrity failure is outstanding. -/
def trafficPasses (s : State) : Bool :=
  !s.hp.heldIo && !s.hp.heldCm

/-- R214, R225: the link is up, is not in recovery, and passes host-facing traffic. -/
def linkPasses (s : State) : Bool :=
  s.hp.rate != 0 && !s.hp.recovering && trafficPasses s

/-- R215, R225, R242: host accesses reach BAR0. -/
def barUp (s : State) : Bool :=
  s.pkg.bar0Up && !s.hp.d3 && trafficPasses s

/-- R217: an event on an MSI-X vector: the message goes out, or the vector's pending bit is set where it is masked,
MSI-X is disabled, the function is in D3hot (R215), or the link passes no traffic (R214, R225). -/
def sendVector (v : Nat) (s : State) : State :=
  if s.hp.msixOn && (s.msixAt v).unmasked && !s.hp.d3 && linkPasses s then
    s.emit (.msix (s.msixAt v).addr (s.msixAt v).data)
  else s.modMsix v fun e => { e with pending := true }

/-- R234: the vector of a mailbox. -/
def mbxVector (s : State) (m : Nat) : Nat :=
  (s.mbxAt m).vector.getD (0x7C0 + m)

/-- R234: a mailbox that holds an event ring. -/
def MbxKind.isEvent : MbxKind → Bool
  | .eventHost | .eventTenant => true
  | _ => false

/-- R244: the mailbox that an event concerning a tenant (`none`: device-wide) goes to. -/
def eventRoute (s : State) (tenant : Option Nat) : Nat :=
  match tenant with
  | none => 63
  | some t =>
    ((List.range 64).find? fun m =>
      (s.mbxAt m).kind == .eventTenant && (s.mbxAt m).tenant == t).getD 63

/-- R244: the 64 bytes of an event record. -/
def eventRecord (seq source status frame obj : Nat) (tenant : Option Nat) (data : List Byte) : List Byte :=
  overlay (layoutBytes 64
    [(0x00, 4, seq), (0x04, 2, status), (0x06, 2, source), (0x08, 8, frame), (0x10, 4, obj),
     (0x14, 2, tenant.getD 0xFFFF)]) 0x18 (fitBytes 40 data)

/-- Lay bytes into a table of bytes from an offset on. -/
def putBytes : Tab Byte → Nat → List Byte → Tab Byte
  | t, _, [] => t
  | t, a, b :: bs => putBytes (tput t a b) (a + 1) bs

/-- Bytes of a table of bytes. -/
def getBytes (t : Tab Byte) (a n : Nat) : List Byte :=
  (List.range n).map fun i => tget t (a + i)

/-- R244: write a record into mailbox `m`'s ring, or count it as lost; the vector is sent where the ring was empty. -/
def ringPost (m source : Nat) (st : Status) (obj : Nat) (tenant : Option Nat) (data : List Byte) (s : State) : State :=
  let b := s.mbxAt m
  if b.evtTail = (b.evtHead + 64) % 2 ^ 32 then
    s.modMbx m fun b => { b with evtLost := wrapInc 32 b.evtLost }
  else
    let rec_ := eventRecord (wrapInc 32 b.evtSeq) source st.code s.frm.number obj tenant data
    let s := s.modMbx m fun b =>
      { b with evtSeq := wrapInc 32 b.evtSeq, evtTail := wrapInc 32 b.evtTail,
               payload := putBytes b.payload (64 * (b.evtTail % 64)) rec_ }
    if b.evtTail = b.evtHead then sendVector (mbxVector s m) s else s

/-- R244: post an event. It is the flyer that posts, so nothing is posted while no flyer firmware runs (R242). -/
def postEvent (source : Nat) (st : Status) (obj : Nat) (tenant : Option Nat) (data : List Byte) (s : State) : State :=
  if s.pkg.flyerRuns then ringPost (eventRoute s tenant) source st obj tenant data s else s

/-- A device-wide event without data. -/
def postDevice (source : Nat) (st : Status) (obj : Nat) (s : State) : State :=
  postEvent source st obj none [] s

/-! ### Failing a frame, entering FAILED -/

/-- R77: this device reports FAIL for the frame in progress; the first cause is kept. -/
def failFrame (st : Status) (s : State) : State :=
  s.modFrm fun f => { f with failStatus := f.failStatus <|> some st }

/-- R76: an event inside the frame whose delay goes into HOLD, with its CAUSE bits. -/
def noteHold (cause : Nat) (s : State) : State :=
  s.modFrm fun f => { f with plannedCause := f.plannedCause ||| cause }

/-- R62, R404: the device enters a state; a challenge issued in READY is stale once READY is left. -/
def setDevState (d : DevState) (s : State) : State :=
  let s := if d = .ready then s else s.modSec fun x => { x with challengeStale := x.challengeStale || x.challenge.isSome }
  s.modPkg fun p => { p with devState := d }

/-- R241: the heavier of two ways out. -/
def WayOut.heavier : WayOut → WayOut → WayOut
  | .cold, _ | _, .cold => .cold
  | .package, _ | _, .package => .package
  | .compute, .compute => .compute

/-- R62, R370: the device enters FAILED and fails the current frame; of several causes the heaviest way out holds. -/
def enterFailed (way : WayOut) (st : Status) (s : State) : State :=
  let w := if s.pkg.devState = .failed then s.pkg.wayOut.heavier way else way
  let s := setDevState .failed (failFrame st s)
  s.modPkg fun p => { p with wayOut := w }

/-! ### Error windows -/

/-- The number of a window: the row of R373, one of its sub-windows, and what the row counts per. -/
def winKey (row sub obj : Nat) : Nat :=
  (row * 4 + sub) * 2 ^ 34 + obj

/-- R369: events counted in a window that is open; 0 where it is closed. -/
def winCount (s : State) (row sub obj : Nat) : Nat :=
  tget s.win (winKey row sub obj)

/-- R108, R135: what a register of the compute-die blocks shows of a window: the events since a reset last cleared the
register. -/
def winShown (s : State) (row sub obj : Nat) : Nat :=
  winCount s row sub obj - tget s.winHide (winKey row sub obj)

/-- R369: count `n` events in a window, opening it if it is closed. -/
def winAdd (row sub obj n : Nat) (s : State) : State :=
  { s with win := tmod s.win (winKey row sub obj) (· + n) }

/-- R369: count one event. -/
def winBump (row sub obj : Nat) (s : State) : State :=
  winAdd row sub obj 1 s

/-- R434: DATA of a posting. -/
def levelData (level row count : Nat) : List Byte :=
  layoutBytes 40 [(0, 1, level), (1, 1, row), (4, 4, count)]

/-- R434: the SOURCE of a row of R373. -/
def rowSource (row : Nat) : Nat :=
  if row ≤ 4 then 0x01 else if row ≤ 11 then 0x0F else if row ≤ 18 then 0x03 else if row ≤ 22 then 0x05
  else if row ≤ 24 then 0x01 else if row ≤ 29 then 0x06 else if row ≤ 34 then 0x07 else if row ≤ 37 then 0x08
  else if row ≤ 39 then 0x09 else if row ≤ 47 then 0x0A else 0x0B

/-- R370, R434: the levels that one event of a row takes. -/
structure Levels where
  /-- The row's position in R373. -/
  row : Nat
  /-- What the counter is kept per; 0xFFFFFFFF for the package. -/
  obj : Nat := 0xFFFFFFFF
  /-- Events in the window, this one included. -/
  count : Nat := 0
  /-- Level 1 is marked "posted". -/
  posted : Bool := false
  l2 : Bool := false
  l3 : Bool := false
  l4 : Bool := false
  /-- The status of a posting whose chapter names it: SOURCE, STATUS and OBJECT of that record. -/
  own : Option (Nat × Status × Nat) := none
  /-- The chapter's record has been written by the chapter itself. -/
  done : Bool := false
  /-- What brings the device back after level 4. -/
  way : WayOut := .package

/-- R370: the highest level taken. -/
def Levels.top (l : Levels) : Nat :=
  if l.l4 then 4 else if l.l3 then 3 else if l.l2 then 2 else 1

/-- R434: the one posting of an event: at level 2 or above, at level 1 where the row says so, or under a status that a
chapter names. -/
def levelPost (l : Levels) (s : State) : State :=
  let data := levelData l.top l.row l.count
  if l.done then s
  else match l.own with
    | some (src, st, obj) => postEvent src st obj none data s
    | none =>
      if 2 ≤ l.top || l.posted then
        postEvent (rowSource l.row) (if l.l4 then .eDeviceFailed else .sOk) l.obj none data s
      else s

/-- R370: count the actions at levels 2 and 3, post, and at level 4 take the device to FAILED. -/
def escalate (l : Levels) (s : State) : State :=
  let s := s.modRes fun r =>
    { r with level2 := if l.l2 then wrapInc 16 r.level2 else r.level2,
             level3 := if l.l3 then wrapInc 16 r.level3 else r.level3
             recent2 := if l.l2 then r.recent2 ++ [0] else r.recent2
             recent3 := if l.l3 then r.recent3 ++ [0] else r.recent3 }
  let s := levelPost l s
  if l.l4 then enterFailed l.way .eDeviceFailed s else s

/-! ### Commands that end -/

/-- R200, R207: the command that holds a tag ends with a status; its completion then waits to be written. -/
def endCommand (tag : Nat) (st : Status) (value detail : Nat) (s : State) : State :=
  match s.tagAt tag with
  | none => s
  | some c =>
    if c.result.isSome then s
    else s.modBob fun b =>
      { b with tag := tput b.tag tag (some { c with result := some st, value := value, detail := detail }),
               finished := b.finished ++ [tag] }

/-- End every command among `tags` that has not ended. -/
def endCommands (st : Status) : List Nat → State → State
  | [], s => s
  | t :: ts, s => endCommands st ts (endCommand t st 0 0 s)

/-- An error of the work of a client (R77, R149, R200, R221): a step's or a command's error fails the frame, and a
command keeps the error that it completes with; the host and a remote device are answered by their own rules. -/
def clientError (c : Client) (st : Status) (s : State) : State :=
  match c with
  | .step i => (failFrame st s).modFrm fun f => { f with stepFail := f.stepFail ++ [(i, st, 0)] }
  | .command t => (failFrame st s).modTag t fun o => o.map fun c => { c with error := c.error <|> some st }
  | .flyer => failFrame st s
  | .host | .fabric => s

/-- R130, R199: a step ends with a status and a DETAIL. -/
def stepError (i : Nat) (st : Status) (detail : Nat) (s : State) : State :=
  (failFrame st s).modFrm fun f => { f with stepFail := f.stepFail ++ [(i, st, detail)] }

/-! ### Local store errors -/

/-- R134: `k` corrections in bank `b` of a die's local store (256: the spare bank). -/
def localCorrected (die b k : Nat) (s : State) : State :=
  let key := die * 512 + b
  let s := winAdd 10 0 key k s
  let n := winCount s 10 0 key
  let spare := (vget s.vec die).lsSpare
  let map := 64 ≤ n && spare.isNone
  let s := s.modVec die fun v =>
    { v with scrubDue := if 16 ≤ n && !v.scrubDue.contains b then v.scrubDue ++ [b] else v.scrubDue,
             lsSpare := if map then some b else v.lsSpare, lsHidden := v.lsHidden && !map }
  escalate { row := 10, obj := die, count := n, l2 := 16 ≤ n, l3 := map,
             l4 := 64 ≤ n && spare.isSome && spare != some b } s

/-- R134: an uncorrectable local store error: a data-error status, the frame fails. -/
def localUncorrectable (die : Nat) (s : State) : State :=
  let s := failFrame .eDataError (s.modVec die fun v => { v with dataErr := true })
  let s := winBump 11 0 die s
  escalate { row := 11, obj := die, count := winCount s 11 0 die, l4 := 3 ≤ winCount s 11 0 die } s

/-! ### Ramps -/

/-- R101: a ramp lasts 32 cycles: one that began before the granule or the frame has ended [DC 78]. -/
def rampEnded (p : Spindle) : Spindle :=
  { p with ramp := .none, rampWindow := 0 }

/-- R101, R108: a step's work has ended on a spindle: with no vector ready the spindle, if it has issued any, begins a
ramp-down. -/
def leaveSpindle (p : Spindle) : Spindle :=
  if p.regime = 0 then { p with busy := none }
  else { p with busy := none, regime := 0, ramp := .down, rampWindow := 1 }

end Sys2Proof.Machine
end

