-- ==== Sys2Proof/Machine/Tables.lean ====
section
/-!
DEFINITION. The device's own tables in the address map (R186): the bytes of the queue descriptor table (R187) and of the
region table (R190), as a read of memory meets them.
-/

namespace Sys2Proof.Machine

/-- R186: the first address of the region table. -/
def regionTable : Nat :=
  0x7FFB000000

/-- R186: the first address of the queue descriptor table. -/
def queueTable : Nat :=
  0x7FFC000000

/-- R196: a queue's tail. -/
def queueTail (q : Queue) : Nat :=
  if q.cls = .peer then q.peerTail % 2 ^ 32 else q.tail

/-- R187: CLASS. -/
def QClass.code : QClass → Nat
  | .unused => 0 | .request => 1 | .completion => 2 | .peer => 3

/-- R187: the 64 bytes of a queue's descriptor. -/
def descriptorBytes (q : Queue) : List Byte :=
  layoutBytes 64
    [(0x00, 1, q.cls.code), (0x01, 1, q.prio), (0x02, 1, q.weight), (0x03, 1, bit q.enabled + 2 * bit q.interrupt),
     (0x04, 2, q.tenant), (0x06, 1, q.epoch), (0x07, 1, q.log2), (0x08, 4, q.ringRegion), (0x0C, 4, q.link),
     (0x10, 8, q.ringOff), (0x18, 4, q.head), (0x1C, 4, queueTail q), (0x20, 8, q.peerTail),
     (0x28, 4, (q.credit % 2 ^ 32).toNat), (0x2C, 2, q.inflight)]

/-- R190: the 32 bytes of a region entry. -/
def regionBytes (r : Region) : List Byte :=
  layoutBytes 32
    [(0x00, 8, r.base), (0x08, 8, r.size), (0x10, 1, r.mode), (0x11, 1, r.epoch), (0x12, 1, r.access.toNat),
     (0x13, 1, r.gen), (0x14, 2, r.tenant)]

/-- R186, R187, R190: the byte of the region table or of the queue descriptor table at an address, `none` elsewhere. The
flyer alone writes the tables: a debug write there changes neither [DC 87]. -/
def tableByte (s : State) (a : Nat) : Option Byte :=
  if queueTable ≤ a && a < queueTable + 2 ^ 26 then
    some ((descriptorBytes (s.queueAt ((a - queueTable) / 64))).getD ((a - queueTable) % 64) 0)
  else if regionTable ≤ a && a < regionTable + 2 ^ 24 then
    some ((regionBytes (s.regionAt ((a - regionTable) / 32))).getD ((a - regionTable) % 32) 0)
  else none

end Sys2Proof.Machine
end

