-- ==== Sys2Proof/Machine/Memory.lean ====
section
/-!
DEFINITION. Memory: the address map of R136-R139 and R162, one byte and many bytes read and written, undefined
contents, uncorrectable blocks, the write-merging buffers, the spill agent, and the accesses that commands and steps
make through them.
-/

namespace Sys2Proof.Machine

/-! ### The address map -/

/-- The canonical form of memory: addresses strictly rising, no entry equal to what an unlisted address reads as. -/
def Memory.wf (m : Tab Byte) : Bool :=
  tabWf m

/-- R162: the first address past hank memory. -/
def hankTop : Nat :=
  0x8000000000

/-- R114, R162: the first address past the four local stores. -/
def localTop : Nat :=
  0x8040000000

/-- R136, R162: a hank address. -/
def isHank (a : Nat) : Bool :=
  a < hankTop

/-- R114: a local store address. -/
def isLocal (a : Nat) : Bool :=
  hankTop ≤ a && a < localTop

/-- R162: `n` bytes from `a` lie wholly in hank memory or wholly in the local stores. -/
def mapped (a n : Nat) : Bool :=
  a + n ≤ hankTop || (hankTop ≤ a && a + n ≤ localTop)

/-- R138: the mode of a placement group: DIE-LOCAL where set. -/
def placeBit (s : State) (k : Nat) : Bool :=
  s.hnk.place.getLsbD k

/-- R139: the channel C of a hank address. -/
def chanOf (s : State) (a : Nat) : Nat :=
  let z := a / 2 ^ 30
  let q := z / 128
  let k := z % 128
  let u := a / 256 % 2 ^ 22
  if placeBit s k then
    512 * q + ((u % 512) ^^^ (u / 512 % 512) ^^^ (u / 2 ^ 18) ^^^ k)
  else (u % 2048) ^^^ (u / 2048) ^^^ z

/-- R139: the granule s within the channel. -/
def granuleOf (s : State) (a : Nat) : Nat :=
  let z := a / 2 ^ 30
  let q := z / 128
  let k := z % 128
  let u := a / 256 % 2 ^ 22
  if placeBit s k then 2048 * (4 * k + u / 2 ^ 20) + u / 512 % 2048
  else 2048 * (4 * k + q) + u / 2048

/-- R136: the hank of a hank address. -/
def hankOf (s : State) (a : Nat) : Nat :=
  chanOf s a / 256

/-- R1, R114, R136: the compute die that owns an address. -/
def dieOf (s : State) (a : Nat) : Nat :=
  if isHank a then chanOf s a / 512 else (a - hankTop) / 2 ^ 28

/-- R222: the host address that a spilled address stands for. -/
def spillHpa (s : State) (a : Nat) : Option Nat :=
  if isHank a then (tget s.hp.spill (a / 2 ^ 30)).map (· + a % 2 ^ 30) else none

/-- Two ranges have a byte in common. -/
def overlaps (a n b m : Nat) : Bool :=
  0 < n && 0 < m && a < b + m && b < a + n

/-- The 64-byte blocks that `n` bytes from `a` touch. -/
def blocksOf (a n : Nat) : List Nat :=
  if n = 0 then [] else (List.range ((a + n - 1) / 64 + 1 - a / 64)).map (· + a / 64)

/-! ### Bytes and undefined contents -/

/-- The range of undefined contents an address lies in. -/
def undefAt (us : List UndefExt) (a : Nat) : Option UndefExt :=
  us.find? fun u => u.base ≤ a && a < u.base + u.len

/-- One byte at its point of visibility (R162): the tables' own bytes in their range (R187, R190), and the free value
where the contents are undefined. -/
def readByte (s : State) (a : Nat) : Byte :=
  match tableByte s a, undefAt s.undef a with
  | some b, _ => b
  | none, some u => Config.freeByte u.id a
  | none, none => tget s.mem a

/-- `n` bytes at their points of visibility. -/
def readBytes (s : State) (a n : Nat) : List Byte :=
  (List.range n).map fun i => readByte s (a + i)

/-- What remains of a range of undefined contents once `[lo, hi)` has been written. -/
def cutExt (lo hi : Nat) (u : UndefExt) : List UndefExt :=
  if hi ≤ u.base || u.base + u.len ≤ lo then [u]
  else
    (if u.base < lo then [{ u with len := lo - u.base }] else []) ++
    (if hi < u.base + u.len then [{ u with base := hi, len := u.base + u.len - hi }] else [])

/-- Write bytes: they are defined from then on, whatever they overwrite. -/
def writeBytes (a : Nat) (bs : List Byte) (s : State) : State :=
  if bs.isEmpty then s
  else { s with mem := putBytes s.mem a bs, undef := s.undef.flatMap (cutExt a (a + bs.length)) }

/-- R7, R77, R140, R222: from now on the contents of a range are undefined until written. -/
def markUndef (base len : Nat) (s : State) : State :=
  if len = 0 then s
  else { s.drawFree with undef := { base := base, len := len, id := s.free } :: s.undef }

/-! ### Uncorrectable blocks -/

/-- R150: a row of a bank by its number: 32 C + bank. -/
def bankOf (s : State) (a : Nat) : Nat :=
  32 * chanOf s a + granuleOf s a % 32

/-- R150: the row a hank address lies in. -/
def rowOf (s : State) (a : Nat) : Nat :=
  bankOf s a * 8192 + granuleOf s a / 128

/-- R153, R156: accesses that were held for a channel end with a status. -/
def endHeld (st : Status) (s : State) : State :=
  s.hnk.held.foldl (fun s x => clientError x.2.client st s) (s.modHnk fun x => { x with held := [] })

/-- R156: a hank is lost: operations that need hank memory end with E_HANK_LOST, the frame fails, the compute dies stop,
the device enters FAILED. -/
def loseHank (h : Nat) (s : State) : State :=
  let s := endHeld .eHankLost s
  let s := s.modHnk fun x => { x with lost := x.lost <|> some h, hank := tmod x.hank h fun k => { k with lost := true } }
  let s := endCommands .eHankLost (tkeys s.bob.tag) s
  let s := s.modPkg fun p => { p with clocksStopped := p.clocksStopped ||| 0xF,
                                      op := p.op.map fun o => { o with phase := .steady, target := o.current, waiting := none } }
  enterFailed .package .eHankLost s

/-- R149, R150, R157: an uncorrectable block is read or found: its address is recorded, the event counted, and a row
repair queued, or the hank lost. -/
def recordUe (block : Nat) (s : State) : State :=
  let a := 64 * block
  let h := hankOf s a
  let s := s.modHank h fun k => { k with ue := true, ueAddr := a }
  let s := winBump 15 0 h s
  let n := winCount s 15 0 h
  let known := tget s.hnk.rowDone (rowOf s a) || s.hnk.rowQueue.any fun b => rowOf s (64 * b) == rowOf s a
  let spare := tget s.hnk.rowUsed (bankOf s a) < 4
  let fatal := (!known && !spare) || 16 ≤ n
  let s := if known || !spare then s else s.modHnk fun x => { x with rowQueue := x.rowQueue ++ [block] }
  let s := escalate { row := 15, obj := h, count := n, l3 := !known && spare, l4 := fatal } s
  if fatal then loseHank h s else s

/-- R149: a block whose stored bits fail their check. -/
def isUe (s : State) (block : Nat) : Bool :=
  tget s.hnk.ue block

/-! ### Storage cells of the compute dies -/

/-- R114: the bank of its die's local store that an address lies in. -/
def localBank (a : Nat) : Nat :=
  a / 128 % 256

/-- R114, R134: the die of a local store word, and its bank, or the spare bank that stands in for it (256). -/
def wordPlace (s : State) (w : Nat) : Nat × Nat :=
  let d := (8 * w - hankTop) / 2 ^ 28
  let b := localBank (8 * w)
  (d, if (vget s.vec d).lsSpare == some b then 256 else b)

/-- R23, R134: cells have come to fail their check: local store words, and lines that caches hold. -/
def applyCells (c : CellFaults) (s : State) : State :=
  let s := c.words.foldl (fun s w => s.modVis fun v => { v with words := tput v.words w.1 (if w.2 then 2 else 1) }) s
  c.lines.foldl (fun s l => s.modRlc l.1 fun v =>
    { v with lines := tmod v.lines l.2 fun o => o.map fun x => { x with bad := true } }) s

/-- R134: the words of local store that `n` bytes from `a` touch and that fail their check. -/
def faultyWords (s : State) (a n : Nat) : List Nat :=
  (tkeys s.vis.words).filter fun w => overlaps a n (8 * w) 8

/-- R134: words that fail their check are met in turn: SECDED corrects one, or its data is lost; the answer says whether
any was. -/
def meetWords : List Nat → Bool × State → Bool × State
  | [], r => r
  | w :: ws, r =>
    let (d, b) := wordPlace r.2 w
    meetWords ws (if tget r.2.vis.words w = 2 then (true, localUncorrectable d r.2) else (r.1, localCorrected d b 1 r.2))

/-- R134: a word that is written whole has fresh check bits. -/
def freshWords (a n : Nat) (s : State) : State :=
  s.modVis fun v => { v with words := v.words.filter fun e => !(a ≤ 8 * e.1 && 8 * e.1 + 8 ≤ a + n) }

/-! ### The write-merging buffers -/

/-- R142: the bits of a 64-byte block that bytes `[a, a + n)` cover. -/
def blockMask (block a n : Nat) : Nat :=
  maskOf 64 fun i => a ≤ 64 * block + i && 64 * block + i < a + n

/-- R149: the writes merged into an entry end with a status. -/
def clientsError (st : Status) : List Client → State → State
  | [], s => s
  | c :: cs, s => clientsError st cs (clientError c st s)

/-- R142, R149: a merging entry is written to the stack. A full one cleans its block; a masked write to an uncorrectable
block fails: the block's address is recorded, and the writes merged into it end with E_DATA_ERROR. -/
def wmbFlush (e : WmbEntry) (s : State) : State :=
  let s := s.modHnk fun x => { x with wmb := x.wmb.filter fun y => y.block != e.block }
  if e.mask = 2 ^ 64 - 1 then s.modHnk fun x => { x with ue := tput x.ue e.block false }
  else if isUe s e.block then clientsError .eDataError e.clients (recordUe e.block s)
  else s

/-- R142, R143: the merging entry of a block, if there is one, is written to the stack. -/
def wmbFlushBlock (block : Nat) (s : State) : State :=
  match s.hnk.wmb.find? fun e => e.block == block with
  | some e => wmbFlush e s
  | none => s

/-- R142: a partial write merges into its block's entry; a full entry goes to the stack at once, and an entry that finds
its channel's 64 entries taken displaces the oldest of them. -/
def wmbMerge (c0 : Client) (block a n : Nat) (s : State) : State :=
  let c := chanOf s (64 * block)
  let old := s.hnk.wmb.find? fun e => e.block == block
  let full := s.hnk.wmb.filter fun e => chanOf s (64 * e.block) == c
  let s := if old.isNone && 64 ≤ full.length then (full.head?.map (wmbFlush · s)).getD s else s
  let mask := (old.map (·.mask)).getD 0 ||| blockMask block a n
  let had := (old.map (·.clients)).getD []
  let new : WmbEntry := { block := block, mask := mask, clients := if had.contains c0 then had else had ++ [c0] }
  let s := s.modHnk fun x =>
    { x with wmb := if old.isSome then x.wmb.map fun e => if e.block = block then new else e else x.wmb ++ [new] }
  if mask = 2 ^ 64 - 1 then wmbFlush new s else s

/-! ### The spill agent -/

/-- R213, R224: the link is up with CXL.cache enabled. -/
def cacheOn (s : State) : Bool :=
  s.hp.rate != 0 && s.hp.proto.getLsbD 1

/-- R223: the lines the agent holds in the set of a line, oldest first. -/
def agentSet (s : State) (line : Nat) : List Nat :=
  (s.hp.agent.filter fun e => e.1 % 4096 == line % 4096 && e.2.isSome).map (·.1)

/-- R223: a line of the agent's cache that holds data. -/
def agentHolds (s : State) (line : Nat) : Bool :=
  (tget s.hp.agent line).any fun l => l.st != .wanted

/-- R223: the agent's state serves an access: held, and owned or dirty for a write. -/
def agentServes (s : State) (write : Bool) (line : Nat) : Bool :=
  (tget s.hp.agent line).any fun l => l.st != .wanted && (!write || l.st != .shared)

/-- R211, R223: a line leaves the agent's cache: a dirty one by DirtyEvict, with its bytes; a clean one by CleanEvict
with its bytes or by CleanEvictNoData, which of them the manual leaves open [DC 91]. -/
def agentEvict (line : Nat) (s : State) : State :=
  let hpa := (spillHpa s (64 * line)).getD 0
  let bytes := readBytes s (64 * line) 64
  match tget s.hp.agent line with
  | none => s
  | some l =>
    let s := s.modHp fun h => { h with agent := tput h.agent line none }
    if l.st = .dirty then s.emit (.cacheReq 2 hpa bytes)
    else if l.st = .wanted then s
    else if Config.freeNat s.free % 2 = 0 then s.drawFree.emit (.cacheReq 3 hpa bytes)
    else s.drawFree.emit (.cacheReq 4 hpa [])

/-- R223: every way of a line's set waits for the host's answer. -/
def agentFull (s : State) (line : Nat) : Bool :=
  16 ≤ (agentSet s line).length && !(agentSet s line).any (agentHolds s)

/-- R223: the agent makes room for a line: where its set of 16 ways is full, a line that it holds leaves, which one the
manual leaves open. -/
def agentRoom (line : Nat) (s : State) : State :=
  let held := (agentSet s line).filter (agentHolds s)
  if (agentSet s line).length < 16 then s
  else agentEvict (held.getD (Config.freeNat s.free % held.length) 0) s.drawFree

/-- R223: the agent asks the host for a line that it has not asked for in this way: RdShared, RdOwn, or RdOwnNoData for a
full-line write; a full set whose ways all wait lets it ask later. -/
def agentAsk (who : Option Client) (m : SpillMiss) (s : State) : State :=
  let old := tget s.hp.agent m.line
  if agentServes s m.write m.line || (old.isNone && agentFull s m.line) then s
  else
    let asked := old.any fun l => l.st == .wanted && (l.own || !m.write)
    let s := if old.isNone then agentRoom m.line s else s
    let l : AgentLine :=
      { st := .wanted, age := s.hp.clock, own := m.write || (old.map (·.own)).getD false,
        askers := (old.map (·.askers)).getD [] ++ who.toList }
    let s := s.modHp fun h =>
      { h with spillMiss := if asked then h.spillMiss else wrapInc 32 h.spillMiss,
               agent := tput h.agent m.line (some l), clock := h.clock + 1 }
    if asked then s
    else s.emit (.cacheReq (if m.write then if m.full then 6 else 1 else 0) ((spillHpa s (64 * m.line)).getD 0) [])

/-- R223: each of a list of lines is asked for. -/
def agentAskAll (who : Option Client) : List SpillMiss → State → State
  | [], s => s
  | m :: ms, s => agentAskAll who ms (agentAsk who m s)

/-- R223, R224: what the host has answered for the accesses being served, where it serves this one. -/
def spillGot (s : State) (write : Bool) (line : Nat) : Option SpillGot :=
  s.hp.serving.bind fun c =>
    s.hp.got.find? fun g => g.client == c && g.line == line && (g.own || !write || g.st.isSome)

/-- R223: a line is taken by an access. -/
def agentTake (line : Nat) (write : Bool) (s : State) : State :=
  let st : AgentState := if write then .dirty else ((tget s.hp.agent line).map (·.st)).getD .shared
  s.modHp fun h => { h with agent := tput h.agent line (some { st := st, age := h.clock }), clock := h.clock + 1 }

/-- R223: a line is fetched and taken at once: by the device's own accesses [DEDUCED 92], and for a write whose line has left
again since the host's answer. -/
def agentFetch (line : Nat) (write full : Bool) (s : State) : State :=
  let s := agentAsk none { line := line, write := write, full := full } s
  let st : AgentState := if write then .dirty else .shared
  s.modHp fun h => { h with agent := tput h.agent line (some { st := st, age := h.clock }), clock := h.clock + 1 }

/-- R223: an access to a spilled line is served by the agent: from its cache, or from what the host has answered; a line
that a step or a command does not find is set down, so that it waits for it. -/
def agentTouch (line : Nat) (write full : Bool) (s : State) : State :=
  if agentServes s write line then agentTake line write s
  else
    match s.hp.serving, spillGot s write line with
    | none, _ => agentFetch line write full s
    | some _, some g => if write && g.st.isNone then agentFetch line write full s else s
    | some _, none => s.modHp fun h => { h with missed := h.missed ++ [{ line := line, write := write, full := full }] }

/-- R223: what a list of misses asks for, one request a line: for ownership where the line is written, without data where
no part of it is needed. -/
def mergeMisses (ms : List SpillMiss) : List SpillMiss :=
  (ms.map (·.line)).dedup.map fun l =>
    let mine := ms.filter fun m => m.line == l
    { line := l, write := mine.any (·.write), full := mine.all (·.full) }

/-- R223, R224: the work of a step, a command or an arriving packet that may reach spilled addresses. Where it meets
lines that the agent does not hold, the agent asks the host for them, and the work waits: it has no other effect until
the command comes again with its lines answered. While the link is in recovery or stopped nothing is asked (R214,
R225). -/
def spillGate (c : Client) (f : State → State) (s : State) : State :=
  if s.hp.spill.isEmpty then f s
  else
    let t := f (s.modHp fun h => { h with serving := some c, missed := [] })
    if t.hp.missed.isEmpty then
      t.modHp fun h => { h with serving := none, got := h.got.filter fun g => g.client != c }
    else if linkPasses s then agentAskAll (some c) (mergeMisses t.hp.missed) s
    else s

/-- R224: what has been answered for clients that no longer wait is forgotten. -/
def forgetSpill (p : Client → Bool) (s : State) : State :=
  s.modHp fun h => { h with got := h.got.filter fun g => !p g.client }

/-! ### Accesses -/

/-- R224: the host's answer for one of an access's lines was poison, or did not come. -/
def spillError (s : State) (a n : Nat) : Option Status :=
  if s.hp.serving.isNone then none
  else
    ((blocksOf a n).find? fun b => ((spillGot s false b).bind (·.st)).isSome && (spillHpa s (64 * b)).isSome).bind fun b =>
      (spillGot s false b).bind (·.st)

/-- R153, R156, R224: why an access cannot be performed at all. -/
def accessRefused (s : State) (a n : Nat) : Option Status :=
  if !isHank a then none
  else if s.hnk.lost.isSome then some .eHankLost
  else if s.hnk.stopped then some .eHankOvertemp
  else if (blocksOf a n).any fun b => (spillHpa s (64 * b)).isSome && !cacheOn s then some .eHostLink
  else spillError s a n

/-- R224: a spill access that failed is shown in MOD_HP_STATUS. -/
def noteSpill (st : Status) (s : State) : State :=
  if st = .eHostLink || st = .eDataError then s.modHp fun h => { h with spillErr := true } else s

/-- R149: record every uncorrectable block of a list. -/
def recordUes : List Nat → State → State
  | [], s => s
  | b :: bs, s => recordUes bs (recordUe b s)

/-- R223: the agent serves every spilled block of a list. -/
def touchSpilled (write : Bool) (a n : Nat) : List Nat → State → State
  | [], s => s
  | b :: bs, s =>
    touchSpilled write a n bs
      (if (spillHpa s (64 * b)).isSome then agentTouch b write (a ≤ 64 * b && 64 * b + 64 ≤ a + n) s else s)

/-- The outcome of an access: the bytes read, or the status it fails with, and the state after it. -/
structure Access where
  bytes : List Byte := []
  err : Option Status := none
  s : State

/-- R142, R149, R162, R223: read `n` bytes at their points of visibility. -/
def memRead (a n : Nat) (s : State) : Access :=
  match accessRefused s a n with
  | some st => { err := some st, s := noteSpill st s }
  | none =>
    let bad := (blocksOf a n).filter fun b => isUe s b && (spillHpa s (64 * b)).isNone
    let s := touchSpilled false a n (blocksOf a n) s
    let w := meetWords (faultyWords s a n) (false, s)
    if bad.isEmpty && !w.1 then { bytes := readBytes w.2 a n, s := w.2 }
    else { bytes := readBytes w.2 a n, err := some .eDataError, s := recordUes bad w.2 }

/-- R142, R149: one block's part of a streaming write. -/
def streamBlock (c : Client) (block a n : Nat) (s : State) : State :=
  if !isHank (64 * block) || (spillHpa s (64 * block)).isSome then s
  else if a ≤ 64 * block && 64 * block + 64 ≤ a + n then
    s.modHnk fun x => { x with wmb := x.wmb.filter (fun y => y.block != block), ue := tput x.ue block false }
  else wmbMerge c block a n s

/-- Each block's part of a streaming write, in ascending order. -/
def streamBlocks (c : Client) (a n : Nat) : List Nat → State → State
  | [], s => s
  | b :: bs, s => streamBlocks c a n bs (streamBlock c b a n s)

/-- R142, R149, R180: a streaming write on behalf of a client, performed sector by sector. -/
def memWriteAs (c : Client) (a : Nat) (bs : List Byte) (s : State) : Access :=
  match accessRefused s a bs.length with
  | some st => { err := some st, s := noteSpill st s }
  | none =>
    let s := touchSpilled true a bs.length (blocksOf a bs.length) s
    { s := writeBytes a bs (freshWords a bs.length (streamBlocks c a bs.length (blocksOf a bs.length) s)) }

/-- R142: a streaming write of the device's own. -/
def memWrite (a : Nat) (bs : List Byte) (s : State) : Access :=
  memWriteAs .flyer a bs s

/-- R143, R149: a narrow write of at most half a block: the block's merging entry goes to the stack first, and an
uncorrectable block fails the write and stays as it is. -/
def narrowWrite (a : Nat) (bs : List Byte) (s : State) : Access :=
  match accessRefused s a bs.length with
  | some st => { err := some st, s := noteSpill st s }
  | none =>
    if !isHank a then { s := writeBytes a bs (freshWords a bs.length s) }
    else if (spillHpa s a).isSome then
      { s := writeBytes a bs (touchSpilled true a bs.length (blocksOf a bs.length) s) }
    else
      let s := wmbFlushBlock (a / 64) s
      if isUe s (a / 64) then { err := some .eDataError, s := recordUe (a / 64) s }
      else { s := writeBytes a bs s }

/-- R143: a narrow read of at most half a block. -/
def narrowRead (a n : Nat) (s : State) : Access :=
  memRead a n (if isHank a && (spillHpa s a).isNone then wmbFlushBlock (a / 64) s else s)

/-- R142: the merging entries of blocks are written to the stack. -/
def wmbFlushAll : List Nat → State → State
  | [], s => s
  | b :: bs, s => wmbFlushAll bs (wmbFlushBlock b s)

/-- R142, R143: a read by the narrow path of a range that may be longer, half burst by half burst. -/
def narrowSpan (a n : Nat) (s : State) : Access :=
  memRead a n (wmbFlushAll ((blocksOf a n).filter fun b => isHank (64 * b) && (spillHpa s (64 * b)).isNone) s)

/-- R145: what an atomic stores, from the value it finds. -/
def atomicResult (old : Nat) : AtomicOp → Nat
  | .fetchAdd v => (old + v.toNat) % 2 ^ 64
  | .compareSwap c v => if old = c.toNat then v.toNat else old

/-- R145: a 64-bit atomic: a read-modify-write of one half burst; an uncorrectable block leaves it without effect. The
bytes answered are the previous value. -/
def memAtomic (a : Nat) (op : AtomicOp) (s : State) : Access :=
  let owned := if (accessRefused s a 8).isNone then touchSpilled true a 8 (blocksOf a 8) s else s
  let r := narrowRead a 8 owned
  match r.err with
  | some st => { err := some st, s := r.s }
  | none =>
    let w := narrowWrite a (leBytes 8 (atomicResult (leNat r.bytes) op)) r.s
    { bytes := r.bytes, err := w.err, s := w.s }

/-- R147: a burst that an operation of the host or of another device needed on the channels of a range was lost in four
transfers; its access takes the loss. -/
def takeLost (c : Client) (a n : Nat) (s : State) : Bool × State :=
  let hit := fun x : Nat × Client => x.2 == c && (blocksOf a n).any fun b => isHank (64 * b) && chanOf s (64 * b) == x.1
  if s.hnk.lostBursts.any hit then (true, s.modHnk fun x => { x with lostBursts := x.lostBursts.filter fun y => !hit y })
  else (false, s)

/-- R147: a read for another device's operation. -/
def fabricRead (a n : Nat) (s : State) : Access :=
  let t := takeLost .fabric a n s
  let r := memRead a n t.2
  if t.1 then { r with err := r.err <|> some .eDataError } else r

/-- R147, R149: a write for another device's operation; one that reaches an uncorrectable block in part fails. -/
def fabricWrite (a : Nat) (bs : List Byte) (s : State) : Access :=
  let t := takeLost .fabric a bs.length s
  if t.1 then { err := some .eDataError, s := t.2 }
  else
    let r := memWriteAs .fabric a bs t.2
    let bad := (blocksOf a bs.length).filter fun b => isHank (64 * b) && isUe r.s b
    { err := if bad.isEmpty then r.err else r.err <|> some .eDataError, s := wmbFlushAll bad r.s }

/-! ### Writes that are held -/

/-- R163: a vector core or a spindle issues a write, which is held until it is performed. -/
def issueWrite (w : HeldWrite) (s : State) : State :=
  s.modVis fun v => { v with held := v.held ++ [w] }

/-- R7, R77: the contents written by a failed frame are undefined. -/
def undefWrites : List (Nat × Nat) → State → State
  | [], s => s
  | w :: ws, s => undefWrites ws (markUndef w.1 w.2 s)

/-- R77: the bytes that a step writes are this frame's, undefined if the frame fails. -/
def noteWrite (c : Client) (a n : Nat) (s : State) : State :=
  match c with
  | .step _ => s.modFrm fun f => { f with writes := f.writes ++ [(a, n)] }
  | _ => s

/-- R162: a held write reaches its point of visibility; an error is its client's. -/
def performWrite (w : HeldWrite) (s : State) : State :=
  let s := noteWrite w.client w.addr w.bytes.length s
  let r := if w.narrow then narrowWrite w.addr w.bytes s else memWriteAs w.client w.addr w.bytes s
  match r.err with
  | some st => clientError w.client st r.s
  | none => r.s

/-- Perform writes in order. -/
def performAll : List HeldWrite → State → State
  | [], s => s
  | w :: ws, s => performAll ws (performWrite w s)

/-- R168: perform every held write that `p` selects, oldest first. -/
def performHeld (p : HeldWrite → Bool) (s : State) : State :=
  let sel := s.vis.held.filter p
  performAll sel (s.modVis fun v => { v with held := v.held.filter fun w => !p w })

/-- An engine's own held writes to the blocks of a range go before its access to them (R143, R168). -/
def ownFirst (e : Engine) (a n : Nat) (s : State) : State :=
  performHeld (fun w => w.engine == e && overlaps (a / 64 * 64) (n + 64) w.addr w.bytes.length) s

/-- R163: an engine reads at the point of visibility. -/
def engineRead (e : Engine) (a n : Nat) (s : State) : Access :=
  memRead a n (ownFirst e a n s)

end Sys2Proof.Machine
end

