-- ==== Sys2Proof/Machine/Mailbox.lean ====
section
/-!
DEFINITION. Chapter 9: the mailboxes and their states, the command table, acceptance, steps, cancelling, completion,
and the flyer clusters.
-/

namespace Sys2Proof.Machine

/-! ### The command table -/

/-- R243: what the command table says of a command. -/
structure CmdInfo where
  cls : CmdClass := .none
  /-- The issuer may be a tenant. -/
  tenant : Bool := false
  /-- Marked C. -/
  cancel : Bool := false
  /-- Bytes of its parameters. -/
  len : Nat := 0
  /-- R241: accepted while the device is FAILED. -/
  inFailed : Bool := false
  /-- Reserved fields among its parameters, as (offset, bytes). -/
  reserved : List (Nat × Nat) := []

/-- R243: the command table, by code. -/
def cmdInfo : Nat → Option CmdInfo
  | 0x0001 => some { tenant := true, inFailed := true }
  | 0x0002 => some { cls := .mbx, len := 6, inFailed := true }
  | 0x0003 => some { cls := .plan, len := 2 }
  | 0x0010 => some { inFailed := true }
  | 0x0011 => some { inFailed := true }
  | 0x0020 => some { cls := .mem, len := 3 }
  | 0x0021 => some { cls := .mem, len := 10 }
  | 0x0022 => some { cls := .mem, len := 16, reserved := [(2, 6)] }
  | 0x0023 => some { cls := .mem, len := 2 }
  | 0x0024 => some { cls := .mem, tenant := true, len := 20 }
  | 0x0025 => some { cls := .mem, tenant := true, len := 26, reserved := [(4, 4)] }
  | 0x0026 => some { cls := .mem, tenant := true, len := 4 }
  | 0x0030 => some { cls := .queue, len := 12 }
  | 0x0031 => some { cls := .queue, tenant := true, len := 32, reserved := [(4, 4)] }
  | 0x0032 => some { cls := .queue, tenant := true, len := 32, reserved := [(4, 4)] }
  | 0x0033 => some { cls := .queue, tenant := true, len := 4 }
  | 0x0040 => some { cls := .frame, cancel := true, len := 18 }
  | 0x0041 => some { cls := .frame, len := 17 }
  | 0x0042 => some { cls := .frame, len := 1 }
  | 0x0043 => some { cls := .frame }
  | 0x0050 => some { cls := .plan, cancel := true, len := 16 }
  | 0x0051 => some { cls := .plan, len := 8 }
  | 0x0052 => some { inFailed := true }
  | 0x0058 => some { len := 1, inFailed := true }
  | 0x0070 => some { cls := .power, len := 2 }
  | 0x0071 => some { inFailed := true }
  | 0x0080 => some { cls := .flash, cancel := true, len := 16, reserved := [(2, 6)] }
  | 0x0081 => some { cls := .flash, len := 8 }
  | 0x0082 => some { cls := .flash, len := 2 }
  | 0x0083 => some { cls := .flash, len := 10 }
  | 0x0084 => some { cls := .flash, cancel := true, len := 24, inFailed := true }
  | 0x0090 => some { cls := .sec, cancel := true, len := 16 }
  | 0x0091 => some { tenant := true, inFailed := true }
  | 0x0092 => some { cls := .sec, len := 4 }
  | 0x0093 => some { cls := .sec, len := 8, reserved := [(1, 7)] }
  | 0x00A0 => some { cls := .test, len := 16, reserved := [(2, 6)] }
  | 0x00A1 => some { inFailed := true }
  | _ => none

/-- R239: the class of a command. -/
def cmdClass (code : Nat) : CmdClass :=
  match cmdInfo code with
  | some i => i.cls
  | none => .none

/-- The parameter bytes that a request must carry: `debug.unlock` has a longer second phase (R243). -/
def paramLen (code : Nat) (i : CmdInfo) (params : List Byte) : Nat :=
  if code = 0x0093 && fieldOf params 0 1 = 1 then 520 else i.len

/-- R236: the payload offset of the first bad byte of a request, if it has one: an unknown command, a reserved byte that
is not zero, a length that does not fit, an unlisted byte that is not zero. -/
def firstBad (payload : List Byte) : Option Nat :=
  let code := fieldOf payload 0 2
  let n := fieldOf payload 4 4
  let params := sliceBytes payload 0x10 (min n 4080)
  match cmdInfo code with
  | none => some 0
  | some i =>
    if fieldOf payload 2 1 ≠ 0 then some 2
    else if fieldOf payload 3 1 ≠ 0 then some 3
    else if 4080 < n || n < paramLen code i params then some 4
    else
      ((List.range n).find? fun k =>
        params.getD k 0 ≠ 0 &&
          (paramLen code i params ≤ k || i.reserved.any fun r => r.1 ≤ k && k < r.1 + r.2)).map (0x10 + ·)

/-- R235, R236: the request in a mailbox's payload. -/
def requestOf (payload : List Byte) : MbxReq :=
  { command := fieldOf payload 0 2, user := fieldOf payload 8 8,
    params := sliceBytes payload 0x10 (min (fieldOf payload 4 4) 4080) }

/-! ### Completion and classes -/

/-- R235, R236: mailbox `m` completes its command: reply data, length, detail, status, state, then its vector. -/
def completeMbx (m : Nat) (st : Status) (detail : Nat) (fields : List Byte) (s : State) : State :=
  match (s.mbxAt m).req with
  | none => s
  | some r =>
    let reply := leBytes 8 r.user ++ if st.failure && r.command != 0x0040 then [] else fields
    let s := s.modMbx m fun b =>
      { b with payload := putBytes b.payload 0 reply, replyLen := reply.length, detail := detail % 2 ^ 32,
               status := st, answered := r.command, phase := .done, req := none, cancelReq := false, started := false }
    let s := s.modFly fun f =>
      { f with cmdCount := wrapInc 32 f.cmdCount, classQ := f.classQ.filter (fun e => e.2 != m), taken := f.taken.erase m }
    sendVector (mbxVector s m) s

/-- The reply to a failed `frame.load` that is no failure of R57 (R235). -/
def loadFailFields : List Byte :=
  layoutBytes 16 [(8, 4, 0xFFFFFFFF)]

/-- A mailbox's command ends with a failure status. -/
def failMbx (m : Nat) (st : Status) (detail : Nat) (s : State) : State :=
  completeMbx m st detail loadFailFields s

/-- R239: the command that holds a class now. -/
def classHead (s : State) (c : CmdClass) : Option Nat :=
  (s.fly.classQ.find? fun e => e.1 == c).map (·.2)

/-- R239, R241: the command of mailbox `m` waits for its class, or for the end of DRAINING. -/
def waitsClass (s : State) (m : Nat) : Bool :=
  match (s.mbxAt m).req with
  | none => false
  | some r =>
    let c := cmdClass r.command
    c != .none && (s.mbxAt m).phase == .inProgress &&
      (classHead s c != some m || (c == .frame && s.pkg.devState == .draining))

/-- R237, R239: mailbox `m`'s command may run a step as far as it is concerned: it is in progress, its class is free for
it, and it does not wait for anything outside the flyer. -/
def commandReady (s : State) (m : Nat) : Bool :=
  (s.mbxAt m).req.isSome && (s.mbxAt m).phase == .inProgress && !waitsClass s m && !(s.mbxAt m).started && s.pkg.flyerRuns

/-- R237, R245: a flyer step of the frame program is running. -/
def flyerStepOpen (s : State) : Bool :=
  s.frm.image.any fun img =>
    s.frm.ran.any fun i => !s.frm.done.contains i && (img.steps[i]?).any fun e => e.kind == 4

/-- R230, R237: the cores that are free for mailbox steps: core 3 runs the flyer steps of the frame program. -/
def coresFree (s : State) : Nat :=
  4 - bit (flyerStepOpen s) - s.fly.taken.length

/-- R237: the commands whose step no core has taken, in the order in which cores take them: in mailbox number from the one
taken last, MB63 wrapping to MB00. -/
def stepOrder (s : State) : List Nat :=
  ((List.range 64).map fun i => (s.fly.lastStep + 1 + i) % 64).filter fun m => commandReady s m && !s.fly.taken.contains m

/-- R237: a step of mailbox `m`'s command may end now: a core has taken it, or a free core takes it in its turn, which it
does only once no acceptance is pending. -/
def stepReach (s : State) (m : Nat) : Bool :=
  commandReady s m &&
    (s.fly.taken.contains m || (s.fly.goOrder.isEmpty && ((stepOrder s).take (coresFree s)).contains m))

/-- R237: what the cores have taken once a step of mailbox `m`'s command ends: the steps before it in turn are running.
[DEDUCED 95] -/
def takeTurn (m : Nat) (s : State) : State :=
  if s.fly.taken.contains m then s.modFly fun f => { f with taken := f.taken.erase m }
  else s.modFly fun f => { f with taken := f.taken ++ (stepOrder s).takeWhile (· != m), lastStep := m }

/-- R231, R236, R248: one more step of mailbox `m`'s command is done and, with a standby, mirrored; the scrubs that wait
for a step gap have one. -/
def countStep (m : Nat) (s : State) : State :=
  let s := (takeTurn m s).modMbx m fun b =>
    { b with stepsDone := b.stepsDone + 1, stepsTotal := max b.stepsTotal (b.stepsDone + 1) }
  s.modFly fun f => { f with scrubDue := [], mirrored := if f.noStandby then f.mirrored else wrapInc 32 f.mirrored }

/-- R237, R239: mailbox `m` holds the command `code`, a step of which may end now. -/
def mayStep (s : State) (code m : Nat) : Option MbxReq :=
  match (s.mbxAt m).req with
  | none => none
  | some r => if r.command = code && stepReach s m then some r else none

/-- R376, R397: what cancelling or aborting a command in progress leaves: a partial snapshot is deleted and its pause
frames end; the slot that an update was writing is left EMPTY. -/
def undoCommand (code : Nat) (s : State) : State :=
  match code with
  | 0x0051 => s.modTop fun t => { t with accepting := none }
  | 0x0080 => s.modRes fun r =>
    if (r.job.map (·.auto)).getD true then r
    else { r with job := none, snaps := r.snaps.filter (·.complete) }
  | 0x0082 => s.modRes fun r => { r with buddyWait := none }
  | 0x0090 =>
    let t := if (vget s.sec.slot 0).st = .active then 1 else 0
    s.modSlot t fun _ => {}
  | _ => s

/-- R239, R241: the device state no longer admits a command, now that its turn has come. -/
def notAdmitted (s : State) (code : Nat) : Bool :=
  s.pkg.devState == .failed && !((cmdInfo code).map (·.inFailed)).getD false

/-- R237, R239, R240, R241: run the committing step of mailbox `m`'s command `code`: cancelled at this step boundary, no
longer admitted, or its checks and its effect in one step. -/
def casbomi (code m : Nat) (f : MbxReq → State → State) (s : State) : State :=
  match mayStep s code m with
  | none => s
  | some r =>
    if (s.mbxAt m).cancelReq then failMbx m .eCancelled 0 (undoCommand code s)
    else if notAdmitted s code then failMbx m .eDeviceFailed 0 (countStep m s)
    else f r (countStep m s)

/-- R213, R243: the tenant that a request names: its owner's own where the mailbox is a tenant's. -/
def reqTenant (s : State) (m given : Nat) : Nat :=
  if (s.mbxAt m).kind = .tenant then (s.mbxAt m).tenant else given

/-- R236, R243: a tenant's mailbox may act on an object of this tenant. -/
def mayActOn (s : State) (m tenant : Nat) : Bool :=
  (s.mbxAt m).kind != .tenant || (s.mbxAt m).tenant == tenant

/-! ### GO, CANCEL, acceptance, steps -/

/-- R234: a mailbox that takes commands. -/
def takesCommands (k : MbxKind) : Bool :=
  k == .host || k == .tenant

/-- R242: BAR0 is decoded, and boot has not halted. -/
def mailboxesUp (s : State) : Bool :=
  barUp s && (s.pkg.flyerRuns || s.pkg.devState == .boot)

/-- R234, R236, R242: a GO queues a mailbox's command, or is ignored with GO_IGNORED. -/
def goMbx (m : Nat) (s : State) : State :=
  let b := s.mbxAt m
  if !mailboxesUp s then s
  else if !takesCommands b.kind || b.phase == .queued || b.phase == .inProgress then
    s.modMbx m fun b => { b with goIgnored := true }
  else (s.modMbx m fun b => { b with phase := .queued, torn := [] }).modFly fun f => { f with goOrder := f.goOrder ++ [m] }

/-- MBX_GO (R234, R236, R242). -/
def execMbxGo (mbx : MbxId) (s : State) : Host.Outcome State Fault Refusal :=
  .next (goMbx mbx s)

/-- R240: a CANCEL of a command that has not ended. -/
def cancelMbx (m : Nat) (s : State) : State :=
  let b := s.mbxAt m
  match b.phase with
  | .queued => s.modMbx m fun b => { b with cancelReq := true }
  | .inProgress =>
    if waitsClass s m then failMbx m .eCancelled 0 s
    else if (((b.req.map (·.command)).bind cmdInfo).map (·.cancel)).getD false then
      if b.started then failMbx m .eCancelled 0 (undoCommand ((b.req.map (·.command)).getD 0) s)
      else s.modMbx m fun b => { b with cancelReq := true }
    else s.modMbx m fun b => { b with cancelIgnored := true }
  | _ => s.modMbx m fun b => { b with cancelIgnored := true }

/-- MBX_CANCEL (R240). -/
def execMbxCancel (mbx : MbxId) (s : State) : Host.Outcome State Fault Refusal :=
  .next (if mailboxesUp s then cancelMbx mbx s else s)

/-- R237: the command whose step ends next: the oldest that a core has taken, or the next that a free core takes. -/
def nextCommand (s : State) : Option Nat :=
  match s.fly.taken.find? (commandReady s) with
  | some m => some m
  | none => (stepOrder s).find? (stepReach s)

/-- MAILBOX_STEP (R231, R237, R240): an intermediate step of the next command in turn: it ends cancelled at this
boundary, or counts one more step; the step that commits a command is that command's own. -/
def execMailboxStep (s : State) : Host.Outcome State Fault Refusal :=
  .next (
    match nextCommand s with
    | none => s
    | some m =>
      if (s.mbxAt m).cancelReq then
        failMbx m .eCancelled 0 (undoCommand (((s.mbxAt m).req.map (·.command)).getD 0) s)
      else countStep m s)

/-- R244: records are consumed up to a new head; a head past the tail is ignored. -/
def evtHeadWrite (m v : Nat) (s : State) : State :=
  let b := s.mbxAt m
  if mailboxesUp s && (v + 2 ^ 32 - b.evtHead) % 2 ^ 32 ≤ (b.evtTail + 2 ^ 32 - b.evtHead) % 2 ^ 32 then
    s.modMbx m fun b => { b with evtHead := v }
  else s

/-- MBX_EVT_HEAD_WRITE (R244). -/
def execMbxEvtHeadWrite (mbx : MbxId) (value : Word) (s : State) : Host.Outcome State Fault Refusal :=
  .next (evtHeadWrite mbx value.toNat s)

/-- R236: bytes written over in the payload of a mailbox that is QUEUED; what was there first is kept. -/
def tearBytes (b : Mbx) : Nat → List Byte → Mbx
  | _, [] => b
  | o, _ :: bs =>
    tearBytes { b with torn := if (tget b.torn o).isSome then b.torn else tput b.torn o (some (tget b.payload o)) } (o + 1) bs

/-- R233, R236: the owner writes payload bytes. -/
def writePayload (m off : Nat) (bs : List Byte) (s : State) : State :=
  s.modMbx m fun b =>
    let b := if b.phase = .queued then tearBytes b off bs else b
    { b with payload := putBytes b.payload off bs }

/-! ### The clusters -/

/-- FLYER_HEARTBEAT (R231). -/
def execFlyerHeartbeat (s : State) : Host.Outcome State Fault Refusal :=
  .next (if s.pkg.flyerRuns then s.modFly fun f => { f with heartbeats := wrapInc 32 f.heartbeats } else s)

/-- R232: the standby takes over: the steps that were running are repeated there, a flyer step of the frame program with
its delay, and S_FLYER_TAKEOVER is posted. -/
def takeOver (row count : Nat) (s : State) : State :=
  let s := if flyerStepOpen s then noteHold 0x80 s else s
  let s := s.modFly fun f =>
    { f with activeLd1 := true, takeover := true, noStandby := true, taken := []
             scrubDue := if f.scrubDue.contains 1 then [0] else [] }
  escalate { row := row, count := count, l3 := true, own := some (0x01, .sFlyerTakeover, 0xFFFFFFFF) } s

/-- R43: the order of the reset domains, the heaviest highest. -/
def ResetDomain.weight : ResetDomain → Nat
  | .cold => 3 | .package => 2 | .compute => 1 | .flr => 0

/-- R393, R395: a boot is under way. One whose firmware hangs goes on no more: the watchdog or the host resets the
package. -/
def booting (s : State) : Bool :=
  s.pkg.devState == .boot && s.pkg.bootCode != 0x28

/-- R43: the reset in progress: one that has been triggered, or that boots, or a COMPUTE reset. -/
def resetUnderway (s : State) : Option ResetDomain :=
  match s.pkg.resetReq with
  | some (d, _) => some d
  | none => if booting s then some s.pkg.resetDomain else if s.pkg.computeReset then some .compute else none

/-- R40, R43: a COLD or PACKAGE reset is triggered: it aborts a lighter reset in progress, and an equal or a heavier one
absorbs it. -/
def triggerReset (dom : ResetDomain) (src : ResetSource) (s : State) : State :=
  if ((resetUnderway s).map fun d => decide (dom.weight ≤ d.weight)).getD false then s
  else s.modPkg fun p => { p with resetReq := some (dom, src), computeReset := false }

/-- STANDBY_TAKEOVER (R232, R248): 2 ms without a heartbeat. -/
def execStandbyTakeover (s : State) : Host.Outcome State Fault Refusal :=
  .next (if s.pkg.flyerRuns && !s.fly.noStandby then
    takeOver 23 (winCount s 23 0 0 + 1) (winBump 23 0 0 s) else s)

/-- R232, R248: the watchdog expires with no standby: a PACKAGE reset, and FAILED at the second within the hour. -/
def watchdogAlone (s : State) : State :=
  let s := winBump 23 1 0 (winBump 23 0 0 s)
  if 2 ≤ winCount s 23 1 0 then escalate { row := 23, count := winCount s 23 0 0, l4 := true } s
  else triggerReset .package .watchdog s

/-- WATCHDOG_EXPIRY (R232, R248): the hardware watchdog of the active cluster; it also ends a boot that hangs (R393). -/
def execWatchdogExpiry (s : State) : Host.Outcome State Fault Refusal :=
  .next (if s.pkg.flyerRuns && !s.fly.noStandby then
    takeOver 23 (winCount s 23 0 0 + 1) (winBump 23 0 0 s)
    else if s.pkg.flyerRuns || s.pkg.devState = .boot then watchdogAlone s
    else s)

/-- STANDBY_LOST (R232). -/
def execStandbyLost (s : State) : Host.Outcome State Fault Refusal :=
  .next (if s.fly.noStandby then s else s.modFly fun f => { f with standbyLost := true, noStandby := true })

/-- R248: an SRAM error of a cluster, the active one or the standby: corrections and uncorrectable errors are counted
apart. -/
def sramError (active bad : Bool) (s : State) : State :=
  let key := if active = s.fly.activeLd1 then 1 else 0
  let s := winBump 24 (bit bad) key s
  let n := winCount s 24 (bit bad) key
  let which := bit !active
  let l2 := 16 ≤ n && !bad
  let s := if l2 then s.modFly fun f =>
    { f with scrubDue := if f.scrubDue.contains which then f.scrubDue else f.scrubDue ++ [which] } else s
  if active && bad && s.fly.noStandby then
    triggerReset .package .sramError (escalate { row := 24, obj := key, count := n, l2 := l2 } s)
  else if active && (bad || 64 ≤ n) && !s.fly.noStandby then
    takeOver 24 n (if l2 then s.modRes fun r =>
      { r with level2 := wrapInc 16 r.level2, recent2 := r.recent2 ++ [0] } else s)
  else escalate { row := 24, obj := key, count := n, l2 := l2 } s

/-- FLYER_SRAM_ECC (R248). -/
def execFlyerSramEcc (active uncorrectable : Bool) (s : State) : Host.Outcome State Fault Refusal :=
  .next (if s.pkg.flyerRuns then sramError active uncorrectable s else s)

/-! ### dev.info, mbx.assign, dev.feed -/

/-- R45: the value of MOD_STATE. -/
def DevState.code : DevState → Nat
  | .off => 0 | .boot => 1 | .ready => 2 | .running => 3 | .deterministic => 4 | .draining => 5 | .failed => 6

/-- R243, R300: DEVICE_ID with its VALID bit. -/
def deviceIdField (s : State) : Nat :=
  match s.fab.deviceId with
  | some d => 0x8000 + d
  | none => 0

/-- R387: the number of consecutive blown bits from bit 0. -/
def svnOf (w : BitVec 64) : Nat :=
  ((List.range 64).takeWhile fun i => w.getLsbD i).length

/-- R243: the reply of `dev.info`. -/
def devInfoFields (s : State) : List Byte :=
  layoutBytes 32
    [(0, 4, 0x00D20004), (4, 4, s.pkg.pkgCap.toNat), (8, 2, s.fly.fwMajor), (10, 2, s.fly.fwMinor),
     (12, 2, deviceIdField s), (14, 1, s.pkg.devState.code), (16, 8, s.top.serial), (24, 8, svnOf s.sec.svnWord)]

/-- DEV_INFO (R243). -/
def execDevInfo (mbx : MbxId) (s : State) : Host.Outcome State Fault Refusal :=
  .next (casbomi 0x0001 mbx (fun _ s => completeMbx mbx .sOk 0 (devInfoFields s) s) s)

/-- R234: the kind that a KIND byte names. -/
def mbxKindOf : Nat → Option MbxKind
  | 0 => some .unassigned | 1 => some .host | 2 => some .tenant | 3 => some .eventHost | 4 => some .eventTenant
  | _ => none

/-- R234: a mailbox that cannot change its owner now. -/
def mbxBusy (b : Mbx) : Bool :=
  b.phase == .queued || b.phase == .inProgress || (b.kind.isEvent && b.evtHead != b.evtTail)

/-- R234: `mbx.assign`. -/
def mbxAssign (m : Nat) (r : MbxReq) (s : State) : State :=
  let t := fieldOf r.params 0 1
  match mbxKindOf (fieldOf r.params 1 1) with
  | none => failMbx m .eCommand 0x11 s
  | some k =>
    if 63 < t then failMbx m .eCommand 0x10 s
    else if t = 0 || t = 63 || t = m then failMbx m .ePermission 0 s
    else if mbxBusy (s.mbxAt t) then failMbx m .eState 0 s
    else completeMbx m .sOk 0 []
      (s.modMbx t fun b => { b with kind := k, tenant := fieldOf r.params 2 2 % 4096,
                                    vector := some (fieldOf r.params 4 2 % 2048), phase := .idle })

/-- MBX_ASSIGN (R234). -/
def execMbxAssign (mbx : MbxId) (s : State) : Host.Outcome State Fault Refusal :=
  .next (casbomi 0x0002 mbx (mbxAssign mbx) s)

/-- DEV_FEED (R305): FEED is 0x0001 to 0xFFFF. -/
def execDevFeed (mbx : MbxId) (s : State) : Host.Outcome State Fault Refusal :=
  .next (casbomi 0x0003 mbx (fun r s =>
    if fieldOf r.params 0 2 = 0 then failMbx mbx .eCommand 0x10 s
    else completeMbx mbx .sOk 0 [] (s.modTop fun t => { t with feed := fieldOf r.params 0 2 })) s)

end Sys2Proof.Machine
end

