-- ==== Sys2Proof/Machine/Operands.lean ====
section
/-!
DEFINITION. The operand forms of chapter 7: region handles, region checks, extents, placement checks and global
addresses (R189-R193, R198, R199, R288).
-/

namespace Sys2Proof.Machine

/-! ### Handles -/

/-- R189: the region that a handle names, `none` where the handle is not valid. -/
def handleRegion (s : State) (h : Nat) : Option Region :=
  let i := h % 2 ^ 19
  let r := s.regionAt i
  if h < 2 ^ 27 && i ≠ 0 && r.bound && r.gen == h / 2 ^ 19 then some r else none

/-- R189: the handle of entry `i`. -/
def handleOf (s : State) (i : Nat) : Nat :=
  (s.regionAt i).gen * 2 ^ 19 + i

/-- R190: bits of ACCESS. -/
def accRead : Nat := 0
def accWrite : Nat := 1
def accRemoteRead : Nat := 2
def accRemoteWrite : Nat := 3
def accHost : Nat := 4

/-- R186, R199: the REASON that check 3 gives for a handle, 0 where it passes: 1 not valid, 2 another tenant's, 3 the
access is not granted. The device's own tables are no tenant's: they are there for frame program steps, which name no
tenant. -/
def handleReason (s : State) (h : Nat) (tenant : Option Nat) (acc : Nat) : Nat :=
  match handleRegion s h with
  | none => 1
  | some r =>
    if (tenant.map fun t => r.system || t != r.tenant).getD false then 2
    else if r.access.getLsbD acc then 0 else 3

/-- R186, R236: a host's mailbox command may name every tenant's region and none of the device's own tables. -/
def anyTenant (s : State) (h : Nat) : Option Nat :=
  (handleRegion s h).map (·.tenant)

/-- R198: `n` bytes at offset `o` fit the region. -/
def extentFits (s : State) (h o n : Nat) : Bool :=
  ((handleRegion s h).map fun r => decide (o + n ≤ r.size)).getD false

/-- The local address of an offset in a region; 0 for a handle that is not valid. -/
def regionAddr (s : State) (h o : Nat) : Nat :=
  ((handleRegion s h).map fun r => r.base + o).getD 0

/-- R198, R199: an operand of a command: its number in DETAIL, handle, offset, length and the access it needs. -/
structure Operand where
  num : Nat
  handle : Nat
  off : Nat
  len : Nat
  acc : Nat := accRead
  deriving DecidableEq, Repr, Inhabited

/-- R199 check 3 over operands in order: the first failure's status and DETAIL. -/
def checkHandles (s : State) (tenant : Option Nat) : List Operand → Option (Status × Nat)
  | [] => none
  | o :: os =>
    let r := handleReason s o.handle tenant o.acc
    if r ≠ 0 then some (.eRegion, 256 * o.num + r) else checkHandles s tenant os

/-- R199 check 4 over operands in order. -/
def checkExtents (s : State) : List Operand → Option (Status × Nat)
  | [] => none
  | o :: os => if extentFits s o.handle o.off o.len then checkExtents s os else some (.eBounds, o.num)

/-- R199 checks 3 and 4. -/
def checkOperands (s : State) (tenant : Option Nat) (os : List Operand) : Option (Status × Nat) :=
  checkHandles s tenant os <|> checkExtents s os

/-! ### Placement -/

/-- R186: the first address of the device's own tables. -/
def tablesBase : Nat :=
  0x7FFA000000

/-- R186: the row table. -/
def rowTable : Nat :=
  0x7FFA000000

/-- R141: the placement groups that a hank range touches: the zones it touches, modulo 128. -/
def groupsOf (base size : Nat) : List Nat :=
  if size = 0 then []
  else ((List.range ((base + size - 1) / 2 ^ 30 + 1 - base / 2 ^ 30)).map fun i => (base / 2 ^ 30 + i) % 128).dedup

/-- R141: the placement groups of a range agree with MODE, and a DIE-LOCAL range lies within one quarter. -/
def placeAgrees (s : State) (mode base size : Nat) : Bool :=
  mode == 2 ||
    ((groupsOf base size).all (fun k => placeBit s k == (mode == 1)) &&
      (mode == 0 || base / 2 ^ 37 == (base + size - 1) / 2 ^ 37))

/-- R191 check 1, after the reserved bits: alignment, MODE and the range it allows. -/
def extentFormed (mode base size : Nat) : Bool :=
  base % 256 == 0 && size % 256 == 0 && 256 ≤ size && base < 2 ^ 40 &&
    if mode ≤ 1 then base + size ≤ hankTop
    else mode == 2 && isLocal base && base + size ≤ localTop &&
      (base - hankTop) / 2 ^ 28 == (base + size - 1 - hankTop) / 2 ^ 28

/-- R214, R219: the range lies in the CXL memory window; in 68-byte flit mode there is none. -/
def inWindow (s : State) (base size : Nat) : Bool :=
  !(s.hp.rate != 0 && s.hp.flit == 0) && s.hp.winBase ≤ base && base + size ≤ s.hp.winBase + s.hp.winSize * 2 ^ 28

/-- R191 check 5: another region that has a remote bit shares a byte with the range. -/
def remoteOverlap (s : State) (self : Option Nat) (base size : Nat) : Bool :=
  s.bob.region.any fun e =>
    some e.1 != self && e.2.bound && (e.2.access.getLsbD accRemoteRead || e.2.access.getLsbD accRemoteWrite)
      && overlaps base size e.2.base e.2.size

/-- R191 checks 1 to 5: the first failure's status and REASON. -/
def bindCheck (s : State) (self : Option Nat) (base size mode access : Nat) : Option (Status × Nat) :=
  let rem := access.testBit accRemoteRead || access.testBit accRemoteWrite
  if 32 ≤ access || !extentFormed mode base size then some (.eRegion, 4)
  else if overlaps base size tablesBase (hankTop - tablesBase) then some (.eRegion, 5)
  else if !placeAgrees s mode base size then some (.ePlacement, 0)
  else if access.testBit accHost && !inWindow s base size then some (.eRegion, 6)
  else if rem && remoteOverlap s self base size then some (.eRegion, 7)
  else none

/-! ### Global addresses -/

/-- R288: the device, the epoch and the local address of a global address. -/
def gaDevice (g : Nat) : Nat := bitsOf g 63 50
def gaEpoch (g : Nat) : Nat := bitsOf g 49 42
def gaLocal (g : Nat) : Nat := bitsOf g 39 0

/-- R193: the bound region that holds an address and grants a remote access; the one with that remote bit is unique. -/
def remoteRegion (s : State) (a acc : Nat) : Option Region :=
  (s.bob.region.find? fun e =>
    e.2.bound && e.2.access.getLsbD acc && e.2.base ≤ a && decide (a < e.2.base + e.2.size)).map (·.2)

/-- R193 checks 1 to 3 of an operation on `n` bytes at global address `g`: the status and DETAIL it is refused with. -/
def remoteCheck (s : State) (g n acc : Nat) : Option (Status × Nat) :=
  match remoteRegion s (gaLocal g) acc with
  | none => some (.eRegion, 0x0403)
  | some r =>
    if gaEpoch g ≠ r.epoch then some (.eEpochStale, 0)
    else if r.base + r.size < gaLocal g + n then some (.eBounds, 4)
    else none

/-- R193: a stale operation is counted and shown. -/
def noteStale (st : Status) (s : State) : State :=
  if st = .eEpochStale then s.modBob fun b => { b with staleCount := wrapInc 32 b.staleCount, stale := true } else s

end Sys2Proof.Machine
end

