-- ==== Sys2Proof/Machine/Access.lean ====
section
/-!
DEFINITION. Accesses at the channel controllers and the local stores: what the stack reports about them, the path that an
engine's access takes through the package (R16, R18), and accesses that are held while a channel is in action, a loop
relocks or a ring link retrains (R18, R44, R154).
-/

namespace Sys2Proof.Machine

/-! ### Paths -/

/-- R45: the LINK number of the ring direction from CDa to its neighbour CDb. -/
def ringLink (a b : Nat) : Nat :=
  match a, b with
  | 0, 1 => 0 | 1, 0 => 1 | 0, 2 => 2 | 2, 0 => 3
  | 1, 3 => 4 | 3, 1 => 5 | 2, 3 => 6 | _, _ => 7

/-- R18: the dies that a transfer from CDs to CDd passes through after the first: a diagonal pair takes two hops, the first
of them horizontal. -/
def ringPath (s d : Nat) : List Nat :=
  if s = d then [] else if d = s ^^^ 3 then [s ^^^ 1, d] else [d]

/-- R45: the LINK number of a hop between two dies, numbered as R24 numbers them. -/
def hopLink (a b : Nat) : Nat :=
  if a < 4 && b < 4 then ringLink a b
  else if a < 4 then 8 + 4 * a + 2 * (b - 4)
  else if b < 4 then 8 + 4 * b + 2 * (a - 4) + 1
  else 24 + (a - 4)

/-- R16, R18: the dies of a transfer from one die to another, after the first: a link die has a link to every compute
die. -/
def diePath (a b : Nat) : List Nat :=
  if a = b then [] else if a < 4 && b < 4 then ringPath a b else [b]

/-- R45: the link directions of a path. -/
def pathLinks : Nat → List Nat → List Nat
  | _, [] => []
  | a, b :: bs => hopLink a b :: pathLinks b bs

/-- R16, R24: the die that an engine stands on; the flyer and the host port are on LD0. -/
def engineSeat : Engine → Nat
  | .spindle i => i.val / 2
  | .vector c => c.val / 64
  | .transfer ld _ => 4 + ld.val
  | .host | .flyer => 4

/-! ### Held accesses -/

/-- R18, R44: the way between two dies, there and back, is stalled: a die on it relocks, or a link direction retrains. -/
def wayStalled (s : State) (a b : Nat) : Bool :=
  (a :: diePath a b ++ diePath b a).any (s.pkg.relocking.getLsbD ·) ||
    (pathLinks a (diePath a b) ++ pathLinks b (diePath b a)).any fun l => (s.d2dAt l).retraining

/-- R18, R44, R154: a block of an access lies on a channel in action, or behind a stalled way. -/
def accessStalled (s : State) (e : Engine) (a n : Nat) : Bool :=
  (blocksOf a n).any fun b =>
    (isHank (64 * b) && s.hnk.active.any fun x => x.1 == chanOf s (64 * b)) ||
      wayStalled s (engineSeat e) (dieOf s (64 * b))

/-- R148: `n` in-stack corrections on a hank. -/
def stackCorrected (h n : Nat) (s : State) : State :=
  winAdd 14 0 h n s

/-- R149: the stored bits of blocks have come to fail their check. -/
def blocksFail : List Nat → State → State
  | [], s => s
  | b :: bs, s => blocksFail bs (s.modHnk fun x => { x with ue := tput x.ue b true })

/-- R148: each block that arrives corrected is counted on its hank. -/
def countCorrected : List Nat → State → State
  | [], s => s
  | b :: bs, s => countCorrected bs (stackCorrected (hankOf s (64 * b)) 1 s)

/-- R134, R148, R149: what the cells of an access report. -/
def noteCells (a : MemAccess) (s : State) : State :=
  let blocks := blocksOf a.addr.toNat a.len
  countCorrected (a.corrected.filter fun b => blocks.contains b && isHank (64 * b))
    (blocksFail (a.bad.filter fun b => blocks.contains b && isHank (64 * b)) (applyCells a.cells s))

/-- R163: a write that arrives: the held write it is, or a write sent on the moment it was made. -/
def arriveWrite (w : HeldWrite) (s : State) : State :=
  if s.vis.held.contains w then performWrite w (s.modVis fun v => { v with held := v.held.erase w })
  else performWrite w s

/-- R142, R143: an access by either path reaches its point of visibility. -/
def performAccess (narrow : Bool) (a : MemAccess) (s : State) : State :=
  let s := noteCells a s
  match a.write with
  | some bs => arriveWrite { engine := a.engine, client := a.client, addr := a.addr.toNat, bytes := bs, narrow := narrow } s
  | none =>
    let s := ownFirst a.engine a.addr.toNat a.len s
    let r := if narrow then narrowRead a.addr.toNat a.len s else memRead a.addr.toNat a.len s
    match r.err with
    | some st => clientError a.client st r.s
    | none => r.s

/-- R18, R44, R154: an access is performed, or held while it is stalled. -/
def arrive (narrow : Bool) (a : MemAccess) (s : State) : State :=
  if accessStalled s a.engine a.addr.toNat a.len then s.modHnk fun x => { x with held := x.held ++ [(narrow, a)] }
  else performAccess narrow a s

/-- R154: held accesses issue in arrival order; one that is still stalled stays held. -/
def arriveAll : List (Bool × MemAccess) → State → State
  | [], s => s
  | x :: xs, s => arriveAll xs (arrive x.1 x.2 s)

/-- R18, R44, R154: something that stalled accesses has ended. -/
def resumeHeld (s : State) : State :=
  arriveAll s.hnk.held (s.modHnk fun x => { x with held := [] })

end Sys2Proof.Machine
end

