-- ==== Sys2Proof/Machine/Package.lean ====
section
/-!
DEFINITION. Chapter 1: operating-point transitions, the reference and the loops, and the die-to-die links.
-/

namespace Sys2Proof.Machine

/-! ### Operating points -/

/-- R38: a request at a die whose transition has ended: an upward or a downward transition begins with its target loop
locking; the operating point in force needs none. -/
def opStart (op : Fin 8) (o : OpState) : OpState :=
  if o.current < op then { o with target := op, phase := .upLock, waiting := none }
  else if op < o.current then { o with target := op, phase := .downLock, waiting := none }
  else { o with target := o.current, phase := .steady, waiting := none }

/-- R38: a request; one that finds a transition in progress waits for its end. -/
def opRequest (op : Fin 8) (o : OpState) : OpState :=
  if o.phase = .steady then opStart op o else { o with waiting := some op }

/-- R38: a transition ends at its target, and a request that waited starts from there. -/
def opFinish (o : OpState) : OpState :=
  let o := { o with current := o.target, clock := o.target, phase := .steady }
  match o.waiting with
  | some op => opStart op o
  | none => o

/-- R38: the target loop has locked. -/
def opLocked (o : OpState) : OpState :=
  match o.phase with
  | .upLock => { o with phase := .upVolt }
  | .downLock => { o with phase := .downPause, clock := o.target }
  | _ => o

/-- R38: the voltage of an upward transition has risen. -/
def opRisen (o : OpState) : OpState :=
  match o.phase with
  | .upVolt => { o with phase := .upPause, clock := o.target }
  | _ => o

/-- R38: the pause of the clock switch has ended. -/
def opPaused (o : OpState) : OpState :=
  match o.phase with
  | .upPause => opFinish o
  | .downPause => { o with phase := .downVolt }
  | _ => o

/-- R38: the voltage of a downward transition has fallen. -/
def opFallen (o : OpState) : OpState :=
  match o.phase with
  | .downVolt => opFinish o
  | _ => o

/-- R38, R43: a transition in progress is abandoned. -/
def opAbandon (o : OpState) : OpState :=
  { o with target := o.current, clock := o.current, phase := .steady, waiting := none }

/-- OP_TRANSITION_REQUEST (R38). -/
def execOpTransitionRequest (die : CDie) (op : Fin 8) (s : State) : Host.Outcome State Fault Refusal :=
  .next (s.modOp die (opRequest op))

/-- TARGET_LOOP_LOCK (R38). -/
def execTargetLoopLock (die : CDie) (s : State) : Host.Outcome State Fault Refusal :=
  .next (s.modOp die opLocked)

/-- VOLTAGE_RISE_COMPLETE (R38). -/
def execVoltageRiseComplete (die : CDie) (s : State) : Host.Outcome State Fault Refusal :=
  .next (s.modOp die opRisen)

/-- CLOCK_SWITCH_PAUSE_END (R38). -/
def execClockSwitchPauseEnd (die : CDie) (s : State) : Host.Outcome State Fault Refusal :=
  .next (s.modOp die opPaused)

/-- OP_TRANSITION_COMPLETE (R38). -/
def execOpTransitionComplete (die : CDie) (s : State) : Host.Outcome State Fault Refusal :=
  .next (s.modOp die opFallen)

/-! ### The reference and the loops -/

/-- R39, R44: the reference is lost: holdover begins, and the loss is logged with its holdover action. -/
def referenceLost (s : State) : State :=
  if s.pkg.refOk then
    escalate { row := 3, l2 := true }
      (s.modPkg fun p => { p with refOk := false, holdover := true, refLost := true })
  else s

/-- REFERENCE_LOSS (R39). -/
def execReferenceLoss (s : State) : Host.Outcome State Fault Refusal :=
  .next (referenceLost s)

/-- REFERENCE_RETURN (R39): within the holdover the loops relock without a stop; after it the reference is present
again, and nothing else comes back by itself. -/
def execReferenceReturn (s : State) : Host.Outcome State Fault Refusal :=
  .next (s.modPkg fun p => { p with refOk := true, refLost := p.refLost || p.holdover, holdover := false })

/-- R39, R242: holdover has expired: every die stops its clocks, LD0 among them, so the flyer and the host port stop. -/
def holdoverExpired (s : State) : State :=
  if s.pkg.holdover then
    let s := escalate { row := 3, l4 := true } s
    s.modPkg fun p => { p with holdover := false, clocksStopped := 0x3F, locked := 0,
                               flyerRuns := false, bar0Up := false, op := p.op.map opAbandon }
  else s

/-- HOLDOVER_EXPIRY (R39). -/
def execHoldoverExpiry (s : State) : Host.Outcome State Fault Refusal :=
  .next (holdoverExpired s)

/-- R44, R76: a die's loop loses lock: its clocks stop, a relock begins, which is a delay of the frame in progress, and a
third loss within the hour fails the device. -/
def loopLost (die : Die) (s : State) : State :=
  let s := (noteHold 0x08 s).modPkg fun p =>
    { p with unlockSticky := p.unlockSticky ||| BitVec.ofNat 6 (2 ^ die.val),
             locked := p.locked &&& ~~~ BitVec.ofNat 6 (2 ^ die.val),
             relocking := p.relocking ||| BitVec.ofNat 6 (2 ^ die.val) }
  let s := winBump 2 0 die s
  let n := winCount s 2 0 die
  escalate { row := 2, obj := die, count := n, l2 := true, l4 := 3 ≤ n } s

/-- LOOP_LOSS_OF_LOCK (R44). -/
def execLoopLossOfLock (die : Die) (s : State) : Host.Outcome State Fault Refusal :=
  .next (loopLost die s)

/-- RELOCK_COMPLETE (R44). -/
def execRelockComplete (die : Die) (s : State) : Host.Outcome State Fault Refusal :=
  .next (if s.pkg.relocking.getLsbD die then
    resumeHeld (s.modPkg fun p => { p with locked := p.locked ||| BitVec.ofNat 6 (2 ^ die.val),
                                           relocking := p.relocking &&& ~~~ BitVec.ofNat 6 (2 ^ die.val) })
    else s)

/-! ### The die-to-die links -/

/-- R19, R44: a flit failed its check and is replayed; from the sixteenth replay of a window on, a retrain of the
direction is queued. -/
def flitReplayed (link : Fin 26) (s : State) : State :=
  let s := winBump 1 0 link s
  let n := winCount s 1 0 link
  let s := if 16 ≤ n then s.modD2d link fun l => { l with queued := l.queued || !l.retraining } else s
  escalate { row := 1, obj := link, count := n, l2 := 16 ≤ n } s

/-- FLIT_CRC_FAIL (R19). -/
def execFlitCrcFail (link : Fin 26) (s : State) : Host.Outcome State Fault Refusal :=
  .next (flitReplayed link s)

/-- R76: no frame program runs on the device, so no reply covers anything. -/
def noProgram (s : State) : Bool :=
  s.frm.prog != .running

/-- D2D_RETRAIN_START (R44, R76): a queued retrain begins at a frame start whose planned stretch has been requested,
or at any frame start without a program. -/
def execD2dRetrainStart (link : Fin 26) (s : State) : Host.Outcome State Fault Refusal :=
  .next (if (s.d2dAt link).queued && ((s.d2dAt link).asked || noProgram s) then
    s.modD2d link fun l => { l with queued := false, asked := false, retraining := true }
    else s)

/-- R44: a retrain has ended; from the third within the hour on, the weakest wire is mapped to a spare, and the device
fails where none is left. -/
def retrained (link : Fin 26) (s : State) : State :=
  let s := winBump 1 1 link s
  let n := winCount s 1 1 link
  let spare := 0 < (s.d2dAt link).sparesLeft
  let s := s.modD2d link fun l =>
    { l with retraining := false, sparesLeft := if 3 ≤ n then l.sparesLeft - 1 else l.sparesLeft }
  resumeHeld (escalate { row := 1, obj := link, count := n, l3 := 3 ≤ n && spare, l4 := 3 ≤ n && !spare } s)

/-- D2D_RETRAIN_COMPLETE (R44). -/
def execD2dRetrainComplete (link : Fin 26) (s : State) : Host.Outcome State Fault Refusal :=
  .next (if (s.d2dAt link).retraining then retrained link s else s)

end Sys2Proof.Machine
end

