-- ==== Sys2Proof/Machine/Program.lean ====
section
/-!
DEFINITION. What the loaded frame program says of the frame in progress (R55, R61, R79): this device's rank, its frame
table entry, its steps, and the windows that leave units free.
-/

namespace Sys2Proof.Machine

/-- R55: the rank that RANK_MAP gives this device. -/
def rankIn (img : Image) (dev : Option Nat) : Option Nat :=
  match dev with
  | none => none
  | some d => if img.rankMap.contains d then some (img.rankMap.idxOf d) else none

/-- R55: this device's rank in the image held. -/
def myRank (s : State) : Option Nat :=
  s.frm.image.bind fun img => rankIn img s.fab.deviceId

/-- R55: the FRAME_TABLE entry of a rank and a frame index. -/
def tableEntry (img : Image) (rank index : Nat) : Option FrameEntry :=
  img.frameTable[rank * img.hdr.frames + index]?

/-- R61: the image whose frame is in progress. -/
def runningImage (s : State) : Option Image :=
  if s.frm.prog == .running && s.frm.runFrame && !s.frm.pause then s.frm.image else none

/-- R61: this device's FRAME_TABLE entry for the frame in progress. -/
def frameEntry (s : State) : Option FrameEntry :=
  (runningImage s).bind fun img => (myRank s).bind fun r => tableEntry img r s.frm.index

/-- R61: the steps of the frame in progress, by index in STEPS. -/
def frameSteps (s : State) : List Nat :=
  match frameEntry s with
  | some e => if e.idle then [] else (List.range e.stepCount).map (· + e.firstStep)
  | none => []

/-- A step of the frame in progress. -/
def stepOf (s : State) (i : Nat) : Option StepEntry :=
  if (frameSteps s).contains i then (runningImage s).bind fun img => img.steps[i]? else none

/-- R55: the bytes of ARGS that a step names. -/
def argsOf (img : Image) (e : StepEntry) : List Byte :=
  sliceBytes img.args e.argOff e.argLen

/-- R79: no frame of a program keeps units busy: none runs, or a pause frame or an IDLE frame is in progress. -/
def allIdle (s : State) : Bool :=
  noProgram s || s.frm.pause || ((frameEntry s).map (·.idle)).getD true

/-- R55: the HOUSEKEEPING entries of the frame in progress. -/
def frameWindows (s : State) : List HkEntry :=
  match runningImage s, myRank s with
  | some img, some r => img.hks.filter fun h => h.frame == s.frm.index && h.rank == r
  | _, _ => []

/-- R79: an operation of `ns` that cannot be cut short can end before the next frame starts: the frame is long enough. -/
def frameFits (s : State) (ns : Nat) : Bool :=
  noProgram s || ns ≤ 1000 * (s.frm.period + s.frm.stretch)

/-- R79: housekeeping of `ns` may use units of a kind (bit of UNITS). -/
def windowFor (s : State) (units ns : Nat) : Bool :=
  (allIdle s && frameFits s ns) || (frameWindows s).any fun h => h.units.testBit units && ns ≤ h.lenNs

/-- R79: a strand may be calibrated for `ns`: a window whose STRANDS frees it, or a pause frame, or no program. -/
def strandWindow (s : State) (strand ns : Nat) : Bool :=
  (s.frm.pause && frameFits s ns) || noProgram s ||
    (frameWindows s).any fun h => h.units.testBit 3 && h.strands.testBit strand && ns ≤ h.lenNs

/-! ### Region handles that an image names -/

/-- The offsets in ARGS at which a step of this kind and opcode names a region (R104, R119, R128, R132, R245, R285,
R329). -/
def handleOffsets (kind opcode : Nat) (args : List Byte) : List Nat :=
  match kind, opcode with
  | 1, 1 => [0x18, 0x28, 0x38, 0x48, 0x58]
  | 2, 1 => 0x00 :: (List.range (fieldOf args 6 2)).map fun i => 0x18 + 4 * i
  | 2, 2 => [0x10, 0x20, 0x30, 0x40]
  | 2, 3 => [0x10, 0x20]
  | 3, 1 => [0x08]
  | 3, _ => [0x18, 0x1C]
  | 4, 2 => [0x00, 0x04]
  | _, _ => []

/-- R192: the image names a handle in an ARGS or a SYNC field. -/
def imageNames (img : Image) (h : Nat) : Bool :=
  (img.syncs.any fun e => e.region == h) ||
    img.steps.any fun e => (handleOffsets e.kind e.opcode (argsOf img e)).any fun o => fieldOf (argsOf img e) o 4 == h

end Sys2Proof.Machine
end

