-- ==== Sys2Proof/Machine/Repair.lean ====
section
/-!
DEFINITION. The errors of spindles, vector cores, local stores and remote-line caches, and what repairs them: the rows
of R44, R107 and R134, and re-fuse requests (R410).
-/

namespace Sys2Proof.Machine

/-- R410, R434: the object number of CDn.SPs, spindle 2n + s. -/
def spindleObj (i : Nat) : Nat :=
  0x100 * (i / 2) + i % 2

/-- R408: the number of a unit of the in-service test. -/
def unitKey (kind die unit : Nat) : Nat :=
  (kind * 8 + die) * 65536 + unit

/-- R107, R134, R408: a unit is due again at once, for a retest. -/
def retestUnit (kind die unit : Nat) (s : State) : State :=
  s.modUnit (unitKey kind die unit) fun u => { u with due := true, retest := true }

/-- R410: a re-fuse request is recorded: the spindle is withheld, the frame fails, S_REFUSE_SCHEDULED is posted. -/
def requestRefuse (i r c : Nat) (s : State) : State :=
  let s := s.modSpn i fun p => { p with pending := some (r, c), withheld := true }
  let s := s.modTst fun t => { t with refuse := true }
  postDevice 0x0D .sRefuseScheduled (spindleObj i) s

/-- R410: whether a pending request covers a DPU: it lies in the pending row, or in the pending column where the row's
spare was taken already. -/
def pendingCovers (p : Spindle) (r c : Nat) : Bool :=
  match p.pending with
  | none => false
  | some (pr, pc) => if p.rowUsed.isNone then r == pr else c == pc

/-- R107, R410: a DPU of spindle `i` failed its pattern test. The second failure within the window asks for a re-fuse, or
takes the device to FAILED where both spares are in use. -/
def dpuFailed (i r c : Nat) (s : State) : State :=
  let key := (i * 32 + r) * 32 + c
  let s := retestUnit 0 (i / 2) (i % 2) (winBump 5 0 key s)
  let n := winCount s 5 0 key
  let p := vget s.spn i
  let spare := p.rowUsed.isNone || p.colUsed.isNone
  let l : Levels := { row := 5, obj := spindleObj i, count := n }
  if n < 2 then escalate l s
  else if pendingCovers p r c then escalate { l with l3 := true, done := true } s
  else if p.pending.isSome then
    escalate { l with l3 := true }
      (s.modTst fun t => { t with queued := if t.queued.contains (i, r, c) then t.queued else t.queued ++ [(i, r, c)] })
  else if spare then
    escalate { l with l3 := true, done := true } (failFrame .eSpindleWithheld (requestRefuse i r c s))
  else escalate { l with l4 := true } s

/-- R107: `k` corrections in bank `b` of a spindle's activation buffer (`acc = false`) or accumulator store. -/
def bankCorrected (i : Nat) (acc : Bool) (b k : Nat) (s : State) : State :=
  let key := (i * 2 + bit acc) * 128 + b
  let s := winAdd 6 0 key k s
  let n := winCount s 6 0 key
  let p := vget s.spn i
  let spare := if acc then p.accSpare else p.abufSpare
  let map := 64 ≤ n && spare.isNone
  let s := s.modSpn i fun p =>
    { p with scrubDue := if 16 ≤ n && !p.scrubDue.contains key then p.scrubDue ++ [key] else p.scrubDue,
             accSpare := if map && acc then some b else p.accSpare,
             abufSpare := if map && !acc then some b else p.abufSpare,
             accHidden := p.accHidden && !(map && acc), abufHidden := p.abufHidden && !(map && !acc) }
  escalate { row := 6, obj := spindleObj i, count := n, l2 := 16 ≤ n, l3 := map,
             l4 := 64 ≤ n && spare.isSome && spare != some b } s

/-- R107: an uncorrectable buffer error or a weight register's parity error: a data-error status, the frame fails. -/
def spindleUncorrectable (i : Nat) (s : State) : State :=
  let s := failFrame .eDataError (s.modSpn i fun p => { p with dataErr := true })
  let s := winBump 7 0 i s
  escalate { row := 7, obj := spindleObj i, count := winCount s 7 0 i, l4 := 3 ≤ winCount s 7 0 i } s

/-- R135: the cores withheld on a die. -/
def withheldCount (v : VecDie) : Nat :=
  ((List.range 64).filter fun k => v.withheld.getLsbD k).length

/-- R134: a core is withheld, up to four on a die; while a step runs on its group the frame fails. -/
def withholdCore (die core : Nat) (s : State) : State :=
  let s := if (tget (vget s.vec die).group (core / 8)).isSome then failFrame .eDataError s else s
  s.modVec die fun v => { v with withheld := v.withheld ||| BitVec.ofNat 64 (2 ^ core) }

/-- R134: `k` events of a core in row 8 (pattern test) or row 9 (register file parity): from the second in the window on
the core is withheld, and a fifth core fails the device. -/
def coreEvents (row die core k : Nat) (s : State) : State :=
  let key := die * 64 + core
  let s := winAdd row 0 key k s
  let n := winCount s row 0 key
  let v := vget s.vec die
  let already := v.withheld.getLsbD core
  let l3 := 2 ≤ n && !already && withheldCount v < 4
  let l4 := 2 ≤ n && !already && 4 ≤ withheldCount v
  let s := if l3 then withholdCore die core s else s
  escalate { row := row, obj := 0x100 * die + core, count := n, l3 := l3, l4 := l4 } s

/-- R134: a core failed its pattern test; it is retested within the hour. -/
def corePatternFailed (die core : Nat) (s : State) : State :=
  coreEvents 8 die core 1 (retestUnit 1 die core s)

/-- R134: a register file parity error met by running work: a data-error status, the frame fails. -/
def registerParity (die core : Nat) (s : State) : State :=
  coreEvents 9 die core 1 (failFrame .eDataError (s.modVec die fun v => { v with dataErr := true }))

/-- R44: the ways of a die's remote-line cache that are disabled. -/
def waysDisabledCount (v : VisDie) : Nat :=
  ((List.range 16).filter fun k => v.waysDisabled.getLsbD k).length

/-- R44: `k` parity errors in a set and way of a die's remote-line cache; from 16 in the window on the way is disabled,
up to four ways, and a fifth fails the device. -/
def rlcParity (die set way k : Nat) (clean : Bool) (s : State) : State :=
  let key := die * 8192 + set
  let s := winAdd 4 0 key k s
  let n := winCount s 4 0 key
  let v := s.rlcAt die
  let off := v.waysDisabled.getLsbD way
  let l3 := 16 ≤ n && !off && waysDisabledCount v < 4
  let l4 := 16 ≤ n && !off && 4 ≤ waysDisabledCount v
  let s := if l3 then s.modRlc die fun v =>
    { v with waysDisabled := v.waysDisabled ||| BitVec.ofNat 16 (2 ^ way) } else s
  escalate { row := 4, obj := key, count := n, l2 := clean, l3 := l3, l4 := l4 } s

end Sys2Proof.Machine
end

