-- ==== Sys2Proof/Machine/Rlc.lean ====
section
/-!
DEFINITION. The remote-line caches (R22, R23) and what releases, acquires and barriers do (R163-R173, R179): scalar
accesses of the vector cores, accesses of the flyer, range walks, and back-invalidate snoops.
-/

namespace Sys2Proof.Machine

/-! ### Lines -/

/-- R22: the line that die `d`'s cache holds. -/
def rlcLine (s : State) (d line : Nat) : Option RlcLine :=
  tget (s.rlcAt d).lines line

/-- R22: a cache holds a line, or no longer holds it. -/
def rlcPut (d line : Nat) (l : Option RlcLine) (s : State) : State :=
  s.modRlc d fun v => { v with lines := tput v.lines line l }

/-- R22: a line of die `d`'s cache belongs to the flyer partition: its channel is `d`'s own. -/
def isFlyerLine (s : State) (d line : Nat) : Bool :=
  dieOf s (64 * line) == d

/-- R22, R184: the ways that an access may allocate in: 0 to 13 for scalar accesses and 14, 15 for the flyer, or all for
scalar accesses with no flyer partition; never a disabled way (R44). -/
def rlcWays (s : State) (d : Nat) (flyer : Bool) : List Nat :=
  let v := s.rlcAt d
  let lo := if flyer then 14 else 0
  let hi := if flyer then (if v.flyerWays = 0 then 0 else 16) else if v.flyerWays = 0 then 16 else 14
  (List.range 16).filter fun w => lo ≤ w && w < hi && !v.waysDisabled.getLsbD w

/-- R22: the ways of a line's set that hold lines. -/
def rlcUsed (s : State) (d line : Nat) : List (Nat × Nat) :=
  (s.rlcAt d).lines.filterMap fun e =>
    if e.1 % 8192 = line % 8192 then e.2.map fun l => (l.way, e.1) else none

/-- R22, R180: a dirty line's data goes to its point of visibility as a whole sector, and the line stays clean. -/
def rlcBack (d line : Nat) (l : RlcLine) (s : State) : State :=
  if l.dirty then (memWrite (64 * line) l.data (rlcPut d line (some { l with dirty := false }) s)).s else s

/-- R23: a line whose stored bits fail their parity leaves the cache; the data of a dirty one is lost, the frame fails,
and PARITY_DIRTY is set. -/
def rlcLose (d line : Nat) (l : RlcLine) (s : State) : State :=
  let s := rlcPut d line none s
  if l.dirty then failFrame .eDataError (s.modRlc d fun v => { v with parityDirty := true }) else s

/-- R44: the lines of a way that has been disabled are written back and leave the cache [DC 79]. -/
def rlcEmptyWay (d way : Nat) : List (Nat × Option RlcLine) → State → State
  | [], s => s
  | (line, some l) :: ls, s =>
    rlcEmptyWay d way ls
      (if l.way ≠ way then s else if l.bad then rlcLose d line l s else rlcPut d line none (rlcBack d line l s))
  | (_, none) :: ls, s => rlcEmptyWay d way ls s

/-- R23: an access, a walk or a write-back finds that a line held in a cache fails its parity: a clean line is discarded;
a dirty line's data is lost, and the access or write-back completes with a data-error status in a failed frame. The answer
says whether data was lost. A way that is disabled for it (R44) is emptied. -/
def rlcParityHit (d line : Nat) (s : State) : Bool × State :=
  match rlcLine s d line with
  | none => (false, s)
  | some l =>
    let off := (s.rlcAt d).waysDisabled.getLsbD l.way
    let s := rlcParity d (line % 8192) l.way 1 (!l.dirty) (rlcLose d line l s)
    let s := if (s.rlcAt d).waysDisabled.getLsbD l.way && !off then rlcEmptyWay d l.way (s.rlcAt d).lines s else s
    (l.dirty, s)

/-- R22, R23: a line is written back if it is dirty; one that fails its parity leaves the cache instead. -/
def rlcClean (d line : Nat) (s : State) : State :=
  match rlcLine s d line with
  | some l => if l.bad then (rlcParityHit d line s).2 else rlcBack d line l s
  | none => s

/-- R22: a line leaves a cache, written back if dirty. -/
def rlcEvict (d line : Nat) (s : State) : State :=
  rlcPut d line none (rlcClean d line s)

/-- R22: a line enters a cache, in a free way of its set, or in place of another line, which one the manual leaves open;
it stays out where no way may be allocated. -/
def rlcAllocate (d line : Nat) (flyer dirty : Bool) (data : List Byte) (s : State) : State :=
  let ways := rlcWays s d flyer
  let used := rlcUsed s d line
  match ways.find? fun w => !used.any fun u => u.1 == w with
  | some w => rlcPut d line (some { way := w, dirty := dirty, data := data }) s
  | none =>
    if ways.isEmpty then (if dirty then (memWrite (64 * line) data s).s else s)
    else
      let w := ways.getD (Config.freeNat s.free % ways.length) 0
      let s := match used.find? fun u => u.1 == w with
        | some u => rlcEvict d u.2 s.drawFree
        | none => s.drawFree
      rlcPut d line (some { way := w, dirty := dirty, data := data }) s

/-- R23: before an access uses a line, its parity is checked: whether dirty data was lost, and the state after it. -/
def rlcCheck (d line : Nat) (s : State) : Bool × State :=
  if ((rlcLine s d line).map (·.bad)).getD false then rlcParityHit d line s else (false, s)

/-- R22: a read of bytes of one line through a cache, parity apart; a miss fetches the line and allocates it. -/
def rlcLoad (d : Nat) (flyer : Bool) (a n : Nat) (s : State) : Access :=
  match rlcLine s d (a / 64) with
  | some l => { bytes := sliceBytes l.data (a % 64) n, s := s }
  | none =>
    if (rlcWays s d flyer).isEmpty then memRead a n s
    else
      let r := memRead (a / 64 * 64) 64 s
      if r.err.isSome then { bytes := sliceBytes r.bytes (a % 64) n, err := r.err, s := r.s }
      else { bytes := sliceBytes r.bytes (a % 64) n, s := rlcAllocate d (a / 64) flyer false r.bytes r.s }

/-- R22, R23: a read of bytes of one line through a cache. -/
def rlcRead (d : Nat) (flyer : Bool) (a n : Nat) (s : State) : Access :=
  let c := rlcCheck d (a / 64) s
  if c.1 then { bytes := readBytes c.2 a n, err := some .eDataError, s := c.2 } else rlcLoad d flyer a n c.2

/-- R22: a write of bytes of one line through a cache, parity apart: write-back and write-allocate. -/
def rlcStore (d : Nat) (flyer : Bool) (a : Nat) (bs : List Byte) (s : State) : Access :=
  match rlcLine s d (a / 64) with
  | some l => { s := rlcPut d (a / 64) (some { l with dirty := true, data := overlay l.data (a % 64) bs }) s }
  | none =>
    if (rlcWays s d flyer).isEmpty then memWrite a bs s
    else if bs.length = 64 then { s := rlcAllocate d (a / 64) flyer true bs s }
    else
      let r := memRead (a / 64 * 64) 64 s
      if r.err.isSome then { err := r.err, s := r.s }
      else { s := rlcAllocate d (a / 64) flyer true (overlay r.bytes (a % 64) bs) r.s }

/-- R22, R23: a write of bytes of one line through a cache; one that would merge into a lost line fails. -/
def rlcWrite (d : Nat) (flyer : Bool) (a : Nat) (bs : List Byte) (s : State) : Access :=
  let c := rlcCheck d (a / 64) s
  if c.1 then { err := some .eDataError, s := c.2 } else rlcStore d flyer a bs c.2

/-! ### The flyer's accesses -/

/-- The part of `[a, a + n)` in a block, as (address, length). -/
def blockPart (a n block : Nat) : Nat × Nat :=
  let lo := max a (64 * block)
  (lo, min (a + n) (64 * block + 64) - lo)

/-- R22: the flyer reads block by block, through the partition of the die that owns the channel. -/
def flyerReadBlocks (a n : Nat) : List Nat → Access → Access
  | [], r => r
  | b :: bs, r =>
    let (lo, k) := blockPart a n b
    let one : Access := if isHank lo then rlcRead (dieOf r.s lo) true lo k r.s else memRead lo k r.s
    flyerReadBlocks a n bs { bytes := r.bytes ++ one.bytes, err := r.err <|> one.err, s := one.s }

/-- R22, R163: the flyer loads `n` bytes. -/
def flyerRead (a n : Nat) (s : State) : Access :=
  flyerReadBlocks a n (blocksOf a n) { s := s }

/-- R22: the flyer writes block by block, through the partition of the die that owns the channel. -/
def flyerWriteBlocks (a : Nat) (bytes : List Byte) : List Nat → Access → Access
  | [], r => r
  | b :: bs, r =>
    let (lo, k) := blockPart a bytes.length b
    let part := sliceBytes bytes (lo - a) k
    let one : Access := if isHank lo then rlcWrite (dieOf r.s lo) true lo part r.s else memWrite lo part r.s
    flyerWriteBlocks a bytes bs { err := r.err <|> one.err, s := one.s }

/-- R22, R163: the flyer stores bytes. -/
def flyerWrite (a : Nat) (bs : List Byte) (s : State) : Access :=
  flyerWriteBlocks a bs (blocksOf a bs.length) { s := s }

/-! ### Range walks -/

/-- R168, R169, R173: which lines a walk of die `d`'s cache meets. -/
def walkLines (s : State) (d : Nat) (flyer : Bool) (base len : Nat) : List Nat :=
  (tkeys (s.rlcAt d).lines).filter fun line =>
    isFlyerLine s d line == flyer && overlaps base len (64 * line) 64

/-- R168, R169, R184: one line of a walk is written back if dirty, counted where a release, an acquire or a barrier walks
(`count`), and invalidated where the walk drops lines. -/
def walkLine (d line : Nat) (count drop : Bool) (s : State) : State :=
  let dirty := ((rlcLine s d line).map fun l => l.dirty && !l.bad).getD false
  let s := rlcClean d line s
  let s := if dirty && count then s.modRlc d fun v => { v with writebacks := wrapInc 32 v.writebacks } else s
  if drop then rlcPut d line none s else s

/-- The lines of a walk, in ascending order. -/
def walkAll (d : Nat) (count drop : Bool) : List Nat → State → State
  | [], s => s
  | l :: ls, s => walkAll d count drop ls (walkLine d l count drop s)

/-- R171: the fabric clock cycles that a walk of a range takes. -/
def walkCyclesOf (len : Nat) : Nat :=
  min (ceilDiv (ceilDiv len 64) 32) 4096

/-- R168, R169: a range walk of die `d`'s scalar ways (`flyer = false`) or flyer partition. -/
def walkRange (d : Nat) (flyer drop : Bool) (base len : Nat) (s : State) : State :=
  let s := s.modRlc d fun v => { v with walkCycles := (v.walkCycles + walkCyclesOf len) % 2 ^ 32 }
  walkAll d true drop (walkLines s d flyer base len) s

/-- R168, R169, R184: the flyer partition of a die is walked, if it has one. -/
def walkPartition (d : Nat) (drop : Bool) (base len : Nat) (s : State) : State :=
  if (s.rlcAt d).flyerWays = 0 then s else walkRange d true drop base len s

/-- R168, R169: the flyer partition of all four dies. -/
def walkFlyer (drop : Bool) (base len : Nat) (s : State) : State :=
  walkPartition 3 drop base len (walkPartition 2 drop base len
    (walkPartition 1 drop base len (walkPartition 0 drop base len s)))

/-- Lines are written back in turn and stay in the cache. -/
def cleanLines (d : Nat) : List Nat → State → State
  | [], s => s
  | l :: ls, s => cleanLines d ls (rlcClean d l s)

/-- R376: the dirty lines of die `d`'s cache go to their points of visibility. -/
def cleanAll (d : Nat) (s : State) : State :=
  cleanLines d (tkeys (s.rlcAt d).lines) s

/-- R41, R179, R184: every line of die `d`'s cache is written back and invalidated. -/
def flushDie (d : Nat) (count : Bool) (s : State) : State :=
  walkAll d count true (tkeys (s.rlcAt d).lines) s

/-! ### Back-invalidate snoops -/

/-- R218: the host address of a window line, by its local line. -/
def windowHpa (s : State) (line : Nat) : Nat :=
  s.hp.db + 64 * line - s.hp.winBase

/-- R169, R170, R220: the window lines of a range that the host may hold (or may hold modified) and that have not been
snooped. -/
def snoopLines (s : State) (modified : Bool) (base len : Nat) : List Nat :=
  s.hp.sf.filterMap fun e =>
    match e.2 with
    | some f => if (f.modified || !modified) && !f.snooped && overlaps base len (64 * e.1) 64 then some e.1 else none
    | none => none

/-- R220: the back-invalidate snoops that have been sent and not answered. -/
def snoopsOut (s : State) : Nat :=
  (s.hp.sf.filter fun e => (e.2.map (·.snooped)).getD false && !s.hp.snoopQ.contains e.1).length

/-- R214, R220, R225: the first BISnpInv that waits is sent, while the link passes traffic and fewer than 256 are
outstanding. -/
def sendSnoop (s : State) : State :=
  match s.hp.snoopQ with
  | [] => s
  | l :: ls =>
    if linkPasses s && snoopsOut s < 256 then
      (s.modHp fun h => { h with snoopQ := ls, bisnp := wrapInc 32 h.bisnp }).emit (.biSnp true (windowHpa s l))
    else s

/-- R220: a line is snooped, for a release on the host's behalf or for another reason: its BISnpInv is sent as soon as it
may be. -/
def snoopLine (release : Bool) (line : Nat) (s : State) : State :=
  sendSnoop (s.modHp fun h =>
    { h with sf := tmod h.sf line fun o => o.map fun f => { f with snooped := true, release := release }
             snoopQ := h.snoopQ ++ [line] })

/-- Each line of a list is snooped. -/
def snoopAll (release : Bool) : List Nat → State → State
  | [], s => s
  | l :: ls, s => snoopAll release ls (snoopLine release l s)

/-- R214: the snoops that waited for the link go out. -/
def sendSnoops : List Nat → State → State
  | [], s => s
  | _ :: ls, s => sendSnoops ls (sendSnoop s)

/-- R170: part H over a range: the host port back-invalidates every line that the host may hold modified. -/
def hostRelease (base len : Nat) (s : State) : State :=
  snoopAll true (snoopLines s true base len) s

/-- R169: part B over a range: the host port back-invalidates every line that the host may hold. -/
def hostAcquire (base len : Nat) (s : State) : State :=
  snoopAll false (snoopLines s false base len) s

/-- R169, R170: a snoop of a line of the range has not been answered. -/
def hostPending (s : State) (base len : Nat) : Bool :=
  s.hp.sf.any fun e => (e.2.map (·.snooped)).getD false && overlaps base len (64 * e.1) 64

/-! ### Releases and acquires -/

/-- The compute die of an engine, for the counters of R184. -/
def engineDie : Engine → Option Nat
  | .spindle i => some (i.val / 2)
  | .vector c => some (c.val / 64)
  | _ => none

/-- R168: the writes that the engines of an issuer have issued to a range go as far as the scope requires. At CORE they
only keep their order before the engine's own later accesses; at wider scopes the model performs them. -/
def performRange (es : List Engine) (sc : Scope) (base len : Nat) (s : State) : State :=
  if sc = .core then s
  else performHeld (fun w => es.contains w.engine && overlaps base len w.addr w.bytes.length) s

/-- R182: the issuing unit of a transfer engine's remote operations, by die index (R24) and unit index. -/
def transferUnitOf (die unit : Nat) : Nat :=
  2 ^ 20 + 256 * die + unit

/-- R182: the number of the issuing unit that an engine is. -/
def engineUnit : Engine → Option Nat
  | .transfer ld u => some (transferUnitOf (4 + ld.val) u.val)
  | _ => none

/-- R168 step 3: remote operations of the engines to bytes of the range on other devices that have not been acknowledged. -/
def remoteOpen (s : State) (es : List Engine) (base len : Nat) : Bool :=
  s.fab.op.any fun e => match e.2 with
    | some o => (es.filterMap engineUnit).contains o.unit && overlaps base len o.addr o.len
    | none => false

/-- R168: the walk that a release by an engine makes. -/
def releaseWalk (e : Engine) (base len : Nat) (s : State) : State :=
  match e with
  | .vector c => walkRange (c.val / 64) false false base len s
  | .flyer => walkFlyer false base len s
  | _ => s

/-- R184: a release of an engine has completed. -/
def countRelease (e : Engine) (s : State) : State :=
  match engineDie e with
  | some d => s.modRlc d fun v => { v with relCount := wrapInc 32 v.relCount }
  | none => s

/-- R168: a release over a range, steps 1 and 2: `es` are the engines whose writes it covers, the cores of a vector-core
step (R163), and `e` stands for them. -/
def releaseOf (e : Engine) (es : List Engine) (sc : Scope) (base len : Nat) (s : State) : State :=
  countRelease e (releaseWalk e base len (performRange es sc base len s))

/-- R169: the walk or the snoops that an acquire by an engine makes. -/
def acquireWalk (e : Engine) (base len : Nat) (s : State) : State :=
  match e with
  | .vector c => walkRange (c.val / 64) false true base len s
  | .flyer => walkFlyer true base len s
  | .host => hostAcquire base len s
  | _ => s

/-- R184: an acquire of an engine has completed. -/
def countAcquire (e : Engine) (s : State) : State :=
  match engineDie e with
  | some d => s.modRlc d fun v => { v with acqCount := wrapInc 32 v.acqCount }
  | none => s

/-- R169: an acquire by an engine over a range. -/
def acquireOf (e : Engine) (base len : Nat) (s : State) : State :=
  countAcquire e (acquireWalk e base len s)

/-- R179: an implied barrier: every write issued in the package is performed, and every cache is written back and
invalidated. -/
def barrier (s : State) : State :=
  let s := performHeld (fun _ => true) s
  let s := flushDie 3 true (flushDie 2 true (flushDie 1 true (flushDie 0 true s)))
  s.modVis fun v => { v with die := v.die.map fun d => { d with barriers := wrapInc 32 d.barriers } }

end Sys2Proof.Machine
end

