-- ==== Sys2Proof/Machine/Queues.lean ====
section
/-!
DEFINITION. Chapter 7: the commands that manage doorbell pages, queues and regions, and the doorbells (R185-R196).
-/

namespace Sys2Proof.Machine

/-! ### Queues -/

/-- R185: entries of a ring that have not been consumed. -/
def ringUsed (q : Queue) : Nat :=
  (queueTail q + 2 ^ 32 - q.head) % 2 ^ 32

/-- R185: the class that a CLASS byte names. -/
def classOf : Nat → Option QClass
  | 1 => some .request | 2 => some .completion | 3 => some .peer
  | _ => none

/-- R187: the bytes of an entry of a ring. -/
def entryBytes (c : QClass) : Nat :=
  if c = .completion then 32 else 64

/-- R187: the descriptor that a request's bytes give from offset 8 on. -/
def descriptorOf (cls : QClass) (tenant : Nat) (p : List Byte) : Queue :=
  { cls := cls, prio := fieldOf p 9 1, weight := fieldOf p 10 1, enabled := bitOf (fieldOf p 11 1) 0,
    interrupt := bitOf (fieldOf p 11 1) 1, tenant := tenant, log2 := fieldOf p 15 1, ringRegion := fieldOf p 16 4,
    link := fieldOf p 20 4, ringOff := fieldOf p 24 8 }

/-- R187: the fields of a descriptor are in range; FLAGS as the request gives them. -/
def fieldsInRange (q : Queue) (flags : Nat) : Bool :=
  q.prio < 8 && flags < (if q.cls = .completion then 4 else 2) && q.tenant < 4096 &&
    (if q.cls = .completion then q.weight == 0 else 1 ≤ q.weight && q.weight < 256) &&
    4 ≤ q.log2 && q.log2 ≤ 16 && q.link < (if q.cls = .completion then 2 ^ 11 else 2 ^ 20) &&
    q.ringOff % entryBytes q.cls == 0

/-- R188: LINK names a completion queue of the same tenant. -/
def linkGood (s : State) (q : Queue) : Bool :=
  q.cls == .completion || ((s.queueAt q.link).cls == .completion && (s.queueAt q.link).tenant == q.tenant)

/-- R432: the checks of a ring, in order. -/
def ringCheck (s : State) (q : Queue) : Option (Status × Nat) :=
  match handleRegion s q.ringRegion with
  | none => some (.eRegion, 1)
  | some r =>
    if r.system || r.tenant ≠ q.tenant then some (.eRegion, 2)
    else if !r.access.getLsbD (if q.cls = .peer then accRemoteWrite else accHost) then some (.eRegion, 3)
    else if r.size < q.ringOff + 2 ^ q.log2 * entryBytes q.cls then some (.eBounds, 2)
    else none

/-- R243: a tenant's mailbox names another tenant's queue. -/
def otherQueue (s : State) (m q : Nat) : Bool :=
  (s.queueAt q).cls != .unused && !mayActOn s m (s.queueAt q).tenant

/-- R243: a tenant's mailbox names another tenant's region. -/
def otherRegion (s : State) (m h : Nat) : Bool :=
  ((handleRegion s h).map fun r => !mayActOn s m r.tenant).getD false

/-- R243: a request for a queue names another tenant's queue or ring. -/
def foreignNamed (s : State) (m : Nat) (p : List Byte) : Bool :=
  otherQueue s m (fieldOf p 0 4) || otherRegion s m (fieldOf p 16 4)

/-- R188, R243, R432: the checks that `queue.create` and `queue.rebind` share; `taken` says that the queue to be created
is in use, or that the queue to be rebound is not one of that class and tenant. -/
def queueCheck (s : State) (m q flags epoch : Nat) (taken : Bool) (d : Queue) : Option (Status × Nat) :=
  if otherQueue s m q || otherRegion s m d.ringRegion || (d.cls != .completion && otherQueue s m d.link) then
    some (.ePermission, 0)
  else if taken || 2 ^ 20 ≤ q || epoch ≠ 0 || !fieldsInRange d flags || !linkGood s d then some (.eQueue, 0)
  else ringCheck s d

/-- R188: `queue.page`. -/
def queuePage (m : Nat) (r : MbxReq) (s : State) : State :=
  let p := fieldOf r.params 0 2
  let t := fieldOf r.params 2 2 % 4096
  let lo := fieldOf r.params 4 4
  let hi := fieldOf r.params 8 4
  let other := s.bob.queue.any fun e => lo ≤ e.1 && e.1 ≤ hi && e.2.cls != .unused && e.2.tenant != t
  if 4095 < p || 0xFFFFF < lo || 0xFFFFF < hi || other then failMbx m .eQueue 0 s
  else completeMbx m .sOk 0 []
    (s.modPage p fun _ => if hi < lo then {} else { valid := true, first := lo, last := hi, tenant := t })

/-- QUEUE_PAGE (R188). -/
def execQueuePage (mbx : MbxId) (s : State) : Host.Outcome State Fault Refusal :=
  .next (casbomi 0x0030 mbx (queuePage mbx) s)

/-- R207: the ring of a new completion queue is zeroed. [DEDUCED 89] -/
def freshRing (q : Nat) (s : State) : State :=
  let d := s.queueAt q
  if d.cls = .completion then
    (memWrite (regionAddr s d.ringRegion d.ringOff) (List.replicate (2 ^ d.log2 * entryBytes d.cls) 0) s).s
  else s

/-- R188: `queue.create`. -/
def queueCreate (m : Nat) (r : MbxReq) (s : State) : State :=
  let q := fieldOf r.params 0 4
  match classOf (fieldOf r.params 8 1) with
  | none => failMbx m (if foreignNamed s m r.params then .ePermission else .eQueue) 0 s
  | some c =>
    let d := descriptorOf c (reqTenant s m (fieldOf r.params 12 2)) r.params
    match queueCheck s m q (fieldOf r.params 11 1) (fieldOf r.params 14 1) ((s.queueAt q).cls != .unused) d with
    | some (st, n) => failMbx m st n s
    | none => completeMbx m .sOk 0 [] (freshRing q (s.modQueue q fun _ => d))

/-- QUEUE_CREATE (R188). -/
def execQueueCreate (mbx : MbxId) (s : State) : Host.Outcome State Fault Refusal :=
  .next (casbomi 0x0031 mbx (queueCreate mbx) s)

/-- R188: `queue.rebind`: a new ring, link, level and weight, EPOCH + 1, and an empty ring. -/
def queueRebind (m : Nat) (r : MbxReq) (s : State) : State :=
  let q := fieldOf r.params 0 4
  let old := s.queueAt q
  match classOf (fieldOf r.params 8 1) with
  | none => failMbx m (if foreignNamed s m r.params then .ePermission else .eQueue) 0 s
  | some c =>
    let d := descriptorOf c (reqTenant s m (fieldOf r.params 12 2)) r.params
    let other := old.cls != c || old.tenant != d.tenant
    match queueCheck s m q (fieldOf r.params 11 1) (fieldOf r.params 14 1) other d with
    | some (st, n) => failMbx m st n s
    | none =>
      let new : Queue :=
        { old with prio := d.prio, weight := d.weight, log2 := d.log2, ringRegion := d.ringRegion, link := d.link,
                   ringOff := d.ringOff, epoch := wrapInc 8 old.epoch, head := 0, tail := 0, peerTail := 0, credit := 0,
                   headRung := false }
      completeMbx m .sOk 0 (leBytes 1 new.epoch) (freshRing q (s.modQueue q fun _ => new))

/-- QUEUE_REBIND (R188). -/
def execQueueRebind (mbx : MbxId) (s : State) : Host.Outcome State Fault Refusal :=
  .next (casbomi 0x0032 mbx (queueRebind mbx) s)

/-- R188: a request or peer queue names a completion queue as LINK. -/
def linkedTo (s : State) (q : Nat) : Bool :=
  s.bob.queue.any fun e => (e.2.cls == .request || e.2.cls == .peer) && e.2.link == q

/-- R188: a destroyed queue whose commands have all completed is unused. -/
def queueGone (m q : Nat) (s : State) : State :=
  completeMbx m .sOk 0 [] (s.modQueue q fun _ => {})

/-- R188: `queue.destroy`: ENABLED is cleared at once; with commands in flight the command stays IN_PROGRESS. -/
def queueDestroy (m : Nat) (r : MbxReq) (s : State) : State :=
  let q := fieldOf r.params 0 4
  if otherQueue s m q then failMbx m .ePermission 0 s
  else if (s.queueAt q).cls = .unused || linkedTo s q then failMbx m .eQueue 0 s
  else
    let s := s.modQueue q fun d => { d with enabled := false }
    if (s.queueAt q).inflight = 0 then queueGone m q s else s.modMbx m fun b => { b with started := true }

/-- QUEUE_DESTROY (R188). -/
def execQueueDestroy (mbx : MbxId) (s : State) : Host.Outcome State Fault Refusal :=
  .next (casbomi 0x0033 mbx (queueDestroy mbx) s)

/-- The request of mailbox `m`'s command, where it is `code` and waits for something outside the flyer. -/
def startedReq (s : State) (code m : Nat) : Option MbxReq :=
  match (s.mbxAt m).req with
  | none => none
  | some r => if r.command = code && (s.mbxAt m).started then some r else none

/-- QUEUE_DESTROY_DONE (R188): INFLIGHT has reached 0. -/
def execQueueDestroyDone (mbx : MbxId) (s : State) : Host.Outcome State Fault Refusal :=
  .next (
    match startedReq s 0x0033 mbx with
    | none => s
    | some r =>
      let q := fieldOf r.params 0 4
      if (s.queueAt q).inflight = 0 then queueGone mbx q s else s)

/-! ### Regions -/

/-- R191: the lowest free index of the region table. -/
def freeRegion (s : State) : Option Nat :=
  ((List.range (s.bob.region.length + 2)).find? fun i => i != 0 && !(s.regionAt i).bound).bind
    fun i => if i < 2 ^ 19 then some i else none

/-- R191: `region.bind`. -/
def regionBind (m : Nat) (r : MbxReq) (s : State) : State :=
  let base := fieldOf r.params 0 8
  let size := fieldOf r.params 8 8
  let mode := fieldOf r.params 16 1
  let acc := fieldOf r.params 17 1
  let tenant := reqTenant s m (fieldOf r.params 18 2)
  if 4096 ≤ tenant then failMbx m .eRegion 4 s
  else match bindCheck s none base size mode acc with
    | some (st, d) => failMbx m st d s
    | none =>
      match freeRegion s with
      | none => failMbx m .eRegion 8 s
      | some i =>
        let s := s.modRegion i fun e =>
          { bound := true, base := base, size := size, mode := mode, access := BitVec.ofNat 5 acc, gen := e.gen,
            tenant := tenant }
        completeMbx m .sOk 0 (leBytes 4 (handleOf s i)) s

/-- REGION_BIND (R191). -/
def execRegionBind (mbx : MbxId) (s : State) : Host.Outcome State Fault Refusal :=
  .next (casbomi 0x0024 mbx (regionBind mbx) s)

/-- R197: the handles that a command's entry names. -/
def commandHandles (e : List Byte) : List Nat :=
  match fieldOf e 0 1 with
  | 0x01 => [fieldOf e 0x10 4, fieldOf e 0x14 4]
  | 0x02 | 0x10 | 0x11 | 0x12 | 0x15 => [fieldOf e 0x10 4]
  | 0x20 => [fieldOf e 0x10 4, fieldOf e 0x20 4, fieldOf e 0x30 4]
  | _ => []

/-- R192: a local operation in flight names the handle: a command that holds its tag has not completed (R200). -/
def handleInFlight (s : State) (h : Nat) : Bool :=
  s.bob.tag.any fun e => (e.2.map fun c => (commandHandles c.entry).contains h).getD false

/-- R192: what `region.rebind` and `region.free` refuse before anything else; `sinceUs` is the time since the previous
rebind of the region. -/
def regionRefusal (s : State) (m h sinceUs : Nat) : Option (Status × Nat) :=
  match handleRegion s h with
  | none => some (.eRegion, 1)
  | some e =>
    if !mayActOn s m e.tenant then some (.ePermission, 0)
    else if e.system then some (.ePermission, 0)
    else if ((s.frm.image.map fun img => imageNames img h).getD false) || (e.rebound && sinceUs < 1000) then
      some (.eRegionBusy, 0)
    else none

/-- R192: the new entry is written in one step. -/
def finishRebind (m : Nat) (r : MbxReq) (s : State) : State :=
  let h := fieldOf r.params 0 4
  let i := h % 2 ^ 19
  let s := s.modRegion i fun e =>
    { e with base := fieldOf r.params 8 8, size := fieldOf r.params 16 8, mode := fieldOf r.params 24 1,
             access := BitVec.ofNat 5 (fieldOf r.params 25 1), epoch := wrapInc 8 e.epoch, rebound := true }
  completeMbx m .sOk 0 (leBytes 4 h ++ leBytes 1 (s.regionAt i).epoch) s

/-- R192: `region.rebind`. -/
def regionRebind (m sinceUs : Nat) (r : MbxReq) (s : State) : State :=
  let h := fieldOf r.params 0 4
  match regionRefusal s m h sinceUs with
  | some (st, d) => failMbx m st d s
  | none =>
    match bindCheck s (some (h % 2 ^ 19)) (fieldOf r.params 8 8) (fieldOf r.params 16 8) (fieldOf r.params 24 1)
        (fieldOf r.params 25 1) with
    | some (st, d) => failMbx m st d s
    | none => if handleInFlight s h then s.modMbx m fun b => { b with started := true } else finishRebind m r s

/-- REGION_REBIND (R192). -/
def execRegionRebind (mbx : MbxId) (sinceUs : Nat) (s : State) : Host.Outcome State Fault Refusal :=
  .next (casbomi 0x0025 mbx (regionRebind mbx sinceUs) s)

/-- R192: the entry becomes invalid and its GEN changes. -/
def finishFree (m : Nat) (r : MbxReq) (s : State) : State :=
  completeMbx m .sOk 0 [] (s.modRegion (fieldOf r.params 0 4 % 2 ^ 19) fun e => { gen := wrapInc 8 e.gen })

/-- R192: `region.free`: as `region.rebind`, without an extent. -/
def regionFree (m sinceUs : Nat) (r : MbxReq) (s : State) : State :=
  let h := fieldOf r.params 0 4
  match regionRefusal s m h sinceUs with
  | some (st, d) => failMbx m st d s
  | none => if handleInFlight s h then s.modMbx m fun b => { b with started := true } else finishFree m r s

/-- REGION_FREE (R192). -/
def execRegionFree (mbx : MbxId) (sinceUs : Nat) (s : State) : Host.Outcome State Fault Refusal :=
  .next (casbomi 0x0026 mbx (regionFree mbx sinceUs) s)

/-- REGION_REBIND_DONE (R192): the local operations that named the handle have completed. -/
def execRegionRebindDone (mbx : MbxId) (s : State) : Host.Outcome State Fault Refusal :=
  .next (
    match startedReq s 0x0025 mbx, startedReq s 0x0026 mbx with
    | some r, _ => if handleInFlight s (fieldOf r.params 0 4) then s else finishRebind mbx r s
    | _, some r => if handleInFlight s (fieldOf r.params 0 4) then s else finishFree mbx r s
    | none, none => s)

/-! ### Doorbells -/

/-- R194: a low word is written to a page, which holds it. -/
def dbLow (page : Nat) (v : Word) (s : State) : State :=
  s.modBob fun b => { b with low := tput b.low page v.toNat }

/-- DOORBELL_LOW_WRITE (R194). -/
def execDoorbellLowWrite (page : BitVec 12) (value : Word) (s : State) : Host.Outcome State Fault Refusal :=
  .next (if barUp s then dbLow page.toNat value s else s)

/-- R195: the cause for which a doorbell is ignored, 0 where it takes effect. -/
def doorbellCause (s : State) (page low index : Nat) : Nat :=
  let p := s.pageAt page
  let n := low % 2 ^ 20
  let q := s.queueAt n
  let reach := (index + 2 ^ 32 - q.head) % 2 ^ 32
  if !p.valid || n < p.first || p.last < n then 1
  else if !q.enabled || (q.cls != .request && q.cls != .completion) then 2
  else if 2 ^ 20 ≤ low then 3
  else if q.cls = .request then (if ringUsed q ≤ reach && reach ≤ 2 ^ q.log2 then 0 else 4)
  else if reach ≤ ringUsed q then 0 else 4

/-- R195: an ignored doorbell is counted and recorded. -/
def badDoorbell (page queue cause : Nat) (s : State) : State :=
  s.modBob fun b => { b with dbErrors := wrapInc 32 b.dbErrors, dbPage := page, dbQueue := queue, dbCause := cause,
                             dbError := true }

/-- R185: the local address of entry `i` of a ring. -/
def entryAddr (s : State) (q : Queue) (i : Nat) : Nat :=
  regionAddr s q.ringRegion (q.ringOff + i % 2 ^ q.log2 * entryBytes q.cls)

/-- R170, R195: the host's release over `n` entries of a ring from entry `i` on. -/
def releaseEntries (q : Queue) : Nat → Nat → State → State
  | _, 0, s => s
  | i, n + 1, s => releaseEntries q (wrapInc 32 i) n (hostRelease (entryAddr s q i) 64 s)

/-- R195, R207: a doorbell commits: a request queue's TAIL advances, with the host's release over the new entries; a
completion queue's HEAD advances. -/
def commitDoorbell (page low index : Nat) (s : State) : State :=
  let n := low % 2 ^ 20
  let cause := doorbellCause s page low index
  let q := s.queueAt n
  if cause ≠ 0 then badDoorbell page n cause s
  else if q.cls = .request then
    releaseEntries q q.tail ((index + 2 ^ 32 - q.tail) % 2 ^ 32) (s.modQueue n fun q => { q with tail := index })
  else s.modQueue n fun q => { q with head := index, headRung := true }

/-- DOORBELL (R194, R195): one 64-bit write, or the high word after a low one. -/
def execDoorbell (page : BitVec 12) (low : Option Word) (high : Word) (s : State) : Host.Outcome State Fault Refusal :=
  .next (
    if barUp s then
      commitDoorbell page.toNat ((low.map (·.toNat)).getD (tget s.bob.low page.toNat)) high.toNat s
    else s)

end Sys2Proof.Machine
end

