-- ==== Sys2Proof/Machine/Acceptance.lean ====
section
/-!
DEFINITION. Chapter 9: the acceptance of a mailbox's command, with the checks of R236.
-/

namespace Sys2Proof.Machine

/-- R236, R243: a request names an object of another tenant: its region, its queue, its queue's ring or LINK. -/
def namesForeign (s : State) (m : Nat) (payload : List Byte) : Bool :=
  let p := payload.drop 0x10
  match fieldOf payload 0 2 with
  | 0x0025 | 0x0026 => otherRegion s m (fieldOf p 0 4)
  | 0x0031 | 0x0032 => foreignNamed s m p || (fieldOf p 8 1 != 2 && otherQueue s m (fieldOf p 20 4))
  | 0x0033 => otherQueue s m (fieldOf p 0 4)
  | _ => false

/-- R236: the checks at acceptance: the status a request is refused with, and its DETAIL. -/
def acceptCheck (s : State) (m : Nat) (payload : List Byte) : Option (Status × Nat) :=
  match firstBad payload with
  | some off => some (.eCommand, off)
  | none =>
    match cmdInfo (fieldOf payload 0 2) with
    | none => some (.eCommand, 0)
    | some i =>
      if (s.mbxAt m).kind = .tenant && !i.tenant || namesForeign s m payload then some (.ePermission, 0)
      else if s.pkg.devState = .failed && !i.inFailed then some (.eDeviceFailed, 0)
      else none

/-- R236: the payload as the flyer reads it at acceptance: of a byte written while the state was QUEUED, it is open
whether the old or the new is read. -/
def acceptedPayload (s : State) (m : Nat) : List Byte :=
  let b := s.mbxAt m
  b.torn.foldl (fun p e =>
    if (Config.freeNat s.free).testBit e.1 then p.set e.1 (e.2.getD 0) else p) (getBytes b.payload 0 4096)

/-- R236, R240: a flyer core accepts mailbox `m`'s command `us` µs after its GO, expecting `steps` steps. -/
def acceptMbx (m us steps : Nat) (s : State) : State :=
  let payload := acceptedPayload s m
  let s := if (s.mbxAt m).torn.isEmpty then s else s.drawFree.modMbx m fun b => { b with torn := [] }
  let r := requestOf payload
  let s := s.modFly fun f => { f with goOrder := f.goOrder.erase m, acceptMax := max f.acceptMax us }
  let s := s.modMbx m fun b => { b with req := some r, stepsDone := 0, stepsTotal := 0, started := false }
  if (s.mbxAt m).cancelReq then failMbx m .eCancelled 0 s
  else match acceptCheck s m payload with
    | some (st, d) => failMbx m st d s
    | none =>
      let s := s.modMbx m fun b => { b with phase := .inProgress, stepsTotal := max steps 1 }
      if cmdClass r.command = .none then s
      else s.modFly fun f => { f with classQ := f.classQ ++ [(cmdClass r.command, m)] }

/-- MBX_ACCEPT (R236, R237, R241): acceptances are taken in order of GO arrival; in BOOT a GO stays QUEUED. -/
def execMbxAccept (us steps : Word) (s : State) : Host.Outcome State Fault Refusal :=
  .next (
    match s.fly.goOrder with
    | [] => s
    | m :: _ => if s.pkg.flyerRuns && s.pkg.devState != .boot then acceptMbx m us.toNat steps.toNat s else s)

end Sys2Proof.Machine
end

