-- ==== Sys2Proof/Machine/Power.lean ====
section
/-!
DEFINITION. Chapter 14, power: the ladder, estimates, budgets, hints, limits, droops and the fast guard (R347-R359), the
cap and `power.status` (R351, R366).
-/

namespace Sys2Proof.Machine

/-! ### The ladder -/

/-- R352: the operating point of a step. -/
def stepOp (step : Nat) : Fin 8 :=
  if h : 12 ≤ step ∧ step < 20 then ⟨step - 12, by omega⟩ else if 20 ≤ step then 7 else 0

/-- R352: the duty of a step, in sixteenths. -/
def stepDuty (step : Nat) : Nat :=
  if 12 ≤ step then 16 else step + 4

/-- R36: the matrix clock of an operating point, MHz. -/
def matrixMhz (op : Nat) : Nat :=
  [600, 700, 800, 900, 1000, 1100, 1200, 1250].getD op 0

/-- R36: the vector clock of an operating point, MHz. -/
def vectorMhz (op : Nat) : Nat :=
  [800, 900, 1000, 1150, 1250, 1400, 1500, 1600].getD op 0

/-- R36: the nominal core voltage of an operating point, 10 mV. -/
def coreVolt (op : Nat) : Nat :=
  [60, 63, 66, 70, 74, 78, 82, 85].getD op 0

/-- R353: f_m × V² × d of a step. -/
def stepScale (step : Nat) : Nat :=
  matrixMhz (stepOp step) * coreVolt (stepOp step) * coreVolt (stepOp step) * stepDuty step

/-- R353: D_i of a die that draws `w` at a step: its dynamic power at OP7 and full duty. -/
def dynamicTop (i step w : Nat) : Nat :=
  (w - Config.staticPower i (stepOp step)) * stepScale 19 / stepScale step

/-- R353: P_i(s), for a die whose dynamic power at OP7 and full duty is `d`. -/
def estimate (i d step : Nat) : Nat :=
  Config.staticPower i (stepOp step) + d * stepScale step / stepScale 19

/-- R353: P_i(s) from the die's last measured power. -/
def estimateAt (s : State) (i step : Nat) : Nat :=
  estimate i (dynamicTop i (s.pwrDieAt i).step (vget s.pwr.dieW i)) step

/-- The highest step 0 to 19 that satisfies `p`; 0 where none does. -/
def highestStep (p : Nat → Bool) : Nat :=
  ((List.range 20).reverse.find? p).getD 0

/-! ### Limits -/

/-- R350: the continuous limit. -/
def continuousLimit (s : State) : Nat :=
  min s.pwr.capW 1500

/-- R357: the lowest limit on a die of the hints of a list that apply. -/
def lowestHint (hs : List HintInForce) (i : Nat) : Nat :=
  (hs.filter (·.lead == 0)).foldl (fun a h => min a (vget h.limit i)) 19

/-- R357: the hint limit in force on a die. -/
def hintLimit (s : State) (i : Nat) : Nat :=
  lowestHint s.pwr.hints i

/-- R357: a non-pause frame begins for a hint: it comes nearer, or has one frame less left. -/
def ageHint (h : HintInForce) : HintInForce :=
  if 0 < h.lead then { h with lead := h.lead - 1 } else { h with left := h.left - 1 }

/-- R357: the hints once the next non-pause frame has begun: those at their end have lifted. -/
def agedHints (hs : List HintInForce) : List HintInForce :=
  (hs.map ageHint).filter fun h => 0 < h.left

/-- R354, R357: the hint limit that the next frame of a running program has on a die; without a program the one in force. -/
def hintAhead (s : State) (i : Nat) : Nat :=
  if noProgram s then hintLimit s i else lowestHint (agedHints s.pwr.hints) i

/-- R355: a die's power limit at the next frame start, but for what a guard or a droop takes from it: it falls to what
fits the budget, rises by one step after 10 ms (100 readings) of a low mean, and falls a step where the mean would still
exceed the cap. -/
def budgetPowerLimit (s : State) (i : Nat) (d : PwrDie) : Nat :=
  let fit := highestStep fun st => estimateAt s i st ≤ d.budget
  let lim := if fit < d.power then fit else if d.power < fit && 100 ≤ s.pwr.calm then d.power + 1 else d.power
  lim - bit s.pwr.short

/-- R354: a die's limits for the next frame, and the highest step that satisfies all of them; a fall under R355 is
counted. -/
def chooseStep (i : Nat) (s : State) : State :=
  let d := s.pwrDieAt i
  let p := budgetPowerLimit s i d
  let s := s.modPwrDie i fun d =>
    { d with power := p - d.lower, lower := 0, next := some (min (p - d.lower) (min (hintAhead s i) d.thermal)) }
  if p < d.power then s.modPwr fun x => { x with reductions := wrapInc 16 x.reductions } else s

/-- R354: every compute die chooses. -/
def chooseSteps (s : State) : State :=
  (chooseStep 3 (chooseStep 2 (chooseStep 1 (chooseStep 0 s)))).modPwr fun x => { x with guardDue := false }

/-- R352, R354: a die's chosen step takes effect, under the hint limit of the frame that begins; a change of operating
point follows R38. -/
def takeStep (i : Nat) (s : State) : State :=
  match (s.pwrDieAt i).next with
  | none => s
  | some c =>
    let st := min c (hintLimit s i)
    (s.modPwrDie i fun d => { d with step := st, next := none }).modOp i (opRequest (stepOp st))

/-- R354: every die's choice takes effect. -/
def takeSteps (s : State) : State :=
  takeStep 3 (takeStep 2 (takeStep 1 (takeStep 0 s)))

/-- R361: without a frame program the thermal limits take effect at once: every die's step is the lowest of its limits. -/
def applyLimits (s : State) : State :=
  takeSteps (s.modPwr fun x =>
    { x with die := Vector.ofFn fun (i : Fin 4) =>
      { x.die[i] with next := some (min x.die[i].power (min (hintLimit s i) x.die[i].thermal)) } })

/-- STEP_CHOICE (R354): with a frame program running, the dies choose before the hold point. -/
def execStepChoice (s : State) : Host.Outcome State Fault Refusal :=
  .next (if noProgram s then s else chooseSteps s)

/-! ### Budgets -/

/-- R356: the measured power of a die that the others compute with; a link die has no OP7 estimate, and stays at its last
message [DC 103]. -/
def budgetPower (s : State) (i : Nat) : Nat :=
  let m := vget s.pwr.msg i
  if i < 4 && 3 < vget s.pwr.missing i then
    estimate i (dynamicTop i (s.pwrDieAt i).step m.power) 19
  else m.power

/-- R356: the demand of a compute die that the others compute with. -/
def budgetDemand (s : State) (i : Nat) : Nat :=
  if 3 < vget s.pwr.missing i then budgetPower s i else (vget s.pwr.msg i).demand

/-- R356: fl[i], the die's estimate at step 0. -/
def budgetFloor (s : State) (i : Nat) : Nat :=
  estimate i (dynamicTop i (s.pwrDieAt i).step (vget s.pwr.msg i).power) 0

/-- The sum over CD0 to CD3. -/
def sumDies (f : Nat → Nat) : Nat :=
  f 0 + f 1 + f 2 + f 3

/-- R356: the allocation of compute die `i`. -/
def budgetOf (s : State) (i : Nat) : Nat :=
  let dies : Int := sumDies (budgetPower s) + budgetPower s 4 + budgetPower s 5
  let overhead : Int := (s.pwr.pIn : Int) - dies
  let avail : Int := (continuousLimit s : Int) - overhead - budgetPower s 4 - budgetPower s 5
  let spare : Int := avail - sumDies (budgetFloor s)
  let excess : Int := (sumDies (budgetDemand s) : Int) - sumDies (budgetFloor s)
  let fl : Int := budgetFloor s i
  let dem : Int := budgetDemand s i
  if spare ≤ 0 then fl.toNat
  else if excess = 0 then dem.toNat
  else (min dem (fl + spare * (dem - fl) / excess)).toNat

/-- BUDGET_SEND (R20, R356): a die's message for this interval goes to the other five. -/
def execBudgetSend (die : Die) (s : State) : Host.Outcome State Fault Refusal :=
  .next (
    let i := die.val
    let demand := if i < 4 then estimateAt s i (min (hintLimit s i) (s.pwrDieAt i).thermal) else vget s.pwr.dieW i
    let m : BudgetMsg := { interval := s.pwr.interval, power := vget s.pwr.dieW i, demand := demand,
                           hot := (s.thmDieAt i).hotspot }
    s.modPwr fun x => { x with sent := vmod x.sent i fun _ => some m })

/-- R356: every compute die computes the same allocation from the six messages, for use from the next interval. -/
def computeBudgets (s : State) : State :=
  s.modPwr fun x => { x with die := Vector.ofFn fun (i : Fin 4) => { x.die[i] with budgetNext := budgetOf s i } }

/-- BUDGET_MESSAGE (R356): the message of a die arrives, and the budgets for the next interval are computed. -/
def execBudgetMessage (die : Die) (s : State) : Host.Outcome State Fault Refusal :=
  .next (
    match vget s.pwr.sent die with
    | none => s
    | some m => computeBudgets (s.modPwr fun x =>
      { x with sent := vmod x.sent die fun _ => none, msg := vmod x.msg die fun _ => m,
               received := x.received ||| BitVec.ofNat 6 (2 ^ die.val) }))

/-- R356, R365: a die whose message for the interval that ends has not come. -/
def countMissing (i : Nat) (s : State) : State :=
  if s.pwr.received.getLsbD i then s.modPwr fun x => { x with missing := vmod x.missing i fun _ => 0 }
  else
    let n := vget s.pwr.missing i + 1
    let s := s.modPwr fun x => { x with missing := vmod x.missing i fun _ => n, budgetStale := x.budgetStale || 3 < n }
    let s := winBump 42 0 i s
    escalate { row := 42, obj := i, count := winCount s 42 0 i, l2 := true } s

/-- R356: an interval ends: the dies without a message are counted, and the budget computed in it comes into use. -/
def endInterval (s : State) : State :=
  let s := countMissing 5 (countMissing 4 (countMissing 3 (countMissing 2 (countMissing 1 (countMissing 0 s)))))
  (computeBudgets s).modPwr fun x =>
    { x with interval := wrapInc 16 x.interval, received := 0,
             die := x.die.map fun d => { d with budget := d.budgetNext } }

/-! ### The fast guard and droops -/

/-- R359: a trigger of the fast guard. -/
def guardTrigger (k : GuardKind) (s : State) : State :=
  if s.pwr.stretch.contains k then s
  else
    let s := s.modPwr fun x =>
      { x with stretch := x.stretch ++ [k], guard_ := true, guards := wrapInc 16 x.guards, guardDue := true,
               die := x.die.map fun d => { d with lower := d.lower + 2 } }
    let s := winBump 41 0 0 (noteHold 0x01 s)
    escalate { row := 41, count := winCount s 41 0 0, l2 := true } s

/-- R359: the trigger's cause still holds. -/
def guardHolds (s : State) : GuardKind → Bool
  | .peak => 1900 ≤ s.pwr.pIn
  | .excursion => 1500 ≤ s.pwr.pIn
  | .cap => s.pwr.capW < s.pwr.mean10

/-- R359: the stretch ends at a frame start at which the new step has taken effect and the cause has gone. -/
def guardRelease (s : State) : State :=
  if s.pwr.guardDue then s else s.modPwr fun x => { x with stretch := x.stretch.filter (guardHolds s) }

/-- STAGE1_PEAK_COMPARATOR (R359): P_IN above 1,900 W for 5 µs. -/
def execStage1PeakComparator (s : State) : Host.Outcome State Fault Refusal :=
  .next (guardTrigger .peak s)

/-- R350: the mean of the latest `n` readings of P_IN, or of those there are where there are fewer [DC 103]. -/
def meanOf (n : Nat) (readings : List Nat) : Nat :=
  (readings.take n).sum / max 1 (min n readings.length)

/-- R348, R350, R355: the readings of one interval, and the means of the last 1 ms, 10 ms and 1 s with them. -/
def takeReadings (r : RegReport) (x : Pwr) : Pwr :=
  let rs := (r.pIn.toNat :: x.readings).take 10000
  let low := meanOf 100 rs * 100 < 95 * min x.capW 1500
  { x with
    vin := r.vin.toNat, pIn := r.pIn.toNat, readings := rs, mean1 := meanOf 10 rs, mean10 := meanOf 100 rs,
    mean1s := meanOf 10000 rs, dieW := r.dieW.map (·.toNat), calm := if low then min (x.calm + 1) 65535 else 0,
    short := r.short, excursion := if 1500 < r.pIn.toNat then min (x.excursion + 1) 65535 else 0 }

/-- REGULATOR_REPORT (R348, R354, R356, R359): every 100 µs the regulators report; without a frame program the dies
change step at the end of the interval. -/
def regulatorReport (r : RegReport) (s : State) : State :=
  let s := endInterval (s.modPwr (takeReadings r))
  let s := if 90 ≤ s.pwr.excursion then guardTrigger .excursion s else s
  let s := if s.pwr.capW * 105 < s.pwr.mean10 * 100 then guardTrigger .cap s else s
  if noProgram s then guardRelease (takeSteps (chooseSteps s)) else s

/-- REGULATOR_REPORT (R348). -/
def execRegulatorReport (r : RegReport) (s : State) : Host.Outcome State Fault Refusal :=
  .next (if s.pkg.powered then regulatorReport r s else s)

/-- DROOP_DETECT (R358): below 94 % of the set voltage the clocks stretch by 25 %, below 90 % by 50 %. -/
def execDroopDetect (die : CDie) (deep : Bool) (s : State) : Host.Outcome State Fault Refusal :=
  .next (
    let s := s.modPwrDie die fun d =>
      { d with droop := max d.droop (if deep then 50 else 25), droopEvents := satInc 0xFFFF d.droopEvents }
    let s := winBump 40 0 die (noteHold 0x02 s)
    escalate { row := 40, obj := die, count := winCount s 40 0 die } s)

/-- DROOP_RECOVER (R358): the clocks return after `us` of stretch; above 10 % of a millisecond the limit falls one step
at the next frame start. -/
def execDroopRecover (die : CDie) (us : Nat) (long : Bool) (s : State) : Host.Outcome State Fault Refusal :=
  .next (
    if (s.pwrDieAt die).droop = 0 then s
    else
      let s := s.modPwrDie die fun d =>
        { d with droop := 0, droopUs := min (d.droopUs + us) 0xFFFF, lower := if long then d.lower + 1 else d.lower }
      if long then escalate { row := 40, obj := die, count := winCount s 40 0 die, l2 := true } s else s)

/-! ### Hints -/

/-- R357: the share of P_IN that is not the compute dies'. -/
def nonCompute (s : State) : Nat :=
  s.pwr.pIn - sumDies fun i => vget s.pwr.dieW i

/-- R357: the module estimate of a hint at a step of die `i`. -/
def hintEstimate (s : State) (budgetOp power i step : Nat) : Nat :=
  nonCompute s + (power - nonCompute s) * estimateAt s i step / max 1 (estimateAt s i (12 + budgetOp))

/-- R357: the hint limit that die `i` sets at announcement. -/
def hintLimitOf (s : State) (budgetOp power i : Nat) : Nat :=
  let hot := 320 ≤ (s.thmDieAt i).hotspot
  highestStep fun st =>
    hintEstimate s budgetOp power i st * 100 ≤ continuousLimit s * 97 &&
      (!hot || hintEstimate s budgetOp power i st < s.pwr.mean1 + 200)

/-- R80, R357: the hints of this rank whose FRAME lies LEAD frames ahead of the frame that begins. -/
def hintsDue (s : State) : List HintEntry :=
  match runningImage s, myRank s with
  | some img, some r =>
    img.hints.filter fun h => h.rank == r && (s.frm.index + h.lead) % img.hdr.frames == h.frame % img.hdr.frames
  | _, _ => []

/-- R357: a hint is announced. -/
def announceHint (s0 : State) (budgetOp : Nat) (h : HintEntry) : HintInForce where
  power := h.powerW
  lead := h.lead
  left := h.duration
  limit := #v[hintLimitOf s0 budgetOp h.powerW 0, hintLimitOf s0 budgetOp h.powerW 1,
    hintLimitOf s0 budgetOp h.powerW 2, hintLimitOf s0 budgetOp h.powerW 3]

/-- R357: hints at the start of a non-pause frame: those at their end lift, those due are announced. -/
def hintFrame (s : State) : State :=
  let op := ((runningImage s).map fun img => img.hdr.budgetOp).getD 7
  let fresh := (hintsDue s).map (announceHint s op)
  s.modPwr fun x =>
    { x with hints := agedHints x.hints ++ fresh }

/-- R351, R354, R359: what the power controller does at a frame start. -/
def powerFrame (s : State) : State :=
  let s := s.modPwr fun x => { x with capW := x.capNext.getD x.capW, capNext := none }
  guardRelease (takeSteps s)

/-! ### The cap -/

/-- R351: CAP_UNREACHABLE is judged against a cap; the moment it becomes set is posted. -/
def judgeCap (cap : Nat) (s : State) : State :=
  let now := cap < s.pwr.floorW
  let was := s.pwr.capUnreachable
  let s := s.modPwr fun x => { x with capUnreachable := now }
  if now && !was then postDevice 0x0A .sCapUnreachable 0xFFFFFFFF s else s

/-- R351: `cap.set`. -/
def capSet (m : Nat) (r : MbxReq) (s : State) : State :=
  let cap := fieldOf r.params 0 2
  if cap < 300 || 1600 < cap then failMbx m .eCapRange 0 s
  else
    let s := s.modPwr fun x => if noProgram s then { x with capW := cap, capNext := none } else { x with capNext := some cap }
    let st := if cap < s.pwr.floorW then Status.sCapUnreachable else .sOk
    judgeCap cap (completeMbx m st 0 (leBytes 2 cap ++ leBytes 2 s.pwr.floorW) s)

/-- CAP_SET (R351). -/
def execCapSet (mbx : MbxId) (s : State) : Host.Outcome State Fault Refusal :=
  .next (casbomi 0x0070 mbx (capSet mbx) s)

/-- CAP_REEVALUATION (R351, R353): every 100 ms FLOOR_W is estimated anew. -/
def execCapReevaluation (floorW : Half) (s : State) : Host.Outcome State Fault Refusal :=
  .next (judgeCap (s.pwr.capNext.getD s.pwr.capW) (s.modPwr fun x => { x with floorW := floorW.toNat }))

/-- R366: the record of `power.status`. -/
def powerRecord (s : State) : List Byte :=
  let lim := fun i => min (s.pwrDieAt i).power (min (hintLimit s i) (s.pwrDieAt i).thermal)
  let flags := bit s.pwr.capUnreachable + 2 * bit (s.pwr.hints.any (·.lead == 0)) + 4 * bit !s.pwr.stretch.isEmpty +
    8 * bit (s.pwr.excursion != 0)
  layoutBytes 64
    ([(0x00, 2, s.pwr.vin), (0x02, 2, s.pwr.pIn), (0x04, 2, s.pwr.mean10), (0x06, 2, s.pwr.mean1s),
      (0x08, 2, s.pwr.capW), (0x0A, 2, s.pwr.floorW), (0x0C, 2, flags), (0x38, 2, s.thm.engineMax)] ++
     (List.range 6).map (fun i => (0x10 + 2 * i, 2, vget s.pwr.dieW i)) ++
     (List.range 4).map (fun i => (0x1C + i, 1, (s.pwrDieAt i).step)) ++
     (List.range 4).map (fun i => (0x20 + i, 1, lim i)) ++
     (List.range 6).map (fun i => (0x24 + 2 * i, 2, (s.thmDieAt i).hotspot)) ++
     (List.range 8).map (fun h => (0x30 + h, 1, (s.hankAt h).temp)))

/-- POWER_STATUS (R366). -/
def execPowerStatus (mbx : MbxId) (s : State) : Host.Outcome State Fault Refusal :=
  .next (casbomi 0x0071 mbx (fun _ s => completeMbx mbx .sOk 0 (powerRecord s) s) s)

end Sys2Proof.Machine
end

