-- ==== Sys2Proof/Machine/Num.lean ====
section
/-!
DEFINITION. Numbers: the encodings of R85, exact values, rounding to nearest even and by a random value, and the
arithmetic of R88, R93, R96, R97 and R112. Exact values are dyadic: an integer times a power of two.
-/

namespace Sys2Proof.Machine

/-! ### Formats and values -/

/-- R85: what an encoding with infinities, or with NaN alone, or with neither, does with its top exponent. -/
inductive Specials where
  | ieee | nanOnly | none
  deriving DecidableEq, Repr, Inhabited

/-- R85: a floating-point encoding. -/
structure Fmt where
  exp : Nat
  man : Nat
  bias : Nat
  sp : Specials
  deriving DecidableEq, Repr, Inhabited

def fp64 : Fmt := ⟨11, 52, 1023, .ieee⟩
def fp32 : Fmt := ⟨8, 23, 127, .ieee⟩
def bf16 : Fmt := ⟨8, 7, 127, .ieee⟩
def fp16 : Fmt := ⟨5, 10, 15, .ieee⟩
def e4m3 : Fmt := ⟨4, 3, 7, .nanOnly⟩
def e5m2 : Fmt := ⟨5, 2, 15, .ieee⟩
def e2m3 : Fmt := ⟨2, 3, 1, .none⟩
def e3m2 : Fmt := ⟨3, 2, 3, .none⟩
def e2m1 : Fmt := ⟨2, 1, 1, .none⟩

/-- A value: NaN, an infinity, or a signed magnitude `m * 2 ^ e`, zero included. -/
inductive Num where
  | nan
  | inf (neg : Bool)
  | fin (neg : Bool) (m : Nat) (e : Int)
  deriving DecidableEq, Repr, Inhabited

/-- +0. -/
def Num.zero : Num := .fin false 0 0

/-- R85: the value of an encoding; subnormals are honoured. -/
def decodeNum (f : Fmt) (n : Nat) : Num :=
  let neg := n.testBit (f.exp + f.man)
  let e := n / 2 ^ f.man % 2 ^ f.exp
  let m := n % 2 ^ f.man
  if f.sp = .ieee && e = 2 ^ f.exp - 1 then if m = 0 then .inf neg else .nan
  else if f.sp = .nanOnly && e = 2 ^ f.exp - 1 && m = 2 ^ f.man - 1 then .nan
  else if e = 0 then .fin neg m (1 - (f.bias : Int) - f.man)
  else .fin neg (2 ^ f.man + m) ((e : Int) - f.bias - f.man)

/-- R88: the canonical NaN. -/
def nanCode (f : Fmt) : Nat :=
  match f.sp with
  | .ieee => (2 ^ f.exp - 1) * 2 ^ f.man + 2 ^ (f.man - 1)
  | _ => 2 ^ (f.exp + f.man) - 1

/-- The magnitude of infinity. -/
def infCode (f : Fmt) : Nat :=
  (2 ^ f.exp - 1) * 2 ^ f.man

/-- R85: the largest finite magnitude. -/
def maxCode (f : Fmt) : Nat :=
  match f.sp with
  | .ieee => infCode f - 1
  | .nanOnly => 2 ^ (f.exp + f.man) - 2
  | .none => 2 ^ (f.exp + f.man) - 1

/-- The sign bit of a code. -/
def signCode (f : Fmt) (neg : Bool) : Nat :=
  if neg then 2 ^ (f.exp + f.man) else 0

/-! ### Rounding -/

/-- A rounding rule: to nearest even, towards zero, or by a random value of so many bits (R97, R98). -/
inductive Rounding where
  | nearest
  | truncate
  | random (r bits : Nat)
  deriving DecidableEq, Repr, Inhabited

/-- `m / 2 ^ k` rounded to an integer. -/
def roundShift (rule : Rounding) (m k : Nat) : Nat :=
  let q := m / 2 ^ k
  let r := m % 2 ^ k
  match rule with
  | .nearest => if 2 ^ k < 2 * r || (2 * r = 2 ^ k && q % 2 = 1) then q + 1 else q
  | .truncate => q
  | .random v bits => (m * 2 ^ bits + v * 2 ^ k) / 2 ^ (k + bits)

/-- R96: the exponent of the unit in the last place at the binade of `m * 2 ^ e`, with the subnormal unit as its
floor. -/
def ulpExp (f : Fmt) (m : Nat) (e : Int) : Int :=
  max ((Nat.log2 m : Int) + e) (1 - (f.bias : Int)) - f.man

/-- R96: the magnitude `m * 2 ^ e` rounded as if the format had no largest exponent, as a code that may lie past the
format's. -/
def roundMag (f : Fmt) (rule : Rounding) (m : Nat) (e : Int) : Nat :=
  if m = 0 then 0
  else
    let u := ulpExp f m e
    let q := if u ≤ e then m * 2 ^ (e - u).toNat else roundShift rule m (u - e).toNat
    (u + f.man + f.bias - 1).toNat * 2 ^ f.man + q

/-- R96: a conversion's result and whether it overflowed or was saturated. -/
structure Rounded where
  code : Nat
  over_ : Bool
  deriving DecidableEq, Repr, Inhabited

/-- R96: a value converted to a format, with SAT clear or set. -/
def convertNum (f : Fmt) (rule : Rounding) (sat : Bool) (v : Num) : Rounded :=
  match v with
  | .nan => ⟨nanCode f, false⟩
  | .inf neg =>
    if sat then ⟨signCode f neg + maxCode f, true⟩
    else if f.sp = .ieee then ⟨signCode f neg + infCode f, false⟩
    else ⟨nanCode f, true⟩
  | .fin neg m e =>
    let c := roundMag f rule m e
    if c ≤ maxCode f then ⟨signCode f neg + c, false⟩
    else if sat then ⟨signCode f neg + maxCode f, true⟩
    else if f.sp = .ieee then ⟨signCode f neg + infCode f, true⟩
    else ⟨nanCode f, true⟩

/-- Rounded to nearest even, overflowing to infinity. -/
def encodeNum (f : Fmt) (v : Num) : Nat :=
  (convertNum f .nearest false v).code

/-! ### Exact arithmetic -/

/-- The signed integer of a magnitude. -/
def signedMag (neg : Bool) (m : Nat) : Int :=
  if neg then -(m : Int) else m

/-- An exact dyadic number as a value; a zero takes the sign given. -/
def ofDyadic (zeroNeg : Bool) (z : Int) (e : Int) : Num :=
  if z = 0 then .fin zeroNeg 0 0 else .fin (z < 0) z.natAbs e

/-- `z * 2 ^ e` in units of `2 ^ u`, for `u ≤ e`. -/
def inUnits (z : Int) (e u : Int) : Int :=
  z * (2 ^ (e - u).toNat : Nat)

/-- The exact sum; IEEE 754's rules for infinities and for the sign of zero. -/
def addNum : Num → Num → Num
  | .nan, _ => .nan
  | _, .nan => .nan
  | .inf a, .inf b => if a = b then .inf a else .nan
  | .inf a, .fin _ _ _ => .inf a
  | .fin _ _ _, .inf b => .inf b
  | .fin na ma ea, .fin nb mb eb =>
    let u := min ea eb
    ofDyadic (na && nb && ma = 0 && mb = 0) (inUnits (signedMag na ma) ea u + inUnits (signedMag nb mb) eb u) u

/-- The opposite sign. -/
def negNum : Num → Num
  | .nan => .nan
  | .inf a => .inf (!a)
  | .fin n m e => .fin (!n) m e

/-- The exact product; infinity times zero is NaN. -/
def mulNum : Num → Num → Num
  | .nan, _ => .nan
  | _, .nan => .nan
  | .inf a, .inf b => .inf (a != b)
  | .inf a, .fin n m _ => if m = 0 then .nan else .inf (a != n)
  | .fin n m _, .inf a => if m = 0 then .nan else .inf (a != n)
  | .fin na ma ea, .fin nb mb eb => .fin (na != nb) (ma * mb) (ea + eb)

/-- A magnitude with one more bit below, set where the value is not exact, so that rounding sees it. -/
def stick (neg : Bool) (q : Nat) (exact : Bool) (e : Int) : Num :=
  .fin neg (2 * q + if exact then 0 else 1) (e - 1)

/-- The quotient, exact to far more bits than any format holds, with a sticky bit. -/
def divNum : Num → Num → Num
  | .nan, _ => .nan
  | _, .nan => .nan
  | .inf _, .inf _ => .nan
  | .inf a, .fin n _ _ => .inf (a != n)
  | .fin n _ _, .inf a => .fin (n != a) 0 0
  | .fin na ma ea, .fin nb mb eb =>
    if mb = 0 then if ma = 0 then .nan else .inf (na != nb)
    else stick (na != nb) (ma * 2 ^ 160 / mb) (ma * 2 ^ 160 % mb = 0) (ea - eb - 160)

/-- A magnitude with an even exponent. -/
def evenExp (m : Nat) (e : Int) : Nat × Int :=
  if e % 2 = 0 then (m, e) else (2 * m, e - 1)

/-- The square root; of a negative number NaN, of -0 itself. -/
def sqrtNum : Num → Num
  | .nan => .nan
  | .inf neg => if neg then .nan else .inf false
  | .fin neg m e =>
    if m = 0 then .fin neg 0 0
    else if neg then .nan
    else
      let p := evenExp m e
      let n := p.1 * 4 ^ 80
      let q := isqrt 120 n
      stick false q (q * q = n) (p.2 / 2 - 80)

/-- The reciprocal square root. -/
def rsqrtNum : Num → Num
  | .nan => .nan
  | .inf neg => if neg then .nan else .fin false 0 0
  | .fin neg m e =>
    if m = 0 then .inf neg
    else if neg then .nan
    else
      let p := evenExp m e
      let n := 4 ^ 120 / p.1
      let q := isqrt 128 n
      stick false q (q * q * p.1 = 4 ^ 120) (-(p.2 / 2) - 120)

/-! ### exp, exp2, log2 -/

/-- The natural logarithm of 2, in units of 2^-192. -/
def ln2At192 : Nat :=
  0xb17217f7d1cf79abc9e3b39803f2f6af40f343267298b62d

/-- `2 ^ 192 * exp (r / 2 ^ 192)` by its series, for `r` at most `2 ^ 192`: `k` terms from the last inwards. -/
def expSeries (r : Int) : Nat → Int → Int
  | 0, acc => acc
  | k + 1, acc => expSeries r k (2 ^ 192 + r * acc / ((k + 1 : Nat) * 2 ^ 192))

/-- `exp` of `x / 2 ^ 192`, `x` an integer: a multiple of ln 2 is taken off first. -/
def expFixed (x : Int) : Num :=
  let k := x / (ln2At192 : Int)
  stick false (expSeries (x - k * ln2At192) 50 (2 ^ 192)).toNat false (k - 192)

/-- A magnitude in units of 2^-192, towards zero. -/
def fixed192 (neg : Bool) (m : Nat) (e : Int) : Int :=
  if -192 ≤ e then inUnits (signedMag neg m) e (-192) else signedMag neg (m / 2 ^ (-192 - e).toNat)

/-- R112: the exponential, with a sticky bit: its exact value is never a dyadic number but at zero. -/
def expNum : Num → Num
  | .nan => .nan
  | .inf neg => if neg then .fin false 0 0 else .inf false
  | .fin neg m e =>
    if m = 0 then .fin false 1 0
    else if 10 ≤ (Nat.log2 m : Int) + e then if neg then stick false 0 false (-1000) else stick false 1 false 1000
    else expFixed (fixed192 neg m e)

/-- R112: the power of 2. -/
def exp2Num : Num → Num
  | .nan => .nan
  | .inf neg => if neg then .fin false 0 0 else .inf false
  | .fin neg m e =>
    if m = 0 then .fin false 1 0
    else if 10 ≤ (Nat.log2 m : Int) + e then if neg then stick false 0 false (-1000) else .fin false 1 1000
    else
      let x := fixed192 neg m e
      let k := x / (2 ^ 192 : Nat)
      let r := x - k * (2 ^ 192 : Nat)
      if r = 0 then .fin false 1 k
      else stick false (expSeries (r * ln2At192 / (2 ^ 192 : Nat)) 50 (2 ^ 192)).toNat false (k - 192)

/-- Bits of the binary logarithm of `y / 2 ^ 320`, which lies in [1, 2): `k` of them, most significant first. -/
def log2Bits : Nat → Nat → Nat → Nat
  | 0, _, acc => acc
  | k + 1, y, acc =>
    let z := y * y / 2 ^ 320
    if 2 ^ 321 ≤ z then log2Bits k (z / 2) (2 * acc + 1) else log2Bits k z (2 * acc)

/-- R112: the binary logarithm; exact for powers of 2, otherwise with a sticky bit. -/
def log2Num : Num → Num
  | .nan => .nan
  | .inf neg => if neg then .nan else .inf false
  | .fin neg m e =>
    if m = 0 then .inf true
    else if neg then .nan
    else
      let b := Nat.log2 m
      let k : Int := (b : Int) + e
      if m = 2 ^ b then ofDyadic false k 0
      else ofDyadic false (2 * (k * (2 ^ 128 : Nat) + log2Bits 128 (m * 2 ^ 320 / 2 ^ b) 0) + 1) (-129)

/-! ### Rounded operations -/

/-- FP32 operations on codes, rounded to nearest even; every NaN result is the canonical one (R112). -/
def add32 (a b : Nat) : Nat := encodeNum fp32 (addNum (decodeNum fp32 a) (decodeNum fp32 b))
def sub32 (a b : Nat) : Nat := encodeNum fp32 (addNum (decodeNum fp32 a) (negNum (decodeNum fp32 b)))
def mul32 (a b : Nat) : Nat := encodeNum fp32 (mulNum (decodeNum fp32 a) (decodeNum fp32 b))
def div32 (a b : Nat) : Nat := encodeNum fp32 (divNum (decodeNum fp32 a) (decodeNum fp32 b))
def exp32 (a : Nat) : Nat := encodeNum fp32 (expNum (decodeNum fp32 a))

/-- A fused multiply-add of codes in one format. -/
def fmaIn (f : Fmt) (a b c : Nat) : Nat :=
  encodeNum f (addNum (mulNum (decodeNum f a) (decodeNum f b)) (decodeNum f c))

/-- FP32 fused multiply-add (R126). -/
def fma32 (a b c : Nat) : Nat := fmaIn fp32 a b c

/-- Finite codes. -/
def isFinite (f : Fmt) (a : Nat) : Bool :=
  match decodeNum f a with
  | .fin _ _ _ => true
  | _ => false

/-- R112, R125: a code is below another: -0 is less than +0; no operand is NaN. -/
def numLess (f : Fmt) (a b : Nat) : Bool :=
  let w := f.exp + f.man
  let key := fun n => if n.testBit w then -((n % 2 ^ w : Nat) : Int) - 1 else ((n % 2 ^ w : Nat) : Int)
  key a < key b

/-- R112: the greater of two codes; a NaN operand gives the canonical NaN. -/
def maxIn (f : Fmt) (a b : Nat) : Nat :=
  if decodeNum f a = .nan || decodeNum f b = .nan then nanCode f else if numLess f a b then b else a

/-- R112: the lesser of two codes. -/
def minIn (f : Fmt) (a b : Nat) : Nat :=
  if decodeNum f a = .nan || decodeNum f b = .nan then nanCode f else if numLess f a b then a else b

/-! ### Special values and block sums -/

/-- R88: what the special values among the products decide: NaN, an infinity, or nothing. -/
def specialOf (ps : List Num) : Option Num :=
  let pos := ps.any (· == .inf false)
  let neg := ps.any (· == .inf true)
  if ps.any (· == .nan) || (pos && neg) then some .nan
  else if pos then some (.inf false)
  else if neg then some (.inf true)
  else none

/-- R93: the largest binade among the non-zero products. -/
def maxBinade (ps : List Num) : Option Int :=
  ps.foldl (fun o p =>
    match p with
    | .fin _ m e => if m = 0 then o else
        let b : Int := (Nat.log2 m : Int) + e
        some (match o with | some x => max x b | none => b)
    | _ => o) none

/-- R93: one product in the window whose bit 0 weighs `2 ^ q`: its truncated signed magnitude, and whether bits were
lost. -/
def windowTerm (q : Int) : Num → Int × Bool
  | .fin neg m e =>
    if q ≤ e then (inUnits (signedMag neg m) e q, false)
    else
      let k := (q - e).toNat
      (signedMag neg (m / 2 ^ k), m % 2 ^ k ≠ 0)
  | _ => (0, false)

/-- R93: the canonical sum of a block of finite products, as an FP32 code. -/
def blockSum (ps : List Num) : Nat :=
  match maxBinade ps with
  | none => if !ps.isEmpty && ps.all (fun p => match p with | .fin neg _ _ => neg | _ => false) then 0x80000000 else 0
  | some b =>
    let q := b - 57
    let ts := ps.map (windowTerm q)
    let t := (ts.map (·.1)).sum
    let s := ts.any (·.2)
    encodeNum fp32 (.fin (t < 0) (2 * t.natAbs + bit s) (q - 1))

/-! ### Reductions and the random value -/

/-- R197, R333: element formats of reductions: a floating-point format, or a signed integer of so many bits. -/
inductive ElemFmt where
  | float (f : Fmt)
  | int (bits : Nat)
  deriving DecidableEq, Repr, Inhabited

/-- R197, R329: the DTYPE codes of reductions. -/
def elemFmt : Nat → Option ElemFmt
  | 0x01 => some (.float bf16) | 0x02 => some (.float fp16) | 0x03 => some (.float fp32) | 0x40 => some (.int 32)
  | 0x41 => some (.int 64)
  | _ => none

/-- Bytes of an element. -/
def elemBytes : ElemFmt → Nat
  | .float f => (1 + f.exp + f.man) / 8
  | .int b => b / 8

/-- R197, R333: op(incoming, local) on codes of one element: 0 sum, 1 max, 2 min. -/
def reduceElem (fm : ElemFmt) (op a b : Nat) : Nat :=
  match fm with
  | .float f =>
    if op = 0 then encodeNum f (addNum (decodeNum f a) (decodeNum f b))
    else if op = 1 then maxIn f a b else minIn f a b
  | .int w =>
    if op = 0 then (a + b) % 2 ^ w
    else if op = 1 then if signedOf w a < signedOf w b then b else a
    else if signedOf w b < signedOf w a then b else a

/-- Bytes combined element by element; what is left of a whole element stays as it is locally. -/
def reduceBytes (fm : ElemFmt) (op : Nat) (incoming loc : List Byte) : List Byte :=
  let k := elemBytes fm
  let n := loc.length / k
  ((List.range n).flatMap fun i =>
    leBytes k (reduceElem fm op (fieldOf incoming (k * i) k) (fieldOf loc (k * i) k))) ++ loc.drop (k * n)

/-- R97: C1. -/
def hashC1 : Nat :=
  0xB5E32C974F1D8A63

/-- R97: C2. -/
def hashC2 : Nat :=
  0xE7A15D3B9C24F6C5

/-- R97: h for an element index: 24 bits are its top, 16 in numerics generation 1 (R98). -/
def roundHash (idx tensor stepNo : Nat) : Nat :=
  let m := 2 ^ 64
  let h := idx * hashC1 % m
  let h := h ^^^ (tensor * 2 ^ 32 + stepNo)
  let h := h ^^^ (h / 2 ^ 31)
  let h := h * hashC2 % m
  let h := h ^^^ (h / 2 ^ 29)
  let h := h * hashC1 % m
  h ^^^ (h / 2 ^ 32)

/-- R97, R98: the rounding that SROUND asks for, by the numerics generation. -/
def randomRounding (numgen idx tensor stepNo : Nat) : Rounding :=
  let h := roundHash idx tensor stepNo
  if numgen = 1 then .random (h / 2 ^ 48) 16 else .random (h / 2 ^ 40) 24

/-! ### The checksum of data -/

/-- R276, R293: CRC-32C. -/
def crc32c (bs : List Byte) : Nat :=
  crcBitsRefl 0x82F63B78 0xFFFFFFFF (bs.flatMap byteBitsLsb) ^^^ 0xFFFFFFFF

end Sys2Proof.Machine
end

