-- ==== Sys2Proof/Machine/Remote.lean ====
section
/-!
DEFINITION. Remote operations (R164, R182, R193, R285, R288-R297): the packets and transfers that carry them, what a
target performs, and how an operation completes at its issuer. The rows of chapter 11 and the commands and steps that
issue operations are written with these.
-/

namespace Sys2Proof.Machine

/-! ### Packets -/

/-- R289: the fields of a packet's header. -/
structure PktHdr where
  src : Nat := 0
  msg : Nat := 0
  index : Nat := 0
  count : Nat := 0
  op : Nat := 0
  last : Bool := false
  resent : Bool := false
  dtype : Nat := 0
  redOp : Nat := 0
  opLen : Nat := 0
  gaddr : Nat := 0
  msgOff : Nat := 0
  check : Nat := 0
  deriving DecidableEq, Repr, Inhabited

/-- R289: the header of a packet's payload. -/
def pktHdr (p : List Byte) : PktHdr :=
  { src := fieldOf p 0 2 % 2 ^ 14, msg := fieldOf p 2 2, index := fieldOf p 4 2 % 2 ^ 13, count := fieldOf p 6 2,
    op := fieldOf p 8 1, last := bitOf (fieldOf p 9 1) 0, resent := bitOf (fieldOf p 9 1) 1, dtype := fieldOf p 10 1,
    redOp := fieldOf p 11 1, opLen := fieldOf p 12 4, gaddr := fieldOf p 16 8, msgOff := fieldOf p 24 4,
    check := fieldOf p 28 4 }

/-- R289: a packet's payload: its header, then up to 224 bytes of data or operands. -/
def pktBytes (h : PktHdr) (data : List Byte) : List Byte :=
  layoutBytes 32
    [(0, 2, h.src), (2, 2, h.msg), (4, 2, h.index), (6, 2, if h.last then h.count else 0), (8, 1, h.op),
     (9, 1, bit h.last + 2 * bit h.resent), (10, 1, h.dtype), (11, 1, h.redOp), (12, 4, h.opLen), (16, 8, h.gaddr),
     (24, 4, h.msgOff), (28, 4, if h.last then h.check else 0)] ++ fitBytes 224 data

/-- R290: bytes of one message of an operation. -/
def msgBytes : Nat :=
  2 ^ 20

/-- R290: the packets of a message with these data bytes. -/
def messagePackets (h : PktHdr) (data : List Byte) : List (List Byte) :=
  let n := max 1 (ceilDiv data.length 224)
  (List.range n).map fun i =>
    pktBytes { h with index := i, count := n, last := i + 1 == n, check := crc32c data } (sliceBytes data (224 * i) 224)

/-- R293, R300: the state entries in use: messages that have not been completed. -/
def openEntries (s : State) : Nat :=
  (s.fab.rx.filter fun e => (e.2.map fun m => m.answer.isNone).getD false).length

/-- R297, R300: messages sent and not yet answered, synchronisation packets among them. -/
def openMessages (s : State) : Nat :=
  s.fab.tx.length + s.fab.syncOut.length

/-- R300: this device's identifier. -/
def selfId (s : State) : Nat :=
  s.fab.deviceId.getD 0

/-- R288: the device identifier is this device's own. -/
def isSelf (s : State) (d : Nat) : Bool :=
  s.fab.deviceId == some d

/-- R288, R291: the routing table has an entry for a destination. -/
def hasRoute (s : State) (d : Nat) : Bool :=
  tget s.fab.tables.routes d != 0

/-- R291: a packet of this device waits for a productive strand. -/
def injectPacket (dest : Nat) (payload : List Byte) (s : State) : State :=
  s.modFab fun f => { f with inject := f.inject ++ [{ dest := dest, payload := payload }] }

/-- R291: packets of this device, in order. -/
def injectAll (dest : Nat) : List (List Byte) → State → State
  | [], s => s
  | p :: ps, s => injectAll dest ps (injectPacket dest p s)

/-- R289: a message number is held by a message that has not been answered, a synchronisation packet included. -/
def msgHeld (s : State) (m : Nat) : Bool :=
  (tget s.fab.tx m).isSome || s.fab.syncOut.any fun y => y.msg == m

/-- R289: the next message number that is free. -/
def freeMsg (s : State) : Nat :=
  let n := s.fab.nextMsg
  (((List.range (openMessages s + 1)).map fun i => (n + i) % 2 ^ 16).find? fun m =>
    !msgHeld s m).getD n

/-- R289: a message leaves: it takes a number, and is kept until it is answered. -/
def sendMessage (op dest : Nat) (h : PktHdr) (data : List Byte) (s : State) : State :=
  let m := freeMsg s
  let ps := messagePackets { h with src := selfId s, msg := m } data
  let s := s.modFab fun f =>
    { f with nextMsg := wrapInc 16 m, tx := tput f.tx m (some { op := op, dest := dest, packets := ps }) }
  injectAll dest ps s

/-- R294, R297: an answer: a one-packet message that is not itself answered. -/
def sendAnswer (dest : Nat) (h : PktHdr) (data : List Byte) (s : State) : State :=
  let m := freeMsg s
  let ps := messagePackets { h with src := selfId s, msg := m } data
  injectAll dest ps (s.modFab fun f => { f with nextMsg := wrapInc 16 m })

/-- R290, R294: an acknowledgement's operands. -/
def ackData (msg : Nat) (st : Status) (detail packets marks : Nat) : List Byte :=
  leBytes 2 msg ++ leBytes 2 st.code ++ leBytes 4 detail ++ leBytes 2 packets ++ leBytes 2 (min marks 0xFFFF)

/-- R290, R294: an acknowledgement of a message (or, with RED_OP 1, of a transfer [DC 20]) goes out. -/
def sendAck (dest : Nat) (transfer : Bool) (data : List Byte) (s : State) : State :=
  sendAnswer dest { op := 0x09, redOp := bit transfer } data s

/-- R293, R299: a message's or a transfer's check does not match. -/
def checkMismatch (s : State) : State :=
  let s := winBump 33 0 0 (s.modFab fun f => { f with checkFail := true })
  escalate { row := 33, count := winCount s 33 0 0 } s

/-- R246: the status that a code names. -/
def statusOf (code : Nat) : Status :=
  (([.sOk, .eCommand, .eDataError, .eHankOvertemp, .eHankLost, .eBounds, .eRegion, .eEpochStale, .eQueue, .eHostLink,
     .eUnreachable, .eMsgIncomplete, .eState, .eFrameFailed] : List Status).find? fun st => st.code == code).getD .eDataError

/-! ### What a target performs -/

/-- R182, R285, R293: bytes of a PUT or PUT_REDUCE are performed at their local address; bytes of a failed write are
undefined (R200). -/
def targetWrite (reduce : Bool) (redOp dtype a : Nat) (data : List Byte) (s : State) : Option Status × State :=
  let r : Access := if reduce then fabricRead a data.length s else { s := s }
  match r.err with
  | some st => (some st, clientError .fabric st r.s)
  | none =>
    let new := match reduce, elemFmt dtype with
      | true, some fm => reduceBytes fm redOp data r.bytes
      | _, _ => data
    let w := fabricWrite a new r.s
    match w.err with
    | some st => (some st, markUndef a data.length w.s)
    | none => (none, w.s)

/-- R196, R288: the PEER_TAIL words. -/
def peerBase : Nat :=
  0xC004000000

/-- R196, R288: the queue whose PEER_TAIL word an address lies in. -/
def peerQueue (a : Nat) : Option Nat :=
  if peerBase ≤ a && a < peerBase + 8 * 2 ^ 20 then some ((a - peerBase) / 8) else none

/-- R288: checks 1 to 3 of R193 as they apply to a PEER_TAIL word. -/
def peerCheck (s : State) (g q : Nat) : Option (Status × Nat) :=
  if (s.queueAt q).cls != .peer || !(s.queueAt q).enabled then some (.eRegion, 0x0403)
  else if (s.queueAt q).epoch ≠ gaEpoch g then some (.eEpochStale, 0)
  else if gaLocal g % 8 ≠ 0 then some (.eBounds, 4)
  else none

/-- R193 check 4, R288: the checks of a counter address. -/
def counterCheck (s : State) (g : Nat) : Option (Status × Nat) :=
  match peerQueue (gaLocal g) with
  | some q => peerCheck s g q
  | none => remoteCheck s g 8 accRemoteWrite

/-- R196: an increment of a peer queue's tail, or the queue's overrun. -/
def peerIncrement (q inc : Nat) (s : State) : Option (Status × Nat) × State :=
  let d := s.queueAt q
  if 2 ^ d.log2 < (d.peerTail + 2 ^ 32 - d.head) % 2 ^ 32 + inc then
    let s := (s.modQueue q fun d => { d with enabled := false }).modBob fun b => { b with peerOverrun := true }
    (some (.eQueue, 0), postEvent 0x04 .eQueue q (some d.tenant) [] s)
  else (none, s.modQueue q fun d => { d with peerTail := (d.peerTail + inc) % 2 ^ 64 })

/-- R182, R196, R297: a counter is checked and incremented. -/
def counterIncrement (g inc : Nat) (s : State) : Option (Status × Nat) × State :=
  match counterCheck s g with
  | some (st, d) => (some (st, d), noteStale st s)
  | none =>
    match peerQueue (gaLocal g) with
    | some q => peerIncrement q inc s
    | none =>
      let r := memAtomic (gaLocal g) (.fetchAdd (BitVec.ofNat 64 inc)) s
      (r.err.map fun st => (st, 0), r.s)

/-- R193 checks 1 to 3 of an arriving operation, stale ones counted. -/
def arriveCheck (g n acc : Nat) (s : State) : Option (Status × Nat) × State :=
  match remoteCheck s g n acc with
  | some (st, d) => (some (st, d), noteStale st s)
  | none => (none, s)

/-- R145, R197: a FETCH_ADD on FP64 adds as R97 rounds; on INT64 it wraps. -/
def fetchAddResult (dtype old operand : Nat) : Nat :=
  if dtype = 0x04 then encodeNum fp64 (addNum (decodeNum fp64 old) (decodeNum fp64 operand))
  else (old + operand) % 2 ^ 64

/-- R145, R297: an atomic is checked and performed at its controller; the answer is its status and detail, and the
previous value. -/
def targetAtomic (g : Nat) (f : Nat → Nat) (s : State) : Option (Status × Nat) × Nat × State :=
  match arriveCheck g 8 accRemoteWrite s with
  | (some e, s) => (some e, 0, s)
  | (none, s) =>
    let r := narrowRead (gaLocal g) 8 s
    match r.err with
    | some st => (some (st, 0), 0, r.s)
    | none =>
      let w := narrowWrite (gaLocal g) (leBytes 8 (f (leNat r.bytes))) r.s
      (w.err.map fun st => (st, 0), leNat r.bytes, w.s)

/-- R297: the checks of a GET's data at the requester. -/
def getCheck (s : State) (handle reply n : Nat) : Option (Status × Nat) :=
  let why := handleReason s handle none accWrite
  if why ≠ 0 then some (.eRegion, 0x0200 + why)
  else match handleRegion s handle with
    | none => some (.eRegion, 0x0201)
    | some r =>
      if r.epoch ≠ gaEpoch reply then some (.eEpochStale, 0)
      else if r.base + r.size < gaLocal reply + n then some (.eBounds, 2)
      else none

/-! ### Completion at the issuer -/

/-- R294, R295: an operation completes: the command's or the step's result. A failed operation of a step fails the
frame. -/
def deliver (c : Client) (st : Status) (value detail : Nat) (s : State) : State :=
  let s := if st = .eUnreachable then s.modFab fun f => { f with unreachable := true } else s
  match c with
  | .command t => endCommand t st (if st.failure then 0 else value) detail s
  | .step i => if st.failure then clientError (.step i) st s else s
  | .flyer =>
    match s.res.buddyWait with
    | some (m, _) => if st.failure then failMbx m st 0 (s.modRes fun r => { r with buddyWait := none }) else s
    | none => s
  | .host | .fabric => s

/-- R182, R297: the increment of a SIGNAL may leave: its own data has been performed and answered, and so has every
earlier operation of its unit to the same target. -/
def incrementReady (s : State) (o : RemOp) : Bool :=
  o.incr.isSome && o.open_ == 0 && o.status.isNone && o.after.all fun k => (tget s.fab.op k).isNone

/-- R297: the increments that may leave do. -/
def sendIncrements : List Nat → State → State
  | [], s => s
  | k :: ks, s =>
    match tget s.fab.op k with
    | none => sendIncrements ks s
    | some o =>
      if incrementReady s o then
        let (ctr, inc) := o.incr.getD (0, 0)
        let s := s.modFab fun f => { f with op := tput f.op k (some { o with incr := none, open_ := 1 }) }
        sendIncrements ks
          (sendMessage k o.dest { op := 0x08, opLen := 8, gaddr := ctr } (leBytes 8 ctr ++ leBytes 8 inc) s)
      else sendIncrements ks s

/-- R294: an operation whose every message has been answered. -/
def opSettled (o : RemOp) : Bool :=
  o.open_ == 0 && (o.status.isSome || (o.getLeft == 0 && o.incr.isNone))

/-- R294, R297: complete an operation that is settled, and let what waited for it go on. -/
def settleOp (k : Nat) (s : State) : State :=
  match tget s.fab.op k with
  | none => s
  | some o =>
    let s := if opSettled o then
        deliver o.client (o.status.getD .sOk) o.value o.detail (s.modFab fun f => { f with op := tput f.op k none })
      else s
    sendIncrements (tkeys s.fab.op) s

/-- R294: one message or transfer of an operation has been answered. -/
def answerOp (k : Nat) (st : Status) (detail : Nat) (s : State) : State :=
  let s := s.modFab fun f =>
    { f with op := tmod f.op k fun o => o.map fun o =>
        { o with open_ := o.open_ - 1,
                 status := if st.failure then o.status <|> some st else o.status,
                 detail := if st.failure && o.status.isNone then detail else o.detail } }
  settleOp k s

/-! ### Issuing -/

/-- R182: operations of a unit to a target that have not completed. -/
def earlierOps (s : State) (unit dest : Nat) : List Nat :=
  s.fab.op.filterMap fun e => e.2.bind fun o => if o.unit = unit && o.dest = dest then some e.1 else none

/-- A new operation takes a number. -/
def newOp (o : RemOp) (s : State) : Nat × State :=
  let k := s.fab.nextOp + 1
  (k, s.modFab fun f => { f with nextOp := k, op := tput f.op k (some o) })

/-- R285, R290: the messages or transfers that `n` bytes take. -/
def pieces (n : Nat) : Nat :=
  ceilDiv n msgBytes

/-- R289: there are message numbers for `n` more messages. -/
def msgRoom (s : State) (n : Nat) : Bool :=
  openMessages s + n ≤ 2 ^ 16

/-- R290: the data of an operation goes out in messages of at most 1 MiB. -/
def sendMessages (k dest : Nat) (h : PktHdr) (data : List Byte) : List Nat → State → State
  | [], s => s
  | i :: is, s =>
    sendMessages k dest h data is
      (sendMessage k dest { h with msgOff := msgBytes * i } ((data.drop (msgBytes * i)).take msgBytes) s)

/-- A PUT, PUT_REDUCE or the data of a SIGNAL, and a SIGNAL's increment. -/
structure PutReq where
  client : Client
  unit : Nat
  reduce : Bool := false
  redOp : Nat := 0
  dtype : Nat := 0
  gaddr : Nat
  len : Nat
  /-- The local address of the source. -/
  src : Nat
  /-- R297: the counter address and the increment. -/
  incr : Option (Nat × Nat) := none
  /-- R285: the strand and the reservation of a circuit. -/
  circuit : Option (Nat × Nat) := none

/-- R288: an operation on this device itself is performed by its link dies: R193 checks 1 to 4 first, then the data, then
the increment. -/
def putSelf (r : PutReq) (data : List Byte) (s : State) : State :=
  let chk := if r.len = 0 then none else remoteCheck s r.gaddr r.len accRemoteWrite
  match chk <|> r.incr.bind fun c => counterCheck s c.1 with
  | some (st, d) => deliver r.client st 0 d (noteStale st s)
  | none =>
    let w := if r.len = 0 then (none, s) else targetWrite r.reduce r.redOp r.dtype (gaLocal r.gaddr) data s
    match w with
    | (some st, s) => deliver r.client st 0 0 s
    | (none, s) =>
      match r.incr with
      | none => deliver r.client .sOk r.len 0 s
      | some (ctr, inc) =>
        match counterIncrement ctr inc s with
        | (some (st, d), s) => deliver r.client st 0 d s
        | (none, s) => deliver r.client .sOk r.len 0 s

/-! ### Circuits -/

/-- R275: ROUTE of a circuit block. -/
def circuitRoute (dest src resv xfer index : Nat) : Nat :=
  packBits [(55, 42, dest), (41, 28, src), (27, 20, resv), (19, 12, xfer), (11, 0, index)]

/-- R290: OP of an operation that writes. -/
def PutReq.code (r : PutReq) : Nat :=
  if r.incr.isSome then 4 else if r.reduce then 2 else 1

/-- R285: the payload of an open block. [DC 20] -/
def openPayload (r : XferRest) (count off : Nat) : List Byte :=
  layoutBytes 256
    [(0, 1, r.code), (1, 1, r.redOp), (2, 1, r.dtype), (4, 4, count), (8, 8, r.gaddr), (16, 4, r.len), (20, 4, off)]

/-- R285: the blocks of one transfer. -/
def transferBlocks (r : XferRest) (src resv xfer off : Nat) (data : List Byte) : List Blk :=
  let dest := gaDevice r.gaddr
  let n := ceilDiv data.length 256
  [{ typ := 1, route := circuitRoute dest src resv xfer 0, payload := openPayload r n off }]
    ++ (List.range n).map (fun i =>
      { typ := 2, route := circuitRoute dest src resv xfer i, payload := sliceBytes data (256 * i) 256 })
    ++ [{ typ := 3, route := circuitRoute dest src resv xfer 0,
          payload := layoutBytes 256 [(0, 4, n), (4, 4, crc32c data)] }]

/-- R275: XFER of a circuit block. -/
def Blk.xfer (b : Blk) : Nat :=
  bitsOf b.route 19 12

/-- R335: an open block of a collective's chunk. -/
def Blk.collective (b : Blk) : Bool :=
  b.typ == 1 && fieldOf b.payload 0 1 == 0x10

/-- R335, R342: a credit-only or an abort chunk. -/
def Blk.urgent (b : Blk) : Bool :=
  b.collective && 0xFE ≤ fieldOf b.payload 1 1

/-- R275: transfer numbers of a reservation that are in use: by a transfer not yet answered, or by a block that waits. -/
def usedXfers (s : State) (resv : Nat) : List Nat :=
  (tkeys s.fab.txXfer).filterMap (fun k => if k / 256 = resv then some (k % 256) else none) ++
    s.fab.link.flatMap fun e => (e.2.own.filter fun q => q.1 == resv).map fun q => q.2.xfer

/-- R275: the next transfer number that the reservation has free. -/
def freeXfer (s : State) (resv : Nat) : Nat :=
  (((List.range 256).map fun i => (s.fab.nextXfer + i) % 256).find? fun x => !(usedXfers s resv).contains x).getD 0

/-- R275: a reservation has a transfer number free. -/
def xferFree (s : State) (resv : Nat) : Bool :=
  (usedXfers s resv).length < 256

/-- R285: one transfer of an operation is queued on its circuit. -/
def sendTransfer (r : XferRest) (i : Nat) (s : State) : State :=
  let x := freeXfer s r.resv
  let bs := transferBlocks r (selfId s) r.resv x (msgBytes * i) ((r.data.drop (msgBytes * i)).take msgBytes)
  let s := s.modFab fun f =>
    { f with nextXfer := wrapInc 8 x,
             txXfer := tput f.txXfer (256 * r.resv + x) (some { op := r.op, dest := gaDevice r.gaddr }) }
  s.modLink r.strand fun l => { l with own := l.own ++ bs.map fun b => (r.resv, b) }

/-- R275, R285: the transfers of an operation are queued in order; those for which no number is free wait. -/
def sendTransfers (r : XferRest) : List Nat → State → State
  | [], s => s
  | i :: is, s =>
    if xferFree s r.resv then sendTransfers r is (sendTransfer r i s)
    else s.modFab fun f => { f with rest := f.rest ++ [{ r with todo := i :: is }] }

/-- R285: transfers that have waited for a number go on, operation by operation. -/
def resumeTransfers : List XferRest → State → State
  | [], s => s
  | r :: rs, s => resumeTransfers rs (sendTransfers r r.todo s)

/-- R275, R285: a transfer number has come free. -/
def xferFreed (s : State) : State :=
  resumeTransfers s.fab.rest (s.modFab fun f => { f with rest := [] })

/-- R288: the data of an operation to another device leaves, and its increment when it may. -/
def putFar (r : PutReq) (data : List Byte) (s : State) : State :=
  let dest := gaDevice r.gaddr
  let n := pieces r.len
  let (k, s) := newOp
    { op := r.code, client := r.client, unit := r.unit, dest := dest,
      addr := gaLocal r.gaddr, len := r.len, open_ := n, value := r.len, incr := r.incr, after := earlierOps s r.unit dest } s
  let s := match r.circuit with
    | some (strand, resv) =>
      sendTransfers { op := k, strand := strand, resv := resv, code := r.code, redOp := r.redOp, dtype := r.dtype,
                      gaddr := r.gaddr, len := r.len, data := data } (List.range n) s
    | none =>
      sendMessages k dest { op := if r.reduce then 2 else 1, dtype := r.dtype, redOp := r.redOp, opLen := r.len,
                            gaddr := r.gaddr } data (List.range n) s
  settleOp k s

/-- R200, R285, R288: a PUT, PUT_REDUCE or SIGNAL is issued: its source is read at the point of visibility. -/
def issuePut (e : Engine) (r : PutReq) (s : State) : State :=
  let dest := gaDevice r.gaddr
  let a := engineRead e r.src r.len s
  if !isSelf s dest && !hasRoute s dest then deliver r.client .eUnreachable 0 0 s
  else match a.err with
    | some st => deliver r.client st 0 0 (failFrame st a.s)
    | none => if isSelf s dest then putSelf r a.bytes a.s else putFar r a.bytes a.s

/-- R297: a GET is issued: its request goes to the target, or is served here. -/
def issueGet (client : Client) (unit gaddr len handle off : Nat) (s : State) : State :=
  let dest := gaDevice gaddr
  let loc := regionAddr s handle off
  let epoch := ((handleRegion s handle).map (·.epoch)).getD 0
  let reply := packBits [(63, 50, selfId s), (49, 42, epoch), (39, 0, loc)]
  if isSelf s dest then
    match arriveCheck gaddr len accRemoteRead s with
    | (some (st, d), s) => deliver client st 0 d s
    | (none, s) =>
      let r := memRead (gaLocal gaddr) len s
      match r.err with
      | some st => deliver client st 0 0 r.s
      | none =>
        match getCheck r.s handle reply len with
        | some (st, d) => deliver client st 0 d r.s
        | none =>
          match targetWrite false 0 0 loc r.bytes r.s with
          | (some st, s) => deliver client st 0 0 s
          | (none, s) => deliver client .sOk len 0 s
  else if !hasRoute s dest then deliver client .eUnreachable 0 0 s
  else
    let (k, s) := newOp
      { op := 3, client := client, unit := unit, dest := dest, addr := gaLocal gaddr, open_ := 1, value := len, getLeft := len,
        getRegion := handle, getAddr := reply, getLen := len } s
    sendMessage k dest { op := 0x03, opLen := len, gaddr := gaddr } (leBytes 8 reply) s

/-- R297: an atomic is issued: OP 5 with its operand, or OP 6 with the values compared and stored. -/
def issueAtomic (client : Client) (unit op dtype gaddr a b : Nat) (s : State) : State :=
  let dest := gaDevice gaddr
  let f := fun old => if op = 5 then fetchAddResult dtype old a else if old = a then b else old
  if isSelf s dest then
    match targetAtomic gaddr f s with
    | (some (st, d), _, s) => deliver client st 0 d s
    | (none, old, s) => deliver client .sOk old 0 s
  else if !hasRoute s dest then deliver client .eUnreachable 0 0 s
  else
    let (k, s) := newOp { op := op, client := client, unit := unit, dest := dest, addr := gaLocal gaddr, len := 8, open_ := 1 } s
    sendMessage k dest { op := op, dtype := dtype, opLen := 8, gaddr := gaddr }
      (if op = 5 then leBytes 8 a else leBytes 8 a ++ leBytes 8 b) s

/-! ### Changing tables -/

/-- R298: a change of tables alters the entry of a destination. -/
def routeChanges (s : State) (t : Tables) (dest : Nat) : Bool :=
  tget t.routes dest != tget s.fab.tables.routes dest

/-- R298: messages whose first packet still waits here: they have not been sent. -/
def unstarted (s : State) : List Nat :=
  s.fab.inject.filterMap fun p =>
    let h := pktHdr p.payload
    if h.index = 0 && !h.resent then some h.msg else none

/-! ### Synchronisation packets -/

/-- R175, R297: the release of a cross-rank pair is reported to the other rank's device. -/
def sendSync (entry frame dest : Nat) (s : State) : State :=
  if isSelf s dest || !hasRoute s dest then s
  else
    let m := freeMsg s
    let s := s.modFab fun f => { f with syncOut := f.syncOut ++ [{ entry := entry, frame := frame, dest := dest, msg := m }] }
    sendAnswer dest { op := 0x0B } (leBytes 4 entry ++ leBytes 8 frame) s

end Sys2Proof.Machine
end

