-- ==== Sys2Proof/Machine/Resilience.lean ====
section
/-!
DEFINITION. Chapter 15: snapshots, the health estimate and the snapshot interval, the input log, and errors of module
flash.
-/

namespace Sys2Proof.Machine

/-! ### Extents -/

/-- Insert a range into a list of ranges that rise and do not meet, keeping each byte once. -/
def addExtent (b n : Nat) : List (Nat × Nat) → List (Nat × Nat)
  | [] => if n = 0 then [] else [(b, n)]
  | (c, m) :: es =>
    if n = 0 then (c, m) :: es
    else if b + n < c then (b, n) :: (c, m) :: es
    else if c + m < b then (c, m) :: addExtent b n es
    else addExtent (min b c) (max (b + n) (c + m) - min b c) es

/-- R375: what a snapshot covers: with FULL everything outside the device's own tables, else every bound region with
WRITE access, each byte once. -/
def snapExtents (s : State) (full : Bool) : List (Nat × Nat) :=
  if full then [(0, tablesBase), (hankTop, localTop - hankTop)]
  else s.bob.region.foldl (fun es e =>
    if e.2.bound && !e.2.system && e.2.access.getLsbD accWrite then addExtent e.2.base e.2.size es else es) []

/-- The bytes of a list of ranges. -/
def extentBytes (es : List (Nat × Nat)) : Nat :=
  (es.map (·.2)).sum

/-- An address lies in one of the ranges. -/
def inExtents (es : List (Nat × Nat)) (a : Nat) : Bool :=
  es.any fun e => e.1 ≤ a && a < e.1 + e.2

/-- The part of a range of undefined contents that lies in an extent. -/
def clipExt (e : Nat × Nat) (u : UndefExt) : List UndefExt :=
  let lo := max e.1 u.base
  let hi := min (e.1 + e.2) (u.base + u.len)
  if lo < hi then [{ u with base := lo, len := hi - lo }] else []

/-! ### Taking a snapshot -/

/-- R374: the snapshot area, in bytes. -/
def snapArea : Nat :=
  6080 * 2 ^ 30

/-- R376, R386: bytes free in the snapshot area. -/
def snapFree (ss : List Snap) : Nat :=
  snapArea - (ss.map (·.size)).sum

/-- R376: the snapshots left once the oldest have been deleted until `need` bytes are free; the newest complete one is
never deleted. `none` where that is not enough. -/
def makeRoom (need : Nat) : List Snap → Option (List Snap)
  | [] => if need ≤ snapArea then some [] else none
  | x :: xs =>
    if need ≤ snapFree (x :: xs) then some (x :: xs)
    else if xs.any (·.complete) || !x.complete then makeRoom need xs
    else none

/-- R386: a snapshot or restore has failed. -/
def snapFailed (s : State) : State :=
  s.modRes fun r => { r with snapFail := true }

/-- R376 step 1: room is made and the job waits for its consistent point; the status where it cannot be taken. -/
def beginSnapshot (full auto : Bool) (label : Nat) (m : Option Nat) (s : State) : Option Status × State :=
  if s.res.flashRo then (some .eFlash, snapFailed s)
  else match makeRoom (extentBytes (snapExtents s full)) s.res.snaps with
    | none => (some .eFlashFull, snapFailed s)
    | some ss =>
      (none, s.modRes fun r =>
        { r with snaps := ss, job := some { full := full, label := label, auto := auto, mbx := m, asked := noProgram s } })

/-- R376, R381: `snapshot.take`; while an automatic snapshot is being taken it waits for the flash (R239's class). -/
def snapshotTake (m : Nat) (r : MbxReq) (s : State) : State :=
  match beginSnapshot ((fieldOf r.params 0 2).testBit 0) false (fieldOf r.params 8 8) (some m) s with
  | (some st, s) => failMbx m st 0 s
  | (none, s) => s.modMbx m fun b => { b with started := true }

/-- SNAPSHOT_TAKE (R376). -/
def execSnapshotTake (mbx : MbxId) (s : State) : Host.Outcome State Fault Refusal :=
  .next (if s.res.job.isSome then s else casbomi 0x0080 mbx (snapshotTake mbx) s)

/-- R61, R375: the frame index with which the program goes on from here: a pause frame has not advanced it. -/
def resumeIndex (s : State) : Nat :=
  match s.frm.suspended, s.frm.image with
  | some (i, _), _ => i
  | none, some img => if s.frm.prog = .running then (s.frm.index + 1) % img.hdr.frames else s.frm.index
  | none, none => s.frm.index

/-- R375, R376: at the consistent point the dirty lines of every cache go to their points of visibility, and the
contents are those of this moment. -/
def captureSnapshot (j : SnapJob) (s : State) : State :=
  let s := cleanAll 3 (cleanAll 2 (cleanAll 1 (cleanAll 0 s)))
  let es := snapExtents s j.full
  let snap : Snap :=
    { id := s.frm.number, full := j.full, label := j.label, auto := j.auto, size := extentBytes es, extents := es,
      data := s.mem.filter fun e => inExtents es e.1, undef := s.undef.flatMap fun u => es.flatMap fun e => clipExt e u,
      regions := s.bob.region.filter fun e => !e.2.system, place := s.hnk.place, index := resumeIndex s, seqs := s.skn.seq,
      tag := s.frm.imageTag, meas := (s.frm.image.map (·.meas)).getD [], fwMajor := s.fly.fwMajor,
      numgen := bitsOf s.pkg.pkgCap.toNat 23 20 }
  s.modRes fun r => { r with snaps := r.snaps ++ [snap], job := some { j with copying := some snap.id } }

/-- R376: a frame starts: it is the consistent point of a snapshot that waits, if no program runs or it is the pause
frame that was asked for. -/
def snapFrame (s : State) : State :=
  match s.res.job with
  | some j => if j.copying.isNone && (noProgram s || (j.asked && s.frm.pause)) then captureSnapshot j s else s
  | none => s

/-- R382: T in ms from twice the product C times M, given as a fraction in square ms: rounded to 10 ms as in the worked
example, and clamped to 60 s to 24 hours. -/
def intervalOf (num den : Nat) : Nat :=
  min (max (10 * ((isqrt 64 (4 * num / (100 * den)) + 1) / 2)) 60000) 86400000

/-- R382: T in force: an hour before any `fail.feed`. -/
def snapInterval (s : State) : Nat :=
  match s.res.feed with
  | none => 3600000
  | some (mtbf, devs) =>
    match s.res.lastAutoMs with
    | some c => intervalOf (2 * c * mtbf) devs
    | none => intervalOf (2 * extentBytes (snapExtents s false) * mtbf) (28000000 * devs)

/-- SNAPSHOT_COPY_DONE (R376): after `ms` of copying the snapshot is complete, and the pause frames end. -/
def execSnapshotCopyDone (ms : Nat) (s : State) : Host.Outcome State Fault Refusal :=
  .next (
    match s.res.job with
    | none => s
    | some j =>
      match j.copying with
      | none => s
      | some id =>
        let size := ((s.res.snaps.find? fun x => !x.complete).map (·.size)).getD 0
        let s := s.modRes fun r =>
          { r with snaps := r.snaps.map (fun x => { x with complete := true }), snapLast := id, job := none, written := r.written + size,
                   healthMax := r.health, lastAutoMs := if j.auto then some ms else r.lastAutoMs }
        let s := if j.auto then s.modRes fun r => { r with interval := snapInterval s } else s
        match j.mbx with
        | some m => completeMbx m .sOk 0 (leBytes 8 id ++ leBytes 8 size) s
        | none => s)

/-! ### Automatic snapshots -/

/-- R381: the system size n. -/
def systemSize (s : State) : Nat :=
  match s.res.feed with
  | some (_, devs) => devs
  | none => (s.top.plan.map (·.domainSize)).getD 0

/-- R382: F_T, the frames between two automatic snapshots. -/
def snapFrames (s : State) : Nat :=
  ceilDiv (s.res.interval * 1000) ((s.frm.image.map (·.hdr.periodUs)).getD 50)

/-- R381: the moment an automatic snapshot is due: by health, or at a multiple of F_T. -/
def autoIsDue (s : State) : Bool :=
  if systemSize s ≤ 256 then s.res.autoDue
  else snapFrames s != 0 && s.frm.number % snapFrames s == 0

/-- AUTO_SNAPSHOT (R381): while an image runs; FULL clear, LABEL zero. -/
def execAutoSnapshot (s : State) : Host.Outcome State Fault Refusal :=
  .next (if s.frm.prog == .running && s.res.job.isNone && autoIsDue s then
    (beginSnapshot false true 0 none (s.modRes fun r => { r with autoDue := false })).2 else s)

/-- R381: compute dies in Throttle. -/
def throttledDies (s : State) : Nat :=
  ((List.range 4).filter fun d => (s.thmDieAt d).band == .throttle).length

/-- R381: wavelengths whose bank margin is below 2.5 dB. -/
def lowWavelengths (s : State) : Nat :=
  (s.opt.bank.toList.map fun b => (b.laser.toList.filter fun l => (l.margin.map fun v => decide (v < 250)).getD false).length).sum

/-- R381: the recomputations of H in an hour, one every 100 ms. -/
def hourTicks : Nat :=
  36000

/-- R381: another 100 ms have passed for the actions of a window of `n` recomputations. -/
def ageActions (n : Nat) (xs : List Nat) : List Nat :=
  (xs.map (· + 1)).filter (· < n)

/-- R381: the health estimate H. -/
def healthOf (s : State) : Nat :=
  min 255 (16 * s.res.recent2.length + 64 * s.res.recent3.length + 32 * throttledDies s + 32 * lowWavelengths s)

/-- HEALTH_RECOMPUTE (R381): every 100 ms H is recomputed from the level-2 actions of the last hour and the level-3 actions
of the last 24 hours. A health snapshot is due when H reaches 128 from below while an image runs, a further one only once H
has fallen below 96 or an hour has passed. -/
def healthRecompute (s : State) : State :=
  let h := healthOf s
  let armed := s.res.healthArmed || h < 96 || hourTicks ≤ s.res.healthAge
  let due := s.frm.prog == .running && s.res.health < 128 && 128 ≤ h && armed
  s.modRes fun r =>
    { r with health := h, healthMax := max r.healthMax h, healthArmed := armed && !due, autoDue := r.autoDue || due
             recent2 := ageActions hourTicks r.recent2, recent3 := ageActions (24 * hourTicks) r.recent3
             healthAge := if due then 0 else min (r.healthAge + 1) 65535 }

/-- HEALTH_RECOMPUTE (R381); the row has no fields, and its three operands carry nothing. -/
def execHealthRecompute (_l2 _l3 _hour : Unit) (s : State) : Host.Outcome State Fault Refusal :=
  .next (healthRecompute s)

/-- R382: `fail.feed`; a write of device records. -/
def failFeed (m : Nat) (r : MbxReq) (s : State) : State :=
  let mtbf := fieldOf r.params 0 8
  let devs := fieldOf r.params 8 2
  if mtbf = 0 then failMbx m .eCommand 0x10 s
  else if devs = 0 then failMbx m .eCommand 0x18 s
  else if s.res.flashRo then failMbx m .eFlash 0 s
  else
    let s := s.modRes fun x => { x with feed := some (mtbf, devs) }
    let s := s.modRes fun x => { x with interval := snapInterval s }
    completeMbx m .sOk 0 (leBytes 8 s.res.interval) s

/-- FAIL_FEED (R382). -/
def execFailFeed (mbx : MbxId) (s : State) : Host.Outcome State Fault Refusal :=
  .next (casbomi 0x0083 mbx (failFeed mbx) s)

/-! ### The input log -/

/-- R383: `bs` padded to a multiple of 64 bytes. -/
def pad64 (bs : List Byte) : List Byte :=
  fitBytes (roundUp bs.length 64) bs

/-- R186, R383: the bytes of the staging area that staged records take. -/
def stagedBytes (s : State) : Nat :=
  (s.res.staged.map (·.bytes.length)).sum

/-- R383: the staging area has room for the next frame's record with `n` more bytes of rows. -/
def logRoom (s : State) (n : Nat) : Bool :=
  stagedBytes s + 32 + n ≤ 0xC00000

/-- R383: the record of the frame in progress. -/
def logRecord (s : State) : LogRec :=
  let body := s.res.logRows ++ s.res.logInputs
  { frame := s.frm.number,
    bytes := leBytes 8 s.frm.number ++ leBytes 2 s.frm.index ++ leBytes 2 s.res.logRowCount
      ++ leBytes 4 (32 + body.length) ++ leBytes 8 s.frm.imageTag ++ List.replicate 8 0 ++ body }

/-- R383: at the hold point of a non-pause frame of a program its record is staged. -/
def stageLog (s : State) : State :=
  if s.frm.prog == .running && s.frm.runFrame && !s.frm.pause then
    s.modRes fun r => { r with staged := r.staged ++ [logRecord s], logRows := [], logRowCount := 0, logInputs := [] }
  else s

/-- R374, R383: the newest records of a log that its 1 TiB holds. -/
def logTrim : List LogRec → List LogRec
  | [] => []
  | r :: rs => if ((r :: rs).map (·.bytes.length)).sum ≤ 2 ^ 40 then r :: rs else logTrim rs

/-- LOG_DRAIN (R383): the oldest staged record goes to module flash; a read-only flash takes none. -/
def execLogDrain (s : State) : Host.Outcome State Fault Refusal :=
  .next (
    match s.res.staged with
    | [] => s
    | x :: xs =>
      if s.res.flashRo || !s.pkg.flyerRuns then s
      else s.modRes fun r => { r with staged := xs, log := logTrim (r.log ++ [x]),
                                      written := r.written + x.bytes.length })

/-- R384: as many whole records, `count` at most, as fit in `room` bytes. -/
def logTake : Nat → Nat → List LogRec → List LogRec
  | 0, _, _ => []
  | _, _, [] => []
  | n + 1, room, r :: rs => if r.bytes.length ≤ room then r :: logTake n (room - r.bytes.length) rs else []

/-- R384: the reply of `log.read`: FRAMES, BYTES. -/
def logReply (rs : List LogRec) : List Byte :=
  leBytes 4 rs.length ++ leBytes 8 ((rs.map (·.bytes.length)).sum)

/-- R384: `log.read`. -/
def logRead (m : Nat) (r : MbxReq) (s : State) : State :=
  let first := fieldOf r.params 0 8
  let count := fieldOf r.params 8 4
  let h := fieldOf r.params 12 4
  let off := fieldOf r.params 16 8
  let held := s.res.log.dropWhile fun x => x.frame != first
  if held.isEmpty then failMbx m .eLogRange 0 s
  else if h = 0 then
    if !cacheOn s then failMbx m .eHostLink 0 s
    else
      let rs := held.take count
      completeMbx m .sOk 0 (logReply rs) (s.emit (.cacheReq 5 off (rs.flatMap (·.bytes))))
  else
    let why := handleReason s h (anyTenant s h) accWrite
    let rs := logTake count (((handleRegion s h).map (·.size)).getD 0 - off) held
    if why ≠ 0 then failMbx m .eRegion (256 + why) s
    else if count ≠ 0 && rs.isEmpty then failMbx m .eBounds 1 s
    else
      let w := flyerWrite (regionAddr s h off) (rs.flatMap (·.bytes)) s
      match w.err with
      | some st => failMbx m st 0 w.s
      | none => completeMbx m .sOk 0 (logReply rs) w.s

/-- LOG_READ (R384). -/
def execLogRead (mbx : MbxId) (s : State) : Host.Outcome State Fault Refusal :=
  .next (casbomi 0x0084 mbx (logRead mbx) s)

/-! ### Errors of module flash -/

/-- R373: the commands whose flash writes go to an area. -/
def areaCommands : FlashArea → List Nat
  | .records => [0x0083, 0x0092]
  | .log => [0x0084]
  | .staging => []
  | .snapshots => [0x0080, 0x0081]
  | .slots => [0x0090]

/-- R373: the mailbox whose command in progress uses an area now. -/
def areaMailbox (s : State) (area : FlashArea) : Option Nat :=
  (List.range 64).find? fun m =>
    match (s.mbxAt m).req with
    | some r => (areaCommands area).contains r.command && (s.mbxAt m).phase == .inProgress && !waitsClass s m
    | none => false

/-- R373, R376: the operation that a flash error meets ends with E_FLASH; a snapshot that is being taken is deleted. -/
def flashOperation (area : FlashArea) (s : State) : State :=
  let s := match areaMailbox s area with
    | some m => failMbx m .eFlash 0 (undoCommand (((s.mbxAt m).req.map (·.command)).getD 0) s)
    | none => s
  if area = .snapshots then
    snapFailed (s.modRes fun r => { r with job := none, snaps := r.snaps.filter (·.complete) })
  else s

/-- FLASH_ERROR (R373): the operation completes with E_FLASH, the write is retried on another block, and the failing
block is retired; with the spare pool used up the flash is read-only from then on. -/
def execFlashError (area : FlashArea) (s : State) : Host.Outcome State Fault Refusal :=
  .next (
    let s := winBump 48 0 0 (flashOperation area s)
    let spare := s.res.retired < Config.flashSpares
    let s := s.modRes fun r =>
      { r with flashErr := true, flashRo := r.flashRo || !spare, retired := if spare then r.retired + 1 else r.retired }
    escalate { row := 48, count := winCount s 48 0 0, l2 := spare, l3 := spare } s)

end Sys2Proof.Machine
end

