-- ==== Sys2Proof/Machine/Commands.lean ====
section
/-!
DEFINITION. Chapter 7: commands: their checks, their selection and their effects, completions, and the rows that a frame
program serves (R197-R209, R433).
-/

namespace Sys2Proof.Machine

/-! ### Entries -/

/-- R197: the fields of a command's entry. -/
def cOp (e : List Byte) : Nat := fieldOf e 0 1
def cFence (e : List Byte) : Bool := bitOf (fieldOf e 1 1) 0
def cQuiet (e : List Byte) : Bool := bitOf (fieldOf e 1 1) 1
def cUser (e : List Byte) : Nat := fieldOf e 8 8

/-- R197: where the operands of an opcode end, `none` for an unknown opcode. -/
def operandEnd : Nat → Option Nat
  | 0x00 => some 0x10 | 0x01 => some 0x2C | 0x02 => some 0x28 | 0x10 => some 0x28 | 0x11 => some 0x28
  | 0x12 => some 0x2A | 0x13 => some 0x21 | 0x14 => some 0x28 | 0x15 => some 0x38 | 0x20 => some 0x40
  | _ => none

/-- R197, R198: the lengths of a command: where they lie. -/
def lengthFields : Nat → List Nat
  | 0x01 => [0x28] | 0x02 | 0x10 | 0x11 | 0x12 => [0x14] | 0x20 => [0x14, 0x24]
  | _ => []

/-- R198: a command that has lengths, every one of them zero. -/
def zeroLength (e : List Byte) : Bool :=
  let fs := lengthFields (cOp e)
  !fs.isEmpty && fs.all fun o => fieldOf e o 4 == 0

/-- R199 check 1, its reserved part: the offset of the first reserved byte that is not zero, or of FLAGS. -/
def reservedBad (e : List Byte) (stop : Nat) : List Nat :=
  (if 4 ≤ fieldOf e 1 1 then [1] else []) ++ (if fieldOf e 2 6 ≠ 0 then [2] else []) ++
    (if cOp e = 0x20 && fieldOf e 0x34 4 ≠ 0 then [0x34] else []) ++
    (if fieldOf e stop (0x40 - stop) ≠ 0 then [stop] else [])

/-- R199 check 1: global address bits [41:40] are not zero. -/
def gaBad (e : List Byte) (off : Nat) : List Nat :=
  if bitsOf (fieldOf e off 8) 41 40 ≠ 0 then [off] else []

/-- R199 check 1: a field is not a multiple of `n`. -/
def alignBad (e : List Byte) (off len n : Nat) : List Nat :=
  if fieldOf e off len % n ≠ 0 then [off] else []

/-- R199 check 1: the offsets of bad operands of an opcode. -/
def operandBad (e : List Byte) : List Nat :=
  match cOp e with
  | 0x10 | 0x11 => gaBad e 0x20
  | 0x12 =>
    let size := ((elemFmt (fieldOf e 0x29 1)).map elemBytes).getD 1
    alignBad e 0x14 4 size ++ alignBad e 0x18 8 size ++ alignBad e 0x20 8 size ++ gaBad e 0x20 ++
      (if 2 < fieldOf e 0x28 1 then [0x28] else []) ++ (if (elemFmt (fieldOf e 0x29 1)).isNone then [0x29] else [])
  | 0x13 =>
    alignBad e 0x10 8 8 ++ gaBad e 0x10 ++
      (if fieldOf e 0x20 1 ≠ 0x04 && fieldOf e 0x20 1 ≠ 0x41 then [0x20] else [])
  | 0x14 => alignBad e 0x10 8 8 ++ gaBad e 0x10
  | 0x15 =>
    gaBad e 0x20 ++ gaBad e 0x28 ++ alignBad e 0x28 8 8 ++
      (if gaDevice (fieldOf e 0x20 8) ≠ gaDevice (fieldOf e 0x28 8) then [0x28] else [])
  | _ => []

/-- The least of a list of offsets. -/
def firstOf (xs : List Nat) : Option Nat :=
  xs.foldl (fun a x => some ((a.map (min · x)).getD x)) none

/-- R198, R288: what a zero-length command is checked for beside its OPCODE and reserved fields: the reserved bits of its
global address. -/
def zeroBad (e : List Byte) : List Nat :=
  if cOp e = 0x10 || cOp e = 0x11 || cOp e = 0x12 then gaBad e 0x20 else []

/-- R199 check 1: the byte offset of the first bad field; a zero-length command is checked for its OPCODE and reserved
bits alone (R198). -/
def entryBad (e : List Byte) : Option Nat :=
  match operandEnd (cOp e) with
  | none => some 0
  | some stop => firstOf (reservedBad e stop ++ if zeroLength e then zeroBad e else operandBad e)

/-- R197-R199: the local operands of a command. -/
def localOperands (e : List Byte) : List Operand :=
  let h0 := fieldOf e 0x10 4
  let n := fieldOf e 0x14 4
  match cOp e with
  | 0x01 => [⟨1, h0, fieldOf e 0x18 8, fieldOf e 0x28 4, accRead⟩,
             ⟨2, fieldOf e 0x14 4, fieldOf e 0x20 8, fieldOf e 0x28 4, accWrite⟩]
  | 0x02 => [⟨2, h0, fieldOf e 0x18 8, n, accWrite⟩]
  | 0x10 | 0x12 => [⟨1, h0, fieldOf e 0x18 8, n, accRead⟩]
  | 0x11 => [⟨2, h0, fieldOf e 0x18 8, n, accWrite⟩]
  | 0x15 => if n = 0 then [] else [⟨1, h0, fieldOf e 0x18 8, n, accRead⟩]
  | 0x20 =>
    [⟨1, h0, fieldOf e 0x18 8, n, accRead⟩, ⟨2, fieldOf e 0x20 4, fieldOf e 0x28 8, fieldOf e 0x24 4, accWrite⟩] ++
      if fieldOf e 0x30 4 = 0 then [] else [⟨3, fieldOf e 0x30 4, fieldOf e 0x38 8, 64, accRead⟩]
  | _ => []

/-- R199 check 5: a COPY within one region whose extents overlap. -/
def copyOverlap (e : List Byte) : Bool :=
  cOp e == 0x01 && fieldOf e 0x10 4 == fieldOf e 0x14 4 &&
    overlaps (fieldOf e 0x18 8) (fieldOf e 0x28 4) (fieldOf e 0x20 8) (fieldOf e 0x28 4)

/-- R199: the checks of a command that starts, in order; `none` lets it run. -/
def commandCheck (s : State) (tenant : Nat) (e : List Byte) : Option (Status × Nat) :=
  match entryBad e with
  | some off => some (.eCommand, off)
  | none =>
    if zeroLength e then some (.sOk, 0)
    else checkOperands s (some tenant) (localOperands e) <|> if copyOverlap e then some (.eCommand, 0x10) else none

/-- The local ranges of a command's operands with an access. -/
def operandRanges (s : State) (e : List Byte) (acc : Nat) : List (Nat × Nat) :=
  ((localOperands e).filter fun o => o.acc == acc).map fun o => (regionAddr s o.handle o.off, o.len)

/-- R207: EPOCH of the region that a command writes, or zero where it writes no byte. -/
def epochWritten (s : State) (e : List Byte) : Nat :=
  (((localOperands e).find? fun o => o.acc == accWrite && o.len != 0).bind fun o =>
    (handleRegion s o.handle).map (·.epoch)).getD 0

/-- R170, R177: the host's release over each of a list of ranges. -/
def hostReleases : List (Nat × Nat) → State → State
  | [], s => s
  | r :: rs, s => hostReleases rs (hostRelease r.1 r.2 s)

/-- R169, R177: the host's acquire over each of a list of ranges. -/
def hostAcquires : List (Nat × Nat) → State → State
  | [], s => s
  | r :: rs, s => hostAcquires rs (hostAcquire r.1 r.2 s)

/-- R169, R170: a snoop of a line of one of the ranges has not been answered. -/
def rangesPending (s : State) (rs : List (Nat × Nat)) : Bool :=
  rs.any fun r => hostPending s r.1 r.2

/-! ### Starting -/

/-- R201: the lowest free tag of a range of tags. -/
def freeTag (s : State) (lo hi : Nat) : Option Nat :=
  let n := s.bob.tag.length + 1
  ((List.range (min n (hi - lo))).map (· + lo)).find? fun t => (s.tagAt t).isNone

/-- R201: the lowest free non-row tag. -/
def freeCommandTag (s : State) : Option Nat :=
  freeTag s 0x1000 0x4000

/-- R203: the head entry of a queue's ring may be read now. -/
def headReadable (s : State) (q : Queue) : Bool :=
  (q.cls == .request || q.cls == .peer) && q.enabled && ringUsed q != 0 &&
    !hostPending s (entryAddr s q q.head) 64 && (accessRefused s (entryAddr s q q.head) 64).isNone

/-- R433: the head entry lies in an uncorrectable block. -/
def headBad (s : State) (q : Queue) : Bool :=
  isUe s (entryAddr s q q.head / 64)

/-- R197: the bytes of the head entry. -/
def headEntry (s : State) (q : Queue) : List Byte :=
  readBytes s (entryAddr s q q.head) 64

/-- R202: a command with FENCE starts only when every earlier command of its queue has completed. -/
def fenceOpen (s : State) (q : Queue) : Bool :=
  !cFence (headEntry s q) || q.inflight == 0

/-- R202, R203: the head command of a queue can start now as a command that is no row. -/
def canStart (s : State) (i : Nat) : Bool :=
  let q := s.queueAt i
  headReadable s q && (headBad s q || (cOp (headEntry s q) != 0x20 && fenceOpen s q))

/-- R202, R204: the head command of a queue is a ROW that may be admitted now. -/
def canAdmit (s : State) (i : Nat) : Bool :=
  let q := s.queueAt i
  headReadable s q && !headBad s q && cOp (headEntry s q) == 0x20 && fenceOpen s q

/-- R203: the queue with the largest credit, lowest number on ties. -/
def richest (s : State) : List Nat → Option Nat
  | [] => none
  | q :: qs =>
    match richest s qs with
    | none => some q
    | some p => if (s.queueAt q).credit < (s.queueAt p).credit then some p else some q

/-- R203: every queue of a set gains its weight in credit. -/
def gainCredit : List Nat → State → State
  | [], s => s
  | q :: qs, s => gainCredit qs (s.modQueue q fun d => { d with credit := d.credit + d.weight })

/-- R203: strict priority across levels, weighted credit within one, over eligible queues in ascending order. -/
def selectQueue (elig : List Nat) (s : State) : Option Nat × State :=
  match [7, 6, 5, 4, 3, 2, 1, 0].find? fun lvl => elig.any fun q => (s.queueAt q).prio == lvl with
  | none => (none, s)
  | some lvl =>
    let set := elig.filter fun q => (s.queueAt q).prio == lvl
    let total := (set.map fun q => (s.queueAt q).weight).sum
    let s := gainCredit set s
    match richest s set with
    | none => (none, s)
    | some q => (some q, s.modQueue q fun d => { d with credit := d.credit - total })

/-- R202, R203: the head entry of a queue is consumed; the credit of a queue whose ring becomes empty is 0. -/
def consumeHead (i : Nat) (s : State) : State :=
  s.modQueue i fun q =>
    let q := { q with head := wrapInc 32 q.head }
    if ringUsed q = 0 then { q with credit := 0 } else q

/-- R201: a command takes a tag. -/
def takeTag (tag i : Nat) (e : List Byte) (s : State) : State :=
  let c : Cmd := { queue := i, epoch := (s.queueAt i).epoch, entry := e, wroteEpoch := epochWritten s e }
  forgetSpill (· == .command tag) ((s.modTag tag fun _ => some c).modQueue i fun q => { q with inflight := q.inflight + 1 })

/-- R433: an entry in an uncorrectable block is consumed as a command that completes with E_DATA_ERROR; no frame
fails. -/
def startBad (tag i : Nat) (s : State) : State :=
  let s := recordUe (entryAddr s (s.queueAt i) (s.queueAt i).head / 64) s
  let s := takeTag tag i (List.replicate 64 0) (consumeHead i s)
  endCommand tag .eDataError 0 0 (s.modTag tag fun o => o.map fun c => { c with ringError := true, wroteEpoch := 0 })

/-- R199, R203: a queue starts its head command: it takes a tag and is checked; one that fails a check completes at
once. -/
def startCommand (tag i : Nat) (s : State) : State :=
  let q := s.queueAt i
  if headBad s q then startBad tag i s
  else
    let e := headEntry s q
    let s := takeTag tag i e (consumeHead i s)
    match commandCheck s q.tenant e with
    | some (st, d) => endCommand tag st 0 d s
    | none => hostReleases (operandRanges s e accRead) s

/-- R43, R203: the device starts commands. -/
def commandsRun (s : State) : Bool :=
  s.pkg.devState != .off && s.pkg.devState != .boot && !s.pkg.computeReset

/-- COMMAND_SELECT (R203). -/
def execCommandSelect (s : State) : Host.Outcome State Fault Refusal :=
  .next (
    match freeCommandTag s with
    | none => s
    | some tag =>
      if !commandsRun s then s
      else match selectQueue ((tkeys s.bob.queue).filter (canStart s)) s with
        | (none, s) => s
        | (some i, s) => startCommand tag i s)

/-! ### The commands -/

/-- The command that a tag holds, where it has this opcode, has not ended or been sent, and its inputs have come back
from the host (R177). -/
def runnable (s : State) (tag op : Nat) : Option (List Byte) :=
  match s.tagAt tag with
  | none => none
  | some c =>
    if c.result.isNone && !c.sent && cOp c.entry == op && !rangesPending s (operandRanges s c.entry accRead) then
      some c.entry
    else none

/-- R205: what the command has written, for its completion. -/
def noteWrote (tag : Nat) (r : Nat × Nat) (s : State) : State :=
  s.modTag tag fun o => o.map fun c => { c with wrote := c.wrote ++ [r] }

/-- R200: a local write of a command: it ends with its status; bytes of a failed write are undefined. -/
def finishWrite (tag a : Nat) (bs : List Byte) (s : State) : State :=
  let w := memWriteAs (.command tag) a bs (noteWrote tag (a, bs.length) s)
  match w.err with
  | some st => endCommand tag st 0 0 (failFrame st (markUndef a bs.length w.s))
  | none => endCommand tag .sOk bs.length 0 w.s

/-- NOP (R197). -/
def execNop (tag : TagId) (s : State) : Host.Outcome State Fault Refusal :=
  .next (match runnable s tag 0x00 with | none => s | some _ => endCommand tag .sOk 0 0 s)

/-- R197, R199: COPY; bytes that two different regions share are undefined. -/
def copyCommand (tag : Nat) (e : List Byte) (s : State) : State :=
  let n := fieldOf e 0x28 4
  let src := regionAddr s (fieldOf e 0x10 4) (fieldOf e 0x18 8)
  let dst := regionAddr s (fieldOf e 0x14 4) (fieldOf e 0x20 8)
  let r := engineRead (.transfer 0 0) src n s
  match r.err with
  | some st => endCommand tag st 0 0 (failFrame st r.s)
  | none =>
    let s := finishWrite tag dst r.bytes r.s
    if overlaps src n dst n then markUndef (max src dst) (min (src + n) (dst + n) - max src dst) s else s

/-- COPY (R197). -/
def execCopy (tag : TagId) (s : State) : Host.Outcome State Fault Refusal :=
  .next (match runnable s tag 0x01 with | none => s | some e => spillGate (.command tag) (copyCommand tag e) s)

/-- FILL (R197): byte i of the range receives byte i mod 8 of PATTERN. -/
def execFill (tag : TagId) (s : State) : Host.Outcome State Fault Refusal :=
  .next (
    match runnable s tag 0x02 with
    | none => s
    | some e =>
      spillGate (.command tag) (finishWrite tag (regionAddr s (fieldOf e 0x10 4) (fieldOf e 0x18 8))
        ((List.range (fieldOf e 0x14 4)).map fun i => e.getD (0x20 + i % 8) 0)) s)

/-- R182: the issuing unit of a command is its queue. -/
def commandUnit (s : State) (tag : Nat) : Nat :=
  ((s.tagAt tag).map (·.queue)).getD 0

/-- R297: a command's operation has been handed to the fabric. -/
def markSent (tag : Nat) (s : State) : State :=
  s.modTag tag fun o => o.map fun c => { c with sent := true }

/-- R197, R200: PUT, PUT_REDUCE and SIGNAL, on the packet class. -/
def putCommand (tag : Nat) (e : List Byte) (s : State) : State :=
  let n := fieldOf e 0x14 4
  if !msgRoom s (pieces n + 1) then s
  else
    issuePut (.transfer 0 0)
      { client := .command tag, unit := commandUnit s tag, reduce := cOp e == 0x12,
        redOp := if cOp e = 0x12 then fieldOf e 0x28 1 else 0, dtype := if cOp e = 0x12 then fieldOf e 0x29 1 else 0,
        gaddr := fieldOf e 0x20 8, len := n, src := regionAddr s (fieldOf e 0x10 4) (fieldOf e 0x18 8),
        incr := if cOp e = 0x15 then some (fieldOf e 0x28 8, fieldOf e 0x30 8) else none }
      (markSent tag s)

/-- PUT (R197). -/
def execPut (tag : TagId) (s : State) : Host.Outcome State Fault Refusal :=
  .next (match runnable s tag 0x10 with | none => s | some e => spillGate (.command tag) (putCommand tag e) s)

/-- PUT_REDUCE (R197). -/
def execPutReduce (tag : TagId) (s : State) : Host.Outcome State Fault Refusal :=
  .next (match runnable s tag 0x12 with | none => s | some e => spillGate (.command tag) (putCommand tag e) s)

/-- SIGNAL (R198). -/
def execSignal (tag : TagId) (s : State) : Host.Outcome State Fault Refusal :=
  .next (match runnable s tag 0x15 with | none => s | some e => spillGate (.command tag) (putCommand tag e) s)

/-- R197, R297: GET. -/
def getCommand (tag : Nat) (e : List Byte) (s : State) : State :=
  let n := fieldOf e 0x14 4
  if !msgRoom s 1 then s
  else
    issueGet (.command tag) (commandUnit s tag) (fieldOf e 0x20 8) n (fieldOf e 0x10 4) (fieldOf e 0x18 8)
      (noteWrote tag (regionAddr s (fieldOf e 0x10 4) (fieldOf e 0x18 8), n) (markSent tag s))

/-- GET (R197). -/
def execGet (tag : TagId) (s : State) : Host.Outcome State Fault Refusal :=
  .next (match runnable s tag 0x11 with | none => s | some e => spillGate (.command tag) (getCommand tag e) s)

/-- FETCH_ADD (R197). -/
def execFetchAdd (tag : TagId) (s : State) : Host.Outcome State Fault Refusal :=
  .next (
    match runnable s tag 0x13 with
    | none => s
    | some e =>
      if !msgRoom s 1 then s
      else spillGate (.command tag) (fun s =>
        issueAtomic (.command tag) (commandUnit s tag) 5 (fieldOf e 0x20 1) (fieldOf e 0x10 8) (fieldOf e 0x18 8) 0
          (markSent tag s)) s)

/-- COMPARE_SWAP (R197). -/
def execCompareSwap (tag : TagId) (s : State) : Host.Outcome State Fault Refusal :=
  .next (
    match runnable s tag 0x14 with
    | none => s
    | some e =>
      if !msgRoom s 1 then s
      else spillGate (.command tag) (fun s =>
        issueAtomic (.command tag) (commandUnit s tag) 6 0 (fieldOf e 0x10 8) (fieldOf e 0x18 8) (fieldOf e 0x20 8)
          (markSent tag s)) s)

/-- ROW (R202, R205, R433): the device reads the entry at the head of a ring. A ROW command waits there for admission;
an entry in an uncorrectable block is consumed. -/
def execRow (queue : QueueId) (s : State) : Host.Outcome State Fault Refusal :=
  .next (
    let q := s.queueAt queue
    match freeCommandTag s with
    | none => s
    | some tag => if commandsRun s && headReadable s q && headBad s q then startBad tag queue s else s)

/-! ### Completions -/

/-- R207: PHASE of entry `i` of a completion ring. -/
def phaseOf (q : Queue) (i : Nat) : Nat :=
  1 - i / 2 ^ q.log2 % 2

/-- R207: the 32 bytes of a completion entry. -/
def completionBytes (s : State) (cq : Queue) (tag : Nat) (c : Cmd) : List Byte :=
  let st := c.result.getD .sOk
  layoutBytes 32
    [(0x00, 2, tag), (0x02, 2, st.code),
     (0x04, 4, packBits [(31, 31, phaseOf cq cq.tail), (27, 20, c.epoch), (19, 0, c.queue)]),
     (0x08, 8, if c.ringError then 0 else cUser c.entry), (0x10, 8, if st.failure then 0 else c.value),
     (0x18, 4, packBits [(23, 16, if st.failure then 0 else c.wroteEpoch), (15, 0, c.detail)]), (0x1C, 4, s.frm.number)]

/-- R201, R204: a tag is free again, and so is the row of a row's tag. -/
def freeCommand (tag : Nat) (c : Cmd) (s : State) : State :=
  let s := s.modBob fun b => { b with tag := tput b.tag tag none, finished := b.finished.erase tag }
  s.modQueue c.queue fun q => { q with inflight := q.inflight - 1 }

/-- R197, R207: a command asks for no completion: QUIET, on success. -/
def quietEnd (c : Cmd) : Bool :=
  cQuiet c.entry && !c.ringError && !(c.result.getD .sOk).failure

/-- R207: an ended command writes no entry: QUIET on success, or discarded after an FLR (R209). -/
def noEntry (c : Cmd) : Bool :=
  c.discard || quietEnd c

/-- R209, R210: a completion that an FLR discards is counted. -/
def countDiscard (c : Cmd) (s : State) : State :=
  if c.discard && !quietEnd c then s.modBob fun b => { b with flrDiscards := wrapInc 32 b.flrDiscards } else s

/-- R207: the entry is written, and the queue's vector sent where the rules ask for it. -/
def writeCompletion (tag : Nat) (c : Cmd) (s : State) : State :=
  let i := (s.queueAt c.queue).link
  let cq := s.queueAt i
  let s := (memWrite (entryAddr s cq cq.tail) (completionBytes s cq tag c) s).s
  let s := s.modQueue i fun q => { q with tail := wrapInc 32 q.tail, headRung := false }
  let s := freeCommand tag c s
  if cq.interrupt && (ringUsed cq == 0 || cq.headRung) then sendVector cq.link s else s

/-- R202, R207: completions are written in order: the tag is the first ended one of its completion queue. -/
def isNextEnded (s : State) (tag : Nat) (c : Cmd) : Bool :=
  let link := (s.queueAt c.queue).link
  (s.bob.finished.find? fun t => ((s.tagAt t).map fun d => (s.queueAt d.queue).link == link).getD false) == some tag

/-- R177, R207: a completion that is due: the host's acquire of what the command wrote first, then the entry, once its
ring has room and its memory can be written. -/
def complete (tag : Nat) (c : Cmd) (s : State) : State :=
  let cq := s.queueAt (s.queueAt c.queue).link
  if noEntry c then freeCommand tag c (countDiscard c s)
  else
    let s := hostAcquires c.wrote s
    if rangesPending s c.wrote || 2 ^ cq.log2 ≤ ringUsed cq || (accessRefused s (entryAddr s cq cq.tail) 32).isSome then s
    else writeCompletion tag c s

/-- COMMAND_COMPLETION (R207). -/
def execCommandCompletion (tag : TagId) (s : State) : Host.Outcome State Fault Refusal :=
  .next (
    match s.tagAt tag with
    | none => s
    | some c => if c.result.isSome && isNextEnded s tag c then complete tag c s else s)

/-! ### Rows -/

/-- R204: the lowest free row. -/
def freeRow (s : State) : Option Nat :=
  freeTag s 0 0x1000

/-- R204: an admission's pick of queue `i` for row `row`: what remains of the entry's ROWS, the queues not considered
again, and the state. -/
def admitPick (row i rows : Nat) (skip : List Nat) (s : State) : (Nat × List Nat) × State :=
  let q := s.queueAt i
  let e := headEntry s q
  match commandCheck s q.tenant e with
  | none =>
    let s := takeTag row i e (consumeHead i s)
    let s := hostReleases (operandRanges s e accRead) s
    ((rows - 1, skip), s.modBob fun b => { b with admitted := b.admitted ++ [row] })
  | some (st, d) =>
    match freeCommandTag s with
    | none => ((rows, i :: skip), s)
    | some tag => ((rows, skip), endCommand tag st 0 d (takeTag tag i e (consumeHead i s)))

/-- R204: a BATCH_SLOTS entry admits until its ROWS are used, no row is free or no ROW command remains. -/
def admitEntry (lo hi : Nat) : Nat → Nat → List Nat → State → State
  | 0, _, _, s => s
  | _, 0, _, s => s
  | fuel + 1, rows, skip, s =>
    let elig := (tkeys s.bob.queue).filter fun q => lo ≤ q && q ≤ hi && !skip.contains q && canAdmit s q
    match freeRow s with
    | none => s
    | some row =>
      match (selectQueue elig s).1 with
      | none => s
      | some i =>
        let r := admitPick row i rows skip (selectQueue elig s).2
        admitEntry lo hi fuel r.1.1 r.1.2 r.2

/-- R204: the entries of a frame index and rank, in section order. -/
def admitEntries : List SlotEntry → State → State
  | [], s => s
  | e :: es, s =>
    let fuel := (s.bob.queue.map fun q => ringUsed q.2).sum + s.bob.queue.length
    admitEntries es (admitEntry e.queueFirst e.queueLast fuel e.rows [] s)

/-- R383: the bytes of the log that the admitted rows take. -/
def admittedBytes (s : State) : Nat :=
  (s.bob.admitted.map fun r =>
    match s.tagAt r with
    | none => 0
    | some c => 64 + roundUp (fieldOf c.entry 0x14 4) 64).sum

/-- R210: a hold point at which no row has been admitted. -/
def noRows (s : State) : State :=
  s.modBob fun b => { b with admitted := [], rowsAdmitted := 0 }

/-- R204, R383: admission into the frame of an index, at the hold point of the frame before; without room for its log
record no row is admitted. -/
def admission (img : Image) (rank index : Nat) (s : State) : State :=
  let s := noRows s
  let t := admitEntries (img.slots.filter fun e => e.frame == index && e.rank == rank) s
  if logRoom t (admittedBytes t) then t.modBob fun b => { b with rowsAdmitted := b.admitted.length }
  else s.modRes fun r => { r with logGap := true }

/-- R205: the record of a row, with a STATE. -/
def rowRecord (row st : Nat) (c : Cmd) : List Byte :=
  overlay (layoutBytes 64
    [(0, 1, st), (1, 1, fieldOf c.entry 1 1), (2, 2, row), (4, 4, packBits [(27, 20, c.epoch), (19, 0, c.queue)])])
    0x10 (sliceBytes c.entry 0x10 48)

/-- R205: the first address of a row's record. -/
def rowAddr (row : Nat) : Nat :=
  rowTable + 64 * row

/-- R206 step 2: a row whose STATE reads 0x3 completes, with the RESULT that the program wrote; its OUTPUT range is
released at PACKAGE scope. -/
def completeRow (row : Nat) (s : State) : State :=
  match s.tagAt row with
  | none => s
  | some c =>
    let outs := operandRanges s c.entry accWrite
    let s := performHeld (fun w => outs.any fun r => overlaps r.1 r.2 w.addr w.bytes.length) s
    let s := outs.foldl (fun s r => walkRange 3 false false r.1 r.2 (walkRange 2 false false r.1 r.2
      (walkRange 1 false false r.1 r.2 (walkRange 0 false false r.1 r.2 s)))) s
    let v := readBytes s (rowAddr row) 16
    let s := s.modTag row fun o => o.map fun c => { c with wrote := outs }
    endCommand row .sOk (fieldOf v 12 4 * 2 ^ 32 + fieldOf v 8 4) 0 s

/-- R206 steps 2 and 3 for one held row: done rows complete and read 0x0, and rows admitted before read 0x2. -/
def ageRow (row : Nat) (s : State) : State :=
  let st := fieldOf (readBytes s (rowAddr row) 1) 0 1
  if st = 3 then writeBytes (rowAddr row) [0] (completeRow row s)
  else if st = 1 then writeBytes (rowAddr row) [2] s
  else s

/-- Each held row in ascending order. -/
def ageRows : List Nat → State → State
  | [], s => s
  | r :: rs, s => ageRows rs (ageRow r s)

/-- R206 step 3: the records of admitted rows are written with STATE 0x1. -/
def writeRows : List Nat → State → State
  | [], s => s
  | r :: rs, s =>
    match s.tagAt r with
    | none => writeRows rs s
    | some c => writeRows rs (memWrite (rowAddr r) (rowRecord r 1 c) s).s

/-- R206: a walk of the row table in every cache, scalar ways and flyer partition. -/
def walkTable (drop : Bool) (s : State) : State :=
  let n := 64 * 4096
  let s := walkRange 3 false drop rowTable n (walkRange 2 false drop rowTable n
    (walkRange 1 false drop rowTable n (walkRange 0 false drop rowTable n s)))
  walkFlyer drop rowTable n s

/-- R206: rows that a tag holds and that have not ended and are not the newly admitted ones. -/
def heldRows (s : State) : List Nat :=
  (tkeys s.bob.tag).filter fun t => t < 0x1000 && !s.bob.admitted.contains t && ((s.tagAt t).map (·.result.isNone)).getD false

/-- R206: the work of the hold lead on the row table. -/
def holdLeadRows (s : State) : State :=
  let s := performHeld (fun w => overlaps rowTable (64 * 4096) w.addr w.bytes.length) s
  let s := ageRows (heldRows s) (walkTable false s)
  walkTable true (writeRows s.bob.admitted s)

/-- R64, R77, R209: held and admitted rows that have not completed end with a status and are freed. -/
def endRows (st : Status) (s : State) : State :=
  let rows := (tkeys s.bob.tag).filter (· < 0x1000)
  let s := endCommands st rows s
  rows.foldl (fun s r => writeBytes (rowAddr r) [0] s) (s.modBob fun b => { b with admitted := [] })

/-- R383: the record and the INPUT bytes of a row. -/
def rowLog (s : State) (row : Nat) : List Byte :=
  match s.tagAt row with
  | none => []
  | some c => rowRecord row 1 c ++ pad64 ((operandRanges s c.entry accRead).head?.map (fun r => readBytes s r.1 r.2) |>.getD [])

/-- R177: the host has not yet handed back lines of an admitted row's input. -/
def rowsPending (s : State) : Bool :=
  s.bob.admitted.any fun row => match s.tagAt row with
    | none => false
    | some c => rangesPending s (operandRanges s c.entry accRead)

/-- R383: the rows admitted into the frame are set down for its log record. -/
def setDownRows (s : State) : State :=
  s.modRes fun r =>
    { r with logRows := s.bob.admitted.flatMap (rowLog s), logRowCount := s.bob.admitted.length, logDue := false }

/-- R177, R383: as a frame begins, its rows are set down, once the host's lines of their inputs have come back. -/
def captureRows (s : State) : State :=
  if rowsPending s then s.modRes fun r => { r with logDue := true } else setDownRows s

/-- R383: rows that still wait to be set down are, at the end of the frame. -/
def setDownDue (s : State) : State :=
  if s.res.logDue then setDownRows s else s

/-- R177, R383: rows that wait to be set down are, once nothing of their inputs is pending. -/
def captureDue (s : State) : State :=
  if s.res.logDue then captureRows s else s

end Sys2Proof.Machine
end

