-- ==== Sys2Proof/Machine/SelfTest.lean ====
section
/-!
DEFINITION. Chapter 17: the units of the in-service test, when they are due, `test.schedule` and `test.status`, and the
debug access. The effect of a test itself is in Testing, after the rows that its failures count in.
-/

namespace Sys2Proof.Machine

/-! ### Units -/

/-- R406: how many units of a KIND there are, and of which die: (dies, units on each). -/
def unitShape : Nat → Nat × Nat
  | 0 => (4, 2) | 1 => (4, 64) | 2 => (4, 260) | 3 => (4, 257) | 4 => (4, 64) | 5 => (4, 16) | 6 => (1, 2048)
  | 7 => (1, 64)
  | _ => (0, 0)

/-- R406: a bank of KIND 0x2 within its die: 130 s + bank, the accumulator banks after the 65 activation banks. -/
def bankUnit (unit : Nat) : Nat × Bool × Nat :=
  (unit / 130, 65 ≤ unit % 130, unit % 130 % 65)

/-- R406, R408: a unit is tested: it exists, its core is not withheld, its bank has not been retired for the spare. -/
def unitTested (s : State) (kind die unit : Nat) : Bool :=
  let sh := unitShape kind
  die < sh.1 && unit < sh.2 &&
    (match kind with
     | 1 | 4 => !(vget s.vec die).withheld.getLsbD unit
     | 2 =>
       let b := bankUnit unit
       let p := vget s.spn (2 * die + b.1)
       (if b.2.1 then p.accSpare else p.abufSpare) != some b.2.2
     | 3 => (vget s.vec die).lsSpare != some unit
     | _ => true)

/-- R407: the segments or words of a unit's test. -/
def unitTotal (kind unit : Nat) : Nat :=
  match kind with
  | 0 => 3 | 1 => 5 | 2 => if (bankUnit unit).2.1 then 4096 else 8192 | 3 => 131072 | 4 => 65536 | 5 => 65536
  | _ => 1

/-- R406: a unit's test in ns at OP7. -/
def unitTopNs (kind unit : Nat) : Nat :=
  match kind with
  | 0 => 12000 | 1 => 20000 | 2 => if (bankUnit unit).2.1 then 19700 else 39300 | 3 => 491500 | 4 => 245800
  | 5 => 262100 | 6 => 4000 | _ => 6000

/-- R36, R406: a unit's test in ns at the operating point that drives its die's clocks: the matrix clock for KIND 0x0 and
0x2, the vector clock for KIND 0x1, 0x3 and 0x4. -/
def unitNs (s : State) (kind die unit : Nat) : Nat :=
  let op := (vget s.pkg.op die).clock
  match kind with
  | 0 | 2 => ceilDiv (unitTopNs kind unit * matrixMhz 7) (matrixMhz op)
  | 1 | 3 | 4 => ceilDiv (unitTopNs kind unit * vectorMhz 7) (vectorMhz op)
  | _ => unitTopNs kind unit

/-- R408: the time that a unit's remaining segments take, in ns. -/
def unitLeftNs (s : State) (kind die unit : Nat) : Nat :=
  let t := unitTotal kind unit
  ceilDiv (unitNs s kind die unit * (t - (s.unitAt (unitKey kind die unit)).progress)) t

/-- R411: the KINDs that a bit of UNITS names. -/
def unitsKinds (units : Nat) : List Nat :=
  (if units.testBit 0 then [0, 2] else []) ++ (if units.testBit 1 then [1, 3, 4, 5] else []) ++
    (if units.testBit 2 then [6] else []) ++ (if units.testBit 3 then [7] else [])

/-- The units of a KIND that are tested. -/
def kindUnits (s : State) (kind : Nat) : List Nat :=
  (List.range (unitShape kind).1).flatMap fun d =>
    ((List.range (unitShape kind).2).filter fun u => unitTested s kind d u).map (unitKey kind d)

/-- R411: the units that UNITS names. -/
def namedUnits (s : State) (units : Nat) : List Nat :=
  (unitsKinds units).flatMap (kindUnits s)

/-- R408, R411: a unit of the running `test.schedule` that has not been tested, from NOT_BEFORE on. -/
def hostWants (s : State) (kind die unit : Nat) : Bool :=
  match s.tst.host with
  | none => false
  | some h =>
    (unitsKinds h.units).contains kind && !h.tested.contains (unitKey kind die unit) &&
      (!s.top.formed || h.notBefore ≤ s.frm.number)

/-- R408: a unit may be tested now: it is due, wants a retest, or a `test.schedule` names it. -/
def unitIsDue (s : State) (kind die unit : Nat) : Bool :=
  let u := s.unitAt (unitKey kind die unit)
  unitTested s kind die unit && (u.due || u.retest || hostWants s kind die unit)

/-- UNIT_DUE (R408): 4 hours after its last test a unit falls due, and 20 hours later it is overdue. -/
def execUnitDue (unit : UnitId) (overdue : Bool) (s : State) : Host.Outcome State Fault Refusal :=
  .next (
    let k := unit.kind.val
    if unitTested s k unit.die unit.unit then
      let h := if overdue then 24 else 4
      let s := s.modUnit (unitKey k unit.die unit.unit) fun u =>
        { u with due := true, overdue := overdue || u.overdue, hours := max h u.hours }
      if k = 0 then s.modSpn (2 * unit.die.val + unit.unit.val) fun p => { p with testHours := max h p.testHours } else s
    else s)

/-- R408: the units that are more than 20 hours overdue, as (kind, die, unit). -/
def overdueUnits (s : State) : List (Nat × Nat × Nat) :=
  s.tst.unit.filterMap fun e =>
    if e.2.overdue then some (e.1 / 524288, e.1 / 65536 % 8, e.1 % 65536) else none

/-- R408: the overdue unit for which the device requests a planned stretch. -/
def overdueUnit (s : State) : Option (Nat × Nat × Nat) :=
  (overdueUnits s).find? fun u => unitTested s u.1 u.2.1 u.2.2

/-! ### test.schedule and test.status -/

/-- R411: `test.schedule`; a second one waits in class TEST (R239). -/
def testSchedule (m : Nat) (r : MbxReq) (s : State) : State :=
  let units := fieldOf r.params 0 2
  if units = 0 || 16 ≤ units then failMbx m .eCommand 0x10 s
  else
    let n := (namedUnits s units).length
    if n = 0 then completeMbx m .sOk 0 [] s
    else
      (s.modMbx m fun b => { b with started := true, stepsDone := 0, stepsTotal := n }).modTst fun t =>
        { t with host := some { mbx := m, units := units, notBefore := fieldOf r.params 8 6, total := n } }

/-- TEST_SCHEDULE (R411). -/
def execTestSchedule (mbx : MbxId) (s : State) : Host.Outcome State Fault Refusal :=
  .next (casbomi 0x00A0 mbx (testSchedule mbx) s)

/-- R412: units due. -/
def dueCount (s : State) : Nat :=
  (s.tst.unit.filter fun e => e.2.due || e.2.retest).length +
    (match s.tst.host with
     | none => 0
     | some h => ((namedUnits s h.units).filter fun k =>
         !h.tested.contains k && !(s.unitAt k).due && !(s.unitAt k).retest).length)

/-- R412: units more than 20 hours overdue. -/
def overdueCount (s : State) : Nat :=
  (s.tst.unit.filter fun e => e.2.overdue).length

/-- R412: hours since the last test of the unit tested longest ago. -/
def hoursMax (s : State) : Nat :=
  s.tst.unit.foldl (fun n e => max n e.2.hours) 0

/-- R108: SPN_SPARE. -/
def spnSpareReg (p : Spindle) : Nat :=
  packBits [(31, 31, bit p.rowUsed.isSome), (30, 30, bit p.colUsed.isSome), (29, 29, bit p.pending.isSome),
    (25, 21, p.rowUsed.getD 0), (20, 16, p.colUsed.getD 0), (9, 5, (p.pending.map (·.1)).getD 0),
    (4, 0, (p.pending.map (·.2)).getD 0)]

/-- R412: the record of `test.status`. -/
def testRecord (s : State) : List Byte :=
  let t := s.tst
  leBytes 2 (min (hoursMax s) 0xFFFF) ++ leBytes 2 (dueCount s) ++ leBytes 2 (overdueCount s)
    ++ leBytes 2 ((t.host.map fun h => h.total - h.tested.length).getD 0) ++ List.replicate 8 0
    ++ ((List.range 8).flatMap fun k => leBytes 4 (vget t.tested k) ++ leBytes 4 (vget t.failed k))
    ++ leBytes 1 t.last.kind ++ leBytes 1 (if 6 ≤ t.last.kind then 0xFF else t.last.die) ++ leBytes 2 0
    ++ leBytes 4 t.last.unit ++ leBytes 8 t.last.frame
    ++ (s.spn.toList.flatMap fun p => leBytes 4 (spnSpareReg p))
    ++ (s.vec.toList.flatMap fun v => leBytes 8 v.withheld.toNat) ++ List.replicate 96 0

/-- TEST_STATUS (R412). -/
def execTestStatus (mbx : MbxId) (s : State) : Host.Outcome State Fault Refusal :=
  .next (casbomi 0x00A1 mbx (fun _ s => completeMbx mbx .sOk 0 (testRecord s) s) s)

/-! ### The debug access -/

/-- R415: one aligned 4-byte access at its point of visibility. -/
def debugAccess (s : State) : State :=
  let a := s.tst.dbgAddr / 4 * 4
  if !mapped a 4 then s.modTst fun t => { t with dbgDone := true, dbgError := true }
  else
    let r := if s.tst.dbgWrite then narrowWrite a (leBytes 4 s.tst.dbgData) s else narrowRead a 4 s
    r.s.modTst fun t =>
      { t with dbgDone := true, dbgError := r.err.isSome,
               dbgData := if t.dbgWrite || r.err.isSome then t.dbgData else leNat r.bytes }

/-- R415: a write of TST_DBG_CTRL, ignored while the debug unlock is not granted. -/
def dbgCtrlWrite (v : Nat) (s : State) : State :=
  if s.sec.debugUnlocked then
    let s := s.modTst fun t => { t with dbgWrite := v.testBit 30 }
    if v.testBit 31 then debugAccess (s.modTst fun t => { t with dbgDone := false, dbgError := false }) else s
  else s

/-- TST_DBG_GO (R415). -/
def execTstDbgGo (value : Word) (s : State) : Host.Outcome State Fault Refusal :=
  .next (if barUp s then dbgCtrlWrite value.toNat s else s)

end Sys2Proof.Machine
end

