-- ==== Sys2Proof/Machine/Steps.lean ====
section
/-!
DEFINITION. How a step of a frame program starts and completes (R61, R106, R118, R172-R179), the releases and acquires of
its SYNC pairs, and the flyer's steps (R245).
-/

namespace Sys2Proof.Machine

/-! ### Units -/

/-- R55, R83: the spindles of a step's unit. -/
def stepSpindles (e : StepEntry) : List Nat :=
  if e.kind ≠ 1 then [] else if e.unit = 0xFF then [2 * e.die, 2 * e.die + 1] else [2 * e.die + e.unit]

/-- R118: the groups of a step's unit. -/
def stepGroups (e : StepEntry) : List Nat :=
  if e.kind ≠ 2 then [] else if e.unit = 0xFF then List.range 8 else [e.unit]

/-- Two steps share a unit that runs one step at a time. -/
def sameUnit (a b : StepEntry) : Bool :=
  a.kind == b.kind && a.die == b.die && (a.kind == 1 || a.kind == 2 || a.kind == 4) &&
    (a.unit == b.unit || a.unit == 0xFF || b.unit == 0xFF)

/-- R118: the cores of a step's unit, by 64n + c. -/
def stepCores (e : StepEntry) : List Nat :=
  (stepGroups e).flatMap fun g => (List.range 8).map fun c => 64 * e.die + 8 * g + c

/-- R164: the transfer engine of a step. -/
def transferEngine (e : StepEntry) : Engine :=
  .transfer (Fin.ofNat 2 (e.die % 4)) (Fin.ofNat 256 e.unit)

/-- R164: the engines of a step. -/
def stepEngines (e : StepEntry) : List Engine :=
  match e.kind with
  | 1 => (stepSpindles e).map fun i => .spindle (Fin.ofNat 8 i)
  | 2 => (stepCores e).map fun c => .vector (Fin.ofNat 256 c)
  | 3 => [transferEngine e]
  | _ => [.flyer]

/-- R164: the engine that stands for a step's unit in a release or an acquire. -/
def stepEngine (e : StepEntry) : Engine :=
  (stepEngines e).headD .flyer

/-- R182: the issuing unit of a transfer step. -/
def transferUnit (e : StepEntry) : Nat :=
  transferUnitOf e.die e.unit

/-! ### SYNC pairs -/

/-- R55: the SYNC entries with their numbers. -/
def syncEntries (img : Image) : List (Nat × SyncEntry) :=
  (List.range img.syncs.length).zip img.syncs

/-- R175: the range of a pair lies on this device: that of the consumer, or of the producer for "produce then fetch". -/
def rangeHere (rank : Nat) (e : SyncEntry) : Bool :=
  e.prodRank == e.consRank || (if e.consKind = 2 then e.prodRank == rank else e.consRank == rank)

/-- R172: the status of a range that does not lie in its region. -/
def rangeBad (s : State) (e : SyncEntry) : Option Status :=
  if (handleRegion s e.region).isNone then some .eRegion
  else if extentFits s e.region e.offset e.length then none else some .eBounds

/-- The local address of a pair's range. -/
def rangeAddr (s : State) (e : SyncEntry) : Nat :=
  regionAddr s e.region e.offset

/-- R174: the producer's frame of a pair, as the consumer's frame in progress sees it; `none` before the start. -/
def prodFrame (s : State) (e : SyncEntry) : Option Nat :=
  s.frm.past[e.delta]?

/-- R174: a pair's release has completed, or none is due before the consumer begins: the host of this device as producer, a
frame before the start, a range that is caught when the pair executes (R172). -/
def pairReady (s : State) (rank : Nat) (p : Nat × SyncEntry) : Bool :=
  (p.2.prodKind == 3 && p.2.prodRank == p.2.consRank) || (rangeHere rank p.2 && (rangeBad s p.2).isSome) ||
    (match prodFrame s p.2 with
     | none => true
     | some f => s.frm.released.contains (p.1, f))

/-- R174: the pairs that a step consumes. -/
def consumed (img : Image) (rank i : Nat) : List (Nat × SyncEntry) :=
  (syncEntries img).filter fun p => p.2.consStep == i && p.2.consRank == rank

/-- R55: the predecessors of a step have completed. -/
def depsDone (s : State) (img : Image) (e : StepEntry) : Bool :=
  (List.range e.depCount).all fun k => s.frm.done.contains (img.deps.getD (e.depFirst + k) 0 % 2 ^ 31)

/-- R47, R174, R179: everything that a step of the frame in progress waits for has come about. -/
def stepReady (s : State) (img : Image) (rank i : Nat) (e : StepEntry) : Bool :=
  !s.frm.done.contains i && !s.frm.ran.contains i && depsDone s img e && (consumed img rank i).all (pairReady s rank)

/-- R106, R118: another step on the unit runs, or a ready one of lower index goes first. -/
def unitTaken (s : State) (img : Image) (rank i : Nat) (e : StepEntry) : Bool :=
  (frameSteps s).any fun j =>
    j != i && (match img.steps[j]? with
      | none => false
      | some d => sameUnit e d && ((s.frm.ran.contains j && !s.frm.done.contains j) || (j < i && stepReady s img rank j d)))

/-- R39, R241, R352, R362: the unit of a step can run: its die's clocks run and its die issues, or the flyer runs. -/
def unitRuns (s : State) (e : StepEntry) : Bool :=
  (if e.kind = 4 then s.pkg.flyerRuns
    else !s.pkg.clocksStopped.getLsbD e.die && !s.pkg.relocking.getLsbD e.die &&
      !(e.die < 4 && (s.pwrDieAt e.die).paused)) &&
    (s.pkg.devState == .running || s.pkg.devState == .deterministic)

/-- R51, R68: the hold lead of the frame in progress, in which no step runs: the hold point has passed, and no hold of this
device's own has moved it, or the next tick has arrived. -/
def inHoldLead (s : State) : Bool :=
  s.frm.next.isSome || (s.frm.replied && s.frm.reqHold = 0)

/-- R408: in a stretched frame a step waits for the test of the overdue unit for which the stretch was requested, where the
step works on that unit. -/
def testFirst (s : State) (e : StepEntry) : Bool :=
  0 < s.frm.cur.stretch &&
    match overdueUnit s with
    | some (0, die, unit) => (stepSpindles e).contains (2 * die + unit)
    | some (2, die, unit) => (stepSpindles e).contains (2 * die + (bankUnit unit).1)
    | some (1, die, unit) | some (4, die, unit) => e.die == die && (stepGroups e).contains (unit / 8)
    | some (3, die, _) | some (5, die, _) => e.die == die && !((stepSpindles e).isEmpty && (stepGroups e).isEmpty)
    | _ => false

/-- A step of the frame in progress of a kind and opcode that can start now, with its image and this device's rank. -/
def startable (s : State) (i kind opcode : Nat) : Option (Image × Nat × StepEntry) :=
  match runningImage s, myRank s, stepOf s i with
  | some img, some rank, some e =>
    if e.kind == kind && e.opcode == opcode && !inHoldLead s && !rowsPending s && unitRuns s e && stepReady s img rank i e
      && !unitTaken s img rank i e && !testFirst s e
      && (!img.hdr.nmx2 || s.frm.barriered.contains i) then some (img, rank, e)
    else none
  | _, _, _ => none

/-- R173, R179: the cache work of a pair is replaced by the implied barriers. -/
def barrierReplaces (img : Image) (e : SyncEntry) : Bool :=
  img.hdr.nmx2 && e.prodRank == e.consRank && e.prodKind != 3 && e.consKind != 3

/-- R173: the consumer's part of a pair: I on the consumer's die, P on every die, else order only. -/
def acquirePart (img : Image) (step : StepEntry) (e : SyncEntry) (s : State) : State :=
  if barrierReplaces img e then s
  else if e.consKind = 1 then acquireOf (stepEngine step) (rangeAddr s e) e.length s
  else if e.consKind = 4 && e.prodKind != 4 then acquireOf .flyer (rangeAddr s e) e.length s
  else countAcquire (stepEngine step) s

/-- R173: the acquires of a list of pairs. -/
def acquireParts (img : Image) (rank : Nat) (step : StepEntry) : List (Nat × SyncEntry) → State → State
  | [], s => s
  | p :: ps, s => acquireParts img rank step ps (if rangeHere rank p.2 then acquirePart img step p.2 s else s)

/-- R174: the producer of a pair is this device's own host, whose release the consumer's acquire begins. -/
def hostProducer (e : SyncEntry) : Bool :=
  e.prodKind == 3 && e.prodRank == e.consRank

/-- R170, R174: the host port's release for the pairs whose producer is the host. -/
def hostParts : List (Nat × SyncEntry) → State → State
  | [], s => s
  | p :: ps, s => hostParts ps (if hostProducer p.2 then hostRelease (rangeAddr s p.2) p.2.length s else s)

/-- R170, R383: a pair whose producer is the host waits: for a snoop, or for room in the input log. -/
def hostWaits (s : State) (p : Nat × SyncEntry) : Bool :=
  hostProducer p.2 &&
    (hostPending s (rangeAddr s p.2) p.2.length ||
      !logRoom s (s.res.logRows.length + s.res.logInputs.length + roundUp p.2.length 64))

/-- R383: the bytes of acquired host ranges are set down for the frame's log record. -/
def logHostParts : List (Nat × SyncEntry) → State → State
  | [], s => s
  | p :: ps, s =>
    logHostParts ps (if hostProducer p.2 then
      s.modRes fun r => { r with logInputs := r.logInputs ++ pad64 (readBytes s (rangeAddr s p.2) p.2.length) } else s)

/-- A step runs: it takes its unit. -/
def takeUnit (i : Nat) (e : StepEntry) (s : State) : State :=
  let s := s.modFrm fun f => { f with ran := f.ran ++ [i] }
  let s := (stepSpindles e).foldl (fun s n => s.modSpn n fun p => { p with busy := some i }) s
  (stepGroups e).foldl (fun s g => s.modVec e.die fun v => { v with group := tput v.group g (some i) }) s

/-- R172-R174: what a step that starts does: its acquires, then its work. -/
def startWork (img : Image) (rank i : Nat) (e : StepEntry) (pairs : List (Nat × SyncEntry))
    (run : Image → StepEntry → List Byte → State → State) (s : State) : State :=
  let s := acquireParts img rank e pairs (logHostParts pairs s)
  let s := s.modFrm fun f => { f with acquired := f.acquired ++ (pairs.map fun p => (p.1, s.frm.number)) }
  run img e (argsOf img e) (takeUnit i e s)

/-- R172-R174, R223: a step starts: the host's releases first, then the acquires, then its work, which may wait for
spilled lines; a range beyond its region ends it with E_BOUNDS before it reads a byte. -/
def startStep (i kind opcode : Nat) (run : Image → StepEntry → List Byte → State → State) (s : State) : State :=
  match startable s i kind opcode with
  | none => s
  | some (img, rank, e) =>
    let pairs := consumed img rank i
    match (pairs.filter fun p => rangeHere rank p.2).findSome? fun p => rangeBad s p.2 with
    | some st => clientError (.step i) st (takeUnit i e s)
    | none =>
      let s := hostParts pairs s
      if pairs.any (hostWaits s) then s else spillGate (.step i) (startWork img rank i e pairs run) s

/-- R172, R199: the status and DETAIL with which the region operands of a step fail: a step is checked for no tenant
(R190). -/
def stepCheck (s : State) (os : List Operand) : Option (Status × Nat) :=
  checkOperands s none os

/-- A step's work behind its region checks; a step that fails one moves no byte. -/
def checkedStep (i : Nat) (os : List Operand) (work : State → State) (s : State) : State :=
  match stepCheck s os with
  | some x => stepError i x.1 x.2 s
  | none => work s

/-! ### Completion -/

/-- R174: a step's remote operations and gathers have not all completed. -/
def stepOpen (s : State) (i : Nat) : Bool :=
  (s.fab.op.any fun e => (e.2.map fun o => o.client == .step i).getD false) ||
    (s.vec.toList.any fun v => v.waiting.any fun w => w.client == .step i) ||
    (s.hp.spillWait.any fun a => a.client == .step i) || (s.hnk.held.any fun x => x.2.client == .step i) ||
    (s.skn.ctx.any fun e => e.2.started && e.2.step == i && e.2.result.isNone)

/-- R118, R135: a group no longer runs a step, whose plies leave their slots. -/
def leaveGroup (die step g : Nat) (s : State) : State :=
  s.modVec die fun v =>
    { v with group := tput v.group g none, plies := v.plies.filter fun x => (x.2.map (·.1)) != some step,
             ended := v.ended.filter fun x => x.1 != step }

/-- A completed step leaves its unit. -/
def leaveUnit (i : Nat) (e : StepEntry) (s : State) : State :=
  let s := (stepSpindles e).foldl (fun s n => s.modSpn n leaveSpindle) s
  (stepGroups e).foldl (fun s g => leaveGroup e.die i g s) s

/-- R135: a completed ATTEND or MERGE step is counted. -/
def countAttention (e : StepEntry) (s : State) : State :=
  if e.kind ≠ 2 then s
  else match e.opcode with
    | 2 => s.modVec e.die fun v => { v with attends := wrapInc 16 v.attends }
    | 3 => s.modVec e.die fun v => { v with merges := wrapInc 16 v.merges }
    | _ => s

/-- R174: a step completes: its held writes are performed, its counts are taken, and it leaves its unit. -/
def completeStep (i : Nat) (e : StepEntry) (s : State) : State :=
  let s := performHeld (fun w => w.client == .step i) s
  leaveUnit i e (countAttention e (s.modFrm fun f => { f with done := f.done ++ [i] }))

/-- STEP_COMPLETE (R47, R106): its effects have been performed, its writes go, and its unit is free. -/
def execStepComplete (step : Nat) (s : State) : Host.Outcome State Fault Refusal :=
  .next (
    match stepOf s step with
    | none => s
    | some e =>
      if s.frm.ran.contains step && !s.frm.done.contains step && !stepOpen s step then
        spillGate (.step step) (completeStep step e) s
      else s)

/-! ### Releases -/

/-- R173: the producer's part of a pair. -/
def releasePart (img : Image) (step : StepEntry) (e : SyncEntry) (s : State) : State :=
  let sc : Scope := match e.relScope with | 0 => .core | 1 => .die | 2 => .package | _ => .domain
  let base := rangeAddr s e
  if barrierReplaces img e then s
  else match e.prodKind with
    | 1 => releaseOf (stepEngine step) (stepEngines step) sc base e.length s
    | 4 => if e.consKind = 4 then s else releaseOf .flyer [.flyer] sc base e.length s
    | _ => countRelease (stepEngine step) (performRange (stepEngines step) sc base e.length s)

/-- R168 step 3: an operation of the producer's unit to bytes of the pair's range has not been acknowledged. Where the range
lies here, that is a GET that delivers into it; where it lies on the consumer's device, this device does not know its
address there and takes every operation to that device [DC 83]. -/
def pairOpen (s : State) (img : Image) (rank : Nat) (step : StepEntry) (e : SyncEntry) : Bool :=
  s.fab.op.any fun x => match x.2 with
    | none => false
    | some o =>
      o.unit == transferUnit step &&
        (if rangeHere rank e then overlaps (rangeAddr s e) e.length (gaLocal o.getAddr) o.getLen
          else o.dest == img.rankMap.getD e.consRank 0)

/-- R172, R174: the range of a pair is caught by the step that consumes it, on this device. -/
def caughtByStep (e : SyncEntry) : Bool :=
  e.consKind != 3 && e.prodRank == e.consRank

/-- R174, R175: a pair's release has completed: this device sets it down, and reports it to the other rank. -/
def pairReleased (img : Image) (k : Nat) (e : SyncEntry) (s : State) : State :=
  let s := s.modFrm fun f => { f with released := f.released ++ [(k, f.number)] }
  if e.prodRank = e.consRank then s else sendSync k s.frm.number (img.rankMap.getD e.consRank 0) s

/-- R172, R174, R175: the release of a pair, and what follows it: the host's back-invalidate, or the synchronisation
packet. A range out of its region that no step of this device catches fails the frame. -/
def releasePair (img : Image) (rank k : Nat) (step : StepEntry) (e : SyncEntry) (s : State) : State :=
  let here := rangeHere rank e
  match if here then rangeBad s e else none with
  | some st => if caughtByStep e then s else failFrame st s
  | none =>
    if (e.prodKind == 2 || e.relScope == 3) && pairOpen s img rank step e then s
    else
      let s := if here then releasePart img step e s else s
      pairReleased img k e (if e.consKind = 3 && here then hostAcquire (rangeAddr s e) e.length s else s)

/-- R170, R175: the release of a produce-then-fetch pair whose producer is this device's host: it has completed once every
snoop has been answered. -/
def releaseHostPair (img : Image) (k : Nat) (e : SyncEntry) (s : State) : State :=
  match rangeBad s e with
  | some st => failFrame st s
  | none =>
    let s := hostRelease (rangeAddr s e) e.length s
    if hostPending s (rangeAddr s e) e.length then s else pairReleased img k e s

/-- SYNC_RELEASE (R174): the producer step has issued its last write; a host producer has none. -/
def execSyncRelease (entry : Nat) (s : State) : Host.Outcome State Fault Refusal :=
  .next (
    match runningImage s, myRank s with
    | some img, some rank =>
      match img.syncs[entry]? with
      | none => s
      | some e =>
        if e.prodRank != rank || s.frm.released.contains (entry, s.frm.number) then s
        else if e.prodKind = 3 then (if e.prodRank = e.consRank then s else releaseHostPair img entry e s)
        else match stepOf s e.prodStep with
          | none => s
          | some d =>
            if s.frm.ran.contains e.prodStep then spillGate (.step e.prodStep) (releasePair img rank entry d e) s else s
    | _, _ => s)

/-- R179: the barrier of a step is due: everything that the step waits for has come about, and it has had none. -/
def barrierDue (s : State) (img : Image) (step : Nat) : Bool :=
  match myRank s, stepOf s step with
  | some rank, some e => stepReady s img rank step e && !s.frm.barriered.contains step
  | _, _ => false

/-- NMX2_BARRIER (R179): the implied barrier before a step of an image with NMX2COMPAT. -/
def execNmx2Barrier (step : Nat) (s : State) : Host.Outcome State Fault Refusal :=
  .next (
    match runningImage s, stepOf s step with
    | some img, some _ =>
      if img.hdr.nmx2 && !inHoldLead s && barrierDue s img step then
        spillGate (.step step) (fun s => (barrier s).modFrm fun f => { f with barriered := f.barriered ++ [step] }) s
      else s
    | _, _ => s)

/-! ### The flyer's steps -/

/-- R245: POST; the manual does not say what OBJECT such a record carries. -/
def postStep (args : List Byte) (s : State) : State :=
  let t := fieldOf args 0 2
  postEvent 0x0E .sOk (Config.freeNat s.free % 2 ^ 32) (if t = 0xFFFF then none else some t) (sliceBytes args 8 40)
    s.drawFree

/-- POST (R245). -/
def execPost (step : Nat) (s : State) : Host.Outcome State Fault Refusal :=
  .next (startStep step 4 1 (fun _ _ args => postStep args) s)

/-- R245: COPY, as kind 0x4: loads and stores of the flyer. -/
def flyerCopy (step : Nat) (args : List Byte) (s : State) : State :=
  let n := fieldOf args 0x18 4
  let src : Operand := ⟨1, fieldOf args 0 4, fieldOf args 8 8, n, accRead⟩
  let dst : Operand := ⟨2, fieldOf args 4 4, fieldOf args 16 8, n, accWrite⟩
  if n = 0 then s
  else checkedStep step [src, dst] (fun s =>
    let r := flyerRead (regionAddr s src.handle src.off) n s
    match r.err with
    | some st => clientError (.step step) st r.s
    | none =>
      let a := regionAddr r.s dst.handle dst.off
      let w := flyerWrite a r.bytes (noteWrite (.step step) a n r.s)
      match w.err with
      | some st => clientError (.step step) st w.s
      | none => w.s) s

/-- FLYER_COPY (R245). -/
def execFlyerCopy (step : Nat) (s : State) : Host.Outcome State Fault Refusal :=
  .next (startStep step 4 2 (fun _ _ args => flyerCopy step args) s)

end Sys2Proof.Machine
end

