-- ==== Sys2Proof/Machine/Spindle.lean ====
section
/-!
DEFINITION. Chapter 3: the spindle step MATMUL: element formats, the exact and the canonical regime, output conversion,
the accumulator store, counters, ramps and buffer errors.
-/

namespace Sys2Proof.Machine

/-! ### Formats -/

/-- R85, R86: the bits of an element of a spindle format. -/
def elemWidth (code : Nat) : Nat :=
  match code with
  | 0x01 | 0x02 => 16
  | 0x22 | 0x23 => 6
  | 0x24 => 4
  | _ => 8

/-- R85: the value of an element, its block's scale apart. -/
def elemNum (code raw : Nat) : Num :=
  match code with
  | 0x01 => decodeNum bf16 raw
  | 0x02 => decodeNum fp16 raw
  | 0x10 | 0x20 => decodeNum e4m3 raw
  | 0x11 | 0x21 => decodeNum e5m2 raw
  | 0x22 => decodeNum e2m3 raw
  | 0x23 => decodeNum e3m2 raw
  | 0x24 => decodeNum e2m1 raw
  | _ => .fin (signedOf 8 raw < 0) (signedOf 8 raw).natAbs 0

/-- R85: an MX code. -/
def isMx (code : Nat) : Bool :=
  code == 0x20 || code == 0x21 || code == 0x22 || code == 0x23 || code == 0x24

/-- R87: what a pair of formats fixes: the regime, the scales, and V. -/
structure PairKind where
  exact : Bool
  scaled : Bool
  v : Nat
  deriving DecidableEq, Repr, Inhabited

/-- R87: the allowed pairs of activation and weight format. -/
def pairKind (a w : Nat) : Option PairKind :=
  if (a = 1 && w = 1) || (a = 2 && w = 2) then some ⟨false, false, 32⟩
  else if (a = 0x10 || a = 0x11) && (w = 0x10 || w = 0x11) then some ⟨true, false, 64⟩
  else if isMx a && isMx w then some ⟨true, true, if a = 0x24 && w = 0x24 then 128 else 64⟩
  else if a = 0x30 && w = 0x30 then some ⟨true, false, 64⟩
  else none

/-- R104: the floating-point format of an OUT_FMT code; INT32 is none. -/
def outFloat (code : Nat) : Option Fmt :=
  match code with
  | 0x01 => some bf16
  | 0x02 => some fp16
  | 0x03 => some fp32
  | 0x10 => some e4m3
  | 0x11 => some e5m2
  | _ => none

/-- The bytes of an output element. -/
def outBytes (code : Nat) : Nat :=
  match code with
  | 0x01 | 0x02 => 2
  | 0x10 | 0x11 => 1
  | _ => 4

/-- R86: the bytes of a row of `k` elements. -/
def rowBytes (code k : Nat) : Nat :=
  ceilDiv (k * elemWidth code) 8

/-- R86: the elements of a row. -/
def rowElems (code k : Nat) (bs : List Byte) : List Num :=
  (List.range k).map fun i => elemNum code (leNat bs / 2 ^ (i * elemWidth code) % 2 ^ elemWidth code)

/-- R85: the exponent of an E8M0 scale byte, `none` for NaN. -/
def scaleExp (b : Byte) : Option Int :=
  if b = 0xFF then none else some ((b.toNat : Int) - 127)

/-! ### The ARGS of MATMUL -/

/-- R104: rows in a region: handle, bytes between rows, offset of row 0. -/
structure Rows where
  handle : Nat
  stride : Nat
  off : Nat
  deriving DecidableEq, Repr, Inhabited

/-- R104: the ARGS entry of MATMUL. -/
structure MatArgs where
  inFmt : Nat
  wFmt : Nat
  outFmt : Nat
  preload : Bool
  keep : Bool
  sround : Bool
  sat : Bool
  sb : Int
  m : Nat
  n : Nat
  k : Nat
  kBase : Nat
  x : Rows
  w : Rows
  y : Rows
  xs : Rows
  ws : Rows
  tensor : Nat
  stepNo : Nat
  idxBase : Nat
  idxRow : Nat
  accBase : Nat
  deriving DecidableEq, Repr, Inhabited

/-- R104: a region handle, a stride and an offset in ARGS. -/
def rowsAt (bs : List Byte) (o : Nat) : Rows :=
  ⟨fieldOf bs o 4, fieldOf bs (o + 4) 4, fieldOf bs (o + 8) 8⟩

/-- R89, R104: ARGS as fields; SCALE_BASE counts as 0 where the formats have no scales. -/
def matArgs (bs : List Byte) : MatArgs :=
  let flags := fieldOf bs 3 1
  let a := fieldOf bs 0 1
  let w := fieldOf bs 1 1
  { inFmt := a, wFmt := w, outFmt := fieldOf bs 2 1, preload := flags.testBit 0, keep := flags.testBit 1,
    sround := flags.testBit 2, sat := flags.testBit 3,
    sb := if isMx a && isMx w then signedOf 16 (fieldOf bs 4 2) else 0,
    m := fieldOf bs 0x08 4, n := fieldOf bs 0x0C 4, k := fieldOf bs 0x10 4, kBase := fieldOf bs 0x14 4,
    x := rowsAt bs 0x18, w := rowsAt bs 0x28, y := rowsAt bs 0x38, xs := rowsAt bs 0x48, ws := rowsAt bs 0x58,
    tensor := fieldOf bs 0x68 4, stepNo := fieldOf bs 0x6C 4, idxBase := fieldOf bs 0x70 8 % 2 ^ 48,
    idxRow := fieldOf bs 0x78 4, accBase := fieldOf bs 0x7C 4 }

/-- R104, R198: an operand of `count` rows of `len` bytes each. -/
def rowsOperand (num acc count len : Nat) (r : Rows) : Operand :=
  { num := num, handle := r.handle, off := r.off, len := (count - 1) * r.stride + len, acc := acc }

/-- R104, R105: the region operands that a step with M and N non-zero uses; K = 0 reads none, KEEP writes none. -/
def matOperands (a : MatArgs) (scaled : Bool) : List Operand :=
  (if a.k = 0 then [] else
    [rowsOperand 1 accRead a.m (rowBytes a.inFmt a.k) a.x, rowsOperand 1 accRead a.n (rowBytes a.wFmt a.k) a.w] ++
    (if scaled then [rowsOperand 1 accRead a.m (ceilDiv a.k 32) a.xs, rowsOperand 1 accRead a.n (ceilDiv a.k 32) a.ws]
     else [])) ++
  (if a.keep then [] else [rowsOperand 2 accWrite a.m (a.n * outBytes a.outFmt) a.y])

/-! ### One output element -/

/-- R93: pairs of elements of one 32-element block, with the block's combined scale exponent; `none` where a scale is
NaN. -/
structure BlockPair where
  products : List Num
  e : Option Int
  deriving DecidableEq, Repr, Inhabited

/-- R85, R93: the blocks of an output element's K range. -/
def blockPairs (scaled : Bool) (xs ws : List Num) (sx sw : List Byte) (k : Nat) : List BlockPair :=
  (List.range (ceilDiv k 32)).map fun b =>
    { products := List.zipWith mulNum ((xs.drop (32 * b)).take 32) ((ws.drop (32 * b)).take 32),
      e := if scaled then
          match scaleExp (sx.getD b 0), scaleExp (sw.getD b 0) with
          | some p, some q => some (p + q)
          | _, _ => none
        else some 0 }

/-- R88: what the products of a block, and its scales, say of special values. -/
def blockSpecials (b : BlockPair) : List Num :=
  if b.e.isNone then .nan :: b.products else b.products

/-- R90: a block pair with a non-zero product of finite elements. -/
def blockNonzero (b : BlockPair) : Bool :=
  b.products.any fun p => match p with | .fin _ m _ => m != 0 | _ => false

/-- R90: a block pair out of range. -/
def blockOut (sb : Int) (b : BlockPair) : Bool :=
  match b.e with
  | none => false
  | some e => blockNonzero b && (e < sb - 32 || sb + 7 < e)

/-- R89: what an admitted block pair adds to L, in units of 2 ^ (SB - 64). -/
def blockAdds (sb : Int) (b : BlockPair) : Int :=
  match b.e with
  | none => 0
  | some e =>
    if blockOut sb b then 0
    else (b.products.map fun p => match p with
      | .fin neg m pe => if m = 0 then 0 else inUnits (signedMag neg m) (pe + e) (sb - 64)
      | _ => 0).sum

/-- R89, R102: the long register and the flags of a preloaded entry; an entry that no step has kept holds L = 0. -/
def longOf : Option AccEntry → Int × Bool × Bool × Bool
  | some (.exact l nan p n) => (l, nan, p, n)
  | _ => (0, false, false, false)

/-- R102: the FP32 code of a preloaded entry; an entry that no step has kept holds +0. -/
def floatOf : Option AccEntry → Nat
  | some (.canonical b) => b
  | _ => 0

/-- R88-R91: an output element in the exact regime: the entry it leaves, and its block pairs out of range. A NaN that an
out-of-range pair left in the preloaded entry counts as any NaN there [DEDUCED 76]. -/
def exactElem (sb : Int) (pre : Option AccEntry) (bs : List BlockPair) : AccEntry × Nat :=
  let (l, nan, p, n) := longOf pre
  let ps := bs.flatMap blockSpecials
  let nan := nan || ps.any (· == .nan)
  let p := p || ps.any (· == .inf false)
  let n := n || ps.any (· == .inf true)
  let out := (bs.filter (blockOut sb)).length
  (.exact (l + (bs.map (blockAdds sb)).sum) (nan || (0 < out && !p && !n)) p n, out)

/-- R93, R94: the block sums added in ascending order. -/
def canonicalSum : Nat → List BlockPair → Nat
  | acc, [] => acc
  | acc, b :: bs => canonicalSum (add32 acc (blockSum b.products)) bs

/-- R88, R94: an output element in the canonical regime: the accumulator, and whether a special value decided it. -/
def canonicalElem (pre : Option AccEntry) (bs : List BlockPair) : Nat × Bool :=
  match specialOf (decodeNum fp32 (floatOf pre) :: bs.flatMap blockSpecials) with
  | some v => (encodeNum fp32 v, true)
  | none => (canonicalSum (floatOf pre) bs, false)

/-- R88, R92, R102: the value that an accumulator entry stands for. -/
def entryValue (sb : Int) : AccEntry → Num
  | .canonical b => decodeNum fp32 b
  | .exact l nan p n =>
    if nan || (p && n) then .nan
    else if p then .inf false
    else if n then .inf true
    else ofDyadic false l (sb - 64)

/-- R92: L x 2^-64 saturated to INT32, and whether it was. -/
def saturate32 : AccEntry → Nat × Bool
  | .exact l _ _ _ =>
    let z := l / (2 ^ 64 : Nat)
    if z < -(2 ^ 31 : Nat) then (2 ^ 31, true)
    else if (2 ^ 31 : Nat) ≤ z then (2 ^ 31 - 1, true)
    else (unsignedOf 32 z, false)
  | .canonical b => (b, false)

/-- R92, R95-R97: the output of an entry: its code, and whether it overflowed or was saturated. -/
def outputOf (a : MatArgs) (numgen mi ni : Nat) (en : AccEntry) : Rounded :=
  match outFloat a.outFmt with
  | none => let r := saturate32 en; ⟨r.1, r.2⟩
  | some f =>
    let canonical32 := (match en with | .canonical _ => true | _ => false) && f == fp32
    let rule := if a.sround && !canonical32 then
        randomRounding numgen ((a.idxBase + mi * a.idxRow + ni) % 2 ^ 48) a.tensor a.stepNo
      else .nearest
    convertNum f rule a.sat (entryValue a.sb en)

/-- What one output element gives: its entry, its output, its events. -/
structure MatElem where
  entry : AccEntry
  code : Nat
  overflow : Bool
  nan : Bool
  ranges : Nat
  deriving DecidableEq, Repr, Inhabited

/-- R96: the output code is a NaN. -/
def codeIsNan (outFmt code : Nat) : Bool :=
  ((outFloat outFmt).map fun f => decodeNum f code == .nan).getD false

/-- R88-R98: one output element. OVERFLOW is set too where the canonical accumulator itself left the finite range during
the additions [DEDUCED 77]. -/
def matElem (a : MatArgs) (exact : Bool) (numgen mi ni : Nat) (pre : Option AccEntry) (bs : List BlockPair) : MatElem :=
  let r := exactElem a.sb pre bs
  let c := canonicalElem pre bs
  let en := if exact then r.1 else .canonical c.1
  let o := outputOf a numgen mi ni en
  { entry := en, code := o.code, overflow := o.over_ || (!exact && !c.2 && !isFinite fp32 c.1),
    nan := codeIsNan a.outFmt o.code, ranges := if exact then r.2 else 0 }

/-! ### A spindle's columns -/

/-- R103: the columns of each spindle of a unit, as (spindle, first, number). -/
def spindleColumns (e : StepEntry) (n : Nat) : List (Nat × Nat × Nat) :=
  if e.unit = 0xFF then
    let n0 := min n (32 * ceilDiv (ceilDiv n 32) 2)
    [(2 * e.die, 0, n0), (2 * e.die + 1, n0, n - n0)]
  else [(2 * e.die + e.unit, 0, n)]

/-- Rows read by a spindle: their bytes, and the first error met. -/
structure RowsRead where
  rows : List (List Byte) := []
  err : Option Status := none
  s : State

/-- R163: a spindle reads rows `first` to `first + count - 1` of an operand. -/
def readRows (i : Nat) (r : Rows) (len first : Nat) : Nat → State → RowsRead
  | 0, s => { s := s }
  | n + 1, s =>
    let one := engineRead (.spindle (Fin.ofNat 8 i)) (regionAddr s r.handle (r.off + first * r.stride)) len s
    let rest := readRows i r len (first + 1) n one.s
    { rows := one.bytes :: rest.rows, err := one.err <|> rest.err, s := rest.s }

/-- R104, R102: a preloaded entry. -/
def preEntry (a : MatArgs) (p : Spindle) (entry : Nat) : Option AccEntry :=
  if a.preload then tget p.acc entry else none

/-- The operands of a spindle's columns, as read. -/
structure MatRead where
  x : List (List Byte) := []
  w : List (List Byte) := []
  xs : List (List Byte) := []
  ws : List (List Byte) := []
  err : Option Status := none
  s : State

/-- R163: a spindle reads the operands of its columns. -/
def matRead (a : MatArgs) (scaled : Bool) (i first count : Nat) (s : State) : MatRead :=
  if a.k = 0 then { s := s }
  else
    let x := readRows i a.x (rowBytes a.inFmt a.k) 0 a.m s
    let w := readRows i a.w (rowBytes a.wFmt a.k) first count x.s
    if scaled then
      let xs := readRows i a.xs (ceilDiv a.k 32) 0 a.m w.s
      let ws := readRows i a.ws (ceilDiv a.k 32) first count xs.s
      { x := x.rows, w := w.rows, xs := xs.rows, ws := ws.rows, err := x.err <|> w.err <|> xs.err <|> ws.err, s := ws.s }
    else { x := x.rows, w := w.rows, err := x.err <|> w.err, s := w.s }

/-- R104: the elements of a row `mi` in a spindle's columns. -/
def matRow (a : MatArgs) (pk : PairKind) (numgen : Nat) (p : Spindle) (r : MatRead) (mi first count : Nat) : List MatElem :=
  let x := rowElems a.inFmt a.k (r.x.getD mi [])
  (List.range count).map fun j =>
    matElem a pk.exact numgen mi (first + j) (preEntry a p (a.accBase + mi * a.n + first + j))
      (blockPairs pk.scaled x (rowElems a.wFmt a.k (r.w.getD j [])) (r.xs.getD mi []) (r.ws.getD j []) a.k)

/-- R102: the entries that a step with KEEP leaves; entry n of one regime takes the place of entry n of the other
[DC 75]. -/
def keepRow (base : Nat) : List MatElem → Tab (Option AccEntry) → Tab (Option AccEntry)
  | [], t => t
  | e :: es, t => keepRow (base + 1) es (tput t base (some e.entry))

/-- R107: an entry whose value an error has made undefined: the free value numbered `f`. -/
def freeEntry (exact : Bool) (f : Nat) : AccEntry :=
  if exact then
    let v := Config.freeNat f
    .exact (signedOf 128 (v % 2 ^ 128)) (v.testBit 128) (v.testBit 129) (v.testBit 130)
  else .canonical (Config.freeNat f % 2 ^ 32)

/-- R107: elements that an uncorrectable error affects are undefined. -/
def spoilRow (exact : Bool) (free mi first width : Nat) (bad : List (Nat × Nat)) (es : List MatElem) : List MatElem :=
  (List.range es.length).map fun j =>
    let e := es.getD j default
    if bad.contains (mi, first + j) then
      let f := free + mi * width + first + j
      { e with entry := freeEntry exact f, code := Config.freeNat f % 2 ^ 32 }
    else e

/-- R90, R96, R108: what a row's elements show in SPN_STATUS and SPN_RANGE_COUNT. -/
def noteElems (keep : Bool) (es : List MatElem) (p : Spindle) : Spindle :=
  let n := (es.map (·.ranges)).sum
  { p with range := p.range || 0 < n, rangeCount := (p.rangeCount + n) % 2 ^ 32,
           nanOut := p.nanOut || (!keep && es.any (·.nan)), overflow := p.overflow || (!keep && es.any (·.overflow)) }

/-- R104: one row of a spindle's columns is written to Y, or kept. -/
def putRow (i step : Nat) (a : MatArgs) (mi first : Nat) (es : List MatElem) (s : State) : State :=
  let s := s.modSpn i (noteElems a.keep es)
  if a.keep then s.modSpn i fun p => { p with acc := keepRow (a.accBase + mi * a.n + first) es p.acc }
  else if es.isEmpty then s
  else
    let b := outBytes a.outFmt
    issueWrite { engine := .spindle (Fin.ofNat 8 i), client := .step step,
                 addr := regionAddr s a.y.handle (a.y.off + mi * a.y.stride + first * b),
                 bytes := es.flatMap fun e => leBytes b e.code } s

/-- R104: the rows of a spindle's columns, each from the spindle as it was before the step. -/
def putRows (i step : Nat) (a : MatArgs) (first : Nat) : Nat → List (List MatElem) → State → State
  | _, [], s => s
  | mi, es :: rest, s => putRows i step a first (mi + 1) rest (putRow i step a mi first es s)

/-! ### Counters -/

/-- R99: L_w. -/
def weightLoad (scaled : Bool) : Nat :=
  if scaled then 9 else 8

/-- R102: the entries of the accumulator store. -/
def storeEntries (exact : Bool) : Nat :=
  if exact then 131072 else 524288

/-- R99, R100, R108: the passes of a spindle's columns, its vectors and its bubbles. Where M x N does not fit the store
the groups are the device's choice, and with them the passes and bubbles. -/
def countPasses (a : MatArgs) (pk : PairKind) (count : Nat) (free : Nat) (p : Spindle) : Spindle :=
  let kt := ceilDiv a.k (32 * pk.v)
  let nt := ceilDiv count 32
  let lw := weightLoad pk.scaled
  let fits : Bool := a.m * count ≤ storeEntries pk.exact
  let passes := if fits then kt * nt else Config.freeNat free
  let bubbles := if fits then kt * nt * (lw - a.m) + (kt - 1) * (74 - nt * max a.m lw) else Config.freeNat (free + 1)
  { p with passes := (p.passes + passes) % 2 ^ 64, activeCycles := (p.activeCycles + a.m * nt * kt) % 2 ^ 64,
           bubbles := (p.bubbles + bubbles) % 2 ^ 32 }

/-- R101: a spindle starts from idle with a ramp-up. Where its first vector is ready in window `reached` (1 to 8) of the
ramp-down of the step before, that ramp reverses and climbs on from the same level. -/
def rampStart (reached : Nat) (p : Spindle) : Spindle :=
  if reached ≠ 0 && p.ramp == .down then
    { p with ramp := .up, rampWindow := 9 - reached, reversals := wrapInc 16 p.reversals }
  else { p with ramp := .up, rampWindow := 1, rampUps := wrapInc 16 p.rampUps }

/-! ### Buffer errors -/

/-- R107: one error met during a step. -/
def bufferError (step die : Nat) (b : BufferError) (s : State) : State :=
  let i := 2 * die + b.spindle.val
  if b.corrected && b.buffer ≠ 2 then bankCorrected i (b.buffer == 1) b.bank 1 s
  else clientError (.step step) .eDataError (spindleUncorrectable i s)

/-- R107: the errors met during a step, in order. -/
def bufferErrors (step die : Nat) : List BufferError → State → State
  | [], s => s
  | b :: bs, s => bufferErrors step die bs (bufferError step die b s)

/-- R107: the outputs that the errors affect. -/
def spoiled (errs : List BufferError) : List (Nat × Nat) :=
  errs.flatMap fun b => if b.corrected && b.buffer ≠ 2 then [] else b.outputs

/-! ### The step -/

/-- R149: an operand could not be read: the step completes with that status, and what it would have written is
undefined. -/
def matSpoil (i : Nat) (a : MatArgs) (pk : PairKind) (first count : Nat) : Nat → State → State
  | 0, s => s
  | k + 1, s =>
    let mi := a.m - (k + 1)
    let s := if a.keep then s.modSpn i fun p =>
        { p with acc := (List.range count).foldl (fun t j =>
            tput t (a.accBase + mi * a.n + first + j) (some (freeEntry pk.exact (s.free + j)))) p.acc }
      else markUndef (regionAddr s a.y.handle (a.y.off + mi * a.y.stride + first * outBytes a.outFmt))
        (count * outBytes a.outFmt) s
    matSpoil i a pk first count k (s.drawFrees count)

/-- R103, R104: one spindle computes its columns. -/
def matSpindle (step : Nat) (a : MatArgs) (pk : PairKind) (reached : Nat) (bad : List (Nat × Nat)) (col : Nat × Nat × Nat)
    (s : State) : State :=
  let (i, first, count) := col
  if count = 0 then s
  else
    let s := s.modSpn i fun p =>
      rampStart reached (countPasses a pk count s.free { p with regime := if pk.exact then 2 else 1 })
    let r := matRead a pk.scaled i first count (s.drawFrees 2)
    match r.err with
    | some st => clientError (.step step) st (matSpoil i a pk first count a.m r.s)
    | none =>
      let p := vget r.s.spn i
      let numgen := bitsOf r.s.pkg.pkgCap.toNat 23 20
      let rows := (List.range a.m).map fun mi =>
        spoilRow pk.exact r.s.free mi first a.n bad (matRow a pk numgen p r mi first count)
      let s := putRows i step a first 0 rows r.s
      if bad.isEmpty then s else s.drawFrees (a.m * a.n)

/-- The spindles of a unit, one after the other. -/
def matSpindles (step : Nat) (a : MatArgs) (pk : PairKind) (reached : Nat) (bad : List (Nat × Nat)) :
    List (Nat × Nat × Nat) → State → State
  | [], s => s
  | c :: cs, s => matSpindles step a pk reached bad cs (matSpindle step a pk reached bad c s)

/-- R104, R105: the work of MATMUL: M = 0 or N = 0 is a successful no-operation. -/
def matmulStep (step reached : Nat) (errs : List BufferError) (e : StepEntry) (args : List Byte) (s : State) : State :=
  let a := matArgs args
  match pairKind a.inFmt a.wFmt with
  | none => s
  | some pk =>
    if a.m = 0 || a.n = 0 then s
    else checkedStep step (matOperands a pk.scaled) (fun s =>
      bufferErrors step e.die errs (matSpindles step a pk reached (spoiled errs) (spindleColumns e a.n) s)) s

/-- MATMUL (R104): `reached` is the window of the ramp-down before in which the first vector is ready (R101), 0 where no
ramp-down stands. -/
def execMatmul (step : Nat) (reached : Fin 9) (errs : List BufferError) (s : State) : Host.Outcome State Fault Refusal :=
  .next (startStep step 1 1 (fun _ e args => matmulStep step reached.val errs e args) s)

/-! ### Duty granules -/

/-- R101, R352: a spindle whose die pauses ramps down, and ramps up again afterwards. -/
def dutySpindle (pause : Bool) (p : Spindle) : Spindle :=
  if p.busy.isNone || p.regime = 0 then rampEnded p
  else if pause then { p with ramp := .down, rampWindow := 1 }
  else { p with ramp := .up, rampWindow := 1, rampUps := wrapInc 16 p.rampUps }

/-- DUTY_GRANULE (R352): the die issues in the first d granules of a period of 16 and pauses for the rest. -/
def execDutyGranule (die : CDie) (granule : Fin 16) (s : State) : Host.Outcome State Fault Refusal :=
  .next (
    let d := s.pwrDieAt die
    let pause : Bool := stepDuty d.step ≤ granule.val
    let turn := fun p => if d.paused = pause then rampEnded p else dutySpindle pause p
    ((s.modPwrDie die fun x => { x with paused := pause }).modSpn (2 * die) turn).modSpn (2 * die + 1) turn)

end Sys2Proof.Machine
end

