-- ==== Sys2Proof/Machine/Vector.lean ====
section
/-!
DEFINITION. Chapter 4, kernels: the KERNEL step and what a ply's instructions do: vector, scalar and gathered accesses,
arithmetic, reductions and atomics (R109-R120). The manual leaves instruction encodings to the toolchain: each command
is one instruction of one ply.
-/

namespace Sys2Proof.Machine

/-! ### Plies -/

/-- R119: the fields of a KERNEL step's ARGS. -/
structure KernelArgs where
  code : Nat
  codeOff : Nat
  /-- R110: registers per thread. -/
  regs : Nat
  threads : Nat
  nreg : Nat
  regions : List Nat
  /-- R119: the read-only parameters. -/
  params : List Byte
  deriving DecidableEq, Repr, Inhabited

/-- R119: ARGS as fields. -/
def kernelArgs (bs : List Byte) : KernelArgs :=
  { code := fieldOf bs 0 4, codeOff := fieldOf bs 8 8, regs := 16 * fieldOf bs 4 1, threads := fieldOf bs 0x10 4,
    nreg := fieldOf bs 6 2, regions := (List.range 16).map fun i => fieldOf bs (0x18 + 4 * i) 4,
    params := sliceBytes bs 0x58 (fieldOf bs 0x14 4) }

/-- R110: the plies of a kernel that can be resident on a core. -/
def residentPlies (regs : Nat) : Nat :=
  min 256 (131072 / (32 * regs))

/-- R118: a core belongs to a step's unit. -/
def coreIn (e : StepEntry) (core : Nat) : Bool :=
  e.unit == 0xFF || e.unit == core / 8

/-- R116: a ply that waits for its gather or scatter. -/
def plyWaits (s : State) (die core slot : Nat) : Bool :=
  (vget s.vec die).waiting.any fun w => w.core == core && w.ply == slot

/-- R109: the number of a slot of a die. -/
def slotKey (core slot : Nat) : Nat :=
  core * 256 + slot

/-- R110, R111: a ply's place: it stays in the slot it was placed in; a slot whose ply has run takes one of a later wave,
and a ply that has run is not placed again. -/
def placeOk (v : VecDie) (r : PlyRef) : Bool :=
  tget v.plies (slotKey r.core r.slot) == some (r.step, r.index) ||
    !(v.ended.contains (r.step, r.index) || v.plies.any fun e => e.2 == some (r.step, r.index))

/-- R118, R134: the step whose kernel a ply runs, if the ply can issue: the step runs, the core belongs to its unit and
is not withheld, the ply waits for nothing, its slot is one of those resident (R110), it has threads (R111), and the
registers below `top` are the kernel's [DC 81]. -/
def plyStep (s : State) (r : PlyRef) (top : Nat) : Option (StepEntry × KernelArgs) :=
  match runningImage s, stepOf s r.step with
  | some img, some e =>
    let k := kernelArgs (argsOf img e)
    if e.kind == 2 && e.opcode == 1 && s.frm.ran.contains r.step && !s.frm.done.contains r.step && coreIn e r.core.val
        && unitRuns s e && !(vget s.vec e.die).withheld.getLsbD r.core.val && !plyWaits s e.die r.core.val r.slot.val
        && r.slot.val < residentPlies k.regs && 32 * r.index < k.threads && top ≤ k.regs
        && placeOk (vget s.vec e.die) r then
      some (e, k)
    else none
  | _, _ => none

/-- R110, R111: a ply comes into its slot: the registers there have not been written since. -/
def placePly (die : Nat) (r : PlyRef) (s : State) : State :=
  let key := slotKey r.core r.slot
  if tget (vget s.vec die).plies key = some (r.step, r.index) then s
  else s.modVec die fun v =>
    { v with plies := tput v.plies key (some (r.step, r.index)),
             ended := v.ended ++ (tget v.plies key).toList,
             regs := v.regs.filter fun x => x.1 / (32 * 256) != key }

/-- One instruction of a ply: it issues if the ply can, in the ply's place, and may wait for spilled lines (R223). -/
def plyIssue (r : PlyRef) (top : Nat) (run : StepEntry → KernelArgs → State → State) (s : State) : State :=
  match plyStep s r top with
  | some (e, k) => spillGate (.step r.step) (fun s => run e k (placePly e.die r s)) s
  | none => s

/-- R119: the code object begins within its region; THREADS = 0 is a successful no-operation; otherwise the plies run. -/
def kernelStep (step : Nat) (args : List Byte) (s : State) : State :=
  let k := kernelArgs args
  if k.threads = 0 then s
  else checkedStep step [⟨1, k.code, k.codeOff, 1, accRead⟩] id s

/-- KERNEL (R119). -/
def execKernel (step : Nat) (s : State) : Host.Outcome State Fault Refusal :=
  .next (startStep step 2 1 (fun _ _ args => kernelStep step args) s)

/-! ### Registers -/

/-- R109: the key of a register of a lane of a slot. -/
def regKey (core slot lane reg : Nat) : Nat :=
  (slotKey core slot * 32 + lane) * 256 + reg % 256

/-- R111: the thread in a lane of a ply. -/
def threadOf (r : PlyRef) (lane : Nat) : Nat :=
  32 * r.index + lane

/-- R109, R111: a register of a lane; one that the kernel has not written holds a value that depends on the thread and
the register alone, which the manual does not state. [DC 82] -/
def readReg (s : State) (die : Nat) (r : PlyRef) (lane reg : Nat) : Nat :=
  (tget (vget s.vec die).regs (regKey r.core r.slot lane reg)).getD (Config.freshReg (threadOf r lane) reg % 2 ^ 32)

/-- R109: write a register of a lane. -/
def writeReg (die core slot lane reg value : Nat) (s : State) : State :=
  s.modVec die fun v => { v with regs := tput v.regs (regKey core slot lane reg) (some (value % 2 ^ 32)) }

/-- A lane's bytes go to its registers, four to each, from `reg` upwards. -/
def loadRegs (die core slot lane reg : Nat) (bs : List Byte) : Nat → State → State
  | 0, s => s
  | k + 1, s => loadRegs die core slot lane (reg + 1) (bs.drop 4) k (writeReg die core slot lane reg (leNat (bs.take 4)) s)

/-- A lane's bytes, from its registers. -/
def laneBytes (s : State) (die : Nat) (r : PlyRef) (lane reg width : Nat) : List Byte :=
  ((List.range (ceilDiv width 4)).flatMap fun k => leBytes 4 (readReg s die r lane (reg + k))).take width

/-- R111: the lanes that take part in an instruction, in ascending order: those of the mask that hold a thread. -/
def activeLanes (k : KernelArgs) (r : PlyRef) (m : BitVec 32) : List Nat :=
  (List.range 32).filter fun l => m.getLsbD l && threadOf r l < k.threads

/-- R165: the core of a ply. -/
def plyCore (e : StepEntry) (core : Nat) : Engine :=
  .vector (Fin.ofNat 256 (64 * e.die + core))

/-! ### Errors met by an instruction -/

/-- R23, R134: the errors that an instruction meets. -/
def plyErrors (e : StepEntry) (r : PlyRef) (x : PlyErrors) (s : State) : State :=
  let s := applyCells x.cells s
  if x.regParity then clientError (.step r.step) .eDataError (registerParity e.die r.core.val s) else s

/-- Data that an error has made undefined: `n` free bytes. -/
def freeBytes (s : State) (a n : Nat) : List Byte :=
  (List.range n).map fun i => Config.freeByte s.free (a + i)

/-- What an access delivers: its bytes, or free ones where an error spoiled them. -/
def delivered (bad : Bool) (a n : Nat) (r : Access) : List Byte × State :=
  if bad || r.err.isSome then (freeBytes r.s a n, r.s.drawFree) else (r.bytes, r.s)

/-- An access's error is its step's. -/
def noteAccess (step : Nat) (r : Access) : Access :=
  match r.err with
  | some st => { r with s := clientError (.step step) st r.s }
  | none => r

/-! ### Bounds -/

/-- R120: an access beyond its region's bound is suppressed and shown, and the step completes with E_BOUNDS; so it does
with E_REGION where the region cannot be used at all. -/
def suppressed (step die : Nat) (st : Status) (detail : Nat) (s : State) : State :=
  stepError step st detail (s.modVec die fun v => { v with bounds := v.bounds || st == .eBounds })

/-- R119, R120: the address of `n` bytes at an offset of region i, or the status and DETAIL of an access that is
suppressed. -/
def plyAddr (s : State) (k : KernelArgs) (i off n acc : Nat) : Nat ⊕ Status × Nat :=
  let h := k.regions.getD i 0
  if k.nreg ≤ i then .inr (.eRegion, 1)
  else match stepCheck s [⟨0, h, off, n, acc⟩] with
    | some x => .inr x
    | none => .inl (regionAddr s h off)

/-! ### Vector accesses -/

/-- One past the highest register that an access of `width` bytes names. -/
def topReg (reg width : Nat) : Nat :=
  reg + max 1 (ceilDiv width 4)

/-- The bytes that a vector access spans: up to its highest lane. -/
def vectorSpan (k : KernelArgs) (a : PlyAccess) : Nat :=
  (((activeLanes k a.ref a.mask).getLast?.map (· + 1)).getD 0) * a.width

/-- Each lane's part of the bytes goes to its registers. -/
def loadLanes (die : Nat) (a : PlyAccess) (bs : List Byte) : List Nat → State → State
  | [], s => s
  | l :: ls, s =>
    loadLanes die a bs ls
      (loadRegs die a.ref.core a.ref.slot l a.reg (sliceBytes bs (l * a.width) a.width) (ceilDiv a.width 4) s)

/-- R115: a vector load reads sectors at their points of visibility. -/
def vectorLoad (a : PlyAccess) (e : StepEntry) (k : KernelArgs) (s : State) : State :=
  let n := vectorSpan k a
  if n = 0 then s
  else match plyAddr s k a.region.val (a.offs.headD 0).toNat n accRead with
    | .inr x => suppressed a.ref.step e.die x.1 x.2 s
    | .inl addr =>
      let r := noteAccess a.ref.step (engineRead (plyCore e a.ref.core) addr n (plyErrors e a.ref a.err s))
      let (bs, s) := delivered a.err.regParity addr n r
      loadLanes e.die a bs (activeLanes k a.ref a.mask) s

/-- VECTOR_LOAD (R115). -/
def execVectorLoad (a : PlyAccess) (s : State) : Host.Outcome State Fault Refusal :=
  .next (plyIssue a.ref (topReg a.reg a.width) (vectorLoad a) s)

/-- A write of a ply, held in its core's store queue. -/
def plyWrite (e : StepEntry) (step core addr : Nat) (bs : List Byte) (narrow : Bool) (s : State) : State :=
  issueWrite { engine := plyCore e core, client := .step step, addr := addr, bytes := bs, narrow := narrow } s

/-- R115: a vector store's lanes, one after the other. -/
def storeLanes (e : StepEntry) (a : PlyAccess) (addr : Nat) : List Nat → State → State
  | [], s => s
  | l :: ls, s =>
    storeLanes e a addr ls
      (plyWrite e a.ref.step a.ref.core (addr + l * a.width) (laneBytes s e.die a.ref l a.reg a.width) false s)

/-- R115: a vector store: as one write where its lanes run on from lane 0. -/
def vectorStore (a : PlyAccess) (e : StepEntry) (k : KernelArgs) (s : State) : State :=
  let n := vectorSpan k a
  let ls := activeLanes k a.ref a.mask
  if n = 0 then s
  else match plyAddr s k a.region.val (a.offs.headD 0).toNat n accWrite with
    | .inr x => suppressed a.ref.step e.die x.1 x.2 s
    | .inl addr =>
      let s := plyErrors e a.ref a.err s
      if ls = List.range ls.length then
        plyWrite e a.ref.step a.ref.core addr (ls.flatMap fun l => laneBytes s e.die a.ref l a.reg a.width) false s
      else storeLanes e a addr ls s

/-- VECTOR_STORE (R115). -/
def execVectorStore (a : PlyAccess) (s : State) : Host.Outcome State Fault Refusal :=
  .next (plyIssue a.ref (topReg a.reg a.width) (vectorStore a) s)

/-! ### Scalar accesses -/

/-- R22, R115: a scalar access goes through the die's cache for a hank channel of another die. -/
def throughCache (s : State) (die a : Nat) : Bool :=
  isHank a && dieOf s a != die

/-- R22: a scalar load, line by line. -/
def scalarRead (e : StepEntry) (core a n : Nat) : List Nat → Access → Access
  | [], r => r
  | b :: bs, r =>
    let (lo, k) := blockPart a n b
    let one := if throughCache r.s e.die lo then rlcRead e.die false lo k (ownFirst (plyCore e core) lo k r.s)
      else engineRead (plyCore e core) lo k r.s
    scalarRead e core a n bs { bytes := r.bytes ++ one.bytes, err := r.err <|> one.err, s := one.s }

/-- R22: a scalar load of a ply: every lane that takes part receives the value. -/
def scalarLoad (a : PlyAccess) (e : StepEntry) (k : KernelArgs) (s : State) : State :=
  let ls := activeLanes k a.ref a.mask
  if a.width = 0 || ls.isEmpty then s
  else match plyAddr s k a.region.val (a.offs.headD 0).toNat a.width accRead with
    | .inr x => suppressed a.ref.step e.die x.1 x.2 s
    | .inl addr =>
      let r := noteAccess a.ref.step
        (scalarRead e a.ref.core addr a.width (blocksOf addr a.width) { s := plyErrors e a.ref a.err s })
      let (bs, s) := delivered a.err.regParity addr a.width r
      ls.foldl (fun s l => loadRegs e.die a.ref.core a.ref.slot l a.reg bs (ceilDiv a.width 4) s) s

/-- SCALAR_LOAD (R22). -/
def execScalarLoad (a : PlyAccess) (s : State) : Host.Outcome State Fault Refusal :=
  .next (plyIssue a.ref (topReg a.reg a.width) (scalarLoad a) s)

/-- R22: a scalar store, line by line: into the cache for another die's channel, else to the store queue. -/
def scalarWrite (e : StepEntry) (step core a : Nat) (bytes : List Byte) : List Nat → State → State
  | [], s => s
  | b :: bs, s =>
    let (lo, k) := blockPart a bytes.length b
    let part := sliceBytes bytes (lo - a) k
    let s := if throughCache s e.die lo then
        (noteAccess step (rlcWrite e.die false lo part
          (noteWrite (.step step) lo k (ownFirst (plyCore e core) lo k s)))).s
      else plyWrite e step core lo part false s
    scalarWrite e step core a bytes bs s

/-- R22: a scalar store of a ply: the bytes of its lowest lane. -/
def scalarStore (a : PlyAccess) (e : StepEntry) (k : KernelArgs) (s : State) : State :=
  match activeLanes k a.ref a.mask with
  | [] => s
  | l :: _ =>
    if a.width = 0 then s
    else match plyAddr s k a.region.val (a.offs.headD 0).toNat a.width accWrite with
      | .inr x => suppressed a.ref.step e.die x.1 x.2 s
      | .inl addr =>
        let s := plyErrors e a.ref a.err s
        scalarWrite e a.ref.step a.ref.core addr (laneBytes s e.die a.ref l a.reg a.width) (blocksOf addr a.width) s

/-- SCALAR_STORE (R22). -/
def execScalarStore (a : PlyAccess) (s : State) : Host.Outcome State Fault Refusal :=
  .next (plyIssue a.ref (topReg a.reg a.width) (scalarStore a) s)

/-! ### Gathers and scatters -/

/-- R116: the bytes that a lane of a gather or scatter names. -/
def laneWidth (a : PlyAccess) (l : Nat) : Nat :=
  a.widths.getD l a.width

/-- One past the highest register that a gather or scatter names. -/
def lanesTop (a : PlyAccess) : Nat :=
  topReg a.reg (a.widths.foldl max a.width)

/-- R116: the lanes of a gather or scatter with their addresses; a lane whose access is suppressed takes no part. -/
def gatherLanes (e : StepEntry) (k : KernelArgs) (a : PlyAccess) (acc : Nat) :
    List Nat → List GatherLane × State → List GatherLane × State
  | [], r => r
  | l :: ls, r =>
    gatherLanes e k a acc ls
      (match plyAddr r.2 k a.region.val (a.offs.getD l 0).toNat (laneWidth a l) acc with
        | .inr x => (r.1, suppressed a.ref.step e.die x.1 x.2 r.2)
        | .inl addr => (r.1 ++ [{ lane := l, addr := addr, width := laneWidth a l }], r.2))

/-- R116: the half bursts of lanes, each once, in the order of the first lane that names it. -/
def halvesOf : List GatherLane → List Nat
  | [] => []
  | l :: ls => l.addr / 32 :: (halvesOf ls).filter (· != l.addr / 32)

/-- R116: the entries that the queue has room for. -/
def gatherRoom (v : VecDie) : Nat :=
  1024 - v.gatherQ.length

/-- R117: a scatter's lanes of one half burst write in ascending order, so that the higher lane's bytes stay. -/
def scatterHalf (die : Nat) (w : GatherWait) (half : Nat) : List GatherLane → State → State
  | [], s => s
  | l :: ls, s =>
    scatterHalf die w half ls
      (if l.addr / 32 = half then
        issueWrite { engine := .vector (Fin.ofNat 256 (64 * die + w.core)), client := w.client, addr := l.addr,
                     bytes := l.data, narrow := true } s
      else s)

/-- R116, R117: half bursts take entries of the queue; a scatter's data goes with them. -/
def gatherTake (die : Nat) (w : GatherWait) : List Nat → State → State
  | [], s => s
  | h :: hs, s =>
    let s := s.modVec die fun v =>
      { v with gatherQ := v.gatherQ ++ [{ core := w.core, ply := w.ply, half := h }],
               gatherEntries := (v.gatherEntries + 1) % 2 ^ 32 }
    gatherTake die w hs (if w.scatter then scatterHalf die w h w.lanes s else s)

/-- R116: a ply's gather or scatter issues: as many half bursts as there is room for enter the queue, the rest wait, and
the ply waits for all of them. -/
def gatherIssue (die : Nat) (w : GatherWait) (halves : List Nat) (s : State) : State :=
  let n := gatherRoom (vget s.vec die)
  let w := { w with need := halves.drop n }
  (gatherTake die w (halves.take n) s).modVec die fun v => { v with waiting := v.waiting ++ [w] }

/-- R116: a lane of a gather whose data lies in local store is read directly. -/
def gatherLocal (e : StepEntry) (a : PlyAccess) : List GatherLane → State → State
  | [], s => s
  | l :: ls, s =>
    let r := noteAccess a.ref.step (engineRead (plyCore e a.ref.core) l.addr l.width s)
    let (bs, s) := delivered false l.addr l.width r
    gatherLocal e a ls (loadRegs e.die a.ref.core a.ref.slot l.lane a.reg bs (ceilDiv l.width 4) s)

/-- R116: a gather issues: lanes in the same half burst share an entry, and the ply waits for its data. -/
def gather (a : PlyAccess) (e : StepEntry) (k : KernelArgs) (s : State) : State :=
  let (ls, s) := gatherLanes e k a accRead (activeLanes k a.ref a.mask) ([], plyErrors e a.ref a.err s)
  let s := gatherLocal e a (ls.filter fun x => !isHank x.addr) s
  let hank := ls.filter fun x => isHank x.addr
  if hank.isEmpty then s
  else gatherIssue e.die { core := a.ref.core, ply := a.ref.slot, lanes := hank, reg := a.reg, client := .step a.ref.step }
    (halvesOf hank) s

/-- GATHER (R116). -/
def execGather (a : PlyAccess) (s : State) : Host.Outcome State Fault Refusal :=
  .next (plyIssue a.ref (lanesTop a) (gather a) s)

/-- R116, R143: a half burst's data returns to the ply that waits for it; a scatter's has been written. -/
def gatherReturn (die : Nat) (g : GatherEntry) (s : State) : State :=
  match (vget s.vec die).waiting.find? fun w => w.core == g.core && w.ply == g.ply with
  | none => s
  | some w =>
    let got := fun (bs : List Byte) (s : State) => s.modVec die fun v =>
      { v with waiting := v.waiting.map fun x =>
          if x.core = g.core && x.ply = g.ply then { x with got := x.got ++ [(g.half, bs)] } else x }
    if w.scatter then got [] s
    else
      let r := narrowRead (32 * g.half) 32 (ownFirst (.vector (Fin.ofNat 256 (64 * die + g.core))) (32 * g.half) 32 s)
      let s := match r.err with
        | some st => clientError w.client st r.s
        | none => r.s
      let (bs, s) := delivered false (32 * g.half) 32 { r with s := s }
      got bs s

/-- R116: the first ply that waits for a free entry takes one. -/
def gatherNext (die : Nat) (s : State) : State :=
  match (vget s.vec die).waiting.find? fun w => !w.need.isEmpty with
  | none => s
  | some w =>
    if gatherRoom (vget s.vec die) = 0 then s
    else
      (gatherTake die w (w.need.take 1) s).modVec die fun v =>
        { v with waiting := v.waiting.map fun x =>
            if x.core = w.core && x.ply = w.ply then { x with need := x.need.drop 1 } else x }

/-- R135: cycles in which a ply waited for a free entry. -/
def countStall (die : Nat) (cycles : Word) (s : State) : State :=
  if (vget s.vec die).waiting.any fun w => !w.need.isEmpty then
    s.modVec die fun v => { v with gatherStalls := (v.gatherStalls + cycles.toNat) % 2 ^ 32 }
  else s

/-- GATHER_ENTRY_FREE (R116): an entry's data has returned; a ply that has waited `cycles` for it issues. -/
def execGatherEntryFree (die : CDie) (index : Fin 1024) (cycles : Word) (s : State) : Host.Outcome State Fault Refusal :=
  .next (
    match (vget s.vec die).gatherQ[index.val]? with
    | none => s
    | some g =>
      let s := countStall die cycles (gatherReturn die g s)
      gatherNext die (s.modVec die fun v => { v with gatherQ := v.gatherQ.eraseIdx index.val }))

/-- R116: the data of a ply's entries that are still in the queue returns. -/
def gatherRest (die core slot : Nat) : List GatherEntry → State → State
  | [], s => s
  | g :: gs, s => gatherRest die core slot gs (if g.core = core && g.ply = slot then gatherReturn die g s else s)

/-- R116: a lane's bytes out of the half bursts that have returned. -/
def gotBytes (w : GatherWait) (l : GatherLane) : List Byte :=
  match w.got.find? fun g => g.1 == l.addr / 32 with
  | some g => sliceBytes g.2 (l.addr % 32) l.width
  | none => []

/-- R116: the lanes of a ply's gather take their data. -/
def gatherLoad (die : Nat) (w : GatherWait) : List GatherLane → State → State
  | [], s => s
  | l :: ls, s =>
    gatherLoad die w ls (loadRegs die w.core w.ply l.lane w.reg (gotBytes w l) (ceilDiv l.width 4) s)

/-- The entries that have come free are taken by plies that wait. -/
def gatherRefill (die : Nat) : Nat → State → State
  | 0, s => s
  | n + 1, s => gatherRefill die n (gatherNext die s)

/-- GATHER_DATA_RETURN (R116): the last of a ply's data returns and the ply goes on; plies that have waited for its
entries issue. -/
def execGatherDataReturn (die : CDie) (core : Fin 64) (ply : GatherEnd) (s : State) :
    Host.Outcome State Fault Refusal :=
  .next (
    match (vget s.vec die).waiting.find? fun w => w.core == core.val && w.ply == ply.slot.val with
    | none => s
    | some w =>
      if !w.need.isEmpty then s
      else
        let q := (vget s.vec die).gatherQ
        let mine := q.filter fun g => g.core == core.val && g.ply == ply.slot.val
        let s := gatherRest die core ply.slot q s
        match (vget s.vec die).waiting.find? fun w => w.core == core.val && w.ply == ply.slot.val with
        | none => s
        | some w =>
          let s := if mine.isEmpty then s else countStall die ply.cycles s
          let s := if w.scatter then s else gatherLoad die w w.lanes s
          let s := s.modVec die fun v =>
            { v with gatherQ := v.gatherQ.filter (fun g => !(g.core == core.val && g.ply == ply.slot.val)),
                     waiting := v.waiting.filter (fun x => !(x.core == core.val && x.ply == ply.slot.val)) }
          gatherRefill die mine.length s)

/-- R117: the lanes of a scatter with the bytes they write. -/
def scatterData (s : State) (die : Nat) (a : PlyAccess) (ls : List GatherLane) : List GatherLane :=
  ls.map fun l => { l with data := laneBytes s die a.ref l.lane a.reg l.width }

/-- R117: the lanes of a scatter that write local store, in ascending order. -/
def scatterLocal (e : StepEntry) (a : PlyAccess) : List GatherLane → State → State
  | [], s => s
  | l :: ls, s => scatterLocal e a ls (plyWrite e a.ref.step a.ref.core l.addr l.data false s)

/-- R117: a scatter obeys the rules of a gather: lanes in the same half burst share an entry, and the ply waits. -/
def scatter (a : PlyAccess) (e : StepEntry) (k : KernelArgs) (s : State) : State :=
  let (ls, s) := gatherLanes e k a accWrite (activeLanes k a.ref a.mask) ([], plyErrors e a.ref a.err s)
  let ls := scatterData s e.die a ls
  let s := scatterLocal e a (ls.filter fun x => !isHank x.addr) s
  let hank := ls.filter fun x => isHank x.addr
  if hank.isEmpty then s
  else gatherIssue e.die { core := a.ref.core, ply := a.ref.slot, lanes := hank, scatter := true, client := .step a.ref.step }
    (halvesOf hank) s

/-- SCATTER (R117). -/
def execScatter (a : PlyAccess) (s : State) : Host.Outcome State Fault Refusal :=
  .next (plyIssue a.ref (lanesTop a) (scatter a) s)

/-! ### Atomics -/

/-- R113: what a local-store atomic on `w` bits stores. -/
def localResult (w : Nat) (op : LocalOp) (old a b : Nat) : Nat :=
  match op with
  | .add => (old + a) % 2 ^ w
  | .min => if signedOf w a < signedOf w old then a else old
  | .max => if signedOf w old < signedOf w a then a else old
  | .and => old &&& a
  | .or => old ||| a
  | .xor => old ^^^ a
  | .swap => a
  | .compareSwap => if old = a then b else old

/-- The previous value goes to the register named, two registers for 64 bits. -/
def atomicDest (die : Nat) (r : PlyRef) (lane : Nat) (dst : Option (Fin 256)) (bs : List Byte) (s : State) : State :=
  match dst with
  | none => s
  | some d => loadRegs die r.core r.slot lane d bs (bs.length / 4) s

/-- R113: an atomic of `n` bytes on local store: a word that fails its check leaves it without effect. -/
def localAtomic (engine : Engine) (step addr n : Nat) (op : LocalOp) (a b : Nat) (s : State) : List Byte × State :=
  let r := noteAccess step (engineRead engine addr n s)
  if r.err.isSome then ([], r.s)
  else
    let new := localResult (8 * n) op (leNat r.bytes) (a % 2 ^ (8 * n)) (b % 2 ^ (8 * n))
    (r.bytes, (memWrite addr (leBytes n new) (noteWrite (.step step) addr n r.s)).s)

/-- R113, R119, R120: the lanes of a local-store atomic, in ascending order; an access that lies beyond its region's bound
is suppressed, and one to hank memory is no local-store atomic (R145). -/
def atomicLanes (a : PlyAtomic) (e : StepEntry) (k : KernelArgs) : List Nat → State → State
  | [], s => s
  | l :: ls, s =>
    let n := if a.wide then 8 else 4
    atomicLanes a e k ls
      (match plyAddr s k a.region.val (a.lanes.offs.getD l 0).toNat n accWrite with
        | .inr x => suppressed a.ref.step e.die x.1 x.2 s
        | .inl addr =>
          if isLocal addr then
            let get := fun r : Nat => leNat (laneBytes s e.die a.ref l r n)
            let r := localAtomic (plyCore e a.ref.core) a.ref.step addr n a.op (get a.a) (get a.b) s
            if r.1.isEmpty then r.2 else atomicDest e.die a.ref l a.dst r.1 r.2
          else s)

/-- One past the highest register that a local-store atomic names. -/
def atomicTop (a : PlyAtomic) : Nat :=
  let n := if a.wide then 8 else 4
  max (topReg a.a n) (max (topReg a.b n) (topReg ((a.dst.map (·.val)).getD 0) n))

/-- R113: a local-store atomic of a ply issues. -/
def plyAtomic (a : PlyAtomic) (s : State) : State :=
  plyIssue a.ref (atomicTop a)
    (fun e k s => atomicLanes a e k (activeLanes k a.ref a.lanes.mask) (plyErrors e a.ref a.lanes.err s)) s

/-- LOCAL_STORE_ATOMIC (R113). -/
def execLocalStoreAtomic (ref : PlyRef) (region : Fin 16) (lanes : AtomicLanes) (wide : Bool) (op : LocalOp) (a b : Fin 256)
    (dest : Option (Fin 256)) (s : State) : Host.Outcome State Fault Refusal :=
  .next (plyAtomic { ref := ref, region := region, lanes := lanes, wide := wide, op := op, a := a, b := b, dst := dest } s)

/-- R145: an atomic at a channel controller; one that meets an uncorrectable error writes nothing. The bytes answered are
the previous value. -/
def hankAtomic (engine : Engine) (client : Client) (addr : Nat) (op : AtomicOp) (s : State) : List Byte × State :=
  let r := memAtomic addr op (noteWrite client addr 8 (ownFirst engine addr 8 s))
  match r.err with
  | some st => ([], clientError client st r.s)
  | none => (r.bytes, r.s)

/-- R119, R120, R145: a kernel's atomic on a hank address, in region i. -/
def kernelAtomic (r : PlyRef) (lane region off : Nat) (op : AtomicOp) (dst : Option (Fin 256)) (err : PlyErrors)
    (e : StepEntry) (k : KernelArgs) (s : State) : State :=
  if !(activeLanes k r 0xFFFFFFFF).contains lane then s
  else
    let s := plyErrors e r err s
    match plyAddr s k region off 8 accWrite with
    | .inr x => suppressed r.step e.die x.1 x.2 s
    | .inl addr =>
      if isHank addr then
        let h := hankAtomic (plyCore e r.core) (.step r.step) addr op s
        if h.1.isEmpty then h.2 else atomicDest e.die r lane dst h.1 h.2
      else s

/-- HANK_ATOMIC (R145). -/
def execHankAtomic (src : AtomicSrc) (region : Fin 16) (addr : BitVec 40) (op : AtomicOp) (dest : Option (Fin 256))
    (s : State) : Host.Outcome State Fault Refusal :=
  match src with
  | .unit engine client =>
    if isHank addr.toNat && mapped addr.toNat 8 then
      .next (spillGate client (fun s => (hankAtomic engine client addr.toNat op s).2) s)
    else .fault (.unmappedAddress addr.toNat)
  | .ply r lane err =>
    .next (plyIssue r (((dest.map (·.val + 2))).getD 0) (kernelAtomic r lane region.val addr.toNat op dest err) s)

/-! ### Arithmetic -/

/-- R112: the encoding of a lane format; the integers have none. -/
def laneFloat : LaneFmt → Option Fmt
  | .fp32 => some fp32
  | .bf16 => some bf16
  | .fp16 => some fp16
  | .e4m3 => some e4m3
  | .e5m2 => some e5m2
  | .int32 => none

/-- The value of an element. -/
def laneNum (f : LaneFmt) (x : Nat) : Num :=
  match laneFloat f with
  | some g => decodeNum g (x % 2 ^ (1 + g.exp + g.man))
  | none => .fin (signedOf 32 x < 0) (signedOf 32 x).natAbs 0

/-- An integer saturated to 32 bits. -/
def saturate (z : Int) : Nat :=
  unsignedOf 32 (max (-(2 ^ 31 : Nat) : Int) (min ((2 ^ 31 : Nat) - 1 : Int) z))

/-- R112: a value converted to a format; the manual states no result for an integer that is out of range, or is no
number: a free value, which depends on the operands alone. -/
def convertLane (dst : LaneFmt) (rule : Rounding) (free : Nat) (v : Num) : Nat :=
  match laneFloat dst with
  | some g => (convertNum g rule false v).code
  | none =>
    match v with
    | .fin neg m e =>
      let q := if 0 ≤ e then m * 2 ^ e.toNat else roundShift rule m (-e).toNat
      let z := signedMag neg q
      if -(2 ^ 31 : Nat) ≤ z && z < (2 ^ 31 : Nat) then unsignedOf 32 z else free % 2 ^ 32
    | _ => free % 2 ^ 32

/-- R112: an operation on floating-point values, before it is rounded to the format. -/
def floatOp (op : LaneOp) (x y z : Num) : Num :=
  match op with
  | .add => addNum x y
  | .sub => addNum x (negNum y)
  | .mul => mulNum x y
  | .fma => addNum (mulNum x y) z
  | .div => divNum x y
  | .sqrt => sqrtNum x
  | .exp => expNum x
  | .exp2 => exp2Num x
  | .log2 => log2Num x
  | .rsqrt => rsqrtNum x
  | _ => x

/-- R112: an operation on codes of one floating-point format. -/
def floatLane (f : LaneFmt) (g : Fmt) (op : LaneOp) (numgen a b c : Nat) : Nat :=
  let free := Config.laneValue f op a b c
  match op with
  | .max => maxIn g a b
  | .min => minIn g a b
  | .convert t => convertLane t .nearest free (laneNum f a)
  | .convertTruncate t => convertLane t .truncate free (laneNum f a)
  | .convertRandom t idx tensor stepNo =>
    convertLane t (randomRounding numgen idx.toNat tensor.toNat stepNo.toNat) free (laneNum f a)
  | _ => encodeNum g (floatOp op (laneNum f a) (laneNum f b) (laneNum f c))

/-- R112: an integer operation; one that the manual does not give integers leaves a free value, which depends on the
operands alone. -/
def intLane (op : LaneOp) (numgen a b c : Nat) : Nat :=
  let free := Config.laneValue .int32 op a b c
  let x := signedOf 32 a
  let y := signedOf 32 b
  match op with
  | .add => unsignedOf 32 (x + y)
  | .sub => unsignedOf 32 (x - y)
  | .mul => unsignedOf 32 (x * y)
  | .fma => unsignedOf 32 (x * y + signedOf 32 c)
  | .satAdd => saturate (x + y)
  | .satSub => saturate (x - y)
  | .satMul => saturate (x * y)
  | .max => if x < y then b else a
  | .min => if y < x then b else a
  | .convert t => convertLane t .nearest free (laneNum .int32 a)
  | .convertTruncate t => convertLane t .truncate free (laneNum .int32 a)
  | .convertRandom t idx tensor stepNo =>
    convertLane t (randomRounding numgen idx.toNat tensor.toNat stepNo.toNat) free (laneNum .int32 a)
  | _ => free % 2 ^ 32

/-- Conversions take one element of a register; everything else takes the pair of a packed 16-bit format. -/
def isConvert : LaneOp → Bool
  | .convert _ | .convertTruncate _ | .convertRandom _ _ _ _ => true
  | _ => false

/-- R109, R112: one lane's register: packed pairs for the 16-bit formats. -/
def laneResult (f : LaneFmt) (op : LaneOp) (numgen a b c : Nat) : Nat :=
  match laneFloat f with
  | none => intLane op numgen a b c
  | some g =>
    if (f = .bf16 || f = .fp16) && !isConvert op then
      let h := 2 ^ 16
      floatLane f g op numgen (a % h) (b % h) (c % h) +
        h * floatLane f g op numgen (a / h % h) (b / h % h) (c / h % h)
    else floatLane f g op numgen a b c

/-- R111, R119: a lane's operand. -/
def laneValue (s : State) (die : Nat) (k : KernelArgs) (r : PlyRef) (lane : Nat) : LaneSrc → Nat
  | .reg x => readReg s die r lane x
  | .param w => fieldOf k.params (4 * w.val) 4
  | .thread => threadOf r lane

/-- One past the highest register that an operand names; a parameter word beyond PARAM_LEN is none of the kernel's. -/
def srcTop : LaneSrc → Nat
  | .reg x => x.val + 1
  | _ => 0

/-- R119: an operand is one that the kernel has. -/
def srcOk (k : KernelArgs) : LaneSrc → Bool
  | .param w => 4 * w.val + 4 ≤ k.params.length
  | _ => true

/-- R112: each lane that takes part computes its result. -/
def arithLanes (die : Nat) (k : KernelArgs) (x : PlyArith) (numgen free : Nat) : List Nat → State → State
  | [], s => s
  | l :: ls, s =>
    let get := laneValue s die k x.ref l
    let v := if x.regParity then Config.freeNat (free + l) else laneResult x.fmt x.op numgen (get x.a) (get x.b) (get x.c)
    arithLanes die k x numgen free ls (writeReg die x.ref.core x.ref.slot l x.dst v s)

/-- R112: an arithmetic instruction; a register file parity error leaves its results undefined. -/
def vectorArith (a : PlyArith) (e : StepEntry) (k : KernelArgs) (s : State) : State :=
  if !(srcOk k a.a && srcOk k a.b && srcOk k a.c) then s
  else
    let s := plyErrors e a.ref { regParity := a.regParity } s
    arithLanes e.die k a (bitsOf s.pkg.pkgCap.toNat 23 20) s.free (activeLanes k a.ref a.mask)
      (if a.regParity then s.drawFrees 32 else s)

/-- VECTOR_ARITH (R112). -/
def execVectorArith (a : PlyArith) (s : State) : Host.Outcome State Fault Refusal :=
  .next (plyIssue a.ref (max (a.dst.val + 1) (max (srcTop a.a) (max (srcTop a.b) (srcTop a.c)))) (vectorArith a) s)

/-- R112: one level of the pairwise tree. -/
def pairUp (f : Nat → Nat → Nat) : List Nat → List Nat
  | a :: b :: xs => f a b :: pairUp f xs
  | xs => xs

/-- R112: the fixed pairwise tree over the 32 lanes: five levels. -/
def treeOf (f : Nat → Nat → Nat) (xs : List Nat) : Nat :=
  (pairUp f (pairUp f (pairUp f (pairUp f (pairUp f xs))))).headD 0

/-- R112: what a reduction does to two values. -/
def reduceFn : ReduceKind → Nat → Nat → Nat
  | .sum => add32
  | .max => maxIn fp32
  | .min => minIn fp32

/-- R93, R112: the block sum of 32 lane values; special values are resolved first, as R88 says. -/
def bsum32 (xs : List Nat) : Nat :=
  let ps := xs.map (decodeNum fp32)
  match specialOf ps with
  | some v => encodeNum fp32 v
  | none => blockSum ps

/-- A value goes to a register of every lane that takes part. -/
def broadcast (die : Nat) (x : PlyReduce) (v : Nat) (ls : List Nat) (s : State) : State :=
  ls.foldl (fun s l => writeReg die x.ref.core x.ref.slot l x.dst v s) s

/-- An instruction that combines the 32 lane values of a ply's source register. -/
def reduceLanes (x : PlyReduce) (f : List Nat → Nat) (e : StepEntry) (k : KernelArgs) (s : State) : State :=
  let s := plyErrors e x.ref { regParity := x.regParity } s
  let v := f ((List.range 32).map fun l => readReg s e.die x.ref l x.src)
  let ls := activeLanes k x.ref x.mask
  if x.regParity then broadcast e.die x (Config.freeNat s.free) ls s.drawFree else broadcast e.die x v ls s

/-- One past the highest register that a reduction names. -/
def reduceTop (a : PlyReduce) : Nat :=
  max (a.dst.val + 1) (a.src.val + 1)

/-- PLY_REDUCTION (R112). -/
def execPlyReduction (a : PlyReduce) (s : State) : Host.Outcome State Fault Refusal :=
  .next (plyIssue a.ref (reduceTop a) (reduceLanes a (treeOf (reduceFn a.kind))) s)

/-- BSUM32 (R112). -/
def execBsum32 (a : PlyReduce) (s : State) : Host.Outcome State Fault Refusal :=
  .next (plyIssue a.ref (reduceTop a) (reduceLanes a bsum32) s)

end Sys2Proof.Machine
end

