-- ==== Sys2Proof/Machine/Attention.lean ====
section
/-!
DEFINITION. Chapter 4, attention: sequence descriptors, pages, partial records, the fold, and the steps ATTEND and MERGE
(R121-R133).
-/

namespace Sys2Proof.Machine

/-! ### Records -/

/-- R125, R129: a partial record, or the running state of a fold; M, L and O are FP32 codes. -/
structure Rec where
  seg : Nat := 0
  empty : Bool := false
  nan : Bool := false
  m : Nat := 0
  l : Nat := 0
  o : List Nat := []
  deriving DecidableEq, Repr, Inhabited

/-- R129: the bytes of a record. -/
def recLen (d : Nat) : Nat :=
  16 + 4 * d

/-- R129: a record as bytes, with the values that its flags give. -/
def recBytes (d : Nat) (r : Rec) : List Byte :=
  let pick := fun v => if r.nan then 0x7FC00000 else if r.empty then 0 else v
  leBytes 2 r.seg ++ leBytes 1 (bit r.empty + 2 * bit r.nan) ++ leBytes 5 0 ++ leBytes 4 (pick r.m) ++ leBytes 4 (pick r.l)
    ++ (List.range d).flatMap fun c => leBytes 4 (pick (r.o.getD c 0))

/-- R129: a record from bytes. -/
def recOf (d : Nat) (bs : List Byte) : Rec :=
  let f := fieldOf bs 2 1
  { seg := fieldOf bs 0 2, empty := f.testBit 0, nan := f.testBit 1, m := fieldOf bs 8 4, l := fieldOf bs 12 4,
    o := (List.range d).map fun c => fieldOf bs (16 + 4 * c) 4 }

/-! ### The fold -/

/-- R126, R127: a fold that has visited nothing. -/
def foldStart : Rec :=
  { empty := true }

/-- R126: an FP32 code that is not finite. -/
def badCode (c : Nat) : Bool :=
  !isFinite fp32 c

/-- R126: one record is folded into the running state: `empty` is the state's have clear. -/
def foldStep (st r : Rec) : Rec :=
  let st := { st with seg := r.seg }
  if r.nan then { st with nan := true }
  else if r.empty then st
  else if st.empty then { st with empty := false, m := r.m, l := r.l, o := r.o }
  else
    let m2 := maxIn fp32 st.m r.m
    let a := exp32 (sub32 st.m m2)
    let b := exp32 (sub32 r.m m2)
    let l := fma32 r.l b (mul32 st.l a)
    let o := List.zipWith (fun x y => fma32 y b (mul32 x a)) st.o r.o
    { st with m := m2, l := l, o := o, nan := st.nan || badCode l || o.any badCode }

/-- R126: records folded in the order given. -/
def foldRecs (rs : List Rec) : Rec :=
  rs.foldl foldStep foldStart

/-- R126: the final output row of a fold, as codes of OUT_FMT. -/
def finalRow (f : Fmt) (d : Nat) (r : Rec) : List Nat :=
  (List.range d).map fun c =>
    if r.nan then nanCode f
    else if r.empty then 0
    else encodeNum f (decodeNum fp32 (div32 (r.o.getD c 0) r.l))

/-! ### One segment -/

/-- R93, R94, R125: the canonical sum of products over K from 0, special values resolved first. -/
def canonDot (xs ys : List Num) : Nat :=
  (canonicalElem none (blockPairs false xs ys [] [] (min xs.length ys.length))).1

/-- The value of 1. -/
def numOne : Num :=
  .fin false 1 0

/-- R125: the greatest of scores that are all finite. -/
def maxScore : List Nat → Nat
  | [] => 0
  | x :: xs => xs.foldl (maxIn fp32) x

/-- R124, R125: the record of a segment from its present positions, in ascending order: the query's elements, the keys
and the values. -/
def segRecord (seg d scale : Nat) (q : List Num) (ks vs : List (List Num)) : Rec :=
  if ks.isEmpty then { seg := seg, empty := true }
  else
    let ss := ks.map fun k => mul32 (canonDot q k) scale
    let m := maxScore ss
    let ps := ss.map fun x => decodeNum bf16 (encodeNum bf16 (decodeNum fp32 (exp32 (sub32 x m))))
    let l := canonDot ps (ps.map fun _ => numOne)
    let o := (List.range d).map fun c => canonDot ps (vs.map fun v => v.getD c default)
    { seg := seg, nan := ss.any badCode || badCode l || o.any badCode, m := m, l := l, o := o }

/-! ### ATTEND's arguments and descriptor -/

/-- R128: the ARGS entry of ATTEND. -/
structure AttendArgs where
  outFmt : Nat
  causal : Bool
  part : Bool
  group : Nat
  qHeads : Nat
  layer : Nat
  queries : Nat
  scale : Nat
  seqRegion : Nat
  seqOff : Nat
  q : Rows
  posRegion : Nat
  posOff : Nat
  out : Rows
  deriving DecidableEq, Repr, Inhabited

/-- R128: ARGS as fields. -/
def attendArgs (bs : List Byte) : AttendArgs :=
  let f := fieldOf bs 2 1
  { outFmt := fieldOf bs 1 1, causal := f.testBit 0, part := f.testBit 1, group := fieldOf bs 3 1,
    qHeads := fieldOf bs 4 2, layer := fieldOf bs 6 2, queries := fieldOf bs 8 4, scale := fieldOf bs 12 4,
    seqRegion := fieldOf bs 0x10 4, seqOff := fieldOf bs 0x18 8, q := rowsAt bs 0x20, posRegion := fieldOf bs 0x30 4,
    posOff := fieldOf bs 0x38 8, out := rowsAt bs 0x40 }

/-- R122: a sequence descriptor. -/
structure SeqDesc where
  len : Nat
  first : Nat
  pages : Nat
  d : Nat
  kvHeads : Nat
  kvFmt : Nat
  layers : Nat
  ptRegion : Nat
  ptOff : Nat
  pool : Nat
  clean : Bool
  deriving DecidableEq, Repr, Inhabited

/-- R122: 64 bytes as a descriptor; `clean` says that its reserved bits are zero. -/
def seqDesc (bs : List Byte) : SeqDesc :=
  { len := fieldOf bs 0 3, first := fieldOf bs 4 3, pages := fieldOf bs 8 4, d := fieldOf bs 12 2,
    kvHeads := fieldOf bs 14 1, kvFmt := fieldOf bs 15 1, layers := fieldOf bs 16 2, ptRegion := fieldOf bs 0x14 4,
    ptOff := fieldOf bs 0x18 8, pool := fieldOf bs 0x20 4,
    clean := fieldOf bs 3 1 == 0 && fieldOf bs 7 1 == 0 && fieldOf bs 18 2 == 0 && fieldOf bs 0x24 28 == 0 }

/-- R122: HEAD_DIM is a multiple of 32 from 32 to 256. -/
def headDimOk (d : Nat) : Bool :=
  d % 32 == 0 && 32 ≤ d && d ≤ 256

/-- R128: the segments of a range, from the first. -/
def rangeSegs (sd : SeqDesc) : List Nat :=
  (List.range ((sd.first + 256 * sd.pages - 1) / 4096 + 1 - sd.first / 4096)).map (· + sd.first / 4096)

/-- R128: the bytes of one run of partial records. -/
def runLen (sd : SeqDesc) : Nat :=
  (rangeSegs sd).length * recLen sd.d

/-- R130 check 1. -/
def descOk (a : AttendArgs) (sd : SeqDesc) : Bool :=
  sd.clean && sd.first % 4096 == 0 && 1 ≤ sd.pages && sd.pages ≤ 65536 && headDimOk sd.d && 1 ≤ sd.kvHeads
    && sd.kvHeads ≤ 64 && (sd.kvFmt == 0x01 || sd.kvFmt == 0x10) && 1 ≤ sd.layers && sd.layers ≤ 1024
    && sd.first + 256 * sd.pages ≤ 16777216 && a.qHeads == a.group * sd.kvHeads && a.layer < sd.layers
    && (!a.part || a.out.stride == 0 || runLen sd ≤ a.out.stride)

/-- R123: bytes of a key or value element. -/
def kvBytes (sd : SeqDesc) : Nat :=
  if sd.kvFmt = 0x10 then 1 else 2

/-- R123: a page's bytes. -/
def pageLen (sd : SeqDesc) : Nat :=
  512 * sd.d * kvBytes sd

/-- R124: one past the last position that a query at `qpos` attends to in the range. -/
def presentEnd (a : AttendArgs) (sd : SeqDesc) (qpos : Nat) : Nat :=
  min (min sd.len (sd.first + 256 * sd.pages)) (if a.causal then qpos + 1 else sd.len)

/-- R130 check 2, of the positions as read. -/
def positionsOk (a : AttendArgs) (sd : SeqDesc) (ws : List Nat) : Bool :=
  ws.all (fun w => w < 2 ^ 24 && w ≤ 0xFFFFFE && w < sd.len) &&
    (a.part || (sd.first == 0 && sd.len ≤ sd.first + 256 * sd.pages))

/-! ### Checks -/

/-- R130, R135: a check failed: VEC_STATUS shows which, the step completes with the status and DETAIL, the frame fails. -/
def attnFail (step : Nat) (e : StepEntry) (n : Nat) (st : Status) (detail : Nat) (s : State) : State :=
  stepError step st detail (s.modVec e.die fun v => { v with attnErr := true, attnCheck := n })

/-- R118: the core that stands for the unit of an attention step. -/
def attnCore (e : StepEntry) : Engine :=
  .vector (Fin.ofNat 256 ((stepCores e).headD (64 * e.die)))

/-- A read of the step behind its region check (R130 check 4), by the streaming or (R142) the narrow path; a data error
ends the step by itself. -/
def attnRead (step : Nat) (e : StepEntry) (narrow : Bool) (handle off n : Nat) (s : State) : Option (List Byte) × State :=
  match stepCheck s [⟨0, handle, off, n, accRead⟩] with
  | some x => (none, attnFail step e 4 x.1 x.2 s)
  | none =>
    let a := regionAddr s handle off
    let r := noteAccess step (if narrow then narrowSpan a n (ownFirst (attnCore e) a n s) else engineRead (attnCore e) a n s)
    if r.err.isSome then (none, r.s) else (some r.bytes, r.s)

/-- R134: register file parity errors of the unit's cores while an attention step runs. -/
def attnParity (step : Nat) (e : StepEntry) : List (Fin 64) → State → State
  | [], s => s
  | c :: cs, s =>
    attnParity step e cs
      (if coreIn e c.val then clientError (.step step) .eDataError (registerParity e.die c.val s) else s)

/-- R23, R134: the errors that an attention step meets while it runs. -/
def attnErrors (step : Nat) (e : StepEntry) (parity : List (Fin 64)) (cells : CellFaults) (s : State) : State :=
  attnParity step e parity (applyCells cells s)

/-- R123: the offset of the page-table entries of a KV head of the layer. -/
def tableOff (a : AttendArgs) (sd : SeqDesc) (h : Nat) : Nat :=
  sd.ptOff + 8 * ((a.layer * sd.kvHeads + h) * sd.pages)

/-- R130: the page-table entries that check 3 needs, head by head; `none` where a read fails. -/
def readTables (step : Nat) (e : StepEntry) (a : AttendArgs) (sd : SeqDesc) (n : Nat) :
    List Nat → List (List Nat) → State → Option (List (List Nat)) × State
  | [], acc, s => (some acc, s)
  | h :: hs, acc, s =>
    match attnRead step e true sd.ptRegion (tableOff a sd h) (8 * n) s with
    | (none, s) => (none, s)
    | (some bs, s) => readTables step e a sd n hs (acc ++ [(List.range n).map fun p => fieldOf bs (8 * p) 8]) s

/-- R130 check 3: page `p` of the range, whose present positions end before `lim`, is VALID and written far enough. -/
def pageOk (sd : SeqDesc) (lim p entry : Nat) : Bool :=
  entry.testBit 63 && min (lim - 1 - (sd.first + 256 * p)) 255 < bitsOf entry 48 40

/-- R130 check 3 over the entries of every head. -/
def pagesOk (sd : SeqDesc) (lim : Nat) (tabs : List (List Nat)) : Bool :=
  tabs.all fun t => (List.range t.length).all fun p => pageOk sd lim p (t.getD p 0)

/-- R123: PAGE_OFFSET. -/
def pageOff (entry : Nat) : Nat :=
  bitsOf entry 39 12 * 4096

/-- R128: the operand of the output. -/
def attendOut (a : AttendArgs) (sd : SeqDesc) : Operand :=
  let row := a.qHeads * sd.d * outBytes a.outFmt
  let runs := a.queries * a.qHeads
  let len := if a.part then (runs - 1) * (if a.out.stride = 0 then runLen sd else a.out.stride) + runLen sd
    else (a.queries - 1) * a.out.stride + row
  { num := 2, handle := a.out.handle, off := a.out.off, len := len, acc := accWrite }

/-- R130 check 4, the rest: the queries, the pages, the output. -/
def attendOperands (a : AttendArgs) (sd : SeqDesc) (tabs : List (List Nat)) : List Operand :=
  rowsOperand 1 accRead a.queries (a.qHeads * sd.d * 2) a.q ::
    (tabs.flatMap fun t => t.map fun e => (⟨1, sd.pool, pageOff e, pageLen sd, accRead⟩ : Operand)) ++ [attendOut a sd]

/-! ### Computation -/

/-- R123: a row of keys or values, widened to BF16. -/
def kvRow (sd : SeqDesc) (bs : List Byte) : List Num :=
  rowElems (if sd.kvFmt = 0x10 then 0x10 else 0x01) sd.d bs

/-- Rows of a page half, read in order with the first error met. -/
def readKv (e : StepEntry) (sd : SeqDesc) (base : Nat) : Nat → Nat → List (List Num) × Option Status × State →
    List (List Num) × Option Status × State
  | _, 0, r => r
  | i, n + 1, r =>
    let len := sd.d * kvBytes sd
    let x := engineRead (attnCore e) (base + i * len) len r.2.2
    readKv e sd base (i + 1) n (r.1 ++ [kvRow sd x.bytes], r.2.1 <|> x.err, x.s)

/-- R123: the keys (`half = 0`) or values (`half = 1`) of a head's present positions, in ascending order. -/
def readHead (u : StepEntry) (sd : SeqDesc) (half lim : Nat) : Nat → List Nat → List (List Num) × Option Status × State →
    List (List Num) × Option Status × State
  | _, [], r => r
  | p, e :: es, r =>
    let n := min 256 (lim - (sd.first + 256 * p))
    let base := regionAddr r.2.2 sd.pool (pageOff e + half * (256 * sd.d * kvBytes sd))
    readHead u sd half lim (p + 1) es (readKv u sd base 0 n r)

/-- The keys and values of every KV head. -/
def readHeads (u : StepEntry) (sd : SeqDesc) (lim : Nat) : List (List Nat) →
    List (List (List Num) × List (List Num)) × Option Status × State →
    List (List (List Num) × List (List Num)) × Option Status × State
  | [], r => r
  | t :: ts, r =>
    let k := readHead u sd 0 lim 0 t ([], r.2.1, r.2.2)
    let v := readHead u sd 1 lim 0 t ([], k.2.1, k.2.2)
    readHeads u sd lim ts (r.1 ++ [(k.1, v.1)], v.2.1, v.2.2)

/-- R124, R125: the records of a query row and head over the segments of the range. -/
def headRecords (a : AttendArgs) (sd : SeqDesc) (qpos : Nat) (q : List Num) (kv : List (List Num) × List (List Num)) :
    List Rec :=
  (rangeSegs sd).map fun g =>
    let lo := max (4096 * g) sd.first
    let n := min (presentEnd a sd qpos) (4096 * (g + 1)) - lo
    segRecord g sd.d a.scale q ((kv.1.drop (lo - sd.first)).take n) ((kv.2.drop (lo - sd.first)).take n)

/-- Outputs with their addresses, and whether one of them is the canonical NaN (R135). -/
structure AttnOut where
  writes : List (Nat × List Byte) := []
  nan : Bool := false
  deriving DecidableEq, Repr, Inhabited

/-- R128: what a query row writes. -/
def attendRow (s : State) (a : AttendArgs) (sd : SeqDesc) (qi qpos : Nat) (q : List Num)
    (kvs : List (List (List Num) × List (List Num))) : AttnOut :=
  let recs := (List.range a.qHeads).map fun j =>
    headRecords a sd qpos ((q.drop (j * sd.d)).take sd.d) (kvs.getD (j / a.group) ([], []))
  if a.part then
    let stride := if a.out.stride = 0 then runLen sd else a.out.stride
    { writes := (List.range a.qHeads).map fun j =>
        (regionAddr s a.out.handle (a.out.off + (qi * a.qHeads + j) * stride), (recs.getD j []).flatMap (recBytes sd.d)),
      nan := recs.any fun rs => rs.any (·.nan) }
  else
    match outFloat a.outFmt with
    | none => {}
    | some f =>
      let codes := recs.flatMap fun rs => finalRow f sd.d (foldRecs rs)
      { writes := [(regionAddr s a.out.handle (a.out.off + qi * a.out.stride),
          codes.flatMap fun c => leBytes (outBytes a.outFmt) c)],
        nan := codes.any fun c => codeIsNan a.outFmt c }

/-- Query rows, read and computed one after the other. -/
def attendRows (e : StepEntry) (a : AttendArgs) (sd : SeqDesc) (ps : List Nat)
    (kvs : List (List (List Num) × List (List Num))) : Nat → Nat → AttnOut × Option Status × State →
    AttnOut × Option Status × State
  | _, 0, r => r
  | qi, n + 1, r =>
    let len := a.qHeads * sd.d * 2
    let x := engineRead (attnCore e) (regionAddr r.2.2 a.q.handle (a.q.off + qi * a.q.stride)) len r.2.2
    let o := attendRow x.s a sd qi (ps.getD qi 0) (rowElems 0x01 (a.qHeads * sd.d) x.bytes) kvs
    attendRows e a sd ps kvs (qi + 1) n
      ({ writes := r.1.writes ++ o.writes, nan := r.1.nan || o.nan }, r.2.1 <|> x.err, x.s)

/-- A step's outputs go to its cores' store queues. -/
def attnWrites (e : StepEntry) (step : Nat) (ws : List (Nat × List Byte)) (s : State) : State :=
  ws.foldl (fun s w => issueWrite { engine := attnCore e, client := .step step, addr := w.1, bytes := w.2 } s) s

/-- R149: the outputs of a step whose operands could not be read are undefined. -/
def attnSpoil (ws : List (Nat × List Byte)) (s : State) : State :=
  ws.foldl (fun s w => markUndef w.1 w.2.length s) s

/-- What an attention step leaves: its outputs, or the error of its reads. -/
def attnFinish (e : StepEntry) (step : Nat) (r : AttnOut × Option Status × State) : State :=
  match r.2.1 with
  | some st => clientError (.step step) st (attnSpoil r.1.writes r.2.2)
  | none =>
    attnWrites e step r.1.writes
      (r.2.2.modVec e.die fun v => { v with nanOut := v.nanOut || r.1.nan })

/-- R130: check 4 and the computation. -/
def attendCompute (step : Nat) (e : StepEntry) (a : AttendArgs) (sd : SeqDesc) (ps : List Nat) (lim : Nat) (tabs : List (List Nat))
    (s : State) : State :=
  match stepCheck s (attendOperands a sd tabs) with
  | some x => attnFail step e 4 x.1 x.2 s
  | none =>
    let kv := readHeads e sd lim tabs ([], none, s)
    attnFinish e step (attendRows e a sd ps kv.1 0 a.queries ({}, kv.2.1, kv.2.2))

/-- R130: check 3 over the pages that hold a present position. -/
def attendPages (step : Nat) (e : StepEntry) (a : AttendArgs) (sd : SeqDesc) (ps : List Nat) (s : State) : State :=
  let lim := presentEnd a sd (ps.foldl max 0)
  let n := ceilDiv (lim - sd.first) 256
  match readTables step e a sd n (if n = 0 then [] else List.range sd.kvHeads) [] s with
  | (none, s) => s
  | (some tabs, s) =>
    if pagesOk sd lim tabs then attendCompute step e a sd ps lim tabs s else attnFail step e 3 .eKvPage 0 s

/-- R130: check 2. -/
def attendPositions (step : Nat) (e : StepEntry) (a : AttendArgs) (sd : SeqDesc) (s : State) : State :=
  match attnRead step e false a.posRegion a.posOff (4 * a.queries) s with
  | (none, s) => s
  | (some bs, s) =>
    let ws := (List.range a.queries).map fun i => fieldOf bs (4 * i) 4
    if positionsOk a sd ws then attendPages step e a sd ws s else attnFail step e 2 .eSeqPosition 0 s

/-- R128, R130: the work of ATTEND: QUERIES = 0 is a successful no-operation. -/
def attendStep (step : Nat) (e : StepEntry) (args : List Byte) (s : State) : State :=
  let a := attendArgs args
  if a.queries = 0 then s
  else if a.seqOff % 64 ≠ 0 then attnFail step e 1 .eSeqDescriptor 0 s
  else match attnRead step e false a.seqRegion a.seqOff 64 s with
    | (none, s) => s
    | (some bs, s) =>
      if descOk a (seqDesc bs) then attendPositions step e a (seqDesc bs) s
      else attnFail step e 1 .eSeqDescriptor 0 s

/-- ATTEND (R128), with the errors that it meets while it runs. -/
def execAttend (step : CoreStep) (s : State) : Host.Outcome State Fault Refusal :=
  .next (startStep step.step 2 2
    (fun _ e args s => attendStep step.step e args (attnErrors step.step e step.parity step.cells s)) s)

/-! ### MERGE -/

/-- R132: the ARGS entry of MERGE. -/
structure MergeArgs where
  outFmt : Nat
  d : Nat
  queries : Nat
  qHeads : Nat
  segs : Nat
  part : Nat
  partOff : Nat
  out : Rows
  deriving DecidableEq, Repr, Inhabited

/-- R132: ARGS as fields. -/
def mergeArgs (bs : List Byte) : MergeArgs :=
  { outFmt := fieldOf bs 0 1, d := fieldOf bs 2 2, queries := fieldOf bs 4 4, qHeads := fieldOf bs 8 2,
    segs := fieldOf bs 10 2, part := fieldOf bs 0x10 4, partOff := fieldOf bs 0x18 8, out := rowsAt bs 0x20 }

/-- R132: the runs of a MERGE. -/
def mergeRuns (a : MergeArgs) : Nat :=
  a.queries * a.qHeads

/-- R132, R133: the operands of MERGE. -/
def mergeOperands (a : MergeArgs) : List Operand :=
  [⟨1, a.part, a.partOff, mergeRuns a * a.segs * recLen a.d, accRead⟩,
   ⟨2, a.out.handle, a.out.off,
    if a.outFmt = 0x7F then mergeRuns a * recLen a.d else (a.queries - 1) * a.out.stride + a.qHeads * a.d * outBytes a.outFmt,
    accWrite⟩]

/-- R133: SEG strictly ascends within a run. -/
def segsRise : List Rec → Bool
  | r :: s :: rs => r.seg < s.seg && segsRise (s :: rs)
  | _ => true

/-- R132: the records of run `i`. -/
def runRecs (a : MergeArgs) (bs : List Byte) (i : Nat) : List Rec :=
  (List.range a.segs).map fun k => recOf a.d (sliceBytes bs ((i * a.segs + k) * recLen a.d) (recLen a.d))

/-- R132: what MERGE writes. -/
def mergeOut (s : State) (a : MergeArgs) (bs : List Byte) : AttnOut :=
  let folds := (List.range (mergeRuns a)).map fun i => foldRecs (runRecs a bs i)
  if a.outFmt = 0x7F then
    { writes := [(regionAddr s a.out.handle a.out.off, folds.flatMap (recBytes a.d))], nan := folds.any (·.nan) }
  else match outFloat a.outFmt with
    | none => {}
    | some f =>
      let rows := (List.range a.queries).map fun q =>
        ((folds.drop (q * a.qHeads)).take a.qHeads).flatMap (finalRow f a.d)
      { writes := (List.range a.queries).map fun q =>
          (regionAddr s a.out.handle (a.out.off + q * a.out.stride),
            (rows.getD q []).flatMap fun c => leBytes (outBytes a.outFmt) c),
        nan := rows.any fun r => r.any fun c => codeIsNan a.outFmt c }

/-- R132, R133: the work of MERGE: no run at all is a successful no-operation. -/
def mergeStep (step : Nat) (e : StepEntry) (args : List Byte) (s : State) : State :=
  let a := mergeArgs args
  if mergeRuns a = 0 then s
  else match stepCheck s (mergeOperands a) with
    | some x => attnFail step e 4 x.1 x.2 s
    | none =>
      let r := engineRead (attnCore e) (regionAddr s a.part a.partOff) (mergeRuns a * a.segs * recLen a.d) s
      if r.err.isNone && !((List.range (mergeRuns a)).all fun i => segsRise (runRecs a r.bytes i)) then
        attnFail step e 5 .eMergeOrder 0 r.s
      else attnFinish e step (mergeOut r.s a r.bytes, r.err, r.s)

/-- MERGE (R132), with the errors that it meets while it runs. -/
def execMerge (step : CoreStep) (s : State) : Host.Outcome State Fault Refusal :=
  .next (startStep step.step 2 3
    (fun _ e args s => mergeStep step.step e args (attnErrors step.step e step.parity step.cells s)) s)

end Sys2Proof.Machine
end

