-- ==== Sys2Proof/Machine/Firmware.lean ====
section
/-!
DEFINITION. Chapter 16: firmware images and their checks (R389-R391), slots (R392, R393), the update command (R397) and
the security version commit (R394).
-/

namespace Sys2Proof.Machine

/-! ### Images -/

/-- R390: a component table entry: type, offset, length, digest. -/
structure FwComp where
  typ : Nat := 0
  off : Nat := 0
  len : Nat := 0
  digest : List Byte := []
  deriving DecidableEq, Repr, Inhabited

/-- R390: the three entries of the COMPONENT table. -/
def fwComps (img : List Byte) : List FwComp :=
  [0x540, 0x590, 0x5E0].map fun o =>
    { typ := fieldOf img o 4, off := fieldOf img (o + 4) 4, len := fieldOf img (o + 8) 4,
      digest := sliceBytes img (o + 16) 64 }

/-- The bytes of a range are all zero. -/
def zeroBytes (bs : List Byte) (off n : Nat) : Bool :=
  (sliceBytes bs off n).all (· == 0)

/-- R390: the reserved bytes and bits of an image are zero. -/
def fwReservedZero (img : List Byte) : Bool :=
  [(0x006, 2), (0x011, 1), (0x016, 234), (0x508, 56), (0x54C, 4), (0x59C, 4), (0x5EC, 4)].all (fun r => zeroBytes img r.1 r.2)
    && fieldOf img 0x12 1 < 8 && fieldOf img 0x13 1 < 4

/-- R390: the components lie in the image, at multiples of 4 KiB, do not overlap, and each type appears once. -/
def fwCompsPlaced (n : Nat) (cs : List FwComp) : Bool :=
  cs.all (fun c => 0x1000 ≤ c.off && c.off % 4096 == 0 && c.off + c.len + 512 ≤ n) &&
    decide (cs.Pairwise fun a b => overlaps a.off a.len b.off b.len = false) &&
    [1, 2, 3].all fun t => (cs.filter fun c => c.typ == t).length == 1

/-- R391 check 1. -/
def fwFormatOk (img : List Byte) : Bool :=
  fieldOf img 0 4 == 0x4E4D5857 && fieldOf img 4 2 == 1 && fieldOf img 8 4 == img.length && img.length ≤ 0x4000000 &&
    fieldOf img 0x14 2 == 3 && fwReservedZero img && fwCompsPlaced img.length (fwComps img) &&
    fieldOf img 0x500 4 == 65537 && fieldOf img 0x504 4 == 65537

/-- R389: a big-endian modulus or signature is passed on as its bytes. -/
def fwModulus (img : List Byte) : List Byte :=
  sliceBytes img 0x100 512

/-- R390: SHA-512 over ROOT_MODULUS followed by ROOT_EXPONENT. -/
def fwRootDigest (img : List Byte) : List Byte :=
  (Config.sha512 (fwModulus img ++ sliceBytes img 0x500 4)).toList

/-- R391 check 3: SIGNATURE over every byte before it. -/
def fwSignatureOk (img : List Byte) : Bool :=
  Config.rsaVerify (fwModulus img) (img.take (img.length - 512)) (img.drop (img.length - 512))

/-- R391 check 4: every component's digest matches. -/
def fwDigestsOk (img : List Byte) : Bool :=
  (fwComps img).all fun c => (Config.sha512 (sliceBytes img c.off c.len)).toList == c.digest

/-- R391: the REASON of checks 1 to 4, 0 where an image passes them. -/
def fwFlaw (root img : List Byte) : Nat :=
  if !fwFormatOk img then 1
  else if fwRootDigest img != root then 2
  else if !fwSignatureOk img then 3
  else if !fwDigestsOk img then 4
  else 0

/-- R390: the digest of the component of a type. -/
def fwDigest (img : List Byte) (typ : Nat) : List Byte :=
  (((fwComps img).find? fun c => c.typ == typ).map (·.digest)).getD []

/-- R390: what the device keeps of an image. -/
def fwImageOf (img : List Byte) : FwImage where
  major := fieldOf img 0x0C 2
  minor := fieldOf img 0x0E 2
  svn := fieldOf img 0x10 1
  cdRevs := fieldOf img 0x12 1
  ldRevs := fieldOf img 0x13 1
  digests := [1, 2, 3].map (fwDigest img)
  debugKey := sliceBytes img 0x300 512

/-- R32, R390: the bit of CD_REVS (compute) or LD_REVS for a die's revision, MAJOR and MINOR of its capability word. -/
def revisionBit (compute : Bool) (cap : Word) : Option Nat :=
  match compute, cap.toNat / 2 ^ 24 with
  | true, 0x10 => some 0
  | true, 0x11 => some 1
  | true, 0x20 => some 2
  | false, 0x10 => some 0
  | false, 0x20 => some 1
  | _, _ => none

/-- R391 check 6: the revision of every die is set in CD_REVS or LD_REVS. -/
def revisionsOk (caps : Vector Word 6) (im : FwImage) : Bool :=
  (List.range 6).all fun n =>
    match revisionBit (n < 4) (vget caps n) with
    | some b => if n < 4 then im.cdRevs.testBit b else im.ldRevs.testBit b
    | none => false

/-! ### Slots -/

/-- R391: the REASON that a slot whose image can be read gives at boot, 0 where it passes. -/
def slotReason (s : State) (sl : Slot) : Nat :=
  match sl.image with
  | none => 1
  | some im =>
    if sl.flaw ≠ 0 then sl.flaw
    else if im.svn < svnOf s.sec.svnWord then 5
    else if !revisionsOk s.pkg.dieCap im then 6
    else 0

/-- R393: a slot is marked REJECTED with its REASON; the failure is shown. -/
def rejectSlot (i reason : Nat) (s : State) : State :=
  let pend := (s.slotAt i).st = .pending
  let s := s.modSec fun x =>
    { x with fallback := x.fallback || pend, fwSigFail := x.fwSigFail || decide (reason < 7) }
  s.modSlot i fun sl => { sl with st := .rejected, reason := reason, attempted := false }

/-- The number of the first slot in a state. -/
def slotIn (s : State) (st : SlotState) : Option Nat :=
  [0, 1].find? fun i => (s.slotAt i).st == st

/-- R393, R405: verify a slot: booted if it passes, else rejected; `unread` are the slots whose flash cannot be read. -/
def trySlot (unread : BitVec 2) (st : SlotState) (s : State) : Option Nat × State :=
  match slotIn s st with
  | none => (none, s)
  | some i =>
    let r := if unread.getLsbD i then 8 else slotReason s (s.slotAt i)
    if r = 0 then (some i, s) else (none, rejectSlot i r s)

/-- R393 steps 1 and 2: the PENDING slot is attempted once. -/
def tryPending (unread : BitVec 2) (s : State) : Option Nat × State :=
  match slotIn s .pending with
  | none => (none, s)
  | some i =>
    if (s.slotAt i).attempted then (none, rejectSlot i 7 s)
    else trySlot unread .pending (s.modSlot i fun sl => { sl with attempted := true })

/-- R393: the slot that boots. -/
def chooseSlot (unread : BitVec 2) (s : State) : Option Nat × State :=
  match tryPending unread s with
  | (some i, s) => (some i, s)
  | (none, s) =>
    match trySlot unread .active s with
    | (some i, s) => (some i, s)
    | (none, s) => trySlot unread .valid s

/-- R396: CODE where no slot passed: 0x31 if every slot that holds an image failed for its version, 0x33 if none failed for
another REASON than that or a flash read error. -/
def noSlotCode (s : State) : Nat :=
  let held := [0, 1].filter fun i => (s.slotAt i).image.isSome
  let why := held.map fun i => (s.slotAt i).reason
  if !why.isEmpty && why.all (· == 5) then 0x31
  else if why.contains 8 && why.all fun r => r == 5 || r == 8 then 0x33
  else 0x30

/-- R392, R394: READY has been reached on slot `i`: it is ACTIVE, the other slot no longer; the commit of its version
begins. -/
def slotReady (i : Nat) (s : State) : State :=
  let s := s.modSlot (1 - i) fun sl => { sl with st := if sl.st = .active then .valid else sl.st }
  let s := s.modSlot i fun sl => { sl with st := .active, reason := 0, attempted := false }
  let svn := (((s.slotAt i).image).map (·.svn)).getD 0
  s.modSec fun x => { x with commit := if svnOf x.svnWord < min svn 64 then some (min svn 64) else none }

/-- SVN_BIT_BLOWN (R394): the next bit has been blown and verified. -/
def execSvnBitBlown (ok : Bool) (s : State) : Host.Outcome State Fault Refusal :=
  .next (
    match s.sec.commit with
    | none => s
    | some target =>
      if !ok then s
      else
        let w := s.sec.svnWord ||| BitVec.ofNat 64 (2 ^ svnOf s.sec.svnWord)
        s.modSec fun x => { x with svnWord := w, commit := if target ≤ svnOf w then none else some target })

/-! ### fw.update -/

/-- R397: the slot that an update writes: the one that is not ACTIVE. -/
def updateTarget (s : State) : Nat :=
  if (s.slotAt 0).st = .active then 1 else 0

/-- R397: an update has failed: its target slot is EMPTY. -/
def fwUpdateFail (m : Nat) (st : Status) (d : Nat) (s : State) : State :=
  failMbx m st d (s.modSlot (updateTarget s) fun _ => {})

/-- R397 checks 2 and 3, and the slot written. -/
def fwInstall (m : Nat) (img : List Byte) (s : State) : State :=
  let im := fwImageOf img
  let flaw := fwFlaw s.sec.rootDigest img
  let reason := if flaw ≠ 0 then flaw else if !revisionsOk s.pkg.dieCap im then 6 else 0
  let fused := svnOf s.sec.svnWord
  if reason ≠ 0 then
    fwUpdateFail m .eFwSignature reason (s.modSec fun x => { x with fwSigFail := true })
  else if im.svn < fused then
    fwUpdateFail m .eFwRollback (256 * im.svn + fused) (s.modSec fun x => { x with fwSigFail := true })
  else completeMbx m .sOk 0 (leBytes 8 im.svn)
    (s.modSlot (updateTarget s) fun _ => { st := .pending, image := some im })

/-- R397: `fw.update`. -/
def fwUpdate (m : Nat) (r : MbxReq) (s : State) : State :=
  let h := fieldOf r.params 0 4
  let n := fieldOf r.params 4 4
  let o := fieldOf r.params 8 8
  if s.res.flashRo then failMbx m .eFlash 0 s
  else match checkOperands s (anyTenant s h) [{ num := 1, handle := h, off := o, len := n }] with
    | some (st, d) => fwUpdateFail m st d s
    | none =>
      let rd := flyerRead (regionAddr s h o) n s
      match rd.err with
      | some st => fwUpdateFail m st 0 rd.s
      | none => fwInstall m rd.bytes rd.s

/-- FW_UPDATE (R397). -/
def execFwUpdate (mbx : MbxId) (s : State) : Host.Outcome State Fault Refusal :=
  .next (casbomi 0x0090 mbx (fwUpdate mbx) s)

end Sys2Proof.Machine
end

