-- ==== Sys2Proof/Machine/Hank.lean ====
section
/-!
DEFINITION. Chapter 5: accesses at the channel controllers, re-sends, scrubs, refreshes, row repairs, retrains and pin
repairs, loop-back tests, placement and the probe.
-/

namespace Sys2Proof.Machine

/-! ### Accesses -/

/-- STREAM_ACCESS (R142). -/
def execStreamAccess (a : MemAccess) (s : State) : Host.Outcome State Fault Refusal :=
  if mapped a.addr.toNat a.len then .next (spillGate a.client (arrive false a) s) else .fault (.unmappedAddress a.addr.toNat)

/-- NARROW_ACCESS (R143). -/
def execNarrowAccess (a : MemAccess) (s : State) : Host.Outcome State Fault Refusal :=
  if mapped a.addr.toNat a.len then .next (spillGate a.client (arrive true a) s) else .fault (.unmappedAddress a.addr.toNat)

/-- WMB_ENTRY_TIMEOUT (R142): the entry of a block has been held for 1 µs. -/
def execWmbEntryTimeout (block : Nat) (s : State) : Host.Outcome State Fault Refusal :=
  .next (wmbFlushBlock block s)

/-- STACK_SCRUB (R148, R149): the stack corrects a block, or finds it uncorrectable and records it; no operation and no
frame fails. -/
def execStackScrub (block : Nat) (bad : Bool) (s : State) : Host.Outcome State Fault Refusal :=
  .next (
    if !isHank (64 * block) then s
    else if bad then recordUe block (blocksFail [block] s)
    else stackCorrected (hankOf s (64 * block)) 1 s)

/-- REFRESH (R151): the hank's refresh interval expires. -/
def execRefresh (hank : HankId) (s : State) : Host.Outcome State Fault Refusal :=
  .next (if s.hnk.selfRefresh then s else s.modHank hank fun k => { k with refreshes := k.refreshes + 1 })

/-! ### Retrains and pin repairs -/

/-- R154: a channel in the queue, or in action. -/
def actionPending (s : State) (c : Nat) : Bool :=
  s.hnk.queue.any (fun e => e.1 == c) || (s.hnk.active.map (·.1)) == some c

/-- R154: an action is queued at the end; a channel appears at most once. -/
def queueAction (c : Nat) (k : ActKind) (s : State) : State :=
  if actionPending s c then s else s.modHnk fun x => { x with queue := x.queue ++ [(c, k)] }

/-- R147, R154, R155: an action is queued ahead of every other; a pin repair of the channel that waits already brings its
retrain with it, and moves to the head. -/
def queueFirst (c : Nat) (k : ActKind) (s : State) : State :=
  s.modHnk fun x =>
    { x with queue := (c, if x.queue.contains (c, .pinRepair) then .pinRepair else k) :: x.queue.filter (fun e => e.1 != c) }

/-- R155: the spare pins of a channel that are not used. -/
def pinSparesLeft (ch : Chan) : Nat :=
  bit ch.s0.isNone + bit ch.s1.isNone

/-- R156, R157: a pin repair is needed on a channel: queued, or the hank is lost where no spare pin is left; `l2` says that
the event takes level 2 too. -/
def needPinRepair (row c n : Nat) (first l2 : Bool) (s : State) : State :=
  let l : Levels := { row := row, obj := c, count := n, l2 := l2 }
  if pinSparesLeft (s.chanAt c) = 0 then loseHank (c / 256) (escalate { l with l4 := true } s)
  else
    let s := escalate { l with l3 := true } s
    if first then queueFirst c .pinRepair s
    else s.modHnk fun x => { x with queue := x.queue.filter (fun e => e.1 != c) ++ [(c, .pinRepair)] }

/-- R147: `n` re-sends on a channel; from the sixteenth in the window on, a retrain is queued. -/
def resent (c n : Nat) (s : State) : State :=
  let s := winAdd 12 0 c n (s.modHank (c / 256) fun k => { k with resends := (k.resends + n) % 2 ^ 32 })
  let k := winCount s 12 0 c
  let s := if 16 ≤ k then queueAction c .retrain s else s
  escalate { row := 12, obj := c, count := k, l2 := 16 ≤ k } s

/-- R147: the operation that needed a burst ends with E_DATA_ERROR: a step or a command of this device at once; the host's
or another device's operation when its access on the channel is performed. -/
def burstLost (c : Nat) (client : Client) (s : State) : State :=
  match client with
  | .host | .fabric => s.modHnk fun x => { x with lostBursts := x.lostBursts ++ [(c, client)] }
  | _ => clientError client .eDataError s

/-- R147: a burst fails `n` transfers, 1 to 4: it is sent again after each of the first three; the fourth ends the
operation that needed it, and a retrain goes to the head of the queue. -/
def burstFailed (c n : Nat) (client : Client) (s : State) : State :=
  let s := resent c (min n 3) s
  if n < 4 then s
  else
    let s := queueFirst c .retrain (burstLost c client s)
    let s := winBump 13 0 c s
    escalate { row := 13, obj := c, count := winCount s 13 0 c, l2 := true } s

/-- R146: bits of a value, lowest first. -/
def bitsUp (n v : Nat) : List Bool :=
  (List.range n).map v.testBit

/-- R146: the check word of a burst or half burst with a STATUS: a CRC-16 over 64 bytes and the word's bits [31:16], or a
CRC-12 over 32 bytes and the word's bits [15:12]. -/
def checkWord (status : Nat) (data : List Byte) : Nat :=
  let ds := data.flatMap byteBitsLsb
  if data.length = 64 then 2 ^ 16 * status + crcBits 16 0x8BB7 0xFFFF (ds ++ bitsUp 16 status)
  else 2 ^ 12 * status + crcBits 12 0x80F 0xFFF (ds ++ bitsUp 4 status)

/-- R146, R147: the receiving side finds a mismatch in a transfer. -/
def burstBad (b : Burst) : Bool :=
  if b.data.length = 64 then b.word.toNat != checkWord (bitsOf b.word.toNat 31 16) b.data
  else b.word.toNat % 2 ^ 16 != checkWord (bitsOf b.word.toNat 15 12) b.data

/-- BURST_CRC_MISMATCH (R146, R147): the transfers of one burst or half burst, as they arrive; it is sent again while the
check fails, at most three times. -/
def execBurstCrcMismatch (chan : ChanId) (transfers : List Burst) (client : Client) (s : State) :
    Host.Outcome State Fault Refusal :=
  .next (
    let n := ((transfers.take 4).takeWhile burstBad).length
    if n = 0 then s else burstFailed chan n client s)

/-- R154: an action has started in this frame; a device in no domain has no frames. -/
def actedThisFrame (s : State) : Bool :=
  s.frm.role != .none && s.hnk.actedIn == some s.frm.number

/-- R156: a COMPUTE reset waits for the action in progress before the hanks enter self-refresh. -/
def refreshDue (s : State) : State :=
  if s.pkg.computeReset && s.hnk.active.isNone && s.hnk.rowActive.isNone then s.modHnk fun x => { x with selfRefresh := true }
  else s

/-- CHANNEL_ACTION_START (R154): the head of the queue starts at a frame start whose stretch has been requested, in a
pause frame, or at any frame start without a program. -/
def execChannelActionStart (s : State) : Host.Outcome State Fault Refusal :=
  .next (
    match s.hnk.queue with
    | [] => s
    | e :: q =>
      if s.hnk.active.isNone && !s.hnk.stopped && !s.hnk.selfRefresh && (s.hnk.asked || s.frm.pause || noProgram s)
          && !actedThisFrame s then
        s.modHnk fun x => { x with active := some e, queue := q, asked := false, actedIn := some s.frm.number }
      else s)

/-- R156: a band change that fell due during an action applies when the channel resumes. -/
def applyBandDue (h : Nat) (s : State) : State :=
  s.modHank h fun k => match k.bandDue with
    | some b => { k with band := b, bandDue := none }
    | none => k

/-- R154, R155: the retrain of a channel, alone or at the end of a pin repair, has ended. -/
def retrainEnded (c : Nat) (ok : Bool) (margins : List Nat) (s : State) : State :=
  let s := applyBandDue (c / 256) (s.modHnk fun x => { x with active := none })
  let s := s.modChan c fun ch => { ch with margins := margins }
  let s := if ok then s else needPinRepair 12 c (winCount s 12 1 c) true false s
  refreshDue (resumeHeld s)

/-- R154, R155: the third retrain within the hour asks for a pin repair. -/
def retrainCounted (c : Nat) (ok : Bool) (s : State) : State :=
  let s := winBump 12 1 c (s.modHnk fun x => { x with retrains := wrapInc 16 x.retrains })
  if ok && 3 ≤ winCount s 12 1 c then needPinRepair 12 c (winCount s 12 1 c) false false s else s

/-- RETRAIN_COMPLETE (R154, R155). -/
def execRetrainComplete (ok : Bool) (margins : List Nat) (s : State) : Host.Outcome State Fault Refusal :=
  .next (
    match s.hnk.active with
    | some (c, .retrain) => retrainCounted c ok (retrainEnded c ok margins s)
    | _ => s)

/-- R155: the working pin with the smallest margin, a data pin or the check pin (0 to 16), lowest first. -/
def weakestPin (ch : Chan) : Nat :=
  let pins := (List.range 17).filter fun p => ch.s0 != some p && ch.s1 != some p
  pins.foldl (fun best p => if ch.margins.getD p 0 < ch.margins.getD best 0 then p else best) (pins.headD 0)

/-- R155: the weakest pin is mapped onto the lower-numbered free spare. -/
def mapPin (ch : Chan) : Chan :=
  let p := weakestPin ch
  if ch.s0.isNone then { ch with s0 := some p } else { ch with s1 := some p }

/-- R155: a pin repair has ended: its map holds, and the channel's retrain count restarts. -/
def pinRepaired (c : Nat) (ok : Bool) (margins : List Nat) (s : State) : State :=
  let s := s.modChan c mapPin
  let s := s.modHnk fun x => { x with pinRepairs := wrapInc 16 x.pinRepairs }
  let s : State := { s with win := tput s.win (winKey 12 1 c) 0 }
  retrainEnded c ok margins s

/-- PIN_REPAIR_COMPLETE (R155). -/
def execPinRepairComplete (ok : Bool) (margins : List Nat) (s : State) : Host.Outcome State Fault Refusal :=
  .next (
    match s.hnk.active with
    | some (c, .pinRepair) => pinRepaired c ok margins s
    | _ => s)

/-- STACK_NO_ANSWER (R156): a stack has not answered on a channel for more than 100 µs. -/
def execStackNoAnswer (chan : ChanId) (s : State) : Host.Outcome State Fault Refusal :=
  .next (loseHank (chan / 256) (escalate { row := 17, obj := chan.val / 256, l4 := true } s))

/-! ### Row repair -/

/-- ROW_REPAIR (R150, R156): the repair of a queued row begins in a window with channels free; a bank without a spare row
loses the hank. -/
def execRowRepair (block : Nat) (s : State) : Host.Outcome State Fault Refusal :=
  .next (
    if s.hnk.rowQueue.contains block && s.hnk.rowActive.isNone && !s.hnk.stopped && windowFor s 2 20000 then
      if tget s.hnk.rowUsed (bankOf s (64 * block)) < 4 then
        s.modHnk fun x => { x with rowQueue := x.rowQueue.erase block, rowActive := some block }
      else loseHank (hankOf s (64 * block))
        (escalate { row := 15, obj := hankOf s (64 * block), count := winCount s 15 0 (hankOf s (64 * block)), l4 := true } s)
    else s)

/-- ROW_REPAIR_COMPLETE (R150): the row lies in a spare row, every block with the bits it had. -/
def execRowRepairComplete (s : State) : Host.Outcome State Fault Refusal :=
  .next (
    match s.hnk.rowActive with
    | none => s
    | some b =>
      let a := 64 * b
      refreshDue ((s.modHnk fun x =>
        { x with rowActive := none, rowUsed := tmod x.rowUsed (bankOf s a) (· + 1),
                 rowDone := tput x.rowDone (rowOf s a) true }).modHank (hankOf s a)
        fun k => { k with rowRepairs := wrapInc 16 k.rowRepairs }))

/-! ### Loop-back, placement, probe -/

/-- R159, R160: a write of HNK_LB_CTRL: its RW fields, and with GO a test, or a refusal. -/
def loopbackWrite (h v : Nat) (s : State) : State :=
  let s := s.modHank h fun k => { k with lbMode := bitsOf v 9 8, lbCh := bitsOf v 7 0 }
  if !v.testBit 31 then s
  else if s.pkg.devState != .ready || s.frm.prog != .noImage then s.modHank h fun k => { k with lbRefused := true }
  else if 2 ≤ bitsOf v 9 8 then s.modHank h fun k => { k with lbRefused := false }
  else s.modHank h fun k => { k with lbRefused := false, lbDone := false, lbBusy := true, activity := 6 }

/-- LOOPBACK_GO (R159, R160). -/
def execLoopbackGo (hank : HankId) (value : Word) (s : State) : Host.Outcome State Fault Refusal :=
  .next (if barUp s then loopbackWrite hank value.toNat s else s)

/-- LOOPBACK_DONE (R159): the host's test reports its pins and changes nothing else. -/
def execLoopbackDone (hank : HankId) (pinFail : BitVec 19) (s : State) : Host.Outcome State Fault Refusal :=
  .next (
    if (s.hankAt hank).lbBusy then
      s.modHank hank fun k =>
        { k with lbBusy := false, activity := 2, lbDone := true, lbPass := pinFail = 0, lbPinFail := pinFail.toNat }
    else s)

/-- R161: HNK_PROBE_LO's offset in BAR0. -/
def probeLoOff : Nat :=
  0x880018

/-- R10, R139, R161: the write of HNK_PROBE_HI commits the probe, in the placement in force. -/
def probeWrite (v : Nat) (s : State) : State :=
  let a := bitsOf v 6 0 * 2 ^ 32 + tget s.pairLow probeLoOff
  s.modHnk fun x =>
    { x with probe := a, probeMode := placeBit s (a / 2 ^ 30 % 128), probeC := chanOf s a, probeS := granuleOf s a }

/-- HNK_PROBE (R161). -/
def execHnkProbe (value : Word) (s : State) : Host.Outcome State Fault Refusal :=
  .next (if barUp s then probeWrite value.toNat s else s)

/-- R140: the groups that `mem.place` names. -/
def placeGroups (r : MbxReq) : List Nat :=
  (List.range (fieldOf r.params 1 1)).map (· + fieldOf r.params 0 1)

/-- R140: the zones of a group hold undefined contents once its mode has changed. -/
def undefGroup (k : Nat) (s : State) : State :=
  markUndef ((384 + k) * 2 ^ 30) (2 ^ 30) (markUndef ((256 + k) * 2 ^ 30) (2 ^ 30)
    (markUndef ((128 + k) * 2 ^ 30) (2 ^ 30) (markUndef (k * 2 ^ 30) (2 ^ 30) s)))

/-- R140: the groups change mode, one by one. -/
def placeAll (mode : Bool) : List Nat → State → State
  | [], s => s
  | k :: ks, s =>
    let bitK := BitVec.ofNat 128 (2 ^ k)
    placeAll mode ks (undefGroup k (s.modHnk fun x =>
      { x with place := if mode then x.place ||| bitK else x.place &&& ~~~ bitK }))

/-- R140, R186: a registered region, or the device's own tables in group 127, overlaps a group. -/
def groupBusy (s : State) (k : Nat) : Bool :=
  k == 127 || s.bob.region.any fun e => e.2.bound && e.2.mode != 2 && (groupsOf e.2.base e.2.size).contains k

/-- R140: `mem.place`. -/
def memPlace (m : Nat) (r : MbxReq) (s : State) : State :=
  let mode := fieldOf r.params 2 1
  let groups := placeGroups r
  let change := groups.filter fun k => placeBit s k != (mode == 1)
  if 2 ≤ mode then failMbx m .eCommand 0x12 s
  else if 128 < fieldOf r.params 0 1 + fieldOf r.params 1 1 then failMbx m .eCommand 0x11 s
  else if s.frm.prog != .noImage then failMbx m .eState 0 s
  else if change.any (groupBusy s) then failMbx m .ePlaceBusy 0 s
  else completeMbx m .sOk 0 [] (placeAll (mode == 1) change s)

/-- MEM_PLACE (R140). -/
def execMemPlace (mbx : MbxId) (s : State) : Host.Outcome State Fault Refusal :=
  .next (casbomi 0x0020 mbx (memPlace mbx) s)

end Sys2Proof.Machine
end

