-- ==== Sys2Proof/Machine/Reset.lean ====
section
/-!
DEFINITION. What each reset domain clears and keeps (R41, R209, R227, R371): the state after a COLD or PACKAGE reset
before boot runs, a COMPUTE reset, and the resets of the host port's side.
-/

namespace Sys2Proof.Machine

/-! ### COLD and PACKAGE -/

/-- R45, R371: links keep the spare wires they have used. -/
def clearPkg (p : Pkg) : Pkg :=
  { powered := p.powered, refOk := p.refOk, resetSource := p.resetSource, resetDomain := p.resetDomain,
    d2d := tmap p.d2d fun l => { sparesLeft := l.sparesLeft } }

/-- R108, R371: the fuses, pending re-fuses, withheld spindles and spare banks are kept. After a COMPUTE reset the flags
of the spare banks read zero; a boot reapplies the banks, and the flags with them. [DC 65] -/
def clearSpindle (compute : Bool) (p : Spindle) : Spindle :=
  { rowUsed := p.rowUsed, colUsed := p.colUsed, pending := p.pending, withheld := p.withheld,
    abufSpare := p.abufSpare, accSpare := p.accSpare, abufHidden := compute, accHidden := compute }

/-- R135, R371: withheld cores and spare banks are kept, as in a spindle. [DC 65] -/
def clearVec (compute : Bool) (v : VecDie) : VecDie :=
  { withheld := v.withheld, lsSpare := v.lsSpare, lsHidden := compute }

/-- R41, R108, R135: the open windows that registers of the compute-die blocks show: rows 5 to 7 of R373 for a spindle,
rows 9 to 11 for the vector cores of a die. -/
def dieWindow (key : Nat) : Bool :=
  let row := key / 2 ^ 36
  (5 ≤ row && row ≤ 7) || (9 ≤ row && row ≤ 11)

/-- R41, R108, R135: windows go on through COMPUTE and PACKAGE resets, but the registers of the compute-die blocks are
cleared: they show from then on what is counted after the reset. [DC 65] -/
def hideWindows (win : Tab Nat) : Tab Nat :=
  win.filter fun e => dieWindow e.1

/-- R160: a hank's registers; counters and the highest reading are kept by PACKAGE. -/
def clearHank (keep : Bool) (k : Hank) : Hank :=
  if keep then { resends := k.resends, rowRepairs := k.rowRepairs, tempMax := k.tempMax } else {}

/-- R155, R161, R371: pin maps and repaired rows are kept. -/
def clearHnk (keep : Bool) (x : Hnk) : Hnk :=
  { hank := tmap x.hank (clearHank keep), chan := tmap x.chan fun c => { s0 := c.s0, s1 := c.s1 },
    retrains := if keep then x.retrains else 0, pinRepairs := if keep then x.pinRepairs else 0,
    rowUsed := x.rowUsed, rowDone := x.rowDone }

/-- R184, R371: disabled ways are kept, also through COLD, where a boot reapplies them from module flash. [DC 66] -/
def clearVis (v : Vis) : Vis :=
  { die := v.die.map fun d => { waysDisabled := d.waysDisabled } }

/-- R210. -/
def clearBob (keep : Bool) (b : Bob) : Bob :=
  if keep then { dbErrors := b.dbErrors, staleCount := b.staleCount, flrDiscards := b.flrDiscards } else {}

/-- R229. -/
def clearHp (keep : Bool) (h : Hp) : Hp :=
  if keep then { bisnp := h.bisnp, poisonSpill := h.poisonSpill, poisonHost := h.poisonHost, spillMiss := h.spillMiss } else {}

/-- R41, R270: lasers go off at COLD and stay lit at PACKAGE; failed and retired ones are recorded. -/
def clearLaser (keep : Bool) (l : Laser) : Laser :=
  { st := if keep || l.st = .failed || l.st = .retired then l.st else .standby,
    drive := l.drive, driveMax := l.driveMax, hours := l.hours, litTicks := l.litTicks }

/-- R270: an assignment of laser 8 that is in service is kept; a swap in progress is abandoned. -/
def clearBank (keep : Bool) (b : Bank) : Bank :=
  { laser := b.laser.map (clearLaser keep), serial := b.serial,
    swap := if b.swap = .inService then .inService else .none,
    spareFor := if b.swap = .inService then b.spareFor else none }

/-- R270: the lane maps, with the lanes that they lack, and where lanes were lost are recorded; every direction trains again
before it is in service. A PACKAGE or COLD reset is the service window (R410) up to which a lane stays dropped (R271). -/
def clearStrand (t : Strand) : Strand :=
  { txMap := t.txMap, rxMap := t.rxMap, loc := t.loc, lost := t.lost }

/-- R270, R272. -/
def clearOpt (keep : Bool) (o : Opt) : Opt :=
  { bank := o.bank.map (clearBank keep), strand := tmap o.strand clearStrand, heater := o.heater }

/-- R300. -/
def clearFab (keep : Bool) (f : Fab) : Fab :=
  if keep then { dropHops := f.dropHops, dropRoom := f.dropRoom, deflections := f.deflections, rereqs := f.rereqs,
                 resends := f.resends, cbufOver := f.cbufOver } else {}

/-- R305, R325. -/
def clearTop (keep : Bool) (t : Top) : Top :=
  if keep then { serial := t.serial, feed := t.feed, discards := t.discards } else { serial := t.serial }

/-- R346. -/
def clearSkn (keep : Bool) (k : Skn) : Skn :=
  if keep then { doneCount := k.doneCount, mismatches := k.mismatches, aborts := k.aborts, chunks := k.chunks,
                 stalls := k.stalls } else {}

/-- R367. -/
def clearPwr (keep : Bool) (p : Pwr) : Pwr :=
  if keep then { guards := p.guards, reductions := p.reductions } else {}

/-- R368: faulty sensors, highest readings and a link-die trip are cleared only by COLD; HOTSPOT holds the latest round's
value always. -/
def clearThm (keep : Bool) (t : Thm) : Thm :=
  if keep then
    { trip := t.trip &&& 0x30, stopDies := t.stopDies &&& t.trip &&& 0x30,
      die := t.die.map fun d => { highest := d.highest, hotspot := d.hotspot, before := d.hotspot },
      sensor := tmap t.sensor fun x => { faulty := x.faulty } }
  else {}

/-- R374, R386: what module flash holds is kept, the buddy staging with it; MOD_BUDDY is cleared, so no device is
protected any more. -/
def clearRes (keep : Bool) (r : Res) : Res :=
  { snaps := r.snaps.filter (·.complete), snapLast := r.snapLast, log := r.log, feed := r.feed,
    flashRo := r.flashRo, retired := r.retired, written := r.written, lastAutoMs := r.lastAutoMs,
    protects := r.protects.map fun p => { p with part := none, live := false },
    level2 := if keep then r.level2 else 0, level3 := if keep then r.level3 else 0,
    recent2 := if keep then r.recent2 else [], recent3 := if keep then r.recent3 else [] }

/-- R387, R392, R403, R404: fuses, slots and policies are kept; an unlock that was granted holds across one PACKAGE
reset. -/
def clearSec (keep : Bool) (x : Sec) : Sec :=
  { svnWord := x.svnWord, rootDigest := x.rootDigest, slot := x.slot, signedFrames := x.signedFrames,
    romDigest := x.romDigest, debugUnlocked := keep && x.unlockNext }

/-- R407, R408, R410, R414: a unit's progress is lost with the unit; after a hank loss or an orderly stop it is kept for
the next boot. -/
def clearTst (keep hold : Bool) (t : Tst) : Tst :=
  { queued := t.queued, tested := if keep then t.tested else .replicate 8 0,
    failed := if keep then t.failed else .replicate 8 0,
    unit := if hold then tmap t.unit fun u => { progress := u.progress, bad := u.bad } else [] }

/-- R430: the module's registers are kept but by COLD, which leaves what the module finds. -/
def clearMdl (keep : Bool) (x : Mdl) : Mdl :=
  if keep then x else { present := x.present, hostB := x.hostB, sbAddr := x.sbAddr }

/-- R40, R41: the state that a PACKAGE reset (`keep`) or a COLD reset leaves for boot. -/
def clearedState (keep : Bool) (s : State) : State :=
  { pending := s.pending, free := s.free, out := s.out, win := if keep then s.win else [],
    winHide := if keep then hideWindows s.win else [],
    pkg := clearPkg s.pkg, spn := s.spn.map (clearSpindle false), vec := s.vec.map (clearVec false), hnk := clearHnk keep s.hnk,
    vis := clearVis s.vis, bob := clearBob keep s.bob, hp := clearHp keep s.hp, opt := clearOpt keep s.opt,
    fab := clearFab keep s.fab, top := clearTop keep s.top, skn := clearSkn keep s.skn, pwr := clearPwr keep s.pwr,
    thm := clearThm keep s.thm, res := clearRes keep s.res, sec := clearSec keep s.sec, 
    tst := clearTst keep (s.hnk.lost.isSome || s.thm.stopping.isSome || s.thm.stopped) s.tst,
    mdl := clearMdl keep s.mdl }

/-! ### COMPUTE -/

/-- R41, R184: the remote-line caches are invalidated, dirty lines discarded; the registers of R184 are reset but for the
disabled ways and VIS_RLC_CTRL. -/
def computeRlc (v : VisDie) : VisDie :=
  { flyerWays := v.flyerWays, waysDisabled := v.waysDisabled }

/-- R41, R376: a snapshot that is being taken is deleted, whoever asked for it. -/
def dropSnapshot (r : Res) : Res :=
  { r with job := none, snaps := r.snaps.filter (·.complete) }

/-- R41, R114: the local stores read zero. -/
def zeroLocal (s : State) : State :=
  { s with mem := s.mem.filter fun e => !isLocal e.1, undef := s.undef.filter fun u => !isLocal u.base,
           vis := { s.vis with words := [] } }

/-- R241: the mailboxes whose command a COMPUTE reset ends. -/
def abortedMbxs (s : State) : List Nat :=
  (s.fly.classQ.filter fun e => e.1 == .frame || e.1 == .flash).map (·.2)

/-- R241, R376: each of these commands ends with E_ABORTED_RESET. -/
def abortMbxs : List Nat → State → State
  | [], s => s
  | m :: ms, s =>
    abortMbxs ms (failMbx m .eAbortedReset 0 (undoCommand (((s.mbxAt m).req.map (·.command)).getD 0) s))

/-- R205: the records of rows read STATE 0x0 again. -/
def clearRowStates : List Nat → State → State
  | [], s => s
  | r :: rs, s => clearRowStates rs (writeBytes (rowTable + 64 * r) [0] s)

/-- R209: all rows are freed: their commands have ended, and their records read STATE 0x0. -/
def freeRows (s : State) : State :=
  clearRowStates ((tkeys s.bob.tag).filter (· < 0x1000)) (s.modBob fun b => { b with admitted := [] })

/-- R41, R42, R62, R65: the frame program is cleared; the frame that the reset interrupts fails, and what it has written is
undefined. -/
def clearProgram (s : State) : State :=
  let s := undefWrites s.frm.writes (failFrame .eAbortedReset s)
  s.modFrm fun f =>
    { f with prog := .noImage, det := false, image := none, imageTag := 0, index := 0, runFrame := false,
             suspended := none, ann := none, refuses := false, done := [], ran := [], barriered := [], past := [],
             released := [], acquired := [], writes := [] }

/-- R407: the progress of tests of the units that a COMPUTE reset clears is lost: KIND 0x0 to 0x5. -/
def losesProgress (t : Tst) : Tst :=
  { t with unit := (t.unit.map fun e =>
      if e.1 / 524288 < 6 then (e.1, { e.2 with progress := 0, bad := none }) else e).filter fun e => e.2 ≠ default }

/-- R40, R41, R368: what a COMPUTE reset leaves of the registers and units. The compute dies' loops relock; the hanks enter
self-refresh once no action on a channel or a row is in progress (R156). -/
def computeFields (s : State) : State :=
  { s with
    winHide := hideWindows s.win,
    spn := s.spn.map (clearSpindle true),
    vec := s.vec.map (clearVec true),
    vis := { die := s.vis.die.map computeRlc },
    skn := { s.skn with ctx := [], seq := [], abortedSeq := [] },
    thm := { s.thm with stopped := false, stopDies := s.thm.stopDies &&& s.thm.trip, stopping := none },
    pkg := { s.pkg with op := s.pkg.op.map fun _ => {}, clocksStopped := 0, computeReset := true, stopInReset := none,
                        locked := s.pkg.locked &&& 0x30, relocking := s.pkg.relocking &&& 0x30,
                        resetSource := .resetCompute, resetDomain := .compute },
    hnk := { s.hnk with selfRefresh := s.hnk.active.isNone && s.hnk.rowActive.isNone,
                        held := s.hnk.held.filter fun x => x.2.client == .host || x.2.client == .fabric },
    res := dropSnapshot s.res, tst := losesProgress s.tst }

/-- R41, R42, R209: a COMPUTE reset begins: what it clears on the compute dies, and what ends. -/
def computeClear (s : State) : State :=
  let s := endCommands .eAbortedReset (tkeys s.bob.tag) s
  let s := clearProgram (abortMbxs (abortedMbxs s) s)
  computeFields (forgetSpill (fun _ => true) (zeroLocal (freeRows s)))

/-! ### FLR, hot reset and link down -/

/-- R203, R209: the host's request and completion queues are set empty, without credit; peer queues are kept. -/
def emptyHostQueues (s : State) : State :=
  s.modBob fun b =>
    { b with
      queue := tmap b.queue fun q =>
        if q.cls = .request || q.cls = .completion then
          { q with head := 0, tail := 0, credit := 0, headRung := false } else q,
      tag := tmap b.tag fun o => o.map fun c =>
        if (tget b.queue c.queue).cls = .request then { c with discard := true } else c,
      low := [], qSel := 0, pageSel := 0 }

/-- R227: every MSI-X entry is masked and no bit is pending; a DOE exchange is aborted; the function is in D0. -/
def resetFunction (s : State) : State :=
  s.modHp fun h =>
    { h with msix := tmap h.msix fun e => { e with unmasked := false, pending := false }, msixOn := false,
             doeBusy := false, d3 := false }

/-- R209, R227: what an FLR does. -/
def flrEffect (s : State) : State :=
  (resetFunction (emptyHostQueues s)).modPkg fun p => { p with resetSource := .cxlFlr, resetDomain := .flr }

/-- R227: a release on the host's behalf is in progress: a snoop of it has not been answered. -/
def hostReleasing (s : State) : Bool :=
  s.hp.sf.any fun e => (e.2.map fun f => f.snooped && f.release).getD false

/-- R227: an FLR takes place once no release on the host's behalf is in progress. -/
def flrArrives (s : State) : State :=
  if hostReleasing s then s.modHp fun h => { h with flrDue := true } else flrEffect (s.modHp fun h => { h with flrDue := false })

/-- R227: an FLR that waited takes place. -/
def flrServe (s : State) : State :=
  if s.hp.flrDue then flrArrives s else s

/-- R224: a line that steps and commands wait for does not come: they end with E_HOST_LINK. -/
def lineLost (line : Nat) (l : AgentLine) : List SpillGot :=
  l.askers.map fun c => { client := c, line := line, own := l.own, st := some .eHostLink }

/-- R227: an agent line that is dirty is discarded: the host's copy is older, so its bytes are undefined here; one that
was asked for does not come. -/
def dropAgent (s : State) : State :=
  let dirty := s.hp.agent.filterMap fun e => if (e.2.map (·.st)) = some .dirty then some (64 * e.1) else none
  let lost := s.hp.agent.flatMap fun e => (e.2.map (lineLost e.1)).getD []
  dirty.foldl (fun s a => markUndef a 64 s) (s.modHp fun h => { h with agent := [], got := h.got ++ lost })

/-- R224: spill accesses that wait fail with E_HOST_LINK. -/
def failSpillWaits (s : State) : State :=
  s.hp.spillWait.foldl (fun s a => clientError a.client .eHostLink s)
    (s.modHp fun h => { h with spillWait := [], spillErr := h.spillErr || !h.spillWait.isEmpty })

/-- R227, R229: the link is down: sessions, keys, decoder and snoop filter are cleared. -/
def linkDownEffect (s : State) : State :=
  let s := failSpillWaits (dropAgent (resetFunction (emptyHostQueues s)))
  s.modHp fun h =>
    { h with rate := 0, width := 0, flit := 0, proto := 0, recovering := false, linkDown := true, ideIo := .off,
             ideCm := .off, sessions := [], negotiated := false, versioned := false, decoder := false, decErr := false,
             sf := [], sfWait := [], snoopQ := [], flrDue := false, wbinv := false }

end Sys2Proof.Machine
end

