-- ==== Sys2Proof/Machine/Boot.lean ====
section
/-!
DEFINITION. Power, boot and resets (R25-R31, R40-R43, R347, R393-R396, R410, R420, R425), and the requests of the
management sideband (R428).
-/

namespace Sys2Proof.Machine

/-! ### Die checks -/

/-- R27, R395: boot halts: FAILED until a COLD reset, no flyer firmware. -/
def bootHalt (code a b : Nat) (s : State) : State :=
  (setDevState .failed s).modPkg fun p =>
    { p with bootCode := code, dieA := a, dieB := b, wayOut := .cold, flyerRuns := false }

/-- R24: the PARITY strap makes the number of ones among it and the six bits of the other straps even. -/
def parityOk (v : Straps) : Bool :=
  (v.parity ^^ v.role ^^ v.index.getLsbD 0 ^^ v.index.getLsbD 1 ^^ v.index.getLsbD 2 ^^ v.position.getLsbD 0
    ^^ v.position.getLsbD 1) == false

/-- R45: MOD_DIE_STRAPn of the straps read on port n. -/
def strapWord (v : Straps) : Word :=
  regOf [(7, 7, bit (parityOk v)), (6, 6, bit v.role), (5, 4, v.position.toNat), (2, 0, v.index.toNat)]

/-- R25: port `n` meets every condition. -/
def strapOk (n : Nat) (v : Straps) : Bool :=
  parityOk v && v.index.toNat == n && v.role == decide (4 ≤ n) && v.position.toNat == (if n < 4 then n else n - 4)

/-- R25: the first port that fails. -/
def badStrap (st : Vector Straps 6) : Option Nat :=
  (List.range 6).find? fun n => !strapOk n (vget st n)

/-- R25: the other port that reports the same INDEX; 0 where there is none. -/
def strapTwin (st : Vector Straps 6) (a : Nat) : Nat :=
  ((List.range 6).find? fun n => n != a && (vget st n).index == (vget st a).index).getD 0

/-- R28: the capability word that die `n` reports: reserved bits read zero, as do NUMGEN and CFEAT of a link die and LFEAT
of a compute die. -/
def capShown (n : Nat) (c : Word) : Word :=
  c &&& (if n < 4 then 0xFFF300FF else 0xFF03FF00)

/-- R28: the capability words of the six dies. -/
def capsShown (caps : Vector Word 6) : Vector Word 6 :=
  Vector.ofFn fun (i : Fin 6) => capShown i.val caps[i]

/-- R28: fields of a capability word. -/
def capNumgen (c : Word) : Nat := bitsOf c.toNat 23 20
def capD2d (c : Word) : Nat := bitsOf c.toNat 19 16

/-- Pairs (i, j), i < j < n, in ascending order. -/
def pairsBelow (n : Nat) : List (Nat × Nat) :=
  (List.range n).flatMap fun i => ((List.range n).filter fun j => i < j).map fun j => (i, j)

/-- R30, R31: the bitwise AND of D2DVER over all dies. -/
def commonD2d (caps : Vector Word 6) : Nat :=
  (List.range 6).foldl (fun a n => a &&& capD2d (vget caps n)) 0xF

/-- R31: the lowest pair of dies without a common version. -/
def d2dConflict (caps : Vector Word 6) : Nat × Nat :=
  ((pairsBelow 6).find? fun e => capD2d (vget caps e.1) &&& capD2d (vget caps e.2) == 0).getD (0, 0)

/-- R31: the lowest pair of compute dies that differ in NUMGEN. -/
def numgenConflict (caps : Vector Word 6) : Option (Nat × Nat) :=
  (pairsBelow 4).find? fun e => capNumgen (vget caps e.1) != capNumgen (vget caps e.2)

/-- R30, R34: MOD_PKG_CAP. -/
def packageCap (caps : Vector Word 6) : Word :=
  let top := if (commonD2d caps).testBit 1 then 2 else commonD2d caps % 2
  let cf := (List.range 4).foldl (fun a n => a &&& bitsOf (vget caps n).toNat 7 0) 0xFF
  let lf := bitsOf (vget caps 4).toNat 15 8 &&& bitsOf (vget caps 5).toNat 15 8
  regOf [(23, 20, capNumgen (vget caps 0)), (19, 16, top), (15, 8, lf), (7, 0, cf)]

/-! ### Flyer bring-up -/

/-- R410: the queued requests of a spindle are raised once the boot-time tests have passed: the first one is recorded,
or, with no spare left, level 4 of R107 applies. -/
def raiseQueued (i : Nat) (s : State) : State :=
  match s.tst.queued.find? fun q => q.1 == i with
  | none => s
  | some (_, r, c) =>
    let p := vget s.spn i
    let s := s.modTst fun t => { t with queued := t.queued.erase (i, r, c) }
    if p.rowUsed.isNone || p.colUsed.isNone then
      requestRefuse i r c s
    else escalate { row := 5, obj := spindleObj i, count := winCount s 5 0 ((i * 32 + r) * 32 + c), l4 := true }
      (s.modSpn i fun p => { p with withheld := true })

/-- R410 steps 3 to 5: a pending re-fuse of spindle `i` is carried out, its test passing or failing at a DPU. -/
def applyRefuse (i : Nat) (fail : Option (Nat × Nat)) (s : State) : State :=
  match (vget s.spn i).pending with
  | none => s
  | some (r, c) =>
    match fail with
    | some (fr, fc) => dpuFailed i fr fc s
    | none =>
      raiseQueued i (s.modSpn i fun p =>
        { p with rowUsed := if p.rowUsed.isNone then some r else p.rowUsed,
                 colUsed := if p.rowUsed.isNone then p.colUsed else some c,
                 pending := none, withheld := false })

/-- Pending re-fuses, spindle by spindle. -/
def applyRefuses (env : BootEnv) : List Nat → State → State
  | [], s => s
  | i :: is, s => applyRefuses env is (applyRefuse i (vget env.refuseFail i) s)

/-- R186: the index of the region entry that holds what the row table leaves of the reserved range; the last of the
table, so that the lowest free index stays a host's [DC 88]. -/
def tablesIndex : Nat :=
  2 ^ 19 - 1

/-- R186, R395: the reserved range is registered as system regions, and its tables start empty: handle 0x0000_0001 names
the row table, and nothing reaches the rest. -/
def registerTables (s : State) : State :=
  let s := s.modRegion tablesIndex fun _ =>
    { bound := true, base := tablesBase + 0x40000, size := hankTop - tablesBase - 0x40000, system := true }
  s.modRegion 1 fun _ => { bound := true, base := rowTable, size := 0x40000, access := 3, system := true }

/-- R156, R160, R395: every channel is trained, or a hank is lost. -/
def trainHanks (env : BootEnv) (s : State) : State :=
  let s := (List.range 8).foldl (fun s h => s.modHank h fun k => { k with activity := 2 }) s
  match env.hankLost with
  | none => registerTables s
  | some h => loseHank h s

/-- R425: a bank with another serial number: its records are cleared. -/
def checkBank (b serial : Nat) (s : State) : State :=
  if (s.bankAt b).serial = serial then s
  else
    let s := s.modBank b fun k => { k with serial := serial, swap := .none, spareFor := none,
                                           laser := .replicate 9 {} }
    let s := s.modMdl fun x => { x with bankChanged := true }
    (List.range 32).foldl (fun s i => s.modStrand (32 * b + i) fun t =>
      if t.loc = 1 then { t with txMap := List.range 8, rxMap := List.range 8, loc := 0, lost := [] } else t) s

/-- R41, R254, R270: lasers 0 to 7 are lit, and laser 8 where it is assigned; failed and retired ones stay dark. -/
def lightBank (b : Bank) : Bank :=
  { b with laser := Vector.ofFn fun (i : Fin 9) =>
      let l := b.laser[i]
      if l.st = .failed || l.st = .retired then l
      else if i.val < 8 || b.spareFor.isSome then { l with st := if l.st = .litAtMax then .litAtMax else .lit }
      else { l with st := .standby } }

/-- R395 stage 7. -/
def lightLasers (env : BootEnv) (s : State) : State :=
  let s := checkBank 1 (vget env.serial 1) (checkBank 0 (vget env.serial 0) s)
  s.modOpt fun o => { o with bank := o.bank.map lightBank }

/-- R395 stages 4 to 7: the firmware of slot `i` starts. -/
def startFirmware (env : BootEnv) (i : Nat) (s : State) : State :=
  let s := s.modPkg fun p => { p with bootCode := 0x28, flyerRuns := !env.hangs }
  s.modSec fun x => { x with booted := if i = 1 then 1 else 0 }

/-- R395: the flyer brings up the memory, the re-fused spindles and the lasers. -/
def bringUnits (env : BootEnv) (im : FwImage) (s : State) : State :=
  let s := s.modFly fun f => { f with noStandby := !env.standby, fwMajor := im.major, fwMinor := im.minor }
  let s := s.modPkg fun p => { p with pkgCap := packageCap p.dieCap }
  let s := trainHanks env (applyRefuses env (List.range 8) s)
  (lightLasers env s).modPkg fun p => { p with bootCode := 0x2F }

/-- R395: READY is reached, unless a hank was lost. -/
def reachReady (i : Nat) (s : State) : State :=
  if s.pkg.devState = .failed then s else slotReady i (setDevState .ready s)

/-- R395 stages 5 to 8 on slot `i`. -/
def bringUp (env : BootEnv) (i : Nat) (s : State) : State :=
  let im := ((s.slotAt i).image).getD {}
  let s := startFirmware env i s
  if env.hangs then s else reachReady i (bringUnits env im s)

/-- R395 stage 4 on. -/
def bootFirmware (env : BootEnv) (s : State) : State :=
  if !env.flashOk then bootHalt 0x33 0 0 s
  else
    match chooseSlot env.unread (s.modPkg fun p => { p with bootCode := 0x20 }) with
    | (none, s) => bootHalt (noSlotCode s) 0 0 s
    | (some i, s) => bringUp env i s

/-- R25-R31, R395 stage 3. While a die does not answer, boot stands here until DIE_ANSWER_TIMEOUT, and no strap or
capability word has been stored. [DC 64] -/
def bootDies (env : BootEnv) (s : State) : State :=
  let caps := capsShown env.caps
  if env.answers ≠ 0x3F then s
  else
    let s := s.modPkg fun p => { p with dieStrap := env.straps.map strapWord, dieCap := caps }
    match badStrap env.straps with
    | some a => bootHalt 0x10 a (strapTwin env.straps a) s
    | none =>
      if commonD2d caps = 0 then
        bootHalt 0x11 (d2dConflict caps).1 (d2dConflict caps).2 s
      else match numgenConflict caps with
        | some (a, b) => bootHalt 0x12 a b s
        | none => bootFirmware env (s.modPkg fun p => { p with bootCode := 0x01, locked := 0x3F })

/-- R395: boot, from fuse check to READY or a halt. -/
def boot (env : BootEnv) (dom : ResetDomain) (src : ResetSource) (s : State) : State :=
  let s := (setDevState .boot s).modPkg fun p =>
    { p with resetDomain := dom, resetSource := src, resetReq := none, bootCode := 0 }
  let s := s.modMdl fun x => { x with hostB := env.hostB }
  if !env.fuseOk then bootHalt 0x32 0 0 s
  else bootDies env ((s.modSec fun x => { x with fuseOk := true }).modPkg fun p => { p with bar0Up := true })

/-- COLD_RESET (R40, R395): with input power, the device goes OFF, then boots in full. -/
def execColdReset (env : BootEnv) (s : State) : Host.Outcome State Fault Refusal :=
  .next (
    if s.pkg.powered then
      boot env .cold (match s.pkg.resetReq with | some (.cold, src) => src | _ => .powerOn) (clearedState false s)
    else s)

/-- PACKAGE_RESET (R40, R242, R395): a PACKAGE reset that has been triggered, and that no COLD reset has absorbed; it
waits for a reference that is away. -/
def execPackageReset (env : BootEnv) (s : State) : Host.Outcome State Fault Refusal :=
  .next (
    match s.pkg.resetReq with
    | some (.package, src) =>
      if s.pkg.powered && s.pkg.refOk then boot env .package src (clearedState true s) else s
    | _ => s)

/-- DIE_ANSWER_TIMEOUT (R26): 10 ms without an answer on a port while boot waits for it. -/
def execDieAnswerTimeout (die : Die) (s : State) : Host.Outcome State Fault Refusal :=
  .next (if s.pkg.devState = .boot && s.pkg.bootCode = 0 && s.pkg.bar0Up then bootHalt 0x13 die 0 s else s)

/-! ### COMPUTE, FLR, hot reset -/

/-- R43, R62: a COMPUTE reset begins; an equal one in progress, or a heavier one, absorbs it. Until it completes
MOD_STATE reads DRAINING. [DC 67] -/
def beginCompute (s : State) : State :=
  if (resetUnderway s).isSome then s else setDevState .draining (computeClear s)

/-- R241, R362: `reset.compute`: in FAILED it is carried out only where it is the way out and every die reads below
85 °C; it answers when the reset has completed. -/
def resetCompute (m : Nat) (_r : MbxReq) (s : State) : State :=
  if s.pkg.devState = .failed && s.pkg.wayOut != .compute then
    failMbx m .eState (if s.pkg.wayOut = .cold then 2 else 1) s
  else if s.pkg.devState = .failed && (List.range 6).any (fun d => 340 ≤ (s.thmDieAt d).hotspot) then
    failMbx m .eState 0 s
  else beginCompute (s.modMbx m fun b => { b with started := true })

/-- RESET_COMPUTE (R40, R241). -/
def execResetCompute (mbx : MbxId) (s : State) : Host.Outcome State Fault Refusal :=
  .next (casbomi 0x0010 mbx (resetCompute mbx) s)

/-- R43: the mailboxes whose `reset.compute` the reset that has completed answers. -/
def computeWaiters (s : State) : List Nat :=
  (List.range 64).filter fun m => (s.mbxAt m).started && ((s.mbxAt m).req.map (·.command)) == some 0x0010

/-- Complete the commands of mailboxes. -/
def completeAll (st : Status) : List Nat → State → State
  | [], s => s
  | m :: ms, s => completeAll st ms (completeMbx m st 0 [] s)

/-- COMPUTE_RESET_COMPLETE (R40, R42, R156, R362): the device returns to READY; it enters FAILED where an orderly stop
began meanwhile or a hank did not come back. -/
def computeDone (lost : Option HankId) (s : State) : State :=
  let stop := s.pkg.stopInReset
  let s := s.modPkg fun p =>
    { p with computeReset := false, stopInReset := none, locked := p.locked ||| 0xF,
             clocksStopped := if stop.isSome then p.clocksStopped ||| 0xF else p.clocksStopped }
  let s := s.modHnk fun x => { x with selfRefresh := stop.isSome, stopped := x.stopped && stop.isSome }
  let s := s.modThm fun t => { t with stopping := if stop.isSome then none else t.stopping, stopped := t.stopped || stop.isSome }
  let s := match lost with
    | some h => loseHank h (setDevState .ready s)
    | none => setDevState .ready s
  let s := match stop with
    | some d => escalate { row := 45, obj := d, l4 := true, way := .compute } s
    | none => s
  completeAll .sOk (computeWaiters s) (resumeHeld s)

/-- COMPUTE_RESET_COMPLETE (R40, R43, R156): the reset has not been aborted, and the action that was in progress on a
channel or a row has completed, after which the hanks have entered self-refresh. -/
def execComputeResetComplete (hankLost : Option HankId) (s : State) : Host.Outcome State Fault Refusal :=
  .next (if s.pkg.computeReset && s.hnk.selfRefresh then computeDone hankLost s else s)

/-- RESET_PACKAGE (R40, R241): answered before the reset begins. -/
def execResetPackage (mbx : MbxId) (s : State) : Host.Outcome State Fault Refusal :=
  .next (casbomi 0x0011 mbx (fun _ s => triggerReset .package .resetPackage (completeMbx mbx .sOk 0 [] s)) s)

/-- FLR (R40, R43, R209, R227): absorbed by a PACKAGE or COLD reset, its boot included, and independent of a COMPUTE
reset. -/
def execFlr (s : State) : Host.Outcome State Fault Refusal :=
  .next (if s.pkg.resetReq.isSome || s.pkg.devState == .boot then s else flrArrives s)

/-- HOT_RESET (R214, R227, R421): hot reset, PERST# or link down. -/
def execHotReset (s : State) : Host.Outcome State Fault Refusal :=
  .next (linkDownEffect s)

/-! ### Power -/

/-- INPUT_UNDERVOLTAGE (R40, R347): below 57 V for more than 1 ms. -/
def execInputUndervoltage (s : State) : Host.Outcome State Fault Refusal :=
  .next (if s.pkg.powered then triggerReset .cold .undervoltage s else s)

/-- INPUT_LOW_DIP (R347, R365): below 57 V for at most 1 ms. -/
def execInputLowDip (s : State) : Host.Outcome State Fault Refusal :=
  .next (if s.pkg.powered then escalate { row := 47 } (s.modPwr fun p => { p with inputLow := true }) else s)

/-- INPUT_HIGH (R347): 68 V to 72 V. -/
def execInputHigh (s : State) : Host.Outcome State Fault Refusal :=
  .next (if s.pkg.powered then s.modPwr fun p => { p with inputHigh := true } else s)

/-- R347, R420: stage 1 shuts down: the device is OFF and loses what a COLD reset clears; a recovery image and a boot
in progress are lost with it. -/
def powerOff (s : State) : State :=
  let s := clearedState false s
  s.modPkg fun p => { p with powered := false, refOk := true, resetReq := none }

/-- INPUT_OVERVOLTAGE (R347): above 72 V for more than 50 µs. -/
def execInputOvervoltage (s : State) : Host.Outcome State Fault Refusal :=
  .next (if s.pkg.powered then powerOff s else s)

/-- PRESENT_BREAK (R420). -/
def execPresentBreak (s : State) : Host.Outcome State Fault Refusal :=
  .next ((if s.pkg.powered then powerOff s else s).modMdl fun x => { x with present := false })

/-- STAGE1_START (R40, R420): PRESENT# asserted and the input in range for 100 ms: power is good, and a COLD reset
follows. -/
def execStage1Start (s : State) : Host.Outcome State Fault Refusal :=
  .next (if s.pkg.powered then s else
    (s.modMdl fun x => { x with present := true }).modPkg fun p =>
      { p with powered := true, resetReq := some (.cold, .powerOn) })

/-! ### The management sideband -/

/-- R428: a sideband answer. -/
def sbAnswer (result : Nat) (data : List Byte) (s : State) : State :=
  s.emit (.sideband result data)

/-- SB_COLD (R40, R428). -/
def execSbCold (s : State) : Host.Outcome State Fault Refusal :=
  .next (if s.pkg.powered then
    sbAnswer 0 [] (triggerReset .cold .sideband (s.modSec fun x => { x with recovery := [] }))
    else sbAnswer 3 [] s)

/-- SB_PACKAGE (R40, R241, R242, R428): not accepted where only a COLD reset will do. -/
def execSbPackage (s : State) : Host.Outcome State Fault Refusal :=
  .next (
    if !s.pkg.powered then sbAnswer 3 [] s
    else if s.pkg.devState == .failed && s.pkg.wayOut == .cold then sbAnswer 4 [] s
    else sbAnswer 0 [] (triggerReset .package .sideband (s.modSec fun x => { x with recovery := [] })))

/-- R396, R428: boot halted with a CODE for which a recovery image is accepted. -/
def recoveryOpen (s : State) : Bool :=
  s.pkg.devState == .failed && (s.pkg.bootCode == 0x30 || s.pkg.bootCode == 0x31 || s.pkg.bootCode == 0x33)

/-- RECOVERY_DATA (R428): the next bytes of the recovery image; the answer is the next offset expected. -/
def execRecoveryData (offset : Word) (data : List Byte) (s : State) : Host.Outcome State Fault Refusal :=
  .next (
    if !s.pkg.powered then sbAnswer 3 [] s
    else if !recoveryOpen s then sbAnswer 4 [] s
    else if offset.toNat ≠ s.sec.recovery.length || 240 < data.length then sbAnswer 1 [] s
    else
      let s := s.modSec fun x => { x with recovery := x.recovery ++ data }
      sbAnswer 0 (leBytes 4 s.sec.recovery.length) s)

/-- R391, R396: the REASON that a recovery image gives, 0 where it passes. -/
def recoveryReason (s : State) : Nat :=
  let img := s.sec.recovery
  let flaw := fwFlaw s.sec.rootDigest img
  if flaw ≠ 0 then flaw else slotReason s { image := some (fwImageOf img) }

/-- R396, R428: the recovery image fails: MOD_BOOT_STATUS holds the outcome. -/
def recoveryFailed (reason : Nat) (s : State) : State :=
  sbAnswer 5 []
    ((s.modSec fun x => { x with recovery := [], fwSigFail := true }).modPkg fun p =>
      { p with bootCode := if reason = 5 then 0x31 else 0x30 })

/-- RECOVERY_COMMIT (R396, R428): a verified image goes to slot A as PENDING and waits for a COLD reset. -/
def execRecoveryCommit (len : Word) (s : State) : Host.Outcome State Fault Refusal :=
  .next (
    if !s.pkg.powered then sbAnswer 3 [] s
    else if !recoveryOpen s then sbAnswer 4 [] s
    else if len.toNat ≠ s.sec.recovery.length then sbAnswer 1 [] s
    else if recoveryReason s ≠ 0 then recoveryFailed (recoveryReason s) s
    else
      let im := fwImageOf s.sec.recovery
      sbAnswer 0 [] ((s.modSlot 0 fun _ => { st := .pending, image := some im }).modSec fun x => { x with recovery := [] }))

/-! ### The module's sensors -/

/-- R417: the minimum flow for an inlet temperature, 0.01 L/min. -/
def minFlow (inlet : Nat) : Nat :=
  if inlet ≤ 140 then 200 else 280

/-- R418: a condition's first holding is posted, with its code. -/
def postCondition (code : Nat) (was now : Bool) (s : State) : State :=
  if now && !was then postEvent 0x01 .sOk 0xFFFFFFFF none [BitVec.ofNat 8 code] s else s

/-- R418: consecutive reads of a sensor without a reading. -/
def missCount (none_ : Bool) (n : Nat) : Nat :=
  if none_ then min (n + 1) 3 else 0

/-- R418, R430: one reading of the module's sensors. -/
def moduleRead (r : ModuleReading) (x : Mdl) : Mdl :=
  let inlet := (r.inlet.map (·.toNat)).getD x.inlet
  let flow := (r.flow.map (·.toNat)).getD x.flow
  let low := if flow < minFlow inlet then min (x.lowReads + 1) 10 else 0
  let missed : Vector Nat 5 := #v[missCount r.inlet.isNone (vget x.missed 0), missCount r.outlet.isNone (vget x.missed 1),
    missCount r.flow.isNone (vget x.missed 2), missCount r.leakA.isNone (vget x.missed 3),
    missCount r.leakB.isNone (vget x.missed 4)]
  let flowLow := low = 10
  let high := 180 < inlet
  let wet : Vector Bool 2 := #v[r.leakA.getD (vget x.wet 0), r.leakB.getD (vget x.wet 1)]
  let leak := vget wet 0 || vget wet 1
  { x with
    inlet := inlet, outlet := (r.outlet.map (·.toNat)).getD x.outlet, flow := flow, lowReads := low, missed := missed,
    flowLow := flowLow, inletHigh := high, wet := wet, leak := leak,
    coolSensor := 2 ≤ vget missed 0 || 2 ≤ vget missed 1 || 2 ≤ vget missed 2,
    flowLowSeen := x.flowLowSeen || flowLow, inletHighSeen := x.inletHighSeen || high, leakSeen := x.leakSeen || leak }

/-- MODULE_SENSOR_READ (R418): the flyer reads the module's sensors every 100 ms. -/
def execModuleSensorRead (r : ModuleReading) (s : State) : Host.Outcome State Fault Refusal :=
  .next (
    if !s.pkg.flyerRuns then s
    else
      let x := s.mdl
      let y := moduleRead r x
      postCondition 4 x.coolSensor y.coolSensor (postCondition 3 x.leak y.leak
        (postCondition 2 x.inletHigh y.inletHigh (postCondition 1 x.flowLow y.flowLow { s with mdl := y }))))

end Sys2Proof.Machine
end

