-- ==== Sys2Proof/Machine/Strands.lean ====
section
/-!
DEFINITION. What chapters 10 to 12 share about a strand: whether it is in service, lane-control messages, its state
towards the accepted plan, summaries, and what follows when it leaves service (R252, R253, R263, R265, R287, R301, R304,
R309-R315).
-/

namespace Sys2Proof.Machine

/-! ### Service and class -/

/-- R253: a strand is in service while both of its directions are. -/
def inService (s : State) (n : Nat) : Bool :=
  !(s.strandAt n).txOut && !(s.strandAt n).rxOut

/-- R258: a strand in a calibration or training period is out of service for its length. -/
def inPeriod (s : State) (n : Nat) : Bool :=
  (s.opt.cal.map fun j => j.strand == n && j.accepted).getD false

/-- R253, R258: a strand carries blocks: it is in service and in no calibration or training period. -/
def carriesTraffic (s : State) (n : Nat) : Bool :=
  inService s n && !inPeriod s n

/-- R2: the bank that feeds a strand. -/
def bankOfStrand (n : Nat) : Nat :=
  n / 32

/-- R265: the running frame program reserves circuit slots on a strand, on this device's own circuits or on those that
its tables take through it. -/
def circuitStrand (s : State) (n : Nat) : Bool :=
  match s.frm.image with
  | none => false
  | some img =>
    s.frm.prog == .running && img.circuits.any fun c =>
      (some c.rank == myRank s && c.strand == n) ||
        s.fab.tables.resvs.any (fun r => r.strand == n && r.resv == c.resv) ||
          s.fab.tables.transits.any fun t => t.resv == c.resv && (t.inStrand == n || t.outStrand == n)

/-! ### Lane-control messages -/

/-- R263: LMAP of a lane map. -/
def lmapNat (m : List Nat) : Nat :=
  ((List.range 8).map fun i => (m.getD i 0xF) % 16 * 16 ^ i).sum

/-- R252, R263: the lane map that LMAP names: the lanes at positions 0 on, up to the first empty one. -/
def lmapOf (v : Nat) : List Nat :=
  ((List.range 8).map fun i => v / 16 ^ i % 16).takeWhile (· < 9)

/-- R263: a lane-control message. -/
def laneMsgBytes (kind : Nat) (ack : Bool) (m : List Nat) (seq : Nat) (margins : List Byte) : List Byte :=
  overlay (layoutBytes 24 [(0, 1, kind), (1, 1, bit ack), (2, 4, lmapNat m), (8, 4, seq % 2 ^ 32)]) 12 (margins.take 9)

/-- R263, R278: a lane-control message goes out in a link-control block. -/
def sendControl (n : Nat) (msg : List Byte) (s : State) : State :=
  s.modLink n fun l => { l with ctl := l.ctl ++ [msg] }

/-- R263: no margin is given. -/
def noMargins : List Byte :=
  List.replicate 9 0x80

/-! ### Discovery blocks -/

/-- R301: a sequenced block goes out on a strand, in order. -/
def sendSequenced (n typ : Nat) (payload : List Byte) (s : State) : State :=
  s.modLink n fun l => { l with seqd := l.seqd ++ [{ typ := typ, payload := fitBytes 256 payload }] }

/-- R301: FLAGS of a discovery block. -/
def helloFlags (s : State) (n : Nat) : Nat :=
  bit s.top.plan.isSome + 2 * bit ((s.discAt n).st == .matched) + 4 * bit s.top.formed

/-- R45: the number of a device state. -/
def devStateCode : DevState → Nat
  | .off => 0 | .boot => 1 | .ready => 2 | .running => 3 | .deterministic => 4 | .draining => 5 | .failed => 6

/-- R301: bytes 0 to 47 of a discovery block; T_SEND, T_ECHO and HOLD are in 50 ps units, T_ECHO the 64-bit T_SEND of
the last hello accepted. -/
def discoveryHead (s : State) (n kind tsend : Nat) : List Byte :=
  let d := s.discAt n
  layoutBytes 48
    [(0, 1, kind), (1, 1, helloFlags s n), (2, 1, n), (3, 1, devStateCode s.pkg.devState), (4, 8, s.top.serial),
     (12, 2, s.top.feed), (14, 2, selfId s), (16, 2, (s.top.plan.map (·.domain)).getD 0),
     (18, 8, (s.top.plan.map (·.domDigest)).getD 0), (26, 8, tsend), (34, 8, (d.echo.map (·.1)).getD 0),
     (42, 4, (d.echo.map fun e => (tsend + 2 ^ 64 - e.2) % 2 ^ 64).getD 0), (46, 2, d.latency)]

/-- R301: a discovery block goes out with these bytes 48 to 63; the time of one that is no hello is open. [DC 101] -/
def sendDiscovery (n kind : Nat) (tail : List Byte) (s : State) : State :=
  sendSequenced n 8 (discoveryHead s n kind (Config.freeNat s.free % 2 ^ 64) ++ tail) s.drawFree

/-! ### The strand's state towards the plan -/

/-- R66, R306: this device's role in the domain of a plan. -/
def planRole (p : Plan) : Role :=
  if p.deviceId = p.whorl then .whorl else if p.deviceId = p.standby then .standby else .member

/-- R307: what the accepted plan says of a strand. -/
def planNb (s : State) (n : Nat) : Option PlanNb :=
  s.top.plan.bind fun p => p.nbs[n]?

/-- R304: a neighbour is present. -/
def present (s : State) (n : Nat) : Bool :=
  inService s n && (s.discAt n).nb == .found

/-- R309: why a present neighbour is not the planned one; 0 where it is. -/
def mismatchReason (e : PlanNb) (digest latency : Nat) (h : Hello) : Nat :=
  if e.role ≠ 1 then 1
  else if e.farDigest ≠ h.digest then 2
  else if e.farStrand ≠ h.strand then 3
  else if h.idValid && (h.devId != e.farDevice || (!e.foreign && h.domDigest != digest)) then 4
  else if e.latMax < latency then 5
  else 0

/-- R309: a strand's state and REASON. -/
def strandState (s : State) (n : Nat) : DiscState × Nat :=
  let d := s.discAt n
  match planNb s n with
  | none =>
    if !inService s n then (.out, 0)
    else match d.nb with
      | .waiting => (.discovering, 0)
      | .found => (.found, 0)
      | .lost | .none => (.none, 0)
  | some e =>
    if !present s n then (if e.role = 1 then .absent else .idle, 0)
    else
      match mismatchReason e ((s.top.plan.map (·.domDigest)).getD 0) d.latency (d.hello.getD {}) with
      | 0 => (.matched, 0)
      | r => (.quarantined, r)

/-- R309: a strand that matches the plan as it should. -/
def DiscState.good (d : DiscState) : Bool :=
  d == .matched || d == .idle

/-- R309: the number of a strand's state. -/
def DiscState.code : DiscState → Nat
  | .out => 0 | .discovering => 1 | .found => 2 | .none => 3 | .matched => 4 | .absent => 5 | .quarantined => 6
  | .idle => 7

/-- R309: the accepted plan matches exactly. -/
def planMatches (s : State) : Bool :=
  s.top.plan.isSome && (List.range 64).all fun n => (s.discAt n).st.good

/-! ### Summaries -/

/-- R306: the children of a tree: 0 the main tree, 1 the standby tree. -/
def childStrands (s : State) (tree : Nat) : List Nat :=
  match s.top.plan with
  | none => []
  | some p => (List.range 64).filter (if tree = 0 then p.children else p.sbChildren).testBit

/-- R310: the MATCHED children of a tree. -/
def matchedChildren (s : State) (tree : Nat) : List Nat :=
  (childStrands s tree).filter fun n => (s.discAt n).st == .matched

/-- R306: a strand mask has a strand. -/
def altStrands (mask : Nat) : List Nat :=
  (List.range 64).filter mask.testBit

/-- R317: the strand that gives a tree's ticks: its parent while MATCHED, else the lowest MATCHED alternate. -/
def tickStrand (s : State) (tree : Nat) : Option Nat :=
  match s.top.plan with
  | none => none
  | some p =>
    let par := if tree = 0 then p.parent else p.sbParent
    let alt := if tree = 0 then p.parentAlt else p.sbParentAlt
    if par = 0xFF then none
    else (par :: altStrands alt).find? fun n => (s.discAt n).st == .matched

/-- R313: the last summary of a child. -/
def childSum (s : State) (tree n : Nat) : Option (Nat × Nat × Nat × Bool) :=
  if tree = 0 then (s.discAt n).sum0 else (s.discAt n).sum1

/-- R313: this device's place in a tree. -/
def treePos (s : State) (tree : Nat) : Option TreePos :=
  if tree = 0 then s.top.main else s.top.sb

/-- R313 step 3, R315: COUNT, DEPTH, MAX_L and ALL_MATCH of this device's summary. -/
def summaryOf (s : State) (tree : Nat) : Nat × Nat × Nat × Bool :=
  let pos := (treePos s tree).getD {}
  let kids := (matchedChildren s tree).map (childSum s tree)
  let known := kids.filterMap id
  (1 + (known.map (·.1)).sum, known.foldl (fun m x => max m x.2.1) pos.depth, known.foldl (fun m x => max m x.2.2.1) pos.lat,
    planMatches s && kids.all fun k => (k.map (·.2.2.2)).getD false)

/-- R301: bytes 48 to 63 of a summary. -/
def summaryBytes (tree : Nat) (x : Nat × Nat × Nat × Bool) : List Byte :=
  layoutBytes 16 [(0, 1, tree), (1, 1, x.2.1), (2, 1, bit x.2.2.2), (4, 2, x.1), (8, 4, x.2.2.1)]

/-- R313 step 4: the strand on which a summary goes: the tree's parent strand, and for the standby's totals its PARENT. -/
def summaryStrand (s : State) (tree : Nat) : Option Nat :=
  match tickStrand s tree with
  | some n => some n
  | none => if tree = 1 && (s.top.plan.map planRole) == some .standby then tickStrand s 0 else none

/-- R313, R315: this device's summary of a tree is sent, and TOP_SUMMARY shows the main tree's. -/
def sendSummary (tree : Nat) (s : State) : State :=
  match treePos s tree with
  | none => s
  | some _ =>
    let x := summaryOf s tree
    let s := if tree = 0 then s.modTop fun t => { t with sumCount := x.1, sumMatch := x.2.2.2 } else s
    let s := if tree = 0 then s.modTop fun t => { t with main := t.main.map fun p => { p with sent := true } }
      else s.modTop fun t => { t with sb := t.sb.map fun p => { p with sent := true } }
    match summaryStrand s tree with
    | some n => sendDiscovery n 2 (summaryBytes tree x) s
    | none => s

/-- R312, R315: fresh summaries of both trees, once formed. -/
def freshSummaries (s : State) : State :=
  if s.top.formed then sendSummary 1 (sendSummary 0 s) else s

/-! ### Changes of a strand's state -/

/-- R318: the standby's hellos have stopped on every strand that leads to it. -/
def standbyGone (s : State) : Bool :=
  match s.top.plan with
  | none => false
  | some p => s.frm.role == .whorl && (List.range 64).all fun n =>
      ((planNb s n).map (·.farDevice)) != some p.standby || !present s n

/-- R312, R318, R323: a strand leaves MATCHED or IDLE, or enters QUARANTINED. -/
def stateChanged (n : Nat) (old new : DiscState) (s : State) : State :=
  let s := if standbyGone s then s.modFrm fun f => { f with noStandby := true } else s
  let s := if new = .quarantined then (winBump 36 0 n s).modTop fun t => { t with quarantine := true } else s
  let s := if new = .absent && old = .matched then winBump 35 0 n s else s
  if old.good && !new.good then
    freshSummaries (postEvent 0x08 .sPlanMismatch n none (leBytes 1 new.code)
      (s.modTop fun t => { t with mismatch := true }))
  else if new = .quarantined then
    escalate { row := 36, obj := n, count := winCount s 36 0 n, posted := true } s
  else s

/-- R315: a tree's summary goes out where it is another than before. -/
def refreshSummary (tree : Nat) (before : Nat × Nat × Nat × Bool) (s : State) : State :=
  if s.top.formed && summaryOf s tree != before then sendSummary tree s else s

/-- R309, R310, R315: a strand's state is evaluated anew; a child that leaves MATCHED is counted no more until it sends a
summary again. -/
def reevaluate (n : Nat) (s : State) : State :=
  let old := (s.discAt n).st
  let r := strandState s n
  let main := summaryOf s 0
  let sb := summaryOf s 1
  let s := s.modDisc n fun d =>
    { d with st := r.1, reason := r.2, fresh := d.fresh || (s.top.formed && r.1 == .matched && old != .matched)
             sum0 := if r.1 = .matched then d.sum0 else none, sum1 := if r.1 = .matched then d.sum1 else none }
  if s.top.plan.isSome && old ≠ r.1 then
    (if old.good && !r.1.good then stateChanged n old r.1 s
     else refreshSummary 1 sb (refreshSummary 0 main (stateChanged n old r.1 s)))
  else s

/-- R267, R268: 1 µs of planned stretch is asked for, with CAUSE bit 4. -/
def planLaneChange (s : State) : State :=
  s.modFrm fun f => { f with planned := max f.planned 1, plannedCause := f.plannedCause ||| 0x10 }

/-- R253: the strands of a bank that are in service. -/
def bankStrands (s : State) (b : Nat) : List Nat :=
  ((List.range 32).map (32 * b + ·)).filter (inService s)

/-- R268, R269: what follows each verification of a mirror: with every strand of the bank in service trained the swap is
MIRRORING, with every one verified it is pending, and 1 µs is asked for. -/
def advanceSwap (b : Nat) (s : State) : State :=
  let k := s.bankAt b
  let ms := (bankStrands s b).map fun n => (s.strandAt n).mirror
  if k.swap ≠ .training && k.swap ≠ .mirroring then s
  else if ms.all (· == .verified) then planLaneChange (s.modBank b fun k => { k with swap := .pending })
  else if ms.all (· != .untrained) then s.modBank b fun k => { k with swap := .mirroring }
  else s.modBank b fun k => { k with swap := .training }

/-- R71, R317: the strands that give this device's ticks; the latency of a new one is applied under R71. -/
def noteTickStrands (s : State) : State :=
  let s := match tickStrand s 0 with
    | some n =>
      if s.top.formed && s.top.inUse != 0xFF && s.top.inUse != n then
        s.modFrm fun f => { f with latNew := f.latNew + (s.discAt n).latency - (s.discAt s.top.inUse).latency }
      else s
    | none => s
  let s := match tickStrand s 1 with
    | some n =>
      if s.top.formed && s.top.sbInUse != 0xFF && s.top.sbInUse != n then
        s.modFrm fun f => { f with latNew2 := f.latNew2 + (s.discAt n).latency - (s.discAt s.top.sbInUse).latency }
      else s
    | none => s
  s.modTop fun x => { x with inUse := (tickStrand s 0).getD 0xFF, sbInUse := (tickStrand s 1).getD 0xFF }

/-- R253, R268, R287, R304: a strand leaves service: a swap of its bank waits for it no longer, its neighbour is lost, and a
circuit that crosses it cannot complete. -/
def leaveService (n : Nat) (s : State) : State :=
  let s := advanceSwap (bankOfStrand n) (if circuitStrand s n then failFrame .eUnreachable s else s)
  let s := s.modDisc n fun d => { d with nb := if d.nb = .found then .lost else .none, samples := [], echo := none, hello := none }
  noteTickStrands (reevaluate n s)

/-! ### Lane notices -/

/-- R287: a lane notice of a strand for a reservation to a source. -/
def laneNoticeData (s : State) (n resv : Nat) : List Byte :=
  let lanes := (s.strandAt n).txMap.length
  leBytes 1 n ++ leBytes 1 resv ++ leBytes 1 lanes ++ leBytes 1 0 ++ leBytes 2 (28 * lanes)

/-- R287: a notice to each source whose blocks the strand's buffer has held in this frame or the one before. -/
def sendNotices (n : Nat) : List (Nat × Nat × Nat) → State → State
  | [], s => s
  | x :: xs, s =>
    if x.1 = n then sendNotices n xs (sendMessage 0 x.2.2 { op := 0x0C, opLen := 6 } (laneNoticeData s n x.2.1) s)
    else sendNotices n xs s

/-- R287: a transmit direction has changed its lane count. -/
def laneNotices (n : Nat) (s : State) : State :=
  sendNotices n ((s.fab.relayed ++ s.fab.relayedOld).dedup) s

end Sys2Proof.Machine
end

