-- ==== Sys2Proof/Machine/Lanes.lean ====
section
/-!
DEFINITION. Chapter 10: lane maps, lost and restored lanes, and the lane-control messages that change maps (R252, R253,
R263-R267, R269-R271).
-/

namespace Sys2Proof.Machine

/-! ### Maps -/

/-- R264: the transmit map that holds once what has been announced is in force. -/
def txPending (t : Strand) : List Nat :=
  (t.txNext.map (·.map)).getD t.txMap

/-- R264: the receive map that holds once what has been announced is in force. -/
def rxPending (t : Strand) : List Nat :=
  (t.rxNext.map (·.map)).getD t.rxMap

/-- R76, R264, R267: a change of a lane map is shown in CAUSE. -/
def laneCause (s : State) : State :=
  (noteHold 0x10 s).modOpt fun o => { o with laneEvent := true }

/-- R263, R264: the sender announces a transmit map from a block sequence number on. -/
def announceMap (n : Nat) (m : List Nat) (seq : Nat) (ack : Bool) (s : State) : State :=
  sendControl n (laneMsgBytes 2 ack m seq noMargins) s

/-- R265, R267: a packet-only strand at eight lanes in both directions returns to packet routing. -/
def maybeReturn (n : Nat) (s : State) : State :=
  s.modStrand n fun t =>
    if t.txMap.length = 8 && t.rxMap.length = 8 then { t with withdrawn := false } else t

/-- R265: a lane of a strand is lost: a packet-only strand is withdrawn from packet routing. -/
def withdraw (n : Nat) (s : State) : State :=
  s.modStrand n fun t => { t with withdrawn := t.withdrawn || !circuitStrand s n }

/-- R252, R253, R287: a transmit map comes into force; below four lanes the direction leaves service. -/
def applyTx (n : Nat) (m : List Nat) (s : State) : State :=
  let old := (s.strandAt n).txMap.length
  let s := laneCause (s.modStrand n fun t => { t with txMap := m, txNext := none, txOut := t.txOut || m.length < 4 })
  let s := if m.length = old then s else laneNotices n s
  if m.length < 4 then leaveService n s else maybeReturn n s

/-- R252, R253, R265: a receive map comes into force; a shorter one means a lost lane. [DC 98] -/
def applyRx (n : Nat) (m : List Nat) (s : State) : State :=
  let s := if m.length < (s.strandAt n).rxMap.length then withdraw n s else s
  let s := laneCause (s.modStrand n fun t => { t with rxMap := m, rxNext := none, rxOut := t.rxOut || m.length < 4 })
  if m.length < 4 then leaveService n s else maybeReturn n s

/-! ### Lost lanes -/

/-- R260, R271: a lost lane is counted; the strand is due for calibration; from the third loss within the hour on the lane
stays dropped. The record of the loss is written once it has been located (R266). -/
def countLoss (n : Nat) (s : State) : State :=
  let s := winBump 25 0 n s
  let c := winCount s 25 0 n
  let s := s.modStrand n fun t => { t with calDue := true }
  escalate { row := 25, obj := n, count := c, l2 := true, l3 := 3 ≤ c, done := true }
    (s.modOpt fun o => { o with laneEvent := true })

/-- R258, R269, R271: the calibration of a strand has failed; a retry follows in the next period. -/
def calibrationFailed (n : Nat) (s : State) : State :=
  let s := winBump 27 0 n (s.modOpt fun o => { o with calFail := true })
  let c := winCount s 27 0 n
  escalate { row := 27, obj := n, count := c, l2 := true, l3 := 2 ≤ c } s

/-- R259: the calibration or training of a strand is over. -/
def endCalibration (s : State) : State :=
  match s.opt.cal with
  | none => s
  | some j => (s.modOpt fun o => { o with cal := none }).modStrand j.strand fun t => { t with calWithdrawn := false }

/-- R269: a lane lost during a calibration of its strand ends the calibration as failed. -/
def breakCalibration (n : Nat) (s : State) : State :=
  if (s.opt.cal.map (·.strand)) = some n then calibrationFailed n (endCalibration s) else s

/-- R264, R267: a lost lane is in no map that waits for a frame boundary. -/
def dropAtFrame (n lane : Nat) (s : State) : State :=
  s.modOpt fun o => { o with atFrame := o.atFrame.map fun e => if e.1 = n then (n, e.2.erase lane) else e }

/-- R264, R265: the sender drops a lost lane at once: the map without it is announced 16 blocks ahead, and a packet-only
strand is withdrawn. A direction that would fall below four lanes leaves service. A lane that waits to return at a frame
boundary is lost again. -/
def dropTx (n lane : Nat) (ack : Bool) (s : State) : State :=
  let waits := s.opt.atFrame.any fun e => e.1 == n && e.2.contains lane
  let s := dropAtFrame n lane s
  let t := s.strandAt n
  if !(txPending t).contains lane then
    (if waits then s.modStrand n fun t => { t with lost := t.lost ++ [lane] } else s)
  else
    let m := (txPending t).erase lane
    let s := countLoss n (breakCalibration n s)
    let stays := 3 ≤ winCount s 25 0 n
    let s := (withdraw n s).modStrand n fun t =>
      { t with lost := t.lost ++ [lane], stay := if stays then t.stay ++ [lane] else t.stay }
    if m.length < 4 then applyTx n m s
    else
      let seq := (s.linkAt n).txSeq + 16
      announceMap n m seq ack (s.modStrand n fun t => { t with txNext := some { map := m, at_ := seq } })

/-- R264: every lane of a list is dropped. -/
def dropAllTx (n : Nat) (ack : Bool) : List Nat → State → State
  | [], s => s
  | l :: ls, s => dropAllTx n ack ls (dropTx n l ack s)

/-- R264: the drop request for the receive lanes that are lost. -/
def requestDrop (n : Nat) (s : State) : State :=
  let t := s.strandAt n
  sendControl n (laneMsgBytes 1 false ((rxPending t).filter fun l => !t.dropReq.contains l) 0 noMargins) s

/-- R253, R264, R265, R269: a receive lane is lost: its position is taken from L8 where L8 mirrors it, else a drop request
goes out; with fewer than four lanes that are not lost the direction leaves service. -/
def loseRx (n lane : Nat) (s : State) : State :=
  let t := s.strandAt n
  if !(rxPending t).contains lane || t.dropReq.contains lane then s
  else
    let s := withdraw n (countLoss n (breakCalibration n s))
    if t.rxMirror = some lane then applyRx n ((rxPending t).map fun l => if l = lane then 8 else l) s
    else
      let s := requestDrop n (s.modStrand n fun t => { t with dropReq := t.dropReq ++ [lane] })
      let left := (rxPending t).filter fun l => l != lane && !t.dropReq.contains l
      if left.length < 4 then applyRx n left s else s

/-- R264: every lane of a list is lost. -/
def loseAllRx (n : Nat) : List Nat → State → State
  | [], s => s
  | l :: ls, s => loseAllRx n ls (loseRx n l s)

/-- LANE_LOSS (R264). -/
def execLaneLoss (strand : StrandId) (lane : LaneId) (s : State) : Host.Outcome State Fault Refusal :=
  .next (if (s.strandAt strand).rxOut then s else loseRx strand lane s)

/-- DROP_REQUEST (R264): the lanes of the map that the request's LMAP leaves out are dropped; a request that has been
carried out already is acknowledged again. -/
def execDropRequest (strand : StrandId) (payload : List Byte) (s : State) : Host.Outcome State Fault Refusal :=
  .next (
    let t := s.strandAt strand
    let gone := (txPending t).filter fun l => !(lmapOf (fieldOf payload 2 4)).contains l
    if t.txOut then s
    else if gone.isEmpty then
      announceMap strand (txPending t) ((t.txNext.map (·.at_)).getD (s.linkAt strand).txSeq) true s
    else dropAllTx strand true gone s)

/-- DROP_REQUEST_REPEAT (R263): every 64 blocks until a map announce acknowledges it. -/
def execDropRequestRepeat (strand : StrandId) (s : State) : Host.Outcome State Fault Refusal :=
  .next (if (s.strandAt strand).dropReq.isEmpty then s else requestDrop strand s)

/-- R263: a block sequence number from its low 32 bits, the nearest one not before the next expected. -/
def seqFrom (next low : Nat) : Nat :=
  next + (low + 2 ^ 32 - next % 2 ^ 32) % 2 ^ 32

/-- MAP_ANNOUNCE (R252, R263): the receiver learns the new map and the block from which it applies; an acknowledgement
covers the drop requests of the lanes that the map leaves out. -/
def execMapAnnounce (strand : StrandId) (payload : List Byte) (s : State) : Host.Outcome State Fault Refusal :=
  .next (
    let m := lmapOf (fieldOf payload 2 4)
    let seq := seqFrom (s.linkAt strand).rxSeq (fieldOf payload 8 4)
    if (s.strandAt strand).rxOut then s
    else s.modStrand strand fun t =>
      { t with rxNext := some { map := m, at_ := seq },
               dropReq := if bitOf (fieldOf payload 1 1) 0 then t.dropReq.filter m.contains else t.dropReq })

/-- MAP_SWITCH (R252): the block sequence number of an announced map has been reached. -/
def execMapSwitch (strand : StrandId) (receive : Bool) (s : State) : Host.Outcome State Fault Refusal :=
  .next (
    let t := s.strandAt strand
    match if receive then t.rxNext else t.txNext with
    | none => s
    | some c => if receive then applyRx strand c.map s else applyTx strand c.map s)

/-! ### Changes at a frame boundary -/

/-- R267: a map comes into force at the first block sent from now on, announced. -/
def mapAtOnce (n : Nat) (m : List Nat) (s : State) : State :=
  applyTx n m (announceMap n m (s.linkAt n).txSeq false s)

/-- R267, R268: a lane change waits for the next frame boundary; with no domain formed it takes effect at once. -/
def changeAtFrame (n : Nat) (m : List Nat) (s : State) : State :=
  if s.frm.role = .none then mapAtOnce n m s
  else planLaneChange (s.modOpt fun o => { o with atFrame := (o.atFrame.filter fun e => e.1 != n) ++ [(n, m)] })

/-- R267: the lane map that a strand will have after what waits for the frame boundary. -/
def frameMap (s : State) (n : Nat) : List Nat :=
  ((s.opt.atFrame.find? fun e => e.1 == n).map (·.2)).getD (txPending (s.strandAt n))

/-- R267, R268: the lane changes of a list take effect. -/
def applyAll : List (Nat × List Nat) → State → State
  | [], s => s
  | e :: es, s => applyAll es (mapAtOnce e.1 e.2 s)

/-- R267, R268: a frame begins: the lane changes that wait for it take effect. -/
def lanesAtFrame (s : State) : State :=
  applyAll s.opt.atFrame (s.modOpt fun o => { o with atFrame := [] })

/-- LANE_RESTORE (R267): a lane that a calibration has found to pass returns in the lowest empty position. -/
def execLaneRestore (strand : StrandId) (lane : LaneId) (s : State) : Host.Outcome State Fault Refusal :=
  .next (
    if !(s.strandAt strand).passed.contains lane.val || 8 ≤ (frameMap s strand).length then s
    else
      let m := frameMap s strand ++ [lane.val]
      changeAtFrame strand m (s.modStrand strand fun t =>
        { t with passed := t.passed.filter (· != lane.val), lost := t.lost.filter (· != lane.val) }))

/-! ### Where a lane was lost -/

/-- R266: a code is more than 3 dB below another. -/
def below3dB (code base : Nat) : Bool :=
  code ^ 10 * 1000 < base ^ 10

/-- R261, R266: the key of a stage's baseline; stage 1 has one monitor per strand. -/
def stageKey (st lane : Nat) : Nat :=
  16 * st + if st = 1 then 0 else lane

/-- R266: LOC: the first low stage from the laser outward, 5 where none is low. -/
def locate (t : Strand) (lane : Nat) (codes : Vector Half 4) : Nat :=
  (((List.range 4).find? fun st => below3dB (vget codes st).toNat (tget t.stageBase (stageKey st lane))).map (· + 1)).getD 5

/-- R265, R266: S_LANE_DROP: after the fields of R434, LOC, the lane, and whether the strand was withdrawn. [DC 30] -/
def laneDropData (s : State) (n lane loc : Nat) : List Byte :=
  let c := winCount s 25 0 n
  layoutBytes 40
    [(0, 1, if 3 ≤ c then 3 else 2), (1, 1, 25), (4, 4, c), (8, 1, loc), (9, 1, lane), (10, 1, bit (s.strandAt n).withdrawn)]

/-- LOSS_LOCATION (R266): 100 µs readings of stages 0 to 3 locate a lost lane. -/
def execLossLocation (strand : StrandId) (lane : LaneId) (codes : Vector Half 4) (s : State) :
    Host.Outcome State Fault Refusal :=
  .next (
    if !(s.strandAt strand).lost.contains lane.val then s
    else
      let loc := locate (s.strandAt strand) lane codes
      postEvent 0x06 .sLaneDrop strand none (laneDropData s strand lane loc)
        (s.modStrand strand fun t => { t with loc := loc }))

end Sys2Proof.Machine
end

