-- ==== Sys2Proof/Machine/Fabric.lean ====
section
/-!
DEFINITION. The link layer of a strand (R274-R281), the choice of what goes out at each block position, and what a relay
does with circuit blocks and packets (R282-R292).
-/

namespace Sys2Proof.Machine

/-! ### Blocks -/

/-- R275, R278: a block that consumes a sequence number. -/
def Blk.sequenced (b : Blk) : Bool :=
  b.typ == 1 || b.typ == 2 || b.typ == 3 || b.typ == 4 || (b.typ == 5 && !b.dup) || b.typ == 6 || b.typ == 8

/-- R274, R276: the 272 bytes of a block: SEQ, and ACK and NAK of the reverse direction. -/
def blockBytes (l : Link) (seq : Nat) (b : Blk) : List Byte :=
  let body := leBytes 1 (16 * b.typ + 2 * bit b.dup + bit l.nak) ++ leBytes 2 seq ++ leBytes 2 (l.rxSeq + 65535)
    ++ leBytes 7 b.route ++ fitBytes 256 b.payload
  body ++ leBytes 4 (crc32c body)

/-- R274, R277: a block goes out; a sequenced one takes the next sequence number and is held for replay. -/
def sendBlock (n : Nat) (b : Blk) (s : State) : State :=
  let l := s.linkAt n
  let s := s.emit (.block n (blockBytes l l.txSeq b))
  if b.sequenced then
    s.modLink n fun l => { l with held := l.held ++ [(l.txSeq, b)], txSeq := wrapInc 48 l.txSeq }
  else s

/-- R277: a held block goes out again, unchanged but for ACK and NAK. -/
def resendBlock (n seq : Nat) (b : Blk) (s : State) : State :=
  (s.emit (.block n (blockBytes (s.linkAt n) seq b))).modLink n fun l => { l with resend := l.resend.drop 1 }

/-! ### Replay -/

/-- R299: the lane of a transmit direction with the lowest margin; a lane without a reading is chosen only where none has
one. -/
def lowestLane (t : Strand) : Option Nat :=
  let known := t.txMap.filterMap fun l => (tget t.txMargin l).map fun m => (m, l)
  match known with
  | [] => t.txMap.head?
  | k :: ks => some (ks.foldl (fun a b => if b.1 < a.1 then b else a) k).2

/-- R277, R299: a replay begins: it is counted, the 64th of a window makes the strand due for calibration, and from the
third such trigger of an hour on the lane with the lowest margin is lost. -/
def replayBegun (n : Nat) (s : State) : State :=
  let s := winBump 30 0 n s
  let c := winCount s 30 0 n
  if c ≠ 64 then s
  else
    let s := (winBump 30 1 n s).modStrand n fun t => { t with calDue := true }
    let third := 3 ≤ winCount s 30 1 n
    let s := match lowestLane (s.strandAt n) with
      | some l => if third then dropTx n l false s else s
      | none => s
    escalate { row := 30, obj := n, count := c, l2 := true, l3 := third } s

/-- R277: the first sequence number that an ACK leaves uncovered: the one after the highest number sent with these low 16
bits, 0 where the ACK names none. -/
def uncovered (l : Link) (low : Nat) : Nat :=
  let back := (l.txSeq + 65536 - 1 - low) % 65536
  l.txSeq - back

/-- R253, R277: the block positions in twice the strand's measured latency plus 200 ns. [DEDUCED 99] -/
def nakPositions (s : State) (n : Nat) : Nat :=
  ceilDiv ((2 * (s.discAt n).latency + 200) * (s.strandAt n).txMap.length) 32

/-- R277: an ACK covers held blocks; the first NAK that names it begins a replay of the others, and so does one that still
names it after twice the latency plus 200 ns. -/
def takeAck (n : Nat) (nak : Bool) (low : Nat) (s : State) : State :=
  let q := uncovered (s.linkAt n) low
  let s := s.modLink n fun l =>
    { l with held := l.held.filter fun e => q ≤ e.1, resend := l.resend.filter fun r => q ≤ r }
  let l := s.linkAt n
  if !nak then s.modLink n fun l => { l with lastNak := none }
  else if l.lastNak = some q && 0 < l.nakQuiet || l.held.isEmpty then s
  else replayBegun n (s.modLink n fun l =>
    { l with lastNak := some q, nakQuiet := nakPositions s n, resend := l.held.map (·.1) })

/-- R291: packets from an ingress strand that wait. -/
def ingressCount (s : State) (n : Nat) : Nat :=
  (s.fab.transit.filter fun p => p.ingress == some n).length

/-- R299: a packet is dropped: at the hop limit, or for want of a strand or of a state entry. -/
def dropPacket (hops : Bool) (s : State) : State :=
  winBump 32 0 0 (s.modFab fun f =>
    if hops then { f with dropHops := wrapInc 16 f.dropHops } else { f with dropRoom := wrapInc 16 f.dropRoom })

/-- R291: a packet for another device is taken in: it is dropped where its HOPS would reach 64 or the ingress strand's
buffer is full. -/
def transitIn (n route : Nat) (payload : List Byte) (s : State) : State :=
  let dest := bitsOf route 55 42
  if isSelf s dest then s
  else if 64 ≤ bitsOf route 41 35 + 1 then dropPacket true s
  else if 64 ≤ ingressCount s n then dropPacket false s
  else s.modFab fun f =>
    { f with transit := f.transit ++ [{ dest := dest, hops := bitsOf route 41 35, marks := bitsOf route 34 28,
                                        payload := payload, ingress := some n }] }

/-- R278: a block whose CRC passed and that is not the one expected shows how far the sender's numbers have come. -/
def noteSeen (n seq : Nat) (sequenced : Bool) (s : State) : State :=
  s.modLink n fun l =>
    let ahead := (seq + 65536 - l.rxSeq % 65536) % 65536
    if ahead < 32768 then { l with rxTop := max l.rxTop (l.rxSeq + ahead + bit sequenced) } else l

/-- R277, R278, R310: the block is one that the receiver has been expecting; it has come by replay where later ones had been
seen before it. -/
def acceptBlock (n typ route : Nat) (payload : List Byte) (s : State) : State :=
  let s := s.modLink n fun l =>
    { l with rxSeq := wrapInc 48 l.rxSeq, nak := false, replayed := l.nak, late := decide (l.rxSeq < l.rxTop) }
  if typ ≠ 4 then s
  else if (s.discAt n).st = .quarantined then s.modTop fun x => { x with discards := wrapInc 32 x.discards }
  else transitIn n route payload s

/-- R275-R278: a block has arrived on a strand. -/
def receiveBlock (n : Nat) (b : List Byte) (s : State) : State :=
  let typ := fieldOf b 0 1 / 16
  let flags := fieldOf b 0 1
  if fieldOf b 268 4 ≠ crc32c (b.take 268) || b.length ≠ 272 || 9 ≤ typ then
    s.modLink n fun l => { l with nak := true }
  else
    let s := takeAck n (flags.testBit 0) (fieldOf b 3 2) s
    let blk : Blk := { typ := typ, dup := flags.testBit 1 }
    if !blk.sequenced then noteSeen n (fieldOf b 1 2) false s
    else if fieldOf b 1 2 = (s.linkAt n).rxSeq % 65536 then acceptBlock n typ (fieldOf b 5 7) (sliceBytes b 12 256) s
    else noteSeen n (fieldOf b 1 2) true (s.modLink n fun l => { l with nak := true })

/-- BLOCK_RECEIVE (R253, R258, R277): a strand out of service carries nothing. -/
def execBlockReceive (strand : StrandId) (block : List Byte) (s : State) : Host.Outcome State Fault Refusal :=
  .next (if carriesTraffic s strand then receiveBlock strand block s else s)

/-- REPLAY_TIMEOUT (R277). -/
def execReplayTimeout (strand : StrandId) (s : State) : Host.Outcome State Fault Refusal :=
  .next (if (s.linkAt strand).held.isEmpty then s
         else replayBegun strand
           (s.modLink strand fun l => { l with lastNak := none, resend := l.held.map (·.1) }))

/-! ### Packets waiting for a strand -/

/-- R265, R291, R310: packets may go out on a strand. -/
def packetCandidate (s : State) (n : Nat) : Bool :=
  let t := s.strandAt n
  inService s n && (s.discAt n).st == .matched && !t.withdrawn && !t.calWithdrawn

/-- R291, R319: the productive strands of a destination that are candidates; every candidate is productive where none of
the table's is. -/
def productive (s : State) (dest : Nat) : List Nat :=
  let mask := tget s.fab.tables.routes dest
  let cs := (List.range 64).filter (packetCandidate s)
  let ps := cs.filter fun n => mask.testBit n
  if mask = 0 then [] else if ps.isEmpty then cs else ps

/-- R291: counting upwards from h, the first strand of a list that has no packet chosen for it. -/
def firstFree (s : State) (h : PktHdr) (ns : List Nat) : Option Nat :=
  let h0 := (h.src ^^^ h.msg ^^^ h.index) % 64
  ((List.range 64).map fun i => (h0 + i) % 64).find? fun n => ns.contains n && (s.linkAt n).pkt.isNone

/-- R298: while tables are staged, no new message starts towards a destination whose entry changes. -/
def heldBack (s : State) (p : Pkt) : Bool :=
  let h := pktHdr p.payload
  match s.fab.staged with
  | none => false
  | some t => !h.resent && (tget s.fab.tx h.msg).isSome && (unstarted s).contains h.msg && routeChanges s t p.dest

/-- R291: a packet is chosen for a strand; HOPS counts the hop. -/
def choosePacket (n : Nat) (p : Pkt) (s : State) : State :=
  s.modLink n fun l => { l with pkt := some { p with hops := p.hops + 1 } }

/-- R291: the packets that find a free productive strand take it, in order; the others go on waiting. -/
def placeWaiting (own : Bool) : List Pkt → State → List Pkt × State
  | [], s => ([], s)
  | p :: ps, s =>
    match if own && heldBack s p then none else firstFree s (pktHdr p.payload) (productive s p.dest) with
    | some n => placeWaiting own ps (choosePacket n p s)
    | none =>
      let r := placeWaiting own ps s
      (p :: r.1, r.2)

/-- R291: waiting packets are placed, those in transit first. -/
def placePackets (s : State) : State :=
  let (t, s) := placeWaiting false s.fab.transit s
  let s := s.modFab fun f => { f with transit := t }
  let (i, s) := placeWaiting true s.fab.inject s
  s.modFab fun f => { f with inject := i }

/-- TRANSIT_DEFLECT (R291): after 16 block times a transit packet takes any candidate strand. -/
def execTransitDeflect (index : Nat) (s : State) : Host.Outcome State Fault Refusal :=
  .next (
    match s.fab.transit[index]? with
    | none => s
    | some p =>
      match firstFree s (pktHdr p.payload) ((List.range 64).filter (packetCandidate s)) with
      | none => s
      | some n =>
        choosePacket n { p with marks := min 127 (p.marks + 1) } (s.modFab fun f =>
          { f with transit := f.transit.eraseIdx index, deflections := wrapInc 32 f.deflections }))

/-- TRANSIT_DROP (R291): after 256 block times it is dropped. -/
def execTransitDrop (index : Nat) (s : State) : Host.Outcome State Fault Refusal :=
  .next (
    match s.fab.transit[index]? with
    | none => s
    | some _ => dropPacket false (s.modFab fun f => { f with transit := f.transit.eraseIdx index }))

/-! ### Positions -/

/-- R280, R282: the connection of a slot of a strand: the reservation and the source of its blocks, an ingress strand or
64 for the local transfer engines. -/
def connection (s : State) (n slot : Nat) : Option (Nat × Nat) :=
  (s.fab.tables.resvs.find? fun e => e.strand == n && e.firstSlot ≤ slot && slot < e.firstSlot + e.slotCount).map fun e =>
    (e.resv, ((s.fab.tables.transits.find? fun t => t.outStrand == n && t.resv == e.resv).map (·.inStrand)).getD 64)

/-- R280: the connection changes at the start of the slot, so that it begins with a guard; slot 0 follows the held part of
the frame before. -/
def hasGuard (s : State) (n slot : Nat) : Bool :=
  connection s n slot != (if slot = 0 then none else connection s n (slot - 1))

/-- R280: what a position may carry. -/
inductive PosKind where
  /-- No block of either class. -/
  | guard_
  /-- A circuit position of a reservation. -/
  | circuit (resv : Nat)
  /-- The packet reserve. -/
  | reserve
  /-- A position outside every slot, or of a slot that no reservation holds. -/
  | free
  deriving DecidableEq, Repr, Inhabited

/-- R280, R281: the use of a position of a strand at `lanes` lanes. -/
def posKind (s : State) (n : Nat) (slot : Option Nat) (pos : Nat) : PosKind :=
  let lanes := (s.strandAt n).txMap.length
  match slot with
  | none => .free
  | some k =>
    if hasGuard s n k && pos < 2 * lanes then .guard_
    else if 28 * lanes ≤ pos then .reserve
    else match connection s n k with
      | some c => .circuit c.1
      | none => .free

/-- R310: a strand in its present state carries a block of a type. -/
def carries (s : State) (n typ : Nat) : Bool :=
  let d := s.discAt n
  let foreign := ((planNb s n).map (·.foreign)).getD false
  if typ = 0 ∨ typ = 7 ∨ typ = 8 then true
  else if typ = 4 then d.st == .matched
  else if typ = 6 then d.st == .matched && !foreign
  else d.st == .matched && !foreign && !d.fresh

/-- R287: the lane notices let this device send another block in a reservation in this slot: the limit that held as the slot
began, unless it has been lifted since. -/
def underLimit (s : State) (n resv : Nat) : Bool :=
  match tget s.fab.limit resv, tget (s.linkAt n).limit resv with
  | some _, some m => tget (s.linkAt n).inSlot resv < m
  | _, _ => true

/-- R342: how soon a skein is visited: in ascending order after the one served last on the strand. -/
def skeinTurn (s : State) (n : Nat) (b : Blk) : Nat :=
  (fieldOf b.payload 8 2 + 65536 - tget s.skn.lastServed n) % 65536

/-- R342: among the open blocks of collectives, the one whose skein is visited first; the first queued of that skein. -/
def nextSkein (s : State) (n : Nat) (qs : List (Nat × Blk)) : Option (Nat × Blk) :=
  match qs with
  | [] => none
  | q :: qs => some (qs.foldl (fun a b => if skeinTurn s n b.2 < skeinTurn s n a.2 then b else a) q)

/-- R285, R342: the next block of this device's own among those of a list of its queue: a started transfer runs to its
close block; then credit-only and abort chunks; then a transfer of XFER at the head, or the skeins in turn. -/
def ownNext (s : State) (n : Nat) (qs : List (Nat × Blk)) : Option (Nat × Blk) :=
  let opens := qs.filter fun q => q.2.typ == 1
  match qs.find? fun q => q.2.typ != 1 && !(opens.any fun o => o.1 == q.1 && o.2.xfer == q.2.xfer) with
  | some q => some q
  | none =>
    match opens.find? fun q => q.2.urgent with
    | some q => some q
    | none =>
      match opens.head? with
      | none => none
      | some q => if q.2.collective then nextSkein s n (opens.filter fun q => q.2.collective) else some q

/-- R286, R287: the circuit block that goes out at a position, and whether it is one that was relayed: one of the position's
reservation, else any other. -/
def circuitNext (s : State) (n : Nat) (k : PosKind) : Option (Bool × Nat × Blk) :=
  let l := s.linkAt n
  let ok := fun q : Nat × Blk => carries s n q.2.typ
  let own := l.own.filter fun q => ok q && underLimit s n q.1
  let buf := (l.cbuf ++ l.cut).filter ok
  let pick := fun p : Nat → Bool =>
    match (buf.filter fun q => p q.1).head? with
    | some q => some (true, q)
    | none => (ownNext s n (own.filter fun q => p q.1)).map fun q => (false, q)
  match k with
  | .circuit r => (pick fun x => x == r) <|> pick fun _ => true
  | .free => pick fun _ => true
  | .guard_ | .reserve => none

/-- R286, R299: a circuit block is dropped, for want of room or of a transit entry: the frame fails. -/
def dropCircuit (s : State) : State :=
  let s := winBump 31 0 0 (s.modFab fun f => { f with cbufOverflow := true, cbufOver := wrapInc 32 f.cbufOver })
  escalate { row := 31, count := winCount s 31 0 0 } (failFrame .eFrameFailed s)

/-- R275: SRC of a circuit block's ROUTE. -/
def routeSrc (r : Nat) : Nat :=
  bitsOf r 41 28

/-- R286, R287: a relayed block that no position has taken is held in the egress strand's circuit buffer. -/
def holdBlock (n : Nat) (q : Nat × Blk) (s : State) : State :=
  let held := (s.linkAt n).cbuf.length
  let key := (n, q.1, routeSrc q.2.route)
  if 1024 ≤ held then dropCircuit s
  else (s.modLink n fun l => { l with cbuf := l.cbuf ++ [q] }).modFab fun f =>
    { f with cbufPeak := max f.cbufPeak (held + 1)
             relayed := if f.relayed.contains key then f.relayed else f.relayed ++ [key] }

/-- R286: each block of a list is held. -/
def holdBlocks (n : Nat) : List (Nat × Blk) → State → State
  | [], s => s
  | q :: qs, s => holdBlocks n qs (holdBlock n q s)

/-- R286: the blocks that have not left cut-through are held. -/
def holdCut (n : Nat) (s : State) : State :=
  holdBlocks n (s.linkAt n).cut (s.modLink n fun l => { l with cut := [] })

/-- R285-R287, R342: a circuit block leaves its queue; a transfer number may come free with it. -/
def takeCircuit (n : Nat) (relayed : Bool) (q : Nat × Blk) (s : State) : State :=
  if relayed then s.modLink n fun l =>
    if l.cbuf.contains q then { l with cbuf := l.cbuf.erase q } else { l with cut := l.cut.erase q }
  else
    let s := xferFreed (s.modLink n fun l =>
      { l with own := l.own.erase q, inSlot := tput l.inSlot q.1 (tget l.inSlot q.1 + 1) })
    if q.2.collective then
      s.modSkn fun x => { x with lastServed := tput x.lastServed n ((fieldOf q.2.payload 8 2 + 1) % 65536) }
    else s

/-- R275, R291: the block of a packet. -/
def packetBlock (p : Pkt) : Blk :=
  { typ := 4, route := packBits [(55, 42, p.dest), (41, 35, p.hops), (34, 28, p.marks)], payload := p.payload }

/-- R279: the replay buffer is full. -/
def windowIsFull (s : State) (n : Nat) : Bool :=
  1024 ≤ (s.linkAt n).held.length

/-- R259, R263: the responding end's calibration accept has gone out, and its period begins. -/
def acceptSent (n : Nat) (m : List Byte) (s : State) : State :=
  if fieldOf m 0 1 = 6 then s.modOpt fun o =>
    { o with cal := o.cal.map fun j => if j.strand = n && !j.starter then { j with accepted := true } else j }
  else s

/-- R263, R278: a link-control message goes out, unstriped for as many block times as the direction has lanes, else an idle
block. -/
def sendIdle (n : Nat) (s : State) : State :=
  match (s.linkAt n).ctl with
  | m :: ms =>
    let left := (s.strandAt n).txMap.length - 1
    acceptSent n m (sendBlock n { typ := 7, payload := m } (s.modLink n fun l => { l with ctl := ms, ctlLeft := left }))
  | [] => sendBlock n {} s

/-- R280, R286, R291: a circuit block or a packet at a position, else an idle block. -/
def sendClass (n : Nat) (k : PosKind) (s : State) : State :=
  match circuitNext s n k with
  | some (relayed, q) => sendBlock n q.2 (takeCircuit n relayed q s)
  | none =>
    match (s.linkAt n).pkt with
    | some p =>
      if k != .guard_ && carries s n 4 then
        placePackets (sendBlock n (packetBlock p) (s.modLink n fun l => { l with pkt := none }))
      else sendBlock n {} s
    | none => sendBlock n {} s

/-- R277-R280: what goes out behind ticks and resent blocks: link control and the sequenced messages of the domain before
the two classes; with the replay buffer full, link control and idle blocks alone. -/
def sendRest (n : Nat) (k : PosKind) (s : State) : State :=
  let l := s.linkAt n
  if windowIsFull s n then sendIdle n (s.modLink n fun l => { l with windowFull := true })
  else if !l.ctl.isEmpty then sendIdle n s
  else match l.seqd with
    | b :: bs => if carries s n b.typ then sendBlock n b (s.modLink n fun l => { l with seqd := bs })
                 else sendClass n k (s.modLink n fun l => { l with seqd := bs })
    | [] => sendClass n k s

/-- R277: the held block that is to be resent next. -/
def resendNext (s : State) (n : Nat) : Option (Nat × Blk) :=
  let l := s.linkAt n
  l.resend.head?.bind fun q => l.held.find? fun e => e.1 == q

/-- R277, R280: a held block goes out again ahead of every block but ticks; one of either class lets a guard pass idle. -/
def sendResent (n : Nat) (k : PosKind) (e : Nat × Blk) (s : State) : State :=
  if k = .guard_ ∧ e.2.typ ≤ 4 then sendBlock n {} s else resendBlock n e.1 e.2 s

/-- R277, R280: one position of a strand. -/
def position (n : Nat) (k : PosKind) (s : State) : State :=
  match (s.linkAt n).ticks with
  | b :: bs =>
    let s := s.modLink n fun l => { l with ticks := bs }
    if carries s n 5 then sendBlock n b s else sendRest n k s
  | [] =>
    match resendNext s n with
    | some e => sendResent n k e s
    | none => sendRest n k s

/-- R287: a slot begins: the blocks of a limited reservation are counted anew, and the limits announced come into force. -/
def enterSlot (n : Nat) (slot : Option Nat) (s : State) : State :=
  if (s.linkAt n).slot = slot then s else s.modLink n fun l =>
    { l with slot := slot, inSlot := [], limit := s.fab.limit }

/-- R277: a block time has passed. -/
def passPosition (n : Nat) (s : State) : State :=
  s.modLink n fun l => { l with nakQuiet := l.nakQuiet - 1 }

/-- R278: a block time of the link-control block that is going out. -/
def endControl (n : Nat) (s : State) : State :=
  s.modLink n fun l => { l with ctlLeft := l.ctlLeft - 1 }

/-- BLOCK_POSITION (R278, R280, R286): a link-control block that is still going out keeps the position; relayed blocks that no
position has taken are held. -/
def execBlockPosition (strand : StrandId) (slot : Option (Fin 976)) (position_ : Nat) (s : State) :
    Host.Outcome State Fault Refusal :=
  .next (
    if !carriesTraffic s strand then s
    else
      let k := slot.map (·.val)
      let s := enterSlot strand k (placePackets (passPosition strand s))
      holdCut strand (if 0 < (s.linkAt strand).ctlLeft then endControl strand s
                      else position strand (posKind s strand k position_) s))

end Sys2Proof.Machine
end

