-- ==== Sys2Proof/Machine/Transfer.lean ====
section
/-!
DEFINITION. Chapter 11, transfer steps: XFER (R285).
-/

namespace Sys2Proof.Machine

/-- R285: the ARGS entry of XFER. -/
structure XferArgs where
  op : Nat
  redOp : Nat
  dtype : Nat
  packet : Bool
  circuit : Nat
  region : Nat
  len : Nat
  off : Nat
  gaddr : Nat
  ctr : Nat
  incr : Nat
  deriving DecidableEq, Repr, Inhabited

/-- R285: ARGS as fields. -/
def xferArgs (bs : List Byte) : XferArgs :=
  { op := fieldOf bs 0 1, redOp := fieldOf bs 1 1, dtype := fieldOf bs 2 1, packet := (fieldOf bs 3 1).testBit 0,
    circuit := fieldOf bs 4 4, region := fieldOf bs 8 4, len := fieldOf bs 12 4, off := fieldOf bs 0x10 8,
    gaddr := fieldOf bs 0x18 8, ctr := fieldOf bs 0x20 8, incr := fieldOf bs 0x28 8 }

/-- R285: the strand and reservation of the operation's circuit; the packet class has none, and an operation on this
device itself uses no strand (R288). -/
def xferCircuit (img : Image) (a : XferArgs) : Option (Nat × Nat) :=
  if a.packet then none else img.circuits[a.circuit]?.map fun c => (c.strand, c.resv)

/-- R289: there are message numbers for what the operation sends; its transfers take their numbers as they come free. -/
def xferRoom (s : State) (img : Image) (a : XferArgs) : Bool :=
  isSelf s (gaDevice a.gaddr) || a.len = 0 && a.op ≠ 4 ||
    (match xferCircuit img a with
      | some _ => msgRoom s 1
      | none => msgRoom s (pieces a.len + 1))

/-- R77: what an operation on this device itself writes here is this frame's. -/
def noteSelf (step : Nat) (a : XferArgs) (s : State) : State :=
  if isSelf s (gaDevice a.gaddr) then
    let s := noteWrite (.step step) (gaLocal a.gaddr) a.len s
    if a.op = 4 then noteWrite (.step step) (gaLocal a.ctr) 8 s else s
  else s

/-- R285: a PUT, PUT_REDUCE or SIGNAL of a step. -/
def xferPut (step : Nat) (img : Image) (e : StepEntry) (a : XferArgs) (s : State) : State :=
  issuePut (transferEngine e)
    { client := .step step, unit := transferUnit e, reduce := a.op == 2, redOp := a.redOp, dtype := a.dtype,
      gaddr := a.gaddr, len := a.len, src := regionAddr s a.region a.off,
      incr := if a.op = 4 then some (a.ctr, a.incr) else none, circuit := xferCircuit img a } (noteSelf step a s)

/-- R285: a GET of a step: what it delivers here is this frame's. -/
def xferGet (step : Nat) (e : StepEntry) (a : XferArgs) (s : State) : State :=
  issueGet (.step step) (transferUnit e) a.gaddr a.len a.region a.off
    (noteWrite (.step step) (regionAddr s a.region a.off) a.len s)

/-- R285: the work of XFER: LENGTH 0 is a successful no-operation, but for SIGNAL's increment. -/
def xferStep (step : Nat) (img : Image) (e : StepEntry) (args : List Byte) (s : State) : State :=
  let a := xferArgs args
  if a.len = 0 then (if a.op = 4 then xferPut step img e a s else s)
  else if a.op = 3 then
    checkedStep step [⟨2, a.region, a.off, a.len, accWrite⟩] (xferGet step e a) s
  else checkedStep step [⟨1, a.region, a.off, a.len, accRead⟩] (xferPut step img e a) s

/-- XFER (R285): the step waits where no message number is free. -/
def execXfer (step : Nat) (s : State) : Host.Outcome State Fault Refusal :=
  .next (
    match startable s step 3 1 with
    | some (img, _, e) =>
      if xferRoom s img (xferArgs (argsOf img e)) then startStep step 3 1 (xferStep step) s else s
    | none => s)

end Sys2Proof.Machine
end

