-- ==== Sys2Proof/Machine/Image.lean ====
section
/-!
DEFINITION. Frame program images: how one is read (R52-R56), and the checks of R57 that look at the image itself: form,
steps and their ARGS (R105, R118, R119, R128, R132, R245, R285, R330), SYNC pairs (R176) and circuits (R284).
-/

namespace Sys2Proof.Machine

/-- R243: FAIL_INDEX and FAIL_INFO of an image that fails a check. -/
abbrev Flaw := Option (Nat × Nat)

/-- R243: FAIL_INDEX where no entry is named. -/
def noIndex : Nat :=
  0xFFFFFFFF

/-- A check of an entry: it fails with its index and a FAIL_INFO. -/
def flawIf (bad : Bool) (index info : Nat) : Flaw :=
  if bad then some (index, info) else none

/-- The first entry of a list that is bad. -/
def firstFlaw {α : Type} (info : Nat) (bad : Nat → α → Bool) (xs : List α) : Flaw :=
  ((List.range xs.length).zip xs).findSome? fun p => flawIf (bad p.1 p.2) p.1 info

/-! ### Reading -/

/-- R53: the header of an image. -/
def imgHeader (bs : List Byte) : ImgHeader :=
  let f := fieldOf bs 6 2
  { signed := f.testBit 0, nmx2 := f.testBit 1, len := fieldOf bs 8 4, periodUs := fieldOf bs 0x0C 2,
    budgetOp := fieldOf bs 0x0E 1, numgen := fieldOf bs 0x0F 1, reqCfeat := fieldOf bs 0x10 1, reqLfeat := fieldOf bs 0x11 1,
    maxHoldLead := fieldOf bs 0x12 2, frames := fieldOf bs 0x14 4, ranks := fieldOf bs 0x18 2 }

/-- R54: a section-table entry. -/
structure Section_ where
  typ : Nat
  off : Nat
  len : Nat
  count : Nat
  clean : Bool
  deriving DecidableEq, Repr, Inhabited

/-- R54: the section table. -/
def imgSections (bs : List Byte) : List Section_ :=
  (List.range (fieldOf bs 0x1A 2)).map fun k =>
    let o := 128 + 16 * k
    { typ := fieldOf bs o 2, off := fieldOf bs (o + 4) 4, len := fieldOf bs (o + 8) 4, count := fieldOf bs (o + 12) 4,
      clean := fieldOf bs (o + 2) 2 == 0 }

/-- R54: the entry size of a section type; 0 for a type that there is not. -/
def entrySize (typ : Nat) : Nat :=
  match typ with
  | 1 | 4 => 4
  | 2 | 6 | 7 | 8 => 16
  | 3 | 5 => 32
  | 9 => 24
  | 0x0A | 0x7F => 1
  | _ => 0

/-- The section of a type. -/
def sectionOf (ss : List Section_) (typ : Nat) : Option Section_ :=
  ss.find? fun x => x.typ == typ

/-- The entries of a section, as bytes; none where it is absent. -/
def entriesOf (bs : List Byte) (ss : List Section_) (typ : Nat) : List (List Byte) :=
  match sectionOf ss typ with
  | none => []
  | some x => (List.range x.count).map fun i => sliceBytes bs (x.off + entrySize typ * i) (entrySize typ)

/-- R55: a FRAME_TABLE entry. -/
def frameEntryOf (b : List Byte) : FrameEntry :=
  { firstStep := fieldOf b 0 4, stepCount := fieldOf b 4 2, idle := (fieldOf b 6 2).testBit 0, cClk := fieldOf b 8 4,
    cFix := fieldOf b 12 4 }

/-- R55: a STEPS entry. -/
def stepEntryOf (b : List Byte) : StepEntry :=
  let u := fieldOf b 0 2
  { kind := bitsOf u 15 12, die := bitsOf u 11 8, unit := bitsOf u 7 0, opcode := fieldOf b 2 2, depCount := fieldOf b 4 2,
    depFirst := fieldOf b 8 4, argOff := fieldOf b 12 4, argLen := fieldOf b 16 4, estNs := fieldOf b 20 4 }

/-- R55: a SYNC entry. -/
def syncEntryOf (b : List Byte) : SyncEntry :=
  { prodStep := fieldOf b 0 4, consStep := fieldOf b 4 4, prodRank := fieldOf b 8 2, consRank := fieldOf b 10 2,
    delta := fieldOf b 12 2, prodKind := fieldOf b 14 1, consKind := fieldOf b 15 1, relScope := fieldOf b 16 1,
    acqScope := fieldOf b 17 1, region := fieldOf b 20 4, offset := fieldOf b 24 4, length := fieldOf b 28 4 }

/-- R55: a CIRCUITS entry. -/
def circEntryOf (b : List Byte) : CircEntry :=
  { frame := fieldOf b 0 4, rank := fieldOf b 4 2, dest := fieldOf b 6 2, firstSlot := fieldOf b 8 2,
    slotCount := fieldOf b 10 2, strand := fieldOf b 12 1, resv := fieldOf b 13 1 }

/-- R55: a BATCH_SLOTS entry. -/
def slotEntryOf (b : List Byte) : SlotEntry :=
  { frame := fieldOf b 0 4, rank := fieldOf b 4 2, rows := fieldOf b 6 2, queueFirst := fieldOf b 8 4,
    queueLast := fieldOf b 12 4 }

/-- R55: a HINTS entry. -/
def hintEntryOf (b : List Byte) : HintEntry :=
  { frame := fieldOf b 0 4, rank := fieldOf b 4 2, lead := fieldOf b 6 2, powerW := fieldOf b 8 2,
    duration := fieldOf b 10 2 }

/-- R55: a HOUSEKEEPING entry. -/
def hkEntryOf (b : List Byte) : HkEntry :=
  { frame := fieldOf b 0 4, rank := fieldOf b 4 2, units := fieldOf b 6 2, startNs := fieldOf b 8 4, lenNs := fieldOf b 12 4,
    strands := fieldOf b 16 8 }

/-- R56: the bytes of an image that its measurement covers. -/
def measuredBytes (bs : List Byte) (ss : List Section_) : List Byte :=
  match sectionOf ss 0x7F with
  | some x => bs.take x.off
  | none => bs

/-- R52-R56: an image, read. -/
def readImage (tenant : Nat) (bs : List Byte) : Image :=
  let ss := imgSections bs
  let meas := (Config.sha512 (measuredBytes bs ss)).toList
  { hdr := imgHeader bs, rankMap := (entriesOf bs ss 1).map fun b => leNat b % 2 ^ 14,
    frameTable := (entriesOf bs ss 2).map frameEntryOf, steps := (entriesOf bs ss 3).map stepEntryOf,
    deps := (entriesOf bs ss 4).map leNat, syncs := (entriesOf bs ss 5).map syncEntryOf,
    circuits := (entriesOf bs ss 6).map circEntryOf, slots := (entriesOf bs ss 7).map slotEntryOf,
    hints := (entriesOf bs ss 8).map hintEntryOf, hks := (entriesOf bs ss 9).map hkEntryOf,
    args := ((sectionOf ss 0x0A).map fun x => sliceBytes bs x.off x.len).getD [], meas := meas, tag := leNat (meas.take 8),
    tenant := tenant,
    signer := ((sectionOf ss 0x7F).map fun x =>
      (Config.sha512 (sliceBytes bs (x.off + 0x10) 512 ++ sliceBytes bs (x.off + 8) 4)).toList).getD [] }

/-! ### Check 1: the form of the image -/

/-- R53, R57 check 1: a fault in the header. -/
def headerBad (bs : List Byte) (length : Nat) : Bool :=
  let h := imgHeader bs
  bs.length < 128 || fieldOf bs 0 4 != 0x4E4D5846 || fieldOf bs 4 2 != 1 || 4 ≤ fieldOf bs 6 2 || h.len != length ||
    h.periodUs < 10 || 1000 < h.periodUs || 7 < h.budgetOp || h.frames < 1 || 65536 < h.frames || h.ranks < 1 ||
    4096 < h.ranks || fieldOf bs 0x20 96 != 0 || length < 128 + 16 * fieldOf bs 0x1A 2

/-- R52, R54: a fault in a section-table entry by itself. -/
def sectionBad (ss : List Section_) (length k : Nat) (x : Section_) : Bool :=
  entrySize x.typ == 0 || !x.clean || (ss.take k).any (fun y => y.typ == x.typ) || x.off % 64 != 0 ||
    x.off < 128 + 16 * ss.length || length < x.off + x.len || x.len != x.count * entrySize x.typ ||
    (ss.take k).any fun y => overlaps x.off x.len y.off y.len

/-- R54, R401: the SIGNATURE section's place, length and condition. -/
def signatureBad (h : ImgHeader) (ss : List Section_) (length k : Nat) (x : Section_) : Bool :=
  x.typ == 0x7F && (!h.signed || x.len != 1040 || k + 1 != ss.length || x.off + x.len != length ||
    ss.any fun y => x.off < y.off)

/-- R54, R55: a section has as many entries as the header says. -/
def countBad (h : ImgHeader) (x : Section_) : Bool :=
  (x.typ == 1 && x.count != h.ranks) || (x.typ == 2 && x.count != h.ranks * h.frames)

/-- R54: a required section is missing. -/
def sectionMissing (h : ImgHeader) (ss : List Section_) : Bool :=
  [1, 2, 3].any (fun t => (sectionOf ss t).isNone) || (h.signed && (sectionOf ss 0x7F).isNone)

/-- R52-R54: the first fault of the section table. -/
def tableFlaw (h : ImgHeader) (ss : List Section_) (length : Nat) : Flaw :=
  firstFlaw 2 (fun k x => sectionBad ss length k x || signatureBad h ss length k x || countBad h x) ss <|>
    flawIf (sectionMissing h ss) noIndex 2

/-! ### Check 1: entries -/

/-- R55: a FRAME_TABLE entry's range. -/
def frameBad (img : Image) (raw : List Byte) : Bool :=
  let e := frameEntryOf raw
  !e.idle && img.steps.length < e.firstStep + e.stepCount

/-- R55: a rank and a frame index that there are. -/
def placeBad (h : ImgHeader) (rank frame : Nat) : Bool :=
  h.ranks ≤ rank || h.frames ≤ frame

/-- R55: a SYNC entry's reserved bytes, ranks and steps. -/
def syncBad (img : Image) (raw : List Byte) : Bool :=
  let e := syncEntryOf raw
  let no := fun i => i != noIndex && img.steps.length ≤ i
  fieldOf raw 18 2 != 0 || img.hdr.ranks ≤ e.prodRank || img.hdr.ranks ≤ e.consRank || no e.prodStep || no e.consStep

/-- R55, R284: a CIRCUITS entry's reserved bytes, place and strand. -/
def circBad (h : ImgHeader) (raw : List Byte) : Bool :=
  let e := circEntryOf raw
  fieldOf raw 14 2 != 0 || placeBad h e.rank e.frame || 63 < e.strand

/-- R204: the rows that the entries up to `j` open in an entry's rank and frame index. -/
def rowsOpened (img : Image) (j : Nat) (e : SlotEntry) : Nat :=
  (((img.slots.take (j + 1)).filter fun x => x.rank == e.rank && x.frame == e.frame).map (·.rows)).sum

/-- R55, R204: a BATCH_SLOTS entry. -/
def slotBad (img : Image) (j : Nat) (e : SlotEntry) : Bool :=
  placeBad img.hdr e.rank e.frame || 2 ^ 20 ≤ e.queueFirst || 2 ^ 20 ≤ e.queueLast || 4096 < rowsOpened img j e

/-- R55, R357: a HINTS entry: LEAD is at least 1. -/
def hintBad (h : ImgHeader) (raw : List Byte) : Bool :=
  let e := hintEntryOf raw
  fieldOf raw 12 4 != 0 || placeBad h e.rank e.frame || e.lead == 0

/-- R55: the first fault of an entry of a section other than STEPS. -/
def entryFlaw (img : Image) (bs : List Byte) (ss : List Section_) : Flaw :=
  firstFlaw 4 (fun _ b => 2 ^ 14 ≤ leNat b) (entriesOf bs ss 1) <|>
  firstFlaw 4 (fun _ b => frameBad img b) (entriesOf bs ss 2) <|>
  firstFlaw 4 (fun _ b => syncBad img b) (entriesOf bs ss 5) <|>
  firstFlaw 4 (fun _ b => circBad img.hdr b) (entriesOf bs ss 6) <|>
  firstFlaw 4 (slotBad img) img.slots <|>
  firstFlaw 4 (fun _ b => hintBad img.hdr b) (entriesOf bs ss 8) <|>
  firstFlaw 4 (fun _ e => placeBad img.hdr e.rank e.frame) img.hks

/-! ### Steps, their places and their order -/

/-- R55: the predecessors that a step names. -/
def depsOf (img : Image) (i : Nat) : List Nat :=
  match img.steps[i]? with
  | none => []
  | some e => (List.range e.depCount).map fun k => img.deps.getD (e.depFirst + k) 0 % 2 ^ 31

/-- The steps reached from a set through DEPS in at most so many rounds. -/
def depClosure (img : Image) : Nat → List Nat → List Nat
  | 0, xs => xs
  | n + 1, xs =>
    let ys := (xs ++ xs.flatMap (depsOf img)).dedup
    if ys.length = xs.length then xs else depClosure img n ys

/-- Every step that comes before a step in DEPS order. -/
def ancestors (img : Image) (i : Nat) : List Nat :=
  depClosure img img.steps.length (depsOf img i).dedup

/-- Step `a` comes before step `b` in DEPS order. -/
def precedes (img : Image) (a b : Nat) : Bool :=
  (ancestors img b).contains a

/-- R55: the steps of a rank's frame index. -/
def stepsIn (img : Image) (rank index : Nat) : List Nat :=
  match tableEntry img rank index with
  | some e => if e.idle then [] else (List.range e.stepCount).map (· + e.firstStep)
  | none => []

/-- R55: the ranks and frame indexes that hold a step. -/
def placesOf (img : Image) (i : Nat) : List (Nat × Nat) :=
  ((List.range img.frameTable.length).zip img.frameTable).filterMap fun p =>
    if !p.2.idle && p.2.firstStep ≤ i && i < p.2.firstStep + p.2.stepCount then
      some (p.1 / img.hdr.frames, p.1 % img.hdr.frames)
    else none

/-- R55: a step's reserved bytes, kind, dependencies and ARGS lie within their sections; a predecessor belongs to the
same rank and frame. -/
def stepShapeBad (img : Image) (i : Nat) (raw : List Byte) : Bool :=
  let e := stepEntryOf raw
  fieldOf raw 6 2 != 0 || fieldOf raw 24 8 != 0 || e.kind < 1 || 4 < e.kind || img.deps.length < e.depFirst + e.depCount ||
    img.args.length < e.argOff + e.argLen ||
    ((List.range e.depCount).any fun k => img.steps.length ≤ img.deps.getD (e.depFirst + k) 0) ||
    (placesOf img i).any fun p => (depsOf img i).any fun d => !(stepsIn img p.1 p.2).contains d

/-- R57 check 1: a step lies on a cycle of dependencies. -/
def stepCyclic (img : Image) (i : Nat) : Bool :=
  precedes img i i

/-! ### Spindle steps -/

/-- R104: the reserved bits of MATMUL's ARGS. -/
def matReserved (b : List Byte) : Bool :=
  16 ≤ fieldOf b 3 1 || fieldOf b 6 2 != 0 || fieldOf b 0x76 2 != 0

/-- R104: OUT_FMT is allowed for the pair. -/
def outFmtOk (a : MatArgs) : Bool :=
  (outFloat a.outFmt).isSome || (a.outFmt == 0x40 && a.inFmt == 0x30)

/-- R29, R87: the feature bits that a step's formats need. -/
def featureNeed (a : MatArgs) : Nat :=
  let uses := fun c : Nat => a.inFmt == c || a.wFmt == c
  bit (uses 0x24) + 2 * bit (uses 0x22 || uses 0x23)

/-- R105: what is wrong with a MATMUL step taken alone. A SCALE_BASE outside R104's range of an MX pair is refused too
[DEDUCED 74]. -/
def matBad (img : Image) (e : StepEntry) : Bool :=
  let b := argsOf img e
  let a := matArgs b
  match pairKind a.inFmt a.wFmt with
  | none => true
  | some pk =>
    e.argLen != 128 || matReserved b || !outFmtOk a || featureNeed a &&& img.hdr.reqCfeat != featureNeed a ||
      a.sb < -256 || 255 < a.sb || a.kBase % 32 != 0 || (a.keep && a.k % 32 != 0) ||
      ((a.keep || a.preload) && storeEntries pk.exact < a.accBase + a.m * a.n)

/-- R431: a step is a MATMUL on the same UNIT as another. -/
def sameSpindle (img : Image) (i j : Nat) : Bool :=
  match img.steps[i]?, img.steps[j]? with
  | some a, some b => a.kind == 1 && b.kind == 1 && a.die == b.die && a.unit == b.unit
  | _, _ => false

/-- The ARGS of a MATMUL step. -/
def matArgsAt (img : Image) (i : Nat) : MatArgs :=
  matArgs (((img.steps[i]?).map (argsOf img)).getD [])

/-- R431: the accumulator entries of two steps overlap. -/
def accOverlap (a b : MatArgs) : Bool :=
  overlaps a.accBase (a.m * a.n) b.accBase (b.m * b.n)

/-- R431: step `k` is a candidate for the keeping step of `i`. -/
def keepCandidate (img : Image) (i k : Nat) : Bool :=
  let a := matArgsAt img i
  let c := matArgsAt img k
  sameSpindle img i k && c.keep && c.inFmt == a.inFmt && c.wFmt == a.wFmt && c.accBase == a.accBase && c.m == a.m &&
    c.n == a.n && c.sb == a.sb && c.kBase + c.k == a.kBase

/-- The last of some steps in DEPS order. -/
def lastInOrder (img : Image) (ks : List Nat) : Option Nat :=
  ks.find? fun k => ks.all fun j => j == k || precedes img j k

/-- R431: candidates `t` frame indexes before `index`: for `t = 0` only those before the step. -/
def candidatesAt (img : Image) (rank index i t : Nat) : List Nat :=
  (stepsIn img rank ((index + img.hdr.frames * 2 - t) % img.hdr.frames)).filter fun k =>
    keepCandidate img i k && (t != 0 || precedes img k i)

/-- R431: the keeping step of a step in a place, with how many frame indexes back it lies. -/
def keepingStep (img : Image) (rank index i : Nat) : Option (Nat × Nat) :=
  (List.range (img.hdr.frames + 1)).findSome? fun t =>
    if (candidatesAt img rank index i t).isEmpty then none
    else (lastInOrder img (candidatesAt img rank index i t)).map fun k => (k, t)

/-- R431: step `x`, `u` frame indexes before the step, runs after the keeping step `k`, `t` back, and before the step. -/
def runsBetween (img : Image) (i k t x u : Nat) : Bool :=
  let f := img.hdr.frames
  let after := precedes img k x
  let before := precedes img x i
  if t = 0 then u == 0 && after && before
  else if t = f then (u == 0 && (after || before)) || (0 < u && u < f)
  else (u == 0 && before) || (u == t && after) || (0 < u && u < t)

/-- R431: a step that keeps overlapping entries on the UNIT runs between the keeping step and the step. -/
def chainCut (img : Image) (rank index i k t : Nat) : Bool :=
  (List.range (t + 1)).any fun u =>
    (stepsIn img rank ((index + img.hdr.frames * 2 - u) % img.hdr.frames)).any fun x =>
      x != k && sameSpindle img i x && (matArgsAt img x).keep &&
        accOverlap (matArgsAt img x) (matArgsAt img i) && runsBetween img i k t x u

/-- R431: the places of a rank's steps: a chain that is longer has come back to one of its places. -/
def chainPlaces (img : Image) (rank : Nat) : Nat :=
  ((List.range img.hdr.frames).map fun n => (stepsIn img rank n).length).sum

/-- R91, R431: the K_BASE at which a step's chain begins; `none` where the chain is broken. A chain that comes back to
one of its places adds no product there (K = 0), so it begins at the K_BASE reached. -/
def chainStart (img : Image) (rank : Nat) : Nat → Nat → Nat → Option Nat
  | 0, _, i => some (matArgsAt img i).kBase
  | fuel + 1, index, i =>
    if !(matArgsAt img i).preload then some (matArgsAt img i).kBase
    else match keepingStep img rank index i with
      | none => none
      | some (k, t) =>
        if chainCut img rank index i k t then none
        else chainStart img rank fuel ((index + img.hdr.frames * 2 - t) % img.hdr.frames) k

/-- R91, R94, R431: a step's chain is broken or too long, in one of its places. -/
def chainBad (img : Image) (i : Nat) : Bool :=
  let a := matArgsAt img i
  (placesOf img i).any fun p =>
    match chainStart img p.1 (chainPlaces img p.1 + 1) p.2 i with
    | none => true
    | some k0 => ((pairKind a.inFmt a.wFmt).map (·.exact)).getD false && 2 ^ 24 < a.kBase + a.k - k0

/-- R431: an earlier step of the frame index on the UNIT, with overlapping entries, that DEPS does not order against the
step. -/
def orderBad (img : Image) (i : Nat) : Bool :=
  (placesOf img i).any fun p => (stepsIn img p.1 p.2).any fun j =>
    j < i && sameSpindle img i j && accOverlap (matArgsAt img i) (matArgsAt img j) &&
      ((matArgsAt img i).keep || (matArgsAt img i).preload || (matArgsAt img j).keep || (matArgsAt img j).preload) &&
      !precedes img i j && !precedes img j i

/-- R103, R105: a spindle step that is refused. -/
def spindleBad (img : Image) (i : Nat) (e : StepEntry) : Bool :=
  3 < e.die || !(e.unit == 0 || e.unit == 1 || e.unit == 0xFF) || e.opcode != 1 || matBad img e || orderBad img i ||
    chainBad img i

/-! ### Vector-core and flyer steps -/

/-- R119: a KERNEL step that is refused. -/
def kernelBad (e : StepEntry) (b : List Byte) : Bool :=
  let n := fieldOf b 0x14 4
  e.argLen != 88 + n || fieldOf b 4 1 < 1 || 16 < fieldOf b 4 1 || 2 ≤ fieldOf b 5 1 || 16 < fieldOf b 6 2 || n % 4 != 0 ||
    4096 < n

/-- R128: an ATTEND step that is refused. -/
def attendBad (e : StepEntry) (b : List Byte) : Bool :=
  let a := attendArgs b
  e.argLen != 80 || fieldOf b 0 1 != 1 || !(a.outFmt == 1 || a.outFmt == 3) || 4 ≤ fieldOf b 2 1 || a.group < 1 ||
    64 < a.group || fieldOf b 0x14 4 != 0 || fieldOf b 0x34 4 != 0 || (a.part && a.out.stride % 16 != 0)

/-- R132: a MERGE step that is refused. -/
def mergeBad (e : StepEntry) (b : List Byte) : Bool :=
  let a := mergeArgs b
  e.argLen != 48 || !(a.outFmt == 1 || a.outFmt == 3 || a.outFmt == 0x7F) || !headDimOk a.d || a.segs < 1 || 4096 < a.segs ||
    fieldOf b 1 1 != 0 || fieldOf b 0x0C 4 != 0 || fieldOf b 0x14 4 != 0

/-- R118: a vector-core step that is refused. -/
def vectorBad (img : Image) (e : StepEntry) : Bool :=
  let b := argsOf img e
  3 < e.die || (7 < e.unit && e.unit != 0xFF) ||
    match e.opcode with
    | 1 => kernelBad e b
    | 2 => attendBad e b
    | 3 => mergeBad e b
    | _ => true

/-- R245: a flyer step that is refused. -/
def flyerBad (img : Image) (e : StepEntry) : Bool :=
  let b := argsOf img e
  e.die != 4 || e.unit != 0 || 100000 < e.estNs ||
    match e.opcode with
    | 1 => e.argLen != 48 || fieldOf b 2 6 != 0
    | 2 => e.argLen != 28 || 65536 < fieldOf b 0x18 4
    | _ => true

/-! ### Transfer steps -/

/-- R197, R285: RED_OP, DTYPE and sizes of a transfer's operation. -/
def xferReduceBad (a : XferArgs) : Bool :=
  if a.op = 2 then
    2 < a.redOp ||
      match elemFmt a.dtype with
      | none => true
      | some f => a.off % elemBytes f != 0 || a.len % elemBytes f != 0
  else a.redOp != 0 || a.dtype != 0

/-- R285: the CIRCUITS entry of a transfer that is not on the packet class. -/
def xferCircuitBad (img : Image) (i : Nat) (a : XferArgs) : Bool :=
  match img.circuits[a.circuit]? with
  | none => true
  | some c =>
    c.dest != gaDevice a.gaddr || (placesOf img i).any fun p => c.rank != p.1 || c.frame != p.2

/-- R285: an XFER step that is refused. -/
def xferBad (img : Image) (i : Nat) (e : StepEntry) : Bool :=
  let b := argsOf img e
  let a := xferArgs b
  e.argLen != 48 || a.op < 1 || 4 < a.op || 2 ≤ fieldOf b 3 1 || (a.op == 3 && !a.packet) || xferReduceBad a ||
    (if a.packet then a.circuit != noIndex else xferCircuitBad img i a) ||
    bitsOf a.gaddr 41 40 != 0 || bitsOf a.ctr 41 40 != 0 ||
    (a.op == 4 && (a.ctr % 8 != 0 || gaDevice a.ctr != gaDevice a.gaddr))

/-- R329: the ARGS entry of a collective step. -/
structure CollArgs where
  redOp : Nat
  dtype : Nat
  skein : Nat
  n : Nat
  elems : Nat
  cwFirst : Nat
  cwCount : Nat
  ccwCount : Nat
  ccwFirst : Nat
  inRegion : Nat
  outRegion : Nat
  inOff : Nat
  outOff : Nat
  ranks : List Nat
  deriving DecidableEq, Repr, Inhabited

/-- R329: ARGS as fields. -/
def collArgs (b : List Byte) : CollArgs :=
  let n := fieldOf b 6 2
  { redOp := fieldOf b 0 1, dtype := fieldOf b 1 1, skein := fieldOf b 4 2, n := n, elems := fieldOf b 8 4,
    cwFirst := fieldOf b 0x0C 4, cwCount := fieldOf b 0x10 1, ccwCount := fieldOf b 0x11 1, ccwFirst := fieldOf b 0x14 4,
    inRegion := fieldOf b 0x18 4, outRegion := fieldOf b 0x1C 4, inOff := fieldOf b 0x20 8, outOff := fieldOf b 0x28 8,
    ranks := (List.range n).map fun i => fieldOf b (0x40 + 2 * i) 2 }

/-- R331: the first element of block B_j. -/
def blockStart (a : CollArgs) (j : Nat) : Nat :=
  j * a.elems / a.n

/-- R331: b_j. -/
def blockLen (a : CollArgs) (j : Nat) : Nat :=
  blockStart a (j + 1) - blockStart a j

/-- R328: the bytes of a collective step's input at position `p`. -/
def collIn (op : Nat) (a : CollArgs) (es p : Nat) : Nat :=
  es * if op = 0x12 then blockLen a p else a.elems

/-- R328: the bytes of its output. -/
def collOut (op : Nat) (a : CollArgs) (es p : Nat) : Nat :=
  es * if op = 0x11 then blockLen a p else a.elems

/-- R330: the reserved bits of a collective step's ARGS, RED_OP, DTYPE, MEMBERS and the ranks. -/
def collShapeBad (img : Image) (e : StepEntry) (b : List Byte) (a : CollArgs) : Bool :=
  fieldOf b 2 2 != 0 || fieldOf b 0x12 2 != 0 || fieldOf b 0x30 16 != 0 || 2 < a.redOp || (e.opcode == 0x12 && a.redOp != 0)
    || (elemFmt a.dtype).isNone || a.n < 2 || 4096 < a.n || e.argLen != 64 + 2 * a.n ||
    a.ranks.any (fun r => img.hdr.ranks ≤ r || 4096 ≤ r) || a.ranks.dedup.length != a.ranks.length ||
    a.cwCount < 1 || 8 < a.cwCount || a.ccwCount < 1 || 8 < a.ccwCount

/-- R330: a CIRCUITS entry of a direction whose neighbour has rank `dest`. -/
def collCircuitBad (img : Image) (p : Nat × Nat) (dest ci : Nat) : Bool :=
  match img.circuits[ci]? with
  | none => true
  | some c =>
    c.rank != p.1 || c.frame != p.2 || c.dest != img.rankMap.getD dest 0 ||
      img.steps.any fun x => x.kind == 3 && x.opcode == 1 && !(xferArgs (argsOf img x)).packet &&
        (xferArgs (argsOf img x)).circuit == ci

/-- A collective step. -/
def isCollective (img : Image) (i : Nat) : Bool :=
  ((img.steps[i]?).map fun e => e.kind == 3 && (e.opcode == 0x10 || e.opcode == 0x11 || e.opcode == 0x12)).getD false

/-- R329: the SKEIN of a collective step. -/
def skeinOf (img : Image) (i : Nat) : Nat :=
  (collArgs (((img.steps[i]?).map (argsOf img)).getD [])).skein

/-- R327, R330: the skeins of a frame index, and the order of two steps of one skein. -/
def skeinsBad (img : Image) (p : Nat × Nat) (i : Nat) : Bool :=
  let cs := (stepsIn img p.1 p.2).filter (isCollective img)
  let mine := cs.filter fun j => j ≤ i
  16 < ((mine.map (skeinOf img)).dedup).length ||
    cs.any fun j => j < i && skeinOf img j == skeinOf img i && !precedes img j i

/-- R330: what is wrong with a collective step in one of its places. -/
def collPlaceBad (img : Image) (i : Nat) (e : StepEntry) (a : CollArgs) (p : Nat × Nat) : Bool :=
  if !a.ranks.contains p.1 then true
  else
    let j := a.ranks.idxOf p.1
    let es := ((elemFmt a.dtype).map elemBytes).getD 1
    (List.range a.cwCount).any (fun c => collCircuitBad img p (a.ranks.getD ((j + 1) % a.n) 0) (a.cwFirst + c)) ||
      (List.range a.ccwCount).any (fun c => collCircuitBad img p (a.ranks.getD ((j + a.n - 1) % a.n) 0) (a.ccwFirst + c)) ||
      (a.inRegion == a.outRegion && overlaps a.inOff (collIn e.opcode a es j) a.outOff (collOut e.opcode a es j) &&
        !(e.opcode == 0x10 && a.inOff == a.outOff)) ||
      skeinsBad img p i

/-- R328, R330: a collective step that is refused. -/
def collBad (img : Image) (i : Nat) (e : StepEntry) : Bool :=
  let b := argsOf img e
  let a := collArgs b
  collShapeBad img e b a || (placesOf img i).any (collPlaceBad img i e a)

/-- R285, R328: a transfer step that is refused. -/
def transferBad (img : Image) (i : Nat) (e : StepEntry) : Bool :=
  !(e.die == 4 || e.die == 5) ||
    match e.opcode with
    | 1 => xferBad img i e
    | 0x10 | 0x11 | 0x12 => collBad img i e
    | _ => true

/-- R57 check 1: a step whose own chapter refuses it. -/
def stepBad (img : Image) (i : Nat) (e : StepEntry) : Bool :=
  match e.kind with
  | 1 => spindleBad img i e
  | 2 => vectorBad img e
  | 3 => transferBad img i e
  | _ => flyerBad img e

/-- R57 check 1: the first fault of a step: its shape, then a cycle, then what its chapter says. -/
def stepFlaw (img : Image) (bs : List Byte) (ss : List Section_) : Flaw :=
  firstFlaw 3 (stepShapeBad img) (entriesOf bs ss 3) <|>
  firstFlaw 3 (fun i _ => stepCyclic img i) img.steps <|>
  firstFlaw 3 (stepBad img) img.steps

/-- R57 check 1. -/
def formFlaw (img : Image) (bs : List Byte) (length : Nat) : Flaw :=
  let ss := imgSections bs
  flawIf (headerBad bs length) noIndex 1 <|>
  tableFlaw img.hdr ss length <|> entryFlaw img bs ss <|> stepFlaw img bs ss

/-! ### Checks 2 to 8 -/

/-- R389, R401: the signature of a signed image verifies. -/
def signatureOk (bs : List Byte) (ss : List Section_) : Bool :=
  match sectionOf ss 0x7F with
  | none => false
  | some x =>
    fieldOf bs x.off 4 == 1 && fieldOf bs (x.off + 4) 4 == 0 && fieldOf bs (x.off + 8) 4 == 65537 &&
      fieldOf bs (x.off + 12) 4 == 0 &&
      Config.rsaVerify (sliceBytes bs (x.off + 0x10) 512) (bs.take x.off) (sliceBytes bs (x.off + 0x210) 512)

/-- R402: check 2 of R57. -/
def signFlaw (signedTenant : Bool) (img : Image) (bs : List Byte) : Flaw :=
  let ss := imgSections bs
  let at_ := (ss.findIdx? fun x => x.typ == 0x7F).getD noIndex
  flawIf (if img.hdr.signed then !signatureOk bs ss else signedTenant) at_ 0

/-- R57 check 4. -/
def featureBad (h : ImgHeader) (cap : Nat) : Bool :=
  let cf := bitsOf cap 7 0
  let lf := bitsOf cap 15 8
  h.reqCfeat &&& cf != h.reqCfeat || h.reqLfeat &&& lf != h.reqLfeat || (h.nmx2 && !cf.testBit 4)

/-- R57 check 6: the first frame of any rank with too little slack. -/
def slackFlaw (img : Image) : Flaw :=
  firstFlaw 0 (fun _ e => 950 * img.hdr.periodUs < e.cClk + e.cFix + 100 * img.hdr.maxHoldLead) img.frameTable

/-- R173: a producer and a consumer kind whose cell is "none", or that are no codes of R164. -/
def cellNone (p c : Nat) : Bool :=
  5 < p || 5 < c || [(0, 5), (1, 5), (3, 3), (3, 5), (5, 0), (5, 1), (5, 3)].contains (p, c)

/-- R176 item 2: a kind agrees with its step's UNIT kind. -/
def kindAgrees (img : Image) (kind i : Nat) : Bool :=
  match kind, (img.steps[i]?).map (·.kind) with
  | 3, _ => i == noIndex
  | 0, some k => k == 1
  | 1, some k => k == 2
  | 2, some k => k == 3
  | 4, some k => k == 4
  | 5, some k => k == 1 || k == 2
  | _, _ => false

/-- R167: the minimum scope of a pair. -/
def minScope (img : Image) (e : SyncEntry) : Nat :=
  if e.prodRank != e.consRank || e.prodKind == 2 then 3
  else match img.steps[e.prodStep]?, img.steps[e.consStep]? with
    | some p, some c =>
      if p.kind == 1 && c.kind == 1 && p.die == c.die && p.unit == c.unit && p.unit != 0xFF &&
          (e.prodKind == 0 || e.prodKind == 5) && (e.consKind == 0 || e.consKind == 5) then 0
      else if (p.kind ≤ 2 && c.kind ≤ 2 && p.die == c.die) || (p.kind == 4 && c.kind == 4) ||
          (p.kind == 3 && c.kind == 3 && p.die == c.die) then 1
      else 2
    | _, _ => 2

/-- R176 item 5: a step of a pair lies in a frame of its rank. -/
def inRank (img : Image) (rank i : Nat) : Bool :=
  i == noIndex || (placesOf img i).any fun p => p.1 == rank

/-- R176 item 5: some frame index of the consumer is one of the producer plus FRAME_DELTA. -/
def deltaOk (img : Image) (e : SyncEntry) : Bool :=
  e.prodStep == noIndex || e.consStep == noIndex ||
    (placesOf img e.prodStep).any fun p => p.1 == e.prodRank &&
      (placesOf img e.consStep).any fun c => c.1 == e.consRank && (p.2 + e.delta) % img.hdr.frames == c.2

/-- R176: a SYNC entry passes. -/
def syncOk (img : Image) (e : SyncEntry) : Bool :=
  let m := minScope img e
  !cellNone e.prodKind e.consKind && kindAgrees img e.prodKind e.prodStep && kindAgrees img e.consKind e.consStep &&
    (e.prodRank == e.consRank || e.prodKind == 2 || e.consKind == 2) &&
    m ≤ e.relScope && e.relScope ≤ 3 && m ≤ e.acqScope && e.acqScope ≤ 3 &&
    inRank img e.prodRank e.prodStep && inRank img e.consRank e.consStep && deltaOk img e

/-- R57 check 7, R176: the first SYNC entry that fails, with the minimum scope it needed. -/
def syncFlaw (img : Image) : Flaw :=
  ((List.range img.syncs.length).zip img.syncs).findSome? fun p => flawIf (!syncOk img p.2) p.1 (minScope img p.2)

/-- R281: S_MAX. -/
def slotMax (h : ImgHeader) : Nat :=
  (1000 * h.periodUs - 100 * h.maxHoldLead) / 1024

/-- R284: a circuit uses a slot outside the device's reservation on its strand, or the device holds none. -/
def circOutside (resvs : List Resv) (c : CircEntry) : Bool :=
  !resvs.any (fun r => r.resv == c.resv) ||
    (List.range c.slotCount).any fun k =>
      !resvs.any fun r => r.resv == c.resv && r.strand == c.strand && r.firstSlot ≤ c.firstSlot + k &&
        c.firstSlot + k < r.firstSlot + r.slotCount

/-- R57 check 8, R284: the first CIRCUITS entry of the rank that fails. -/
def circuitFlaw (img : Image) (rank : Nat) (resvs : List Resv) : Flaw :=
  firstFlaw 0 (fun j c =>
    c.rank == rank &&
      (circOutside resvs c || slotMax img.hdr < c.firstSlot + c.slotCount ||
        ((List.range img.circuits.length).zip img.circuits).any fun d =>
          d.1 != j && d.2.rank == rank && d.2.frame == c.frame && d.2.strand == c.strand &&
            overlaps c.firstSlot c.slotCount d.2.firstSlot d.2.slotCount)) img.circuits

/-- R57: the checks in order: the status, FAIL_INDEX and FAIL_INFO of the first that fails. -/
def imageFlaw (signedTenant : Bool) (cap : Nat) (dev : Option Nat) (resvs : List Resv) (img : Image) (bs : List Byte)
    (length : Nat) : Option (Status × Nat × Nat) :=
  let say := fun (st : Status) (f : Flaw) => f.map fun x => (st, x.1, x.2)
  let rank := rankIn img dev
  say .eImageFormat (formFlaw img bs length) <|>
  say .eImageSignature (signFlaw signedTenant img bs) <|>
  say .eNumgenMismatch (flawIf (img.hdr.numgen != bitsOf cap 23 20) noIndex 0) <|>
  say .eFeatureAbsent (flawIf (featureBad img.hdr cap) noIndex 0) <|>
  say .eRankAbsent (flawIf rank.isNone noIndex 0) <|>
  say .eSlackShort (slackFlaw img) <|>
  say .eSyncScope (syncFlaw img) <|>
  say .eCircuitOversub (circuitFlaw img (rank.getD 0) resvs)

end Sys2Proof.Machine
end

