-- ==== Sys2Proof/Machine/Buddy.lean ====
section
/-!
DEFINITION. What a buddy copies of the devices that it protects (R379): the shards of their blocks that gathers bring past
it, in generations of one cycle of the running program.
-/

namespace Sys2Proof.Machine

/-- R379: bytes of staging that one generation may take. -/
def genLimit : Nat :=
  128 * 2 ^ 30

/-- R333: bytes of an element of a collective step. -/
def CollArgs.elemSize (a : CollArgs) : Nat :=
  ((elemFmt a.dtype).map elemBytes).getD 1

/-- R379: bytes that a step's gather brings past of block B_d, `d` the position of device `dev`: an ALL_GATHER or the gather
phase of an ALL_REDUCE in which both devices are members. -/
def tappedBytes (img : Image) (rank dev i : Nat) : Nat :=
  match img.steps[i]?, rankIn img (some dev) with
  | some e, some r =>
    let a := collArgs (argsOf img e)
    if isCollective img i && e.opcode != 0x11 && a.ranks.contains rank && a.ranks.contains r then
      a.elemSize * blockLen a (a.ranks.idxOf r)
    else 0
  | _, _ => 0

/-- R61, R379: the bytes of a whole generation: every tapped step of one cycle. -/
def cycleBytes (img : Image) (rank dev : Nat) : Nat :=
  (((List.range img.hdr.frames).flatMap (stepsIn img rank)).map (tappedBytes img rank dev)).sum

/-- R379: the bytes of a generation so far. -/
def genBytes (g : BuddyGen) : Nat :=
  (g.shards.map (·.bytes.length)).sum

/-- R379: the generation in progress of a protected device is given up. -/
def abandonGen (p : Protected) (s : State) : State :=
  s.modRes fun r =>
    { r with buddyAbandoned := true
             protects := r.protects.map fun q => if q.dev = p.dev then { q with part := none } else q }

/-- Generations in progress that some condition ends are given up. -/
def abandonGens (bad : BuddyGen → Bool) : List Protected → State → State
  | [], s => s
  | p :: ps, s => abandonGens bad ps (if (p.part.map bad).getD false then abandonGen p s else s)

/-- R379: a frame of the program begins: with index 0 a cycle begins, and copying with it; a generation that the cycle
before has not completed has fallen behind. -/
def buddyFrame (s : State) : State :=
  match runningImage s with
  | some img =>
    if s.frm.index = 0 then
      let s := abandonGens (fun g => !g.shards.isEmpty) s.res.protects s
      s.modRes fun r =>
        { r with protects := r.protects.map fun p =>
            if p.live then { p with part := some { tag := img.tag, first := s.frm.number, last := s.frm.number } } else p }
    else s
  | none => s

/-- R379: a frame fails. -/
def buddyFail (s : State) : State :=
  let s := abandonGens (fun g => !g.shards.isEmpty) s.res.protects s
  s.modRes fun r => { r with protects := r.protects.map fun p => { p with part := none } }

/-- R379: bytes of block B_d at an offset in it are copied; the generation is complete once every tapped step of the cycle
has been. -/
def tapInto (img : Image) (rank : Nat) (sh : Shard) (p : Protected) (s : State) : State :=
  match p.part with
  | none => s
  | some g =>
    let g := { g with shards := g.shards ++ [sh], last := sh.frame }
    if s.res.flashRo || g.tag ≠ img.tag || genLimit < genBytes g then abandonGen p s
    else
      let whole := genBytes g = cycleBytes img rank p.dev
      s.modRes fun r =>
        { r with
          written := r.written + sh.bytes.length
          protects := r.protects.map fun q =>
            if q.dev = p.dev then (if whole then { q with whole := some g, part := none } else { q with part := some g })
            else q }

/-- R379: the final values of block `j` of a step, at an offset in the block, pass: they are copied for the protected device
at that position. -/
def tapShard (img : Image) (rank step j off : Nat) (bs : List Byte) (s : State) : State :=
  let a := collArgs (((img.steps[step]?).map (argsOf img)).getD [])
  s.res.protects.foldl (fun s p =>
    match rankIn img (some p.dev) with
    | some r =>
      if a.ranks.contains r && a.ranks.idxOf r == j then
        tapInto img rank { step := step, frame := s.frm.number, off := off, bytes := bs } p s
      else s
    | none => s) s

end Sys2Proof.Machine
end

