-- ==== Sys2Proof/Machine/Skeins.lean ====
section
/-!
DEFINITION. Chapter 13: collective steps, the ring schedule, chunks and their credits, signatures, and what stops a
collective (R326-R346).
-/

namespace Sys2Proof.Machine

/-! ### Signature -/

/-- R338: sig of a collective step. -/
def skeinSig (a : CollArgs) (opcode seq : Nat) : Nat :=
  let w0 := a.skein * 2 ^ 48 + opcode % 256 * 2 ^ 40 + a.redOp * 2 ^ 32 + a.dtype * 2 ^ 24
  let h := w0 * hashC1 % 2 ^ 64
  let h := (h ^^^ (h >>> 31)) ^^^ (a.elems * 2 ^ 32 + seq)
  let h := h * hashC2 % 2 ^ 64
  let h := (h ^^^ (h >>> 29)) * hashC1 % 2 ^ 64
  h ^^^ (h >>> 32)

/-! ### The ring -/

/-- R331: elements of a half of block B_j: the cw half (direction 0) is the first. -/
def halfLen (a : CollArgs) (d j : Nat) : Nat :=
  if d = 0 then (blockLen a j + 1) / 2 else blockLen a j / 2

/-- R331: its first element. -/
def halfFirst (a : CollArgs) (d j : Nat) : Nat :=
  blockStart a j + if d = 0 then 0 else (blockLen a j + 1) / 2

/-- R334: bytes of a whole chunk. -/
def chunkBytes : Nat :=
  32768

/-- R332: the block whose half position `p` sends in step `t` of a phase (0 reduce, 1 gather). -/
def ringShard (n d phase p t : Nat) : Nat :=
  if phase = 0 then (if d = 0 then (p + n - 1 - t) % n else (p + 1 + t) % n)
  else if d = 0 then (p + n - t) % n else (p + t) % n

/-- R332: the position that sends to `p` in a direction. -/
def upstream (n d p : Nat) : Nat :=
  if d = 0 then (p + n - 1) % n else (p + 1) % n

/-- R328, R332: the phases of an opcode. -/
def phasesOf (opcode : Nat) : List Nat :=
  if opcode = 0x10 then [0, 1] else if opcode = 0x11 then [0] else [1]

/-- A chunk of a collective: its phase, step, block and index within the half. -/
abbrev ChunkId := Nat × Nat × Nat × Nat

/-- R329, R332, R334: the chunks that position `p` sends in a direction, in order; one without data where ELEMS is 0. -/
def ringChunks (opcode : Nat) (a : CollArgs) (d p : Nat) : List ChunkId :=
  if a.elems = 0 then
    let ph := (phasesOf opcode).headD 0
    [(ph, 0, ringShard a.n d ph p 0, 0)]
  else
    (phasesOf opcode).flatMap fun ph => (List.range (a.n - 1)).flatMap fun t =>
      let j := ringShard a.n d ph p t
      (List.range (ceilDiv (a.elemSize * halfLen a d j) chunkBytes)).map fun k => (ph, t, j, k)

/-- R334: where a chunk lies in the whole vector, in bytes. -/
def chunkOff (a : CollArgs) (d : Nat) (x : ChunkId) : Nat :=
  a.elemSize * halfFirst a d x.2.2.1 + chunkBytes * x.2.2.2

/-- R334: the bytes of a chunk. -/
def chunkLen (a : CollArgs) (d : Nat) (x : ChunkId) : Nat :=
  min chunkBytes (a.elemSize * halfLen a d x.2.2.1 - chunkBytes * x.2.2.2)

/-- R332: the chunk whose arrival a chunk waits for, if any. -/
def chunkNeeds (opcode n : Nat) : ChunkId → Option ChunkId
  | (ph, 0, j, k) => if ph = 1 ∧ opcode = 0x10 then some (0, n - 2, j, k) else none
  | (ph, t + 1, j, k) => some (ph, t, j, k)

/-! ### A running collective -/

/-- A collective step of this device: the image, this device's rank, the step, and its position. -/
structure Coll where
  img : Image
  rank : Nat
  step : Nat
  e : StepEntry
  a : CollArgs
  p : Nat
  deriving DecidableEq, Repr, Inhabited

/-- R326: a step as this device takes part in it. -/
def collOf (s : State) (img : Image) (i : Nat) : Option Coll :=
  match img.steps[i]?, myRank s with
  | some e, some r =>
    let a := collArgs (argsOf img e)
    if isCollective img i && a.ranks.contains r then
      some { img := img, rank := r, step := i, e := e, a := a, p := a.ranks.idxOf r }
    else none
  | _, _ => none

/-- R329, R334: the CIRCUITS entries of a direction: the first and how many. -/
def Coll.entries (co : Coll) (d : Nat) : Nat × Nat :=
  if d = 0 then (co.a.cwFirst, co.a.cwCount) else (co.a.ccwFirst, co.a.ccwCount)

/-- R334: the circuit that chunk `k` of each half and step goes on. -/
def Coll.circuit (co : Coll) (d k : Nat) : CircEntry :=
  (co.img.circuits[(co.entries d).1 + k % (co.entries d).2]?).getD default

/-- One direction of a context. -/
def Ctx.dir (c : Ctx) (d : Nat) : RingDir :=
  if d = 0 then c.cw else c.ccw

/-- Change one direction of a context. -/
def Ctx.modDir (c : Ctx) (d : Nat) (f : RingDir → RingDir) : Ctx :=
  if d = 0 then { c with cw := f c.cw } else { c with ccw := f c.ccw }

/-- R336: the context that is bound to a skein. -/
def ctxOf (s : State) (skein : Nat) : Option Nat :=
  (List.range 16).find? fun k => (s.ctxAt k).bound && (s.ctxAt k).skein == skein

/-- R336: a context is bound to a skein, if none is yet and one is free. -/
def bindCtx (skein : Nat) (s : State) : Option Nat × State :=
  match ctxOf s skein with
  | some k => (some k, s)
  | none =>
    match (List.range 16).find? fun k => !(s.ctxAt k).bound with
    | some k => (some k, s.modCtx k fun _ => { bound := true, skein := skein })
    | none => (none, s)

/-- R336: the frame in progress has a collective step of the skein. -/
def skeinInFrame (s : State) (skein : Nat) : Bool :=
  ((runningImage s).map fun img => (frameSteps s).any fun i => isCollective img i && skeinOf img i == skein).getD false

/-- R340: the next collective step of a skein that this device's program starts: in this frame, else in a later one. -/
def nextCollective (s : State) (img : Image) (rank skein : Nat) : Option Nat :=
  let later := (List.range img.hdr.frames).flatMap fun t => stepsIn img rank ((s.frm.index + 1 + t) % img.hdr.frames)
  (((frameSteps s).filter fun i => !s.frm.ran.contains i) ++ later).find? fun i =>
    isCollective img i && skeinOf img i == skein

/-! ### Sending -/

/-- R335: the open block's payload of a chunk. -/
def chunkOpening (phase d count skein step shard credit seq chunk sig bytes : Nat) : List Byte :=
  layoutBytes 256
    [(0x00, 1, 0x10), (0x01, 1, phase), (0x02, 1, d), (0x04, 4, count), (0x08, 2, skein), (0x0A, 2, step), (0x0C, 2, shard),
     (0x0E, 2, credit), (0x10, 4, seq), (0x14, 4, chunk), (0x18, 8, sig), (0x20, 4, bytes)]

/-- R334: the blocks of a chunk on a circuit: an open block, its data blocks and a close block. -/
def chunkBlocks (dest src resv x : Nat) (opening data : List Byte) : List Blk :=
  let n := ceilDiv data.length 256
  [{ typ := 1, route := circuitRoute dest src resv x 0, payload := opening }]
    ++ (List.range n).map (fun i =>
      { typ := 2, route := circuitRoute dest src resv x i, payload := sliceBytes data (256 * i) 256 })
    ++ [{ typ := 3, route := circuitRoute dest src resv x 0,
          payload := layoutBytes 256 [(0, 4, n), (4, 4, crc32c data)] }]

/-- R335: blocks of this device wait for their circuit. -/
def queueBlocks (c : CircEntry) (blocks : Nat → List Blk) (s : State) : State :=
  let x := freeXfer s c.resv
  (s.modFab fun f => { f with nextXfer := wrapInc 8 x }).modLink c.strand fun l =>
    { l with own := l.own ++ (blocks x).map fun b => (c.resv, b) }

/-- R335, R342: a chunk without data or close block goes out on a circuit: credit only, or an abort. -/
def sendUrgent (c : CircEntry) (opening : List Byte) (s : State) : State :=
  queueBlocks c (fun x => [{ typ := 1, route := circuitRoute c.dest (selfId s) c.resv x 0, payload := opening }]) s

/-- R335: the CREDIT of what context `k` sends in a direction: chunks consumed that came the other way. -/
def creditFor (c : Ctx) (d : Nat) : Nat :=
  (c.dir (1 - d)).consumed

/-- R336: credit has been returned with something sent in direction `d`. -/
def credited (k d : Nat) (s : State) : State :=
  s.modCtx k fun c => c.modDir (1 - d) fun r => { r with uncredited := 0 }

/-- R332, R334: a chunk leaves, in a direction, on its circuit. -/
def sendChunk (co : Coll) (k d : Nat) (x : ChunkId) (s : State) : State :=
  let c := s.ctxAt k
  let data := if co.a.elems = 0 then [] else sliceBytes c.work (chunkOff co.a d x) (chunkLen co.a d x)
  let ci := co.circuit d x.2.2.2
  let opening := chunkOpening x.1 d (ceilDiv data.length 256) co.a.skein x.2.1 x.2.2.1 (creditFor c d) c.seq x.2.2.2 c.sig
    data.length
  let s := queueBlocks ci (fun n => chunkBlocks ci.dest (selfId s) ci.resv n opening data) s
  let s := s.modCtx k fun c => c.modDir d fun r =>
    { r with toSend := r.toSend.erase x, sent := wrapInc 16 r.sent, stalled := false }
  credited k d (s.modSkn fun v => { v with chunks := wrapInc 32 v.chunks })

/-- R332, R334: the first chunk that may leave: what it waits for has arrived, and no earlier one of its circuit is left. -/
def firstReady (co : Coll) (r : RingDir) (count : Nat) : List Nat → List ChunkId → Option ChunkId
  | _, [] => none
  | blocked, x :: xs =>
    if count ≤ blocked.length then none
    else if blocked.contains (x.2.2.2 % count) then firstReady co r count blocked xs
    else if ((chunkNeeds co.e.opcode co.a.n x).map r.toRecv.contains).getD false then
      firstReady co r count (x.2.2.2 % count :: blocked) xs
    else some x

/-- R336: chunks sent and not yet credited. -/
def RingDir.outstanding (r : RingDir) : Nat :=
  (r.sent + 65536 - r.credSeen) % 65536

/-- R336: the chunks of a direction that may leave do, as far as the window and the transfer numbers allow. -/
def pumpDir (co : Coll) (k d : Nat) : Nat → State → State
  | 0, s => s
  | n + 1, s =>
    let r := (s.ctxAt k).dir d
    match firstReady co r (co.entries d).2 [] r.toSend with
    | none => s
    | some x =>
      if 16 ≤ r.outstanding then
        if r.stalled then s
        else (s.modSkn fun v => { v with stalls := wrapInc 32 v.stalls }).modCtx k fun c =>
          c.modDir d fun r => { r with stalled := true }
      else if 256 ≤ (usedXfers s (co.circuit d x.2.2.2).resv).length then s
      else pumpDir co k d n (sendChunk co k d x s)

/-- R336: four consumed chunks are not yet credited and nothing leaves on the reverse circuits: a credit-only chunk does. -/
def returnCredit (co : Coll) (k d : Nat) (s : State) : State :=
  let c := s.ctxAt k
  let ci := co.circuit (1 - d) 0
  if (c.dir d).uncredited < 4 ∨ 256 ≤ (usedXfers s ci.resv).length then s
  else credited k (1 - d)
    (sendUrgent ci (chunkOpening 0xFE (1 - d) 0 co.a.skein 0 0 (creditFor c (1 - d)) c.seq 0 c.sig 0) s)

/-- R332: everything has been sent and received: the step's part is done. -/
def finishCtx (k : Nat) (s : State) : State :=
  let c := s.ctxAt k
  if c.started && c.result.isNone && c.cw.toSend.isEmpty && c.cw.toRecv.isEmpty && c.ccw.toSend.isEmpty
      && c.ccw.toRecv.isEmpty then
    (s.modSkn fun v => { v with doneCount := wrapInc 32 v.doneCount }).modCtx k fun c =>
      { c with result := some .sOk, work := [] }
  else s

/-- R332, R336: what may leave does, credits go back, and the collective completes when nothing is left. -/
def pump (co : Coll) (k : Nat) (s : State) : State :=
  finishCtx k (returnCredit co k 1 (returnCredit co k 0 (pumpDir co k 1 17 (pumpDir co k 0 17 s))))

/-! ### Stopping -/

/-- R340, R343: chunks of this device whose open block has not gone out are not sent. -/
def dropChunks (bad : Blk → Bool) (s : State) : State :=
  s.modFab fun f =>
    { f with link := tmap f.link fun l =>
        let gone := (l.own.filter fun q => q.2.collective && !q.2.urgent && bad q.2).map fun q => (q.1, q.2.xfer)
        { l with own := l.own.filter fun q => !gone.contains (q.1, q.2.xfer) } }

/-- The collective of a context ends here with a failure. -/
def endCollective (co : Coll) (k : Nat) (st : Status) (s : State) : State :=
  let s := s.modCtx k fun c =>
    { c with stopped := true, result := some (c.result.getD st), early := [], work := [],
             cw := { c.cw with toSend := [], toRecv := [] }, ccw := { c.ccw with toSend := [], toRecv := [] } }
  clientError (.step co.step) st (dropChunks (fun b => fieldOf b.payload 8 2 == co.a.skein) s)

/-- R341: DATA of an event. -/
def skeinData (seq gotSeq expSig gotSig pos from_ field : Nat) : List Byte :=
  layoutBytes 40
    [(0x00, 4, seq), (0x04, 4, gotSeq), (0x08, 8, expSig), (0x10, 8, gotSig), (0x18, 2, pos), (0x1A, 2, from_),
     (0x1C, 1, field)]

/-- R335, R340: an abort chunk on every circuit of a direction. -/
def sendAborts (co : Coll) (d : Nat) (opening : List Byte) : List Nat → State → State
  | [], s => s
  | i :: is, s => sendAborts co d opening is (sendUrgent (co.circuit d i) opening s)

/-- R339, R340: an open block differs from what this member expects. -/
def skeinMismatch (co : Coll) (k field : Nat) (o : List Byte) (s : State) : State :=
  let c := s.ctxAt k
  let d := fieldOf o 2 1
  let got := fieldOf o 0x18 8
  let s := s.modSkn fun v =>
    { v with mismatch := true, mismatches := wrapInc 16 v.mismatches, lastSkein := co.a.skein, lastPos := co.p,
             lastSeq := c.seq, sigExp := c.sig, sigGot := got,
             abortedSeq := v.abortedSeq ++ [{ skein := co.a.skein, seq := c.seq, detector := co.p, dir := d }] }
  let s := endCollective co k .eSkeinMismatch s
  let abort := fun d => chunkOpening 0xFF d 0 co.a.skein co.p 0 (creditFor c d) c.seq 0 c.sig 0
  let s := sendAborts co 1 (abort 1) (List.range co.a.ccwCount) (sendAborts co 0 (abort 0) (List.range co.a.cwCount) s)
  let s := postEvent 0x09 .eSkeinMismatch co.a.skein none
    (skeinData c.seq (fieldOf o 0x10 4) c.sig got co.p (upstream co.a.n d co.p) field) s
  winBump 38 0 0 s

/-- R340: an abort is shown in the registers and counted. -/
def noteAbort (x : SeenAbort) (s : State) : State :=
  winBump 39 0 0 (s.modSkn fun v =>
    { v with aborts := wrapInc 16 v.aborts, lastSkein := x.skein, lastPos := x.detector, lastSeq := x.seq,
             abortedSeq := v.abortedSeq ++ [x] })

/-- R340, R341: the event of a collective that an abort chunk has stopped. -/
def postAbort (co : Coll) (seq : Nat) (x : SeenAbort) (s : State) : State :=
  postEvent 0x09 .eSkeinAborted co.a.skein none (skeinData seq x.seq 0 0 x.detector (upstream co.a.n x.dir co.p) 0) s

/-- R340: an abort chunk goes on in the direction in which it was travelling, with this member's SIG. -/
def forwardAbort (co : Coll) (x : SeenAbort) (c : Ctx) (sig : Nat) (s : State) : State :=
  let d := if x.dir = 0 then 0 else 1
  sendUrgent (co.circuit d 0) (chunkOpening 0xFF d 0 x.skein x.detector 0 (creditFor c d) x.seq 0 sig 0) s

/-! ### Receiving -/

/-- R339: what comparing an open block shows. -/
inductive Verdict where
  /-- It belongs to the skein's next collective step, and waits for that step to start. -/
  | early
  /-- R339: the first field that differs. -/
  | differs (field : Nat)
  /-- It is this chunk. -/
  | fits (x : ChunkId)
  deriving DecidableEq, Repr, Inhabited

/-- R339: the sig of the collective step that comes after the running one. -/
def nextSig (s : State) (co : Coll) (seq : Nat) : Option Nat :=
  (nextCollective s co.img co.rank co.a.skein).bind fun i => (collOf s co.img i).map fun c =>
    skeinSig c.a c.e.opcode (wrapInc 32 seq)

/-- R339: an open block is compared with the chunk that is expected next on its circuit. -/
def compareOpening (s : State) (co : Coll) (c : Ctx) (o : List Byte) : Verdict :=
  let d := fieldOf o 2 1
  let k := fieldOf o 0x14 4
  if fieldOf o 0x18 8 ≠ c.sig then
    if nextSig s co c.seq = some (fieldOf o 0x18 8) then .early else .differs 1
  else if 1 < d then .differs 2
  else match (c.dir d).toRecv.find? fun x => x.2.2.2 % (co.entries d).2 == k % (co.entries d).2 with
    | none => .differs 2
    | some x =>
      if (fieldOf o 1 1, fieldOf o 0x0A 2, fieldOf o 0x0C 2, k) ≠ x then .differs 2
      else
        let n := if co.a.elems = 0 then 0 else chunkLen co.a d x
        if fieldOf o 4 4 = ceilDiv n 256 ∧ fieldOf o 0x20 4 = n then .fits x else .differs 3

/-- R336: CREDIT of a chunk that came in direction `d`: it credits what was sent the other way. -/
def takeCredit (k d credit : Nat) (s : State) : State :=
  s.modCtx k fun c => c.modDir (1 - d) fun r =>
    if (r.sent + 65536 - credit) % 65536 ≤ r.outstanding then { r with credSeen := credit, stalled := false } else r

/-- R328, R337: the output address of a place in the whole vector. -/
def outAddr (co : Coll) (off : Nat) (s : State) : Nat :=
  let base := if co.e.opcode = 0x11 then co.a.elemSize * blockStart co.a co.p else 0
  regionAddr s co.a.outRegion (co.a.outOff + (off - base))

/-- R337: output bytes are written as remote-put arrivals. -/
def writeOut (co : Coll) (k off : Nat) (bs : List Byte) (s : State) : State :=
  match targetWrite false 0 0 (outAddr co off s) bs s with
  | (some st, s) => endCollective co k st s
  | (none, s) => s

/-- R332: the values are final on arrival: a gather chunk, or the last reduce step's, which is of this member's own block. -/
def isFinal (co : Coll) (x : ChunkId) : Bool :=
  x.1 == 1 || x.2.1 + 2 == co.a.n

/-- R332, R333: a chunk is combined with this member's values, or taken as it is, and written where it is final. -/
def combineChunk (co : Coll) (k d : Nat) (x : ChunkId) (data : List Byte) (s : State) : State :=
  let off := chunkOff co.a d x
  let c := s.ctxAt k
  let bs := match elemFmt co.a.dtype with
    | some fm => if x.1 = 0 then reduceBytes fm co.a.redOp data (sliceBytes c.work off data.length) else data
    | none => data
  let s := s.modCtx k fun c => { c with work := overlay c.work off bs }
  let s := if isFinal co x then writeOut co k off bs s else s
  if x.1 = 1 then
    tapShard co.img co.rank co.step x.2.2.1 (off - co.a.elemSize * blockStart co.a x.2.2.1) bs s
  else s

/-- R336: a chunk that fits has been consumed. -/
def consumeChunk (co : Coll) (k d : Nat) (x : ChunkId) (data : List Byte) (s : State) : State :=
  let s := s.modCtx k fun c => c.modDir d fun r =>
    { r with toRecv := r.toRecv.erase x, consumed := wrapInc 16 r.consumed, uncredited := r.uncredited + 1 }
  let s := if co.a.elems = 0 then s else combineChunk co k d x data s
  if (s.ctxAt k).stopped then s else pump co k s

/-- R337: a chunk whose CHECK fails is not combined. -/
def chunkCheckFails (co : Coll) (k : Nat) (s : State) : State :=
  let s := checkMismatch (s.modSkn fun v => { v with checkFail := true })
  endCollective co k .eDataError s

/-- R336: a chunk waits in staging for its step to start. -/
def stageChunk (k : Nat) (x : EarlyChunk) (s : State) : State :=
  s.modCtx k fun c => { c with early := c.early ++ [x] }

/-- R339: the collective that runs in a context, if one does. -/
def runningColl (s : State) (k : Nat) : Option Coll :=
  let c := s.ctxAt k
  if c.started && c.result.isNone then (runningImage s).bind fun img => collOf s img c.step else none

/-- R336, R339: a chunk has arrived whole: it is compared, checked, and combined or written, or it waits; the chunks of a
collective that has been stopped are discarded. -/
def takeChunk (x : EarlyChunk) (s : State) : State :=
  let o := x.open_
  let d := fieldOf o 2 1
  if !skeinInFrame s (fieldOf o 8 2) then s
  else match bindCtx (fieldOf o 8 2) s with
    | (none, s) => s
    | (some k, s) =>
      if (s.ctxAt k).stopped then s
      else
        let s := if d ≤ 1 then takeCredit k d (fieldOf o 0x0E 2) s else s
        match runningColl s k with
        | none => stageChunk k x s
        | some co =>
          match compareOpening s co (s.ctxAt k) o with
          | .early => stageChunk k x s
          | .differs f => skeinMismatch co k f o s
          | .fits ch => if x.good then consumeChunk co k d ch x.data s else chunkCheckFails co k s

/-- R336, R339: an open block on its own: it binds a context, and a mismatch shows before any data is used. The answer says that the chunk's data blocks
and close block are taken. -/
def takeOpening (o : List Byte) (s : State) : Bool × State :=
  if !skeinInFrame s (fieldOf o 8 2) then (false, s)
  else match bindCtx (fieldOf o 8 2) s with
    | (none, s) => (false, s)
    | (some k, s) =>
      if (s.ctxAt k).stopped then (false, s)
      else match runningColl s k with
        | none => (true, s)
        | some co =>
          match compareOpening s co (s.ctxAt k) o with
          | .differs f => (false, skeinMismatch co k f o s)
          | _ => (true, s)

/-- R336: the chunks that waited for a step are taken once it has started. -/
def takeEarly : List EarlyChunk → State → State
  | [], s => s
  | x :: xs, s => takeEarly xs (takeChunk x s)

/-- COLLECTIVE_CHUNK (R339): a chunk's blocks have all arrived on a strand; a quarantined one discards them. -/
def execCollectiveChunk (strand : StrandId) (opening data : List Byte) (check : Word) (s : State) :
    Host.Outcome State Fault Refusal :=
  .next (
    if (s.discAt strand).st = .quarantined then s.modTop fun x => { x with discards := wrapInc 32 x.discards }
    else
      let bs := data.take (fieldOf opening 0x20 4)
      spillGate .fabric (takeChunk { open_ := opening, data := bs, good := crc32c bs == check.toNat }) s)

/-- R336: a credit-only chunk: the window opens, and what waited for it leaves. -/
def takeCreditOnly (o : List Byte) (s : State) : State :=
  let d := fieldOf o 2 1
  match ctxOf s (fieldOf o 8 2) with
  | none => s
  | some k =>
    if (s.ctxAt k).stopped || 1 < d then s
    else
      let s := takeCredit k d (fieldOf o 0x0E 2) s
      match runningColl s k with
      | some co => pump co k s
      | none => s

/-- CREDIT_ONLY (R336). -/
def execCreditOnly (strand : StrandId) (opening : List Byte) (s : State) : Host.Outcome State Fault Refusal :=
  .next (
    if (s.discAt strand).st = .quarantined then s.modTop fun x => { x with discards := wrapInc 32 x.discards }
    else spillGate .fabric (takeCreditOnly opening) s)

/-- R340: a collective that this member has started is aborted: it is stopped, or had completed here already. -/
def abortStarted (co : Coll) (k : Nat) (x : SeenAbort) (s : State) : State :=
  let c := s.ctxAt k
  let s := endCollective co k .eSkeinAborted (noteAbort x s)
  postAbort co c.seq x (forwardAbort co x c c.sig s)

/-- R340: an abort of a collective of this skein that this member's program completed before, or has not reached. -/
def abortOther (co : Coll) (x : SeenAbort) (s : State) : State :=
  let sig := skeinSig co.a co.e.opcode x.seq
  let s := forwardAbort co x default sig (noteAbort x s)
  let seq := tget s.skn.seq x.skein
  if x.seq < seq then failFrame .eSkeinAborted (postAbort co seq x s) else s

/-- R340: an abort chunk: each collective is aborted once, and a member without a later collective of the skein discards the
chunk. ABORTED shows every abort chunk that has come. -/
def takeAbort (o : List Byte) (s : State) : State :=
  let s := s.modSkn fun v => { v with aborted := true }
  let x : SeenAbort :=
    { skein := fieldOf o 8 2, seq := fieldOf o 0x10 4, detector := fieldOf o 0x0A 2, dir := fieldOf o 2 1 }
  if s.skn.abortedSeq.any fun y => y.skein == x.skein && y.seq == x.seq then s
  else match runningImage s, myRank s with
    | some img, some rank =>
      let started := (ctxOf s x.skein).bind fun k =>
        let c := s.ctxAt k
        if c.started && c.seq == x.seq then (collOf s img c.step).map fun co => (k, co) else none
      match started with
      | some (k, co) => abortStarted co k x s
      | none =>
        let later := (nextCollective s img rank x.skein).bind (collOf s img)
        match (if x.seq < tget s.skn.seq x.skein then (ctxOf s x.skein).bind (runningColl s) <|> later else later) with
        | some co => abortOther co x s
        | none => s
    | _, _ => s

/-- ABORT_CHUNK (R340). -/
def execAbortChunk (strand : StrandId) (opening : List Byte) (s : State) : Host.Outcome State Fault Refusal :=
  .next (
    if (s.discAt strand).st = .quarantined then s.modTop fun x => { x with discards := wrapInc 32 x.discards }
    else takeAbort opening s)

/-! ### Starting -/

/-- R327, R336, R338: a collective step takes its SEQ and a context. -/
def openCtx (co : Coll) (k : Nat) (s : State) : State :=
  let seq := tget s.skn.seq co.a.skein
  let s := s.modSkn fun v => { v with seq := tput v.seq co.a.skein (wrapInc 32 seq) }
  let list := fun d p => ringChunks co.e.opcode co.a d p
  s.modCtx k fun c =>
    { c with
      started := true, seq := seq, sig := skeinSig co.a co.e.opcode seq, step := co.step, stopped := false, result := none
      work := [], early := []
      cw := { c.cw with toSend := list 0 co.p, toRecv := list 0 (upstream co.a.n 0 co.p), stalled := false }
      ccw := { c.ccw with toSend := list 1 co.p, toRecv := list 1 (upstream co.a.n 1 co.p), stalled := false } }

/-- R337: the extents of a collective step; one of no bytes is not checked. -/
def collOperands (co : Coll) : List Operand :=
  let i := collIn co.e.opcode co.a co.a.elemSize co.p
  let o := collOut co.e.opcode co.a co.a.elemSize co.p
  ([⟨1, co.a.inRegion, co.a.inOff, i, accRead⟩, ⟨2, co.a.outRegion, co.a.outOff, o, accWrite⟩] : List Operand).filter
    fun x => x.len != 0

/-- R332, R337: the input is read as source reads, and laid in its place in the whole vector; an ALL_GATHER's own block is
final. -/
def loadInput (co : Coll) (k : Nat) (s : State) : State :=
  let es := co.a.elemSize
  let n := collIn co.e.opcode co.a es co.p
  let r := engineRead (stepEngine co.e) (regionAddr s co.a.inRegion co.a.inOff) n s
  match r.err with
  | some st => endCollective co k st r.s
  | none =>
    let first := if co.e.opcode = 0x12 then es * blockStart co.a co.p else 0
    let s := r.s.modCtx k fun c => { c with work := overlay (List.replicate (es * co.a.elems) 0) first r.bytes }
    if co.e.opcode = 0x12 then writeOut co k first r.bytes s else s

/-- R337: a collective step begins behind its checks. -/
def runCollective (co : Coll) (k : Nat) (s : State) : State :=
  match stepCheck s (collOperands co) with
  | some x => endCollective co k x.1 s
  | none =>
    let s := noteWrite (.step co.step) (regionAddr s co.a.outRegion co.a.outOff)
      (collOut co.e.opcode co.a co.a.elemSize co.p) s
    let s := if co.a.elems = 0 then s else loadInput co k s
    if (s.ctxAt k).stopped then s else pump co k s

/-- R327, R336, R340: the work of a collective step; one that an abort chunk has reached before it completes at once. -/
def collStep (i : Nat) (img : Image) (s : State) : State :=
  match collOf s img i with
  | none => s
  | some co =>
    match bindCtx co.a.skein s with
    | (none, s) => s
    | (some k, s) =>
      let waiting := (s.ctxAt k).early
      let s := openCtx co k s
      let seq := (s.ctxAt k).seq
      match s.skn.abortedSeq.find? fun x => x.skein == co.a.skein && x.seq == seq with
      | some x => postAbort co seq x (endCollective co k .eSkeinAborted s)
      | none => takeEarly waiting (runCollective co k s)

/-- ALL_REDUCE (R328). -/
def execAllReduce (step : Nat) (s : State) : Host.Outcome State Fault Refusal :=
  .next (startStep step 3 0x10 (fun img _ _ => collStep step img) s)

/-- REDUCE_SCATTER (R328). -/
def execReduceScatter (step : Nat) (s : State) : Host.Outcome State Fault Refusal :=
  .next (startStep step 3 0x11 (fun img _ _ => collStep step img) s)

/-- ALL_GATHER (R328). -/
def execAllGather (step : Nat) (s : State) : Host.Outcome State Fault Refusal :=
  .next (startStep step 3 0x12 (fun img _ _ => collStep step img) s)

end Sys2Proof.Machine
end

