-- ==== Sys2Proof/Machine/Circuits.lean ====
section
/-!
DEFINITION. Circuit blocks at a relay and at their target (R282, R285, R286, R294).
-/

namespace Sys2Proof.Machine

/-- R275: DEST, RESV and XFER of a circuit block's ROUTE. -/
def routeDest (r : Nat) : Nat := bitsOf r 55 42
def routeResv (r : Nat) : Nat := bitsOf r 27 20
def routeXfer (r : Nat) : Nat := bitsOf r 19 12
def routeIndex (r : Nat) : Nat := bitsOf r 11 0

/-- R286, R298: a relay forwards the block cut-through where the egress strand's next position may carry it; where the strand
carries nothing now, the block is held. -/
def relayCircuit (n typ route : Nat) (payload : List Byte) (s : State) : State :=
  match s.fab.tables.transits.find? fun t => t.inStrand == n && t.resv == routeResv route with
  | none => dropCircuit s
  | some t =>
    let key := (t.outStrand, route / 4096)
    let s := s.modFab fun f =>
      { f with passing := if typ = 1 && !(fieldOf payload 0 1 == 0x10 && 0xFE ≤ fieldOf payload 1 1) then
                 (if f.passing.contains key then f.passing else f.passing ++ [key])
               else if typ = 3 then f.passing.erase key else f.passing }
    let s := s.modLink t.outStrand fun l =>
      { l with cut := l.cut ++ [(routeResv route, { typ := typ, route := route, payload := fitBytes 256 payload })] }
    if carriesTraffic s t.outStrand then s else holdCut t.outStrand s

/-- R310: what a circuit block meets on its strand: a quarantined one discards it, a block for another device is relayed,
and one for this device goes to its transfer. -/
def circuitBlock (n typ route : Nat) (payload : List Byte) (here : State → State) (s : State) : State :=
  if (s.discAt n).st = .quarantined then s.modTop fun x => { x with discards := wrapInc 32 x.discards }
  else if isSelf s (routeDest route) then spillGate .fabric here s
  else relayCircuit n typ route payload s

/-- R285: the key of a transfer that arrives. -/
def xferKey (n route : Nat) : Nat :=
  (n * 16384 + routeSrc route) * 65536 + routeResv route * 256 + routeXfer route

/-- R294: a transfer is answered. -/
def answerXfer (route : Nat) (st : Status) (detail count : Nat) (s : State) : State :=
  sendAck (routeSrc route) true (ackData (routeResv route * 256 + routeXfer route) st detail count 0) s

/-- R77, R285, R294: an open block at its target: R193 is applied to the whole operation, and what the transfer writes is
written by this frame. A collective's chunk is compared at once (R339), and lands in staging (R334). -/
def openTransfer (n route : Nat) (p : List Byte) (s : State) : State :=
  if fieldOf p 0 1 = 0x10 then
    if fieldOf p 1 1 = 0xFE then takeCreditOnly p s
    else if fieldOf p 1 1 = 0xFF then takeAbort p s
    else
      let (taken, s) := takeOpening p s
      let x : RxXfer := { op := 0x10, count := fieldOf p 4 4, len := fieldOf p 0x20 4, head := p, dropped := !taken }
      s.modFab fun f => { f with rxXfer := tput f.rxXfer (xferKey n route) (some x) }
  else
    let x : RxXfer :=
      { op := fieldOf p 0 1, redOp := fieldOf p 1 1, dtype := fieldOf p 2 1, count := fieldOf p 4 4, gaddr := fieldOf p 8 8,
        len := fieldOf p 16 4, xoff := fieldOf p 20 4 }
    match arriveCheck x.gaddr x.len accRemoteWrite s with
    | (some (st, d), s) =>
      answerXfer route st d 0
        (s.modFab fun f => { f with rxXfer := tput f.rxXfer (xferKey n route) (some { x with dropped := true }) })
    | (none, s) =>
      (s.modFrm fun f => { f with writes := f.writes ++ [(gaLocal x.gaddr + x.xoff, min msgBytes (x.len - x.xoff))] }).modFab
        fun f => { f with rxXfer := tput f.rxXfer (xferKey n route) (some x) }

/-- CIRCUIT_OPEN (R285). -/
def execCircuitOpen (strand : StrandId) (route : BitVec 56) (payload : List Byte) (s : State) :
    Host.Outcome State Fault Refusal :=
  .next (circuitBlock strand 1 route.toNat payload (openTransfer strand route.toNat payload) s)

/-- R285: the bytes of data block `i` of a transfer that lie within its operation and its 1 MiB. -/
def blockPiece (x : RxXfer) (i : Nat) (payload : List Byte) : List Byte :=
  payload.take (min 256 (min msgBytes (x.len - x.xoff) - 256 * i))

/-- R285, R286: a data block is performed; one whose write fails ends the transfer. -/
def transferData (n route : Nat) (payload : List Byte) (s : State) : State :=
  let k := xferKey n route
  match tget s.fab.rxXfer k with
  | none => s
  | some x =>
    if x.dropped then s
    else
      let bs := blockPiece x (routeIndex route) payload
      if x.op = 0x10 then s.modFab fun f => { f with rxXfer := tput f.rxXfer k (some { x with data := x.data ++ bs }) }
      else match targetWrite (x.op == 2) x.redOp x.dtype (gaLocal x.gaddr + x.xoff + 256 * routeIndex route) bs s with
      | (none, s) => s.modFab fun f => { f with rxXfer := tput f.rxXfer k (some { x with data := x.data ++ bs }) }
      | (some st, s) =>
        answerXfer route st 0 0 (s.modFab fun f => { f with rxXfer := tput f.rxXfer k (some { x with dropped := true }) })

/-- CIRCUIT_DATA (R286). -/
def execCircuitData (strand : StrandId) (route : BitVec 56) (payload : List Byte) (s : State) :
    Host.Outcome State Fault Refusal :=
  .next (circuitBlock strand 2 route.toNat payload (transferData strand route.toNat payload) s)

/-- R285, R294: a close block: COUNT and CHECK decide how the transfer is answered; the bytes of one that fails are
undefined. -/
def closeTransfer (n route : Nat) (p : List Byte) (s : State) : State :=
  let k := xferKey n route
  match tget s.fab.rxXfer k with
  | none => s
  | some x =>
    let s := s.modFab fun f => { f with rxXfer := tput f.rxXfer k none }
    if x.dropped then s
    else if x.op = 0x10 then
      takeChunk { open_ := x.head, data := x.data, good := fieldOf p 0 4 == x.count && fieldOf p 4 4 == crc32c x.data } s
    else if fieldOf p 0 4 = x.count && fieldOf p 4 4 = crc32c x.data then answerXfer route .sOk 0 x.count s
    else
      answerXfer route .eDataError 0 x.count
        (markUndef (gaLocal x.gaddr + x.xoff) x.data.length (checkMismatch s))

/-- CIRCUIT_CLOSE (R285). -/
def execCircuitClose (strand : StrandId) (route : BitVec 56) (payload : List Byte) (s : State) :
    Host.Outcome State Fault Refusal :=
  .next (circuitBlock strand 3 route.toNat payload (closeTransfer strand route.toNat payload) s)

end Sys2Proof.Machine
end

