-- ==== Sys2Proof/Machine/FrameCmds.lean ====
section
/-!
DEFINITION. Chapters 2 and 9: the mailbox commands that load, start, pre-empt and unload a frame program (R57-R60, R64,
R243).
-/

namespace Sys2Proof.Machine

/-! ### frame.load -/

/-- R61, R64: a program is running, or its start is announced. -/
def programHeld (s : State) : Bool :=
  s.frm.prog == .running || s.frm.prog == .startPending

/-- R235, R243: the reply of a `frame.load` that fails a check of R57. -/
def imageRefused (m : Nat) (st : Status) (index info : Nat) (s : State) : State :=
  let s := if st = .eImageSignature then s.modSec fun x => { x with imageSigFail := true } else s
  completeMbx m st 0 (layoutBytes 16 [(8, 4, index), (12, 4, info)]) s

/-- R57, R64, R404: an image that passes every check replaces the one loaded; a program that was suspended cannot be
resumed any more. -/
def keepImage (img : Image) (s : State) : State :=
  (s.modFrm fun f =>
    { f with image := some img, imageTag := img.tag, prog := .loaded, index := 0, suspended := none }).modSec fun x =>
      { x with challengeStale := x.challengeStale || x.challenge.isSome }

/-- R57, R235: the outcome of the checks of an image: refused with its flaw, or kept; what FAIL_INDEX and FAIL_INFO read
after a success the manual does not say. -/
def imageChecked (m : Nat) (img : Image) (flaw : Option (Status × Nat × Nat)) (s : State) : State :=
  match flaw with
  | some (st, index, info) => imageRefused m st index info s
  | none => completeMbx m .sOk 0 (leBytes 8 img.tag ++ leBytes 8 (Config.freeNat s.free)) (keepImage img s.drawFree)

/-- R57: an image whose bytes have been read is checked. -/
def checkImage (m tenant length : Nat) (bs : List Byte) (s : State) : State :=
  let img := readImage tenant bs
  imageChecked m img
    (imageFlaw (s.sec.signedFrames.contains tenant) s.pkg.pkgCap.toNat s.fab.deviceId s.fab.tables.resvs img bs length) s

/-- R57, R243: `frame.load`; the region's checks are those of R199. -/
def frameLoad (m : Nat) (r : MbxReq) (s : State) : State :=
  let h := fieldOf r.params 0 4
  let n := fieldOf r.params 4 4
  let o := fieldOf r.params 8 8
  if programHeld s then failMbx m .eState 0 s
  else match checkOperands s (anyTenant s h) [{ num := 1, handle := h, off := o, len := n }] with
    | some (st, d) => failMbx m st d s
    | none =>
      let rd := flyerRead (regionAddr s h o) n s
      match rd.err with
      | some st => failMbx m st 0 rd.s
      | none => checkImage m (fieldOf r.params 16 2) n rd.bytes rd.s

/-- FRAME_LOAD (R57). -/
def execFrameLoad (mbx : MbxId) (s : State) : Host.Outcome State Fault Refusal :=
  .next (casbomi 0x0040 mbx (frameLoad mbx) s)

/-! ### frame.start, frame.preempt, frame.unload -/

/-- R58, R64: a start that the whorl cannot announce: too near a frame, a program that runs or is announced, or a
resumption of a program that is not suspended. -/
def startRefused (tag n0 : Nat) (resume : Bool) (s : State) : Bool :=
  n0 < s.frm.number + 4 || s.frm.wStart.isSome || s.frm.wRunning.isSome ||
    (resume && (s.frm.suspended.map (·.2)) != some tag)

/-- R58, R64: `frame.start`: the announcement goes out in every tick from the next one on, and the command completes. -/
def frameStart (m : Nat) (r : MbxReq) (s : State) : State :=
  let tag := fieldOf r.params 0 8
  let n0 := fieldOf r.params 8 6
  let resume := (fieldOf r.params 16 1).testBit 0
  if s.frm.role ≠ .whorl then failMbx m .eRole 0 s
  else if startRefused tag n0 resume s then failMbx m .eState 0 s
  else completeMbx m .sOk 0 []
    (s.modFrm fun f => { f with wStart := some { n0 := n0, tag := tag, resume := resume }, wResume := resume })

/-- FRAME_START (R58, R64). -/
def execFrameStart (mbx : MbxId) (s : State) : Host.Outcome State Fault Refusal :=
  .next (casbomi 0x0041 mbx (frameStart mbx) s)

/-- R49: the number of the last tick that the whorl has emitted. -/
def lastTick (s : State) : Nat :=
  ((s.frm.next.map (·.frame))).getD s.frm.cur.frame

/-- R64: `frame.preempt`: the next tick that the whorl emits carries STOP with the mode; the reply names its frame. -/
def framePreempt (m : Nat) (r : MbxReq) (s : State) : State :=
  let mode := fieldOf r.params 0 1
  if mode ≠ 1 && mode ≠ 2 then failMbx m .eCommand 0x10 s
  else if s.frm.role ≠ .whorl then failMbx m .eRole 0 s
  else if s.frm.wRunning.isNone then failMbx m .eState 0 s
  else completeMbx m .sOk 0 (leBytes 8 (lastTick s + 1)) (s.modFrm fun f => { f with wStop := some mode })

/-- FRAME_PREEMPT (R64). -/
def execFramePreempt (mbx : MbxId) (s : State) : Host.Outcome State Fault Refusal :=
  .next (casbomi 0x0042 mbx (framePreempt mbx) s)

/-- R243: `frame.unload` discards an image that is neither running nor pending start. -/
def frameUnload (m : Nat) (_r : MbxReq) (s : State) : State :=
  if s.frm.prog ≠ .loaded then failMbx m .eState 0 s
  else completeMbx m .sOk 0 []
    (s.modFrm fun f => { f with image := none, imageTag := 0, prog := .noImage, index := 0, suspended := none })

/-- FRAME_UNLOAD (R243). -/
def execFrameUnload (mbx : MbxId) (s : State) : Host.Outcome State Fault Refusal :=
  .next (casbomi 0x0043 mbx (frameUnload mbx) s)

end Sys2Proof.Machine
end

