-- ==== Sys2Proof/Machine/Visibility.lean ====
section
/-!
DEFINITION. Chapter 6: releases and acquires outside frame programs, and the flyer partition's control register.
-/

namespace Sys2Proof.Machine

/-- RELEASE (R168). -/
def execRelease (engine : Engine) (base len : Nat) (scope : Scope) (cells : CellFaults) (s : State) :
    Host.Outcome State Fault Refusal :=
  .next (
    let s := applyCells cells s
    if scope = .domain && remoteOpen s [engine] base len then s
    else spillGate .flyer (releaseOf engine [engine] scope base len) s)

/-- ACQUIRE (R169, R170): its effect is the same at every scope. -/
def execAcquire (engine : Engine) (base len : Nat) (_scope : Scope) (cells : CellFaults) (s : State) :
    Host.Outcome State Fault Refusal :=
  .next (spillGate .flyer (acquireOf engine base len) (applyCells cells s))

/-- R34: a feature bit of MOD_PKG_CAP. -/
def hasFeature (s : State) (b : Nat) : Bool :=
  s.pkg.pkgCap.toNat.testBit b

/-- R184: a write of VIS_RLC_CTRL; a change writes back and invalidates the whole cache before it takes effect. -/
def rlcCtrlWrite (d v : Nat) (s : State) : State :=
  if hasFeature s 6 && s.pkg.devState == .ready && s.frm.prog == .noImage && (v == 0 || v == 2) then
    if (s.rlcAt d).flyerWays = v then s
    else (flushDie d false s).modRlc d fun x => { x with flyerWays := v }
  else s.modRlc d fun x => { x with ctrlRefused := true }

/-- VIS_RLC_CTRL_WRITE (R184). -/
def execVisRlcCtrlWrite (die : CDie) (value : Word) (s : State) : Host.Outcome State Fault Refusal :=
  .next (if barUp s then rlcCtrlWrite die (value.toNat % 4) s else s)

end Sys2Proof.Machine
end

