-- ==== Sys2Proof/Machine/Optics.lean ====
section
/-!
DEFINITION. Chapter 10: heaters, lasers, calibration, margins, the spare wavelength, and the stage monitors (R255-R263,
R266-R273).
-/

namespace Sys2Proof.Machine

/-! ### Heaters -/

/-- R257: a value between two entries, `k` quarters of the way, rounded to the nearest code; the manual does not say
which of two equally near codes is set, which `up` leaves open. -/
def betweenCodes (a b k : Nat) (up : Bool) : Nat :=
  let q := a * (4 - k) + b * k
  if q % 4 < 2 then q / 4 else if q % 4 = 2 && !up then q / 4 else q / 4 + 1

/-- R257: the code that a table gives at an engine temperature (0.25 °C units). -/
def tableCode (table : List Nat) (temp : Nat) (up : Bool) : Nat :=
  if temp ≤ 80 then table.getD 0 0
  else if 420 ≤ temp then table.getD 85 0
  else betweenCodes (table.getD (temp / 4 - 20) 0) (table.getD (temp / 4 - 19) 0) (temp % 4) up

/-- R2, R257, R360: the latest temperature of the engine of a heater's strand, `none` before its first reading. -/
def engineTemp (s : State) (key : Nat) : Option Nat :=
  let x := s.sensorAt (0x160 + key / 72)
  if x.valid then some x.value else none

/-- R257: one heater is set from its table. -/
def setHeater (s : State) (key : Nat) (h : Heater) : Heater :=
  match engineTemp s key with
  | none => h
  | some v => { h with code := tableCode h.table v ((Config.freeNat s.free).testBit key) }

/-- HEATER_UPDATE (R257): once per housekeeping round. -/
def execHeaterUpdate (s : State) : Host.Outcome State Fault Refusal :=
  .next (s.drawFree.modOpt fun o =>
    { o with heater := (o.heater.map fun e => (e.1, setHeater s e.1 e.2)).filter fun e => e.2 ≠ default })

/-- R257: an entry of a table with a difference added; what an entry beyond 12 bits becomes the manual does not say. -/
def shiftCode (free : Nat) (d : Int) (v : Nat) : Nat :=
  let w := (v : Int) + d
  if 0 ≤ w && w < 4096 then w.toNat else Config.freeNat free % 4096

/-- R257: a calibration has found the true code at the current temperature: its difference from the table's code is
added to every entry. -/
def retuneHeater (key code : Nat) (s : State) : State :=
  let h := tget s.opt.heater key
  match engineTemp s key with
  | none => s
  | some v =>
    let d : Int := (code : Int) - tableCode h.table v ((Config.freeNat s.free).testBit key)
    s.drawFree.modOpt fun o =>
      { o with heater := tput o.heater key { table := h.table.map (shiftCode s.free d), code := code } }

/-- R257: the elements that a calibration has retuned. -/
def retuneAll (n : Nat) : List (LaneId × Bool × BitVec 12) → State → State
  | [], s => s
  | x :: xs, s => retuneAll n xs (retuneHeater ((9 * n + x.1.val) * 2 + bit x.2.1) x.2.2.toNat s)

/-! ### Lasers -/

/-- R253: the strands of a bank whose transmit direction is in service. -/
def bankSends (s : State) (b : Nat) : List Nat :=
  ((List.range 32).map (32 * b + ·)).filter fun n => !(s.strandAt n).txOut

/-- Change one laser. -/
def modLaser (b w : Nat) (f : Laser → Laser) (s : State) : State :=
  s.modBank b fun k => { k with laser := vmod k.laser w f }

/-- A laser of a bank. -/
def laserAt (s : State) (b w : Nat) : Laser :=
  vget (s.bankAt b).laser w

/-- R272: a laser is lit. -/
def isLit (l : Laser) : Bool :=
  l.st == .lit || l.st == .litAtMax || l.st == .warming

/-- R255, R261: the target of a laser's output: the nominal 100 mW, in units of 2 µW. -/
def laserTarget : Nat :=
  50000

/-- R273: a laser has been lit for another 10 ms; 360,000 of them are an hour. -/
def countLit (l : Laser) : Laser :=
  if l.litTicks < 359999 then { l with litTicks := l.litTicks + 1 }
  else { l with litTicks := 0, hours := wrapInc 32 l.hours }

/-- R255, R273: the reading of a laser's output; the drive of a lit one moves by 0.1 mA towards the target, never above
DRIVE_MAX. -/
def adjustDrive (power : Nat) (l : Laser) : Laser :=
  if !isLit l then { l with power := power }
  else
    let l := countLit l
    let drive := if power < laserTarget then min (l.drive + 1) (max l.drive l.driveMax)
      else if laserTarget < power then l.drive - 1 else l.drive
    { l with power := power, drive := drive,
             st := if l.st = .warming then .warming else if l.driveMax ≤ drive then .litAtMax else .lit }

/-- LASER_DRIVE_ADJUST (R255): every 10 ms, from the stage 0 readings of lasers 0 to 8 of bank A, then of bank B. -/
def execLaserDriveAdjust (power : List Half) (s : State) : Host.Outcome State Fault Refusal :=
  .next (s.modOpt fun o =>
    { o with bank := Vector.ofFn fun (b : Fin 2) =>
        { o.bank[b] with laser := Vector.ofFn fun (w : Fin 9) =>
            match power[9 * b.val + w.val]? with
            | some p => adjustDrive p.toNat o.bank[b].laser[w]
            | none => o.bank[b].laser[w] } })

/-- R271: lasers of a bank that have failed, have been retired, or whose lanes have been dropped for their fade. -/
def deadLasers (s : State) (b : Nat) : Nat :=
  ((s.bankAt b).laser.toList.filter fun l => l.st == .failed || l.st == .retired || l.faded).length

/-- The number of a laser in an event's OBJECT. [DC 31] -/
def laserObject (b w : Nat) : Nat :=
  16 * b + w

/-- R268: no strand of the bank has L8 trained. -/
def clearMirrors (b : Nat) (s : State) : State :=
  (List.range 32).foldl (fun s i =>
    s.modStrand (32 * b + i) fun t => { t with mirror := .untrained, trainDue := false }) s

/-- R268 step 1: laser 8 is lit to stand in for a wavelength. -/
def startSwap (b w : Nat) (s : State) : State :=
  clearMirrors b (modLaser b 8 (fun l => { l with st := .warming })
    (s.modBank b fun k => { k with swap := .warming, spareFor := some w }))

/-- R268: laser 8 stands by. -/
def spareFree (s : State) (b : Nat) : Bool :=
  (s.bankAt b).swap == .none && (laserAt s b 8).st == .standby

/-- R268: a lane is dropped on every strand of a bank at the next frame boundary. -/
def dropLaneAtFrame (lane : Nat) : List Nat → State → State
  | [], s => s
  | n :: ns, s =>
    if (frameMap s n).contains lane then dropLaneAtFrame lane ns (changeAtFrame n ((frameMap s n).erase lane) s)
    else dropLaneAtFrame lane ns s

/-- R269: laser `w` fails while laser 8 is being brought in for it: a strand that mirrors it takes L8 at once, another
drops it. -/
def failMirrored (w : Nat) : List Nat → State → State
  | [], s => s
  | n :: ns, s =>
    let t := s.strandAt n
    if t.mirror = .untrained then failMirrored w ns (dropTx n w false s)
    else failMirrored w ns
      (mapAtOnce n ((txPending t).map fun l => if l = w then 8 else l) (s.modStrand n fun t => { t with mirror := .verified }))

/-- R264: a laser's lane is dropped at once on every strand. -/
def dropLane (lane : Nat) : List Nat → State → State
  | [], s => s
  | n :: ns, s => dropLane lane ns (dropTx n lane false s)

/-- R268, R269: laser 8 has failed: in service its lanes are dropped; while it was being brought in, the swap is over, and
the wavelength it was to replace is dropped at a frame boundary. -/
def spareFailed (b : Nat) (s : State) : State :=
  let k := s.bankAt b
  let w := k.spareFor
  let s := clearMirrors b (s.modBank b fun k => { k with swap := .none, spareFor := none })
  if k.swap = .inService then dropLane 8 (bankSends s b) s
  else match w with
    | some w => if isLit (laserAt s b w) then dropLaneAtFrame w (bankSends s b) s else s
    | none => s

/-- R269, R271: laser `w` has failed. -/
def wavelengthFailed (b w : Nat) (s : State) : State :=
  if w = 8 then spareFailed b s
  else if (s.bankAt b).spareFor = some w && (s.bankAt b).swap ≠ .inService then
    advanceSwap b (failMirrored w (bankSends s b) s)
  else
    let s := dropLane w (bankSends s b) s
    if spareFree s b then startSwap b w s else s

/-- R256, R271: a laser has failed: it is turned off and recorded. -/
def laserFailed (b w : Nat) (s : State) : State :=
  let l := laserAt s b w
  if l.st = .failed || l.st = .retired then s
  else
    let s := modLaser b w (fun l => { l with st := .failed }) s
    let s := escalate { row := 29, obj := b, l3 := true, l4 := 6 ≤ deadLasers s b } s
    wavelengthFailed b w s

/-- LASER_FAILURE (R256). -/
def execLaserFailure (bank : BankId) (laser : LaneId) (s : State) : Host.Outcome State Fault Refusal :=
  .next (laserFailed bank laser s)

/-! ### Calibration -/

/-- R259, R317: a strand that carries this device's parent or child ticks. -/
def tickLink (s : State) (n : Nat) : Bool :=
  let tree := bit s.frm.cur.rootStandby
  tickStrand s tree == some n || (matchedChildren s tree).contains n

/-- R258, R268, R269, R407: how long a calibration, a training, or both in one period take, in ns. -/
def periodNs (s : State) (j : CalJob) (test : Bool) : Nat :=
  let d := if hasFeature s 12 then 1 else 2
  let t := j.train || j.farTrain
  (if j.cal then 6000 * d + (if t then 2000 * d else 0) else if t then 4000 * d else 0)
    + (if test then 6000 else 0)

/-- R259, R260, R79: a period frees a strand: no domain, no program, a pause frame, a window that frees the strand and is
long enough, or for an overdue strand the stretched frame it asked for; a tick link only after its reply. -/
def periodFree (s : State) (n ns : Nat) : Bool :=
  s.frm.role == .none ||
    ((!tickLink s n || s.frm.replied) &&
      (strandWindow s n ns || ((s.strandAt n).calOverdue && ns ≤ 1000 * s.frm.cur.stretch)))

/-- R268: the strand of a bank whose L8 is trained next: the lowest that waits and has a neighbour. -/
def nextTraining (s : State) (n : Nat) : Bool :=
  ((bankStrands s (bankOfStrand n)).find? fun k => (s.strandAt k).trainDue && present s k) == some n

/-- R407: the loop-back test of a strand is due. -/
def strandTestDue (s : State) (n : Nat) : Bool :=
  unitIsDue s 7 0 n

/-- R268: a strand of this device trains its L8 in the next period. -/
def trainsNext (s : State) (n : Nat) : Bool :=
  (s.strandAt n).trainDue && nextTraining s n

/-- R259, R269: what a period that this device starts on a strand may be for, the most first: all that is due shares one
period where it is long enough. -/
def jobsFor (s : State) (n : Nat) : List (CalJob × Bool) :=
  let cal := (s.strandAt n).calDue
  let train := trainsNext s n
  let test := strandTestDue s n
  let job := fun c t => { strand := n, starter := true, train := t, cal := c : CalJob }
  [(job cal train, test), (job cal train, false), (job cal false, test), (job cal false, false), (job false train, false)].filter
    fun x => x.1.cal || x.1.train || x.2

/-- R259: what a period that the far end has asked for is for: what the far end asks for, which its message does not say
[DC 96], and this device's own training of L8. -/
def jobAsked (s : State) (n : Nat) (cal train : Bool) : CalJob :=
  { strand := n, train := trainsNext s n, farTrain := train, cal := cal }

/-- R259: the far end's SERIAL_DIGEST. -/
def farDigest (s : State) (n : Nat) : Nat :=
  ((s.discAt n).hello.map (·.digest)).getD 0

/-- R258: a period begins on a strand, which is withdrawn from packet routing where it is calibrated. -/
def beginPeriod (j : CalJob) (s : State) : State :=
  (s.modOpt fun o => { o with cal := some j, laneEvent := o.laneEvent || j.cal }).modStrand j.strand fun t => { t with calWithdrawn := j.cal }

/-- R259: the period that this device may start now on a strand: at most one strand at a time, with a neighbour whose
SERIAL_DIGEST is higher, and in a period that frees the strand for long enough. -/
def calStart (s : State) (n : Nat) : Option CalJob :=
  if s.opt.cal.isNone && present s n && s.top.serial < farDigest s n then
    ((jobsFor s n).find? fun x => periodFree s n (periodNs s x.1 x.2)).map (·.1)
  else none

/-- CALIBRATION_START (R259): the end with the lower SERIAL_DIGEST asks the far end. -/
def execCalibrationStart (strand : StrandId) (s : State) : Host.Outcome State Fault Refusal :=
  .next (
    match calStart s strand with
    | some j => sendControl strand (laneMsgBytes 5 false [] 0 noMargins) (beginPeriod j s)
    | none => s)

/-- CALIBRATION_REQUEST (R259, R263): the far end asks, and is answered; the period begins once the accept has gone out. -/
def execCalibrationRequest (strand : StrandId) (request : CalRequest) (s : State) : Host.Outcome State Fault Refusal :=
  .next (
    let j := jobAsked s strand request.cal request.train
    if fieldOf request.payload 0 1 ≠ 5 then s
    else if s.opt.cal.isNone && present s strand && periodFree s strand (periodNs s j false) then
      sendControl strand (laneMsgBytes 6 false [] 0 noMargins) (beginPeriod j s)
    else sendControl strand (laneMsgBytes 7 false [] 0 noMargins) s)

/-- R259: this device has asked for a period on a strand and has no answer yet. -/
def asking (s : State) (n : Nat) : Bool :=
  match s.opt.cal with
  | some j => j.strand == n && j.starter && !j.accepted
  | none => false

/-- CALIBRATION_ACCEPT (R259, R263). -/
def execCalibrationAccept (strand : StrandId) (s : State) : Host.Outcome State Fault Refusal :=
  .next (
    if asking s strand then s.modOpt fun o => { o with cal := o.cal.map fun j => { j with accepted := true } } else s)

/-- CALIBRATION_REFUSE (R259): the starting end tries again in its next period. -/
def execCalibrationRefuse (strand : StrandId) (s : State) : Host.Outcome State Fault Refusal :=
  .next (if asking s strand then endCalibration s else s)

/-- R260: the median of a list of readings in units of 0.1 dB, times 10: the middle one, or half the sum of the middle
two. -/
def medianOf (xs : List Int) : Option Int :=
  let ys := xs.insertionSort (· ≤ ·)
  let n := ys.length
  if n = 0 then none
  else if n % 2 = 1 then some (10 * ys.getD (n / 2) 0)
  else some (5 * (ys.getD (n / 2 - 1) 0 + ys.getD (n / 2) 0))

/-- R260: the median of ten readings of 0.1 dB has fallen 1.0 dB below a baseline. -/
def fallen (last : List Int) (base : Option Int) : Bool :=
  last.length == 10 &&
    match medianOf last, base with
    | some m, some b => decide (m ≤ 10 * b - 100)
    | _, _ => false

/-- R260: a lane of a strand, measured here or reported by the far end, whose median margin over the last 10 readings has
fallen 1.0 dB below its baseline. -/
def drifted (t : Strand) : Bool :=
  (t.rxMap.any fun l => fallen (tget t.rxLast l) (tget t.baseline l)) ||
    t.txMap.any fun l => fallen (tget t.txLast l) (tget t.txBase l)

/-- R271: margin drift has been found on a strand. -/
def driftFound (n : Nat) (s : State) : State :=
  let s := winBump 26 0 n (s.modStrand n fun t => { t with calDue := true, drift := true })
  escalate { row := 26, obj := n, count := winCount s 26 0 n, l2 := true } s

/-- CALIBRATION_DUE (R260): 10 minutes after the last calibration (60,000 readings of 10 ms), on drift, after a lost lane; and
60 s later it is overdue. -/
def execCalibrationDue (strand : StrandId) (why : CalWhy) (s : State) : Host.Outcome State Fault Refusal :=
  .next (
    let t := s.strandAt strand
    if !inService s strand then s
    else match why with
      | .age => if s.opt.clock - t.calAt < 60000 then s else s.modStrand strand fun t => { t with calDue := true }
      | .lane => if t.lost.isEmpty && t.dropReq.isEmpty then s else s.modStrand strand fun t => { t with calDue := true }
      | .drift => if t.drift || !drifted t then s else driftFound strand s
      | .overdue => if t.calDue then s.modStrand strand fun t => { t with calOverdue := true } else s)

/-- R261: a margin of at least `t` tenths of a dB: the stage 3 code times 3.90625 nW, over 20 µW, is code / 5120. -/
def marginAtLeast (code : Nat) (t : Int) : Bool :=
  if 0 ≤ t then 5120 ^ 100 * 10 ^ t.toNat ≤ code ^ 100 else 5120 ^ 100 ≤ code ^ 100 * 10 ^ (-t).toNat

/-- R261: the receive margin of a stage 3 code in units of 0.1 dB, rounded down; no light has no margin in dB, so that
its value is open. -/
def marginOf (free code : Nat) : Int :=
  if code = 0 then signedOf 8 (Config.freeNat free)
  else (((List.range 483).map fun (i : Nat) => (111 : Int) - i).find? (marginAtLeast code)).getD (-371)

/-- R258, R271: the lanes of a drift that a calibration has not brought back. -/
def unrecovered (t : Strand) (new : Nat → Option Int) : List Nat :=
  t.rxMap.filter fun l =>
    match new l, tget t.baseline l with
    | some m, some b => decide (m ≤ b - 10)
    | _, _ => false

/-- R71: the latency of the parent link has been measured anew; a strand's samples are renewed. -/
def newLatency (n ns : Nat) (s : State) : State :=
  let old := (s.discAt n).latency
  let s := if tickStrand s 0 = some n then s.modFrm fun f => { f with latNew := f.latNew + ns - old } else s
  let s := if tickStrand s 1 = some n then s.modFrm fun f => { f with latNew2 := f.latNew2 + ns - old } else s
  s.modDisc n fun d => { d with latency := ns, samples := List.replicate 64 (20 * ns) }

/-- R258: the baselines that a calibration records. -/
def recordBaselines (free : Nat) (r : CalResult) (t : Strand) : Strand :=
  { t with baseline := r.margins.foldl (fun b x => tput b x.1.val (some (marginOf free x.2.toNat))) t.baseline,
           rxCode := r.margins.foldl (fun b x => tput b x.1.val x.2.toNat) t.rxCode, txFresh := true,
           stageBase := r.stages.foldl (fun b x => tput b (stageKey x.1.val x.2.1.val) x.2.2.toNat) t.stageBase }

/-- R271: three calibrations in an hour have not recovered a margin: the lanes are treated as lost. -/
def driftOutcome (n : Nat) (bad : List Nat) (s : State) : State :=
  if bad.isEmpty then s
  else
    let s := winBump 26 1 n s
    if winCount s 26 1 n < 3 then s
    else escalate { row := 26, obj := n, count := winCount s 26 0 n, l3 := true } (loseAllRx n bad s)

/-- R258, R260, R271: a calibration in which every lane passed. -/
def calibrationPassed (n : Nat) (r : CalResult) (s : State) : State :=
  let t := s.strandAt n
  let new := fun l => (r.margins.find? fun x => x.1.val == l).map fun x => marginOf s.free x.2.toNat
  let bad := unrecovered t new
  let s := s.drawFree.modStrand n (recordBaselines s.free r)
  let s := s.modStrand n fun t => { t with calDue := false, calOverdue := false, calAt := s.opt.clock, drift := false }
  if t.drift then driftOutcome n bad s else s

/-- R267, R271: lost lanes that pass again may be restored; the others stay dropped. -/
def judgeLost (n : Nat) (pass : List Nat) (s : State) : State :=
  let left := (s.strandAt n).lost.filter fun l => !pass.contains l && !(s.strandAt n).stay.contains l
  let s := s.modStrand n fun t =>
    { t with passed := t.lost.filter fun l => pass.contains l && !t.stay.contains l, stay := t.stay ++ left }
  if left.isEmpty then s else escalate { row := 25, obj := n, count := winCount s 25 0 n, l3 := true } s

/-- CALIBRATION_COMPLETE (R258): a lane that fails its check is lost, and the calibration has failed; the second failure
within 24 hours leaves the failing lanes dropped (R271). -/
def calibrationDone (n : Nat) (r : CalResult) (s : State) : State :=
  let tx := r.txFail.map (·.val)
  let rx := r.rxFail.map (·.val)
  let s := retuneAll n r.codes s
  let s := match r.latency with
    | some v => newLatency n v.toNat s
    | none => s
  let s := judgeLost n (r.regained.map (·.val)) s
  if tx.isEmpty && rx.isEmpty then calibrationPassed n r s
  else
    let s := loseAllRx n rx (dropAllTx n false tx (calibrationFailed n s))
    if winCount s 27 0 n < 2 then s
    else s.modStrand n fun t => { t with stay := t.stay ++ tx.filter fun l => !t.stay.contains l }

/-- CALIBRATION_COMPLETE (R258). -/
def execCalibrationComplete (r : CalResult) (s : State) : Host.Outcome State Fault Refusal :=
  .next (
    match s.opt.cal with
    | none => s
    | some j =>
      if !j.accepted then s
      else if j.cal then calibrationDone j.strand r (endCalibration s) else endCalibration s)

/-! ### Margins -/

/-- R263: the signed byte of a margin; one that does not fit the byte is open. -/
def marginByte (free : Nat) : Option Int → Byte
  | none => 0x80
  | some m => if -127 ≤ m && m ≤ 127 then BitVec.ofInt 8 m else BitVec.ofNat 8 (Config.freeNat free)

/-- R263: a margin report of a strand's receive lanes. -/
def sendReport (n : Nat) (s : State) : State :=
  let t := s.strandAt n
  sendControl n (laneMsgBytes 3 false [] 0 ((List.range 9).map fun l => marginByte s.free (tget t.rxMargin l))) s

/-- R261, R268: a 10 ms reading of a receive lane. -/
def takeReading (x : Nat × Nat × Nat) (s : State) : State :=
  let m := marginOf s.free x.2.2
  (s.drawFree.modOpt fun o => { o with reading := tput o.reading ((3 * 64 + x.1) * 16 + x.2.1) x.2.2 }).modStrand x.1 fun t =>
    { t with rxMargin := tput t.rxMargin x.2.1 (some m), rxLast := tput t.rxLast x.2.1 ((m :: tget t.rxLast x.2.1).take 10) }

/-- R261: readings in order. -/
def takeReadingsOf : List (Nat × Nat × Nat) → State → State
  | [], s => s
  | x :: xs, s => takeReadingsOf xs (takeReading x s)

/-- R268: the bank margin of a wavelength, 0.01 dB. -/
def bankMargin (s : State) (b w : Nat) : Option Int :=
  medianOf ((bankStrands s b).filterMap fun n =>
    if !(s.strandAt n).txUnknown then tget (s.strandAt n).txMargin w else none)

/-- R268, R269, R271: a fade is confirmed: laser 8 is brought in, or the lane is dropped at a frame boundary. -/
def confirmFade (b w : Nat) (s : State) : State :=
  let s := modLaser b w (fun l => { l with faded := true }) s
  let spare := w < 8 && spareFree s b
  let s := escalate
    { row := 28, obj := laserObject b w, l2 := true, l3 := true, l4 := !spare && 6 ≤ deadLasers s b, done := spare } s
  if spare then startSwap b w s else dropLaneAtFrame w (bankSends s b) s

/-- R268: the bank margin of a lit laser's wavelength is recomputed; 100 consecutive readings below 1.5 dB confirm its
fade. -/
def judgeMargin (b w : Nat) (s : State) : State :=
  let m := bankMargin s b w
  let l := laserAt s b w
  let low := if (m.map fun v => decide (v < 150)).getD false && isLit l then min (l.low + 1) 100 else 0
  let s := modLaser b w (fun l => { l with margin := m, low := low }) s
  if low = 100 && !l.faded then confirmFade b w s else s

/-- R268: every wavelength of both banks. -/
def judgeMargins : List (Nat × Nat) → State → State
  | [], s => s
  | x :: xs, s => judgeMargins xs (judgeMargin x.1 x.2 s)

/-- The wavelengths of both banks. -/
def wavelengths : List (Nat × Nat) :=
  (List.range 18).map fun i => (i / 9, i % 9)

/-- R263: a report on every strand in service. -/
def sendReports (s : State) : State :=
  ((List.range 64).filter (inService s)).foldl (fun s n => sendReport n s) s.drawFree

/-- MARGIN_READING (R263, R268): every 10 ms the receive margins are read (strand, lane, stage 3 code), reports are sent,
and the bank margins judged. -/
def execMarginReading (readings : List (Nat × Nat × Nat)) (s : State) : Host.Outcome State Fault Refusal :=
  .next (
    let s := s.modOpt fun o => { o with clock := o.clock + 1 }
    let s := takeReadingsOf (readings.filter fun x => x.1 < 64 && x.2.1 < 9 && x.2.2 < 65536) s
    judgeMargins wavelengths (sendReports s))

/-- R263: the margin that a report gives of a lane. -/
def reported (payload : List Byte) (l : Nat) : Option Int :=
  let v := fieldOf payload (12 + l) 1
  if v = 0x80 then none else some (signedOf 8 v)

/-- R260, R263: a report's margin of one lane is the latest of its last 10; the first after a calibration is its baseline
[DEDUCED 97]. -/
def takeReported (payload : List Byte) (t : Strand) (l : Nat) : Strand :=
  let m := reported payload l
  { t with txMargin := tput t.txMargin l m,
           txBase := if t.txFresh then tput t.txBase l m else t.txBase,
           txLast := match m with
             | some v => tput t.txLast l ((v :: tget t.txLast l).take 10)
             | none => t.txLast }

/-- MARGIN_REPORT (R263): the far end's margins of the transmit lanes. -/
def execMarginReport (strand : StrandId) (payload : List Byte) (s : State) : Host.Outcome State Fault Refusal :=
  .next (s.modStrand strand fun t =>
    { (List.range 9).foldl (takeReported payload) t with txUnknown := false, txFresh := false })

/-- MARGIN_REPORT_TIMEOUT (R263). -/
def execMarginReportTimeout (strand : StrandId) (s : State) : Host.Outcome State Fault Refusal :=
  .next (s.modStrand strand fun t => { t with txUnknown := true })

/-! ### The spare wavelength -/

/-- LASER8_LOCKED (R268): within 20 ms laser 8 has reached its target and locked, and L8 is trained strand by strand; a
laser that has not is a failed one. -/
def execLaser8Locked (bank : BankId) (ok : Bool) (s : State) : Host.Outcome State Fault Refusal :=
  .next (
    if (s.bankAt bank).swap ≠ .warming then s
    else if !ok then laserFailed bank 8 s
    else
      let s := modLaser bank 8 (fun l => { l with st := .lit }) s
      let s := s.modBank bank fun k => { k with swap := .training }
      advanceSwap bank ((bankStrands s bank).foldl (fun s n => s.modStrand n fun t => { t with trainDue := true }) s))

/-- R268 step 3: L8 is trained on a strand, whose sender copies the fading lane's position onto it; a strand that no longer
carries the lane has nothing to compare. -/
def trainedHere (n : Nat) (s : State) : State :=
  let b := bankOfStrand n
  let carries := match (s.bankAt b).spareFor with
    | some w => (txPending (s.strandAt n)).contains w
    | none => false
  advanceSwap b (s.modStrand n fun t =>
    { t with mirror := if carries then .trained else .verified, trainDue := false })

/-- L8_TRAINED (R268): of this device's own L8; or at the far end of one, with the receive lane found equal to it in 1,024
blocks, which is reported. -/
def execL8Trained (strand : StrandId) (mirrored : Option LaneId) (s : State) : Host.Outcome State Fault Refusal :=
  .next (
    match s.opt.cal with
    | none => s
    | some j =>
      if j.strand ≠ strand.val || !j.accepted then s
      else
        let s := match mirrored with
          | some l => sendControl strand (laneMsgBytes 4 false [] 0 noMargins)
              (s.modStrand strand fun t => { t with rxMirror := some l.val })
          | none => s
        let s := if j.train then trainedHere strand s else s
        if j.cal then s.modOpt fun o => { o with cal := some { j with train := false } } else endCalibration s)

/-- MIRROR_VERIFIED (R268). -/
def execMirrorVerified (strand : StrandId) (s : State) : Host.Outcome State Fault Refusal :=
  .next (
    if (s.strandAt strand).mirror = .trained then
      advanceSwap (bankOfStrand strand) (s.modStrand strand fun t => { t with mirror := .verified })
    else s)

/-- MIRROR_TIMEOUT (R268): no report within 100 ms: trained again in the next period. -/
def execMirrorTimeout (strand : StrandId) (s : State) : Host.Outcome State Fault Refusal :=
  .next (
    if (s.strandAt strand).mirror = .trained then
      advanceSwap (bankOfStrand strand) (s.modStrand strand fun t => { t with mirror := .untrained, trainDue := true })
    else s)

/-- R268 step 4, R269: one strand moves the position to L8, or regains a lane with it. -/
def swapStrand (w n : Nat) (s : State) : State :=
  let m := txPending (s.strandAt n)
  let s := s.modStrand n fun t => { t with mirror := .untrained, lost := t.lost.filter (· != w), stay := t.stay.filter (· != w) }
  if m.contains 8 then s
  else if m.contains w then mapAtOnce n (m.map fun l => if l = w then 8 else l) s
  else if m.length < 8 then mapAtOnce n (m ++ [8]) s
  else s

/-- R268 step 4: every strand of the bank. -/
def swapStrands (w : Nat) : List Nat → State → State
  | [], s => s
  | n :: ns, s => swapStrands w ns (swapStrand w n s)

/-- SPARE_SWAP (R268 steps 4 and 5): at the start of a frame with the microsecond asked for, or with no domain. -/
def execSpareSwap (bank : BankId) (s : State) : Host.Outcome State Fault Refusal :=
  .next (
    match (s.bankAt bank).swap, (s.bankAt bank).spareFor with
    | .pending, some w =>
      if s.frm.role ≠ .none && s.frm.cur.stretch = 0 then s
      else
        let s := swapStrands w (bankSends s bank) s
        let s := modLaser bank w (fun l => { l with st := if l.st = .failed then .failed else .retired }) s
        let s := (s.modBank bank fun k => { k with swap := .inService }).modOpt fun o => { o with swapDone := true }
        postEvent 0x06 .sSpareWavelength (laserObject bank w) none (levelData 3 28 0) s
    | _, _ => s)

/-! ### Monitors and laser.status -/

/-- R272: a write of OPT_MON_SEL: its RW fields, and with GO a reading. -/
def monSelWrite (v : Nat) (s : State) : State :=
  s.modOpt fun o =>
    let x : MonSel := { integ := bitsOf v 15 14, stage := bitsOf v 13 12, strand := bitsOf v 9 4, lane := bitsOf v 3 0 }
    if v.testBit 31 && x.integ ≠ 3 then { o with monSel := x, monRun := some x, monValid := false }
    else { o with monSel := x }

/-- OPT_MON_GO (R272). -/
def execOptMonGo (value : Word) (s : State) : Host.Outcome State Fault Refusal :=
  .next (if barUp s then monSelWrite value.toNat s else s)

/-- R262: the effective bits of a reading. -/
def monitorBits (integ : Nat) : Nat :=
  if integ = 0 then 6 else if integ = 1 then 9 else 11

/-- R266, R272: the baseline of a monitor: stage 0 belongs to a bank and stands with its first strand, stage 3 is the light
that arrives here. -/
def monitorBase (s : State) (x : MonSel) : Nat :=
  let n := if x.stage = 0 then 32 * (x.strand / 32) else x.strand
  if x.stage = 3 then tget (s.strandAt n).rxCode x.lane else tget (s.strandAt n).stageBase (stageKey x.stage x.lane)

/-- MONITOR_READING_DONE (R272): of the reading that the last GO started. -/
def execMonitorReadingDone (code : Half) (s : State) : Host.Outcome State Fault Refusal :=
  .next (
    match s.opt.monRun with
    | none => s
    | some x => s.modOpt fun o =>
      { o with monRun := none, monValid := true, monLow := below3dB code.toNat (monitorBase s x),
               monBits := monitorBits x.integ, monCode := code.toNat })

/-- R273: the number of a laser's state. -/
def LaserState.code : LaserState → Nat
  | .standby => 0 | .warming => 1 | .lit => 2 | .litAtMax => 3 | .failed => 4 | .retired => 5

/-- R273: one record. -/
def laserRecord (k : Bank) (w : Nat) : List Byte :=
  let l := vget k.laser w
  layoutBytes 16
    [(0, 1, w), (1, 1, l.st.code), (2, 1, if w = 8 then k.spareFor.getD 0xFF else 0xFF), (4, 2, l.drive), (6, 2, l.driveMax),
     (8, 2, l.power), (10, 2, (l.margin.map (unsignedOf 16)).getD 0x8000), (12, 4, l.hours)]

/-- R273: `laser.status`. -/
def laserStatus (m : Nat) (r : MbxReq) (s : State) : State :=
  let b := fieldOf r.params 0 1
  let recs := fun b => (List.range 9).flatMap (laserRecord (s.bankAt b))
  if b = 0xFF then completeMbx m .sOk 0 (recs 0 ++ recs 1) s
  else if b < 2 then completeMbx m .sOk 0 (recs b) s
  else failMbx m .eCommand 0x10 s

/-- LASER_STATUS (R273). -/
def execLaserStatus (mbx : MbxId) (s : State) : Host.Outcome State Fault Refusal :=
  .next (casbomi 0x0058 mbx (laserStatus mbx) s)

end Sys2Proof.Machine
end

