-- ==== Sys2Proof/Machine/Testing.lean ====
section
/-!
DEFINITION. Chapter 17: the segments of the in-service test, the outcome of a unit's test, and the rows that its failures
count in (R372, R406-R411).
-/

namespace Sys2Proof.Machine

/-! ### Idle units -/

/-- R79: a spindle that no step of the frame in progress will still use, for `ns`. -/
def spindleIdle (s : State) (i ns : Nat) : Bool :=
  (vget s.spn i).busy.isNone && (windowFor s 0 ns || (frameFits s ns &&
    (frameSteps s).all fun k => s.frm.done.contains k || !((stepOf s k).map fun e => (stepSpindles e).contains i).getD false))

/-- R79: a vector-core group that no step of the frame in progress will still use, for `ns`. -/
def groupIdle (s : State) (die g ns : Nat) : Bool :=
  (tget (vget s.vec die).group g).isNone && (windowFor s 1 ns || (frameFits s ns &&
    (frameSteps s).all fun k => s.frm.done.contains k ||
      !((stepOf s k).map fun e => e.die == die && (stepGroups e).contains g).getD false))

/-- R407: every spindle and every group of a die is idle, for `ns`. -/
def dieIdle (s : State) (die ns : Nat) : Bool :=
  spindleIdle s (2 * die) ns && spindleIdle s (2 * die + 1) ns && (List.range 8).all fun g => groupIdle s die g ns

/-- R407: a strand that carries no traffic of this device. -/
def strandQuiet (s : State) (n : Nat) : Bool :=
  let l := s.linkAt n
  !present s n && l.own.isEmpty && l.cbuf.isEmpty && l.cut.isEmpty && l.pkt.isNone

/-- R407: a unit's test runs now: its hardware is idle, a channel is in no action, a strand is in a calibration period or has
no far end. -/
def unitFree (s : State) (kind die unit ns : Nat) : Bool :=
  match kind with
  | 0 => spindleIdle s (2 * die + unit) ns
  | 1 | 4 => groupIdle s die (unit / 8) ns
  | 2 => spindleIdle s (2 * die + (bankUnit unit).1) ns
  | 3 | 5 => dieIdle s die ns
  | 6 => windowFor s 2 ns && !actionPending s unit
  | _ => (match s.opt.cal with
          | some j => j.strand == unit && j.accepted
          | none => false) || strandQuiet s unit

/-- R408: the stretched or pause frame that an overdue unit asked for; the unit is not running a step. -/
def overdueTurn (s : State) (kind die unit : Nat) : Bool :=
  (s.unitAt (unitKey kind die unit)).overdue && kind < 6 && (0 < s.frm.cur.stretch || s.frm.pause) &&
    (match kind with
     | 0 => (vget s.spn (2 * die + unit)).busy.isNone
     | 2 => (vget s.spn (2 * die + (bankUnit unit).1)).busy.isNone
     | 1 | 4 => (tget (vget s.vec die).group (unit / 8)).isNone
     | _ => (List.range 8).all (fun g => (tget (vget s.vec die).group g).isNone) &&
         (vget s.spn (2 * die)).busy.isNone && (vget s.spn (2 * die + 1)).busy.isNone)

/-- R408: what two units' tests would both occupy: a spindle, a core, a die's store, a channel, a strand. -/
def testPlace (kind die unit : Nat) : Nat × Nat :=
  match kind with
  | 0 => (0, 2 * die + unit)
  | 2 => (0, 2 * die + (bankUnit unit).1)
  | 1 | 4 => (1, 64 * die + unit)
  | 3 | 5 => (2, die)
  | k => (k, unit)

/-- R408: how soon a unit is chosen: retests, then units of a running `test.schedule`, then those due longest, then by
KIND, die and number. -/
def testRank (s : State) (kind die unit : Nat) : Nat :=
  let u := s.unitAt (unitKey kind die unit)
  let cls := if u.retest then 0 else if hostWants s kind die unit then 1 else 2
  (cls * 2 ^ 17 + (2 ^ 17 - 1 - min u.hours (2 ^ 17 - 1))) * 2 ^ 32 + unitKey kind die unit

/-- R408: no other unit that is due in the same place goes first. -/
def isChosen (s : State) (kind die unit : Nat) : Bool :=
  s.tst.unit.all fun e =>
    let k := e.1 / 524288
    let d := e.1 / 65536 % 8
    let u := e.1 % 65536
    testPlace k d u != testPlace kind die unit || !unitIsDue s k d u || testRank s kind die unit ≤ testRank s k d u

/-! ### Outcomes -/

/-- R157, R372: a channel's loop-back has failed: a retrain is queued, and from the second failure on a pin repair is
needed. -/
def loopbackFailed (c : Nat) (s : State) : State :=
  let s := winBump 16 0 c s
  let n := winCount s 16 0 c
  if n < 2 then escalate { row := 16, obj := c, count := n, l2 := true } (queueAction c .retrain s)
  else needPinRepair 16 c n false true (queueAction c .retrain s)

/-- R271, R372: a strand's loop-back has failed at a lane. -/
def strandTestFailed (n lane dir : Nat) (s : State) : State :=
  let s := calibrationFailed n s
  if winCount s 27 0 n < 2 then s
  else if dir = 1 then loseRx n lane s else dropTx n lane false s

/-- R372, R406: a failure counts in the row of the unit tested. -/
def testFailed (kind die unit : Nat) (at_ : Nat × Nat) (s : State) : State :=
  match kind with
  | 0 => dpuFailed (2 * die + unit) at_.1 at_.2 s
  | 1 => corePatternFailed die unit s
  | 2 => bankCorrected (2 * die + (bankUnit unit).1) (bankUnit unit).2.1 (bankUnit unit).2.2 64 s
  | 3 => localCorrected die unit 64 s
  | 4 => coreEvents 9 die unit 2 s
  | 5 => rlcParity die at_.1 unit 16 false s
  | 6 => loopbackFailed unit s
  | _ => strandTestFailed unit at_.1 at_.2 s

/-- R108: SPN_TEST after a pattern test of a spindle's DPUs: HOURS counts from when every DPU last passed. -/
def noteSpindleTest (kind die unit : Nat) (pass : Bool) (s : State) : State :=
  match kind with
  | 0 => s.modSpn (2 * die + unit) fun p => { p with testHours := if pass then 0 else p.testHours, testPass := pass }
  | _ => s

/-- R411: a unit of a running `test.schedule` has been tested; the command completes with the last one. -/
def noteHostTest (key : Nat) (pass : Bool) (s : State) : State :=
  match s.tst.host with
  | none => s
  | some h =>
    if !(unitsKinds h.units).contains (key / 524288) || h.tested.contains key then s
    else
      let h := { h with tested := h.tested ++ [key], failing := h.failing + bit (!pass) }
      let s := (s.modTst fun t => { t with host := some h }).modMbx h.mbx fun b => { b with stepsDone := b.stepsDone + 1 }
      if h.tested.length < h.total then s
      else
        completeMbx h.mbx (if h.failing = 0 then .sOk else .eTestFailed) h.failing [] (s.modTst fun t => { t with host := none })

/-- R409, R412: a unit's test is complete. -/
def testDone (kind die unit : Nat) (bad : Option (Nat × Nat)) (s : State) : State :=
  let key := unitKey kind die unit
  let pass := bad.isNone
  let s := s.modUnit key fun _ => {}
  let s := s.modTst fun t =>
    { t with tested := vmod t.tested kind (· + 1), failed := if pass then t.failed else vmod t.failed kind (· + 1),
             fail := t.fail || !pass,
             last := if pass then t.last else { kind := kind, die := die, unit := unit, frame := s.frm.number } }
  let s := noteHostTest key pass (noteSpindleTest kind die unit pass s)
  match bad with
  | some p => testFailed kind die unit p s
  | none => s

/-- R407: the way of a cache that is tested is written back and invalidated. -/
def clearWay (die way : Nat) (s : State) : State :=
  (tkeys (s.rlcAt die).lines).foldl (fun s line =>
    if ((rlcLine s die line).map (·.way)) = some way then rlcEvict die line s else s) s

/-- R79, R407: how long this many segments or words of a unit's test take, in ns. -/
def segmentNs (s : State) (kind die unit count : Nat) : Nat :=
  ceilDiv (unitNs s kind die unit * min (max count 1) (unitTotal kind unit)) (unitTotal kind unit)

/-- R407: segments or words of a unit's test run. -/
def runSegment (kind die unit : Nat) (r : SegResult) (s : State) : State :=
  let key := unitKey kind die unit
  let s := if kind = 5 then clearWay die unit s else s
  let u := s.unitAt key
  let bad := u.bad <|> r.fail
  if unitTotal kind unit ≤ u.progress + max r.count 1 then testDone kind die unit bad s
  else s.modUnit key fun u => { u with progress := u.progress + max r.count 1, bad := bad }

/-- TEST_SEGMENT (R407). -/
def execTestSegment (unit : UnitId) (r : SegResult) (s : State) : Host.Outcome State Fault Refusal :=
  .next (
    let k := unit.kind.val
    if s.pkg.flyerRuns && s.pkg.devState != .failed && !s.hnk.stopped && unitIsDue s k unit.die unit.unit
        && (unitFree s k unit.die unit.unit (segmentNs s k unit.die unit.unit r.count) || overdueTurn s k unit.die unit.unit)
        && isChosen s k unit.die unit.unit then
      runSegment k unit.die unit.unit r s
    else s)

end Sys2Proof.Machine
end

