-- ==== Sys2Proof/Machine/Frames.lean ====
section
/-!
DEFINITION. Chapter 2: ticks and what they announce, the start of a frame, the hold point and its reply, how replies are
combined on their way to the whorl, the whorl's emission, and the standby's takeover (R47-R78).
-/

namespace Sys2Proof.Machine

/-! ### Ticks and replies on the wire -/

/-- R67: FLAGS of a tick. -/
def tickFlags (t : Tick) : Nat :=
  packBits [(0, 0, bit t.failPrev), (1, 1, bit t.stop), (2, 2, bit t.pause), (3, 3, bit t.det), (4, 4, bit t.rootStandby),
    (5, 5, bit t.start)]

/-- R67: the payload of a tick. -/
def tickBytes (t : Tick) : List Byte :=
  layoutBytes 32
    [(0, 6, t.frame), (6, 2, t.stretch), (8, 2, t.held), (10, 2, t.period), (12, 2, t.cfgEpoch), (14, 2, t.domain),
     (16, 1, tickFlags t), (17, 1, t.stopMode), (18, 6, t.n0), (24, 8, t.imageTag)]

/-- R67: the tick that a payload spells. -/
def tickOf (p : List Byte) : Tick :=
  let fl := fieldOf p 16 1
  { frame := fieldOf p 0 6, stretch := fieldOf p 6 2, held := fieldOf p 8 2, period := fieldOf p 10 2,
    cfgEpoch := fieldOf p 12 2, domain := fieldOf p 14 2, failPrev := fl.testBit 0, stop := fl.testBit 1,
    pause := fl.testBit 2, det := fl.testBit 3, rootStandby := fl.testBit 4, start := fl.testBit 5,
    stopMode := fieldOf p 17 1, n0 := fieldOf p 18 6, imageTag := fieldOf p 24 8 }

/-- R68: FLAGS of a reply. -/
def replyFlags (r : Reply) : Nat :=
  packBits [(0, 0, bit r.fail), (1, 1, bit r.supplement), (2, 2, bit r.pauseReq), (3, 3, bit r.notLocked),
    (4, 4, bit r.imageDiff), (5, 5, bit r.cfgReady), (6, 6, bit r.startRefused)]

/-- R68: the payload of a reply. -/
def replyBytes (r : Reply) : List Byte :=
  layoutBytes 24
    [(0, 6, r.frame), (6, 2, r.nextReq), (8, 2, r.hold), (10, 2, r.count), (12, 1, replyFlags r), (13, 1, r.cause),
     (16, 8, r.imageTag)]

/-- R68: the reply that a payload spells. -/
def replyOf (p : List Byte) : Reply :=
  let fl := fieldOf p 12 1
  { frame := fieldOf p 0 6, nextReq := fieldOf p 6 2, hold := fieldOf p 8 2, count := fieldOf p 10 2,
    fail := fl.testBit 0, supplement := fl.testBit 1, pauseReq := fl.testBit 2, notLocked := fl.testBit 3,
    imageDiff := fl.testBit 4, cfgReady := fl.testBit 5, startRefused := fl.testBit 6, cause := fieldOf p 13 1,
    imageTag := fieldOf p 16 8 }

/-- R66, R310: the child strands of a tree that carry its ticks now. -/
def tickChildren (s : State) (tree : Nat) : List Nat :=
  (matchedChildren s tree).filter fun n => !(s.discAt n).fresh

/-- R278: a tick goes out three times; the second and third copies have DUP set. -/
def sendTick (t : Tick) (n : Nat) (s : State) : State :=
  let b : Blk := { typ := 5, payload := fitBytes 256 (tickBytes t) }
  s.modLink n fun l => { l with ticks := l.ticks ++ [b, { b with dup := true }, { b with dup := true }] }

/-- A tick on every strand of a list. -/
def sendTicks (t : Tick) : List Nat → State → State
  | [], s => s
  | n :: ns, s => sendTicks t ns (sendTick t n s)

/-- R66, R72: the tree that a tick travels in. -/
def tickTree (t : Tick) : Nat :=
  bit t.rootStandby

/-- R68: a reply goes up on the strand that this device's ticks arrive on. -/
def sendReply (r : Reply) (s : State) : State :=
  match tickStrand s (tickTree s.frm.cur) with
  | some n => sendSequenced n 6 (replyBytes r) s
  | none => s

/-! ### Arrival of a tick -/

/-- The image held has this tag. -/
def holdsTag (s : State) (tag : Nat) : Bool :=
  (s.frm.image.map (·.tag)) == some tag

/-- R58, R320: the device holds the image with this tag and can take part in its program. -/
def takesPart (s : State) (tag : Nat) : Bool :=
  holdsTag s tag && s.pkg.devState != .failed

/-- R60: H_L exceeds the image's MAX_HOLD_LEAD. -/
def leadTooLong (s : State) : Bool :=
  (s.frm.image.map fun img => decide (img.hdr.maxHoldLead * 100 < s.frm.holdLead)).getD false

/-- R60, R107: a step of this device's rank uses a spindle that is withheld. -/
def usesWithheld (s : State) : Bool :=
  match s.frm.image, myRank s with
  | some img, some r =>
    (List.range img.hdr.frames).any fun i =>
      match tableEntry img r i with
      | none => false
      | some e => !e.idle && (List.range e.stepCount).any fun k =>
          match img.steps[e.firstStep + k]? with
          | none => false
          | some st => (stepSpindles st).any fun sp => (vget s.spn sp).withheld
  | _, _ => false

/-- R60: the first tick that announces a start is checked. The manual gives the events of SOURCE 0x02 no OBJECT; the model
writes 0xFFFFFFFF. [DC 68] -/
def checkStart (n0 tag : Nat) (s : State) : State :=
  let s := s.modFrm fun f => { f with ann := some { n0 := n0, tag := tag }, n0 := n0, refuses := false }
  if !takesPart s tag then s
  else
    let long := leadTooLong s
    let held := usesWithheld s
    let s := s.modFrm fun f => { f with prog := if f.prog = .loaded then .startPending else f.prog, refuses := long || held }
    let s := if long then postEvent 0x02 .eSlackShort 0xFFFFFFFF none [] s else s
    if held then postEvent 0x02 .eSpindleWithheld 0xFFFFFFFF none [] s else s

/-- R58, R60: what a tick says of an announced start; an image loaded since the first such tick is checked with the next
one. -/
def announced (t : Tick) (s : State) : State :=
  if t.start then
    if (s.frm.ann.map fun a => (a.n0, a.tag)) = some (t.n0, t.imageTag) && s.frm.prog != .loaded then s
    else checkStart t.n0 t.imageTag s
  else
    s.modFrm fun f =>
      { f with ann := none, refuses := false, prog := if f.prog = .startPending then .loaded else f.prog }

/-- R62, R77: the program stops: the device drains. -/
def beginDrain (s : State) : State :=
  let s := if s.frm.prog = .running then s.modFrm fun f => { f with prog := .draining, runFrame := false } else s
  if s.pkg.devState = .running ∨ s.pkg.devState = .deterministic then setDevState .draining s else s

/-- R75: the steps of the frame that ends have not all completed. -/
def frameOverran (s : State) : Bool :=
  (frameSteps s).any fun i => !s.frm.done.contains i

/-- R7, R75, R77, R297: frame `n` has failed, whatever made it fail here; its synchronisation packets are not resent, and no
relayed transfer of it stays open. -/
def frameFailed (n : Nat) (s : State) : State :=
  let s := undefWrites s.frm.writes s
  let s := s.modFrm fun f =>
    { f with failNum := n, failedFrame := true, writes := [], failStatus := none, overrun := f.overrun || frameOverran s }
  let s := buddyFail (dropChunks (fun _ => true) (s.modFab fun f => { f with syncOut := [], passing := [] }))
  beginDrain (endRows .eFrameFailed s)

/-- R47, R75, R77: a frame that ends with steps not complete has overrun: it is failed here, and since its reply has gone
without FAIL, the next reply carries it to the domain. [DEDUCED 69] -/
def noteOverrun (s : State) : State :=
  if frameOverran s then failFrame .eFrameOverrun (frameFailed s.frm.number s) else s

/-- R64: STOP: with SUSPEND the program can go on at its next frame index; with ABORT admitted commands end. -/
def stopProgram (mode : Nat) (s : State) : State :=
  let s := noteOverrun s
  let s := match s.frm.image with
    | some img =>
      if mode = 1 && s.frm.prog == .running then
        s.modFrm fun f => { f with suspended := some ((f.index + 1) % img.hdr.frames, img.tag) }
      else s
    | none => s
  beginDrain (if mode = 2 then endRows .ePreempted s else s)

/-- R62: a running device follows DET. -/
def followDet (det : Bool) (s : State) : State :=
  match s.pkg.devState, det with
  | .running, true => setDevState .deterministic s
  | .deterministic, false => setDevState .running s
  | _, _ => s

/-- R72: the first tick from the standby. -/
def noteTakeover (t : Tick) (s : State) : State :=
  if t.rootStandby && !s.frm.cur.rootStandby then s.modFrm fun f => { f with takeover := true, noStandby := true } else s

/-- R60, R62, R64, R70, R77: a tick has arrived, or has been emitted here: what it says takes effect, and its frame begins
after the alignment delay. -/
def tickArrives (t : Tick) (s : State) : State :=
  let s := noteTakeover t s
  let s := if t.failPrev then frameFailed (t.frame - 1) s else s
  let s := if t.stop then stopProgram t.stopMode s else s
  let s := announced t s
  (followDet t.det s).modFrm fun f => { f with next := some t }

/-- R70, R318: a tick whose frame has neither begun nor been received: the copies and replays of one are dropped. -/
def tickIsNew (s : State) (t : Tick) : Bool :=
  s.frm.next.isNone && (s.frm.cur.frame < t.frame || s.frm.cur == {})

/-- R66, R258, R317: a strand that gives ticks of this tree to a member or the standby. -/
def givesTicks (s : State) (n : Nat) (t : Tick) : Bool :=
  carriesTraffic s n && s.top.formed && s.frm.role != .none && s.frm.role != .whorl && tickStrand s (tickTree t) == some n &&
    (s.top.plan.map (·.domain)) == some t.domain

/-- TICK (R67, R278): relayed cut-through, then taken. -/
def execTick (strand : StrandId) (payload : List Byte) (s : State) : Host.Outcome State Fault Refusal :=
  .next (
    let t := tickOf payload
    if (s.discAt strand).st = .quarantined then s.modTop fun x => { x with discards := wrapInc 32 x.discards }
    else if givesTicks s strand t && tickIsNew s t then
      tickArrives t ((sendTicks t (tickChildren s (tickTree t)) s).modFrm fun f =>
        { f with nextLate := (s.linkAt strand).late })
    else s)

/-! ### The start of a frame -/

/-- R68, R77: a failure that the last reply carried is done with; a later one goes into the next reply. -/
def carryFail (s : State) : State :=
  s.modFrm fun f => { f with failStatus := if f.own.fail then none else f.failStatus }

/-- R309: strands are evaluated one by one. -/
def reevaluateAll : List Nat → State → State
  | [], s => s
  | n :: ns, s => reevaluateAll ns (reevaluate n s)

/-- R78, R298, R311: the staged tables and plan come into force. -/
def switchConfig (s : State) : State :=
  let s := s.modFab fun f => { f with tables := f.staged.getD f.tables, staged := none }
  let s := s.modTop fun x => { x with plan := if x.revision.isSome then x.revision else x.plan, revision := none }
  noteTickStrands (reevaluateAll (List.range 64) s)

/-- R343: what a frame that has ended leaves on its units: a step that overran is abandoned, the collectives' contexts are
freed, and what its operations still report concerns no step. -/
def clearUnits (s : State) : State :=
  { s with
    spn := s.spn.map fun p => rampEnded (leaveSpindle p)
    vec := s.vec.map fun v => { v with group := [], plies := [], ended := [] }
    skn := { s.skn with ctx := [] }
    fab := { s.fab with op := tmap s.fab.op fun o => o.map fun p =>
      match p.client with
      | .step _ => { p with client := .fabric }
      | _ => p } }

/-- R134: the scrub of a local store bank rewrites its corrected words. -/
def scrubWords (s : State) : Vis :=
  { s.vis with words := s.vis.words.filter fun e =>
      let (d, b) := wordPlace s e.1
      !(e.2 == 1 && (vget s.vec d).scrubDue.contains b) }

/-- R102, R107, R134: bank scrubs that wait for a window run. -/
def scrubs (s : State) : State :=
  { s with
    spn := if windowFor s 0 0 then s.spn.map fun p => { p with scrubDue := [] } else s.spn
    vec := if windowFor s 1 0 then s.vec.map fun v => { v with scrubDue := [] } else s.vec
    vis := if windowFor s 1 0 then scrubWords s else s.vis }

/-- R71: L(d) in force moves by at most 1 ns. -/
def stepLatency (l target : Nat) : Nat :=
  if l < target then l + 1 else if target < l then l - 1 else l

/-- R58, R102, R327: a fresh start clears what a program left. -/
def freshStart (s : State) : State :=
  { s with
    spn := s.spn.map fun p => { p with acc := [] }
    skn := { s.skn with seq := [], abortedSeq := [], lastServed := [] }
    frm := { s.frm with released := [], acquired := [], past := [], suspended := none } }

/-- R58, R64: the frame index with which a start on this device begins: the suspended program's next one where it resumes.
No field of a tick says RESUME, so a member whose program is suspended, and whose image has not been loaded anew since,
resumes. [DC 70] -/
def startIndex (s : State) (tag : Nat) : Option Nat :=
  match s.frm.suspended with
  | some (i, t) => if t = tag && (s.frm.role != .whorl || s.frm.wResume) then some i else none
  | none => none

/-- R58: the tick of this frame starts the program that this device holds. -/
def startsHere (t : Tick) (s : State) : Bool :=
  t.start && t.frame == t.n0 && !t.failPrev && !t.stop && takesPart s t.imageTag && s.frm.prog == .startPending

/-- R58, R61, R62: the program begins; in a pause frame its first index waits for the next frame. -/
def startProgram (t : Tick) (s : State) : State :=
  let r := startIndex s t.imageTag
  let i := r.getD 0
  let n := (s.frm.image.map (·.hdr.frames)).getD 1
  let s := if r.isSome then s.modFrm fun f => { f with suspended := none } else freshStart s
  let s := s.modFrm fun f =>
    { f with prog := .running, runFrame := true, index := if t.pause then (i + n - 1) % n else i, ann := none,
             refuses := false }
  if s.pkg.devState = .ready then setDevState .running s else s

/-- R174: how far back the program's FRAME_DELTAs reach. -/
def deltaReach (s : State) : Nat :=
  (s.frm.image.map fun img => (img.syncs.map (·.delta)).foldl max 0).getD 0

/-- R61, R174: a non-pause frame of the program begins: it is noted, and what no pair reaches any more is forgotten. -/
def notePast (s : State) : State :=
  s.modFrm fun f =>
    let past := (f.number :: f.past).take (deltaReach s + 1)
    { f with past := past, released := f.released.filter fun p => past.contains p.2 || f.number < p.2 }

/-- R61: the frame index of the frame that begins. -/
def advanceIndex (t : Tick) (s : State) : State :=
  if startsHere t s then
    let s := startProgram t s
    if t.pause then s else notePast s
  else if s.frm.prog == .running && s.frm.runFrame && !t.pause then
    let n := (s.frm.image.map (·.hdr.frames)).getD 1
    notePast (s.modFrm fun f => { f with index := (f.index + 1) % n })
  else s

/-- R58: a device that has not begun a start with its tick has no start pending. -/
def missStart (t : Tick) (s : State) : State :=
  if t.start && t.frame == t.n0 && s.frm.prog == .startPending then
    s.modFrm fun f => { f with prog := .loaded, ann := none, refuses := false }
  else s

/-- R287, R295: what the fabric counts in frames. -/
def fabricFrame (s : State) : State :=
  let s := s.modFab fun f =>
    { f with
      tx := tmap f.tx fun o => o.map fun m => { m with frames := m.frames + 1 }
      rx := tmap f.rx fun o => o.map fun m => { m with frames := m.frames + 1 }
      relayedOld := f.relayed
      relayed := []
      link := tmap f.link fun l => { l with slot := none, inSlot := [] } }
  s.modTop fun x => { x with disc := tmap x.disc fun d => { d with fresh := false } }

/-- R67, R82: the fields of the frame that begins. -/
def enterFrame (t : Tick) (skew : Half) (s : State) : State :=
  s.modFrm fun f =>
    { f with
      cur := t, next := none, number := t.frame, stretch := t.stretch, held := t.held, period := t.period,
      pause := t.pause, det := t.det, cfgEpoch := t.cfgEpoch
      cntStretch := if t.stretch = 0 then f.cntStretch else wrapInc 16 f.cntStretch
      cntHeld := if t.held = 0 then f.cntHeld else wrapInc 16 f.cntHeld
      skew := skew.toNat
      locked := decide ((signedOf 16 skew.toNat).natAbs ≤ 250) && !f.nextLate, nextLate := false
      latL := stepLatency f.latL f.latNew, latL2 := stepLatency f.latL2 f.latNew2
      done := [], ran := [], barriered := [], acquired := [], stepFail := [], writes := [], replied := false,
      supplemented := false, own := {}, kids := [], supp := none, forwarded := false }

/-- FRAME_BEGIN (R47): the compensated copy of the tick arrives, with the skew against the parent's tick (R70). -/
def frameBegin (skew : Half) (t : Tick) (s : State) : State :=
  let s := noteOverrun (carryFail s)
  let epoch := s.frm.cfgEpoch
  let s := forgetSpill (fun c => match c with | .step _ => true | _ => false) (clearUnits (enterFrame t skew s))
  let s := if t.cfgEpoch ≠ epoch then switchConfig s else s
  let s := missStart t (advanceIndex t s)
  let s := lanesAtFrame (fabricFrame s)
  let runs := s.frm.prog == .running && s.frm.runFrame && !t.pause
  let s := if runs then captureRows (hintFrame (buddyFrame s)) else s
  scrubs (snapFrame (powerFrame s))

/-- FRAME_BEGIN (R47). -/
def execFrameBegin (skew : Half) (s : State) : Host.Outcome State Fault Refusal :=
  .next (
    match s.frm.next with
    | some t => frameBegin skew t s
    | none => s)

/-! ### The hold point -/

/-- R50, R353: the projected critical path of a frame on a die at a step, in ns: the slower of its two clocks governs, and
throttle pauses lengthen it by 16 over the duty. -/
def dieProjection (budgetOp step : Nat) (e : FrameEntry) : Nat :=
  let m := ceilDiv (e.cClk * matrixMhz budgetOp * 16) (matrixMhz (stepOp step) * stepDuty step)
  let v := ceilDiv (e.cClk * vectorMhz budgetOp * 16) (vectorMhz (stepOp step) * stepDuty step)
  e.cFix + max m v

/-- R50: the worst compute die governs. -/
def projection (budgetOp : Nat) (stepAt : Nat → Nat) (e : FrameEntry) : Nat :=
  if e.idle then 0
  else ((List.range 4).map fun i => dieProjection budgetOp (stepAt i) e).foldl max 0

/-- R354: the step that a die will run in the next frame. -/
def nextStep (s : State) (i : Nat) : Nat :=
  (s.pwrDieAt i).next.getD (s.pwrDieAt i).step

/-- R58: the start that the next frame begins on this device. -/
def startsNext (s : State) : Bool :=
  s.frm.prog == .startPending && (s.frm.ann.map (·.n0)) == some (s.frm.number + 1)

/-- R61: the frame index that the next frame has, unless it is a pause frame. -/
def nextIndex (s : State) : Option Nat :=
  match s.frm.image with
  | none => none
  | some img =>
    if startsNext s then some ((startIndex s img.tag).getD 0)
    else if s.frm.prog == .running && s.frm.runFrame then some ((s.frm.index + 1) % img.hdr.frames)
    else none

/-- R50: the projected critical path of the next frame, with the dies at given steps; 0 without a program. -/
def nextPath (s : State) (stepAt : Nat → Nat) : Nat :=
  match s.frm.image, myRank s, nextIndex s with
  | some img, some r, some i => ((tableEntry img r i).map (projection img.hdr.budgetOp stepAt)).getD 0
  | _, _, _ => 0

/-- R48: the period of the next frame, µs: a started program's own, and 50 µs after a drain frame. -/
def nextPeriod (s : State) : Nat :=
  if startsNext s then (s.frm.image.map (·.hdr.periodUs)).getD s.frm.period
  else if s.frm.cur.stop || s.frm.cur.failPrev then 50
  else s.frm.period

/-- ns rounded up to µs. -/
def ceilUs (ns : Nat) : Nat :=
  ceilDiv ns 1000

/-- R76: what an event asks of the next frame: its time in ns, its CAUSE bits, and whether it needs a pause frame. -/
structure Delay where
  ns : Nat := 0
  cause : Nat := 0
  pause : Bool := false
  deriving DecidableEq, Repr, Inhabited

/-- R75: an event of `ns`; above the period it needs a pause frame, which is stretched as it needs. -/
def delayOf (p ns cause : Nat) : Delay :=
  { ns := min ns (1000 * p), cause := cause, pause := 1000 * p < ns }

/-- R44, R76: queued die-to-die retrains. -/
def retrainDelay (s : State) (p : Nat) : Delay :=
  if s.pkg.d2d.any fun e => e.2.queued then delayOf p 10000 4 else {}

/-- R76, R154: the head of the channel queue; at most one action starts per frame. -/
def channelDelay (s : State) (p : Nat) : Delay :=
  if s.hnk.queue.isEmpty || s.hnk.active.isSome || s.hnk.stopped then {} else delayOf p 20000 4

/-- R259, R260: a strand is more than 60 s overdue, and has a neighbour. -/
def calDelay (s : State) (p : Nat) : Delay :=
  if s.opt.cal.isNone && s.opt.strand.any (fun e => e.2.calOverdue && present s e.1) then
    delayOf p (if hasFeature s 12 then 6000 else 12000) 0x20
  else {}

/-- R79, R408: the remaining segments of an overdue unit, at most P; a whole test that does not fit asks for a pause frame. -/
def testDelay (s : State) (p : Nat) : Delay :=
  match overdueUnit s with
  | none => {}
  | some (kind, die, unit) =>
    let left := unitLeftNs s kind die unit
    { ns := min left (1000 * p), cause := 0x40, pause := 6 ≤ kind && 1000 * p < left }

/-- R375, R376: a snapshot that waits for its consistent point, or copies, needs pause frames. -/
def snapDelay (s : State) : Delay :=
  { pause := s.res.job.isSome }

/-- R76: the events that the next frame is to carry. -/
def knownDelays (s : State) (p : Nat) : List Delay :=
  let always := [{ ns := 1000 * s.frm.planned }, { pause := s.frm.pauseWanted }]
  if noProgram s then always
  else always ++ [retrainDelay s p, channelDelay s p, calDelay s p, testDelay s p, snapDelay s]

/-- R73: the request for the next frame in µs, before the cap. -/
def requestFor (s : State) (stepAt : Nat → Nat) (delays : Nat) : Nat :=
  ceilUs (nextPath s stepAt + delays - (1000 * nextPeriod s - s.frm.holdLead))

/-- R76: what has been asked for once a reply is sent: the retrains and the action may start, the snapshot waits for its
pause frame, and the tests have had a frame stretched. -/
def markAsked (s : State) (p : Nat) : State :=
  if noProgram s then s
  else
    let ch := channelDelay s p
    let s := s.modPkg fun x => { x with d2d := tmap x.d2d fun l => { l with asked := l.queued } }
    let s := s.modHnk fun h => { h with asked := h.asked || (0 < ch.ns && !ch.pause) }
    let s := s.modTst fun t => { t with stretched := t.stretched || 0 < (testDelay s p).ns }
    s.modRes fun r => { r with job := r.job.map fun j => { j with asked := true } }

/-- R298: a change alters a reservation number's entries. -/
def resvChanges (s : State) (t : Tables) (resv : Nat) : Bool :=
  (t.resvs.filter fun e => e.resv == resv) != (s.fab.tables.resvs.filter fun e => e.resv == resv) ||
    (t.transits.filter fun e => e.resv == resv) != (s.fab.tables.transits.filter fun e => e.resv == resv)

/-- R298: traffic that a change affects has not drained. -/
def notDrained (s : State) (t : Tables) : Bool :=
  (s.fab.tx.any fun e => !(unstarted s).contains e.1 && (e.2.map fun m => routeChanges s t m.dest).getD false) ||
    (s.fab.syncOut.any fun y => routeChanges s t y.dest) ||
    (s.fab.link.any fun e => (e.2.cbuf ++ e.2.cut ++ e.2.own).any fun b => resvChanges s t b.1) ||
    (s.fab.rest.any fun r => resvChanges s t r.resv) ||
    (s.fab.passing.any fun e => resvChanges s t (e.2 / 256 % 256)) ||
    (s.fab.rxXfer.any fun e => e.2.isSome && resvChanges s t (e.1 / 256 % 256)) ||
    (s.fab.txXfer.any fun e => e.2.isSome && resvChanges s t (e.1 / 256))

/-- R298: the running image uses a reservation that a change alters. -/
def imageUses (s : State) (t : Tables) : Bool :=
  (s.frm.prog == .running || s.frm.prog == .startPending || s.frm.prog == .draining) &&
    ((s.frm.image.map fun img => img.circuits.any fun c => resvChanges s t c.resv).getD false)

/-- R78, R298: a staged configuration for which CFG_READY is withheld. -/
def configHeld (s : State) : Bool :=
  match s.fab.staged with
  | some t => notDrained s t || imageUses s t
  | none => false

/-- R58, R68: this device does not run, or will not start, the domain's program. -/
def imageDiffers (s : State) : Bool :=
  s.frm.cur.imageTag != 0 && !takesPart s s.frm.cur.imageTag

/-- R68: the tag of the image that the device runs; zero where none runs. -/
def runningTag (s : State) : Nat :=
  if s.frm.prog == .running || s.frm.prog == .draining then (s.frm.image.map (·.tag)).getD 0 else 0

/-- R70, R278, R314: the device cannot hold its frame start. -/
def notLocked (s : State) : Bool :=
  !s.frm.locked || s.top.tooFar

/-- R73, R75: the hold that a finish asks for, in µs, before the cap. -/
def holdFor (s : State) (finishNs : Nat) : Nat :=
  ceilUs (finishNs + s.frm.holdLead - 1000 * (s.frm.period + s.frm.stretch))

/-- R74: the largest HOLD of this frame. -/
def holdCap (s : State) : Nat :=
  s.frm.period - s.frm.stretch

/-- R73, R76: the stalls in progress at the hold point, each at its maximum: relocks 50 µs, the action on a channel 20 µs,
retrains of die-to-die links 10 µs. [DC 71] -/
def stallNs (s : State) : Nat :=
  (if s.pkg.relocking = 0 then 0 else 50000) + (if s.hnk.active.isSome then 20000 else 0) +
    (if s.pkg.d2d.any fun e => e.2.retraining then 10000 else 0)

/-- R68, R73: the CAUSE bits of those stalls. -/
def stallCause (s : State) : Nat :=
  (if s.pkg.relocking = 0 then 0 else 0x08) |||
    (if s.hnk.active.isSome || s.pkg.d2d.any fun e => e.2.retraining then 0x04 else 0)

/-- R76: CAUSE of a hold: the stalls in progress and the events that noted themselves, else bit 7. -/
def holdCause (s : State) (hold : Nat) : Nat :=
  if hold = 0 then 0
  else if stallCause s = 0 && s.frm.plannedCause % 16 / 2 = 0 then 0x80 else stallCause s

/-- R73, R76: CAUSE bit 0: the request is larger than at the highest step. -/
def stepCause (s : State) (delays : Nat) : Nat :=
  let req := requestFor s (nextStep s) delays
  if 0 < req && requestFor s (fun _ => 19) delays < req then 1 else 0

/-- R68, R73, R75-R77: this device's reply for the frame in progress; `finishNs` is the projected finish of the frame's
work, stalls still in progress included, and `nextNs` what else is known to delay the next frame. -/
def replyFor (s : State) (finishNs nextNs : Nat) : Reply :=
  let p := nextPeriod s
  let ds := knownDelays s p
  let delays := nextNs + (ds.map (·.ns)).sum
  let req := requestFor s (nextStep s) delays
  let hold := holdFor s finishNs
  { frame := s.frm.number
    nextReq := min req p
    hold := min hold (holdCap s)
    count := 1
    fail := s.frm.failStatus.isSome || decide (holdCap s < hold)
    pauseReq := decide (1000 * p < delays) || ds.any (·.pause)
    notLocked := notLocked s
    imageDiff := imageDiffers s
    cfgReady := s.fab.staged.isSome && !configHeld s
    startRefused := s.frm.refuses
    cause := s.frm.plannedCause ||| ds.foldl (fun c d => c ||| d.cause) 0 ||| holdCause s hold ||| stepCause s delays
    imageTag := runningTag s }

/-- R82: the slack of the frame in progress is noted, with the critical path projected at the dies' present steps; a slack
below zero is noted as 0. [DC 72] -/
def noteSlack (s : State) : State :=
  match runningImage s, frameEntry s with
  | some img, some e =>
    let path := projection img.hdr.budgetOp (fun i => (s.pwrDieAt i).step) e
    s.modFrm fun f => { f with slackMin := min f.slackMin (1000 * f.period - f.holdLead - path) }
  | _, _ => s

/-- R204: rows are admitted into the next non-pause frame of the program. -/
def admitNext (s : State) : State :=
  match s.frm.image, myRank s, nextIndex s with
  | some img, some r, some i => if s.frm.pause && !startsNext s then noRows s else admission img r i s
  | _, _, _ => noRows s

/-- R68: replies that a relay or the whorl has received for the frame, combined with its own. -/
def combine (own : Reply) (r : Reply) : Reply :=
  { own with
    nextReq := max own.nextReq r.nextReq
    hold := max own.hold r.hold
    count := own.count + r.count
    fail := own.fail || r.fail
    pauseReq := own.pauseReq || r.pauseReq
    notLocked := own.notLocked || r.notLocked
    imageDiff := own.imageDiff || r.imageDiff || r.imageTag != own.imageTag
    cfgReady := own.cfgReady && r.cfgReady
    startRefused := own.startRefused || r.startRefused
    cause := own.cause ||| r.cause }

/-- R68: the combined reply. -/
def combined (s : State) : Reply :=
  s.frm.kids.foldl (fun a e =>
    match e.2 with
    | some r => combine a r
    | none => a) s.frm.own

/-- R68: every child has replied. -/
def allReplied (s : State) : Bool :=
  (tickChildren s (tickTree s.frm.cur)).all fun n => (tget s.frm.kids n).isSome

/-- R68: the combined reply goes up, once; the whorl keeps it. -/
def forward (s : State) : State :=
  if s.frm.forwarded || !s.frm.replied || s.frm.role = .whorl then s
  else sendReply (combined s) (s.modFrm fun f => { f with forwarded := true })

/-- R60: the whorl learns that a device refuses the start. -/
def cancelStart (s : State) : State :=
  if s.frm.role = .whorl && s.frm.wStart.isSome then
    postEvent 0x02 .eStartRefused 0xFFFFFFFF none [] (s.modFrm fun f => { f with wStart := none })
  else s

/-- HOLD_POINT (R68): admission and the hold lead's work on the row table, the log record, and the reply; `workNs` is the
projected finish of the frame's work without the stalls that are still in progress. -/
def holdPoint (workNs nextNs : Nat) (s : State) : State :=
  let finishNs := workNs + stallNs s
  let s := stageLog (holdLeadRows (admitNext (setDownDue (noteSlack s))))
  let hold := holdFor s finishNs
  let s := if holdCap s < hold then failFrame .eFrameOverrun (s.modFrm fun f => { f with overrun := true }) else s
  let r := replyFor s finishNs nextNs
  let s := markAsked s (nextPeriod s)
  let s := s.modFrm fun f =>
    { f with own := r, replied := true, reqHold := r.hold, reqNext := r.nextReq, cause := r.cause, cfgHeld := configHeld s,
             planned := 0, plannedCause := 0, pauseWanted := false }
  let s := if r.startRefused then cancelStart s else s
  if allReplied s then forward s else s

/-- HOLD_POINT (R68): a device of a formed domain replies once for each frame. -/
def execHoldPoint (finishNs nextNs : Nat) (s : State) : Host.Outcome State Fault Refusal :=
  .next (if s.top.formed && s.frm.role != .none && !s.frm.replied && s.frm.next.isNone then holdPoint finishNs nextNs s
         else s)

/-! ### Replies on their way -/

/-- R68: a supplementary reply or another one that this device has received or sent for the frame has CFG_READY. -/
def anyReady (s : State) : Bool :=
  s.frm.own.cfgReady || s.frm.kids.any fun e => (e.2.map (·.cfgReady)).getD false

/-- R68: a relay's supplementary reply: the largest HOLD and all flags and causes of the frame so far; its NEXT_REQ, of which
the manual says nothing, is 0. [DC 73] -/
def supplement (s : State) (r : Reply) : Reply :=
  let c := combined s
  let p := s.frm.supp.getD {}
  { frame := s.frm.number, nextReq := 0, hold := max (max c.hold p.hold) r.hold, count := 0,
    fail := c.fail || p.fail || r.fail, supplement := true, pauseReq := c.pauseReq || p.pauseReq || r.pauseReq,
    notLocked := c.notLocked || p.notLocked || r.notLocked, imageDiff := c.imageDiff || p.imageDiff || r.imageDiff,
    cfgReady := anyReady s || p.cfgReady || r.cfgReady, startRefused := c.startRefused || p.startRefused || r.startRefused,
    cause := c.cause ||| p.cause ||| r.cause, imageTag := s.frm.own.imageTag }

/-- R82: a supplementary reply is the last reply sent. -/
def lastReply (x : Reply) (f : Frm) : Frm :=
  { f with reqHold := x.hold, reqNext := x.nextReq, cause := x.cause }

/-- R68, R73, R82: a supplementary reply is noted and goes up at once; the whorl sends none but its own. -/
def passSupplement (mine : Bool) (r : Reply) (s : State) : State :=
  let x := supplement s r
  let s := s.modFrm fun f => { f with supp := some x }
  let s := if mine || s.frm.role ≠ .whorl then s.modFrm (lastReply x) else s
  if s.frm.role = .whorl then s else sendReply x s

/-- R73, R75: this device's supplementary reply, with a larger HOLD, clipped to the cap. -/
def supplementaryReply (holdUs : Nat) (s : State) : State :=
  let hold := min holdUs (holdCap s)
  let over_ := holdCap s < holdUs
  let s := if over_ then failFrame .eFrameOverrun (s.modFrm fun f => { f with overrun := true }) else s
  let r : Reply := { hold := hold, fail := s.frm.failStatus.isSome, cause := s.frm.plannedCause }
  let s := s.modFrm fun f =>
    { f with supplemented := true, plannedCause := 0, own := { f.own with fail := f.own.fail || r.fail } }
  passSupplement true r s

/-- SUPPLEMENTARY_REPLY (R73): only after a reply with a non-zero HOLD, once, and larger. -/
def execSupplementaryReply (holdUs : Nat) (s : State) : Host.Outcome State Fault Refusal :=
  .next (if s.frm.replied && 0 < s.frm.own.hold && !s.frm.supplemented && s.frm.own.hold < holdUs && s.frm.next.isNone then
    supplementaryReply holdUs s else s)

/-- R68: a child's reply is taken. -/
def childReply (n : Nat) (r : Reply) (s : State) : State :=
  let s := if r.startRefused then cancelStart s else s
  if r.supplement then passSupplement false r s
  else
    let s := s.modFrm fun f => { f with kids := tput f.kids n (some r) }
    if allReplied s then forward s else s

/-- TICK_REPLY (R68): from a child, for the frame in progress; a quarantined strand's replies are discarded (R310). -/
def execTickReply (strand : StrandId) (payload : List Byte) (s : State) : Host.Outcome State Fault Refusal :=
  .next (
    let r := replyOf payload
    if (s.discAt strand).st = .quarantined then s.modTop fun x => { x with discards := wrapInc 32 x.discards }
    else if (matchedChildren s (tickTree s.frm.cur)).contains strand.val && r.frame == s.frm.number then childReply strand r s
    else s)

/-- REPLY_DEADLINE (R68): a relay forwards what it has; children without a reply are missing from COUNT. -/
def execReplyDeadline (s : State) : Host.Outcome State Fault Refusal :=
  .next (forward s)

/-! ### The whorl -/

/-- R68, R74: what the whorl knows of the frame: the combined reply, with what supplementary replies added. -/
def frameReport (s : State) : Reply :=
  let c := combined s
  match s.frm.supp with
  | none => c
  | some p =>
    { c with
      hold := max c.hold p.hold
      fail := c.fail || p.fail
      pauseReq := c.pauseReq || p.pauseReq
      notLocked := c.notLocked || p.notLocked
      imageDiff := c.imageDiff || p.imageDiff
      startRefused := c.startRefused || p.startRefused }

/-- R77: DOMAIN_SIZE of the plan. -/
def domainSize (s : State) : Nat :=
  (s.top.plan.map (·.domainSize)).getD 0

/-- R48: the period from frame `n` on: the image's from N0 on, 50 µs after a drain frame. -/
def tickPeriod (s : State) (n : Nat) : Nat :=
  if s.frm.wDrain then 50
  else
    match s.frm.wStart with
    | some a =>
      if a.n0 = n then (if holdsTag s a.tag then (s.frm.image.map (·.hdr.periodUs)).getD 50 else 50) else s.frm.period
    | none => s.frm.period

/-- R60, R67: the tag that tick `n` carries: the running image's, or the announced one's. -/
def tickTag (s : State) : Nat :=
  if s.frm.wDrain then (s.frm.wStart.map (·.tag)).getD 0
  else (s.frm.wRunning.orElse fun _ => s.frm.wStart.map (·.tag)).getD 0

/-- R63: DET may be set in the next tick. -/
def tickDet (s : State) (r : Reply) (fail stop : Bool) : Bool :=
  r.count == domainSize s && !r.notLocked && !r.imageDiff && s.frm.wRunning.isSome && !fail && !stop &&
    s.top.sumCount == domainSize s && s.top.sumMatch

/-- R48, R58, R60, R63, R64, R74, R75, R77, R78: the tick that the whorl emits after the frame in progress. -/
def nextTick (s : State) : Tick :=
  let r := frameReport s
  let n := s.frm.cur.frame + 1
  let p := tickPeriod s n
  let fail := r.fail || r.count < domainSize s
  let stop := s.frm.wStop.isSome && s.frm.wRunning.isSome
  { frame := n
    stretch := min r.nextReq p
    held := min r.hold (holdCap s)
    period := p
    cfgEpoch := if r.cfgReady then wrapInc 16 s.frm.cfgEpoch else s.frm.cfgEpoch
    domain := s.frm.cur.domain
    failPrev := fail
    stop := stop
    pause := r.pauseReq
    det := tickDet s r fail stop
    rootStandby := s.frm.cur.rootStandby
    start := s.frm.wStart.isSome
    stopMode := if stop then s.frm.wStop.getD 0 else 0
    n0 := (s.frm.wStart.map (·.n0)).getD 0
    imageTag := tickTag s }

/-- R48, R58, R64, R77: the whorl's own account once a tick has gone. -/
def emitted (t : Tick) (f : Frm) : Frm :=
  let begins := t.start && t.frame == t.n0
  let ends := f.wRunning.isSome && (t.failPrev || t.stop)
  { f with
    wStart := if begins then none else f.wStart
    wRunning := if ends then none else if begins && !t.failPrev then some t.imageTag else f.wRunning
    wStop := none
    wDrain := ends || (begins && t.failPrev) }

/-- R74: a tick goes out on the tree, and is taken here as everywhere. -/
def emitTick (t : Tick) (s : State) : State :=
  tickArrives t (sendTicks t (tickChildren s (tickTree t)) (s.modFrm (emitted t)))

/-- TICK_EMIT (R74): at E(N) + P + STRETCH + HELD. -/
def execTickEmit (s : State) : Host.Outcome State Fault Refusal :=
  .next (if s.top.formed && s.frm.role = .whorl && s.frm.next.isNone then emitTick (nextTick s) s else s)

/-- R72: the tick with which the standby takes over. Its lateness is counted from the emission that the period and the
stretch of the last frame gave, for 2P + 2 µs after that frame's. -/
def takeoverTick (s : State) : Tick :=
  let t := s.frm.cur
  { frame := t.frame + 1, held := t.period + 2 - t.stretch, period := t.period, cfgEpoch := t.cfgEpoch, domain := t.domain,
    failPrev := true, rootStandby := true, imageTag := if t.start && t.frame != t.n0 then 0 else t.imageTag }

/-- R72: the standby becomes the whorl. -/
def takeWhorl (s : State) : State :=
  let t := takeoverTick s
  let ran := s.frm.cur.imageTag != 0
  let s := postDevice 0x02 .sWhorlTakeover 0xFFFFFFFF
    (s.modFrm fun f => { f with role := .whorl, noStandby := true, wStart := none, wRunning := none, wStop := none,
                                wDrain := ran })
  tickArrives t (sendTicks t (tickChildren s 1) s)

/-- WHORL_TAKEOVER (R72). -/
def execWhorlTakeover (s : State) : Host.Outcome State Fault Refusal :=
  .next (if s.top.formed && s.frm.role = .standby && s.frm.next.isNone then takeWhorl s else s)

/-- DRAIN_COMPLETE (R62): the work of the stopped program is complete. -/
def execDrainComplete (s : State) : Host.Outcome State Fault Refusal :=
  .next (
    if s.frm.prog = .draining then
      let pend := (s.frm.ann.map fun a => holdsTag s a.tag).getD false
      let s := clearUnits (s.modFrm fun f => { f with prog := if pend then .startPending else .loaded })
      if s.pkg.devState = .draining then setDevState .ready s else s
    else s)

end Sys2Proof.Machine
end

