-- ==== Sys2Proof/Machine/HostPort.lean ====
section
/-!
DEFINITION. Chapter 8: MSI-X unmasking, host accesses to the memory window, the snoop filter, the spill agent, the window
and spill commands, the decoder, and the link.
-/

namespace Sys2Proof.Machine

/-! ### MSI-X -/

/-- R217: the message of a vector that is pending and may be sent now goes out. -/
def sendPending (v : Nat) (s : State) : State :=
  let e := s.msixAt v
  if e.pending && e.unmasked && s.hp.msixOn && !s.hp.d3 && linkPasses s then
    sendVector v (s.modMsix v fun e => { e with pending := false })
  else s

/-- R217: every pending vector that may be sent now goes out, in ascending order. -/
def sendAllPending : List Nat → State → State
  | [], s => s
  | v :: vs, s => sendAllPending vs (sendPending v s)

/-- MSIX_UNMASK (R217): a vector is unmasked, or MSI-X is enabled. [PRESUMED 3] -/
def execMsixUnmask (vector : Option (BitVec 11)) (s : State) : Host.Outcome State Fault Refusal :=
  .next (
    match vector with
    | some v => sendPending v.toNat (s.modMsix v.toNat fun e => { e with unmasked := true })
    | none => sendAllPending (tkeys s.hp.msix) (s.modHp fun h => { h with msixOn := true }))

/-! ### The window -/

/-- R213, R214, R225: host traffic of CXL.mem passes. -/
def memTraffic (s : State) : Bool :=
  s.hp.decoder && s.hp.proto.getLsbD 2 && linkPasses s

/-- R218: the local line that a host address reaches, `none` outside the window. -/
def windowLine (s : State) (hpa : Nat) : Option Nat :=
  if s.hp.db ≤ hpa && hpa < s.hp.db + s.hp.winSize * 2 ^ 28 then some ((s.hp.winBase + hpa - s.hp.db) / 64) else none

/-- R220: the lines of a line's set that have entries, as (age, line). -/
def sfSet (s : State) (line : Nat) : List (Nat × Nat) :=
  s.hp.sf.filterMap fun e =>
    if e.1 % 32768 = line % 32768 then e.2.map fun f => (f.age, e.1) else none

/-- R220: the oldest entry of a set that has not been snooped. -/
def sfOldest (s : State) (line : Nat) : Option Nat :=
  ((sfSet s line).filter fun e => ((tget s.hp.sf e.2).map fun f => !f.snooped).getD false).foldl
    (fun best e => match best with
      | none => some e
      | some b => if e.1 < b.1 then some e else some b) none |>.map (·.2)

/-- R220: a line gains an entry, or its entry is set down as modified. -/
def sfAdd (line : Nat) (own : Bool) (s : State) : State :=
  s.modHp fun h =>
    { h with sf := tmod h.sf line fun o =>
               some (match o with
                 | some f => { f with modified := f.modified || own }
                 | none => { modified := own, age := h.clock }),
             clock := h.clock + 1 }

/-- R218, R221: a host read is answered: the line's bytes, or poison and undefined bytes for an uncorrectable block; so is
one whose burst was lost in four transfers (R147) [DEDUCED 84]. -/
def answerRead (line : Nat) (s : State) : State :=
  let t := takeLost .host (64 * line) 64 (wmbFlushBlock line s)
  let s := t.2
  if t.1 then s.drawFree.emit (.hostData ((List.range 64).map (Config.freeByte s.free)) true)
  else if isUe s line then
    let bytes := (List.range 64).map (Config.freeByte s.free)
    let s := (recordUe line s.drawFree).modHp fun h =>
      { h with poisonSent := true, poisonHost := wrapInc 16 h.poisonHost }
    s.emit (.hostData bytes true)
  else s.emit (.hostData (readBytes s (64 * line) 64) false)

/-- R220: the reads that wait for an entry of a line's set. -/
def sfWaiters (s : State) (line : Nat) : List Nat :=
  s.hp.sfWait.filter fun w => w / 2 % 32768 == line % 32768

/-- R220: the oldest entry of a line's set is evicted by BISnpInv, where more reads wait for the set than entries of it
are being snooped. -/
def sfEvict (line : Nat) (s : State) : State :=
  let going := ((sfSet s line).filter fun e => ((tget s.hp.sf e.2).map (·.snooped)).getD false).length
  match sfOldest s line with
  | some l => if going < (sfWaiters s line).length && 16 ≤ (sfSet s line).length then snoopLine false l s else s
  | none => s

/-- R220: a host read: one that may leave a copy needs an entry. It waits for one where its set is full, and the oldest
entry is evicted; and where its line is being snooped. -/
def hostRead (line : Nat) (keep own : Bool) (s : State) : State :=
  let entry := tget s.hp.sf line
  if !keep then answerRead line s
  else if entry.any fun f => !f.snooped then answerRead line (sfAdd line own s)
  else if entry.isNone && (sfSet s line).length < 16 then answerRead line (sfAdd line own s)
  else sfEvict line (s.modHp fun h => { h with sfWait := h.sfWait ++ [2 * line + bit own] })

/-- HOST_MEM_READ (R218, R220, R221). -/
def execHostMemRead (hpa : Quad) (keep own : Bool) (s : State) : Host.Outcome State Fault Refusal :=
  .next (
    match windowLine s hpa.toNat with
    | none => s
    | some line => if memTraffic s && (accessRefused s (64 * line) 64).isNone then hostRead line keep own s else s)

/-- R142, R218: the bytes of a line that a mask selects are written, each run of them as a streaming write. -/
def writeMasked (line mask : Nat) (data : List Byte) : List Nat → State → State
  | [], s => s
  | i :: is, s =>
    writeMasked line mask data is
      (if mask.testBit i then (memWriteAs .host (64 * line + i) [data.getD i 0] s).s else s)

/-- R218, R221: a host write of one line, full or partial. -/
def hostWrite (line mask : Nat) (data : List Byte) (s : State) : State :=
  let s := if mask = 2 ^ 64 - 1 then (memWriteAs .host (64 * line) (fitBytes 64 data) s).s
    else writeMasked line mask data (List.range 64) s
  s.emit .hostDone

/-- HOST_MEM_WRITE (R218, R221). -/
def execHostMemWrite (hpa mask : Quad) (data : List Byte) (s : State) : Host.Outcome State Fault Refusal :=
  .next (
    match windowLine s hpa.toNat with
    | none => s
    | some line =>
      if memTraffic s && (accessRefused s (64 * line) 64).isNone then hostWrite line mask.toNat data s else s)

/-- R220: a waiting read may go on: its line has an entry that is not being snooped, or it has none and its set has
room. -/
def sfReady (s : State) (w : Nat) : Bool :=
  match tget s.hp.sf (w / 2) with
  | some f => !f.snooped
  | none => (sfSet s (w / 2)).length < 16

/-- R220: the reads that wait for a set go on in order, as far as they may. -/
def sfServeAll : List Nat → State → State
  | [], s => s
  | w :: ws, s =>
    sfServeAll ws
      (if sfReady s w then
        answerRead (w / 2) (sfAdd (w / 2) (w % 2 == 1) (s.modHp fun h => { h with sfWait := h.sfWait.erase w }))
      else s)

/-- R220: a freed entry lets reads that wait for its set go on; where more still wait, the next oldest is evicted. -/
def sfServe (line : Nat) (s : State) : State :=
  sfEvict line (sfServeAll (sfWaiters s line) s)

/-- R220: a snoop of a line has been sent and not answered. -/
def snoopSent (s : State) (line : Nat) : Bool :=
  ((tget s.hp.sf line).map (·.snooped)).getD false && !s.hp.snoopQ.contains line

/-- BIRSP (R169, R170, R220, R227): the answer to a snoop: written-back data is taken in, the entry is freed, and what
waited for it goes on. -/
def execBirsp (line : Nat) (data : Option (List Byte)) (s : State) : Host.Outcome State Fault Refusal :=
  .next (
    if snoopSent s line && linkPasses s then
      let s := match data with
        | some bs => (memWrite (64 * line) (fitBytes 64 bs) s).s
        | none => s
      flrServe (captureDue (sendSnoop (sfServe line (s.modHp fun h => { h with sf := tput h.sf line none }))))
    else s)

/-! ### The spill agent -/

/-- R222: the local line that a host address of a spilled zone stands for. -/
def spillLine (s : State) (hpa : Nat) : Option Nat :=
  (s.hp.spill.find? fun e => (e.2.map fun b => decide (b ≤ hpa && hpa < b + 2 ^ 30)).getD false).bind fun e =>
    e.2.map fun b => (e.1 * 2 ^ 30 + hpa - b) / 64

/-- R213, R214, R225: CXL.cache traffic passes. -/
def cacheTraffic (s : State) : Bool :=
  cacheOn s && linkPasses s

/-- R223: a host snoop is answered from the agent's cache: SnpInv takes the line, SnpData leaves it shared, SnpCur leaves
it as it is; dirty bytes are handed over. -/
def snooped (kind : SnoopKind) (line : Nat) (s : State) : State :=
  match tget s.hp.agent line with
  | none => s.emit (.snoopResp 0 none)
  | some l =>
    if l.st = .wanted then s.emit (.snoopResp 0 none)
    else
      let data := if l.st = .dirty then some (readBytes s (64 * line) 64) else none
      match kind with
      | .inv => (s.modHp fun h => { h with agent := tput h.agent line none }).emit (.snoopResp 0 data)
      | .data =>
        (s.modHp fun h => { h with agent := tput h.agent line (some { l with st := .shared }) }).emit (.snoopResp 1 data)
      | .cur => s.emit (.snoopResp 1 data)

/-- HOST_SNOOP (R223). -/
def execHostSnoop (kind : SnoopKind) (hpa : Quad) (s : State) : Host.Outcome State Fault Refusal :=
  .next (
    if cacheTraffic s then
      match spillLine s hpa.toNat with
      | some line => snooped kind line s
      | none => s.emit (.snoopResp 0 none)
    else s)

/-- R223: the bytes of an access. -/
def accessLen (a : MemAccess) : Nat :=
  (a.write.map (·.length)).getD a.len

/-- R223: the lines of an access, as misses of it. -/
def accessLines (a : MemAccess) : List SpillMiss :=
  let n := accessLen a
  (blocksOf a.addr.toNat n).map fun l =>
    { line := l, write := a.write.isSome, full := decide (a.addr.toNat ≤ 64 * l) && decide (64 * l + 64 ≤ a.addr.toNat + n) }

/-- R223: the agent's cache serves an access. -/
def accessServed (s : State) (a : MemAccess) : Bool :=
  (blocksOf a.addr.toNat (accessLen a)).all (agentServes s a.write.isSome)

/-- R214, R223: the lines of the accesses that wait are asked for, as soon as CXL.cache traffic passes. -/
def askWaiting : List MemAccess → State → State
  | [], s => s
  | a :: as, s => askWaiting as (if cacheTraffic s then agentAskAll none (accessLines a) s else s)

/-- R224: an access cannot complete. -/
def spillFails (c : Client) (st : Status) (s : State) : State :=
  clientError c st (s.modHp fun h => { h with spillErr := true })

/-- R214, R223, R225: an access to a spilled zone: served from the agent's cache, or it waits for its lines. -/
def spillAccess (a : MemAccess) (s : State) : State :=
  if !cacheOn s then spillFails a.client .eHostLink s
  else if accessServed s a then arrive false a s
  else askWaiting [a] (s.modHp fun h => { h with spillWait := h.spillWait ++ [a] })

/-- SPILL_ACCESS (R223, R224). -/
def execSpillAccess (a : MemAccess) (s : State) : Host.Outcome State Fault Refusal :=
  .next (if (spillHpa s a.addr.toNat).isSome then spillAccess a s else s)

/-- An access touches a line. -/
def touches (a : MemAccess) (line : Nat) : Bool :=
  (blocksOf a.addr.toNat (accessLen a)).contains line

/-- R223: the accesses that waited and are served now, in order. -/
def serveWaiting : List MemAccess → State → State
  | [], s => s
  | a :: as, s =>
    if accessServed s a then
      serveWaiting as (arrive false a (s.modHp fun h => { h with spillWait := h.spillWait.erase a }))
    else serveWaiting as s

/-- R224: the accesses that wait for a line fail. -/
def failWaiting (line : Nat) (st : Status) : List MemAccess → State → State
  | [], s => s
  | a :: as, s =>
    failWaiting line st as
      (if touches a line then spillFails a.client st (s.modHp fun h => { h with spillWait := h.spillWait.erase a }) else s)

/-- R223, R224: the answer for a line is there for the steps and commands that wait for it. -/
def answerAskers (line : Nat) (l : AgentLine) (st : Option Status) (s : State) : State :=
  s.modHp fun h =>
    { h with got := h.got ++ l.askers.map fun c => { client := c, line := line, own := l.own, st := st } }

/-- R223: the line has come: shared, or owned where ownership was asked for. -/
def lineComes (line : Nat) (l : AgentLine) (bs : List Byte) (s : State) : State :=
  let s := if bs.isEmpty then s else writeBytes (64 * line) (fitBytes 64 bs) s
  let st : AgentState := if l.own then .owned else .shared
  s.modHp fun h => { h with agent := tput h.agent line (some { st := st, age := l.age }) }

/-- R224: the line has not come. -/
def lineFails (line : Nat) (st : Status) (s : State) : State :=
  failWaiting line st s.hp.spillWait (s.modHp fun h => { h with agent := tput h.agent line none })

/-- R228: poisoned spill data is counted and logged. -/
def poisonedFill (s : State) : State :=
  let s := winBump 21 0 0 (s.modHp fun h => { h with poisonSpill := wrapInc 16 h.poisonSpill, rasPoison := true })
  escalate { row := 21, count := winCount s 21 0 0 } s

/-- R223, R224: an answer to a request of the agent: data, poison, or failure; what waited for it goes on. -/
def spillFill (line : Nat) (l : AgentLine) (answer : SpillAnswer) (s : State) : State :=
  let s := match answer with
    | .data bs => lineComes line l bs (answerAskers line l none s)
    | .poison => lineFails line .eDataError (poisonedFill (answerAskers line l (some .eDataError) s))
    | .failed => lineFails line .eHostLink (answerAskers line l (some .eHostLink) s)
  let s := serveWaiting s.hp.spillWait s
  askWaiting s.hp.spillWait s

/-- SPILL_FILL (R223, R224). -/
def execSpillFill (addr : BitVec 40) (answer : SpillAnswer) (s : State) : Host.Outcome State Fault Refusal :=
  .next (
    let line := addr.toNat / 64
    match tget s.hp.agent line with
    | some l => if l.st = .wanted then spillFill line l answer s else s
    | none => s)

/-- R224: every line of the agent's cache leaves, dirty ones by DirtyEvict. -/
def agentFlush : List Nat → State → State
  | [], s => s
  | l :: ls, s => agentFlush ls (agentEvict l s)

/-- CACHE_WB_INV (R224). -/
def execCacheWbInv (s : State) : Host.Outcome State Fault Refusal :=
  .next (if cacheTraffic s then s.modHp fun h => { h with wbinv := true } else s)

/-- CACHE_WB_INV_DONE (R224): the lines held have been written back and invalidated; requests that are outstanding
stay. -/
def execCacheWbInvDone (s : State) : Host.Outcome State Fault Refusal :=
  .next (
    if s.hp.wbinv then
      agentFlush ((tkeys s.hp.agent).filter (agentHolds s)) (s.modHp fun h => { h with wbinv := false })
    else s)

/-! ### Commands -/

/-- R191, R219: a bound region with HOST lies in the current window. -/
def windowBusy (s : State) : Bool :=
  s.bob.region.any fun e => e.2.bound && e.2.access.getLsbD accHost && inWindow s e.2.base e.2.size

/-- R219: `host.window`. -/
def hostWindow (m : Nat) (r : MbxReq) (s : State) : State :=
  let wb := fieldOf r.params 0 8
  let n := fieldOf r.params 8 2
  let touched := s.hp.spill.any fun e => e.2.isSome && overlaps wb (n * 2 ^ 28) (e.1 * 2 ^ 30) (2 ^ 30)
  if s.frm.prog != .noImage || s.hp.decoder then failMbx m .eState 0 s
  else if wb % 2 ^ 28 ≠ 0 || n = 0 || 256 < n || tablesBase < wb + n * 2 ^ 28 || touched then failMbx m .eWindow 0 s
  else if windowBusy s then failMbx m .ePlaceBusy 0 s
  else completeMbx m .sOk 0 [] (s.modHp fun h => { h with winBase := wb, winSize := n })

/-- HOST_WINDOW (R219). -/
def execHostWindow (mbx : MbxId) (s : State) : Host.Outcome State Fault Refusal :=
  .next (casbomi 0x0021 mbx (hostWindow mbx) s)

/-- R222: a registered region overlaps a zone. -/
def zoneBusy (s : State) (z : Nat) : Bool :=
  s.bob.region.any fun e => e.2.bound && overlaps e.2.base e.2.size (z * 2 ^ 30) (2 ^ 30)

/-- R222: the agent's lines of a zone. -/
def zoneLines (s : State) (z : Nat) : List Nat :=
  (tkeys s.hp.agent).filter fun l => l / 2 ^ 24 == z

/-- R222: a zone's mapping changes; its contents are undefined until written. -/
def setSpill (z : Nat) (hpa : Option Nat) (s : State) : State :=
  markUndef (z * 2 ^ 30) (2 ^ 30) ((agentFlush (zoneLines s z) s).modHp fun h => { h with spill := tput h.spill z hpa })

/-- R214, R222: `host.spill`. -/
def hostSpill (m : Nat) (r : MbxReq) (s : State) : State :=
  let z := fieldOf r.params 0 2
  let hpa := fieldOf r.params 8 8
  let bad := hpa % 2 ^ 30 ≠ 0 || 2 ^ 52 ≤ hpa || 512 ≤ z || z % 128 = 127 ||
    overlaps (z * 2 ^ 30) (2 ^ 30) s.hp.winBase (s.hp.winSize * 2 ^ 28) || 64 ≤ s.hp.spill.length ||
    (s.hp.rate != 0 && !s.hp.proto.getLsbD 1)
  if s.frm.prog != .noImage then failMbx m .eState 0 s
  else if bad then failMbx m .eSpill 0 s
  else if zoneBusy s z then failMbx m .ePlaceBusy 0 s
  else completeMbx m .sOk 0 [] (setSpill z (some hpa) s)

/-- HOST_SPILL (R222). -/
def execHostSpill (mbx : MbxId) (s : State) : Host.Outcome State Fault Refusal :=
  .next (casbomi 0x0022 mbx (hostSpill mbx) s)

/-- R222: `host.unspill`. -/
def hostUnspill (m : Nat) (r : MbxReq) (s : State) : State :=
  let z := fieldOf r.params 0 2
  if s.frm.prog != .noImage then failMbx m .eState 0 s
  else if (tget s.hp.spill z).isNone then failMbx m .eSpill 0 s
  else if zoneBusy s z then failMbx m .ePlaceBusy 0 s
  else completeMbx m .sOk 0 [] (setSpill z none s)

/-- HOST_UNSPILL (R222). -/
def execHostUnspill (mbx : MbxId) (s : State) : Host.Outcome State Fault Refusal :=
  .next (casbomi 0x0023 mbx (hostUnspill mbx) s)

/-- HDM_DECODER_COMMIT (R218, R219): a commit whose size differs from S sets Error Not Committed. -/
def execHdmDecoderCommit (base size : Quad) (s : State) : Host.Outcome State Fault Refusal :=
  .next (
    if !barUp s then s
    else if size.toNat = s.hp.winSize * 2 ^ 28 then
      s.modHp fun h => { h with decoder := true, db := base.toNat, decErr := false }
    else s.modHp fun h => { h with decErr := true })

/-! ### The link -/

/-- R214, R228: the link enters recovery; the third recovery within the hour makes it retrain at the next lower rate. -/
def enterRecovery (l : Levels) (s : State) : State :=
  if s.hp.rate = 0 || s.hp.recovering then escalate l s
  else
    let s := winBump 19 1 0 (s.modHp fun h => { h with recovering := true })
    let lower := 3 ≤ winCount s 19 1 0 && 1 < s.hp.rate
    let s := if lower then s.modHp fun h => { h with rateCap := some (h.rate - 1) } else s
    escalate { l with l3 := lower } s

/-- LINK_CORRECTABLE_ERROR (R228). -/
def execLinkCorrectableError (s : State) : Host.Outcome State Fault Refusal :=
  .next (
    let s := ((winBump 19 0 0 s).modHp fun h => { h with aerLogged := true }).emit (.aer true)
    let n := winCount s 19 0 0
    if 64 ≤ n then enterRecovery { row := 19, count := n, l2 := true } s else escalate { row := 19, count := n } s)

/-- LINK_RECOVERY (R214). -/
def execLinkRecovery (s : State) : Host.Outcome State Fault Refusal :=
  .next (if s.hp.rate = 0 || s.hp.recovering then s else enterRecovery { row := 19, count := winCount s 19 0 0 } s)

/-- R214: host-facing traffic that waited goes on: messages, snoops and spill accesses. -/
def trafficGoesOn (s : State) : State :=
  let s := sendAllPending (tkeys s.hp.msix) s
  let s := sendSnoops s.hp.snoopQ s
  askWaiting s.hp.spillWait s

/-- R213, R214, R229: the link has trained, or leaves recovery, at a rate not above the one that R228 asks for. -/
def linkTrained (rate width flit : Nat) (s : State) : State :=
  trafficGoesOn (s.modHp fun h =>
    let r := (h.rateCap.map (min rate)).getD rate
    { h with rate := r, width := width, flit := flit, proto := if flit = 0 then 1 else 7, recovering := false,
             downgrade := h.downgrade || (h.rateCap.isSome && r < h.rate) })

/-- HOST_LINK_TRAINED (R213, R214): RATE, WIDTH and FLIT as MOD_HP_LINK codes them; 68-byte mode exists up to
32 GT/s. -/
def execHostLinkTrained (rate width flit : Nat) (s : State) : Host.Outcome State Fault Refusal :=
  .next (
    if s.pkg.powered && 1 ≤ rate && rate ≤ 4 && [4, 8, 15].contains width && flit ≤ 2 && (flit != 0 || rate ≤ 3) then
      linkTrained rate width flit s
    else s)

/-- D3HOT_ENTRY (R215). -/
def execD3hotEntry (s : State) : Host.Outcome State Fault Refusal :=
  .next (s.modHp fun h => { h with d3 := true })

/-- D3HOT_EXIT (R215): what became pending meanwhile is sent. -/
def execD3hotExit (s : State) : Host.Outcome State Fault Refusal :=
  .next (sendAllPending (tkeys s.hp.msix) (s.modHp fun h => { h with d3 := false }))

end Sys2Proof.Machine
end

