-- ==== Sys2Proof/Machine/Packets.lean ====
section
/-!
DEFINITION. Packets at the device they are for (R289-R297): messages received and answered, operations performed at their
target and completed at their issuer, and the recovery of what was lost.
-/

namespace Sys2Proof.Machine

/-! ### Messages received -/

/-- R293: the key of a message's state entry. -/
def rxKey (h : PktHdr) : Nat :=
  h.src * 65536 + h.msg

/-- R289: bytes of packet `index` of a message of an operation. -/
def pieceLen (h : PktHdr) : Nat :=
  min 224 (min msgBytes (h.opLen - h.msgOff) - 224 * h.index)

/-- R293: the state entry that a packet belongs to: a new message's, where none is held or where the number has been used
again after an answer; `none` where no entry is free. -/
def entryFor (h : PktHdr) (s : State) : Option RxMsg :=
  match tget s.fab.rx (rxKey h) with
  | some m => if m.answer.isSome && !h.resent then (if openEntries s < 8192 then some {} else none) else some m
  | none => if openEntries s < 8192 then some {} else none

/-- R293: a message's state entry is set down. -/
def putEntry (h : PktHdr) (m : RxMsg) (s : State) : State :=
  s.modFab fun f => { f with rx := tput f.rx (rxKey h) (some m) }

/-- R293: a packet is counted in its message. -/
def countPacket (h : PktHdr) (marks : Nat) (data : List Byte) (m : RxMsg) : RxMsg :=
  { m with got := tput m.got h.index (some data), marks := m.marks + marks
           count := if h.last then some h.count else m.count
           check := if h.last then h.check else m.check }

/-- R293: every packet of a message has been counted. -/
def messageWhole (m : RxMsg) : Bool :=
  m.count == some m.got.length

/-- R293: the data bytes of a message, in order. -/
def messageData (m : RxMsg) : List Byte :=
  m.got.flatMap fun e => e.2.getD []

/-- R294: a message is answered. -/
def answerMsg (h : PktHdr) (ack : List Byte) (s : State) : State :=
  sendAck h.src false ack s

/-- R294: a message is dropped and answered with the status of its check; a failed write answers it in the same way. -/
def dropMessage (h : PktHdr) (m : RxMsg) (st : Status) (detail : Nat) (s : State) : State :=
  answerMsg h (ackData h.msg st detail 0 0) (putEntry h { m with dropped := true } s)

/-- R293, R294: a message that is whole is answered; the bytes of one whose CHECK does not match are undefined, and `bad` is
what else follows here. -/
def finishMessage (h : PktHdr) (m : RxMsg) (local_ : Nat) (bad : State → State) (s : State) : State :=
  if !messageWhole m then s
  else if m.dropped then putEntry h { m with answer := some [] } s
  else
    let data := messageData m
    let good := m.check == crc32c data
    let ack := ackData h.msg (if good then .sOk else .eDataError) 0 m.got.length m.marks
    let s := answerMsg h ack (putEntry h { m with answer := some ack, got := [] } s)
    if good then s else bad (markUndef local_ data.length (checkMismatch s))

/-- R293-R295: a packet of a message of several: checked and performed unless its index has been counted; a resent last
packet of a message already answered is answered so again. -/
def receivePacket (h : PktHdr) (marks : Nat) (local_ : Nat) (data : List Byte)
    (bad : State → State) (perform : State → Option (Status × Nat) × State) (s : State) : State :=
  match entryFor h s with
  | none => dropPacket false s
  | some m =>
    match m.answer with
    | some ack => if h.last && !ack.isEmpty then answerMsg h ack s else s
    | none =>
      if (tget m.got h.index).isSome then s
      else
        let m1 := countPacket h marks data m
        if m.dropped then finishMessage h m1 local_ bad (putEntry h m1 s)
        else
          match perform s with
          | (none, s) => finishMessage h m1 local_ bad (putEntry h m1 s)
          | (some (st, d), s) =>
            let m2 := { m1 with dropped := true }
            finishMessage h m2 local_ bad (dropMessage h m1 st d s)

/-- R293, R294: a one-packet message: performed once and answered; a resent one is answered so again. -/
def receiveOne (h : PktHdr) (perform : State → List Byte × State) (answer : List Byte → State → State) (s : State) : State :=
  match entryFor h s with
  | none => dropPacket false s
  | some m =>
    match m.answer with
    | some ack => answer ack s
    | none =>
      let (ack, s) := perform s
      answer ack (putEntry h { m with answer := some ack } s)

/-- R223, R291: a packet is taken by the device that its DEST names, and may wait for spilled lines; a quarantined strand's have been discarded (R310). -/
def headed (payload : List Byte) (f : PktHdr → List Byte → State → State) (s : State) : Host.Outcome State Fault Refusal :=
  .next (spillGate .fabric (f (pktHdr payload) (payload.drop 32)) s)

/-! ### Operations at their target -/

/-- R293: PUT and PUT_REDUCE data at the target. -/
def putPacket (reduce : Bool) (marks : Nat) (h : PktHdr) (body : List Byte) (s : State) : State :=
  let data := body.take (pieceLen h)
  let at_ := gaLocal h.gaddr + h.msgOff
  receivePacket h marks at_ data id (fun s =>
    match arriveCheck h.gaddr h.opLen accRemoteWrite s with
    | (some e, s) => (some e, s)
    | (none, s) =>
      let w := targetWrite reduce h.redOp h.dtype (at_ + 224 * h.index) data s
      (w.1.map fun st => (st, 0), w.2)) s

/-- PUT_DATA (R293). -/
def execPutData (payload : List Byte) (marks : Fin 128) (s : State) : Host.Outcome State Fault Refusal :=
  headed payload (putPacket false marks) s

/-- PUT_REDUCE_DATA (R182, R293). -/
def execPutReduceData (payload : List Byte) (marks : Fin 128) (s : State) : Host.Outcome State Fault Refusal :=
  headed payload (putPacket true marks) s

/-- R297: the data of a GET leaves for the requester, in messages that the requester answers. -/
def sendGetData (h : PktHdr) (reply : Nat) (data : List Byte) (s : State) : State :=
  if h.opLen = 0 then s
  else
    let n := pieces h.opLen
    let (k, s) := newOp { op := 0x04, client := .fabric, dest := h.src, open_ := n } s
    sendMessages k h.src { op := 0x04, opLen := h.opLen, gaddr := reply } data (List.range n) s

/-- R297: a GET request at the target: checked with REMOTE_READ, its data read, and sent. -/
def getPacket (marks : Nat) (h : PktHdr) (body : List Byte) (s : State) : State :=
  receiveOne h (fun s =>
    match arriveCheck h.gaddr h.opLen accRemoteRead s with
    | (some (st, d), s) => (ackData h.msg st d 1 marks, s)
    | (none, s) =>
      let r := fabricRead (gaLocal h.gaddr) h.opLen s
      match r.err with
      | some st => (ackData h.msg st 0 1 marks, clientError .fabric st r.s)
      | none => (ackData h.msg .sOk 0 1 marks, sendGetData h (fieldOf body 0 8) r.bytes r.s)) (answerMsg h) s

/-- GET_REQUEST (R297). -/
def execGetRequest (payload : List Byte) (marks : Fin 128) (s : State) : Host.Outcome State Fault Refusal :=
  headed payload (getPacket marks) s

/-- R297: the GET of this device that a GET-data packet answers. -/
def getOp (s : State) (h : PktHdr) : Option (Nat × RemOp) :=
  (s.fab.op.find? fun e =>
    (e.2.map fun o => o.op == 3 && o.dest == h.src && o.getAddr == h.gaddr && 0 < o.getLeft).getD false).bind fun e =>
      e.2.map fun o => (e.1, o)

/-- R297: a GET ends with the status of the check that its data failed. -/
def failGet (k : Nat) (st : Status) (detail : Nat) (s : State) : State :=
  s.modFab fun f => { f with op := tmod f.op k fun o => o.map fun o =>
    { o with status := o.status <|> some st, detail := if o.status.isNone then detail else o.detail } }

/-- R293: the GET that a message with a bad CHECK answers ends with E_DATA_ERROR. -/
def getBad (k : Option Nat) (s : State) : State :=
  match k with
  | some k => failGet k .eDataError 0 s
  | none => s

/-- R293, R297: GET data at the requester. -/
def getDataPacket (marks : Nat) (h : PktHdr) (body : List Byte) (s : State) : State :=
  let data := body.take (pieceLen h)
  let at_ := gaLocal h.gaddr + h.msgOff
  let k := (getOp s h).map (·.1)
  let s := receivePacket h marks at_ data (getBad k) (fun s =>
    match getOp s h with
    | none => (some (.eRegion, 0x0201), s)
    | some (k, o) =>
      match getCheck s o.getRegion h.gaddr o.getLen with
      | some (st, d) => (some (st, d), failGet k st d s)
      | none =>
        match targetWrite false 0 0 (at_ + 224 * h.index) data s with
        | (some st, s) => (some (st, 0), failGet k st 0 s)
        | (none, s) =>
          (none, s.modFab fun f => { f with op := tmod f.op k fun o => o.map fun o =>
            { o with getLeft := o.getLeft - data.length } })) s
  match k with
  | some k => settleOp k s
  | none => s

/-- GET_DATA (R297). -/
def execGetData (payload : List Byte) (marks : Fin 128) (s : State) : Host.Outcome State Fault Refusal :=
  headed payload (getDataPacket marks) s

/-- R297: an atomic reply carries the number of the request that it answers as its MSG. -/
def sendReplyAtomic (h : PktHdr) (data : List Byte) (s : State) : State :=
  injectPacket h.src (pktBytes { src := selfId s, msg := h.msg, count := 1, op := 0x07, last := true, opLen := 10,
                                 check := crc32c data } data) s

/-- R294, R297: the answer to an atomic: a reply of ten bytes, or the negative acknowledgement of one dropped under
R193. -/
def answerAtomic (h : PktHdr) (data : List Byte) (s : State) : State :=
  if data.length = 10 then sendReplyAtomic h data s else answerMsg h data s

/-- R145, R193, R294, R297: an atomic at its target: dropped and answered with the status and DETAIL of the check that
it fails, or performed and answered with its previous value. -/
def atomicPacket (marks : Nat) (f : Nat → Nat) (h : PktHdr) (s : State) : State :=
  receiveOne h (fun s =>
    match remoteCheck s h.gaddr 8 accRemoteWrite, targetAtomic h.gaddr f s with
    | some _, (some (st, d), _, s) => (ackData h.msg st d 1 marks, s)
    | _, (some (st, _), _, s) => (leBytes 8 0 ++ leBytes 2 st.code, s)
    | _, (none, old, s) => (leBytes 8 old ++ leBytes 2 Status.sOk.code, s)) (answerAtomic h) s

/-- FETCH_ADD_PACKET (R297). -/
def execFetchAddPacket (payload : List Byte) (marks : Fin 128) (s : State) : Host.Outcome State Fault Refusal :=
  headed payload (fun h body s => atomicPacket marks (fun old => fetchAddResult h.dtype old (fieldOf body 0 8)) h s) s

/-- COMPARE_SWAP_PACKET (R297). -/
def execCompareSwapPacket (payload : List Byte) (marks : Fin 128) (s : State) : Host.Outcome State Fault Refusal :=
  headed payload (fun h body s =>
    atomicPacket marks (fun old => if old = fieldOf body 0 8 then fieldOf body 8 8 else old) h s) s

/-- R182, R193, R297: a SIGNAL's increment at its counter, whose checks meet it here. [DEDUCED 90] -/
def signalPacket (marks : Nat) (h : PktHdr) (body : List Byte) (s : State) : State :=
  receiveOne h (fun s =>
    match counterIncrement (fieldOf body 0 8) (fieldOf body 8 8) s with
    | (some (st, d), s) => (ackData h.msg st d 1 marks, s)
    | (none, s) => (ackData h.msg .sOk 0 1 marks, s)) (answerMsg h) s

/-- SIGNAL_INCREMENT (R297). -/
def execSignalIncrement (payload : List Byte) (marks : Fin 128) (s : State) : Host.Outcome State Fault Refusal :=
  headed payload (signalPacket marks) s

/-! ### Answers at the issuer -/

/-- R292: a rate in its lowest terms. -/
def Rate.reduce (r : Rate) : Rate :=
  { num := r.num / Nat.gcd r.num r.den, den := r.den / Nat.gcd r.num r.den }

/-- R292: the rate for a destination after an acknowledgement: f is MARKS over PACKETS, at most 1; it is 0 where MARKS is. -/
def rateAfter (r : Rate) (packets marks : Nat) : Rate :=
  if marks = 0 then (if 64 * r.den ≤ r.num + 2 * r.den then {} else { num := r.num + 2 * r.den, den := r.den })
  else
    let m := min marks packets
    let x : Rate := if packets = 0 then { num := r.num, den := 2 * r.den }
      else { num := r.num * (2 * packets - m), den := r.den * (2 * packets) }
    if 4 * x.num ≤ x.den then { num := 1, den := 4 } else x.reduce

/-- R292: an acknowledgement from a destination sets its rate. -/
def updateRate (dest packets marks : Nat) (s : State) : State :=
  s.modFab fun f => { f with rate := tmod f.rate dest fun x => rateAfter x packets marks }

/-- R294: a message that this device sent has been answered. -/
def messageAnswered (src msg : Nat) (st : Status) (detail : Nat) (s : State) : State :=
  match tget s.fab.tx msg with
  | none => s
  | some m =>
    if m.dest ≠ src then s
    else answerOp m.op st detail (s.modFab fun f => { f with tx := tput f.tx msg none })

/-- R294: a transfer that this device sent has been answered. -/
def transferAnswered (src key : Nat) (st : Status) (detail : Nat) (s : State) : State :=
  match tget s.fab.txXfer key with
  | none => s
  | some x =>
    if x.dest ≠ src then s
    else xferFreed (answerOp x.op st detail (s.modFab fun f => { f with txXfer := tput f.txXfer key none }))

/-- R292, R294, R297: an acknowledgement. -/
def ackPacket (h : PktHdr) (body : List Byte) (s : State) : State :=
  let msg := fieldOf body 0 2
  let st := statusOf (fieldOf body 2 2)
  let detail := fieldOf body 4 4
  let s := updateRate h.src (fieldOf body 8 2) (fieldOf body 10 2) s
  let s := s.modFab fun f => { f with syncOut := f.syncOut.filter fun y => !(y.dest == h.src && y.msg == msg) }
  if h.redOp = 1 then transferAnswered h.src msg st detail s else messageAnswered h.src msg st detail s

/-- ACKNOWLEDGEMENT (R294). -/
def execAcknowledgement (payload : List Byte) (_marks : Fin 128) (s : State) : Host.Outcome State Fault Refusal :=
  headed payload ackPacket s

/-- R297: an atomic's reply is its acknowledgement, and brings the previous value. -/
def replyPacket (h : PktHdr) (body : List Byte) (s : State) : State :=
  match tget s.fab.tx h.msg with
  | none => s
  | some m =>
    let s := s.modFab fun f => { f with op := tmod f.op m.op fun o => o.map fun o => { o with value := fieldOf body 0 8 } }
    messageAnswered h.src h.msg (statusOf (fieldOf body 8 2)) 0 s

/-- ATOMIC_REPLY (R297). -/
def execAtomicReply (payload : List Byte) (_marks : Fin 128) (s : State) : Host.Outcome State Fault Refusal :=
  headed payload replyPacket s

/-- R289, R295: a packet with RESENT set. -/
def resentPacket (p : List Byte) : List Byte :=
  pktBytes { pktHdr p with resent := true } (p.drop 32)

/-- R295: every packet of a message is sent again. -/
def resendMessage (msg : Nat) (timed : Bool) (s : State) : State :=
  match tget s.fab.tx msg with
  | none => s
  | some m =>
    let s := s.modFab fun f =>
      { f with resends := wrapInc 16 f.resends
               tx := tput f.tx msg (some { m with frames := 0, resends := m.resends + bit timed }) }
    injectAll m.dest (m.packets.map resentPacket) s

/-- R295: the receiver asks for a message again. -/
def reRequestPacket (h : PktHdr) (body : List Byte) (s : State) : State :=
  match tget s.fab.tx (fieldOf body 0 2) with
  | some m => if m.dest = h.src then resendMessage (fieldOf body 0 2) false s else s
  | none => s

/-- RE_REQUEST (R295). -/
def execReRequest (payload : List Byte) (_marks : Fin 128) (s : State) : Host.Outcome State Fault Refusal :=
  headed payload reRequestPacket s

/-! ### Synchronisation packets and lane notices -/

/-- R172, R174, R175: what a release on another rank's device brings about here: the back-invalidate of a pair that the
host consumes, or the failure of a range that lies out of its region. -/
def syncArrived (entry : Nat) (s : State) : State :=
  match runningImage s with
  | none => s
  | some img =>
    match img.syncs[entry]? with
    | none => s
    | some e =>
      if e.consKind ≠ 3 then s
      else match rangeBad s e with
        | some st => failFrame st s
        | none => hostAcquire (rangeAddr s e) e.length s

/-- R175, R297: a synchronisation packet is counted once, and every copy is answered. -/
def syncPacket (marks : Nat) (h : PktHdr) (body : List Byte) (s : State) : State :=
  let p := (fieldOf body 0 4, fieldOf body 4 8)
  let s := if s.frm.released.contains p then s
    else syncArrived p.1 (s.modFrm fun f => { f with released := f.released ++ [p] })
  answerMsg h (ackData h.msg .sOk 0 1 marks) s

/-- SYNCHRONISATION (R297). -/
def execSynchronisation (payload : List Byte) (marks : Fin 128) (s : State) : Host.Outcome State Fault Refusal :=
  headed payload (syncPacket marks) s

/-- R287: a lane notice limits the blocks per slot in a reservation from the next slot on; one with eight lanes lifts the
limit. -/
def noticePacket (marks : Nat) (h : PktHdr) (body : List Byte) (s : State) : State :=
  receiveOne h (fun s =>
    let full := 8 ≤ fieldOf body 2 1
    (ackData h.msg .sOk 0 1 marks,
     s.modFab fun f =>
      { f with limit := tput f.limit (fieldOf body 1 1) (if full then none else some (fieldOf body 4 2))
               laneLimit := f.laneLimit || !full })) (answerMsg h) s

/-- LANE_NOTICE (R287). -/
def execLaneNotice (payload : List Byte) (marks : Fin 128) (s : State) : Host.Outcome State Fault Refusal :=
  headed payload (noticePacket marks) s

/-- SYNC_RESEND (R297): every synchronisation packet that has not been acknowledged goes out again, under its number. -/
def execSyncResend (s : State) : Host.Outcome State Fault Refusal :=
  .next (s.fab.syncOut.foldl (fun s y =>
    let data := leBytes 4 y.entry ++ leBytes 8 y.frame
    injectPacket y.dest (pktBytes { src := selfId s, msg := y.msg, count := 1, op := 0x0B, last := true,
                                    check := crc32c data } data) s) s)

/-! ### Timers -/

/-- R295: a number of frames have passed; a device in no domain is told so by the row itself. -/
def framesPassed (s : State) (frames n : Nat) : Bool :=
  n ≤ frames || s.frm.role == .none

/-- R295, R299: the receiver gives a message up. -/
def giveUpMessage (src msg : Nat) (s : State) : State :=
  let s := winBump 34 0 0 (s.modFab fun f => { f with rx := tput f.rx (src * 65536 + msg) none, msgIncomplete := true })
  escalate { row := 34, count := winCount s 34 0 0, posted := true, own := some (0x07, .eMsgIncomplete, src * 65536 + msg) } s

/-- R295: a message still incomplete eight frames after its first packet or the last re-request is asked for again, three
times in all, and then given up; one that has been dropped is forgotten. -/
def rerequest (src msg : Nat) (s : State) : State :=
  match tget s.fab.rx (src * 65536 + msg) with
  | none => s
  | some m =>
    if m.answer.isSome || !framesPassed s m.frames 8 then s
    else if m.dropped then s.modFab fun f => { f with rx := tput f.rx (src * 65536 + msg) none }
    else if 3 ≤ m.rereqs then giveUpMessage src msg s
    else
      let s := s.modFab fun f =>
        { f with rereqs := wrapInc 16 f.rereqs
                 rx := tput f.rx (src * 65536 + msg) (some { m with frames := 0, rereqs := m.rereqs + 1 }) }
      sendAnswer src { op := 0x0A } (leBytes 2 msg) s

/-- REREQUEST_TIMER (R295). -/
def execRerequestTimer (src : BitVec 14) (msg : Half) (s : State) : Host.Outcome State Fault Refusal :=
  .next (rerequest src.toNat msg.toNat s)

/-- R295: the source gives a message up. -/
def giveUpSending (msg : Nat) (m : TxMsg) (s : State) : State :=
  let s := s.modFab fun f => { f with tx := tput f.tx msg none }
  answerOp m.op .eUnreachable 0 s

/-- RESEND_TIMER (R295): sixteen frames after a message was last sent it is sent again, four times at most. -/
def execResendTimer (msg : Half) (s : State) : Host.Outcome State Fault Refusal :=
  .next (
    match tget s.fab.tx msg.toNat with
    | none => s
    | some m =>
      if !framesPassed s m.frames 16 then s
      else if m.resends < 4 then resendMessage msg.toNat true s
      else giveUpSending msg.toNat m s)

end Sys2Proof.Machine
end

