-- ==== Sys2Proof/Machine/Plans.lean ====
section
/-!
DEFINITION. Topology plans: reading and checking them, accepting them, and `topo.status` (R306-R312, R324).
-/

namespace Sys2Proof.Machine

/-! ### Reading a plan -/

/-- The first `n` pieces of `k` bytes. -/
def pieces_ (k : Nat) : Nat → List Byte → List (List Byte)
  | 0, _ => []
  | n + 1, bs => bs.take k :: pieces_ k n (bs.drop k)

/-- R54, R306: a plan's section table. -/
def planSections (bs : List Byte) : List Section_ :=
  (List.range (fieldOf bs 0x40 2)).map fun k =>
    let o := 128 + 16 * k
    { typ := fieldOf bs o 2, off := fieldOf bs (o + 4) 4, len := fieldOf bs (o + 8) 4, count := fieldOf bs (o + 12) 4,
      clean := fieldOf bs (o + 2) 2 == 0 }

/-- R307: the entry size of a section type; 0 for a type that there is not. -/
def planEntrySize (typ : Nat) : Nat :=
  match typ with
  | 0x0101 => 16
  | 0x0102 | 0x0103 => 8
  | 0x0104 => 4
  | _ => 0

/-- R307: the entries of a section, as bytes. -/
def planEntries (bs : List Byte) (ss : List Section_) (typ : Nat) : List (List Byte) :=
  match sectionOf ss typ with
  | none => []
  | some x => pieces_ (planEntrySize typ) x.count (bs.drop x.off)

/-- R307: a NEIGHBOURS entry. -/
def planNbOf (b : List Byte) : PlanNb :=
  { role := fieldOf b 1 1, farStrand := fieldOf b 2 1, foreign := (fieldOf b 3 1).testBit 0,
    farDevice := fieldOf b 4 2 % 2 ^ 14, latMax := fieldOf b 6 2, farDigest := fieldOf b 8 8 }

/-- R282, R307: a RESERVATIONS entry. -/
def resvOf (b : List Byte) : Resv :=
  { strand := fieldOf b 0 1, resv := fieldOf b 1 1, firstSlot := fieldOf b 2 2, slotCount := fieldOf b 4 2 }

/-- R282, R307: a TRANSIT entry. -/
def transitOf (b : List Byte) : Transit :=
  { inStrand := fieldOf b 0 1, resv := fieldOf b 1 1, outStrand := fieldOf b 2 1 }

/-- R307: the ROUTES section as a table: destinations without a route are not listed. -/
def routesOf : Nat → List (List Byte) → Tab Nat
  | _, [] => []
  | i, b :: bs => if leNat b = 0 then routesOf (i + 1) bs else (i, leNat b) :: routesOf (i + 1) bs

/-- R306, R307: a plan, read. -/
def readPlan (bs : List Byte) : Plan :=
  let ss := planSections bs
  { deviceId := fieldOf bs 0x0C 2 % 2 ^ 14, domain := fieldOf bs 0x0E 2, domainSize := fieldOf bs 0x10 2,
    whorl := fieldOf bs 0x12 2, standby := fieldOf bs 0x14 2, parent := fieldOf bs 0x16 1, sbParent := fieldOf bs 0x17 1,
    domDigest := fieldOf bs 0x18 8, children := fieldOf bs 0x20 8, sbChildren := fieldOf bs 0x28 8,
    parentAlt := fieldOf bs 0x30 8, sbParentAlt := fieldOf bs 0x38 8
    nbs := (planEntries bs ss 0x0101).map planNbOf
    tables :=
      { routes := routesOf 0 (planEntries bs ss 0x0102), resvs := (planEntries bs ss 0x0103).map resvOf,
        transits := (planEntries bs ss 0x0104).map transitOf }
    tag := leNat ((Config.sha512 bs).toList.take 8) }

/-! ### Checks of `plan.load` -/

/-- R306, R308 check 1: a fault in the header. -/
def planHeaderBad (bs : List Byte) (length : Nat) : Bool :=
  fieldOf bs 0 4 != 0x4E4D5850 || fieldOf bs 4 2 != 1 || fieldOf bs 6 2 != 0 || fieldOf bs 8 4 != length ||
    length < 128 + 16 * fieldOf bs 0x40 2 || 2 ^ 14 ≤ fieldOf bs 0x0C 2 || fieldOf bs 0x10 2 == 0 ||
    4096 < fieldOf bs 0x10 2 || 2 ^ 14 ≤ fieldOf bs 0x12 2 || (2 ^ 14 ≤ fieldOf bs 0x14 2 && fieldOf bs 0x14 2 != 0xFFFF) ||
    fieldOf bs 0x12 2 == fieldOf bs 0x14 2 || fieldOf bs 0x42 62 != 0

/-- R54, R306, R308 check 1: a fault in a section-table entry. -/
def planSectionBad (ss : List Section_) (length k : Nat) (x : Section_) : Bool :=
  planEntrySize x.typ == 0 || !x.clean || (ss.take k).any (fun y => y.typ == x.typ) || x.off % 64 != 0 ||
    x.off < 128 + 16 * ss.length || length < x.off + x.len || x.len != x.count * planEntrySize x.typ ||
    ((ss.take k).any fun y => overlaps x.off x.len y.off y.len) || (x.typ == 0x0101 && x.count != 64) ||
    (x.typ == 0x0102 && x.count != 16384)

/-- R307, R308 check 1: reserved fields and numbers of the entries. -/
def planEntriesBad (bs : List Byte) (ss : List Section_) : Bool :=
  let nb := planEntries bs ss 0x0101
  ((List.range nb.length).zip nb).any (fun e =>
      fieldOf e.2 0 1 != e.1 || 2 < fieldOf e.2 1 1 || 1 < fieldOf e.2 3 1 || 2 ^ 14 ≤ fieldOf e.2 4 2) ||
    (planEntries bs ss 0x0103).any (fun b => fieldOf b 6 2 != 0) ||
    (planEntries bs ss 0x0104).any fun b => fieldOf b 3 1 != 0

/-- R308 check 1. -/
def planFormBad (bs : List Byte) (length : Nat) : Bool :=
  let ss := planSections bs
  planHeaderBad bs length || ((List.range ss.length).zip ss).any (fun e => planSectionBad ss length e.1 e.2) ||
    (sectionOf ss 0x0101).isNone || (sectionOf ss 0x0102).isNone || planEntriesBad bs ss

/-- R308 check 2: PARENT and SB_PARENT against the roles. -/
def planParentsBad (p : Plan) : Bool :=
  (p.parent == 0xFF) != (p.deviceId == p.whorl) ||
    (p.sbParent == 0xFF) != (p.deviceId == p.standby || p.standby == 0xFFFF)

/-- R307: a strand's entry is a link. -/
def isPlanLink (p : Plan) (n : Nat) : Bool :=
  ((p.nbs[n]?).map (·.role)) == some 1

/-- R308 check 3: a strand of a tree or a circuit: a link that is not FOREIGN. -/
def isInnerLink (p : Plan) (n : Nat) : Bool :=
  isPlanLink p n && !((p.nbs[n]?).map (·.foreign)).getD true

/-- R308 check 3: the strands of a mask. -/
def maskAll (mask : Nat) (ok : Nat → Bool) : Bool :=
  (List.range 64).all fun n => !mask.testBit n || ok n

/-- R307: FAR_DEVICE of a strand. -/
def farDevice (p : Plan) (n : Nat) : Option Nat :=
  (p.nbs[n]?).map (·.farDevice)

/-- R308 check 3: the strands that a plan names. -/
def planStrandsBad (p : Plan) : Bool :=
  !((p.parent == 0xFF || isInnerLink p p.parent) && (p.sbParent == 0xFF || isInnerLink p p.sbParent)
    && maskAll p.children (isInnerLink p) && maskAll p.sbChildren (isInnerLink p)
    && maskAll p.parentAlt (fun n => isInnerLink p n && farDevice p n == farDevice p p.parent)
    && maskAll p.sbParentAlt (fun n => isInnerLink p n && farDevice p n == farDevice p p.sbParent)
    && p.tables.routes.all (fun e => maskAll e.2 (isPlanLink p))
    && p.tables.resvs.all (fun e => isInnerLink p e.strand)
    && p.tables.transits.all (fun e => isInnerLink p e.inStrand && isInnerLink p e.outStrand)
    && tget p.tables.routes p.deviceId == 0)

/-- R308 check 4: the whorl and its standby are neighbours. -/
def planWhorlBad (p : Plan) : Bool :=
  (p.deviceId == p.whorl && p.standby != 0xFFFF &&
      !((List.range 64).any fun n => p.children.testBit n && farDevice p n == some p.standby)) ||
    (p.deviceId == p.standby && farDevice p p.parent != some p.whorl) ||
    (p.standby == 0xFFFF && (p.sbChildren != 0 || p.sbParentAlt != 0))

/-- R283: two reservation entries share a slot. -/
def resvsMeet (a b : Resv) : Bool :=
  a.strand == b.strand && overlaps a.firstSlot a.slotCount b.firstSlot b.slotCount

/-- R283, R308 check 5. -/
def planOversub (p : Plan) : Bool :=
  let es := (List.range p.tables.resvs.length).zip p.tables.resvs
  es.any (fun e => 976 < e.2.firstSlot + e.2.slotCount || (p.tables.resvs.take e.1).any (resvsMeet e.2)) ||
    p.tables.transits.any fun t => !p.tables.resvs.any fun e => e.strand == t.outStrand && e.resv == t.resv

/-- R308: the checks of a plan, in order. -/
def planFlaw (bs : List Byte) (length : Nat) : Option Status :=
  if planFormBad bs length then some .ePlanFormat
  else
    let p := readPlan bs
    if planParentsBad p || planStrandsBad p || planWhorlBad p then some .ePlanFormat
    else if planOversub p then some .eCircuitOversub
    else none

/-- R243, R308: `plan.load`; the region's checks are those of R199. -/
def planLoad (m : Nat) (r : MbxReq) (s : State) : State :=
  let h := fieldOf r.params 0 4
  let n := fieldOf r.params 4 4
  let o := fieldOf r.params 8 8
  match checkOperands s (anyTenant s h) [{ num := 1, handle := h, off := o, len := n }] with
  | some (st, d) => failMbx m st d s
  | none =>
    let rd := flyerRead (regionAddr s h o) n s
    match rd.err <|> planFlaw rd.bytes n with
    | some st => failMbx m st 0 rd.s
    | none =>
      let p := readPlan rd.bytes
      completeMbx m .sOk 0 (leBytes 8 p.tag) (rd.s.modTop fun t => { t with loaded := some p })

/-- PLAN_LOAD (R308). -/
def execPlanLoad (mbx : MbxId) (s : State) : Host.Outcome State Fault Refusal :=
  .next (casbomi 0x0050 mbx (planLoad mbx) s)

/-! ### Alignment and summaries on their way -/

/-- R301: bytes 48 to 63 of an alignment block. -/
def alignBytes (tree : Nat) (p : TreePos) : List Byte :=
  layoutBytes 16 [(0, 1, tree), (1, 1, p.depth), (4, 4, p.lat)]

/-- R301: bytes 48 to 63 of a form block. -/
def formBytes (s : State) : List Byte :=
  layoutBytes 16 [(4, 4, s.frm.alignA), (8, 4, if s.frm.noStandby then 0xFFFFFFFF else s.frm.alignA2)]

/-- R313: an alignment block on every strand of a list; the child's summary is awaited anew. -/
def sendAlign (tree : Nat) (p : TreePos) : List Nat → State → State
  | [], s => s
  | n :: ns, s =>
    let s := s.modDisc n fun d => if tree = 0 then { d with sum0 := none } else { d with sum1 := none }
    sendAlign tree p ns (sendDiscovery n 3 (alignBytes tree p) s)

/-- R313: a form block on every strand of a list. -/
def sendForm : List Nat → State → State
  | [], s => s
  | n :: ns, s => sendForm ns (sendDiscovery n 4 (formBytes s) s)

/-- R313 step 3: a summary goes once every MATCHED child of the tree has sent one. -/
def trySummary (tree : Nat) (s : State) : State :=
  match treePos s tree with
  | none => s
  | some p => if !p.sent && (matchedChildren s tree).all (fun n => (childSum s tree n).isSome) then sendSummary tree s else s

/-- R313 steps 1 and 2: this device takes its place in a tree and forwards the alignment. -/
def joinTree (tree : Nat) (p : TreePos) (s : State) : State :=
  let s := s.modTop fun t => if tree = 0 then { t with main := some p } else { t with sb := some p }
  trySummary tree (sendAlign tree p (matchedChildren s tree) s)

/-! ### `plan.accept` -/

/-- R311: no plan that forms a domain may be accepted now. -/
def programActive (s : State) : Bool :=
  s.frm.prog == .running || s.frm.prog == .startPending

/-- R311: the loaded plan is a revision of the accepted one. -/
def isRevision (s : State) (p : Plan) : Bool :=
  (s.top.plan.map (·.domDigest)) == some p.domDigest

/-- R309, R311: the strands' states towards a plan. -/
def statesUnder (s : State) (p : Plan) : List DiscState :=
  let s := s.modTop fun t => { t with plan := some p }
  (List.range 64).map fun n => (strandState s n).1

/-- The strands in a state, as a mask. -/
def stateMask (ds : List DiscState) (d : DiscState) : Nat :=
  maskOf 64 fun n => ds[n]? == some d

/-- R311: the reply of `plan.accept`. -/
def acceptReply (ds : List DiscState) : List Byte :=
  leBytes 8 (bit (ds.all DiscState.good)) ++ leBytes 8 (stateMask ds .absent) ++ leBytes 8 (stateMask ds .quarantined)

/-- R311: the device leaves its domain, and the plan takes effect. -/
def takePlan (p : Plan) (s : State) : State :=
  let s := s.modTop fun t =>
    { t with plan := some p, loaded := none, revision := none, formed := false, main := none, sb := none, sbTotals := none,
             formSent := false, sumCount := 0, sumMatch := false, inUse := 0xFF, sbInUse := 0xFF, tooFar := false
             disc := tmap t.disc fun d => { d with st := .out, sum0 := none, sum1 := none, fresh := false, rejoined := false } }
  let s := s.modFab fun f => { f with deviceId := some p.deviceId, tables := p.tables, staged := none, routed := true }
  s.modFrm fun f =>
    { f with role := .none, noStandby := false, cur := {}, next := none, replied := false, kids := [], supp := none,
             wStart := none, wStop := none, wRunning := none, wDrain := false, ann := none, period := 50, det := false,
             pause := false, locked := false, stretch := 0, held := 0, number := 0, cfgEpoch := 0,
             alignA := 0, alignA2 := 0, latL := 0, latL2 := 0, latNew := 0, latNew2 := 0 }

/-- R313 step 1: the whorl and the standby begin the exchange. -/
def beginForming (p : Plan) (s : State) : State :=
  let s := if planRole p = .whorl then joinTree 0 {} s else s
  if planRole p = .standby then joinTree 1 {} s else s

/-- R311: a plan that forms a domain takes effect at once, and forming begins. -/
def formPlan (p : Plan) (s : State) : State :=
  beginForming p (reevaluateAll (List.range 64) (takePlan p s))

/-- R311: the effect of accepting a plan, once no strand is DISCOVERING. -/
def finishAccept (m : Nat) (p : Plan) (s : State) : State :=
  let ds := statesUnder s p
  let s := s.modTop fun t => { t with accepting := none }
  let s :=
    if isRevision s p then
      (s.modTop fun t => { t with revision := some p, loaded := none }).modFab fun f => { f with staged := some p.tables }
    else formPlan p s
  completeMbx m (if ds.all DiscState.good then .sOk else .sPlanMismatch) 0 (acceptReply ds) s

/-- R309, R311: a strand is still inside its 20 ms. -/
def discovering (s : State) : Bool :=
  (List.range 64).any fun n => inService s n && (s.discAt n).nb == .waiting

/-- R311: `plan.accept`. -/
def planAccept (m : Nat) (r : MbxReq) (s : State) : State :=
  match s.top.loaded with
  | none => failMbx m .ePlanFormat 0 s
  | some p =>
    if fieldOf r.params 0 8 ≠ p.tag then failMbx m .ePlanFormat 0 s
    else if !isRevision s p && programActive s then failMbx m .eState 0 s
    else if discovering s then s.modTop fun t => { t with accepting := some m }
    else finishAccept m p s

/-- PLAN_ACCEPT (R311). -/
def execPlanAccept (mbx : MbxId) (s : State) : Host.Outcome State Fault Refusal :=
  .next (casbomi 0x0051 mbx (planAccept mbx) s)

/-- R311: a `plan.accept` that waits goes on once no strand is DISCOVERING. -/
def resumeAccept (s : State) : State :=
  match s.top.accepting, s.top.loaded with
  | some m, some p => if discovering s then s else finishAccept m p s
  | _, _ => s

/-! ### `topo.status` -/

/-- R324: the record of a strand. -/
def topoRecord (s : State) (n : Nat) : List Byte :=
  let d := s.discAt n
  let h := d.hello.getD {}
  let known := d.hello.isSome
  let ticks := s.top.formed && (tickStrand s (tickTree s.frm.cur) == some n)
  let child := (childStrands s 0).contains n || (childStrands s 1).contains n
  let foreign := ((planNb s n).map (·.foreign)).getD false
  layoutBytes 16
    [(0, 1, n), (1, 1, d.st.code), (2, 1, if known then h.strand else 0xFF),
     (3, 1, packBits [(7, 4, d.reason), (3, 3, bit ticks), (2, 2, bit child), (1, 1, bit foreign),
                      (0, 0, bit (known && h.idValid))]),
     (4, 2, if d.samples.length = 64 then d.latency else 0xFFFF), (6, 2, h.feed), (8, 8, h.digest)]

/-- R324: `topo.status`. -/
def topoStatus (m : Nat) (_r : MbxReq) (s : State) : State :=
  completeMbx m .sOk 0 ((List.range 64).flatMap (topoRecord s)) s

/-- TOPO_STATUS (R324). -/
def execTopoStatus (mbx : MbxId) (s : State) : Host.Outcome State Fault Refusal :=
  .next (casbomi 0x0052 mbx (topoStatus mbx) s)

end Sys2Proof.Machine
end

