-- ==== Sys2Proof/Machine/HostConfig.lean ====
section
/-!
DEFINITION. What the function presents to the host (R211, R215, R216, R219, R228): its identity, BARs and DVSECs in
configuration space, and the component registers of BAR0. The manual gives the contents and leaves the places of the
fields to the PCI Express and CXL 3.1 specifications; those taken here are [PRESUMED 94].
-/

namespace Sys2Proof.Machine

/-- R215: Vendor ID, Device ID and class code. -/
def vendorId : Nat := 0xD21E
def deviceIdNumber : Nat := 0x0004
def classCode : Nat := 0x120000

/-- R216: the size of a BAR; the odd ones are the upper halves of 64-bit BARs, and BAR4 and BAR5 are not implemented. -/
def barSize : Nat → Nat
  | 0 => 64 * 2 ^ 20
  | 2 => 16 * 2 ^ 20
  | _ => 0

/-- R215: the capability word of the CXL Devices DVSEC: Cache_Capable, IO_Capable, Mem_Capable, HDM_Count 1, Cache
Writeback and Invalidate Capable, and CXL Reset not capable. -/
def cxlCapability : Nat :=
  packBits [(0, 0, 1), (1, 1, 1), (2, 2, 1), (5, 4, 1), (6, 6, 1), (7, 7, 0)]

/-- R215, R223: the second capability word: a cache of 4 MiB, in units of 1 MiB. -/
def cxlCapability2 : Nat :=
  packBits [(3, 0, 2), (15, 8, 4)]

/-- The header of a DVSEC of the CXL consortium: its identifier's two words. -/
def dvsecHeader (next len : Nat) : Nat × Nat :=
  (packBits [(15, 0, 0x0023), (19, 16, 1), (31, 20, next)], packBits [(15, 0, 0x1E98), (31, 20, len)])

/-- R215, R219: the words of the CXL Devices DVSEC, which reports the window's size. -/
def cxlDevicesRead (s : State) : Nat → Nat
  | 0x00 => (dvsecHeader 0x140 0x38).1
  | 0x04 => (dvsecHeader 0x140 0x38).2
  | 0x08 => packBits [(15, 0, 0x0000), (31, 16, cxlCapability)]
  | 0x0C => packBits [(0, 0, bit (s.hp.proto.getLsbD 1)), (1, 1, bit (s.hp.proto.getLsbD 0)),
      (2, 2, bit (s.hp.proto.getLsbD 2))]
  | 0x10 => packBits [(1, 1, bit s.hp.wbinv)]
  | 0x14 => packBits [(31, 16, cxlCapability2)]
  | 0x18 => s.hp.winSize * 2 ^ 28 / 2 ^ 32
  | 0x1C => s.hp.winSize * 2 ^ 28 % 2 ^ 32 + packBits [(0, 0, 1), (1, 1, 1)]
  | _ => 0

/-- R215: the words of the Flex Bus Port DVSEC. -/
def flexBusRead (s : State) : Nat → Nat
  | 0x00 => (dvsecHeader 0x160 0x14).1
  | 0x04 => (dvsecHeader 0x160 0x14).2
  | 0x08 => packBits [(15, 0, 0x0007), (16, 16, 1), (17, 17, 1), (18, 18, 1), (21, 21, 1)]
  | 0x0C => packBits [(16, 16, bit (s.hp.proto.getLsbD 1)), (17, 17, bit (s.hp.proto.getLsbD 0)),
      (18, 18, bit (s.hp.proto.getLsbD 2))]
  | _ => 0

/-- R215: the words of the Register Locator DVSEC: the component registers at BAR0 offset 0x008_0000. -/
def locatorRead : Nat → Nat
  | 0x00 => (dvsecHeader 0 0x14).1
  | 0x04 => (dvsecHeader 0 0x14).2
  | 0x08 => packBits [(15, 0, 0x0008)]
  | 0x0C => packBits [(2, 0, 0), (15, 8, 1), (31, 16, 0x0008)]
  | _ => 0

/-- R215, R216: a word of the function's configuration space. -/
def cfgRead (s : State) (o : Nat) : Nat :=
  match o with
  | 0x00 => packBits [(15, 0, vendorId), (31, 16, deviceIdNumber)]
  | 0x08 => packBits [(31, 8, classCode)]
  | 0x10 | 0x18 => packBits [(2, 1, 2)]
  | 0x44 => packBits [(1, 0, if s.hp.d3 then 3 else 0)]
  | _ =>
    if 0x100 ≤ o ∧ o < 0x140 then cxlDevicesRead s (o - 0x100)
    else if 0x140 ≤ o ∧ o < 0x160 then flexBusRead s (o - 0x140)
    else if 0x160 ≤ o ∧ o < 0x180 then locatorRead (o - 0x160)
    else 0

/-- R211, R225, R228: the RAS capability: poison received on CXL.cache, and a failed integrity check. -/
def rasRead (s : State) : Nat → Nat
  | 0x00 => packBits [(16, 16, bit s.hp.rasIde)]
  | 0x0C => packBits [(4, 4, bit s.hp.rasPoison)]
  | _ => 0

/-- R211, R219: the HDM decoder: its committed range, and Error Not Committed. -/
def decoderRead (s : State) : Nat → Nat
  | 0x10 => s.hp.db % 2 ^ 32
  | 0x14 => s.hp.db / 2 ^ 32
  | 0x18 => if s.hp.decoder then s.hp.winSize * 2 ^ 28 % 2 ^ 32 else 0
  | 0x1C => if s.hp.decoder then s.hp.winSize * 2 ^ 28 / 2 ^ 32 else 0
  | 0x20 => packBits [(9, 9, bit s.hp.decoder), (10, 10, bit s.hp.decoder), (11, 11, bit s.hp.decErr), (13, 13, 1)]
  | _ => 0

/-- R211, R225: CXL.cachemem IDE: both modes are offered; the mode and the state of the stream. -/
def cxlIdeRead (s : State) : Nat → Nat
  | 0x00 => packBits [(0, 0, 1), (1, 1, 1), (2, 2, 1)]
  | 0x08 => packBits [(3, 0, if s.hp.ideCm = .insecure then 4 else if s.hp.ideCm = .off then 0
      else if s.hp.containment then 1 else 2)]
  | _ => 0

/-- R215: an entry of the table of component capabilities: identifier and offset. -/
def capEntry (id off : Nat) : Nat :=
  packBits [(15, 0, id), (19, 16, 1), (31, 20, off)]

/-- R215: a word of the component register block of BAR0: the CXL.cachemem capabilities at 0x1000, then RAS, link, HDM
decoder, BI decoder and IDE. -/
def componentRead (s : State) (o : Nat) : Nat :=
  match o with
  | 0x1000 => packBits [(15, 0, 1), (19, 16, 1), (23, 20, 1), (31, 24, 5)]
  | 0x1004 => capEntry 0x2 0x080
  | 0x1008 => capEntry 0x4 0x100
  | 0x100C => capEntry 0x5 0x180
  | 0x1010 => capEntry 0xC 0x200
  | 0x1014 => capEntry 0x7 0x280
  | _ =>
    if 0x1080 ≤ o ∧ o < 0x1100 then rasRead s (o - 0x1080)
    else if 0x1180 ≤ o ∧ o < 0x1200 then decoderRead s (o - 0x1180)
    else if 0x1280 ≤ o ∧ o < 0x1300 then cxlIdeRead s (o - 0x1280)
    else 0

end Sys2Proof.Machine
end

