-- ==== Sys2Proof/Machine/Security.lean ====
section
/-!
DEFINITION. Chapter 16: measurements and attestation, tenant policy and debug unlock; chapter 8: IDE, DOE and the SPDM
messages it carries. The DMTF and PCI-SIG message formats are not in the manual: a response is recorded with the
content that the manual gives it, in this model's own layout [PRESUMED 5].
-/

namespace Sys2Proof.Machine

/-! ### Measurements -/

/-- R392: the image that runs. -/
def runningFw (s : State) : FwImage :=
  (s.slotAt s.sec.booted).image.getD {}

/-- R399: the bytes that measurement 2 digests. -/
def hardwareConfig (s : State) : List Byte :=
  s.sec.rootDigest ++ leBytes 8 s.sec.svnWord.toNat ++ leBytes 1 (bit s.sec.debugUnlocked)

/-- R399: the 64-byte record of measurement 8. -/
def numericsRecord (s : State) : List Byte :=
  leBytes 4 s.pkg.pkgCap.toNat ++ leBytes 4 (s.fly.fwMajor * 65536 + s.fly.fwMinor)
    ++ (s.pkg.dieCap.toList.flatMap fun c => leBytes 4 c.toNat) ++ leBytes 8 s.sec.svnWord.toNat ++ List.replicate 24 0

/-- R399: measurement `i`, 64 bytes, for indices 1 to 8. -/
def measurement (s : State) (i : Nat) : List Byte :=
  match i with
  | 1 => s.sec.romDigest
  | 2 => (Config.sha512 (hardwareConfig s)).toList
  | 3 => fitBytes 64 ((runningFw s).digests.getD 0 [])
  | 4 => fitBytes 64 ((runningFw s).digests.getD 1 [])
  | 5 => fitBytes 64 ((runningFw s).digests.getD 2 [])
  | 6 => fitBytes 64 ((s.frm.image.map (·.meas)).getD [])
  | 7 => fitBytes 64 ((s.frm.image.map (·.signer)).getD [])
  | 8 => numericsRecord s
  | _ => []

/-- R399: all eight measurements in order. -/
def measurements (s : State) : List Byte :=
  (List.range 8).flatMap fun i => measurement s (i + 1)

/-- ATTEST_MEASURE (R400): COUNT = 8, then the eight entries. -/
def execAttestMeasure (mbx : MbxId) (s : State) : Host.Outcome State Fault Refusal :=
  .next (casbomi 0x0091 mbx (fun _ s => completeMbx mbx .sOk 0 (leBytes 8 8 ++ measurements s) s) s)

/-! ### tenant.policy -/

/-- R403: SIGNED_FRAMES of a tenant, set or cleared; the list stays ascending. -/
def setSigned (t : Nat) (on : Bool) (l : List Nat) : List Nat :=
  let rest := l.filter (· ≠ t)
  if on then rest.filter (· < t) ++ [t] ++ rest.filter (t < ·) else rest

/-- R403: a frame program loaded with this TENANT is loaded, pending start or running. -/
def tenantLoaded (s : State) (t : Nat) : Bool :=
  s.frm.prog != .noImage && (s.frm.image.map (·.tenant)) == some t

/-- R403: `tenant.policy`; a write of device records, which fails once the flash is read-only (R373). -/
def tenantPolicy (m : Nat) (r : MbxReq) (s : State) : State :=
  let t := fieldOf r.params 0 2
  if tenantLoaded s t then failMbx m .eState 0 s
  else if s.res.flashRo then failMbx m .eFlash 0 s
  else completeMbx m .sOk 0 []
    (s.modSec fun x => { x with signedFrames := setSigned t ((fieldOf r.params 2 2).testBit 0) x.signedFrames })

/-- TENANT_POLICY (R403). -/
def execTenantPolicy (mbx : MbxId) (s : State) : Host.Outcome State Fault Refusal :=
  .next (casbomi 0x0092 mbx (tenantPolicy mbx) s)

/-! ### debug.unlock -/

/-- R404: the 64 bytes of a challenge: a nonce, SERIAL_DIGEST, the SVN word, the firmware version, zeros. -/
def challengeBytes (s : State) : List Byte :=
  leBytes 32 (Config.freeNat s.free) ++ leBytes 8 s.top.serial ++ leBytes 8 s.sec.svnWord.toNat
    ++ leBytes 2 s.fly.fwMajor ++ leBytes 2 s.fly.fwMinor ++ List.replicate 12 0

/-- R404: phase 0x00: a challenge, only in READY without an image. -/
def issueChallenge (m : Nat) (s : State) : State :=
  if s.pkg.devState = .ready && s.frm.prog == .noImage then
    let c := challengeBytes s
    completeMbx m .sOk 0 c (s.drawFree.modSec fun x => { x with challenge := some c, challengeStale := false })
  else failMbx m .eState 0 s

/-- R404: a response is accepted: a live challenge that is not stale, fewer than three failures, a signature by the
running image's debug authority key. -/
def responseGood (s : State) (sig : List Byte) : Bool :=
  match s.sec.challenge with
  | none => false
  | some c => !s.sec.challengeStale && s.sec.failed < 3 && Config.rsaVerify (runningFw s).debugKey c sig

/-- R404: phase 0x01: the challenge is spent whatever the outcome; success brings a PACKAGE reset with the unlock. -/
def takeResponse (m : Nat) (r : MbxReq) (s : State) : State :=
  let good := responseGood s (sliceBytes r.params 8 512)
  let s := s.modSec fun x => { x with challenge := none, challengeStale := false }
  if good then
    triggerReset .package .debugUnlock (completeMbx m .sOk 0 [] (s.modSec fun x => { x with unlockNext := true }))
  else failMbx m .eDebugDenied 0 (s.modSec fun x => { x with debugDenied := true, failed := satInc 15 x.failed })

/-- DEBUG_UNLOCK_CHALLENGE (R404). -/
def execDebugUnlockChallenge (mbx : MbxId) (s : State) : Host.Outcome State Fault Refusal :=
  .next (if ((s.mbxAt mbx).req.map fun r => fieldOf r.params 0 1) == some 0 then
    casbomi 0x0093 mbx (fun _ s => issueChallenge mbx s) s else s)

/-- DEBUG_UNLOCK_RESPONSE (R404); a PHASE that R243 does not list is a parameter it rejects. -/
def execDebugUnlockResponse (mbx : MbxId) (s : State) : Host.Outcome State Fault Refusal :=
  .next (if ((s.mbxAt mbx).req.map fun r => fieldOf r.params 0 1) == some 0 then s
    else casbomi 0x0093 mbx (fun r s =>
      if fieldOf r.params 0 1 = 1 then takeResponse mbx r s else failMbx mbx .eCommand 0x10 s) s)

/-- DEBUG_CHALLENGE_EXPIRY (R404): 60 s after issue. -/
def execDebugChallengeExpiry (s : State) : Host.Outcome State Fault Refusal :=
  .next (s.modSec fun x => { x with challenge := none, challengeStale := false })

/-! ### IDE and the link -/

/-- IDE_INTEGRITY_FAIL (R225, R228): the stream becomes Insecure, traffic stops, the event is logged. -/
def execIdeIntegrityFail (cachemem : Bool) (s : State) : Host.Outcome State Fault Refusal :=
  .next (
    if (if cachemem then s.hp.ideCm else s.hp.ideIo) = .secure then
      escalate { row := 20, l2 := true } (s.modHp fun h =>
        if cachemem then { h with ideCm := .insecure, heldCm := true, ideFail := true, rasIde := true }
        else { h with ideIo := .insecure, heldIo := true, ideFail := true })
    else s)

/-! ### DOE -/

/-- R226, R225: the DOE instance serves an object: the firmware runs, the link is up, no stream is Insecure. -/
def doeUp (s : State) : Bool :=
  s.pkg.flyerRuns && s.hp.rate != 0 && s.hp.ideIo != .insecure && s.hp.ideCm != .insecure

/-- R211: the object types the instance serves, as vendor, type, next index: Discovery, CMA/SPDM, Secured CMA/SPDM,
CDAT. [PRESUMED 5] -/
def doeProtocols : List (Nat × Nat) :=
  [(0x0001, 0), (0x0001, 1), (0x0001, 2), (0x1E98, 2)]

/-- DOE_DISCOVERY (R226): the protocol at an index, and the index of the next, 0 after the last. -/
def execDoeDiscovery (index : Byte) (s : State) : Host.Outcome State Fault Refusal :=
  .next (if doeUp s then
    let p := doeProtocols.getD index.toNat (0, 0)
    s.emit (.doe (leBytes 2 p.1 ++ leBytes 1 p.2 ++ leBytes 1 (if index.toNat + 1 < 4 then index.toNat + 1 else 0)))
    else s)

/-- CDAT_READ (R226): DSMAS with the window's size in bytes (8), then DSLBIS read and write latency in ns and read and
write bandwidth in GB/s (4 bytes each). [PRESUMED 5] -/
def execCdatRead (s : State) : Host.Outcome State Fault Refusal :=
  .next (if doeUp s then
    s.emit (.doe (leBytes 8 (s.hp.winSize * 0x10000000) ++ leBytes 4 300 ++ leBytes 4 300 ++ leBytes 4 100 ++ leBytes 4 100))
    else s)

/-! ### SPDM -/

/-- R226: the instance accepts a data object: of at most 64 KiB. The exchange is one with its request [DC 93]. -/
def doeTakes (s : State) (req : List Byte) : Bool :=
  doeUp s && req.length ≤ 2 ^ 16

/-- R398: an ERROR response with an error code. [PRESUMED 5] -/
def spdmError (code : Nat) (s : State) : State :=
  s.emit (.spdm 0x7F (leBytes 1 code) false)

/-- R389, R398: a response signed with the identity key over the request and the response's content. -/
def spdmSigned (code : Nat) (req content : List Byte) (s : State) : State :=
  s.drawFree.emit (.spdm code (content ++ (Config.rsaSign s.free (req ++ content)).toList) true)

/-- R398: a request that needs the algorithms negotiated; before that it is unexpected. [PRESUMED 5] -/
def spdmReady (req : List Byte) (f : State → State) (s : State) : State :=
  if !doeTakes s req then s else if s.hp.negotiated then f s else spdmError 0x04 s

/-- GET_VERSION (R398): SPDM 1.3; a connection begins anew. -/
def execGetVersion (req : List Byte) (s : State) : Host.Outcome State Fault Refusal :=
  .next (if doeTakes s req then
    (s.modHp fun h => { h with versioned := true, negotiated := false }).emit (.spdm 0x04 (leBytes 2 0x1300) false)
    else s)

/-- GET_CAPABILITIES (R398): the capabilities of the table, in the places of the SPDM flags word. [PRESUMED 5] -/
def execGetCapabilities (req : List Byte) (s : State) : Host.Outcome State Fault Refusal :=
  .next (if !doeTakes s req then s
    else if s.hp.versioned then s.emit (.spdm 0x61 (leBytes 4 0x62D6) false) else spdmError 0x04 s)

/-- NEGOTIATE_ALGORITHMS (R398): RSAPSS 4096, SHA-512, secp384r1, AES-256-GCM, measurement SHA-512. [PRESUMED 5] -/
def execNegotiateAlgorithms (req : List Byte) (s : State) : Host.Outcome State Fault Refusal :=
  .next (if !doeTakes s req then s
    else if s.hp.versioned then
      (s.modHp fun h => { h with negotiated := true }).emit
        (.spdm 0x63 (leBytes 4 0x40 ++ leBytes 4 0x4 ++ leBytes 4 0x10 ++ leBytes 4 0x2 ++ leBytes 4 0x8) false)
    else spdmError 0x04 s)

/-- GET_DIGESTS (R398): slot 0 only. -/
def execGetDigests (req : List Byte) (s : State) : Host.Outcome State Fault Refusal :=
  .next (spdmReady req (fun s => s.emit (.spdm 0x01 (leBytes 1 1 ++ (Config.sha512 Config.certChain).toList) false)) s)

/-- GET_CERTIFICATE (R398): the slot in byte 2, an offset and a length in bytes 4 to 7; the chain of slot 0 without
chunking. [PRESUMED 5] -/
def execGetCertificate (req : List Byte) (s : State) : Host.Outcome State Fault Refusal :=
  .next (spdmReady req (fun s =>
    let off := fieldOf req 4 2
    let part := (Config.certChain.drop off).take (fieldOf req 6 2)
    if fieldOf req 2 1 ≠ 0 || Config.certChain.length < off then spdmError 0x01 s
    else s.emit (.spdm 0x02
      (leBytes 2 part.length ++ leBytes 2 (Config.certChain.length - off - part.length) ++ part) false)) s)

/-- CHALLENGE (R398): CHALLENGE_AUTH with the chain's digest, a nonce and the digest of all measurements, signed. -/
def execChallenge (req : List Byte) (s : State) : Host.Outcome State Fault Refusal :=
  .next (spdmReady req (fun s =>
    if fieldOf req 2 1 ≠ 0 then spdmError 0x01 s
    else spdmSigned 0x03 req ((Config.sha512 Config.certChain).toList ++ leBytes 32 (Config.freeNat s.free)
      ++ (Config.sha512 (measurements s)).toList) s.drawFree) s)

/-- R399: the measurement blocks a request asks for: 0 the count alone, 1 to 8 one block, 0xFF all of them. -/
def measurementBlocks (s : State) (op : Nat) : Option (List Byte) :=
  if op = 0 then some (leBytes 1 8)
  else if op = 0xFF then some (leBytes 1 8 ++ measurements s)
  else if op ≤ 8 then some (leBytes 1 1 ++ measurement s op)
  else none

/-- GET_MEASUREMENTS (R398, R399): the operation in byte 3; signed, and assembled in one step. -/
def execGetMeasurements (req : List Byte) (s : State) : Host.Outcome State Fault Refusal :=
  .next (spdmReady req (fun s =>
    match measurementBlocks s (fieldOf req 3 1) with
    | none => spdmError 0x01 s
    | some b => spdmSigned 0x60 req (b ++ leBytes 32 (Config.freeNat s.free)) s.drawFree) s)

/-- KEY_EXCHANGE (R398): a session opens; a third is refused. Its identifier joins the requester's half (bytes 4 and 5)
and the responder's, which the manual leaves open. -/
def execKeyExchange (req : List Byte) (s : State) : Host.Outcome State Fault Refusal :=
  .next (spdmReady req (fun s =>
    if 2 ≤ s.hp.sessions.length then spdmError 0x07 s
    else
      let id := fieldOf req 4 2 + 65536 * (Config.freeNat s.free % 65536)
      spdmSigned 0x64 req (leBytes 4 id)
        (s.drawFree.modHp fun h => { h with sessions := h.sessions ++ [{ id := id }] })) s)

/-- R398: a session by its identifier. -/
def sessionOf (s : State) (id : Nat) : Option Session :=
  s.hp.sessions.find? fun x => x.id == id

/-- R398: a message inside an established session. -/
def inSession (id : Word) (f : Session → State → State) (s : State) : State :=
  if !doeUp s then s
  else match sessionOf s id.toNat with
    | some x => if x.open_ then f x s else spdmError 0x04 s
    | none => spdmError 0x02 s

/-- R398: change the session of an identifier. -/
def modSession (id : Word) (f : Session → Session) (s : State) : State :=
  s.modHp fun h => { h with sessions := h.sessions.map fun x => if x.id = id.toNat then f x else x }

/-- FINISH (R398): session establishment completes; one whose check fails ends the session. -/
def execFinish (session : Word) (ok : Bool) (s : State) : Host.Outcome State Fault Refusal :=
  .next (
    if !doeUp s then s
    else match sessionOf s session.toNat with
      | none => spdmError 0x02 s
      | some x =>
        if x.open_ then spdmError 0x04 s
        else if ok then (modSession session (fun x => { x with open_ := true }) s).emit (.spdm 0x65 [] false)
        else spdmError 0x06 (s.modHp fun h => { h with sessions := h.sessions.filter fun x => x.id != session.toNat }))

/-- HEARTBEAT (R398). -/
def execHeartbeat (session : Word) (s : State) : Host.Outcome State Fault Refusal :=
  .next (inSession session (fun _ s => s.emit (.spdm 0x68 [] false)) s)

/-- KEY_UPDATE (R398): the session's keys are updated. -/
def execKeyUpdate (session : Word) (s : State) : Host.Outcome State Fault Refusal :=
  .next (inSession session (fun _ s =>
    (modSession session (fun x => { x with updates := x.updates + 1 }) s).emit (.spdm 0x69 [] false)) s)

/-- END_SESSION (R398): the session closes. -/
def execEndSession (session : Word) (s : State) : Host.Outcome State Fault Refusal :=
  .next (inSession session (fun _ s =>
    (s.modHp fun h => { h with sessions := h.sessions.filter fun x => x.id != session.toNat }).emit (.spdm 0x6C [] false)) s)

/-- R211, R225: new keys make a stream Secure, CXL.cachemem in the mode that the host selects; an Insecure stream stays
so until the link has been down. A refresh leaves a Secure stream as it is. -/
def ideKeyed (cachemem : Bool) (op : IdeKmOp) (h : Hp) : Hp :=
  match op with
  | .refresh => h
  | .setKeys containment =>
    if cachemem then
      if h.ideCm = .insecure then h else { h with ideCm := .secure, heldCm := false, containment := containment }
    else
      if h.ideIo = .insecure then h else { h with ideIo := .secure, heldIo := false }

/-- IDE_KM (R225, R398): inside a secured session. -/
def execIdeKm (session : Word) (cachemem : Bool) (op : IdeKmOp) (s : State) : Host.Outcome State Fault Refusal :=
  .next (inSession session (fun _ s => (s.modHp (ideKeyed cachemem op)).emit (.spdm 0x7E [] false)) s)

end Sys2Proof.Machine
end

