-- ==== Sys2Proof/Machine/Thermal.lean ====
section
/-!
DEFINITION. Chapter 14, heat: the housekeeping round, hank bands (R151-R153), die bands and limits (R360-R364), the
orderly stop and the analog trip.
-/

namespace Sys2Proof.Machine

/-! ### Hanks -/

/-- R151: the band that a temperature enters (0.25 °C units). -/
def bandAt (v : Nat) : Band :=
  if 420 < v then .stop else if 380 ≤ v then .quadruple else if 340 ≤ v then .double else .normal

/-- R151: the order of the bands. -/
def Band.rank : Band → Nat
  | .normal => 0 | .double => 1 | .quadruple => 2 | .stop => 3

/-- R151, R152: the band after a reading: hotter at once, cooler below the hysteresis, never out of Stop. -/
def nextBand (cur : Band) (v : Nat) : Band :=
  if cur.rank < (bandAt v).rank then bandAt v
  else match cur with
    | .stop => .stop
    | .quadruple => if 360 ≤ v then .quadruple else if 320 ≤ v then .double else .normal
    | .double => if 320 ≤ v then .double else .normal
    | .normal => .normal

/-- R152, R156: a hank's band changes, or waits for the channel in action to resume. -/
def setBand (h : Nat) (b : Band) (s : State) : State :=
  let busy := match s.hnk.active with | some (c, _) => c / 256 == h | none => false
  s.modHank h fun k => if busy then { k with bandDue := some b } else { k with band := b, bandDue := none }

/-- R153: a hank above 105 °C: the orderly shutdown of hank memory. -/
def overtempShutdown (h : Nat) (s : State) : State :=
  let s := s.modHank h fun k => { k with overtemp := true, band := .stop, bandDue := none }
  let s := endHeld .eHankOvertemp s
  let s := s.modHnk fun x => { x with stopped := true, selfRefresh := true, active := none, rowActive := none }
  let s := endCommands .eHankOvertemp (tkeys s.bob.tag) (failFrame .eHankOvertemp s)
  let s := s.modPkg fun p => { p with clocksStopped := p.clocksStopped ||| 0xF, op := p.op.map opAbandon }
  escalate { row := 18, obj := h, l4 := true } s

/-- R14, R360: the readings of a hank's four sensors in this round. -/
def hankReadings (s : State) (h : Nat) : List Nat :=
  (List.range 4).filterMap fun i =>
    let x := s.sensorAt (0x140 + 4 * h + i)
    if x.valid then some x.value else none

/-- R152: the temperature of a hank has been read, or could not be read. -/
def hankRead (h : Nat) (s : State) : State :=
  match (hankReadings s h).max? with
  | some v =>
    let s := s.modHank h fun k => { k with misses := 0, temp := v / 4, tempMax := max k.tempMax (v / 4) }
    let b := nextBand (s.hankAt h).band v
    if b = .stop then
      (if s.hnk.stopped then s.modHank h fun k => { k with overtemp := true, band := .stop, bandDue := none }
        else overtempShutdown h s)
    else setBand h b s
  | none =>
    let s := s.modHank h fun k => { k with misses := min (k.misses + 1) 2 }
    if 2 ≤ (s.hankAt h).misses && (s.hankAt h).band != .stop then
      setBand h .quadruple (s.modHank h fun k => { k with sensorFault := true })
    else s

/-! ### Dies -/

/-- R360: the die whose hotspot a channel counts toward. -/
def sensorDie (ch : Nat) : Option Nat :=
  if ch < 0x100 then some (ch / 64)
  else if ch < 0x140 then some (4 + (ch - 0x100) / 32)
  else if 0x160 ≤ ch && ch < 0x170 then some (4 + (ch - 0x160) / 8)
  else none

/-- R360: the channels that count toward a die's hotspot. -/
def dieChannels (d : Nat) : List Nat :=
  if d < 4 then (List.range 64).map (· + 64 * d)
  else (List.range 32).map (· + (0x100 + 32 * (d - 4))) ++ (List.range 8).map (· + (0x160 + 8 * (d - 4)))

/-- R364, R368: the faulty sensors of a die. -/
def faultyCount (s : State) (d : Nat) : Nat :=
  ((dieChannels d).filter fun c => (s.sensorAt c).faulty).length

/-- R364: 3 °C are added where a die has a faulty sensor. -/
def faultyRise (s : State) (d : Nat) : Nat :=
  if faultyCount s d = 0 then 0 else 12

/-- R360, R364: the hotspot of a die from the last round. -/
def hotspotOf (s : State) (d : Nat) : Nat :=
  match ((dieChannels d).filterMap fun c =>
      let x := s.sensorAt c
      if x.valid && !x.faulty then some x.value else none).max? with
  | some v => min (v + faultyRise s d) 1023
  | none => (s.thmDieAt d).hotspot

/-- R361: the lower bound of Throttle on a die. -/
def throttleAt (d : Nat) : Nat :=
  if d < 4 then 360 else 380

/-- R361: a die enters Throttle: its thermal limit goes two steps below its step; posted. -/
def enterThrottle (d : Nat) (s : State) : State :=
  let s := s.modThm fun t => { t with throttle := true }
  let s := s.modThmDie d fun x => { x with band := .throttle, entered := true }
  let s := if d < 4 then s.modPwrDie d fun p => { p with thermal := p.step - 2 } else s
  let s := winBump 43 0 d s
  escalate { row := 43, obj := d, count := winCount s 43 0 d, posted := true, l2 := d < 4 } s

/-- R362: an orderly stop begins: issue stops on every compute die, the frame fails, transitions are abandoned. -/
def beginStop (d : Nat) (s : State) : State :=
  let s := s.modThm fun t => { t with stopDies := t.stopDies ||| BitVec.ofNat 6 (2 ^ d) }
  let s := s.modThmDie d fun x => { x with band := .stop }
  if s.thm.stopping.isSome || s.thm.stopped || s.pkg.devState = .failed then s
  else
    let s := (failFrame .eDeviceFailed s).modPkg fun p => {
      p with op := p.op.map opAbandon, stopInReset := if p.computeReset then some d else none }
    s.modThm fun t => { t with stopping := some d }

/-- R361: a reading of a die's sensor crosses into a hotter band, which applies at once. -/
def dieRead (d v : Nat) (s : State) : State :=
  let hot := v + faultyRise s d
  let band := (s.thmDieAt d).band
  if 420 ≤ hot then (if band = .stop then s else beginStop d s)
  else if throttleAt d ≤ hot && band = .normal then enterThrottle d s
  else s

/-- R361: a regulator channel of a die reads 115 °C or more. -/
def regulatorRead (n v : Nat) (s : State) : State :=
  if v < 460 then s
  else
    let s := s.modThmDie n fun x => { x with regHot := true }
    if (s.thmDieAt n).band = .normal then enterThrottle n s else s

/-- R360, R364: a channel gives a reading or none. -/
def sensorUpdate (r : Option (BitVec 10)) (x : Sensor) : Sensor :=
  match r with
  | some v => { x with valid := true, value := v.toNat, misses := 0 }
  | none => { x with valid := false, misses := min (x.misses + 1) 3 }

/-- R365: a round without a reading of a sensor that is not a hank's. -/
def countFailedRead (ch : Nat) (s : State) : State :=
  if 0x140 ≤ ch && ch < 0x160 then s else winBump 44 0 ch s

/-- THERMAL_CHANNEL_READ (R360): the round reads its next channel. -/
def channelRead (r : Option (BitVec 10)) (s : State) : State :=
  let ch := s.thm.channel
  let s := s.modThm fun t => { t with channel := (ch + 1) % 384 }
  let s := s.modSensor ch (sensorUpdate r)
  let s := if r.isNone then countFailedRead ch s else s
  if 0x140 ≤ ch && ch < 0x160 then (if ch % 4 = 3 then hankRead ((ch - 0x140) / 4) s else s)
  else match r with
    | none => s
    | some v =>
      if 0x170 ≤ ch then regulatorRead ((ch - 0x170) / 4) v.toNat s
      else if (s.sensorAt ch).faulty then s
      else match sensorDie ch with
        | some d => dieRead d v.toNat s
        | none => s

/-- THERMAL_CHANNEL_READ (R360). -/
def execThermalChannelRead (reading : Option (BitVec 10)) (s : State) : Host.Outcome State Fault Refusal :=
  .next (channelRead reading s)

/-- R364: sensors without a reading in two consecutive rounds are marked faulty. -/
def markFaulty : List Nat → State → State
  | [], s => s
  | ch :: chs, s =>
    let x := s.sensorAt ch
    if 2 ≤ x.misses && !x.faulty && !(0x140 ≤ ch && ch < 0x160) then
      let s := (s.modSensor ch fun x => { x with faulty := true }).modThm fun t => { t with sensorFault := true }
      markFaulty chs (escalate { row := 44, obj := ch, count := winCount s 44 0 ch, l3 := true } s)
    else markFaulty chs s

/-- R361, R364: a die is held in Throttle by a regulator or by eight faulty sensors. -/
def heldThrottle (s : State) (d : Nat) : Bool :=
  (s.thmDieAt d).regHot || (d < 4 && 8 ≤ faultyCount s d)

/-- R361: a die returns to a cooler band 5 °C below that band's lower bound. -/
def coolerBand (s : State) (d hot : Nat) (b : ThmBand) : ThmBand :=
  let down := if hot + 20 < throttleAt d && !heldThrottle s d then ThmBand.normal else .throttle
  match b with
  | .stop | .trip => if hot < 400 then down else .stop
  | .throttle => down
  | .normal => .normal

/-- R361, R364: a compute die's thermal limit after a round: one step up in Normal; one step down where the die was in
Throttle before the round, is still at or above 90 °C and has not fallen by 0.5 °C. -/
def thermalLimit (s : State) (d : Nat) (x : ThmDie) (lim : Nat) : Nat :=
  let lim := match x.band with
    | .normal => min 19 (lim + 1)
    | _ => if !x.entered && 360 ≤ x.hotspot && x.before < x.hotspot + 2 then lim - 1 else lim
  if 8 ≤ faultyCount s d then min lim 15 else lim

/-- R360, R361: a round ends for a die: its hotspot, its band, its limit. -/
def dieRound (d : Nat) (s : State) : State :=
  let hot := hotspotOf s d
  let regs := (List.range 4).all fun i => (s.sensorAt (0x170 + 4 * d + i)).value < 440
  let s := s.modThmDie d fun x =>
    { x with before := x.hotspot, hotspot := hot, highest := max x.highest hot, regHot := x.regHot && !(d < 4 && regs) }
  let b := (s.thmDieAt d).band
  let s := if b = .normal && heldThrottle s d then enterThrottle d s
    else if b = .stop && coolerBand s d hot b = .throttle then enterThrottle d s
    else s.modThmDie d fun x => { x with band := coolerBand s d hot x.band }
  let s := if d < 4 then s.modPwrDie d fun p => { p with thermal := thermalLimit s d (s.thmDieAt d) p.thermal } else s
  s.modThmDie d fun x => { x with entered := false }

/-- R360, R368: the hottest optical engine and its reading. -/
def engineMaximum (s : State) : Nat × Nat :=
  (List.range 16).foldl (fun best e =>
    let v := (s.sensorAt (0x160 + e)).value
    if best.2 < v then (e, v) else best) (0, 0)

/-- THERMAL_ROUND (R361, R364): a round of 384 channels is complete. -/
def thermalRound (s : State) : State :=
  let s := markFaulty (tkeys s.thm.sensor) s
  let s := dieRound 5 (dieRound 4 (dieRound 3 (dieRound 2 (dieRound 1 (dieRound 0 s)))))
  let s := s.modThm fun t =>
    { t with rounds := wrapInc 32 t.rounds, engine := (engineMaximum s).1, engineMax := (engineMaximum s).2 }
  if noProgram s then applyLimits s else s

/-- THERMAL_ROUND (R361). -/
def execThermalRound (s : State) : Host.Outcome State Fault Refusal :=
  .next (thermalRound s)

/-- R362: every dirty line of a cache is written back; the lines stay. -/
def cleanDie (d : Nat) (s : State) : State :=
  (tkeys (s.rlcAt d).lines).foldl (fun s line => rlcClean d line s) s

/-- R362: the orderly stop of a die's hotspot ends: work in flight and dirty lines are in memory, the hanks are in
self-refresh, the compute dies stopped, the device FAILED. -/
def stopDone (d : Nat) (s : State) : State :=
  let s := cleanDie 3 (cleanDie 2 (cleanDie 1 (cleanDie 0 (performHeld (fun _ => true) s))))
  let s := s.modHnk fun x => { x with selfRefresh := true }
  let s := s.modPkg fun p => { p with clocksStopped := p.clocksStopped ||| 0xF }
  let s := s.modThm fun t => { t with stopping := none, stopped := true }
  if s.pkg.computeReset then s else escalate { row := 45, obj := d, l4 := true, way := .compute } s

/-- ORDERLY_STOP_COMPLETE (R362): a retrain, a pin repair or a row repair in progress completes first. -/
def execOrderlyStopComplete (s : State) : Host.Outcome State Fault Refusal :=
  .next (
    match s.thm.stopping with
    | some d => if s.hnk.active.isSome || s.hnk.rowActive.isSome then s else stopDone d s
    | none => s)

/-- R363: an analog comparator has acted: nothing is written back, hank contents are undefined. -/
def analogTrip (d : Nat) (s : State) : State :=
  let s := s.modThm fun t =>
    { t with trip := t.trip ||| BitVec.ofNat 6 (2 ^ d), stopDies := t.stopDies ||| BitVec.ofNat 6 (2 ^ d), stopping := none }
  let s := s.modVis fun v => { die := v.die.map fun x => { x with lines := [] }, held := [] }
  let s := markUndef 0 hankTop s
  let s := s.modPkg fun p =>
    { p with op := p.op.map opAbandon, clocksStopped := if d < 4 then p.clocksStopped ||| 0xF else 0x3F,
             flyerRuns := p.flyerRuns && decide (d < 4), bar0Up := p.bar0Up && decide (d < 4) }
  escalate { row := 46, obj := d, l4 := true, way := if d < 4 then .package else .cold } s

/-- ANALOG_TRIP (R363). -/
def execAnalogTrip (die : Die) (s : State) : Host.Outcome State Fault Refusal :=
  .next (analogTrip die s)

end Sys2Proof.Machine
end

