-- ==== Sys2Proof/Machine/RegRead.lean ====
section
/-!
DEFINITION. What every register of BAR0 reads as, block by block, as the register tables of the chapters give it. Offsets
within a block are relative to the block; a place that no table lists reads zero (R11).
-/

namespace Sys2Proof.Machine

/-- R108, R135: events shown of the open windows of a row over objects `lo` to `hi - 1`. -/
def winSum (s : State) (row lo hi : Nat) : Nat :=
  ((s.win.filter fun e => winKey row 0 lo ≤ e.1 && e.1 < winKey row 0 hi).map fun e => e.2 - tget s.winHide e.1).sum

/-- R10: the low or the high word of a pair. -/
def wordOf (high : Bool) (v : Nat) : Nat :=
  if high then v / 2 ^ 32 else v

/-- The entry of an array of registers at offsets `base`, `base + 4`, … -/
def regIndex (base n o : Nat) : Option Nat :=
  if base ≤ o ∧ o < base + 4 * n ∧ (o - base) % 4 = 0 then some ((o - base) / 4) else none

/-! ### Identity and global block -/

/-- R45: MOD_RESET_CAUSE.SOURCE. -/
def ResetSource.code : ResetSource → Nat
  | .powerOn => 0 | .undervoltage => 1 | .sideband => 2 | .resetPackage => 3 | .resetCompute => 4 | .watchdog => 5
  | .cxlFlr => 6 | .sramError => 7 | .debugUnlock => 8

/-- R45: MOD_RESET_CAUSE.DOMAIN. -/
def ResetDomain.code : ResetDomain → Nat
  | .cold => 0 | .package => 1 | .compute => 2 | .flr => 3

/-- R45: MOD_D2D_COUNTS of the selected link direction. -/
def d2dCounts (s : State) : Nat :=
  let l := s.pkg.d2dSel
  if 26 ≤ l then 0
  else packBits [(31, 28, (s.d2dAt l).sparesLeft), (27, 20, winCount s 1 1 l), (19, 0, min (winCount s 1 0 l) 0xFFFFF)]

/-- R45: the identity registers. -/
def idRead (s : State) (o : Nat) : Nat :=
  match regIndex 0x20 6 o, regIndex 0x40 6 o with
  | some n, _ => (vget s.pkg.dieCap n).toNat
  | none, some n => (vget s.pkg.dieStrap n).toNat
  | none, none =>
    match o with
    | 0x00 => 0x00D20004
    | 0x10 => s.pkg.pkgCap.toNat
    | 0x60 => packBits [(15, 8, s.pkg.bootCode), (7, 4, s.pkg.dieB), (3, 0, s.pkg.dieA)]
    | 0x64 => s.pkg.devState.code
    | 0x68 => packBits [(7, 4, s.pkg.resetSource.code), (2, 0, s.pkg.resetDomain.code)]
    | 0x80 => s.pkg.d2dSel
    | 0x84 => d2dCounts s
    | _ => 0

/-- R229: the host port registers. -/
def hpRead (s : State) (o : Nat) : Nat :=
  let h := s.hp
  match o with
  | 0x200 => packBits [(15, 12, h.rate), (11, 8, h.width), (7, 6, h.flit), (5, 3, h.proto.toNat),
      (2, 2, bit (h.ideIo == .secure)), (1, 1, bit (h.ideCm == .secure)), (0, 0, bit h.decoder)]
  | 0x204 => packBits [(31, 31, bit h.linkDown), (30, 30, bit h.ideFail), (29, 29, bit h.poisonSent),
      (28, 28, bit h.spillErr), (27, 27, bit h.downgrade), (2, 2, bit h.wbinv), (1, 1, bit !h.sfWait.isEmpty),
      (0, 0, bit h.doeBusy)]
  | 0x208 => wordOf false h.winBase
  | 0x20C => wordOf true h.winBase
  | 0x210 => h.winSize
  | 0x214 => h.sf.length
  | 0x218 => h.bisnp
  | 0x21C => packBits [(31, 16, h.poisonSpill), (15, 0, h.poisonHost)]
  | 0x220 => h.spillSel
  | 0x224 => wordOf false ((tget h.spill h.spillSel).getD 0)
  | 0x228 => packBits [(31, 31, bit (tget h.spill h.spillSel).isSome), (19, 0, wordOf true ((tget h.spill h.spillSel).getD 0))]
  | 0x22C => h.spillMiss
  | 0x230 => packBits [(31, 24, winCount s 19 1 0), (23, 0, min (winCount s 19 0 0) 0xFFFFFF)]
  | _ => 0

/-- R383: a frame program runs, so that the input log records. -/
def logActive (s : State) : Bool :=
  s.frm.prog == .running || s.frm.prog == .draining

/-- R383: the frames of the records that the log holds, staged ones last. -/
def logFrames (s : State) : List Nat :=
  (s.res.log ++ s.res.staged).map (·.frame)

/-- R386: the resilience registers. -/
def resRead (s : State) (o : Nat) : Nat :=
  let r := s.res
  match o with
  | 0x300 => packBits [(31, 31, bit r.snapFail), (30, 30, bit r.flashErr), (29, 29, bit r.logGap),
      (28, 28, bit r.buddyAbandoned), (4, 4, bit r.flashRo), (3, 3, bit (logActive s)), (2, 2, bit (r.protects.any (·.live))),
      (1, 0, match r.job with | none => 0 | some j => if j.copying.isSome then 2 else 1)]
  | 0x304 => packBits [(15, 8, r.healthMax), (7, 0, r.health)]
  | 0x308 => r.interval
  | 0x30C => wordOf false r.snapLast
  | 0x310 => wordOf true r.snapLast
  | 0x314 => wordOf false ((logFrames s).headD 0)
  | 0x318 => wordOf true ((logFrames s).headD 0)
  | 0x31C => wordOf false ((logFrames s).getLastD 0)
  | 0x320 => wordOf true ((logFrames s).getLastD 0)
  | 0x324 => packBits [(31, 31, bit r.correlated), (18, 16, (r.protects.filter (·.live)).length), (15, 0, r.buddy)]
  | 0x328 => packBits [(15, 0, snapFree r.snaps / 2 ^ 30)]
  | 0x32C => packBits [(31, 16, r.level3), (15, 0, r.level2)]
  | _ => 0

/-- R418, R427: ALERT# is asserted. -/
def alertPin (s : State) : Bool :=
  s.mdl.flowLow || s.mdl.inletHigh || s.mdl.leak || s.mdl.coolSensor || s.pkg.devState == .failed

/-- R430: the module registers. -/
def mdlRead (s : State) (o : Nat) : Nat :=
  let m := s.mdl
  match o with
  | 0x400 => packBits [(31, 31, bit m.flowLowSeen), (30, 30, bit m.inletHighSeen), (29, 29, bit m.leakSeen),
      (28, 28, bit m.bankChanged), (7, 7, bit (alertPin s)), (6, 6, bit m.present), (5, 5, bit m.hostB),
      (3, 3, bit m.coolSensor), (2, 2, bit m.leak), (1, 1, bit m.inletHigh), (0, 0, bit m.flowLow)]
  | 0x404 => packBits [(25, 16, m.outlet), (9, 0, m.inlet)]
  | 0x408 => packBits [(15, 0, m.flow)]
  | 0x40C => packBits [(7, 0, min (s.res.written * 100 / 8800000000000000) 0xFF)]
  | 0x410 => packBits [(6, 0, m.sbAddr)]
  | _ => 0

/-- The identity and global block (R45, R229, R386, R430). -/
def globalRead (s : State) (o : Nat) : Nat :=
  if o < 0x200 then idRead s o else if o < 0x300 then hpRead s o else if o < 0x400 then resRead s o else mdlRead s o

/-! ### MSI-X -/

/-- R217: the MSI-X table's bytes, 16 of each entry. [PRESUMED 3] -/
def msixRead (s : State) (o : Nat) : Nat :=
  let e := s.msixAt (o / 16)
  match o % 16 with
  | 0 => wordOf false e.addr
  | 4 => wordOf true e.addr
  | 8 => e.data
  | 12 => bit !e.unmasked
  | _ => 0

/-- R217: the pending-bit array. -/
def pbaRead (s : State) (o : Nat) : Nat :=
  if o % 4 = 0 then maskOf 32 fun i => (s.msixAt (8 * o + i)).pending else 0

/-! ### Frames -/

/-- R82: FRM_STATUS.ROLE. -/
def Role.code : Role → Nat
  | .member => 0 | .whorl => 1 | .standby => 2 | .none => 3

/-- R82: FRM_STATUS.PROG. -/
def Prog.code : Prog → Nat
  | .noImage => 0 | .loaded => 1 | .startPending => 2 | .running => 3 | .draining => 4

/-- R82: the frames block. -/
def frmRead (s : State) (o : Nat) : Nat :=
  let f := s.frm
  match o with
  | 0x00 => packBits [(9, 0, f.period)]
  | 0x04 => packBits [(31, 31, bit f.overrun), (30, 30, bit f.failedFrame), (29, 29, bit f.takeover),
      (11, 11, bit f.noStandby), (10, 10, bit f.det), (9, 9, bit f.locked), (8, 8, bit f.pause), (5, 4, f.role.code),
      (2, 0, f.prog.code)]
  | 0x08 => wordOf false f.number
  | 0x0C => wordOf true f.number
  | 0x10 => packBits [(31, 16, f.held), (15, 0, f.stretch)]
  | 0x14 => packBits [(31, 16, f.reqHold), (15, 0, f.reqNext)]
  | 0x18 => packBits [(7, 0, f.cause)]
  | 0x1C => if f.cur.rootStandby then packBits [(31, 16, f.alignA2), (15, 0, f.latL2)]
      else packBits [(31, 16, f.alignA), (15, 0, f.latL)]
  | 0x20 => packBits [(15, 0, f.skew)]
  | 0x24 => packBits [(15, 0, f.cfgEpoch)]
  | 0x28 => f.slackMin
  | 0x30 => wordOf false f.n0
  | 0x34 => wordOf true f.n0
  | 0x38 => wordOf false f.failNum
  | 0x3C => wordOf true f.failNum
  | 0x40 => packBits [(31, 16, f.cntStretch), (15, 0, f.cntHeld)]
  | 0x48 => wordOf false f.imageTag
  | 0x4C => wordOf true f.imageTag
  | 0x50 => packBits [(15, 0, f.index)]
  | _ => 0

/-! ### Spindles and vector cores -/

/-- R108: SPN_STATUS.RAMP. -/
def Ramp.code : Ramp → Nat
  | .none => 0 | .up => 1 | .down => 2

/-- R108: the registers of spindle `i`. -/
def spnRead (s : State) (i o : Nat) : Nat :=
  let p := vget s.spn i
  let ecc (acc : Nat) : Nat := min (winSum s 6 ((i * 2 + acc) * 128) ((i * 2 + acc + 1) * 128)) 0xFF
  match o with
  | 0x00 => packBits [(31, 31, bit p.range), (30, 30, bit p.nanOut), (29, 29, bit p.overflow), (28, 28, bit p.dataErr),
      (7, 7, bit p.withheld), (6, 5, p.ramp.code), (4, 4, bit p.busy.isSome), (3, 2, p.regime)]
  | 0x04 => spnSpareReg p
  | 0x08 => packBits [(31, 24, ecc 0), (23, 16, ecc 1), (15, 8, winShown s 7 0 i),
      (7, 7, bit (p.abufSpare.isSome && !p.abufHidden)), (6, 6, bit (p.accSpare.isSome && !p.accHidden))]
  | 0x0C => p.rangeCount
  | 0x10 => wordOf false p.passes
  | 0x14 => wordOf true p.passes
  | 0x18 => wordOf false p.activeCycles
  | 0x1C => wordOf true p.activeCycles
  | 0x20 => p.bubbles
  | 0x24 => packBits [(31, 16, p.rampUps), (15, 0, p.reversals)]
  | 0x28 => packBits [(23, 16, min p.testHours 0xFF), (15, 8, winSum s 5 (i * 1024) ((i + 1) * 1024)),
      (0, 0, bit p.testPass)]
  | _ => 0

/-- R135: the vector registers of a compute die. -/
def vecRead (s : State) (d o : Nat) : Nat :=
  let v := vget s.vec d
  match o with
  | 0x00 => packBits [(31, 31, bit v.bounds), (30, 30, bit v.dataErr), (29, 29, bit v.attnErr), (28, 28, bit v.nanOut),
      (11, 8, v.attnCheck), (7, 4, withheldCount v)]
  | 0x04 => wordOf false v.withheld.toNat
  | 0x08 => wordOf true v.withheld.toNat
  | 0x0C => packBits [(31, 24, min (winSum s 10 (d * 512) ((d + 1) * 512)) 0xFF), (23, 16, winShown s 11 0 d),
      (15, 8, winSum s 9 (d * 64) ((d + 1) * 64)), (7, 7, bit (v.lsSpare.isSome && !v.lsHidden))]
  | 0x10 => v.gatherEntries
  | 0x14 => v.gatherStalls
  | 0x18 => packBits [(31, 16, v.attends), (15, 0, v.merges)]
  | _ => 0

/-! ### Hank memory -/

/-- R160: HNK_STATUS.ACTIVITY: the action on one of the hank's channels, or its row repair, if there is one. -/
def hankActivity (s : State) (h : Nat) : Nat :=
  match s.hnk.active with
  | some (c, .retrain) => if c / 256 = h then 3 else rest
  | some (c, .pinRepair) => if c / 256 = h then 4 else rest
  | none => rest
where
  /-- R160: without an action on a channel. -/
  rest : Nat :=
    if (s.hnk.rowActive.map fun b => hankOf s (64 * b) == h).getD false then 5 else (s.hankAt h).activity

/-- R160: a pin's replacement in HNK_CH_PINMAP. -/
def pinField (p : Option Nat) : Nat :=
  bit p.isSome * 32 + p.getD 0

/-- R160: the registers of hank `h`. -/
def hankRegRead (s : State) (h o : Nat) : Nat :=
  let k := s.hankAt h
  let c := 256 * h + k.chSel
  let ch := s.chanAt c
  match o with
  | 0x00 => packBits [(31, 31, bit k.ue), (30, 30, bit k.overtemp), (29, 29, bit k.sensorFault), (28, 28, bit k.lost),
      (4, 3, k.band.rank), (2, 0, hankActivity s h)]
  | 0x04 => packBits [(15, 8, k.tempMax), (7, 0, k.temp)]
  | 0x08 => min (winCount s 14 0 h) 0xFFFFFFFF
  | 0x0C => packBits [(7, 0, winCount s 15 0 h)]
  | 0x10 => wordOf false k.ueAddr
  | 0x14 => wordOf true k.ueAddr
  | 0x18 => k.resends
  | 0x1C => packBits [(15, 0, k.rowRepairs)]
  | 0x20 => k.chSel
  | 0x24 => packBits [(31, 30, pinSparesLeft ch), (29, 29, bit (s.hnk.queue.any fun e => e.1 == c)),
      (28, 28, bit ((s.hnk.active.map (·.1)) == some c)), (27, 24, winCount s 12 1 c),
      (23, 0, min (winCount s 12 0 c) 0xFFFFFF)]
  | 0x28 => packBits [(11, 6, pinField ch.s1), (5, 0, pinField ch.s0)]
  | 0x30 => packBits [(9, 8, k.lbMode), (7, 0, k.lbCh)]
  | 0x34 => packBits [(31, 31, bit k.lbDone), (30, 30, bit k.lbPass), (29, 29, bit k.lbRefused), (18, 0, k.lbPinFail)]
  | _ => 0

/-- R161: the registers common to all hanks. -/
def hnkRead (s : State) (o : Nat) : Nat :=
  let x := s.hnk
  match o with
  | 0x00 => x.place.toNat
  | 0x04 => x.place.toNat / 2 ^ 32
  | 0x08 => x.place.toNat / 2 ^ 64
  | 0x0C => x.place.toNat / 2 ^ 96
  | 0x10 => packBits [(31, 31, bit x.lost.isSome), (30, 28, x.lost.getD 0), (27, 27, bit x.active.isSome),
      (26, 26, bit ((x.active.map (·.2)) == some .pinRepair)), (25, 16, min x.queue.length 0x3FF),
      (10, 0, (x.active.map (·.1)).getD 0)]
  | 0x14 => packBits [(31, 16, x.retrains), (15, 0, x.pinRepairs)]
  | 0x18 => wordOf false x.probe
  | 0x1C => wordOf true x.probe
  | 0x20 => packBits [(31, 31, bit x.probeMode), (10, 0, x.probeC)]
  | 0x24 => packBits [(19, 0, x.probeS)]
  | _ => 0

/-! ### Visibility -/

/-- R184: the visibility registers of a compute die. -/
def visRead (s : State) (d o : Nat) : Nat :=
  let v := s.rlcAt d
  match o with
  | 0x00 => packBits [(31, 31, bit v.parityDirty), (30, 30, bit v.ctrlRefused),
      (29, 29, bit ((s.frm.prog == .running || s.frm.prog == .draining) && (s.frm.image.map (·.hdr.nmx2)).getD false)),
      (19, 16, v.flyerWays), (15, 0, v.waysDisabled.toNat)]
  | 0x04 => v.flyerWays
  | 0x08 => v.relCount
  | 0x0C => v.acqCount
  | 0x10 => v.walkCycles
  | 0x14 => v.writebacks
  | 0x18 => v.barriers
  | _ => 0

/-! ### Bobbins -/

/-- R201: tags in use: rows, or the others. -/
def tagsUsed (s : State) (rows : Bool) : Nat :=
  (s.bob.tag.filter fun e => (e.1 < 0x1000) == rows).length

/-- R207: a completion waits for space in a full ring. -/
def completionWaits (s : State) : Bool :=
  s.bob.finished.any fun t =>
    match s.tagAt t with
    | none => false
    | some c =>
      let cq := s.queueAt (s.queueAt c.queue).link
      !noEntry c && 2 ^ cq.log2 ≤ ringUsed cq

/-- R210: a frame program with BATCH_SLOTS is running and admission is open. -/
def admitting (s : State) : Bool :=
  s.frm.prog == .running && (s.frm.image.map fun i => !i.slots.isEmpty).getD false

/-- R210: the bobbin block. -/
def bobRead (s : State) (o : Nat) : Nat :=
  let b := s.bob
  let q := s.queueAt b.qSel
  let p := s.pageAt b.pageSel
  match o with
  | 0x00 => packBits [(31, 31, bit b.dbError), (30, 30, bit b.stale), (29, 29, bit b.peerOverrun),
      (2, 2, bit (completionWaits s)), (1, 1, bit (0x3000 ≤ tagsUsed s false)), (0, 0, bit (admitting s))]
  | 0x04 => packBits [(31, 16, tagsUsed s true), (15, 0, b.rowsAdmitted)]
  | 0x08 => packBits [(29, 16, tagsUsed s false), (12, 0, tagsUsed s true)]
  | 0x0C => b.dbErrors
  | 0x10 => packBits [(31, 20, b.dbPage), (19, 0, b.dbQueue)]
  | 0x14 => b.staleCount
  | 0x18 => b.flrDiscards
  | 0x1C => packBits [(2, 0, b.dbCause)]
  | 0x20 => b.qSel
  | 0x24 => packBits [(31, 28, q.cls.code), (27, 27, bit q.enabled), (26, 24, q.prio), (23, 16, q.epoch),
      (15, 0, q.inflight)]
  | 0x28 => q.head
  | 0x2C => queueTail q
  | 0x30 => b.pageSel
  | 0x34 => packBits [(31, 31, bit p.valid), (19, 0, p.first)]
  | 0x38 => packBits [(19, 0, p.last)]
  | 0x3C => packBits [(11, 0, p.tenant)]
  | _ => 0

/-! ### Mailboxes -/

/-- R234: MBX_OWNER.KIND. -/
def MbxKind.code : MbxKind → Nat
  | .unassigned => 0 | .host => 1 | .tenant => 2 | .eventHost => 3 | .eventTenant => 4

/-- R249: MBX_STATE.STATE. -/
def mbxStateCode (b : Mbx) : Nat :=
  if b.kind.isEvent then 4
  else match b.phase with
    | .idle => 0 | .queued => 1 | .inProgress => 2 | .done => 3

/-- R242, R249: the control and reply registers of mailbox `m`; MBX_STATE reads zero while boot has halted. -/
def mbxRegRead (s : State) (m o : Nat) : Nat :=
  let b := s.mbxAt m
  match o with
  | 0x04 =>
    if mailboxesUp s then
      packBits [(31, 31, bit b.goIgnored), (30, 30, bit b.cancelIgnored), (3, 3, bit (waitsClass s m)),
        (2, 0, mbxStateCode b)]
    else 0
  | 0x08 => packBits [(31, 16, b.answered), (15, 0, b.status.code)]
  | 0x0C => b.stepsDone
  | 0x10 => b.stepsTotal
  | 0x14 => b.detail
  | 0x18 => packBits [(12, 0, b.replyLen)]
  | 0x1C => packBits [(31, 29, b.kind.code), (22, 12, mbxVector s m), (11, 0, b.tenant)]
  | 0x20 => b.evtHead
  | 0x24 => b.evtTail
  | 0x28 => b.evtLost
  | _ => 0

/-- R233: a mailbox: its payload, then its registers. -/
def mbxRead (s : State) (m o : Nat) : Nat :=
  if o < 0x1000 then leNat (getBytes (s.mbxAt m).payload o 4) else mbxRegRead s m (o - 0x1000)

/-- R250: MBX_BUSY. -/
def mbxBusyMask (s : State) : Nat :=
  maskOf 64 fun m => (s.mbxAt m).phase == .queued || (s.mbxAt m).phase == .inProgress

/-- R242, R250: the global flyer registers. -/
def flyRead (s : State) (o : Nat) : Nat :=
  let f := s.fly
  match o with
  | 0x00 => packBits [(31, 31, bit f.takeover), (30, 30, bit f.standbyLost), (7, 7, bit f.noStandby),
      (6, 6, bit f.activeLd1), (3, 0, if mailboxesUp s || s.pkg.devState == .off then f.coresUp.toNat else 0)]
  | 0x04 => packBits [(31, 16, f.fwMajor), (15, 0, f.fwMinor)]
  | 0x08 => f.heartbeats
  | 0x0C => wordOf false (mbxBusyMask s)
  | 0x10 => wordOf true (mbxBusyMask s)
  | 0x14 => f.acceptMax
  | 0x18 => f.cmdCount
  | _ => 0

/-! ### Optics -/

/-- R272: OPT_BANK.SWAP. -/
def SwapPhase.code : SwapPhase → Nat
  | .none => 0 | .warming => 1 | .training => 2 | .mirroring => 3 | .pending => 4 | .inService => 5

/-- R272: a bank's register. -/
def bankReg (s : State) (b : Nat) : Nat :=
  let k := s.bankAt b
  packBits [(31, 29, k.swap.code), (28, 25, k.spareFor.getD 0xF),
    (24, 16, maskOf 9 fun w => (vget k.laser w).st == .lit || (vget k.laser w).st == .litAtMax),
    (15, 7, maskOf 9 fun w => (vget k.laser w).st == .failed || (vget k.laser w).st == .retired),
    (5, 0, if k.swap = .none then 0 else
      ((List.range 32).filter fun n => (s.strandAt (32 * b + n)).mirror != .untrained).length)]

/-- R264, R272: the lanes of a direction, 0 where it is out of service. -/
def lanesOf (out : Bool) (map : List Nat) : Nat :=
  if out then 0 else map.length

/-- R272: a strand withdrawn from packet routing. -/
def strandWithdrawn (s : State) (n : Nat) : Bool :=
  (s.strandAt n).withdrawn || (s.strandAt n).calWithdrawn

/-- R272: a strand that runs below eight lanes in either direction. -/
def strandDegraded (s : State) (n : Nat) : Bool :=
  let t := s.strandAt n
  inService s n && (t.txMap.length < 8 || t.rxMap.length < 8)

/-- R272: the lowest margin of a direction's lanes and its lane, the lowest-numbered lane where several are lowest. -/
def lowestMargin (map : List Nat) (t : Tab (Option Int)) : Option (Int × Nat) :=
  (List.range 9).foldl (fun b l =>
    match if map.contains l then tget t l else none, b with
    | none, _ => b
    | some m, none => some (m, l)
    | some m, some (m', l') => if m < m' then some (m, l) else some (m', l')) none

/-- R272: OPT_STRAND_MARGIN of a strand. -/
def marginReg (s : State) (n : Nat) : Nat :=
  let t := s.strandAt n
  let tx := if t.txUnknown then none else lowestMargin t.txMap t.txMargin
  let rx := lowestMargin t.rxMap t.rxMargin
  packBits [(31, 24, (marginByte s.free (tx.map (·.1))).toNat), (23, 16, (marginByte s.free (rx.map (·.1))).toNat),
    (15, 12, (tx.map (·.2)).getD 0), (11, 8, (rx.map (·.2)).getD 0)]

/-- R272: the optics block. -/
def optRead (s : State) (o : Nat) : Nat :=
  let x := s.opt
  let n := x.sel
  let t := s.strandAt n
  match o with
  | 0x00 => packBits [(31, 31, bit x.laneEvent), (30, 30, bit x.swapDone), (29, 29, bit x.calFail),
      (14, 14, bit x.cal.isSome), (13, 8, (x.cal.map (·.strand)).getD 0),
      (6, 0, if s.pkg.devState = .off then 0 else ((List.range 64).filter fun n => !carriesTraffic s n).length)]
  | 0x04 => bankReg s 0
  | 0x08 => bankReg s 1
  | 0x10 => n
  | 0x14 => packBits [(31, 28, lanesOf (t.txOut || inPeriod s n) t.txMap),
      (27, 24, lanesOf (t.rxOut || inPeriod s n) t.rxMap), (23, 23, bit (circuitStrand s n)),
      (22, 22, bit (strandWithdrawn s n)), (21, 21, bit !carriesTraffic s n), (20, 20, bit t.calOverdue), (19, 17, t.loc)]
  | 0x18 => lmapNat t.txMap
  | 0x1C => lmapNat t.rxMap
  | 0x20 => marginReg s n
  | 0x24 => packBits [(31, 24, winCount s 25 0 n), (23, 16, winCount s 27 0 n), (15, 0, min ((x.clock - t.calAt) / 6000) 0xFFFF)]
  | 0x30 => packBits [(15, 14, x.monSel.integ), (13, 12, x.monSel.stage), (9, 4, x.monSel.strand), (3, 0, x.monSel.lane)]
  | 0x34 => packBits [(31, 31, bit x.monValid), (30, 30, bit x.monLow), (19, 16, x.monBits), (15, 0, x.monCode)]
  | 0x38 => wordOf false (maskOf 64 (strandWithdrawn s))
  | 0x3C => wordOf true (maskOf 64 (strandWithdrawn s))
  | 0x40 => wordOf false (maskOf 64 (strandDegraded s))
  | 0x44 => wordOf true (maskOf 64 (strandDegraded s))
  | _ => 0

/-! ### Fabric and topology -/

/-- R300: the fabric block. -/
def fabRead (s : State) (o : Nat) : Nat :=
  let f := s.fab
  let n := f.strandSel
  let route := tget f.tables.routes f.destSel
  match o with
  | 0x00 => packBits [(31, 31, bit f.cbufOverflow), (30, 30, bit f.unreachable), (29, 29, bit f.msgIncomplete),
      (28, 28, bit f.checkFail), (27, 27, bit f.laneLimit), (2, 2, bit f.staged.isSome),
      (1, 1, bit (f.staged.isSome && !s.frm.cfgHeld)), (0, 0, bit f.routed)]
  | 0x04 => packBits [(31, 31, bit f.deviceId.isSome), (13, 0, f.deviceId.getD 0)]
  | 0x08 => packBits [(31, 16, openMessages s), (13, 0, openEntries s)]
  | 0x0C => packBits [(31, 16, f.dropHops), (15, 0, f.dropRoom)]
  | 0x10 => f.deflections
  | 0x14 => packBits [(31, 16, f.rereqs), (15, 0, f.resends)]
  | 0x18 => packBits [(10, 0, f.cbufPeak)]
  | 0x1C => f.cbufOver
  | 0x20 => n
  | 0x24 => packBits [(31, 16, min (winCount s 30 0 n) 0xFFFF), (15, 8, winCount s 30 1 n),
      (7, 7, bit (s.linkAt n).windowFull)]
  | 0x28 => packBits [(15, 0, (s.discAt n).latency)]
  | 0x30 => f.destSel
  | 0x34 => packBits [(8, 0, 4 * (tget f.rate f.destSel).num / (tget f.rate f.destSel).den)]
  | 0x38 => wordOf false route
  | 0x3C => wordOf true route
  | _ => 0

/-- R325: TOP_STATUS.PLAN. -/
def planState (s : State) : Nat :=
  if s.top.accepting.isSome then 2
  else if s.top.plan.isSome then (if s.top.loaded.isSome then 4 else 3)
  else if s.top.loaded.isSome then 1 else 0

/-- R325: the topology registers. -/
def topRead (s : State) (o : Nat) : Nat :=
  let t := s.top
  let tag := (t.plan.map (·.tag)).getD 0
  match o with
  | 0x00 => packBits [(31, 31, bit t.mismatch), (30, 30, bit t.tickLost), (29, 29, bit t.quarantine),
      (7, 7, bit (planMatches s)), (6, 6, bit t.formed), (5, 5, bit t.revision.isSome), (2, 0, planState s)]
  | 0x04 => packBits [(15, 0, t.feed)]
  | 0x08 => wordOf false tag
  | 0x0C => wordOf true tag
  | 0x10 => wordOf false (maskOf 64 fun n => (s.discAt n).st == .absent)
  | 0x14 => wordOf true (maskOf 64 fun n => (s.discAt n).st == .absent)
  | 0x18 => wordOf false (maskOf 64 fun n => (s.discAt n).st == .quarantined)
  | 0x1C => wordOf true (maskOf 64 fun n => (s.discAt n).st == .quarantined)
  | 0x20 => packBits [(31, 16, (t.plan.map (·.domain)).getD 0), (12, 0, (t.plan.map (·.domainSize)).getD 0)]
  | 0x24 => packBits [(27, 24, (t.main.map (·.depth)).getD 0), (23, 16, t.sbInUse), (15, 8, t.inUse),
      (7, 0, (t.plan.map (·.parent)).getD 0xFF)]
  | 0x28 => packBits [(31, 31, bit t.sumMatch), (12, 0, t.sumCount)]
  | 0x2C => t.discards
  | _ => 0

/-! ### Skeins -/

/-- R332, R346: where a direction of a started collective stands: the phase (1 gather) and the ring step of its first
chunk that has not been sent or received, the last step's once every chunk has. -/
def ringNow (last : Nat × Nat) (r : RingDir) : Nat × Nat :=
  match r.toSend, r.toRecv with
  | [], [] => last
  | x :: _, [] => (x.1, x.2.1)
  | [], y :: _ => (y.1, y.2.1)
  | x :: _, y :: _ => if x.1 < y.1 ∨ (x.1 = y.1 ∧ x.2.1 ≤ y.2.1) then (x.1, x.2.1) else (y.1, y.2.1)

/-- R332: the last phase and step of a collective. -/
def ringLast (s : State) (c : Ctx) : Nat × Nat :=
  match (s.frm.image.bind fun img => collOf s img c.step) with
  | some co => ((phasesOf co.e.opcode).getLastD 0, co.a.n - 2)
  | none => (0, 0)

/-- R346: SKN_CTX_STATUS. -/
def ctxStatus (s : State) (c : Ctx) : Nat :=
  let cw := ringNow (ringLast s c) c.cw
  let ccw := ringNow (ringLast s c) c.ccw
  packBits [(31, 31, bit c.bound), (30, 30, bit (c.started && (cw.1 == 1 || ccw.1 == 1))), (29, 29, bit c.started),
    (27, 16, if c.started then min cw.2 ccw.2 else 0), (15, 0, c.skein)]

/-- R346: the skein block. -/
def sknRead (s : State) (o : Nat) : Nat :=
  let k := s.skn
  let c := s.ctxAt k.ctxSel
  match o with
  | 0x00 => packBits [(31, 31, bit k.mismatch), (30, 30, bit k.aborted), (29, 29, bit k.checkFail),
      (4, 0, ((List.range 16).filter fun i => (s.ctxAt i).bound).length)]
  | 0x04 => k.doneCount
  | 0x08 => packBits [(31, 16, k.mismatches), (15, 0, k.aborts)]
  | 0x0C => packBits [(31, 16, k.lastSkein), (15, 0, k.lastPos)]
  | 0x10 => k.lastSeq
  | 0x18 => wordOf false k.sigExp
  | 0x1C => wordOf true k.sigExp
  | 0x20 => wordOf false k.sigGot
  | 0x24 => wordOf true k.sigGot
  | 0x28 => k.ctxSel
  | 0x2C => ctxStatus s c
  | 0x30 => c.seq
  | 0x34 => k.chunks
  | 0x38 => k.stalls
  | _ => 0

/-! ### Power, clocks and temperatures -/

/-- R46: PWR_OP_STATUSn. -/
def opReg (s : State) (d : Nat) : Nat :=
  let o := s.opAt d
  packBits [(6, 4, if o.phase = .steady then o.current.val else o.target.val), (3, 3, bit (o.phase != .steady)),
    (2, 0, o.current.val)]

/-- R367: the hint shown in PWR_HINT: the one announced first of those in force. -/
def hintShown (s : State) : Nat × Nat :=
  match s.pwr.hints.find? (·.lead == 0) with
  | some h => (h.power, h.left)
  | none => (0, 0)

/-- R367: PWR_LIMITn. -/
def limitReg (s : State) (d : Nat) : Nat :=
  let x := s.pwrDieAt d
  packBits [(28, 24, x.step), (20, 16, x.power), (12, 8, hintLimit s d), (4, 0, x.thermal)]

/-- R46, R367: the power and clock registers. -/
def pwrRead (s : State) (o : Nat) : Nat :=
  let p := s.pwr
  match regIndex 0x10 6 o, regIndex 0x30 4 o, regIndex 0x40 4 o, regIndex 0x100 4 o with
  | some n, _, _, _ => packBits [(31, 16, if n < 4 then (s.pwrDieAt n).budget else 0), (15, 0, vget p.dieW n)]
  | _, some n, _, _ => limitReg s n
  | _, _, some n, _ => packBits [(31, 16, min (s.pwrDieAt n).droopEvents 0xFFFF), (15, 0, min (s.pwrDieAt n).droopUs 0xFFFF)]
  | _, _, _, some n => opReg s n
  | none, none, none, none =>
    match o with
    | 0x00 => packBits [(31, 31, bit p.guard_), (30, 30, bit p.inputHigh), (29, 29, bit p.inputLow),
        (28, 28, bit p.budgetStale), (8, 8, bit p.capUnreachable), (3, 3, bit (p.excursion != 0)),
        (2, 2, bit !p.stretch.isEmpty), (1, 1, bit (p.hints.any (·.lead == 0)))]
    | 0x04 => packBits [(31, 16, p.floorW), (15, 0, p.capW)]
    | 0x08 => packBits [(31, 16, p.vin), (15, 0, p.pIn)]
    | 0x0C => packBits [(31, 16, p.mean1s), (15, 0, p.mean10)]
    | 0x50 => packBits [(31, 16, p.guards), (15, 0, p.reductions)]
    | 0x54 => packBits [(31, 16, (hintShown s).1), (15, 0, (hintShown s).2)]
    | 0x120 => packBits [(31, 31, bit s.pkg.refLost), (30, 30, bit s.pkg.refOk), (21, 16, s.pkg.unlockSticky.toNat),
        (5, 0, s.pkg.locked.toNat)]
    | _ => 0

/-- R361: the number of a die's band. -/
def ThmBand.code : ThmBand → Nat
  | .normal => 0 | .throttle => 1 | .stop => 2 | .trip => 3

/-- R368: THM_CDn and THM_LDm, by die. -/
def thmDieReg (s : State) (d : Nat) : Nat :=
  let x := s.thmDieAt d
  packBits [(31, 30, if s.thm.trip.toNat.testBit d then 3 else x.band.code), (29, 20, x.highest),
    (15, 10, min (faultyCount s d) 63), (9, 0, x.hotspot)]

/-- R368: THM_VALUE of the selected channel. -/
def thmValue (s : State) : Nat :=
  if 0x17F < s.thm.sel then 0
  else
    let x := s.sensorAt s.thm.sel
    packBits [(31, 31, bit x.valid), (30, 30, bit x.faulty), (9, 0, x.value)]

/-- R368: the thermal registers. -/
def thmRead (s : State) (o : Nat) : Nat :=
  let t := s.thm
  match regIndex 0x04 6 o with
  | some d => thmDieReg s d
  | none =>
    match o with
    | 0x00 => packBits [(31, 31, bit t.throttle), (30, 30, bit t.sensorFault), (29, 29, bit t.stopped),
        (28, 28, bit (t.trip != 0)), (5, 0, t.stopDies.toNat)]
    | 0x20 => t.sel
    | 0x24 => thmValue s
    | 0x28 => t.rounds
    | 0x2C => packBits [(31, 31, bit (t.trip != 0)), (5, 0, t.trip.toNat)]
    | 0x30 => packBits [(19, 16, t.engine), (9, 0, t.engineMax)]
    | _ => 0

/-! ### Security -/

/-- R392: the number of a slot's state. -/
def SlotState.code : SlotState → Nat
  | .empty => 0 | .valid => 1 | .pending => 2 | .active => 3 | .rejected => 4

/-- R405: SEC_FW_PENDING. -/
def fwPending (s : State) : Nat :=
  match s.sec.slot.toList.find? (·.st == .pending) with
  | some x => packBits [(23, 16, (x.image.map (·.svn)).getD 0), (15, 0, (x.image.map (·.minor)).getD 0)]
  | none => 0

/-- R405: the security block. -/
def secRead (s : State) (o : Nat) : Nat :=
  let x := s.sec
  match regIndex 0x40 16 o with
  | some i => fieldOf x.rootDigest (4 * i) 4
  | none =>
    match o with
    | 0x00 => packBits [(31, 31, bit x.fwSigFail), (30, 30, bit x.imageSigFail), (29, 29, bit x.debugDenied),
        (2, 2, bit x.commit.isSome), (1, 1, bit x.fuseOk), (0, 0, bit x.debugUnlocked)]
    | 0x04 => wordOf false x.svnWord.toNat
    | 0x08 => wordOf true x.svnWord.toNat
    | 0x0C => packBits [(31, 31, x.booted.val), (30, 30, bit x.fallback), (27, 24, (s.slotAt 0).st.code),
        (23, 20, (s.slotAt 1).st.code), (15, 12, (s.slotAt 0).reason), (11, 8, (s.slotAt 1).reason)]
    | 0x10 => fwPending s
    | 0x14 => packBits [(7, 4, (s.hp.sessions.filter (·.open_)).length), (3, 0, x.failed)]
    | _ => 0

/-! ### Test -/

/-- R415: the debug registers. -/
def dbgRead (s : State) (o : Nat) : Nat :=
  let t := s.tst
  match o with
  | 0x100 => packBits [(30, 30, bit t.dbgWrite), (29, 29, bit t.dbgDone), (28, 28, bit t.dbgError)]
  | 0x104 => wordOf false t.dbgAddr
  | 0x108 => wordOf true t.dbgAddr
  | 0x10C => t.dbgData
  | _ => 0

/-- R414, R415: the test block. -/
def tstRead (s : State) (o : Nat) : Nat :=
  let t := s.tst
  match o with
  | 0x00 => packBits [(31, 31, bit t.fail), (30, 30, bit t.stretched), (29, 29, bit t.refuse), (2, 2, bit t.host.isSome),
      (0, 0, bit s.sec.debugUnlocked)]
  | 0x04 => packBits [(31, 16, overdueCount s), (15, 0, dueCount s)]
  | 0x08 => packBits [(7, 0, min (hoursMax s) 0xFF)]
  | 0x0C => packBits [(31, 16, min t.failed.toList.sum 0xFFFF), (15, 0, min t.tested.toList.sum 0xFFFF)]
  | 0x10 => packBits [(31, 29, t.last.kind), (26, 24, if 6 ≤ t.last.kind then 7 else t.last.die), (10, 0, t.last.unit)]
  | _ => if s.sec.debugUnlocked then dbgRead s o else 0

/-! ### BAR0 -/

/-- The register blocks of BAR0, with the unit where a block is one unit's. -/
inductive RegBlock where
  | global | component | msix | pba | frames | bobbins | mailbox (m : Nat) | flyer | hank (h : Nat) | hanks | optics | fabric
  | topology | skeins | power | thermal | security | test | spindle (i : Nat) | vector (d : Nat) | visibility (d : Nat)
  | none
  deriving DecidableEq, Repr, Inhabited

/-- R108, R135, R184: the blocks of compute die `d`. -/
def cdBlock (d o : Nat) : RegBlock × Nat :=
  if 0x10000 ≤ o ∧ o < 0x20000 then (.spindle (2 * d + (o - 0x10000) / 0x8000), (o - 0x10000) % 0x8000)
  else if 0x20000 ≤ o ∧ o < 0x30000 then (.vector d, o - 0x20000)
  else if 0x30000 ≤ o ∧ o < 0x40000 then (.visibility d, o - 0x30000)
  else (.none, 0)

/-- The block that a BAR0 offset lies in, and the offset within it. The manual states where each block begins; it ends
at the next. -/
def blockOf (a : Nat) : RegBlock × Nat :=
  if a < 0x10000 then (.global, a)
  else if 0x80000 ≤ a ∧ a < 0x90000 then (.component, a - 0x80000)
  else if 0xC0000 ≤ a ∧ a < 0xC8000 then (.msix, a - 0xC0000)
  else if 0xC8000 ≤ a ∧ a < 0xC8100 then (.pba, a - 0xC8000)
  else if 0x100000 ≤ a ∧ a < 0x200000 then (.frames, a - 0x100000)
  else if 0x200000 ≤ a ∧ a < 0x300000 then (.bobbins, a - 0x200000)
  else if 0x400000 ≤ a ∧ a < 0x480000 then (.mailbox ((a - 0x400000) / 0x2000), (a - 0x400000) % 0x2000)
  else if 0x480000 ≤ a ∧ a < 0x500000 then (.flyer, a - 0x480000)
  else if 0x800000 ≤ a ∧ a < 0x880000 then (.hank ((a - 0x800000) / 0x10000), a % 0x10000)
  else if 0x880000 ≤ a ∧ a < 0x890000 then (.hanks, a - 0x880000)
  else if 0xC00000 ≤ a ∧ a < 0x1000000 then (.optics, a - 0xC00000)
  else if 0x1000000 ≤ a ∧ a < 0x1010000 then (.fabric, a - 0x1000000)
  else if 0x1010000 ≤ a ∧ a < 0x1020000 then (.topology, a - 0x1010000)
  else if 0x1020000 ≤ a ∧ a < 0x1030000 then (.skeins, a - 0x1020000)
  else if 0x1400000 ≤ a ∧ a < 0x1401000 then (.power, a - 0x1400000)
  else if 0x1401000 ≤ a ∧ a < 0x1402000 then (.thermal, a - 0x1401000)
  else if 0x1800000 ≤ a ∧ a < 0x1801000 then (.security, a - 0x1800000)
  else if 0x1C00000 ≤ a ∧ a < 0x1C01000 then (.test, a - 0x1C00000)
  else if 0x2000000 ≤ a ∧ a < 0x4000000 then cdBlock ((a - 0x2000000) / 0x800000) ((a - 0x2000000) % 0x800000)
  else (.none, 0)

/-- What an offset within a block reads as. -/
def blockRead (s : State) : RegBlock → Nat → Nat
  | .global, o => globalRead s o
  | .component, o => componentRead s o
  | .msix, o => msixRead s o
  | .pba, o => pbaRead s o
  | .frames, o => frmRead s o
  | .bobbins, o => bobRead s o
  | .mailbox m, o => mbxRead s m o
  | .flyer, o => flyRead s o
  | .hank h, o => hankRegRead s h o
  | .hanks, o => hnkRead s o
  | .optics, o => optRead s o
  | .fabric, o => fabRead s o
  | .topology, o => topRead s o
  | .skeins, o => sknRead s o
  | .power, o => pwrRead s o
  | .thermal, o => thmRead s o
  | .security, o => secRead s o
  | .test, o => tstRead s o
  | .spindle i, o => spnRead s i o
  | .vector d, o => vecRead s d o
  | .visibility d, o => visRead s d o
  | .none, _ => 0

/-- The value of the register at a BAR0 offset, without the latch of R10. -/
def regRead (s : State) (a : Nat) : Nat :=
  blockRead s (blockOf a).1 (blockOf a).2 % 2 ^ 32

/-- R10: the low words of a block's register pairs, those named _LO before their _HI. -/
def regPairs : RegBlock → List Nat
  | .global => [0x208, 0x224, 0x30C, 0x314, 0x31C]
  | .frames => [0x08, 0x30, 0x38, 0x48]
  | .flyer => [0x0C]
  | .hank _ => [0x10]
  | .hanks => [0x18]
  | .optics => [0x38, 0x40]
  | .fabric => [0x38]
  | .topology => [0x08, 0x10, 0x18]
  | .skeins => [0x18, 0x20]
  | .security => [0x04]
  | .test => [0x104]
  | .spindle _ => [0x10, 0x18]
  | .vector _ => [0x04]
  | _ => []

/-- R10: the low word of a register pair. -/
def isPairLow (a : Nat) : Bool :=
  (regPairs (blockOf a).1).contains (blockOf a).2

/-- R10: the high word of a register pair. -/
def isPairHigh (a : Nat) : Bool :=
  4 ≤ a && isPairLow (a - 4)

/-- R10: a read of the register at a BAR0 offset: a low word latches the high word, which the next read of the high word
returns. -/
def latchRead (a : Nat) (s : State) : Nat × State :=
  if isPairLow a then (regRead s a, { s with latch := tput s.latch a (some (regRead s (a + 4))) })
  else if isPairHigh a then
    match tget s.latch (a - 4) with
    | some v => (v, { s with latch := tput s.latch (a - 4) none })
    | none => (regRead s a, s)
  else (regRead s a, s)

end Sys2Proof.Machine
end

