-- ==== Sys2Proof/Machine/Registers.lean ====
section
/-!
DEFINITION. Writes of registers by their access types, the host's and the sideband's register accesses, and the closing of
an error window.
-/

namespace Sys2Proof.Machine

/-- R12: a W1C bit after a write: cleared where 1 is written. -/
def w1c (v i : Nat) (b : Bool) : Bool :=
  b && !v.testBit i

/-- Identity and global block (R45, R229, R386, R430). -/
def globalWrite (o v : Nat) (s : State) : State :=
  match o with
  | 0x80 => s.modPkg fun p => { p with d2dSel := v % 32 }
  | 0x204 => s.modHp fun h =>
    { h with linkDown := w1c v 31 h.linkDown, ideFail := w1c v 30 h.ideFail, poisonSent := w1c v 29 h.poisonSent,
             spillErr := w1c v 28 h.spillErr, downgrade := w1c v 27 h.downgrade }
  | 0x220 => s.modHp fun h => { h with spillSel := v % 512 }
  | 0x300 => s.modRes fun r =>
    { r with snapFail := w1c v 31 r.snapFail, flashErr := w1c v 30 r.flashErr, logGap := w1c v 29 r.logGap,
             buddyAbandoned := w1c v 28 r.buddyAbandoned }
  | 0x400 => s.modMdl fun m =>
    { m with flowLowSeen := w1c v 31 m.flowLowSeen, inletHighSeen := w1c v 30 m.inletHighSeen,
             leakSeen := w1c v 29 m.leakSeen, bankChanged := w1c v 28 m.bankChanged }
  | _ => s

/-- R217: a write into the MSI-X table; unmasking a vector sends what is pending on it. [PRESUMED 3] -/
def msixWrite (o v : Nat) (s : State) : State :=
  let n := o / 16
  match o % 16 with
  | 0 => s.modMsix n fun e => { e with addr := e.addr / 2 ^ 32 * 2 ^ 32 + v }
  | 4 => s.modMsix n fun e => { e with addr := e.addr % 2 ^ 32 + v * 2 ^ 32 }
  | 8 => s.modMsix n fun e => { e with data := v }
  | 12 => sendPending n (s.modMsix n fun e => { e with unmasked := !v.testBit 0 })
  | _ => s

/-- R82: a write of FRM_SLACK_MIN of any value restarts it. -/
def slackMinWrite (s : State) : State :=
  s.modFrm fun f => { f with slackMin := 0xFFFFFFFF }

/-- R82: the frames block. -/
def frmWrite (o v : Nat) (s : State) : State :=
  match o with
  | 0x04 => s.modFrm fun f =>
    { f with overrun := w1c v 31 f.overrun, failedFrame := w1c v 30 f.failedFrame, takeover := w1c v 29 f.takeover }
  | 0x28 => slackMinWrite s
  | _ => s

/-- R210: the bobbin block. -/
def bobWrite (o v : Nat) (s : State) : State :=
  match o with
  | 0x00 => s.modBob fun b =>
    { b with dbError := w1c v 31 b.dbError, stale := w1c v 30 b.stale, peerOverrun := w1c v 29 b.peerOverrun }
  | 0x20 => s.modBob fun b => { b with qSel := v % 2 ^ 20 }
  | 0x30 => s.modBob fun b => { b with pageSel := v % 2 ^ 12 }
  | _ => s

/-- R233, R249: a mailbox: payload bytes, GO and CANCEL, W1C bits, the event ring's head. -/
def mbxWrite (m o v : Nat) (s : State) : State :=
  if o < 0x1000 then writePayload m o (leBytes 4 v) s
  else match o with
    | 0x1000 =>
      let s := if v.testBit 31 then goMbx m s else s
      if v.testBit 30 && mailboxesUp s then cancelMbx m s else s
    | 0x1004 => s.modMbx m fun b =>
      { b with goIgnored := w1c v 31 b.goIgnored, cancelIgnored := w1c v 30 b.cancelIgnored }
    | 0x1020 => evtHeadWrite m v s
    | _ => s

/-- R250: a write of MBX_ACCEPT_MAX of any value restarts it. -/
def acceptMaxWrite (s : State) : State :=
  s.modFly fun f => { f with acceptMax := 0 }

/-- R250: the global flyer registers. -/
def flyWrite (o v : Nat) (s : State) : State :=
  match o with
  | 0x00 => s.modFly fun f => { f with takeover := w1c v 31 f.takeover, standbyLost := w1c v 30 f.standbyLost }
  | 0x14 => acceptMaxWrite s
  | _ => s

/-- R160: the registers of hank `h`. -/
def hankWrite (h o v : Nat) (s : State) : State :=
  match o with
  | 0x00 => s.modHank h fun k => { k with ue := w1c v 31 k.ue, sensorFault := w1c v 29 k.sensorFault }
  | 0x20 => s.modHank h fun k => { k with chSel := v % 256 }
  | 0x30 => loopbackWrite h v s
  | _ => s

/-- R10: the low word of a register pair is written; it waits for the high word. -/
def pairLowWrite (a v : Nat) (s : State) : State :=
  { s with pairLow := tput s.pairLow a v }

/-- R161: the registers common to all hanks. -/
def hnkWrite (o v : Nat) (s : State) : State :=
  match o with
  | 0x18 => pairLowWrite probeLoOff v s
  | 0x1C => probeWrite v s
  | _ => s

/-- R272: the optics block. -/
def optWrite (o v : Nat) (s : State) : State :=
  match o with
  | 0x00 => s.modOpt fun x =>
    { x with laneEvent := w1c v 31 x.laneEvent, swapDone := w1c v 30 x.swapDone, calFail := w1c v 29 x.calFail }
  | 0x10 => s.modOpt fun x => { x with sel := v % 64 }
  | 0x30 => monSelWrite v s
  | _ => s

/-- R300: a write of FAB_CBUF_PEAK of any value restarts it. -/
def cbufPeakWrite (s : State) : State :=
  s.modFab fun f => { f with cbufPeak := 0 }

/-- R300: the fabric block. -/
def fabWrite (o v : Nat) (s : State) : State :=
  match o with
  | 0x00 => s.modFab fun f =>
    { f with cbufOverflow := w1c v 31 f.cbufOverflow, unreachable := w1c v 30 f.unreachable,
             msgIncomplete := w1c v 29 f.msgIncomplete, checkFail := w1c v 28 f.checkFail,
             laneLimit := w1c v 27 f.laneLimit }
  | 0x18 => cbufPeakWrite s
  | 0x20 => s.modFab fun f => { f with strandSel := v % 64 }
  | 0x24 => s.modLink s.fab.strandSel fun l => { l with windowFull := w1c v 7 l.windowFull }
  | 0x30 => s.modFab fun f => { f with destSel := v % 2 ^ 14 }
  | _ => s

/-- R325: the topology registers. -/
def topWrite (o v : Nat) (s : State) : State :=
  match o with
  | 0x00 => s.modTop fun t =>
    { t with mismatch := w1c v 31 t.mismatch, tickLost := w1c v 30 t.tickLost, quarantine := w1c v 29 t.quarantine }
  | _ => s

/-- R346: the skein block. -/
def sknWrite (o v : Nat) (s : State) : State :=
  match o with
  | 0x00 => s.modSkn fun k =>
    { k with mismatch := w1c v 31 k.mismatch, aborted := w1c v 30 k.aborted, checkFail := w1c v 29 k.checkFail }
  | 0x28 => s.modSkn fun k => { k with ctxSel := v % 16 }
  | _ => s

/-- R46, R367: the power and clock registers. -/
def pwrWrite (o v : Nat) (s : State) : State :=
  match o with
  | 0x00 => s.modPwr fun p =>
    { p with guard_ := w1c v 31 p.guard_, inputHigh := w1c v 30 p.inputHigh, inputLow := w1c v 29 p.inputLow,
             budgetStale := w1c v 28 p.budgetStale }
  | 0x120 => s.modPkg fun p =>
    { p with refLost := w1c v 31 p.refLost, unlockSticky := p.unlockSticky &&& ~~~ BitVec.ofNat 6 (v / 2 ^ 16) }
  | _ => s

/-- R368: the thermal registers. -/
def thmWrite (o v : Nat) (s : State) : State :=
  match o with
  | 0x00 => s.modThm fun t => { t with throttle := w1c v 31 t.throttle, sensorFault := w1c v 30 t.sensorFault }
  | 0x20 => s.modThm fun t => { t with sel := v % 512 }
  | _ => s

/-- R405: the security block. -/
def secWrite (o v : Nat) (s : State) : State :=
  match o with
  | 0x00 => s.modSec fun x =>
    { x with fwSigFail := w1c v 31 x.fwSigFail, imageSigFail := w1c v 30 x.imageSigFail,
             debugDenied := w1c v 29 x.debugDenied }
  | _ => s

/-- R415: TST_DBG_ADDR_LO's offset in BAR0. -/
def dbgLoOff : Nat :=
  0x1C00104

/-- R414, R415: the test block; the debug registers ignore writes while the debug unlock is not granted. -/
def tstWrite (o v : Nat) (s : State) : State :=
  match o with
  | 0x00 => s.modTst fun t =>
    { t with fail := w1c v 31 t.fail, stretched := w1c v 30 t.stretched, refuse := w1c v 29 t.refuse }
  | 0x100 => dbgCtrlWrite v s
  | 0x104 => if s.sec.debugUnlocked then pairLowWrite dbgLoOff v s else s
  | 0x108 =>
    if s.sec.debugUnlocked then s.modTst fun t => { t with dbgAddr := v % 256 * 2 ^ 32 + tget s.pairLow dbgLoOff } else s
  | 0x10C => if s.sec.debugUnlocked then s.modTst fun t => { t with dbgData := v } else s
  | _ => s

/-- R108: the registers of spindle `i`. -/
def spnWrite (i o v : Nat) (s : State) : State :=
  match o with
  | 0x00 => s.modSpn i fun p =>
    { p with range := w1c v 31 p.range, nanOut := w1c v 30 p.nanOut, overflow := w1c v 29 p.overflow,
             dataErr := w1c v 28 p.dataErr }
  | _ => s

/-- R135: the vector registers of a compute die. -/
def vecWrite (d o v : Nat) (s : State) : State :=
  match o with
  | 0x00 => s.modVec d fun x =>
    { x with bounds := w1c v 31 x.bounds, dataErr := w1c v 30 x.dataErr, attnErr := w1c v 29 x.attnErr,
             nanOut := w1c v 28 x.nanOut }
  | _ => s

/-- R184: the visibility registers of a compute die. -/
def visWrite (d o v : Nat) (s : State) : State :=
  match o with
  | 0x00 => s.modRlc d fun x =>
    { x with parityDirty := w1c v 31 x.parityDirty, ctrlRefused := w1c v 30 x.ctrlRefused }
  | 0x04 => rlcCtrlWrite d (v % 4) s
  | _ => s

/-- R211, R228: the RAS capability's status bits are cleared by writing 1. [PRESUMED 94] -/
def componentWrite (o v : Nat) (s : State) : State :=
  match o with
  | 0x1080 => s.modHp fun h => { h with rasIde := w1c v 16 h.rasIde }
  | 0x108C => s.modHp fun h => { h with rasPoison := w1c v 4 h.rasPoison }
  | _ => s

/-- R12: a write at an offset within a block; what is read-only or not there ignores it. -/
def blockWrite : RegBlock → Nat → Nat → State → State
  | .global, o, v, s => globalWrite o v s
  | .component, o, v, s => componentWrite o v s
  | .msix, o, v, s => msixWrite o v s
  | .frames, o, v, s => frmWrite o v s
  | .bobbins, o, v, s => bobWrite o v s
  | .mailbox m, o, v, s => mbxWrite m o v s
  | .flyer, o, v, s => flyWrite o v s
  | .hank h, o, v, s => hankWrite h o v s
  | .hanks, o, v, s => hnkWrite o v s
  | .optics, o, v, s => optWrite o v s
  | .fabric, o, v, s => fabWrite o v s
  | .topology, o, v, s => topWrite o v s
  | .skeins, o, v, s => sknWrite o v s
  | .power, o, v, s => pwrWrite o v s
  | .thermal, o, v, s => thmWrite o v s
  | .security, o, v, s => secWrite o v s
  | .test, o, v, s => tstWrite o v s
  | .spindle i, o, v, s => spnWrite i o v s
  | .vector d, o, v, s => vecWrite d o v s
  | .visibility d, o, v, s => visWrite d o v s
  | .pba, _, _, s | .none, _, _, s => s

/-- R10, R12: a 32-bit write of the register at a BAR0 offset; registers lie at multiples of 4. -/
def regWrite (a v : Nat) (s : State) : State :=
  if a % 4 = 0 then blockWrite (blockOf a).1 (blockOf a).2 v s else s

/-! ### The host's accesses -/

/-- REGISTER_WRITE (R11, R12). -/
def execRegisterWrite (offset value : Word) (s : State) : Host.Outcome State Fault Refusal :=
  .next (if barUp s then regWrite offset.toNat value.toNat s else s)

/-- REG_PAIR_HIGH_WRITE (R10): the high word of a pair commits the whole value. -/
def execRegPairHighWrite (offset value : Word) (s : State) : Host.Outcome State Fault Refusal :=
  .next (if barUp s && isPairHigh offset.toNat then regWrite offset.toNat value.toNat s else s)

/-- REG_LOW_READ (R10): the value goes to the host; a low word latches the high word. -/
def execRegLowRead (offset : Word) (s : State) : Host.Outcome State Fault Refusal :=
  .next (
    if barUp s then
      let r := latchRead offset.toNat s
      r.2.emit (.regValue (w32 r.1))
    else s)

/-- FRM_SLACK_MIN_WRITE (R82). -/
def execFrmSlackMinWrite (_value : Word) (s : State) : Host.Outcome State Fault Refusal :=
  .next (if barUp s then slackMinWrite s else s)

/-- MBX_ACCEPT_MAX_WRITE (R250). -/
def execMbxAcceptMaxWrite (_value : Word) (s : State) : Host.Outcome State Fault Refusal :=
  .next (if barUp s then acceptMaxWrite s else s)

/-- FAB_CBUF_PEAK_WRITE (R300). -/
def execFabCbufPeakWrite (_value : Word) (s : State) : Host.Outcome State Fault Refusal :=
  .next (if barUp s then cbufPeakWrite s else s)

/-! ### The sideband -/

/-- R427, R430: what the sideband reads without input power: MOD_STATE, MOD_RESET_CAUSE, the module registers. -/
def sbDark (a : Nat) : Bool :=
  [0x64, 0x68, 0x400, 0x404, 0x408, 0x40C, 0x410].contains a

/-- R428: the blocks that the sideband reads. -/
def sbReadable (a : Nat) : Bool :=
  match (blockOf a).1 with
  | .global | .power | .thermal | .security => a % 4 == 0
  | _ => false

/-- R242, R427, R428: a READ is answered with this result. -/
def sbResult (s : State) (a : Nat) : Nat :=
  if !s.pkg.powered then (if sbDark a then 0 else 3)
  else if s.pkg.devState == .failed && s.pkg.clocksStopped.getLsbD 4 then 4
  else if sbReadable a then 0 else 2

/-- SB_READ (R428). -/
def execSbRead (offset : Word) (s : State) : Host.Outcome State Fault Refusal :=
  .next (
    if sbResult s offset.toNat = 0 then
      let r := latchRead offset.toNat s
      r.2.emit (.sideband 0 (leBytes 4 r.1))
    else s.emit (.sideband (sbResult s offset.toNat) []))

/-! ### Error windows -/

/-- R358, R367: PWR_DROOPn's window of a compute die closes. -/
def droopWindow (d : Nat) (s : State) : State :=
  s.modPwrDie d fun x => { x with droopEvents := 0, droopUs := 0 }

/-- R369: a window closes and its count returns to zero. Beside the rows of R373, row 0 is the 24-hour window of the test
counts (R412); the droop registers (R367) share row 40's window. -/
def closeWindow (row sub key : Nat) (s : State) : State :=
  let s : State := { s with win := tput s.win (winKey row sub key) 0, winHide := tput s.winHide (winKey row sub key) 0 }
  if row = 0 then s.modTst fun t => { t with tested := .replicate 8 0, failed := .replicate 8 0 }
  else if row = 40 then droopWindow key s
  else s

/-- ERROR_WINDOW_CLOSE (R369). -/
def execErrorWindowClose (row : Fin 49) (sub key : Nat) (s : State) : Host.Outcome State Fault Refusal :=
  .next (closeWindow row.val sub key s)

end Sys2Proof.Machine
end

