-- ==== Sys2Proof/Machine/Restore.lean ====
section
/-!
DEFINITION. Chapter 15: restoring snapshots and buddy generations (R377, R380), and the packets by which a device names its
buddy (R378).
-/

namespace Sys2Proof.Machine

/-! ### Restoring -/

/-- R377, R386: a restore fails. -/
def failRestore (m : Nat) (st : Status) (s : State) : State :=
  failMbx m st 0 (snapFailed s)

/-- R377 check 2, but for the firmware: the device is READY, and an image with this tag is loaded, and neither running nor
pending start. -/
def restorable (s : State) (tag : Nat) : Bool :=
  s.pkg.devState == .ready && s.frm.prog == .loaded && (s.frm.image.map (·.tag)) == some tag

/-- R377: the contents of the ranges that a snapshot holds become the snapshot's. -/
def restoreData (x : Snap) (s : State) : State :=
  { s with
    mem := x.data.foldl (fun m e => tput m e.1 e.2) (s.mem.filter fun e => !inExtents x.extents e.1)
    undef := x.extents.foldl (fun us e => us.flatMap (cutExt e.1 (e.1 + e.2))) s.undef ++ x.undef
    hnk := { s.hnk with
      ue := s.hnk.ue.filter fun e => !inExtents x.extents (64 * e.1)
      wmb := s.hnk.wmb.filter fun e => !inExtents x.extents (64 * e.block) } }

/-- R377: the region table, HNK_PLACE, the frame index and the skeins' SEQs become the snapshot's. -/
def restoreState (x : Snap) (s : State) : State :=
  let kept := s.bob.region.filter fun e => e.2.system
  { s with
    bob := { s.bob with region := x.regions.foldl (fun t e => tput t e.1 e.2) kept }
    hnk := { s.hnk with place := x.place }
    skn := { s.skn with seq := x.seqs, abortedSeq := [] }
    frm := { s.frm with suspended := some (x.index, x.tag), past := [], released := [] } }

/-- R377: a snapshot is restored. -/
def restoreSnap (m : Nat) (x : Snap) (readable : Bool) (s : State) : State :=
  if !restorable s x.tag || x.fwMajor != s.fly.fwMajor then failRestore m .eState s
  else if x.numgen ≠ bitsOf s.pkg.pkgCap.toNat 23 20 then failRestore m .eNumgenMismatch s
  else if !readable then failRestore m .eSnapshotCorrupt s
  else
    completeMbx m .sOk 0 (leBytes 8 x.size) (restoreState x (restoreData x (endRows .ePreempted s)))

/-- R380: where this device's own image puts bytes of its block in a step: their region and offset. -/
def shardPlace (co : Coll) (off : Nat) : Nat × Nat :=
  if co.e.opcode = 0x12 then (co.a.inRegion, co.a.inOff + off)
  else (co.a.outRegion, co.a.outOff + co.a.elemSize * blockStart co.a co.p + off)

/-- R380: the shards of a buddy generation, as (step, offset in the block, bytes), are written. -/
def restoreShards (img : Image) : List (Nat × Nat × List Byte) → State → Option Status × State
  | [], s => (none, s)
  | (i, off, bs) :: xs, s =>
    match collOf s img i with
    | none => restoreShards img xs s
    | some co =>
      let (h, o) := shardPlace co off
      match stepCheck s [⟨2, h, o, bs.length, accWrite⟩] with
      | some x => (some x.1, s)
      | none =>
        let w := flyerWrite (regionAddr s h o) bs s
        match w.err with
        | some st => (some st, w.s)
        | none => restoreShards img xs w.s

/-- R380: the packets between a device and its buddy; the manual gives them no code [DC 53]. -/
def buddyOp : Nat :=
  0x80

/-- R380: the request for the generation whose last copy was made in this frame goes to the buddy. -/
def askGeneration (dev frame : Nat) (s : State) : State :=
  sendAnswer dev { op := buddyOp, opLen := 12 } (leBytes 1 3 ++ leBytes 3 0 ++ leBytes 8 frame) s

/-- R380: a buddy generation, fetched over the packet class, is restored: only shards. -/
def restoreGen (m dev frame : Nat) (fetched : Option Generation) (s : State) : State :=
  if !hasRoute s dev then failRestore m .eUnreachable s
  else
    let s := askGeneration dev frame s
    match fetched, s.frm.image with
    | none, _ => failRestore m .eSnapshotAbsent s
    | some _, none => failRestore m .eState s
    | some g, some img =>
      if !restorable s g.tag then failRestore m .eState s
      else match restoreShards img g.shards s with
        | (some st, s) => failRestore m st s
        | (none, s) => completeMbx m .sOk 0 (leBytes 8 ((g.shards.map (·.2.2.length)).sum)) s

/-- R377, R380: `snapshot.restore`: bit 63 of SNAPSHOT_ID names a buddy's generation. -/
def snapshotRestore (m : Nat) (readable : Bool) (fetched : Option Generation) (r : MbxReq) (s : State) : State :=
  let id := fieldOf r.params 0 8
  if id.testBit 63 then
    if id.testBit 62 then failRestore m .eSnapshotAbsent s else restoreGen m (bitsOf id 61 48) (bitsOf id 47 0) fetched s
  else match s.res.snaps.find? fun x => x.complete && x.id == id with
    | none => failRestore m .eSnapshotAbsent s
    | some x => restoreSnap m x readable s

/-- SNAPSHOT_RESTORE (R377): `readable` says that the digest matches, and `fetched` is what a buddy answers. -/
def execSnapshotRestore (mbx : MbxId) (readable : Bool) (fetched : Option Generation) (s : State) :
    Host.Outcome State Fault Refusal :=
  .next (casbomi 0x0081 mbx (snapshotRestore mbx readable fetched) s)

/-! ### Buddies -/

/-- R378: the operands of an assignment, a release or their answer: what it is (0 assignment, 1 release, 2 answer), whether it is accepted, the number of the message
answered, and FEED. -/
def buddyBytes (kind : Nat) (accepted : Bool) (msg feed : Nat) : List Byte :=
  leBytes 1 kind ++ leBytes 1 (bit accepted) ++ leBytes 2 msg ++ leBytes 2 feed

/-- R378: an assignment or release packet leaves. -/
def sendBuddy (client : Client) (dest kind : Nat) (s : State) : State :=
  let (k, s) := newOp { op := buddyOp, client := client, unit := 2 ^ 20 + 4096, dest := dest, open_ := 1 } s
  sendMessage k dest { op := buddyOp, opLen := 6 } (buddyBytes kind false 0 s.top.feed) s

/-- R378: the previous buddy is released: it discards this device's staging. -/
def releaseBuddy (next : Nat) (s : State) : State :=
  let b := s.res.buddy
  let s := if b ≠ 0xFFFF ∧ b ≠ next then sendBuddy .fabric b 1 s else s
  s.modRes fun r => { r with buddy := 0xFFFF, correlated := false }

/-- R378: `buddy.set`. -/
def buddySet (m : Nat) (r : MbxReq) (s : State) : State :=
  let b := fieldOf r.params 0 2
  if b = 0xFFFF then completeMbx m .sOk 0 [] (releaseBuddy b s)
  else if isSelf s b then failMbx m .eState 0 s
  else if 2 ^ 14 ≤ b || !hasRoute s b then failMbx m .eUnreachable 0 s
  else
    let s := sendBuddy .flyer b 0 (releaseBuddy b s)
    (s.modRes fun x => { x with buddyWait := some (m, b) }).modMbx m fun x => { x with started := true }

/-- BUDDY_SET (R378). -/
def execBuddySet (mbx : MbxId) (s : State) : Host.Outcome State Fault Refusal :=
  .next (if s.res.buddyWait.isSome then s else casbomi 0x0082 mbx (buddySet mbx) s)

/-- R374, R378: a device joins the protected ones; staging left of a device that is protected no more gives way where all
four places are taken. -/
def joinProtected (dev : Nat) (ps : List Protected) : List Protected :=
  if ps.any fun p => p.dev == dev then ps.map fun p => if p.dev = dev then { p with live := true } else p
  else (if ps.length < 4 then ps else ps.eraseIdx (ps.findIdx fun p => !p.live)) ++ [{ dev := dev }]

/-- R378: the buddy takes on a device, if it is one of at most four; the answer carries its FEED. -/
def takeProtected (h : PktHdr) (s : State) : List Byte × State :=
  let known := s.res.protects.any fun p => p.live && p.dev == h.src
  let room := known || (s.res.protects.filter (·.live)).length < 4
  let s := if room then s.modRes fun r => { r with protects := joinProtected h.src r.protects } else s
  (buddyBytes 2 room h.msg s.top.feed, s)

/-- R378: the buddy lets a device go. -/
def dropProtected (h : PktHdr) (s : State) : List Byte × State :=
  (buddyBytes 2 true h.msg s.top.feed, s.modRes fun r => { r with protects := r.protects.filter fun p => p.dev != h.src })

/-- R378: the answer to `buddy.set`. -/
def buddyAnswered (m b : Nat) (accepted : Bool) (feed : Nat) (s : State) : State :=
  let s := s.modRes fun r => { r with buddyWait := none }
  if !accepted then failMbx m .eState 0 s
  else
    let same := feed = s.top.feed ∧ feed ≠ 0
    let s := s.modRes fun r => { r with buddy := b, correlated := decide same }
    completeMbx m (if same then .sCorrelatedBuddy else .sOk) 0 [] s

/-- R294, R378: an answer completes the message that it names. -/
def buddyAnswer (h : PktHdr) (body : List Byte) (s : State) : State :=
  let msg := fieldOf body 2 2
  match tget s.fab.tx msg with
  | none => s
  | some t =>
    if t.dest ≠ h.src then s
    else
      let waits := s.res.buddyWait.filter fun w =>
        w.2 == h.src && ((tget s.fab.op t.op).map fun o => o.client == .flyer).getD false
      let s := answerOp t.op .sOk 0 (s.modFab fun f => { f with tx := tput f.tx msg none })
      match waits with
      | some (m, b) => buddyAnswered m b ((fieldOf body 1 1) = 1) (fieldOf body 4 2) s
      | none => s

/-- R379: a generation as it travels: for each shard its step, frame, offset in the block and bytes. -/
def genPayload (g : BuddyGen) : List Byte :=
  leBytes 8 g.tag ++ g.shards.flatMap fun x =>
    leBytes 4 x.step ++ leBytes 8 x.frame ++ leBytes 4 x.off ++ leBytes 4 x.bytes.length ++ x.bytes

/-- R380: the buddy's answer to a fetch: the last complete generation of the device that asks, if its last copy was made in
the frame that the request names. -/
def fetchAnswer (h : PktHdr) (body : List Byte) (s : State) : List Byte :=
  let g := ((s.res.protects.find? fun p => p.dev == h.src).bind (·.whole)).filter fun g => g.last == fieldOf body 4 8
  buddyBytes 4 g.isSome h.msg s.top.feed ++ (g.map genPayload).getD []

/-- BUDDY_ASSIGNMENT (R378, R380): an assignment, a release, a fetch or an answer arrives; what a fetch brings back is in
the operands of SNAPSHOT_RESTORE. -/
def execBuddyAssignment (payload : List Byte) (s : State) : Host.Outcome State Fault Refusal :=
  headed payload (fun h body s =>
    if h.op ≠ buddyOp then s
    else
      let answer := fun bs s => sendAnswer h.src { op := buddyOp } bs s
      if fieldOf body 0 1 = 0 then receiveOne h (takeProtected h) answer s
      else if fieldOf body 0 1 = 1 then receiveOne h (dropProtected h) answer s
      else if fieldOf body 0 1 = 2 then buddyAnswer h body s
      else if fieldOf body 0 1 = 3 then sendAnswer h.src { op := buddyOp } (fetchAnswer h body s) s
      else s) s

end Sys2Proof.Machine
end

