-- ==== Sys2Proof/Machine/Topology.lean ====
section
/-!
DEFINITION. Discovery and forming: hellos, neighbours, alignment, summaries, the form block, tick 0, the loss of ticks, and
a strand that has trained (R301-R304, R309-R318).
-/

namespace Sys2Proof.Machine

/-! ### Hellos -/

/-- R301: the fields of a hello that are kept. -/
def helloOf (p : List Byte) : Hello :=
  let fl := fieldOf p 1 1
  { idValid := fl.testBit 0, matched := fl.testBit 1, formed := fl.testBit 2, strand := fieldOf p 2 1,
    state := fieldOf p 3 1, digest := fieldOf p 4 8, feed := fieldOf p 12 2, devId := fieldOf p 14 2 % 2 ^ 14,
    domain := fieldOf p 16 2, domDigest := fieldOf p 18 8, latency := fieldOf p 46 2 }

/-- R303: the one-way sample of a hello that arrives at `t`, in 50 ps units. -/
def latencySample (p : List Byte) (t : Nat) : Nat :=
  ((t + 2 ^ 65 - fieldOf p 34 8 - fieldOf p 42 4) % 2 ^ 64) / 2

/-- R303: the mean of the samples in ns, to the nearest. -/
def meanLatency (samples : List Nat) : Nat :=
  (samples.sum + 10 * samples.length) / (20 * samples.length)

/-- R303: a hello gives a sample, unless it may have been replayed or echoes nothing. -/
def takeSample (n : Nat) (p : List Byte) (t : Nat) (s : State) : State :=
  if fieldOf p 34 8 = 0 || (s.linkAt n).replayed then s
  else s.modDisc n fun d =>
    let xs := (latencySample p t :: d.samples).take 64
    { d with samples := xs, latency := if xs.length = 64 then meanLatency xs else d.latency }

/-- R313, R314: the neighbour of a MATCHED strand holds a plan of this device's domain and is not formed. -/
def joinsHere (s : State) (n : Nat) : Bool :=
  let d := s.discAt n
  d.st == .matched &&
    (match d.hello with
     | some h => h.idValid && !h.formed && (s.top.plan.map (·.domDigest)) == some h.domDigest
     | none => false)

/-- R314: a child that has yet to be taken in: it joins or rejoins, and has been sent nothing since. -/
def rejoins (s : State) (n : Nat) : Bool :=
  !(s.discAt n).rejoined && joinsHere s n

/-- R313, R314, R316: the parent sends a child that joins late or rejoins an alignment block, and once formed a form block.
[DEDUCED 100] -/
def welcome (n : Nat) (s : State) : State :=
  if !rejoins s n then s
  else
    let s := s.modDisc n fun d => { d with rejoined := true }
    let s := match s.top.sb with
      | some p => if (childStrands s 1).contains n then sendAlign 1 p [n] s else s
      | none => s
    match s.top.main with
    | some p =>
      if (childStrands s 0).contains n then
        let s := sendAlign 0 p [n] s
        if s.top.formed then sendForm [n] s else s
      else s
    | none => s

/-- R304, R309: a strand's neighbour has changed: its state is evaluated anew. -/
def strandChanged (n : Nat) (s : State) : State :=
  noteTickStrands (resumeAccept (reevaluate n s))

/-- R303, R304, R309: a hello: a sample, the neighbour found with the 64th, and the strand's state. -/
def takeHello (n : Nat) (p : List Byte) (t : Nat) (s : State) : State :=
  let s := takeSample n p t s
  let s := s.modDisc n fun d =>
    { d with hello := some (helloOf p), echo := some (fieldOf p 26 8, t),
             rejoined := d.rejoined && (helloOf p).idValid && !(helloOf p).formed,
             nb := if d.samples.length = 64 then .found else d.nb }
  welcome n (strandChanged n s)

/-- HELLO (R303). -/
def execHello (strand : StrandId) (payload : List Byte) (t : Quad) (s : State) : Host.Outcome State Fault Refusal :=
  .next (if carriesTraffic s strand then takeHello strand payload t.toNat s else s)

/-- HELLO_SEND (R302): a strand in calibration or training sends none. -/
def execHelloSend (strand : StrandId) (t : Quad) (s : State) : Host.Outcome State Fault Refusal :=
  .next (if carriesTraffic s strand then sendSequenced strand 8 (discoveryHead s strand 1 t.toNat) s else s)

/-- NEIGHBOUR_TIMEOUT (R304): no hello within 20 ms of a strand entering service. -/
def execNeighbourTimeout (strand : StrandId) (s : State) : Host.Outcome State Fault Refusal :=
  .next (if (s.discAt strand).nb = .waiting && (s.discAt strand).hello.isNone then strandChanged strand (s.modDisc strand fun d => { d with nb := .none })
         else s)

/-- NEIGHBOUR_LOST (R304): a neighbour's hellos have stopped for 50 ms. -/
def execNeighbourLost (strand : StrandId) (s : State) : Host.Outcome State Fault Refusal :=
  .next (if (s.discAt strand).nb = .found then
    strandChanged strand (s.modDisc strand fun d => { d with nb := .lost, samples := [], echo := none, hello := none })
         else s)

/-! ### Forming -/

/-- R313 step 2: a strand that may bring a tree's alignment, from a neighbour with this plan's DOMAIN_DIGEST. -/
def parentStrand (s : State) (tree n : Nat) (p : List Byte) : Bool :=
  match s.top.plan with
  | none => false
  | some q =>
    let par := if tree = 0 then q.parent else q.sbParent
    let alt := if tree = 0 then q.parentAlt else q.sbParentAlt
    par != 0xFF && (n == par || alt.testBit n) && (fieldOf p 1 1).testBit 0 && fieldOf p 18 8 == q.domDigest

/-- R69, R313: the place that an alignment block gives a device behind a strand of this latency. -/
def placeBehind (p : List Byte) (latency : Nat) : TreePos :=
  { depth := fieldOf p 49 1 + 1, lat := fieldOf p 52 4 + latency + (if fieldOf p 49 1 = 0 then 0 else 120) }

/-- R313 step 2: the device takes its place, or, deeper than 8, joins neither tree. -/
def takeAlignment (n : Nat) (p : List Byte) (s : State) : State :=
  let tree := fieldOf p 48 1
  let pos := placeBehind p (s.discAt n).latency
  if 8 < pos.depth then
    postDevice 0x08 .sPlanMismatch 0xFFFFFFFF (s.modTop fun t => { t with main := none, sb := none })
  else
    let s := s.modFrm fun f =>
      if tree = 0 then { f with latL := pos.lat, latNew := pos.lat } else { f with latL2 := pos.lat, latNew2 := pos.lat }
    let s := s.modTop fun t => if tree = 0 then { t with inUse := n } else { t with sbInUse := n }
    joinTree tree pos s

/-- ALIGNMENT (R313). -/
def execAlignment (strand : StrandId) (payload : List Byte) (s : State) : Host.Outcome State Fault Refusal :=
  .next (if fieldOf payload 48 1 < 2 && parentStrand s (fieldOf payload 48 1) strand payload then
    takeAlignment strand payload s else s)

/-- R313, R315: COUNT, DEPTH, MAX_L and ALL_MATCH of a summary block. -/
def summaryFields (p : List Byte) : Nat × Nat × Nat × Bool :=
  (fieldOf p 52 2, fieldOf p 49 1, fieldOf p 56 4, (fieldOf p 50 1) != 0)

/-- R313 step 4: the strand leads the whorl to the standby. -/
def fromStandby (s : State) (n : Nat) : Bool :=
  match s.top.plan with
  | none => false
  | some p => planRole p == .whorl && (childStrands s 0).contains n && farDevice p n == some p.standby

/-- R313, R315: a child's summary is kept; this device's own goes up once every child's is in, and again whenever it
changes after that. [DEDUCED 100] -/
def takeSummary (n : Nat) (p : List Byte) (s : State) : State :=
  let tree := fieldOf p 48 1
  let x := summaryFields p
  if tree = 1 && fromStandby s n then s.modTop fun t => { t with sbTotals := some (x.1, x.2.2.1) }
  else if !(matchedChildren s tree).contains n then s
  else
    let before := summaryOf s tree
    let s := s.modDisc n fun d => if tree = 0 then { d with sum0 := some x } else { d with sum1 := some x }
    if s.top.formed then (if summaryOf s tree = before then s else sendSummary tree s)
    else
      let s := if ((treePos s tree).map (·.sent)).getD false && summaryOf s tree != before then sendSummary tree s
        else trySummary tree s
      if tree = 0 && (s.top.plan.map planRole) == some .whorl then
        s.modTop fun t => { t with sumCount := (summaryOf s 0).1, sumMatch := (summaryOf s 0).2.2.2 }
      else s

/-- SUMMARY (R313). -/
def execSummary (strand : StrandId) (payload : List Byte) (s : State) : Host.Outcome State Fault Refusal :=
  .next (if fieldOf payload 48 1 < 2 then takeSummary strand payload s else s)

/-- R313 step 3: a summary that has not been sent goes without the missing children. -/
def lateSummary (tree : Nat) (s : State) : State :=
  match treePos s tree with
  | some p => if p.sent then s else sendSummary tree s
  | none => s

/-- SUMMARY_TIMEOUT (R313): 20 ms after the alignment. -/
def execSummaryTimeout (s : State) : Host.Outcome State Fault Refusal :=
  .next (lateSummary 1 (lateSummary 0 s))

/-- SUMMARY_REFRESH (R315): every 100 ms after forming. -/
def execSummaryRefresh (s : State) : Host.Outcome State Fault Refusal :=
  .next (freshSummaries s)

/-- R70: an alignment delay from the largest tick latency of its tree. -/
def alignDelay (maxL : Nat) : Nat :=
  roundUp (maxL + 200) 100

/-- R51: H_L, in ns. -/
def holdLeadOf (a : Nat) : Nat :=
  2 * a + 1000

/-- R313, R314: A and A' are recorded, and the device belongs to the formed domain. -/
def formWith (a : Nat) (a2 : Option Nat) (s : State) : State :=
  let role := (s.top.plan.map planRole).getD .none
  let s := s.modFrm fun f =>
    { f with alignA := a, alignA2 := a2.getD 0, noStandby := a2.isNone, role := role, holdLead := holdLeadOf a,
             failStatus := none }
  s.modTop fun t => { t with formed := true, tooFar := decide (a < s.frm.latL + 200) }

/-- R313 step 5: the whorl computes A and A', and sends the form block down the main tree. -/
def formDomain (s : State) : State :=
  let x := summaryOf s 0
  let s := s.modTop fun t => { t with sumCount := x.1, sumMatch := x.2.2.2, formSent := true }
  let s := formWith (alignDelay x.2.2.1) (s.top.sbTotals.map fun y => alignDelay y.2) s
  sendForm (matchedChildren s 0) s

/-- FORM_TIMEOUT (R313): the counts are in, or 1 s has passed since the whorl's acceptance. -/
def execFormTimeout (s : State) : Host.Outcome State Fault Refusal :=
  .next (if (s.top.plan.map planRole) = some .whorl && s.top.main.isSome && !s.top.formSent then formDomain s else s)

/-- R313 step 5, R314: a form block: recorded, and forwarded. -/
def takeForm (p : List Byte) (s : State) : State :=
  let a2 := fieldOf p 56 4
  let s := formWith (fieldOf p 52 4) (if a2 = 0xFFFFFFFF then none else some a2) s
  sendForm (matchedChildren s 0) s

/-- FORM (R313): from the main tree's parent, to a device that has its place in the tree. -/
def execForm (strand : StrandId) (payload : List Byte) (s : State) : Host.Outcome State Fault Refusal :=
  .next (if parentStrand s 0 strand payload && s.top.main.isSome then takeForm payload s else s)

/-- R48, R49, R313 step 6: tick 0, at the default period. -/
def tickZero (s : State) : Tick :=
  { frame := 0, period := 50, domain := (s.top.plan.map (·.domain)).getD 0 }

/-- TICK_ZERO (R313): at least 100 µs after the form block. -/
def execTickZero (s : State) : Host.Outcome State Fault Refusal :=
  .next (if s.top.formSent && s.frm.role = .whorl && s.frm.next.isNone && s.frm.cur = {} then
    emitTick (tickZero s) (s.modFrm fun f => { f with holdLead := holdLeadOf f.alignA }) else s)

/-! ### Loss of ticks -/

/-- R318, R323: a member has lost its ticks: its frame counts as failed. -/
def ticksLost (s : State) : State :=
  let s := winBump 37 0 0 (frameFailed s.frm.cur.frame s)
  let s := s.modTop fun t => { t with tickLost := true }
  escalate { row := 37, count := winCount s 37 0 0, posted := true, own := some (0x08, .sPlanMismatch, 0xFFFFFFFF) } s

/-- TICK_LOSS (R318): no tick for 4P + 2 µs. -/
def execTickLoss (s : State) : Host.Outcome State Fault Refusal :=
  .next (if s.top.formed && (s.frm.role = .member || s.frm.role = .standby) && s.frm.next.isNone then ticksLost s else s)

/-! ### A strand enters service -/

/-- R252, R270: the lane map that a direction trains: the one stored, or L0 to L7. -/
def mapToTrain (stored : List Nat) : List Nat :=
  if stored.isEmpty then List.range 8 else stored

/-- R252, R253, R270: a direction has trained: lanes that failed are dropped, and below four lanes it stays out of
service. -/
def trainDirection (n : Nat) (receive : Bool) (failed : List Nat) (s : State) : State :=
  let t := s.strandAt n
  let m := (mapToTrain (if receive then t.rxMap else t.txMap)).filter fun l => !failed.contains l
  let out := decide (m.length < 4)
  if receive then s.modStrand n fun t => { t with rxMap := m, rxNext := none, rxOut := out, dropReq := [] }
  else s.modStrand n fun t =>
    { t with txMap := m, txNext := none, txOut := out, lost := t.lost ++ failed, withdrawn := t.withdrawn || m.length < 8 }

/-- R277: the sequence counter of a direction starts at 0. -/
def restartLink (n : Nat) (receive : Bool) (s : State) : State :=
  s.modLink n fun l =>
    if receive then { l with rxSeq := 0, nak := false, replayed := false, rxTop := 0, late := false }
    else { l with txSeq := 0, held := [], resend := [], lastNak := none, nakQuiet := 0, ticks := [], seqd := [], ctl := [],
                  ctlLeft := 0 }

/-- R268 step 2: laser 8 is being brought in for the bank of a strand that enters service: its L8 is trained as well. -/
def joinSwap (n : Nat) (s : State) : State :=
  let b := bankOfStrand n
  let k := (s.bankAt b).swap
  if k = .training ∨ k = .mirroring ∨ k = .pending then
    advanceSwap b ((s.modBank b fun k => { k with swap := .training }).modStrand n fun t =>
      { t with mirror := .untrained, trainDue := true })
  else s

/-- R304: the 20 ms of a strand that enters service begin. -/
def enterService (n : Nat) (s : State) : State :=
  (joinSwap n s).modDisc n fun d => { d with nb := .waiting, samples := [], hello := none, echo := none, rejoined := false }

/-- STRAND_TRAINED (R304). -/
def execStrandTrained (strand : StrandId) (receive : Bool) (failed : List LaneId) (s : State) :
    Host.Outcome State Fault Refusal :=
  .next (
    let s := restartLink strand receive (trainDirection strand receive (failed.map (·.val)) s)
    strandChanged strand (if inService s strand then enterService strand s else s))

end Sys2Proof.Machine
end

