-- ==== Sys2Proof/Machine/Dispatch.lean ====
section
/-!
DEFINITION. What each command does to everything but the queue: one arm per constructor, each a direct call of the
command's own meaning.
-/

namespace Sys2Proof.Machine

def exec (i : Instr) (s : State) : Host.Outcome State Fault Refusal :=
  match i with
  | .coldReset env => Sys2Proof.Machine.execColdReset env s
  | .packageReset env => Sys2Proof.Machine.execPackageReset env s
  | .dieAnswerTimeout die => Sys2Proof.Machine.execDieAnswerTimeout die s
  | .svnBitBlown ok => Sys2Proof.Machine.execSvnBitBlown ok s
  | .flr => Sys2Proof.Machine.execFlr s
  | .hotReset => Sys2Proof.Machine.execHotReset s
  | .inputUndervoltage => Sys2Proof.Machine.execInputUndervoltage s
  | .inputLowDip => Sys2Proof.Machine.execInputLowDip s
  | .inputHigh => Sys2Proof.Machine.execInputHigh s
  | .inputOvervoltage => Sys2Proof.Machine.execInputOvervoltage s
  | .presentBreak => Sys2Proof.Machine.execPresentBreak s
  | .stage1Start => Sys2Proof.Machine.execStage1Start s
  | .opTransitionRequest die op => Sys2Proof.Machine.execOpTransitionRequest die op s
  | .targetLoopLock die => Sys2Proof.Machine.execTargetLoopLock die s
  | .opTransitionComplete die => Sys2Proof.Machine.execOpTransitionComplete die s
  | .referenceLoss => Sys2Proof.Machine.execReferenceLoss s
  | .referenceReturn => Sys2Proof.Machine.execReferenceReturn s
  | .holdoverExpiry => Sys2Proof.Machine.execHoldoverExpiry s
  | .loopLossOfLock die => Sys2Proof.Machine.execLoopLossOfLock die s
  | .relockComplete die => Sys2Proof.Machine.execRelockComplete die s
  | .flitCrcFail link => Sys2Proof.Machine.execFlitCrcFail link s
  | .d2dRetrainStart link => Sys2Proof.Machine.execD2dRetrainStart link s
  | .d2dRetrainComplete link => Sys2Proof.Machine.execD2dRetrainComplete link s
  | .tick strand payload => Sys2Proof.Machine.execTick strand payload s
  | .frameBegin skew => Sys2Proof.Machine.execFrameBegin skew s
  | .holdPoint finishNs nextNs => Sys2Proof.Machine.execHoldPoint finishNs nextNs s
  | .stepChoice => Sys2Proof.Machine.execStepChoice s
  | .supplementaryReply holdUs => Sys2Proof.Machine.execSupplementaryReply holdUs s
  | .tickReply strand payload => Sys2Proof.Machine.execTickReply strand payload s
  | .replyDeadline => Sys2Proof.Machine.execReplyDeadline s
  | .tickEmit => Sys2Proof.Machine.execTickEmit s
  | .whorlTakeover => Sys2Proof.Machine.execWhorlTakeover s
  | .drainComplete => Sys2Proof.Machine.execDrainComplete s
  | .stepComplete step => Sys2Proof.Machine.execStepComplete step s
  | .syncRelease entry => Sys2Proof.Machine.execSyncRelease entry s
  | .nmx2Barrier step => Sys2Proof.Machine.execNmx2Barrier step s
  | .matmul step reached errs => Sys2Proof.Machine.execMatmul step reached errs s
  | .kernel step => Sys2Proof.Machine.execKernel step s
  | .attend step => Sys2Proof.Machine.execAttend step s
  | .merge step => Sys2Proof.Machine.execMerge step s
  | .xfer step => Sys2Proof.Machine.execXfer step s
  | .allReduce step => Sys2Proof.Machine.execAllReduce step s
  | .reduceScatter step => Sys2Proof.Machine.execReduceScatter step s
  | .allGather step => Sys2Proof.Machine.execAllGather step s
  | .post step => Sys2Proof.Machine.execPost step s
  | .flyerCopy step => Sys2Proof.Machine.execFlyerCopy step s
  | .vectorLoad a => Sys2Proof.Machine.execVectorLoad a s
  | .vectorStore a => Sys2Proof.Machine.execVectorStore a s
  | .scalarLoad a => Sys2Proof.Machine.execScalarLoad a s
  | .scalarStore a => Sys2Proof.Machine.execScalarStore a s
  | .gather a => Sys2Proof.Machine.execGather a s
  | .gatherEntryFree die index cycles => Sys2Proof.Machine.execGatherEntryFree die index cycles s
  | .gatherDataReturn die core ply => Sys2Proof.Machine.execGatherDataReturn die core ply s
  | .scatter a => Sys2Proof.Machine.execScatter a s
  | .localStoreAtomic ref region lanes wide op a b dest => Sys2Proof.Machine.execLocalStoreAtomic ref region lanes wide op a b dest s
  | .hankAtomic src region addr op dest => Sys2Proof.Machine.execHankAtomic src region addr op dest s
  | .vectorArith a => Sys2Proof.Machine.execVectorArith a s
  | .plyReduction a => Sys2Proof.Machine.execPlyReduction a s
  | .bsum32 a => Sys2Proof.Machine.execBsum32 a s
  | .release engine base len scope cells => Sys2Proof.Machine.execRelease engine base len scope cells s
  | .acquire engine base len scope cells => Sys2Proof.Machine.execAcquire engine base len scope cells s
  | .streamAccess a => Sys2Proof.Machine.execStreamAccess a s
  | .narrowAccess a => Sys2Proof.Machine.execNarrowAccess a s
  | .wmbEntryTimeout block => Sys2Proof.Machine.execWmbEntryTimeout block s
  | .burstCrcMismatch chan transfers client => Sys2Proof.Machine.execBurstCrcMismatch chan transfers client s
  | .stackScrub block bad => Sys2Proof.Machine.execStackScrub block bad s
  | .refresh hank => Sys2Proof.Machine.execRefresh hank s
  | .rowRepair block => Sys2Proof.Machine.execRowRepair block s
  | .rowRepairComplete => Sys2Proof.Machine.execRowRepairComplete s
  | .channelActionStart => Sys2Proof.Machine.execChannelActionStart s
  | .retrainComplete ok margins => Sys2Proof.Machine.execRetrainComplete ok margins s
  | .pinRepairComplete ok margins => Sys2Proof.Machine.execPinRepairComplete ok margins s
  | .stackNoAnswer chan => Sys2Proof.Machine.execStackNoAnswer chan s
  | .thermalChannelRead reading => Sys2Proof.Machine.execThermalChannelRead reading s
  | .orderlyStopComplete => Sys2Proof.Machine.execOrderlyStopComplete s
  | .thermalRound => Sys2Proof.Machine.execThermalRound s
  | .analogTrip die => Sys2Proof.Machine.execAnalogTrip die s
  | .heaterUpdate => Sys2Proof.Machine.execHeaterUpdate s
  | .memPlace mbx => Sys2Proof.Machine.execMemPlace mbx s
  | .loopbackGo hank value => Sys2Proof.Machine.execLoopbackGo hank value s
  | .loopbackDone hank pinFail => Sys2Proof.Machine.execLoopbackDone hank pinFail s
  | .hnkProbe value => Sys2Proof.Machine.execHnkProbe value s
  | .visRlcCtrlWrite die value => Sys2Proof.Machine.execVisRlcCtrlWrite die value s
  | .queuePage mbx => Sys2Proof.Machine.execQueuePage mbx s
  | .queueCreate mbx => Sys2Proof.Machine.execQueueCreate mbx s
  | .queueRebind mbx => Sys2Proof.Machine.execQueueRebind mbx s
  | .queueDestroy mbx => Sys2Proof.Machine.execQueueDestroy mbx s
  | .queueDestroyDone mbx => Sys2Proof.Machine.execQueueDestroyDone mbx s
  | .regionBind mbx => Sys2Proof.Machine.execRegionBind mbx s
  | .regionRebind mbx sinceUs => Sys2Proof.Machine.execRegionRebind mbx sinceUs s
  | .regionFree mbx sinceUs => Sys2Proof.Machine.execRegionFree mbx sinceUs s
  | .regionRebindDone mbx => Sys2Proof.Machine.execRegionRebindDone mbx s
  | .doorbellLowWrite page value => Sys2Proof.Machine.execDoorbellLowWrite page value s
  | .doorbell page low high => Sys2Proof.Machine.execDoorbell page low high s
  | .commandSelect => Sys2Proof.Machine.execCommandSelect s
  | .nop tag => Sys2Proof.Machine.execNop tag s
  | .copy tag => Sys2Proof.Machine.execCopy tag s
  | .fill tag => Sys2Proof.Machine.execFill tag s
  | .put tag => Sys2Proof.Machine.execPut tag s
  | .get tag => Sys2Proof.Machine.execGet tag s
  | .putReduce tag => Sys2Proof.Machine.execPutReduce tag s
  | .fetchAdd tag => Sys2Proof.Machine.execFetchAdd tag s
  | .compareSwap tag => Sys2Proof.Machine.execCompareSwap tag s
  | .signal tag => Sys2Proof.Machine.execSignal tag s
  | .row queue => Sys2Proof.Machine.execRow queue s
  | .commandCompletion tag => Sys2Proof.Machine.execCommandCompletion tag s
  | .msixUnmask vector => Sys2Proof.Machine.execMsixUnmask vector s
  | .hostMemRead hpa keep own => Sys2Proof.Machine.execHostMemRead hpa keep own s
  | .hostMemWrite hpa mask data => Sys2Proof.Machine.execHostMemWrite hpa mask data s
  | .birsp line data => Sys2Proof.Machine.execBirsp line data s
  | .hostSnoop kind hpa => Sys2Proof.Machine.execHostSnoop kind hpa s
  | .spillAccess a => Sys2Proof.Machine.execSpillAccess a s
  | .spillFill addr answer => Sys2Proof.Machine.execSpillFill addr answer s
  | .hostWindow mbx => Sys2Proof.Machine.execHostWindow mbx s
  | .hostSpill mbx => Sys2Proof.Machine.execHostSpill mbx s
  | .hostUnspill mbx => Sys2Proof.Machine.execHostUnspill mbx s
  | .hdmDecoderCommit base size => Sys2Proof.Machine.execHdmDecoderCommit base size s
  | .cacheWbInv => Sys2Proof.Machine.execCacheWbInv s
  | .cacheWbInvDone => Sys2Proof.Machine.execCacheWbInvDone s
  | .ideIntegrityFail cachemem => Sys2Proof.Machine.execIdeIntegrityFail cachemem s
  | .linkCorrectableError => Sys2Proof.Machine.execLinkCorrectableError s
  | .linkRecovery => Sys2Proof.Machine.execLinkRecovery s
  | .d3hotEntry => Sys2Proof.Machine.execD3hotEntry s
  | .doeDiscovery index => Sys2Proof.Machine.execDoeDiscovery index s
  | .cdatRead => Sys2Proof.Machine.execCdatRead s
  | .getVersion req => Sys2Proof.Machine.execGetVersion req s
  | .getCapabilities req => Sys2Proof.Machine.execGetCapabilities req s
  | .negotiateAlgorithms req => Sys2Proof.Machine.execNegotiateAlgorithms req s
  | .getDigests req => Sys2Proof.Machine.execGetDigests req s
  | .getCertificate req => Sys2Proof.Machine.execGetCertificate req s
  | .challenge req => Sys2Proof.Machine.execChallenge req s
  | .getMeasurements req => Sys2Proof.Machine.execGetMeasurements req s
  | .keyExchange req => Sys2Proof.Machine.execKeyExchange req s
  | .finish session ok => Sys2Proof.Machine.execFinish session ok s
  | .heartbeat session => Sys2Proof.Machine.execHeartbeat session s
  | .keyUpdate session => Sys2Proof.Machine.execKeyUpdate session s
  | .endSession session => Sys2Proof.Machine.execEndSession session s
  | .ideKm session cachemem op => Sys2Proof.Machine.execIdeKm session cachemem op s
  | .mbxGo mbx => Sys2Proof.Machine.execMbxGo mbx s
  | .mbxCancel mbx => Sys2Proof.Machine.execMbxCancel mbx s
  | .mbxAccept us steps => Sys2Proof.Machine.execMbxAccept us steps s
  | .mailboxStep => Sys2Proof.Machine.execMailboxStep s
  | .mbxEvtHeadWrite mbx value => Sys2Proof.Machine.execMbxEvtHeadWrite mbx value s
  | .flyerHeartbeat => Sys2Proof.Machine.execFlyerHeartbeat s
  | .standbyTakeover => Sys2Proof.Machine.execStandbyTakeover s
  | .watchdogExpiry => Sys2Proof.Machine.execWatchdogExpiry s
  | .standbyLost => Sys2Proof.Machine.execStandbyLost s
  | .flyerSramEcc active uncorrectable => Sys2Proof.Machine.execFlyerSramEcc active uncorrectable s
  | .devInfo mbx => Sys2Proof.Machine.execDevInfo mbx s
  | .mbxAssign mbx => Sys2Proof.Machine.execMbxAssign mbx s
  | .devFeed mbx => Sys2Proof.Machine.execDevFeed mbx s
  | .resetCompute mbx => Sys2Proof.Machine.execResetCompute mbx s
  | .resetPackage mbx => Sys2Proof.Machine.execResetPackage mbx s
  | .frameLoad mbx => Sys2Proof.Machine.execFrameLoad mbx s
  | .frameStart mbx => Sys2Proof.Machine.execFrameStart mbx s
  | .framePreempt mbx => Sys2Proof.Machine.execFramePreempt mbx s
  | .frameUnload mbx => Sys2Proof.Machine.execFrameUnload mbx s
  | .planLoad mbx => Sys2Proof.Machine.execPlanLoad mbx s
  | .planAccept mbx => Sys2Proof.Machine.execPlanAccept mbx s
  | .topoStatus mbx => Sys2Proof.Machine.execTopoStatus mbx s
  | .laserStatus mbx => Sys2Proof.Machine.execLaserStatus mbx s
  | .capSet mbx => Sys2Proof.Machine.execCapSet mbx s
  | .powerStatus mbx => Sys2Proof.Machine.execPowerStatus mbx s
  | .snapshotTake mbx => Sys2Proof.Machine.execSnapshotTake mbx s
  | .snapshotCopyDone ms => Sys2Proof.Machine.execSnapshotCopyDone ms s
  | .snapshotRestore mbx readable fetched => Sys2Proof.Machine.execSnapshotRestore mbx readable fetched s
  | .buddySet mbx => Sys2Proof.Machine.execBuddySet mbx s
  | .buddyAssignment payload => Sys2Proof.Machine.execBuddyAssignment payload s
  | .failFeed mbx => Sys2Proof.Machine.execFailFeed mbx s
  | .logRead mbx => Sys2Proof.Machine.execLogRead mbx s
  | .fwUpdate mbx => Sys2Proof.Machine.execFwUpdate mbx s
  | .attestMeasure mbx => Sys2Proof.Machine.execAttestMeasure mbx s
  | .tenantPolicy mbx => Sys2Proof.Machine.execTenantPolicy mbx s
  | .debugUnlockChallenge mbx => Sys2Proof.Machine.execDebugUnlockChallenge mbx s
  | .debugUnlockResponse mbx => Sys2Proof.Machine.execDebugUnlockResponse mbx s
  | .debugChallengeExpiry => Sys2Proof.Machine.execDebugChallengeExpiry s
  | .testSchedule mbx => Sys2Proof.Machine.execTestSchedule mbx s
  | .testStatus mbx => Sys2Proof.Machine.execTestStatus mbx s
  | .laserDriveAdjust power => Sys2Proof.Machine.execLaserDriveAdjust power s
  | .laserFailure bank laser => Sys2Proof.Machine.execLaserFailure bank laser s
  | .calibrationDue strand why => Sys2Proof.Machine.execCalibrationDue strand why s
  | .calibrationStart strand => Sys2Proof.Machine.execCalibrationStart strand s
  | .calibrationComplete r => Sys2Proof.Machine.execCalibrationComplete r s
  | .calibrationRequest strand request => Sys2Proof.Machine.execCalibrationRequest strand request s
  | .calibrationAccept strand => Sys2Proof.Machine.execCalibrationAccept strand s
  | .calibrationRefuse strand => Sys2Proof.Machine.execCalibrationRefuse strand s
  | .laneLoss strand lane => Sys2Proof.Machine.execLaneLoss strand lane s
  | .dropRequest strand payload => Sys2Proof.Machine.execDropRequest strand payload s
  | .dropRequestRepeat strand => Sys2Proof.Machine.execDropRequestRepeat strand s
  | .mapAnnounce strand payload => Sys2Proof.Machine.execMapAnnounce strand payload s
  | .mapSwitch strand receive => Sys2Proof.Machine.execMapSwitch strand receive s
  | .marginReport strand payload => Sys2Proof.Machine.execMarginReport strand payload s
  | .marginReportTimeout strand => Sys2Proof.Machine.execMarginReportTimeout strand s
  | .marginReading readings => Sys2Proof.Machine.execMarginReading readings s
  | .lossLocation strand lane codes => Sys2Proof.Machine.execLossLocation strand lane codes s
  | .laneRestore strand lane => Sys2Proof.Machine.execLaneRestore strand lane s
  | .laser8Locked bank ok => Sys2Proof.Machine.execLaser8Locked bank ok s
  | .l8Trained strand mirrored => Sys2Proof.Machine.execL8Trained strand mirrored s
  | .mirrorVerified strand => Sys2Proof.Machine.execMirrorVerified strand s
  | .mirrorTimeout strand => Sys2Proof.Machine.execMirrorTimeout strand s
  | .spareSwap bank => Sys2Proof.Machine.execSpareSwap bank s
  | .optMonGo value => Sys2Proof.Machine.execOptMonGo value s
  | .monitorReadingDone code => Sys2Proof.Machine.execMonitorReadingDone code s
  | .blockReceive strand block => Sys2Proof.Machine.execBlockReceive strand block s
  | .replayTimeout strand => Sys2Proof.Machine.execReplayTimeout strand s
  | .circuitOpen strand route payload => Sys2Proof.Machine.execCircuitOpen strand route payload s
  | .circuitData strand route payload => Sys2Proof.Machine.execCircuitData strand route payload s
  | .circuitClose strand route payload => Sys2Proof.Machine.execCircuitClose strand route payload s
  | .putData payload marks => Sys2Proof.Machine.execPutData payload marks s
  | .putReduceData payload marks => Sys2Proof.Machine.execPutReduceData payload marks s
  | .getRequest payload marks => Sys2Proof.Machine.execGetRequest payload marks s
  | .getData payload marks => Sys2Proof.Machine.execGetData payload marks s
  | .fetchAddPacket payload marks => Sys2Proof.Machine.execFetchAddPacket payload marks s
  | .compareSwapPacket payload marks => Sys2Proof.Machine.execCompareSwapPacket payload marks s
  | .atomicReply payload marks => Sys2Proof.Machine.execAtomicReply payload marks s
  | .signalIncrement payload marks => Sys2Proof.Machine.execSignalIncrement payload marks s
  | .acknowledgement payload marks => Sys2Proof.Machine.execAcknowledgement payload marks s
  | .reRequest payload marks => Sys2Proof.Machine.execReRequest payload marks s
  | .synchronisation payload marks => Sys2Proof.Machine.execSynchronisation payload marks s
  | .laneNotice payload marks => Sys2Proof.Machine.execLaneNotice payload marks s
  | .transitDeflect index => Sys2Proof.Machine.execTransitDeflect index s
  | .transitDrop index => Sys2Proof.Machine.execTransitDrop index s
  | .rerequestTimer src msg => Sys2Proof.Machine.execRerequestTimer src msg s
  | .resendTimer msg => Sys2Proof.Machine.execResendTimer msg s
  | .syncResend => Sys2Proof.Machine.execSyncResend s
  | .hello strand payload t => Sys2Proof.Machine.execHello strand payload t s
  | .helloSend strand t => Sys2Proof.Machine.execHelloSend strand t s
  | .neighbourTimeout strand => Sys2Proof.Machine.execNeighbourTimeout strand s
  | .neighbourLost strand => Sys2Proof.Machine.execNeighbourLost strand s
  | .alignment strand payload => Sys2Proof.Machine.execAlignment strand payload s
  | .summary strand payload => Sys2Proof.Machine.execSummary strand payload s
  | .summaryTimeout => Sys2Proof.Machine.execSummaryTimeout s
  | .summaryRefresh => Sys2Proof.Machine.execSummaryRefresh s
  | .formTimeout => Sys2Proof.Machine.execFormTimeout s
  | .form strand payload => Sys2Proof.Machine.execForm strand payload s
  | .tickZero => Sys2Proof.Machine.execTickZero s
  | .tickLoss => Sys2Proof.Machine.execTickLoss s
  | .collectiveChunk strand opening data check => Sys2Proof.Machine.execCollectiveChunk strand opening data check s
  | .creditOnly strand opening => Sys2Proof.Machine.execCreditOnly strand opening s
  | .abortChunk strand opening => Sys2Proof.Machine.execAbortChunk strand opening s
  | .regulatorReport r => Sys2Proof.Machine.execRegulatorReport r s
  | .budgetSend die => Sys2Proof.Machine.execBudgetSend die s
  | .budgetMessage die => Sys2Proof.Machine.execBudgetMessage die s
  | .droopDetect die deep => Sys2Proof.Machine.execDroopDetect die deep s
  | .droopRecover die us long => Sys2Proof.Machine.execDroopRecover die us long s
  | .capReevaluation floorW => Sys2Proof.Machine.execCapReevaluation floorW s
  | .dutyGranule die granule => Sys2Proof.Machine.execDutyGranule die granule s
  | .autoSnapshot => Sys2Proof.Machine.execAutoSnapshot s
  | .healthRecompute l2 l3 hour => Sys2Proof.Machine.execHealthRecompute l2 l3 hour s
  | .logDrain => Sys2Proof.Machine.execLogDrain s
  | .flashError area => Sys2Proof.Machine.execFlashError area s
  | .errorWindowClose row sub key => Sys2Proof.Machine.execErrorWindowClose row sub key s
  | .unitDue unit overdue => Sys2Proof.Machine.execUnitDue unit overdue s
  | .testSegment unit r => Sys2Proof.Machine.execTestSegment unit r s
  | .tstDbgGo value => Sys2Proof.Machine.execTstDbgGo value s
  | .moduleSensorRead r => Sys2Proof.Machine.execModuleSensorRead r s
  | .sbRead offset => Sys2Proof.Machine.execSbRead offset s
  | .sbCold => Sys2Proof.Machine.execSbCold s
  | .sbPackage => Sys2Proof.Machine.execSbPackage s
  | .recoveryData offset data => Sys2Proof.Machine.execRecoveryData offset data s
  | .recoveryCommit len => Sys2Proof.Machine.execRecoveryCommit len s
  | .regPairHighWrite offset value => Sys2Proof.Machine.execRegPairHighWrite offset value s
  | .regLowRead offset => Sys2Proof.Machine.execRegLowRead offset s
  | .frmSlackMinWrite value => Sys2Proof.Machine.execFrmSlackMinWrite value s
  | .mbxAcceptMaxWrite value => Sys2Proof.Machine.execMbxAcceptMaxWrite value s
  | .fabCbufPeakWrite value => Sys2Proof.Machine.execFabCbufPeakWrite value s
  | .registerWrite offset value => Sys2Proof.Machine.execRegisterWrite offset value s
  | .strandTrained strand receive failed => Sys2Proof.Machine.execStrandTrained strand receive failed s
  | .blockPosition strand slot position => Sys2Proof.Machine.execBlockPosition strand slot position s
  | .stage1PeakComparator => Sys2Proof.Machine.execStage1PeakComparator s
  | .hostLinkTrained rate width flit => Sys2Proof.Machine.execHostLinkTrained rate width flit s
  | .d3hotExit => Sys2Proof.Machine.execD3hotExit s
  | .computeResetComplete hankLost => Sys2Proof.Machine.execComputeResetComplete hankLost s
  | .voltageRiseComplete die => Sys2Proof.Machine.execVoltageRiseComplete die s
  | .clockSwitchPauseEnd die => Sys2Proof.Machine.execClockSwitchPauseEnd die s

end Sys2Proof.Machine
end

