-- ==== Sys2Proof/Safety.lean ====
section
/-!
DEFINITION. The terms that claims are stated in: a command that completes, memory in its canonical form, and the parts of
the state that a command leaves alone.
-/

namespace Sys2Proof.Machine

/-- The command `c` is carried out at `s`, and the state after it has the property `P`. -/
def Completes (c : Instr) (s : State) (P : State → Prop) : Prop :=
  ∃ t, exec c s = .next t ∧ P t

/-- Memory, and the lanes' registers of every compute die, are in their canonical form: addresses strictly rising, and no
entry equal to what an unlisted one reads as; so equal contents are equal data, and what is written is what is read. -/
def State.canonical (s : State) : Prop :=
  Memory.wf s.mem = true ∧ ∀ d, tabWf (vget s.vec d).regs = true

/-- R25-R31, R387, R396: what a boot needs of the package: the fuse array passes, all six dies answer where their straps
say, with a common link version and one numerics generation, and module flash and both slots can be read; here with no stack, spindle or
firmware that fails. -/
def BootEnv.healthy (env : BootEnv) : Prop :=
  env.fuseOk = true ∧ env.answers = 0x3F ∧ badStrap env.straps = none ∧ commonD2d (capsShown env.caps) ≠ 0 ∧
    numgenConflict (capsShown env.caps) = none ∧ env.flashOk = true ∧ env.unread = 0 ∧ env.hangs = false ∧ env.hankLost = none

/-- R391, R393: slot A is ACTIVE and passes every check on these dies, and no slot is PENDING. -/
def State.bootsSlotA (s : State) (env : BootEnv) : Prop :=
  (s.slotAt 0).st = .active ∧ (s.slotAt 1).st = .empty ∧
    slotReason (s.modPkg fun p => { p with dieCap := capsShown env.caps }) (s.slotAt 0) = 0

/-- R237, R239, R241: the command `code` of mailbox `m` is in turn at `s` with the request `r`, is not cancelled, and the
state of the device admits it. -/
def InTurn (s : State) (code m : Nat) (r : MbxReq) : Prop :=
  mayStep s code m = some r ∧ (s.mbxAt m).cancelReq = false ∧ notAdmitted s code = false

/-- R243: the mailbox command that a command of the block carries out, as its code and its mailbox. -/
def mbxCommand : Instr → Option (Nat × MbxId)
  | .devInfo m => some (0x0001, m)
  | .mbxAssign m => some (0x0002, m)
  | .devFeed m => some (0x0003, m)
  | .resetCompute m => some (0x0010, m)
  | .resetPackage m => some (0x0011, m)
  | .memPlace m => some (0x0020, m)
  | .hostWindow m => some (0x0021, m)
  | .hostSpill m => some (0x0022, m)
  | .hostUnspill m => some (0x0023, m)
  | .regionBind m => some (0x0024, m)
  | .regionRebind m _ => some (0x0025, m)
  | .regionFree m _ => some (0x0026, m)
  | .queuePage m => some (0x0030, m)
  | .queueCreate m => some (0x0031, m)
  | .queueRebind m => some (0x0032, m)
  | .queueDestroy m => some (0x0033, m)
  | .frameLoad m => some (0x0040, m)
  | .frameStart m => some (0x0041, m)
  | .framePreempt m => some (0x0042, m)
  | .frameUnload m => some (0x0043, m)
  | .planLoad m => some (0x0050, m)
  | .planAccept m => some (0x0051, m)
  | .topoStatus m => some (0x0052, m)
  | .laserStatus m => some (0x0058, m)
  | .capSet m => some (0x0070, m)
  | .powerStatus m => some (0x0071, m)
  | .snapshotTake m => some (0x0080, m)
  | .snapshotRestore m _ _ => some (0x0081, m)
  | .buddySet m => some (0x0082, m)
  | .failFeed m => some (0x0083, m)
  | .logRead m => some (0x0084, m)
  | .fwUpdate m => some (0x0090, m)
  | .attestMeasure m => some (0x0091, m)
  | .tenantPolicy m => some (0x0092, m)
  | .debugUnlockChallenge m => some (0x0093, m)
  | .debugUnlockResponse m => some (0x0093, m)
  | .testSchedule m => some (0x00A0, m)
  | .testStatus m => some (0x00A1, m)
  | _ => none

/-- The block can take its next step: neither a fault nor a refusal. -/
def Runs (s : State) : Prop :=
  ∃ t, step s = .next t

end Sys2Proof.Machine
end

