-- ==== Sys2Proof/Certificates/Slice0/Obligations.lean ====
section
/-!
DEFINITION. The statements about the block: what each command does, what no command does, and what every step keeps.
-/

open Sys2Proof Sys2Proof.Machine

/-- For every command c and state s, the step of s with c at the front of its queue is exec of c on s with the queue's
rest. With no command waiting a step changes nothing: idling is the model's choice, since every timed event is a
command of the table. (rests on 95_what_each_step_holds.md) Idling on an empty queue is the model's choice (log entry
6). -/
def Obligations.StepRunsTheFrontCommand : Prop :=
  (∀ (c : Instr) (q : List Instr) (s : State), step { s with pending := c :: q } = exec c { s with pending := q }) ∧
  (∀ s : State, s.pending = [] → step s = .next s) ∧
  (∀ (n w : Nat) (s : State), decodeTableWord n w = none ∧ s.withFetchWord n w = s)

/-- From every state whose memory and vector registers are in their canonical form (addresses strictly rising, no
entry equal to what an unlisted one reads as), and for every command of the table, a step that answers a next state
answers one whose memory and vector registers are canonical again, and whose queue is the queue before without its
front command. (rests on R109, R141, R162) -/
def Obligations.EveryStepKeepsTheCanonicalForm : Prop :=
  ∀ s t : State, s.canonical → step s = .next t → t.canonical ∧ t.pending = s.pending.tail

/-- No command is ever refused. Every command answers a next state in every state, except that a streaming or a narrow
access and an engine's hank atomic stop with the address where their bytes are not mapped: an access's in neither hank
memory nor the local stores, a hank atomic's eight in no hank memory; there they do stop. So a step answers a next
state or such a stop. (rests on R114, R145, R162) -/
def Obligations.OnlyAccessesToUnmappedAddressesStop : Prop :=
  (∀ (c : Instr) (s : State), (∃ t, exec c s = .next t) ∨ ∃ a, exec c s = .fault (.unmappedAddress a) ∧
    ((∃ x, (c = .streamAccess x ∨ c = .narrowAccess x) ∧ a = x.addr.toNat ∧ mapped a x.len = false) ∨
     (∃ e cl g addr op d, c = .hankAtomic (.unit e cl) g addr op d ∧ a = addr.toNat ∧ (isHank a && mapped a 8) = false))) ∧
  (∀ (x : MemAccess) (s : State), mapped x.addr.toNat x.len = false →
    exec (.streamAccess x) s = .fault (.unmappedAddress x.addr.toNat) ∧
    exec (.narrowAccess x) s = .fault (.unmappedAddress x.addr.toNat)) ∧
  (∀ (e : Engine) (cl : Client) (g : Fin 16) (addr : BitVec 40) (op : AtomicOp) (d : Option (Fin 256)) (s : State),
    (isHank addr.toNat && mapped addr.toNat 8) = false →
      exec (.hankAtomic (.unit e cl) g addr op d) s = .fault (.unmappedAddress addr.toNat)) ∧
  (∀ (c : Instr) (s : State) (r : Refusal), exec c s ≠ .refused r) ∧
  (∀ s : State, (∃ t, step s = .next t) ∨ ∃ a, step s = .fault (.unmappedAddress a))

/-- After reset the device is OFF, in no domain and without an image, with no command waiting, no bytes listed in
memory and no undefined contents; memory and the vector registers are canonical; and each register of the two lists,
by its BAR0 offset, reads the value written beside it, or zero: among those that do not read zero are the part number,
the period of 50 µs, FRM_SLACK_MIN, the 1,400 W cap and the snapshot interval. (rests on R45, R62, R82, R108, R160,
R184, R229, R250, R300, R325, R367, R386) -/
def Obligations.ResetIsCanonicalAndHoldsTheResetValues : Prop :=
  State.reset.canonical ∧ State.reset.pending = [] ∧ State.reset.mem = [] ∧ State.reset.undef = [] ∧
  State.reset.pkg.devState = .off ∧ State.reset.frm.role = .none ∧ State.reset.frm.prog = .noImage ∧
  (∀ r ∈ ([(0x0, 0xD20004), (0x84, 0x40000000), (0x20C, 0x7B), (0x210, 0x40), (0x308, 0x36EE80), (0x324, 0xFFFF),
      (0x1400120, 0x40000000), (0x1400004, 0x578), (0x1400030, 0x131313), (0x140003C, 0x131313), (0x100000, 0x32),
      (0x100004, 0x30), (0x100028, 0xFFFFFFFF), (0x800024, 0x80000000), (0x2030000, 0x20000), (0x2030004, 0x2),
      (0x480000, 0xF), (0xC00020, 0x80800000), (0x1000034, 0x100), (0x1010024, 0xFFFFFF)] : List (Nat × Nat)),
    regRead State.reset r.1 = r.2) ∧
  (∀ o ∈ ([0x10, 0x60, 0x64, 0x68, 0x80, 0x204, 0x300, 0x304, 0x400, 0x1400100, 0x1400000, 0x1400050, 0x100008, 0x10000C,
      0x2010000, 0x2010008, 0x2020000, 0x2020004, 0x800000, 0x800030, 0x880000, 0x880018, 0x2030018, 0x200000, 0x200020,
      0x401000, 0x401008, 0x480008, 0x480014, 0xC00000, 0xC00030, 0x1000000, 0x1000018, 0x1010000, 0x1010028, 0x1020000,
      0x102002C, 0x1401000, 0x1401030, 0x1800000, 0x1C00000, 0x1C00100] : List Nat), regRead State.reset o = 0)

/-- For each of the nine floating-point encodings and every code of it that is a finite number (subnormals and both
zeros included), converting the number back gives the same code, with nothing overflowed or saturated, whether
rounding is to nearest even, towards zero or by any random value, and with SAT set or clear. Infinities of the
encodings that have them come back unchanged with SAT clear, and every NaN becomes the canonical NaN. (rests on R85,
R88, R96, R97) -/
def Obligations.RepresentableNumbersAreUnchanged : Prop :=
  ∀ f ∈ [fp64, fp32, bf16, fp16, e4m3, e5m2, e2m3, e3m2, e2m1], ∀ (rule : Rounding) (sat : Bool) (n : Nat),
    n < 2 ^ (1 + f.exp + f.man) →
      match decodeNum f n with
      | .fin _ _ _ => convertNum f rule sat (decodeNum f n) = ⟨n, false⟩
      | .inf _ => convertNum f rule false (decodeNum f n) = ⟨n, false⟩
      | .nan => convertNum f rule sat (decodeNum f n) = ⟨nanCode f, false⟩

/-- Block B_j begins at element floor(j E / n) and ends before floor((j + 1) E / n), so its length is the difference;
each block begins where the one before ends, the first at 0 and the last ends at E. The cw half holds the block's
first ceil(b_j / 2) elements, the ccw half the rest. With E < n some block is empty. An empty half sends no chunk, and
every chunk sent lies within its half. (R331) -/
def Obligations.BlocksOfACollectivePartitionTheVector : Prop :=
  (∀ (a : CollArgs) (j : Nat), 0 < a.n →
    blockStart a j = j * a.elems / a.n ∧ blockLen a j = (j + 1) * a.elems / a.n - j * a.elems / a.n ∧
    blockStart a j + blockLen a j = blockStart a (j + 1) ∧ blockStart a 0 = 0 ∧ blockStart a a.n = a.elems ∧
    halfLen a 0 j = (blockLen a j + 1) / 2 ∧ halfFirst a 0 j = blockStart a j ∧
    halfFirst a 1 j = halfFirst a 0 j + halfLen a 0 j ∧ halfLen a 0 j + halfLen a 1 j = blockLen a j) ∧
  (∀ a : CollArgs, 0 < a.n → ((List.range a.n).map (blockLen a)).sum = a.elems ∧
    (a.elems < a.n → ∃ j, j < a.n ∧ blockLen a j = 0)) ∧
  (∀ (op : Nat) (a : CollArgs) (d p : Nat) (x : ChunkId), a.elems ≠ 0 → x ∈ ringChunks op a d p →
    halfLen a d x.2.2.1 ≠ 0 ∧ chunkBytes * x.2.2.2 < a.elemSize * halfLen a d x.2.2.1 ∧
    chunkOff a d x + chunkLen a d x ≤ a.elemSize * (halfFirst a d x.2.2.1 + halfLen a d x.2.2.1))

/-- For fields within their widths the signature is computed with 64-bit arithmetic from the skein, the opcode's low
byte, the operation, the data type, ELEMS and SEQ exactly as written in R338. A step takes its skein's next SEQ and
that signature as it opens its context. Every open block is laid out with the signature it is given, and each chunk of
the ring that a member sends, and each credit-only chunk that it returns, carries the context's signature in its open
block. (R338) -/
def Obligations.SignatureOfACollectiveStep : Prop :=
  (∀ (a : CollArgs) (opc seq : Nat), a.skein < 2 ^ 16 → a.redOp < 2 ^ 8 → a.dtype < 2 ^ 8 → a.elems < 2 ^ 32 → seq < 2 ^ 32 →
    let c1 : BitVec 64 := 0xB5E32C974F1D8A63
    let c2 : BitVec 64 := 0xE7A15D3B9C24F6C5
    let w0 : BitVec 64 := (BitVec.ofNat 64 a.skein <<< 48) ||| (BitVec.ofNat 64 (opc % 256) <<< 40) |||
      (BitVec.ofNat 64 a.redOp <<< 32) ||| (BitVec.ofNat 64 a.dtype <<< 24)
    let w1 : BitVec 64 := (BitVec.ofNat 64 a.elems <<< 32) ||| BitVec.ofNat 64 seq
    let h1 := w0 * c1
    let h2 := ((h1 ^^^ (h1 >>> 31)) ^^^ w1) * c2
    let h3 := (h2 ^^^ (h2 >>> 29)) * c1
    skeinSig a opc seq = (h3 ^^^ (h3 >>> 32)).toNat) ∧
  (∀ (co : Coll) (k : Nat) (s : State), let t := openCtx co k s
    (t.ctxAt k).seq = tget s.skn.seq co.a.skein ∧
    (t.ctxAt k).sig = skeinSig co.a co.e.opcode (tget s.skn.seq co.a.skein)) ∧
  (∀ (co : Coll) (k d : Nat) (x : ChunkId) (s : State), (s.ctxAt k).sig < 2 ^ 64 → ∃ bs : List (Nat × Blk),
    ((sendChunk co k d x s).linkAt (co.circuit d x.2.2.2).strand).own =
      (s.linkAt (co.circuit d x.2.2.2).strand).own ++ bs ∧
    bs ≠ [] ∧ ∀ q ∈ bs, q.2.typ = 1 → fieldOf q.2.payload 0x18 8 = (s.ctxAt k).sig) ∧
  (∀ phase d count skein step shard credit seq chunk sig bytes : Nat, sig < 2 ^ 64 →
    fieldOf (chunkOpening phase d count skein step shard credit seq chunk sig bytes) 0x18 8 = sig) ∧
  (∀ (co : Coll) (k d : Nat) (s : State), (s.ctxAt k).sig < 2 ^ 64 → ∃ bs : List (Nat × Blk),
    ((returnCredit co k d s).linkAt (co.circuit (1 - d) 0).strand).own =
      (s.linkAt (co.circuit (1 - d) 0).strand).own ++ bs ∧
    ∀ q ∈ bs, q.2.typ = 1 → fieldOf q.2.payload 0x18 8 = (s.ctxAt k).sig)

/-- With no power, STAGE1_START supplies power and triggers a COLD reset of source power-on. With power, an
undervoltage triggers a COLD reset, which ends a COMPUTE reset that is under way, unless a COLD reset is triggered or
boots already, a dip and a high input only set their flags, and overvoltage and a PRESENT# break turn the device OFF
with memory, queues, mailboxes and the host port as after COLD, while fuses, firmware slots and the flash log stay.
Each changes nothing else of the state. (R40, R347, R365, R420) What OFF leaves is the COLD column of R41 as the model
reads it; an unlisted byte reads 0 (log entry 7). -/
def Obligations.PowerEventsActAsTheManualSays : Prop :=
  (∀ s : State, s.pkg.powered = false →
    exec .stage1Start s = .next
      { s with mdl := { s.mdl with present := true },
               pkg := { s.pkg with powered := true, resetReq := some (.cold, .powerOn) } }) ∧
  (∀ s : State, s.pkg.powered = true → resetUnderway s ≠ some .cold →
    exec .inputUndervoltage s = .next
      { s with pkg := { s.pkg with resetReq := some (.cold, .undervoltage), computeReset := false } }) ∧
  (∀ s : State, s.pkg.powered = true →
    exec .inputLowDip s = .next { s with pwr := { s.pwr with inputLow := true } }) ∧
  (∀ s : State, s.pkg.powered = true →
    exec .inputHigh s = .next { s with pwr := { s.pwr with inputHigh := true } }) ∧
  (∀ s : State, s.pkg.powered = true → Completes .inputOvervoltage s fun t =>
    t.pkg.powered = false ∧ t.pkg.devState = .off ∧ t.pkg.flyerRuns = false ∧ t.pkg.bar0Up = false ∧
    t.mem = [] ∧ t.bob = {} ∧ t.hp = {} ∧ t.fly = {} ∧ t.frm = {} ∧ t.win = [] ∧
    t.sec.svnWord = s.sec.svnWord ∧ t.sec.slot = s.sec.slot ∧ t.res.log = s.res.log ∧ t.pending = s.pending) ∧
  (∀ s : State, Completes .presentBreak s fun t =>
    t.pkg.powered = false ∧ t.mdl.present = false ∧
    (s.pkg.powered = true → t.pkg.devState = .off ∧ t.mem = [] ∧ t.bob = {} ∧ t.hp = {} ∧ t.fly = {}) ∧
    (s.pkg.powered = false → t = { s with mdl := { s.mdl with present := false } }))

/-- While boot waits for the dies, the end of the 10 ms on a port halts boot: the device is FAILED until a COLD reset,
without flyer firmware, MOD_BOOT_STATUS.CODE is 0x13 (E_DIE_ABSENT), DIE_A names the port, and nothing but the package
record and a pending debug challenge's freshness changes. (R26) -/
def Obligations.DieThatDoesNotAnswerHaltsBoot : Prop :=
  ∀ (die : Die) (s : State), s.pkg.devState = .boot → s.pkg.bootCode = 0 → s.pkg.bar0Up = true →
    exec (.dieAnswerTimeout die) s = .next
      { s with pkg := { s.pkg with devState := .failed, bootCode := 0x13, dieA := die.val, dieB := 0, wayOut := .cold,
                                   flyerRuns := false },
               sec := { s.sec with challengeStale := s.sec.challengeStale || s.sec.challenge.isSome } }

/-- Take a package with input power whose boot meets no failure (fuses, dies, straps, link versions, numerics
generations, flash, hanks and firmware in order), whose slot A is ACTIVE and passes, and of whose spindles none waits
for a re-fuse. A COLD reset, and a PACKAGE reset that has been triggered while the reference is in place, then
complete: the device is READY with no reset outstanding, the flyer runs with a standby where one answers, BAR0 is
decoded, CODE reads 0x2F, MOD_PKG_CAP is what the dies' words combine to, the reset's domain (and for PACKAGE its
source) is recorded, slot A is the slot booted and ACTIVE, memory lists nothing and no queue exists. Every part of the
state but the package record, the bobbins, the hanks, the flyer, the optics, the security record and the module's
record is as the reset of that domain clears it. (rests on R34, R40, R41, R393, R395) What each domain clears is the
table of R41 as the model reads it; an unlisted byte reads 0 (log entry 7). -/
def Obligations.ResetsBootToReady : Prop :=
  (∀ (env : BootEnv) (s : State), s.pkg.powered = true → BootEnv.healthy env → s.bootsSlotA env →
    (∀ i, i < 8 → (vget s.spn i).pending = none) → Completes (.coldReset env) s fun t =>
      t.pkg.devState = .ready ∧ t.pkg.resetDomain = .cold ∧ t.pkg.resetReq = none ∧ t.pkg.flyerRuns = true ∧
      t.pkg.bar0Up = true ∧ t.pkg.bootCode = 0x2F ∧ t.pkg.pkgCap = packageCap (capsShown env.caps) ∧
      t.fly.noStandby = !env.standby ∧ t.sec.booted = 0 ∧ (vget t.sec.slot 0).st = .active ∧
      t.mem = [] ∧ t.bob.queue = [] ∧
      t = { clearedState false s with pkg := t.pkg, bob := t.bob, hnk := t.hnk, fly := t.fly, opt := t.opt,
                                      sec := t.sec, mdl := t.mdl }) ∧
  (∀ (env : BootEnv) (src : ResetSource) (s : State), s.pkg.resetReq = some (.package, src) → s.pkg.powered = true →
    s.pkg.refOk = true → BootEnv.healthy env → s.bootsSlotA env → (∀ i, i < 8 → (vget s.spn i).pending = none) →
    Completes (.packageReset env) s fun t =>
      t.pkg.devState = .ready ∧ t.pkg.resetDomain = .package ∧ t.pkg.resetSource = src ∧ t.pkg.resetReq = none ∧
      t.pkg.flyerRuns = true ∧ t.pkg.bar0Up = true ∧ t.pkg.bootCode = 0x2F ∧
      t.pkg.pkgCap = packageCap (capsShown env.caps) ∧
      t.fly.noStandby = !env.standby ∧ t.sec.booted = 0 ∧ (vget t.sec.slot 0).st = .active ∧
      t.mem = [] ∧ t.bob.queue = [] ∧
      t = { clearedState true s with pkg := t.pkg, bob := t.bob, hnk := t.hnk, fly := t.fly, opt := t.opt,
                                     sec := t.sec, mdl := t.mdl })

/-- An FLR that meets no COLD or PACKAGE reset, no boot and no release on the host's behalf sets every request and
completion queue empty without credit, marks the commands taken from request queues so that their completions are
discarded, clears the bobbins' selectors and half-written doorbells, masks every MSI-X entry and clears its pending
bit, disables MSI-X, ends a DOE exchange and D3hot and records the FLR; nothing else changes. A hot reset shows the
link down with no rate, width, flit mode or protocol, turns both IDE streams off, ends every session, disables the
decoder, empties the snoop filter and every list of snoops and spill accesses that wait, masks every MSI-X entry and
clears its pending bit; with no line in the spill agent and no spill access waiting it changes only the host port and
the bobbins, the bobbins as an FLR does. A COMPUTE reset that completes with its hanks in self-refresh, every hank
back and no orderly stop begun leaves READY with every compute die's loop locked and self-refresh ended; then the
accesses held meanwhile resume and the waiting reset.compute commands complete S_OK. A verified SVN bit is blown, and
the commit ends at its target; one that is not verified changes nothing. (rests on R42, R43, R156, R203, R209, R227,
R229, R394) -/
def Obligations.FunctionAndComputeResets : Prop :=
  (∀ s : State, s.pkg.resetReq = none → s.pkg.devState ≠ .boot → hostReleasing s = false →
    exec .flr s = .next
      { s with
        bob := { s.bob with
          queue := tmap s.bob.queue (fun q =>
            if q.cls = .request ∨ q.cls = .completion then { q with head := 0, tail := 0, credit := 0, headRung := false }
            else q)
          tag := tmap s.bob.tag (fun o => o.map fun c =>
            if (tget s.bob.queue c.queue).cls = .request then { c with discard := true } else c)
          low := [], qSel := 0, pageSel := 0 }
        hp := { s.hp with msix := tmap s.hp.msix (fun e => { e with unmasked := false, pending := false })
                          msixOn := false, doeBusy := false, d3 := false, flrDue := false }
        pkg := { s.pkg with resetSource := .cxlFlr, resetDomain := .flr } }) ∧
  (∀ s : State, Completes .hotReset s fun t =>
    t.hp.linkDown = true ∧ t.hp.rate = 0 ∧ t.hp.width = 0 ∧ t.hp.flit = 0 ∧ t.hp.proto = 0 ∧ t.hp.ideIo = .off ∧
    t.hp.ideCm = .off ∧ t.hp.sessions = [] ∧ t.hp.decoder = false ∧ t.hp.sf = [] ∧ t.hp.sfWait = [] ∧ t.hp.snoopQ = [] ∧
    t.hp.spillWait = [] ∧ t.hp.msix = tmap s.hp.msix (fun e => { e with unmasked := false, pending := false }) ∧
    (s.hp.agent = [] → s.hp.spillWait = [] →
      t = { s with hp := t.hp, bob := (emptyHostQueues s).bob })) ∧
  (∀ s : State, s.pkg.computeReset = true → s.pkg.stopInReset = none → s.hnk.selfRefresh = true →
    let s0 : State :=
      { s with pkg := { s.pkg with devState := .ready, computeReset := false, locked := s.pkg.locked ||| 0xF },
               hnk := { s.hnk with selfRefresh := false, stopped := false } }
    exec (.computeResetComplete none) s = .next (completeAll .sOk (computeWaiters s0) (resumeHeld s0))) ∧
  (∀ (s : State) (n : Nat), s.sec.commit = some n →
    let w := s.sec.svnWord ||| BitVec.ofNat 64 (2 ^ svnOf s.sec.svnWord)
    exec (.svnBitBlown true) s = .next
      { s with sec := { s.sec with svnWord := w, commit := if n ≤ svnOf w then none else some n } }) ∧
  (∀ s : State, exec (.svnBitBlown false) s = .next s)

/-- A request at a steady die starts an upward or downward transition with its loop locking, or nothing where it names
the point in force; a request that finds a transition waits. Upward: lock, voltage rise, clock pause, then the new
point is current. Downward: lock, clock pause, voltage fall, then the new point is current. Each touches only its own
die's record. (R38, R37) That the current point changes only at the end is log entry 15. -/
def Obligations.OperatingPointChangesFollowTheirSteps : Prop :=
  (∀ (d : CDie) (op : Fin 8) (s : State), (s.opAt d).phase = .steady →
    exec (.opTransitionRequest d op) s = .next (s.modOp d fun o =>
      if o.current < op then { o with target := op, phase := .upLock, waiting := none }
      else if op < o.current then { o with target := op, phase := .downLock, waiting := none }
      else { o with target := o.current, waiting := none })) ∧
  (∀ (d : CDie) (op : Fin 8) (s : State), (s.opAt d).phase ≠ .steady →
    exec (.opTransitionRequest d op) s = .next (s.modOp d fun o => { o with waiting := some op })) ∧
  (∀ (d : CDie) (s : State), (s.opAt d).phase = .upLock →
    exec (.targetLoopLock d) s = .next (s.modOp d fun o => { o with phase := .upVolt })) ∧
  (∀ (d : CDie) (s : State), (s.opAt d).phase = .downLock →
    exec (.targetLoopLock d) s = .next (s.modOp d fun o => { o with phase := .downPause, clock := o.target })) ∧
  (∀ (d : CDie) (s : State), (s.opAt d).phase = .upVolt →
    exec (.voltageRiseComplete d) s = .next (s.modOp d fun o => { o with phase := .upPause, clock := o.target })) ∧
  (∀ (d : CDie) (s : State), (s.opAt d).phase = .upPause → (s.opAt d).waiting = none →
    exec (.clockSwitchPauseEnd d) s = .next
      (s.modOp d fun o => { o with current := o.target, clock := o.target, phase := .steady })) ∧
  (∀ (d : CDie) (s : State), (s.opAt d).phase = .downPause →
    exec (.clockSwitchPauseEnd d) s = .next (s.modOp d fun o => { o with phase := .downVolt })) ∧
  (∀ (d : CDie) (s : State), (s.opAt d).phase = .downVolt → (s.opAt d).waiting = none →
    exec (.opTransitionComplete d) s = .next
      (s.modOp d fun o => { o with current := o.target, clock := o.target, phase := .steady }))

/-- With the reference present, its loss clears refOk, sets holdover and the sticky loss bit, counts one level-2
action (also among those of the hour) and posts row 3's event. Its return sets refOk, ends holdover and keeps the loss
shown where there was a holdover. The end of holdover on a device not yet FAILED posts the level-4 event, enters
FAILED with a PACKAGE way out, and then stops the clocks of all six dies, unlocks every loop, stops the flyer, takes
BAR0 down and abandons every operating-point transition. A loop's loss of lock, below the hour's third, notes the
delay of cause bit 3, marks that die sticky, unlocked and relocking, counts in the loop's window, counts one level-2
action and posts row 2's event. A relock of a relocking die marks it locked and not relocking, and the accesses held
meanwhile resume. Nothing else changes. (rests on R39, R44, R373) Posting is levelPost, the entry into FAILED
enterFailed, the noted delay noteHold and the resuming resumeHeld. -/
def Obligations.ReferenceAndLoopEvents : Prop :=
  (∀ s : State, s.pkg.refOk = true → exec .referenceLoss s = .next (levelPost { row := 3, l2 := true }
    { s with pkg := { s.pkg with refOk := false, holdover := true, refLost := true },
             res := { s.res with level2 := wrapInc 16 s.res.level2, recent2 := s.res.recent2 ++ [0] } })) ∧
  (∀ s : State, exec .referenceReturn s = .next
    { s with pkg := { s.pkg with refOk := true, refLost := s.pkg.refLost || s.pkg.holdover, holdover := false } }) ∧
  (∀ s : State, s.pkg.holdover = true →
    let t := enterFailed .package .eDeviceFailed (levelPost { row := 3, l4 := true } s)
    exec .holdoverExpiry s = .next
      { t with pkg := { t.pkg with holdover := false, clocksStopped := 0x3F, locked := 0, flyerRuns := false,
                                   bar0Up := false, op := t.pkg.op.map opAbandon } } ∧
    (s.pkg.devState ≠ .failed → t.pkg.devState = .failed ∧ t.pkg.wayOut = .package ∧ t.mem = s.mem ∧ t.bob = s.bob)) ∧
  (∀ (d : Die) (s : State), winCount s 2 0 d < 2 →
    let h := noteHold 0x08 s
    exec (.loopLossOfLock d) s = .next (levelPost { row := 2, obj := d, count := winCount s 2 0 d + 1, l2 := true }
      { h with pkg := { h.pkg with unlockSticky := h.pkg.unlockSticky ||| BitVec.ofNat 6 (2 ^ d.val),
                                   locked := h.pkg.locked &&& ~~~ BitVec.ofNat 6 (2 ^ d.val),
                                   relocking := h.pkg.relocking ||| BitVec.ofNat 6 (2 ^ d.val) },
               win := (winBump 2 0 d s).win,
               res := { h.res with level2 := wrapInc 16 h.res.level2, recent2 := h.res.recent2 ++ [0] } })) ∧
  (∀ (d : Die) (s : State), s.pkg.relocking.getLsbD d = true → exec (.relockComplete d) s = .next (resumeHeld
    { s with pkg := { s.pkg with locked := s.pkg.locked ||| BitVec.ofNat 6 (2 ^ d.val),
                                 relocking := s.pkg.relocking &&& ~~~ BitVec.ofNat 6 (2 ^ d.val) } }))

/-- A flit that fails its check counts in its link's replay window; below the sixteenth of the window nothing else
changes, and from the sixteenth on the link's retrain is queued unless one is under way, a level-2 action is counted
and row 1's event is posted. A queued retrain that has been asked for, or while no program runs, starts. The end of a
retrain counts in the link's retrain window and clears it; then the accesses held meanwhile resume. The third of the
window on also takes a spare wire where one is left, counts a level-3 action and posts row 1's event. Nothing else
changes. (rests on R19, R44, R76, R373) Posting is levelPost and the resuming resumeHeld. -/
def Obligations.DieToDieLinkEvents : Prop :=
  (∀ (l : Fin 26) (s : State), winCount s 1 0 l < 15 → exec (.flitCrcFail l) s = .next (winBump 1 0 l s)) ∧
  (∀ (l : Fin 26) (s : State), 15 ≤ winCount s 1 0 l → exec (.flitCrcFail l) s = .next
    (levelPost { row := 1, obj := l, count := winCount s 1 0 l + 1, l2 := true }
      { s.modD2d l (fun x => { x with queued := x.queued || !x.retraining }) with
          win := (winBump 1 0 l s).win,
          res := { s.res with level2 := wrapInc 16 s.res.level2, recent2 := s.res.recent2 ++ [0] } })) ∧
  (∀ (l : Fin 26) (s : State), (s.d2dAt l).queued = true → ((s.d2dAt l).asked = true ∨ s.frm.prog ≠ .running) →
    exec (.d2dRetrainStart l) s = .next
      (s.modD2d l fun x => { x with queued := false, asked := false, retraining := true })) ∧
  (∀ (l : Fin 26) (s : State), (s.d2dAt l).retraining = true → winCount s 1 1 l < 2 →
    exec (.d2dRetrainComplete l) s = .next (resumeHeld
      { s.modD2d l (fun x => { x with retraining := false }) with win := (winBump 1 1 l s).win })) ∧
  (∀ (l : Fin 26) (s : State), (s.d2dAt l).retraining = true → 2 ≤ winCount s 1 1 l → 0 < (s.d2dAt l).sparesLeft →
    exec (.d2dRetrainComplete l) s = .next (resumeHeld
      (levelPost { row := 1, obj := l, count := winCount s 1 1 l + 1, l3 := true }
        { s.modD2d l (fun x => { x with retraining := false, sparesLeft := x.sparesLeft - 1 }) with
            win := (winBump 1 1 l s).win,
            res := { s.res with level3 := wrapInc 16 s.res.level3, recent3 := s.res.recent3 ++ [0] } })))

/-- With input power SB_COLD, unless a COLD reset is triggered or boots already, and SB_PACKAGE, unless a COLD or
PACKAGE reset is triggered or boots already and unless the device is FAILED with a COLD way out, answer 0x00, drop a
recovery image in progress, trigger their reset with source sideband and end a COMPUTE reset under way. SB_PACKAGE in
FAILED with a COLD way out answers 0x04. Without power COLD, PACKAGE, recovery data and commit answer 0x03. SB_READ
whose result is 0 answers the register's value in four bytes as the latching read gives it, and changes at most the
latches. RECOVERY_DATA of at most 240 bytes at the expected offset appends its bytes and answers the next offset; a
commit whose length is the image's and whose image verifies puts the image in slot A as PENDING, drops the buffer and
answers 0x00. Each changes nothing else. (rests on R428, R40, R241, R396, R391) The order of the sideband's checks is
log entry 18. -/
def Obligations.SidebandCommandsAnswerAndAct : Prop :=
  (∀ s : State, s.pkg.powered = true → resetUnderway s ≠ some .cold → exec .sbCold s = .next
    { s with sec := { s.sec with recovery := [] },
             pkg := { s.pkg with resetReq := some (.cold, .sideband), computeReset := false },
             out := s.out ++ [.sideband 0 []] }) ∧
  (∀ s : State, s.pkg.powered = true → resetUnderway s ≠ some .cold → resetUnderway s ≠ some .package →
    ¬(s.pkg.devState = .failed ∧ s.pkg.wayOut = .cold) → exec .sbPackage s = .next
      { s with sec := { s.sec with recovery := [] },
               pkg := { s.pkg with resetReq := some (.package, .sideband), computeReset := false },
               out := s.out ++ [.sideband 0 []] }) ∧
  (∀ s : State, s.pkg.powered = true → s.pkg.devState = .failed → s.pkg.wayOut = .cold →
    exec .sbPackage s = .next { s with out := s.out ++ [.sideband 4 []] }) ∧
  (∀ s : State, s.pkg.powered = false →
    exec .sbCold s = .next { s with out := s.out ++ [.sideband 3 []] } ∧
    exec .sbPackage s = .next { s with out := s.out ++ [.sideband 3 []] } ∧
    ∀ off data len, exec (.recoveryData off data) s = .next { s with out := s.out ++ [.sideband 3 []] } ∧
      exec (.recoveryCommit len) s = .next { s with out := s.out ++ [.sideband 3 []] }) ∧
  (∀ (off : Word) (s : State), sbResult s off.toNat = 0 → Completes (.sbRead off) s fun t =>
    t.out = s.out ++ [.sideband 0 (leBytes 4 (latchRead off.toNat s).1)] ∧ t = { s with latch := t.latch, out := t.out }) ∧
  (∀ (data : List Byte) (s : State), s.pkg.powered = true → recoveryOpen s = true → data.length ≤ 240 →
    s.sec.recovery.length < 2 ^ 32 → exec (.recoveryData (BitVec.ofNat 32 s.sec.recovery.length) data) s = .next
      { s with sec := { s.sec with recovery := s.sec.recovery ++ data },
               out := s.out ++ [.sideband 0 (leBytes 4 (s.sec.recovery.length + data.length))] }) ∧
  (∀ s : State, s.pkg.powered = true → recoveryOpen s = true → s.sec.recovery.length < 2 ^ 32 → recoveryReason s = 0 →
    exec (.recoveryCommit (BitVec.ofNat 32 s.sec.recovery.length)) s = .next
      { s with sec := { s.sec with slot := vmod s.sec.slot 0 fun _ =>
                                     { st := .pending, image := some (fwImageOf s.sec.recovery) },
                                   recovery := [] },
               out := s.out ++ [.sideband 0 []] })

/-- With the flyer running, a reading takes each value that its sensor gives and keeps the last where it gives none;
the inlet is high above 180 (45.0 degrees in quarter degrees), the flow is low after ten readings in a row below the
inlet's minimum, a leak is shown while a rope's last reading is wet, the cooling sensors are shown failed when one has
given nothing twice running; each of the first three stays in its sticky bit. The four conditions, as they begin, are
posted with their codes, in the order of the codes. Without the flyer nothing changes. Nothing else changes. (rests on
R417, R418, R430) The postings are postCondition's; that a rope without a reading keeps its last one is the model's
reading of R418. -/
def Obligations.ModuleSensorsAreRead : Prop :=
  (∀ (r : ModuleReading) (s : State), s.pkg.flyerRuns = true →
    let y := moduleRead r s.mdl
    exec (.moduleSensorRead r) s = .next
      (postCondition 4 s.mdl.coolSensor y.coolSensor (postCondition 3 s.mdl.leak y.leak
        (postCondition 2 s.mdl.inletHigh y.inletHigh (postCondition 1 s.mdl.flowLow y.flowLow { s with mdl := y })))) ∧
    y.inlet = (r.inlet.map (·.toNat)).getD s.mdl.inlet ∧ y.outlet = (r.outlet.map (·.toNat)).getD s.mdl.outlet ∧
    y.flow = (r.flow.map (·.toNat)).getD s.mdl.flow ∧ y.inletHigh = decide (180 < y.inlet) ∧
    y.lowReads = (if y.flow < minFlow y.inlet then min (s.mdl.lowReads + 1) 10 else 0) ∧
    y.flowLow = decide (y.lowReads = 10) ∧
    y.leak = (r.leakA.getD (vget s.mdl.wet 0) || r.leakB.getD (vget s.mdl.wet 1)) ∧
    y.coolSensor = [(r.inlet.isNone, 0), (r.outlet.isNone, 1), (r.flow.isNone, 2)].any (fun x =>
      x.1 && decide (1 ≤ vget s.mdl.missed x.2)) ∧
    y.leakSeen = (s.mdl.leakSeen || y.leak) ∧ y.inletHighSeen = (s.mdl.inletHighSeen || y.inletHigh) ∧
    y.flowLowSeen = (s.mdl.flowLowSeen || y.flowLow)) ∧
  (∀ (r : ModuleReading) (s : State), s.pkg.flyerRuns = false → exec (.moduleSensorRead r) s = .next s)

/-- A tick of a new frame, on a strand that is not quarantined and gives ticks, is sent to every child of its tree,
keeps whether the link was late for it, takes effect as a tick that arrives, and awaits its frame start. On a
quarantined strand it is counted as discarded and nothing else happens. The whorl of a formed domain with no tick
waiting emits its next tick: the frame number is the current one's plus one, HELD and STRETCH are no greater than the
period less the stretch and the period; it goes to the tree's children and arrives here too. The whorl with the form
block sent, before any frame, emits the tick of frame 0 with period 50, stretch 0 and HELD 0. A standby that takes
over posts it, becomes the whorl with no standby and no start, stop or running program in hand, and sends and takes a
tick of the next frame that fails the last one and comes from the standby's root. (rests on R67, R66, R70, R72, R74,
R310, R313, R317) The HELD of the takeover tick is log entry 19; the operations named are sendTicks, tickArrives,
emitTick and postDevice. -/
def Obligations.TicksAreTakenAndSent : Prop :=
  (∀ (n : StrandId) (p : List Byte) (s : State), (s.discAt n).st ≠ .quarantined → givesTicks s n (tickOf p) = true →
    tickIsNew s (tickOf p) = true → Completes (.tick n p) s fun t =>
      t.frm.next = some (tickOf p) ∧
      t = tickArrives (tickOf p) ((sendTicks (tickOf p) (tickChildren s (tickTree (tickOf p))) s).modFrm fun f =>
        { f with nextLate := (s.linkAt n).late })) ∧
  (∀ (n : StrandId) (p : List Byte) (s : State), (s.discAt n).st = .quarantined →
    exec (.tick n p) s = .next { s with top := { s.top with discards := wrapInc 32 s.top.discards } }) ∧
  (∀ s : State, s.top.formed = true → s.frm.role = .whorl → s.frm.next = none → Completes .tickEmit s fun t =>
    t = emitTick (nextTick s) s ∧ t.frm.next = some (nextTick s) ∧ (nextTick s).frame = s.frm.cur.frame + 1 ∧
    (nextTick s).held ≤ s.frm.period - s.frm.stretch ∧ (nextTick s).stretch ≤ (nextTick s).period) ∧
  (∀ s : State, s.top.formSent = true → s.frm.role = .whorl → s.frm.next = none → s.frm.cur = {} →
    Completes .tickZero s fun t => ∃ k,
      t = emitTick k (s.modFrm fun f => { f with holdLead := holdLeadOf f.alignA }) ∧ t.frm.next = some k ∧
      k.frame = 0 ∧ k.period = 50 ∧ k.stretch = 0 ∧ k.held = 0 ∧ k.domain = (s.top.plan.map (·.domain)).getD 0) ∧
  (∀ s : State, s.top.formed = true → s.frm.role = .standby → s.frm.next = none → Completes .whorlTakeover s fun t =>
    ∃ k, k.frame = s.frm.cur.frame + 1 ∧ k.failPrev = true ∧ k.rootStandby = true ∧ t.frm.next = some k ∧
      (let u := postDevice 0x02 .sWhorlTakeover 0xFFFFFFFF
        (s.modFrm fun f => { f with role := .whorl, noStandby := true, wStart := none, wRunning := none, wStop := none,
                                    wDrain := f.cur.imageTag != 0 })
      t = tickArrives k (sendTicks k (tickChildren u 1) u)))

/-- A device of a formed domain with a role that has not replied and has no tick waiting passes its hold point: it has
then replied, its own reply counts one device, FRM_HOLD, FRM_NEXT and FRM_CAUSE show that reply's HOLD, NEXT_REQ and
CAUSE, and the planned delays and a wanted pause are used up. After a reply with a HOLD, a larger need is reported
once: the supplementary reply is noted, its HOLD is no less than the need clipped to the cap, and the last reply shown
is it. A child's reply of the frame in progress, not supplementary, on a strand not quarantined, is kept as that
child's; on a quarantined strand it is counted as discarded and nothing else happens. At the deadline a device that
has replied, is not the whorl and has not forwarded sends the combined reply and counts as having forwarded; otherwise
nothing changes. (rests on R68, R73, R75, R310) The combined reply is combined's, sent by sendReply. -/
def Obligations.RepliesGoUpTheTree : Prop :=
  (∀ (f n : Nat) (s : State), s.top.formed = true → s.frm.role ≠ .none → s.frm.replied = false → s.frm.next = none →
    Completes (.holdPoint f n) s fun t =>
      t.frm.replied = true ∧ t.frm.own.count = 1 ∧ t.frm.reqHold = t.frm.own.hold ∧ t.frm.reqNext = t.frm.own.nextReq ∧
      t.frm.cause = t.frm.own.cause ∧ t.frm.planned = 0 ∧ t.frm.plannedCause = 0 ∧ t.frm.pauseWanted = false) ∧
  (∀ (h : Nat) (s : State), s.frm.replied = true → 0 < s.frm.own.hold → s.frm.supplemented = false →
    s.frm.own.hold < h → s.frm.next = none → Completes (.supplementaryReply h) s fun t =>
      t.frm.supplemented = true ∧ ∃ x, t.frm.supp = some x ∧ min h (holdCap s) ≤ x.hold ∧ x.supplement = true ∧
        t.frm.reqHold = x.hold ∧ t.frm.reqNext = x.nextReq ∧ t.frm.cause = x.cause) ∧
  (∀ (n : StrandId) (p : List Byte) (s : State), (s.discAt n).st ≠ .quarantined →
    (matchedChildren s (tickTree s.frm.cur)).contains n.val = true → (replyOf p).frame = s.frm.number →
    (replyOf p).supplement = false → Completes (.tickReply n p) s fun t => tget t.frm.kids n = some (replyOf p)) ∧
  (∀ (n : StrandId) (p : List Byte) (s : State), (s.discAt n).st = .quarantined →
    exec (.tickReply n p) s = .next { s with top := { s.top with discards := wrapInc 32 s.top.discards } }) ∧
  (∀ s : State, s.frm.forwarded = false → s.frm.replied = true → s.frm.role ≠ .whorl →
    exec .replyDeadline s = .next (sendReply (combined s) { s with frm := { s.frm with forwarded := true } })) ∧
  (∀ s : State, (s.frm.forwarded = true ∨ s.frm.replied = false ∨ s.frm.role = .whorl) →
    exec .replyDeadline s = .next s)

/-- At the start of a frame the tick that was received becomes the current one, with its number, period, stretch, HELD
and pause flag in force, no tick waiting and no reply given yet; without a received tick nothing happens. While a
program runs every compute die holds a choice for its next step, and no guard is due; memory and the bobbins are as
before. When the stopped program's work is complete and no start is announced, on a draining device, the program is
loaded and the device READY, no spindle array has work, no vector core a group, and no collective step a context;
memory and the bobbins are as before. A member or standby of a formed domain with no tick waiting that loses its ticks
shows it, and the frame in progress is recorded as failed. (rests on R47, R62, R67, R75, R82, R354, R318) For the lost
tick's frame see log entry 21 on when it counts as failed. -/
def Obligations.FramesBeginAndDrain : Prop :=
  (∀ (k : Half) (a : Tick) (s : State), s.frm.next = some a → Completes (.frameBegin k) s fun t =>
    t = frameBegin k a s ∧
    t.frm.cur = a ∧ t.frm.number = a.frame ∧ t.frm.period = a.period ∧ t.frm.stretch = a.stretch ∧ t.frm.held = a.held ∧
    t.frm.pause = a.pause ∧ t.frm.next = none ∧ t.frm.replied = false) ∧
  (∀ (k : Half) (s : State), s.frm.next = none → exec (.frameBegin k) s = .next s) ∧
  (∀ s : State, s.frm.prog = .running → Completes .stepChoice s fun t =>
    (∀ d : CDie, (t.pwrDieAt d).next.isSome = true) ∧ t.pwr.guardDue = false ∧ t.mem = s.mem ∧ t.bob = s.bob) ∧
  (∀ s : State, s.frm.prog = .draining → s.frm.ann = none → s.pkg.devState = .draining → Completes .drainComplete s fun t =>
    t.frm.prog = .loaded ∧ t.pkg.devState = .ready ∧ (∀ i, i < 8 → (vget t.spn i).busy = none) ∧
    (∀ d, d < 4 → (vget t.vec d).group = []) ∧ t.skn.ctx = [] ∧ t.mem = s.mem ∧ t.bob = s.bob) ∧
  (∀ s : State, s.top.formed = true → (s.frm.role = .member ∨ s.frm.role = .standby) → s.frm.next = none →
    Completes .tickLoss s fun t => t.top.tickLost = true ∧ t.frm.failedFrame = true ∧ t.frm.failNum = s.frm.cur.frame)

/-- For each of the ten step commands: while no step of that kind and opcode with that index can start in the frame in
progress, the command leaves the whole state as it is. A step that can start is of that kind and opcode and has not
run in the frame. Where it can start, no range of a pair that it consumes here lies outside its region, and after the
releases of the host's pairs no host pair still waits and no address is spilled, the step's work runs: the acquires of
its pairs, then its unit, then the work of its kind and opcode on its ARGS. (rests on R47, R106, R170, R172, R173,
R174, R179, R352) For XFER the message numbers must be there too (xferRoom). The work is startWork's, after hostParts.
-/
def Obligations.StepsWaitUntilTheyMayStart : Prop :=
  ∀ (i : Nat) (s : State),
    (∀ reached errs, startable s i 1 1 = none → exec (.matmul i reached errs) s = .next s) ∧
    (startable s i 2 1 = none → exec (.kernel i) s = .next s) ∧
    (∀ par cells, startable s i 2 2 = none → exec (.attend ⟨i, par, cells⟩) s = .next s) ∧
    (∀ par cells, startable s i 2 3 = none → exec (.merge ⟨i, par, cells⟩) s = .next s) ∧
    (startable s i 3 1 = none → exec (.xfer i) s = .next s) ∧
    (startable s i 3 0x10 = none → exec (.allReduce i) s = .next s) ∧
    (startable s i 3 0x11 = none → exec (.reduceScatter i) s = .next s) ∧
    (startable s i 3 0x12 = none → exec (.allGather i) s = .next s) ∧
    (startable s i 4 1 = none → exec (.post i) s = .next s) ∧
    (startable s i 4 2 = none → exec (.flyerCopy i) s = .next s) ∧
    (∀ k o e img r, startable s i k o = some (img, r, e) → e.kind = k ∧ e.opcode = o ∧ s.frm.ran.contains i = false) ∧
    (∀ (img : Image) (r : Nat) (e : StepEntry), let ps := consumed img r i
      let t := hostParts ps s
      (∀ p ∈ ps, rangeHere r p.2 = true → rangeBad s p.2 = none) → (∀ p ∈ ps, hostWaits t p = false) → t.hp.spill = [] →
        (∀ n errs, startable s i 1 1 = some (img, r, e) → exec (.matmul i n errs) s =
          .next (startWork img r i e ps (fun _ e x => matmulStep i n errs e x) t)) ∧
        (startable s i 2 1 = some (img, r, e) → exec (.kernel i) s =
          .next (startWork img r i e ps (fun _ _ x => kernelStep i x) t)) ∧
        (∀ par cells, startable s i 2 2 = some (img, r, e) → exec (.attend ⟨i, par, cells⟩) s =
          .next (startWork img r i e ps (fun _ e x u => attendStep i e x (attnErrors i e par cells u)) t)) ∧
        (∀ par cells, startable s i 2 3 = some (img, r, e) → exec (.merge ⟨i, par, cells⟩) s =
          .next (startWork img r i e ps (fun _ e x u => mergeStep i e x (attnErrors i e par cells u)) t)) ∧
        (startable s i 3 1 = some (img, r, e) → xferRoom s img (xferArgs (argsOf img e)) = true → exec (.xfer i) s =
          .next (startWork img r i e ps (xferStep i) t)) ∧
        (startable s i 3 0x10 = some (img, r, e) → exec (.allReduce i) s =
          .next (startWork img r i e ps (fun img _ _ => collStep i img) t)) ∧
        (startable s i 3 0x11 = some (img, r, e) → exec (.reduceScatter i) s =
          .next (startWork img r i e ps (fun img _ _ => collStep i img) t)) ∧
        (startable s i 3 0x12 = some (img, r, e) → exec (.allGather i) s =
          .next (startWork img r i e ps (fun img _ _ => collStep i img) t)) ∧
        (startable s i 4 1 = some (img, r, e) → exec (.post i) s =
          .next (startWork img r i e ps (fun _ _ x => postStep x) t)) ∧
        (startable s i 4 2 = some (img, r, e) → exec (.flyerCopy i) s =
          .next (startWork img r i e ps (fun _ _ x => flyerCopy i x) t)))

/-- A MATMUL, POST or COPY step that can start and consumes no pair, with no address spilled, takes its unit. MATMUL
with M or N zero does nothing more; otherwise, its operands passing their check, the spindles of its unit compute
their columns in turn and the buffer errors met are taken. POST draws an open OBJECT and posts an event of source 0x0E
with its 40 bytes to the tenant named, or to none where it names 0xFFFF. COPY of no byte does nothing more; otherwise,
its operands passing their check and neither access failing, the flyer reads the source, notes what the frame writes
and writes the bytes to the destination. (rests on R104, R105, R47, R245, R244) The OBJECT of a POST record is a free
value (log entry 60). -/
def Obligations.MatrixAndFlyerStepsRun : Prop :=
  (∀ (i : Nat) (reached : Fin 9) (errs : List BufferError) (s : State) (img : Image) (r : Nat) (e : StepEntry) (pk : PairKind),
    startable s i 1 1 = some (img, r, e) → consumed img r i = [] → s.hp.spill = [] →
    pairKind (matArgs (argsOf img e)).inFmt (matArgs (argsOf img e)).wFmt = some pk →
    ((matArgs (argsOf img e)).m = 0 ∨ (matArgs (argsOf img e)).n = 0 →
      exec (.matmul i reached errs) s = .next (takeUnit i e s)) ∧
    ((matArgs (argsOf img e)).m ≠ 0 → (matArgs (argsOf img e)).n ≠ 0 →
      stepCheck (takeUnit i e s) (matOperands (matArgs (argsOf img e)) pk.scaled) = none →
      exec (.matmul i reached errs) s = .next (bufferErrors i e.die errs
        (matSpindles i (matArgs (argsOf img e)) pk reached (spoiled errs) (spindleColumns e (matArgs (argsOf img e)).n)
          (takeUnit i e s))))) ∧
  (∀ (i : Nat) (s : State) (img : Image) (r : Nat) (e : StepEntry),
    startable s i 4 1 = some (img, r, e) → consumed img r i = [] → s.hp.spill = [] →
    let t := fieldOf (argsOf img e) 0 2
    exec (.post i) s = .next (postEvent 0x0E .sOk (Config.freeNat (takeUnit i e s).free % 2 ^ 32)
      (if t = 0xFFFF then none else some t) (sliceBytes (argsOf img e) 8 40) (takeUnit i e s).drawFree)) ∧
  (∀ (i : Nat) (s : State) (img : Image) (r : Nat) (e : StepEntry),
    startable s i 4 2 = some (img, r, e) → consumed img r i = [] → s.hp.spill = [] →
    let x := argsOf img e
    let n := fieldOf x 0x18 4
    let src : Operand := ⟨1, fieldOf x 0 4, fieldOf x 8 8, n, accRead⟩
    let dst : Operand := ⟨2, fieldOf x 4 4, fieldOf x 16 8, n, accWrite⟩
    let u := takeUnit i e s
    let rd := flyerRead (regionAddr u src.handle src.off) n u
    let a := regionAddr rd.s dst.handle dst.off
    let w := flyerWrite a rd.bytes (noteWrite (.step i) a n rd.s)
    (n = 0 → exec (.flyerCopy i) s = .next u) ∧
    (n ≠ 0 → stepCheck u [src, dst] = none → rd.err = none → w.err = none → exec (.flyerCopy i) s = .next w.s))

/-- A step of these kinds that can start and consumes no pair, with no address spilled, takes its unit; ATTEND and
MERGE then meet the errors given. KERNEL with no thread, or whose code object passes its check, leaves the rest to its
plies; otherwise it ends with the check's status and DETAIL. ATTEND of no query does nothing more; a misaligned
descriptor ends it with E_SEQ_DESCRIPTOR by check 1; with the descriptor, the positions and the page tables read and
right and its operands checked, it reads the heads and leaves the rows' outputs. MERGE of no run does nothing more;
with its operands checked, its records read and their segments rising, it leaves what the records fold to. XFER with
its numbers free does its work, which for no byte and no SIGNAL is nothing. A collective's work is that of its
COLLECTIVES entry. (rests on R118, R119, R123, R128, R130, R132, R285, R328) -/
def Obligations.VectorAndLinkStepsRun : Prop :=
  (∀ (i : Nat) (s : State) (img : Image) (r : Nat) (e : StepEntry),
    startable s i 2 1 = some (img, r, e) → consumed img r i = [] → s.hp.spill = [] →
    let k := kernelArgs (argsOf img e)
    let u := takeUnit i e s
    (k.threads = 0 ∨ stepCheck u [⟨1, k.code, k.codeOff, 1, accRead⟩] = none → exec (.kernel i) s = .next u) ∧
    (∀ x, k.threads ≠ 0 → stepCheck u [⟨1, k.code, k.codeOff, 1, accRead⟩] = some x →
      exec (.kernel i) s = .next (stepError i x.1 x.2 u))) ∧
  (∀ (i : Nat) (par : List (Fin 64)) (cells : CellFaults) (s : State) (img : Image) (r : Nat) (e : StepEntry),
    startable s i 2 2 = some (img, r, e) → consumed img r i = [] → s.hp.spill = [] →
    let a := attendArgs (argsOf img e)
    let u := attnErrors i e par cells (takeUnit i e s)
    (a.queries = 0 → exec (.attend ⟨i, par, cells⟩) s = .next u) ∧
    (a.queries ≠ 0 → a.seqOff % 64 ≠ 0 → exec (.attend ⟨i, par, cells⟩) s = .next (attnFail i e 1 .eSeqDescriptor 0 u)) ∧
    (∀ ds u1 ps u2 tabs u3, a.queries ≠ 0 → a.seqOff % 64 = 0 →
      attnRead i e false a.seqRegion a.seqOff 64 u = (some ds, u1) → descOk a (seqDesc ds) = true →
      attnRead i e false a.posRegion a.posOff (4 * a.queries) u1 = (some ps, u2) →
      let sd := seqDesc ds
      let ws := (List.range a.queries).map fun j => fieldOf ps (4 * j) 4
      let lim := presentEnd a sd (ws.foldl max 0)
      let n := ceilDiv (lim - sd.first) 256
      positionsOk a sd ws = true →
      readTables i e a sd n (if n = 0 then [] else List.range sd.kvHeads) [] u2 = (some tabs, u3) →
      pagesOk sd lim tabs = true → stepCheck u3 (attendOperands a sd tabs) = none →
      let kv := readHeads e sd lim tabs ([], none, u3)
      exec (.attend ⟨i, par, cells⟩) s =
        .next (attnFinish e i (attendRows e a sd ws kv.1 0 a.queries ({}, kv.2.1, kv.2.2))))) ∧
  (∀ (i : Nat) (par : List (Fin 64)) (cells : CellFaults) (s : State) (img : Image) (r : Nat) (e : StepEntry),
    startable s i 2 3 = some (img, r, e) → consumed img r i = [] → s.hp.spill = [] →
    let a := mergeArgs (argsOf img e)
    let u := attnErrors i e par cells (takeUnit i e s)
    (mergeRuns a = 0 → exec (.merge ⟨i, par, cells⟩) s = .next u) ∧
    (mergeRuns a ≠ 0 → stepCheck u (mergeOperands a) = none →
      let rd := engineRead (attnCore e) (regionAddr u a.part a.partOff) (mergeRuns a * a.segs * recLen a.d) u
      rd.err = none → (List.range (mergeRuns a)).all (fun k => segsRise (runRecs a rd.bytes k)) = true →
      exec (.merge ⟨i, par, cells⟩) s = .next (attnFinish e i (mergeOut rd.s a rd.bytes, none, rd.s)))) ∧
  (∀ (i : Nat) (s : State) (img : Image) (r : Nat) (e : StepEntry),
    startable s i 3 1 = some (img, r, e) → consumed img r i = [] → s.hp.spill = [] →
    xferRoom s img (xferArgs (argsOf img e)) = true →
    ((xferArgs (argsOf img e)).len = 0 → (xferArgs (argsOf img e)).op ≠ 4 → exec (.xfer i) s = .next (takeUnit i e s)) ∧
    exec (.xfer i) s = .next (xferStep i img e (argsOf img e) (takeUnit i e s))) ∧
  (∀ (i : Nat) (s : State) (img : Image) (r : Nat) (e : StepEntry), consumed img r i = [] → s.hp.spill = [] →
    (startable s i 3 0x10 = some (img, r, e) → exec (.allReduce i) s = .next (collStep i img (takeUnit i e s))) ∧
    (startable s i 3 0x11 = some (img, r, e) → exec (.reduceScatter i) s = .next (collStep i img (takeUnit i e s))) ∧
    (startable s i 3 0x12 = some (img, r, e) → exec (.allGather i) s = .next (collStep i img (takeUnit i e s))))

/-- With no address spilled: a step that ran, has nothing open and has not completed completes: its held writes are
performed, it is noted as done, ATTEND and MERGE are counted and it leaves its unit. A release whose producer step, no
host, ran on this rank and which this frame has not yet seen does the producer's part; one of a host producer and a
consumer on another rank does the host's. A step that waits for nothing else, of an image with NMX2COMPAT, outside the
hold lead, has its barrier run once in the frame, which is noted. A step that did not run does not complete, and where
no step ran no pair of a producer step is released. (rests on R47, R106, R174, R179) -/
def Obligations.StepsCompleteAndPairsRelease : Prop :=
  (∀ (i : Nat) (s : State) (e : StepEntry), stepOf s i = some e → s.frm.ran.contains i = true →
    s.frm.done.contains i = false → stepOpen s i = false → s.hp.spill = [] →
    exec (.stepComplete i) s = .next (leaveUnit i e (countAttention e
      ((performHeld (fun w => w.client == .step i) s).modFrm fun f => { f with done := f.done ++ [i] })))) ∧
  (∀ (i : Nat) (s : State), s.frm.ran.contains i = false → exec (.stepComplete i) s = .next s) ∧
  (∀ (k : Nat) (s : State) (img : Image) (r : Nat) (e : SyncEntry) (d : StepEntry), runningImage s = some img →
    myRank s = some r → img.syncs[k]? = some e → stepOf s e.prodStep = some d → e.prodRank = r →
    e.prodKind ≠ 3 → s.frm.ran.contains e.prodStep = true → s.frm.released.contains (k, s.frm.number) = false →
    s.hp.spill = [] → exec (.syncRelease k) s = .next (releasePair img r k d e s)) ∧
  (∀ (k : Nat) (s : State) (img : Image) (r : Nat) (e : SyncEntry), runningImage s = some img → myRank s = some r →
    img.syncs[k]? = some e → e.prodKind = 3 → e.prodRank = r → e.consRank ≠ r →
    s.frm.released.contains (k, s.frm.number) = false →
    exec (.syncRelease k) s = .next (releaseHostPair img k e s)) ∧
  (∀ (k : Nat) (s : State), s.frm.ran = [] → (∀ img e, runningImage s = some img → img.syncs[k]? = some e → e.prodKind ≠ 3) →
    exec (.syncRelease k) s = .next s) ∧
  (∀ (i : Nat) (s : State) (img : Image) (e : StepEntry), runningImage s = some img → stepOf s i = some e →
    img.hdr.nmx2 = true → inHoldLead s = false → barrierDue s img i = true → s.hp.spill = [] →
    exec (.nmx2Barrier i) s = .next ((barrier s).modFrm fun f => { f with barriered := f.barriered ++ [i] }))

/-- A ply that can issue (and no address is spilled) first stands in its slot (placePly, which changes its die's
vector record alone). Without a register file parity error, an arithmetic instruction whose operands the kernel has
then writes, in every lane that takes part, the destination register with the result of its operation on that lane's
operands; a reduction and a block sum write there the combined value of the 32 lanes' source registers, the reduction
by the fixed pairwise tree. Every other register of the die, every other die and every other part of the state stay as
they were. With a parity error the instruction's lanes take free values. A ply that cannot issue does nothing. (rests
on R109, R110, R111, R112, R119, R93, R134) The result of a lane that the manual does not state is Config.laneValue of
its operands (log entry 62). -/
def Obligations.PlyArithmeticWritesItsLanes : Prop :=
  (∀ (a : PlyArith) (s : State) (e : StepEntry) (k : KernelArgs),
    plyStep s a.ref (max (a.dst.val + 1) (max (srcTop a.a) (max (srcTop a.b) (srcTop a.c)))) = some (e, k) → e.die < 4 →
    s.hp.spill = [] → srcOk k a.a = true → srcOk k a.b = true → srcOk k a.c = true → a.regParity = false → s.canonical →
    let u := placePly e.die a.ref s
    let ls := activeLanes k a.ref a.mask
    u = { s with vec := u.vec } ∧ (∀ d, d ≠ e.die → vget u.vec d = vget s.vec d) ∧
    Completes (.vectorArith a) s fun t =>
      (∀ l : Fin 32, l.val ∈ ls → readReg t e.die a.ref l a.dst =
        laneResult a.fmt a.op (bitsOf s.pkg.pkgCap.toNat 23 20) (laneValue u e.die k a.ref l a.a)
          (laneValue u e.die k a.ref l a.b) (laneValue u e.die k a.ref l a.c) % 2 ^ 32) ∧
      (∀ (y : PlyRef) (l : Fin 32) (r : Fin 256),
        ¬(y.core = a.ref.core ∧ y.slot = a.ref.slot ∧ l.val ∈ ls ∧ r = a.dst) →
        readReg t e.die y l r = readReg u e.die y l r) ∧
      (∀ d, d ≠ e.die → vget t.vec d = vget s.vec d) ∧ t = { s with vec := t.vec }) ∧
  (∀ (a : PlyReduce) (s : State) (e : StepEntry) (k : KernelArgs), plyStep s a.ref (reduceTop a) = some (e, k) →
    e.die < 4 → s.hp.spill = [] → a.regParity = false → s.canonical →
    let u := placePly e.die a.ref s
    let ls := activeLanes k a.ref a.mask
    let src := (List.range 32).map fun l => readReg u e.die a.ref l a.src
    (Completes (.plyReduction a) s fun t =>
      (∀ l : Fin 32, l.val ∈ ls → readReg t e.die a.ref l a.dst = treeOf (reduceFn a.kind) src % 2 ^ 32) ∧
      (∀ (y : PlyRef) (l : Fin 32) (r : Fin 256),
        ¬(y.core = a.ref.core ∧ y.slot = a.ref.slot ∧ l.val ∈ ls ∧ r = a.dst) →
        readReg t e.die y l r = readReg u e.die y l r) ∧
      (∀ d, d ≠ e.die → vget t.vec d = vget s.vec d) ∧ t = { s with vec := t.vec }) ∧
    (Completes (.bsum32 a) s fun t =>
      (∀ l : Fin 32, l.val ∈ ls → readReg t e.die a.ref l a.dst = Machine.bsum32 src % 2 ^ 32) ∧
      (∀ (y : PlyRef) (l : Fin 32) (r : Fin 256),
        ¬(y.core = a.ref.core ∧ y.slot = a.ref.slot ∧ l.val ∈ ls ∧ r = a.dst) →
        readReg t e.die y l r = readReg u e.die y l r) ∧
      (∀ d, d ≠ e.die → vget t.vec d = vget s.vec d) ∧ t = { s with vec := t.vec })) ∧
  (∀ (a : PlyReduce) (s : State) (e : StepEntry) (k : KernelArgs), plyStep s a.ref (reduceTop a) = some (e, k) →
    s.hp.spill = [] → a.regParity = true →
    let u := clientError (.step a.ref.step) .eDataError (registerParity e.die a.ref.core (placePly e.die a.ref s))
    let t := broadcast e.die a (Config.freeNat u.free) (activeLanes k a.ref a.mask) u.drawFree
    exec (.plyReduction a) s = .next t ∧ exec (.bsum32 a) s = .next t) ∧
  (∀ (a : PlyArith) (s : State) (e : StepEntry) (k : KernelArgs),
    plyStep s a.ref (max (a.dst.val + 1) (max (srcTop a.a) (max (srcTop a.b) (srcTop a.c)))) = some (e, k) →
    s.hp.spill = [] → srcOk k a.a = true → srcOk k a.b = true → srcOk k a.c = true → a.regParity = true →
    let u := clientError (.step a.ref.step) .eDataError (registerParity e.die a.ref.core (placePly e.die a.ref s))
    exec (.vectorArith a) s = .next ((activeLanes k a.ref a.mask).foldl (fun v l =>
      writeReg e.die a.ref.core a.ref.slot l a.dst (Config.freeNat (u.free + l)) v) (u.drawFrees 32))) ∧
  (∀ (a : PlyArith) (b : PlyReduce) (s : State),
    (plyStep s a.ref (max (a.dst.val + 1) (max (srcTop a.a) (max (srcTop a.b) (srcTop a.c)))) = none →
      exec (.vectorArith a) s = .next s) ∧
    (plyStep s b.ref (reduceTop b) = none → exec (.plyReduction b) s = .next s ∧ exec (.bsum32 b) s = .next s))

/-- A ply that can issue (and no address is spilled) first stands in its slot, and the errors given are met. Where the
access's region check gives an address: a vector load delivers its bytes, or free ones where the access or the
register file failed, to the lanes that take part; a vector store of lanes 0 upwards without a gap is one write of
their bytes, and one of other lanes writes lane by lane; a scalar load delivers its bytes to every lane that takes
part; a scalar store writes the lowest lane's. Where the check gives a status the access is suppressed with it. A
gather, and a scatter, take the lanes whose access is allowed: lanes in local store at once, and those in hank memory
as half bursts, each once, for which the ply waits. A ply that cannot issue does nothing. (rests on R22, R110, R111,
R115, R116, R117, R119, R120, R134) The named operations are placePly, plyErrors, engineRead, scalarRead, delivered,
plyWrite, scalarWrite, gatherLocal, scatterLocal and gatherIssue. -/
def Obligations.PlyMemoryInstructionsAccessTheirRegion : Prop :=
  (∀ (a : PlyAccess) (s : State),
    (plyStep s a.ref (topReg a.reg a.width) = none →
      exec (.vectorLoad a) s = .next s ∧ exec (.vectorStore a) s = .next s ∧ exec (.scalarLoad a) s = .next s ∧
      exec (.scalarStore a) s = .next s) ∧
    (plyStep s a.ref (lanesTop a) = none → exec (.gather a) s = .next s ∧ exec (.scatter a) s = .next s)) ∧
  (∀ (a : PlyAccess) (s : State) (e : StepEntry) (k : KernelArgs), plyStep s a.ref (topReg a.reg a.width) = some (e, k) →
    s.hp.spill = [] →
    let u := placePly e.die a.ref s
    let v := plyErrors e a.ref a.err u
    let ls := activeLanes k a.ref a.mask
    let n := vectorSpan k a
    let off := (a.offs.headD 0).toNat
    (n ≠ 0 →
      (∀ x, plyAddr u k a.region off n accRead = .inr x →
        exec (.vectorLoad a) s = .next (suppressed a.ref.step e.die x.1 x.2 u)) ∧
      (∀ x, plyAddr u k a.region off n accWrite = .inr x →
        exec (.vectorStore a) s = .next (suppressed a.ref.step e.die x.1 x.2 u)) ∧
      (∀ addr, plyAddr u k a.region off n accRead = .inl addr →
        let r := noteAccess a.ref.step (engineRead (plyCore e a.ref.core) addr n v)
        let d := delivered a.err.regParity addr n r
        exec (.vectorLoad a) s = .next (loadLanes e.die a d.1 ls d.2)) ∧
      (∀ addr, plyAddr u k a.region off n accWrite = .inl addr →
        exec (.vectorStore a) s = .next (if ls = List.range ls.length then
          plyWrite e a.ref.step a.ref.core addr (ls.flatMap fun l => laneBytes v e.die a.ref l a.reg a.width) false v
          else storeLanes e a addr ls v))) ∧
    (a.width ≠ 0 → ∀ l ms, ls = l :: ms →
      (∀ x, plyAddr u k a.region off a.width accRead = .inr x →
        exec (.scalarLoad a) s = .next (suppressed a.ref.step e.die x.1 x.2 u)) ∧
      (∀ x, plyAddr u k a.region off a.width accWrite = .inr x →
        exec (.scalarStore a) s = .next (suppressed a.ref.step e.die x.1 x.2 u)) ∧
      (∀ addr, plyAddr u k a.region off a.width accRead = .inl addr →
        let r := noteAccess a.ref.step (scalarRead e a.ref.core addr a.width (blocksOf addr a.width) { s := v })
        let d := delivered a.err.regParity addr a.width r
        exec (.scalarLoad a) s = .next
          (ls.foldl (fun w l => loadRegs e.die a.ref.core a.ref.slot l a.reg d.1 (ceilDiv a.width 4) w) d.2)) ∧
      (∀ addr, plyAddr u k a.region off a.width accWrite = .inl addr →
        exec (.scalarStore a) s = .next (scalarWrite e a.ref.step a.ref.core addr
          (laneBytes v e.die a.ref l a.reg a.width) (blocksOf addr a.width) v)))) ∧
  (∀ (a : PlyAccess) (s : State) (e : StepEntry) (k : KernelArgs), plyStep s a.ref (lanesTop a) = some (e, k) →
    s.hp.spill = [] →
    let v := plyErrors e a.ref a.err (placePly e.die a.ref s)
    let r := gatherLanes e k a accRead (activeLanes k a.ref a.mask) ([], v)
    let w := gatherLanes e k a accWrite (activeLanes k a.ref a.mask) ([], v)
    let data := scatterData w.2 e.die a w.1
    let gl := gatherLocal e a (r.1.filter fun x => !isHank x.addr) r.2
    let sl := scatterLocal e a (data.filter fun x => !isHank x.addr) w.2
    let gh := r.1.filter fun x => isHank x.addr
    let sh := data.filter fun x => isHank x.addr
    let wait : GatherWait := { core := a.ref.core, ply := a.ref.slot, client := .step a.ref.step }
    (gh = [] → exec (.gather a) s = .next gl) ∧
    (gh ≠ [] → exec (.gather a) s = .next (gatherIssue e.die { wait with lanes := gh, reg := a.reg } (halvesOf gh) gl)) ∧
    (sh = [] → exec (.scatter a) s = .next sl) ∧
    (sh ≠ [] → exec (.scatter a) s = .next (gatherIssue e.die { wait with lanes := sh, scatter := true } (halvesOf sh) sl)))

/-- An access that leaves the hank and local-store map stops on its address; a hank atomic of an engine stops where
its eight bytes are not mapped hank memory. With no address spilled: a streaming write to mapped addresses outside the
tables that is not stalled and that hank memory does not turn away leaves its bytes at its addresses, memory
canonical, and every other byte as it was; a narrow write, with no block found bad by it and no merging entry held,
leaves every byte outside it as it was, and inside it leaves its bytes unless its first block is an uncorrectable hank
block, when no byte changes; a read, with no write held, changes no byte. A stalled access is held and nothing else
happens. A local-store atomic on mapped local words that pass their checks stores the result of its operation on the
previous value in 32 or 64 bits and answers the previous bytes; an engine's hank atomic on eight aligned bytes of a
correct block stores its fetch-add or compare-swap of the previous 64-bit value. Each changes no other byte. A ply's
atomic runs as the ply's instruction, and does nothing where the ply cannot issue. (rests on R113, R142, R143, R145,
R149, R154, R162, R163) Bytes of the queue and region tables read as the tables' fields, not as memory (tableByte). -/
def Obligations.MemoryAccessesAndAtomicsReachTheirBytes : Prop :=
  (∀ (a : MemAccess) (s : State), mapped a.addr.toNat a.len = false →
    exec (.streamAccess a) s = .fault (.unmappedAddress a.addr.toNat) ∧
    exec (.narrowAccess a) s = .fault (.unmappedAddress a.addr.toNat)) ∧
  (∀ (a : MemAccess) (s : State), mapped a.addr.toNat a.len = true → s.hp.spill = [] →
    accessStalled s a.engine a.addr.toNat a.len = true →
    exec (.streamAccess a) s = .next { s with hnk := { s.hnk with held := s.hnk.held ++ [(false, a)] } } ∧
    exec (.narrowAccess a) s = .next { s with hnk := { s.hnk with held := s.hnk.held ++ [(true, a)] } }) ∧
  (∀ (a : MemAccess) (s : State) (bs : List Byte), mapped a.addr.toNat a.len = true → s.hp.spill = [] →
    accessStalled s a.engine a.addr.toNat a.len = false → a.write = some bs → bs.length = a.len →
    accessRefused s a.addr.toNat a.len = none → (∀ i, i < a.len → tableByte s (a.addr.toNat + i) = none) → s.canonical →
    Completes (.streamAccess a) s fun t => readBytes t a.addr.toNat a.len = bs ∧ t.canonical ∧
      ∀ x, x < a.addr.toNat ∨ a.addr.toNat + a.len ≤ x → readByte t x = readByte s x) ∧
  (∀ (a : MemAccess) (s : State), mapped a.addr.toNat a.len = true → s.hp.spill = [] → a.write = none → s.vis.held = [] →
    (Completes (.streamAccess a) s fun t => ∀ x, readByte t x = readByte s x) ∧
    (Completes (.narrowAccess a) s fun t => ∀ x, readByte t x = readByte s x)) ∧
  (∀ (a : MemAccess) (s : State) (bs : List Byte), mapped a.addr.toNat a.len = true → s.hp.spill = [] →
    accessStalled s a.engine a.addr.toNat a.len = false → a.write = some bs → bs.length = a.len →
    accessRefused s a.addr.toNat a.len = none → a.bad = [] → s.hnk.wmb = [] →
    (∀ i, i < a.len → tableByte s (a.addr.toNat + i) = none) → s.canonical →
    Completes (.narrowAccess a) s fun t =>
      (∀ x, x < a.addr.toNat ∨ a.addr.toNat + a.len ≤ x → readByte t x = readByte s x) ∧
      ((isHank a.addr.toNat = false ∨ isUe s (a.addr.toNat / 64) = false) → readBytes t a.addr.toNat a.len = bs) ∧
      (isHank a.addr.toNat = true → isUe s (a.addr.toNat / 64) = true → ∀ x, readByte t x = readByte s x)) ∧
  (∀ (a : PlyAtomic) (s : State),
    (plyStep s a.ref (atomicTop a) = none → exec (.localStoreAtomic a.ref a.region a.lanes a.wide a.op a.a a.b a.dst) s = .next s) ∧
    (∀ e k, plyStep s a.ref (atomicTop a) = some (e, k) → s.hp.spill = [] →
      exec (.localStoreAtomic a.ref a.region a.lanes a.wide a.op a.a a.b a.dst) s =
      .next (atomicLanes a e k (activeLanes k a.ref a.lanes.mask) (plyErrors e a.ref a.lanes.err (placePly e.die a.ref s))))) ∧
  (∀ (g : Engine) (i addr : Nat) (wide : Bool) (op : LocalOp) (x y : Nat) (s : State), let n := if wide then 8 else 4
    isLocal addr = true → mapped addr n = true → s.vis.held = [] → faultyWords s addr n = [] → s.canonical →
      let r := localAtomic g i addr n op x y s
      r.1 = readBytes s addr n ∧
      readBytes r.2 addr n = leBytes n (localResult (8 * n) op (leNat (readBytes s addr n))
        (x % 2 ^ (8 * n)) (y % 2 ^ (8 * n))) ∧
      ∀ b, b < addr ∨ addr + n ≤ b → readByte r.2 b = readByte s b) ∧
  (∀ (e : Engine) (c : Client) (g : Fin 16) (addr : BitVec 40) (op : AtomicOp) (d : Option (Fin 256)) (s : State),
    (isHank addr.toNat && mapped addr.toNat 8) = false →
      exec (.hankAtomic (.unit e c) g addr op d) s = .fault (.unmappedAddress addr.toNat)) ∧
  (∀ (e : Engine) (c : Client) (g : Fin 16) (addr : BitVec 40) (op : AtomicOp) (d : Option (Fin 256)) (s : State),
    (isHank addr.toNat && mapped addr.toNat 8) = true → addr.toNat % 8 = 0 → s.hp.spill = [] → s.vis.held = [] →
    s.hnk.wmb = [] → faultyWords s addr.toNat 8 = [] → (∀ i, i < 8 → tableByte s (addr.toNat + i) = none) →
    accessRefused s addr.toNat 8 = none → isUe s (addr.toNat / 64) = false → s.canonical →
      Completes (.hankAtomic (.unit e c) g addr op d) s fun t =>
        readBytes t addr.toNat 8 = leBytes 8 (atomicResult (leNat (readBytes s addr.toNat 8)) op) ∧
        ∀ x, x < addr.toNat ∨ addr.toNat + 8 ≤ x → readByte t x = readByte s x) ∧
  (∀ (r : PlyRef) (l : Fin 32) (g : Fin 16) (off : BitVec 40) (dst : Option (Fin 256)) (err : PlyErrors) (op : AtomicOp)
      (s : State), let top := (dst.map (·.val + 2)).getD 0
    (plyStep s r top = none → exec (.hankAtomic (.ply r l err) g off op dst) s = .next s) ∧
    (∀ e k, plyStep s r top = some (e, k) → s.hp.spill = [] → exec (.hankAtomic (.ply r l err) g off op dst) s =
      .next (kernelAtomic r l g off.toNat op dst err e k (placePly e.die r s))))

/-- In canonical memory, bytes written outside the queue and region tables are read back at their addresses, whatever
undefined contents lay there; every byte outside them reads as before; memory stays canonical; and two writes of the
same bytes leave the same memory as one. (rests on R141, R162, R187, R190) -/
def Obligations.MemoryReadsBackWhatWasWritten : Prop :=
  (∀ (s : State) (a : Nat) (bs : List Byte), Memory.wf s.mem = true →
    ((∀ i, i < bs.length → tableByte s (a + i) = none) → readBytes (writeBytes a bs s) a bs.length = bs) ∧
    Memory.wf (writeBytes a bs s).mem = true ∧
    (∀ x, x < a ∨ a + bs.length ≤ x → readByte (writeBytes a bs s) x = readByte s x) ∧
    (writeBytes a bs (writeBytes a bs s)).mem = (writeBytes a bs s).mem)

/-- With no address spilled, and for DOMAIN with no remote operation of the engine to the range open, a release meets
the cells given, then performs the engine's held writes to the range (but not at CORE scope), walks its lines of the
range and counts: a spindle walks nothing, a vector core its die's scalar lines, the flyer every die's flyer
partition; a DOMAIN release with such an operation open only meets the cells. An acquire, at every scope, walks and
discards a vector core's scalar lines or the flyer's partitions, or has the host's lines back-invalidated, or for a
spindle or a transfer engine walks nothing, and counts. A write of the cache control register, with BAR0 up, that
READY without an image and the feature bit allow and whose two bits are 0 or 2 writes the whole cache back before the
flyer's ways change; any other is refused and shown. (rests on R168, R169, R170, R171, R173, R184) Performing at every
scope wider than CORE is the model's choice (log entry 35). The walks are walkRange and walkFlyer, the counts
countRelease and countAcquire. -/
def Obligations.ReleasesAndAcquiresMakeWritesVisible : Prop :=
  (∀ (e : Engine) (base len : Nat) (sc : Scope) (c : CellFaults) (s : State), let u := applyCells c s
    (s.hp.spill = [] → u.hp.spill = []) ∧
    (s.hp.spill = [] → (sc = .domain → remoteOpen u [e] base len = false) → exec (.release e base len sc c) s =
      .next (countRelease e (releaseWalk e base len
        (if sc = .core then u
         else performHeld (fun w => [e].contains w.engine && overlaps base len w.addr w.bytes.length) u)))) ∧
    (sc = .domain → remoteOpen u [e] base len = true → exec (.release e base len sc c) s = .next u) ∧
    (s.hp.spill = [] → exec (.acquire e base len sc c) s = .next (countAcquire e (acquireWalk e base len u)))) ∧
  (∀ (base len : Nat) (u : State),
    (∀ i, releaseWalk (.spindle i) base len u = u ∧ acquireWalk (.spindle i) base len u = u) ∧
    (∀ c, releaseWalk (.vector c) base len u = walkRange (c.val / 64) false false base len u ∧
      acquireWalk (.vector c) base len u = walkRange (c.val / 64) false true base len u) ∧
    (∀ l x, releaseWalk (.transfer l x) base len u = u ∧ acquireWalk (.transfer l x) base len u = u) ∧
    releaseWalk .flyer base len u = walkFlyer false base len u ∧ acquireWalk .flyer base len u = walkFlyer true base len u ∧
    releaseWalk .host base len u = u ∧ acquireWalk .host base len u = snoopAll false (snoopLines u false base len) u) ∧
  (∀ (d : CDie) (v : Word) (s : State), barUp s = true → hasFeature s 6 = true → s.pkg.devState = .ready →
    s.frm.prog = .noImage → (v.toNat % 4 = 0 ∨ v.toNat % 4 = 2) → exec (.visRlcCtrlWrite d v) s = .next (
      if (s.rlcAt d).flyerWays = v.toNat % 4 then s
      else (flushDie d false s).modRlc d fun x => { x with flyerWays := v.toNat % 4 })) ∧
  (∀ (d : CDie) (v : Word) (s : State), barUp s = true →
    (hasFeature s 6 = false ∨ s.pkg.devState ≠ .ready ∨ s.frm.prog ≠ .noImage ∨ v.toNat % 2 = 1) →
    exec (.visRlcCtrlWrite d v) s = .next (s.modRlc d fun x => { x with ctrlRefused := true }))

/-- When a gather entry's data returns, its half burst goes to the ply that waits for it; the cycles count as a gather
stall if a ply waits for an entry; the entry leaves the queue, and the first ply waiting for one takes it. When a ply
that needs no more entries has the last of its data, the data of its entries still queued returns, a gather's lanes
take their bytes, its entries leave the queue and the ply no longer waits; then plies that wait take as many entries
as came free. Without such an entry or such a ply nothing happens. (rests on R116, R117, R135) The shared operations
are gatherReturn, countStall, gatherNext, gatherRest, gatherLoad and gatherRefill. -/
def Obligations.GatherEntriesReturnTheirData : Prop :=
  (∀ (d : CDie) (i : Fin 1024) (n : Word) (s : State), (vget s.vec d).gatherQ[i.val]? = none →
    exec (.gatherEntryFree d i n) s = .next s) ∧
  (∀ (d : CDie) (i : Fin 1024) (n : Word) (s : State) (g : GatherEntry), (vget s.vec d).gatherQ[i.val]? = some g →
    exec (.gatherEntryFree d i n) s = .next (gatherNext d ((countStall d n (gatherReturn d g s)).modVec d fun v =>
      { v with gatherQ := v.gatherQ.eraseIdx i.val }))) ∧
  (∀ (d : CDie) (c : Fin 64) (p : Fin 256) (n : Word) (s : State), plyWaits s d c p = false →
    exec (.gatherDataReturn d c ⟨p, n⟩) s = .next s) ∧
  (∀ (d : CDie) (c : Fin 64) (p : Fin 256) (n : Word) (s : State) (w x : GatherWait),
    let q := (vget s.vec d).gatherQ
    let mine := q.filter fun g => g.core == c.val && g.ply == p.val
    let t := gatherRest d c p q s
    (vget s.vec d).waiting.find? (fun w => w.core == c.val && w.ply == p.val) = some w → w.need = [] →
    (vget t.vec d).waiting.find? (fun w => w.core == c.val && w.ply == p.val) = some x →
    let u := if mine = [] then t else countStall d n t
    let v := if x.scatter then u else gatherLoad d x x.lanes u
    exec (.gatherDataReturn d c ⟨p, n⟩) s = .next (gatherRefill d mine.length (v.modVec d fun y =>
      { y with gatherQ := y.gatherQ.filter (fun g => !(g.core == c.val && g.ply == p.val)),
               waiting := y.waiting.filter (fun z => !(z.core == c.val && z.ply == p.val)) })))

/-- A block's merging entry, if there is one, goes to the stack. A scrub of a hank block counts a corrected block on
its hank; an uncorrectable one is marked and recorded. Of a burst's transfers the leading ones that fail their check
count: none changes nothing, up to three are re-sends, and four also lose the burst for its client, put a retrain
first and count. Re-sends below the window's sixteenth only count. A refresh counts outside self-refresh. A queued
row's repair starts in a window of 20 µs with channels free while none is active, memory is not stopped and its bank
has a spare row; its end uses one, marks the row and counts. The first queued channel action starts where it was asked
for, in a pause frame or without a program, with none active or started in the frame and memory neither stopped nor in
self-refresh. The end of a retrain counts it, and below the hour's third, if good, frees the channel, keeps its
margins and resumes held accesses; a pin repair maps the weakest pin first, counts, and restarts the retrain count. A
stack that does not answer posts its level-4 event and loses its hank, which leaves memory as it is. (rests on R142,
R146, R147, R148, R149, R150, R151, R154, R155, R156) The named operations are wmbFlush, recordUe, resent, burstLost,
queueFirst, refreshDue, resumeHeld, applyBandDue, mapPin and loseHank. -/
def Obligations.StackCheckAndRepairEvents : Prop :=
  (∀ (b : Nat) (s : State), exec (.wmbEntryTimeout b) s = .next (match s.hnk.wmb.find? fun e => e.block == b with
    | some e => wmbFlush e s
    | none => s)) ∧
  (∀ (b : Nat) (s : State), isHank (64 * b) = true →
    exec (.stackScrub b false) s = .next (winAdd 14 0 (hankOf s (64 * b)) 1 s) ∧
    exec (.stackScrub b true) s = .next (recordUe b (s.modHnk fun x => { x with ue := tput x.ue b true }))) ∧
  (∀ (c : ChanId) (ts : List Burst) (cl : Client) (s : State), let n := ((ts.take 4).takeWhile burstBad).length
    (n = 0 → exec (.burstCrcMismatch c ts cl) s = .next s) ∧
    (0 < n → n < 4 → exec (.burstCrcMismatch c ts cl) s = .next (resent c n s)) ∧
    (n = 4 → let u := winBump 13 0 c (queueFirst c .retrain (burstLost c cl (resent c 3 s)))
      exec (.burstCrcMismatch c ts cl) s =
        .next (escalate { row := 13, obj := c, count := winCount u 13 0 c, l2 := true } u))) ∧
  (∀ (c n : Nat) (s : State), winCount s 12 0 c + n < 16 → resent c n s =
    winAdd 12 0 c n (s.modHank (c / 256) fun k => { k with resends := (k.resends + n) % 2 ^ 32 })) ∧
  (∀ (h : HankId) (s : State), s.hnk.selfRefresh = false →
    exec (.refresh h) s = .next (s.modHank h fun k => { k with refreshes := k.refreshes + 1 })) ∧
  (∀ (b : Nat) (s : State), b ∈ s.hnk.rowQueue → s.hnk.rowActive = none → s.hnk.stopped = false →
    windowFor s 2 20000 = true → tget s.hnk.rowUsed (bankOf s (64 * b)) < 4 → exec (.rowRepair b) s =
      .next (s.modHnk fun x => { x with rowQueue := x.rowQueue.erase b, rowActive := some b })) ∧
  (∀ (b : Nat) (s : State), s.hnk.rowActive = some b → exec .rowRepairComplete s = .next (refreshDue
    ((s.modHnk fun x => { x with rowActive := none, rowUsed := tmod x.rowUsed (bankOf s (64 * b)) (· + 1),
                                 rowDone := tput x.rowDone (rowOf s (64 * b)) true }).modHank (hankOf s (64 * b))
      fun k => { k with rowRepairs := wrapInc 16 k.rowRepairs }))) ∧
  (∀ (e : Nat × ActKind) (q : List (Nat × ActKind)) (s : State), s.hnk.queue = e :: q → s.hnk.active = none →
    s.hnk.stopped = false → s.hnk.selfRefresh = false → (s.hnk.asked = true ∨ s.frm.pause = true ∨ noProgram s = true) →
    actedThisFrame s = false → exec .channelActionStart s = .next (s.modHnk fun x =>
      { x with active := some e, queue := q, asked := false, actedIn := some s.frm.number })) ∧
  (∀ (c : ChanId) (m : List Nat) (s : State), s.hnk.active = some (c.val, .retrain) →
    let u := refreshDue (resumeHeld ((applyBandDue (c / 256) (s.modHnk fun x => { x with active := none })).modChan c
      fun ch => { ch with margins := m }))
    winCount u 12 1 c < 2 → exec (.retrainComplete true m) s =
      .next (winBump 12 1 c (u.modHnk fun x => { x with retrains := wrapInc 16 x.retrains }))) ∧
  (∀ (c : ChanId) (m : List Nat) (s : State), s.hnk.active = some (c.val, .pinRepair) →
    let u : State := { (s.modChan c mapPin).modHnk (fun x => { x with pinRepairs := wrapInc 16 x.pinRepairs }) with
      win := tput s.win (winKey 12 1 c) 0 }
    exec (.pinRepairComplete true m) s = .next (refreshDue (resumeHeld
      ((applyBandDue (c / 256) (u.modHnk fun x => { x with active := none })).modChan c
        fun ch => { ch with margins := m })))) ∧
  (∀ (c : ChanId) (s : State),
    let t := loseHank (c.val / 256) (escalate { row := 17, obj := c.val / 256, l4 := true } s)
    exec (.stackNoAnswer c) s = .next t ∧ t.mem = s.mem ∧ t.pkg.devState = .failed)

/-- With BAR0 up: a write of HNK_LB_CTRL with GO and a mode below 2, in READY without an image, keeps the mode and the
channel and starts the test; in another state or with an image it keeps them and is refused; with a reserved mode it
keeps them and shows no refusal; without GO it keeps them. A running test's end shows the pins that failed and passes
without any. A probe commits its 40-bit address and shows the mode, the channel and the granule that the placement in
force gives it. Nothing else changes; without BAR0 neither write does anything, and the end of a test that does not
run does nothing. (rests on R10, R139, R159, R160, R161) -/
def Obligations.LoopbackAndProbeRegisters : Prop :=
  (∀ (h : HankId) (v : Word) (s : State), barUp s = true →
    let u := s.modHank h fun k => { k with lbMode := bitsOf v.toNat 9 8, lbCh := bitsOf v.toNat 7 0 }
    (v.toNat.testBit 31 = false → exec (.loopbackGo h v) s = .next u) ∧
    (v.toNat.testBit 31 = true → (s.pkg.devState ≠ .ready ∨ s.frm.prog ≠ .noImage) →
      exec (.loopbackGo h v) s = .next (u.modHank h fun k => { k with lbRefused := true })) ∧
    (v.toNat.testBit 31 = true → s.pkg.devState = .ready → s.frm.prog = .noImage → 2 ≤ bitsOf v.toNat 9 8 →
      exec (.loopbackGo h v) s = .next (u.modHank h fun k => { k with lbRefused := false })) ∧
    (v.toNat.testBit 31 = true → s.pkg.devState = .ready → s.frm.prog = .noImage → bitsOf v.toNat 9 8 < 2 →
      exec (.loopbackGo h v) s = .next (u.modHank h fun k =>
        { k with lbRefused := false, lbDone := false, lbBusy := true, activity := 6 }))) ∧
  (∀ (h : HankId) (p : BitVec 19) (s : State),
    ((s.hankAt h).lbBusy = true → exec (.loopbackDone h p) s = .next (s.modHank h fun k =>
      { k with lbBusy := false, activity := 2, lbDone := true, lbPass := decide (p = 0), lbPinFail := p.toNat })) ∧
    ((s.hankAt h).lbBusy = false → exec (.loopbackDone h p) s = .next s)) ∧
  (∀ (v : Word) (s : State), barUp s = true →
    let a := bitsOf v.toNat 6 0 * 2 ^ 32 + tget s.pairLow probeLoOff
    exec (.hnkProbe v) s = .next { s with hnk :=
      { s.hnk with probe := a, probeMode := placeBit s (a / 2 ^ 30 % 128), probeC := chanOf s a,
                   probeS := granuleOf s a } }) ∧
  (∀ (h : HankId) (v : Word) (s : State), barUp s = false →
    exec (.loopbackGo h v) s = .next s ∧ exec (.hnkProbe v) s = .next s)

/-- Each channel read moves the round on to the next of 384 channels. A reading of channel 64 d of a compute die below
87 °C, of a sensor that is not faulty, is kept with no misses and changes nothing else. A reading there of 90 °C up to
102 °C of a die in the Normal band puts it into Throttle with its thermal limit two steps below its step, and shows
it. A reading above 105 °C of a hank's fourth channel, while memory is not stopped and no frame has failed, stops hank
memory in self-refresh, shows the hank in the Stop band, fails the frame with E_HANK_OVERTEMP and takes the device to
FAILED. A round counts and changes neither memory, the hanks, the frame nor the device state. The orderly stop, with
no channel or row repair in action and no COMPUTE reset under way, ends FAILED with no write held, the hanks in
self-refresh and the compute dies stopped. An analog trip shows its die, drops held writes and cached lines, leaves
hank memory undefined, takes the device to FAILED and stops the compute dies; one of a fabric die also stops the flyer
and all dies, with a COLD way out. A heater update sets every heater from its table and draws a free value. (rests on
R14, R151, R152, R153, R360, R361, R362, R363, R364, R257) A temperature is in quarter degrees; up to 3 degrees are
added where a die has a faulty sensor, so the bounds leave room for them. -/
def Obligations.HousekeepingReadsTemperatures : Prop :=
  (∀ (r : Option (BitVec 10)) (s : State), Completes (.thermalChannelRead r) s fun t =>
    t.thm.channel = (s.thm.channel + 1) % 384) ∧
  (∀ (v : BitVec 10) (s : State) (d : Fin 4), s.thm.channel = 64 * d.val → v.toNat + 12 < 360 →
    (s.sensorAt (64 * d.val)).faulty = false → exec (.thermalChannelRead (some v)) s = .next
      ((s.modThm fun t => { t with channel := 64 * d.val + 1 }).modSensor (64 * d.val) fun x =>
        { x with valid := true, value := v.toNat, misses := 0 })) ∧
  (∀ (v : BitVec 10) (s : State) (d : Fin 4), s.thm.channel = 64 * d.val → 360 ≤ v.toNat → v.toNat + 12 < 420 →
    (s.sensorAt (64 * d.val)).faulty = false → (s.thmDieAt d).band = .normal →
    Completes (.thermalChannelRead (some v)) s fun t =>
      (t.thmDieAt d).band = .throttle ∧ (t.pwrDieAt d).thermal = (s.pwrDieAt d).step - 2 ∧ t.thm.throttle = true ∧
      t.pkg = s.pkg ∧ t.frm = s.frm) ∧
  (∀ (v : BitVec 10) (s : State) (h : Fin 8), s.thm.channel = 0x143 + 4 * h.val → 420 < v.toNat → s.hnk.stopped = false →
    s.frm.failStatus = none → Completes (.thermalChannelRead (some v)) s fun t =>
      t.hnk.stopped = true ∧ t.hnk.selfRefresh = true ∧ (t.hankAt h).overtemp = true ∧ (t.hankAt h).band = .stop ∧
      t.frm.failStatus = some .eHankOvertemp ∧ t.pkg.devState = .failed ∧ t.mem = s.mem) ∧
  (∀ s : State, Completes .thermalRound s fun t =>
    t.thm.rounds = wrapInc 32 s.thm.rounds ∧ t.mem = s.mem ∧ t.hnk = s.hnk ∧ t.frm = s.frm ∧ t.pkg.devState = s.pkg.devState) ∧
  (∀ s : State, s.thm.stopping = none → exec .orderlyStopComplete s = .next s) ∧
  (∀ (d : Nat) (s : State), s.thm.stopping = some d → s.pkg.computeReset = false → s.hnk.active = none →
    s.hnk.rowActive = none → Completes .orderlyStopComplete s fun t =>
      t.vis.held = [] ∧ t.hnk.selfRefresh = true ∧ t.pkg.clocksStopped &&& 0xF = 0xF ∧
      t.thm.stopping = none ∧ t.thm.stopped = true ∧ t.pkg.devState = .failed) ∧
  (∀ (d : Die) (s : State), Completes (.analogTrip d) s fun t =>
    t.thm.trip = s.thm.trip ||| BitVec.ofNat 6 (2 ^ d.val) ∧ t.vis.held = [] ∧ (∀ e : Fin 4, (t.rlcAt e).lines = []) ∧
    (∀ x, isHank x = true → tableByte s x = none → readByte t x = Config.freeByte s.free x) ∧ t.pkg.devState = .failed ∧
    t.pkg.flyerRuns = (s.pkg.flyerRuns && decide (d.val < 4)) ∧
    t.pkg.clocksStopped = (if d.val < 4 then s.pkg.clocksStopped ||| 0xF else 0x3F) ∧
    (4 ≤ d.val → t.pkg.wayOut = .cold)) ∧
  (∀ s : State, exec .heaterUpdate s = .next
    { s with free := s.free + 1,
             opt := { s.opt with heater :=
               (s.opt.heater.map fun e => (e.1, setHeater s e.1 e.2)).filter fun e => e.2 ≠ default } })

/-- While BAR0 is decoded and boot has not halted: a GO of a mailbox that takes commands and is IDLE or DONE makes it
QUEUED and puts it last in GO order, and changes nothing else; a GO of any other sets GO_IGNORED alone. A CANCEL of a
QUEUED command, or of one marked C that holds its class and has not gone on outside the flyer, sets its cancel request
alone; of one that waits for its class it ends the command with E_CANCELLED; of one marked C that goes on outside the
flyer it undoes it and ends it with E_CANCELLED; of one not marked C that does not wait, or of a mailbox IDLE or DONE,
it sets CANCEL_IGNORED alone. With a mailbox first in GO order, the flyer running, outside BOOT, an acceptance is
acceptMbx of it; of a request with no torn byte, no cancel request and no fault found by acceptCheck, it leaves the GO
order without the mailbox, the command IN_PROGRESS with its request, no step done and the expected steps, at least
one, and changes no state outside the flyer. An intermediate step with no command next leaves the state as it is; with
one next it is countStep, or, where that command is cancelled, undoes it and ends it with E_CANCELLED. A write of an
event head that lies from the head up to the tail sets the head alone. (rests on R234, R236, R237, R240, R241, R244)
-/
def Obligations.MailboxGoAcceptanceAndSteps : Prop :=
  (∀ (m : MbxId) (s : State), mailboxesUp s = true → takesCommands (s.mbxAt m).kind = true →
    ((s.mbxAt m).phase = .idle ∨ (s.mbxAt m).phase = .done) → exec (.mbxGo m) s = .next
      ((s.modMbx m fun b => { b with phase := .queued, torn := [] }).modFly fun f => { f with goOrder := f.goOrder ++ [m.val] })) ∧
  (∀ (m : MbxId) (s : State), mailboxesUp s = true →
    (takesCommands (s.mbxAt m).kind = false ∨ (s.mbxAt m).phase = .queued ∨ (s.mbxAt m).phase = .inProgress) →
    exec (.mbxGo m) s = .next (s.modMbx m fun b => { b with goIgnored := true })) ∧
  (∀ (m : MbxId) (s : State), mailboxesUp s = true → (s.mbxAt m).phase = .queued →
    exec (.mbxCancel m) s = .next (s.modMbx m fun b => { b with cancelReq := true })) ∧
  (∀ (m : MbxId) (s : State), mailboxesUp s = true → ((s.mbxAt m).phase = .idle ∨ (s.mbxAt m).phase = .done) →
    exec (.mbxCancel m) s = .next (s.modMbx m fun b => { b with cancelIgnored := true })) ∧
  (∀ (m : MbxId) (r : MbxReq) (i : CmdInfo) (s : State), mailboxesUp s = true → (s.mbxAt m).phase = .inProgress →
    waitsClass s m = false → (s.mbxAt m).req = some r → cmdInfo r.command = some i → i.cancel = false →
    exec (.mbxCancel m) s = .next (s.modMbx m fun b => { b with cancelIgnored := true })) ∧
  (∀ (m : MbxId) (s : State), mailboxesUp s = true → (s.mbxAt m).phase = .inProgress → waitsClass s m = true →
    exec (.mbxCancel m) s = .next (failMbx m .eCancelled 0 s)) ∧
  (∀ (m : MbxId) (r : MbxReq) (i : CmdInfo) (s : State), mailboxesUp s = true → (s.mbxAt m).phase = .inProgress →
    waitsClass s m = false → (s.mbxAt m).req = some r → cmdInfo r.command = some i → i.cancel = true →
    exec (.mbxCancel m) s = .next (if (s.mbxAt m).started then failMbx m .eCancelled 0 (undoCommand r.command s)
      else s.modMbx m fun b => { b with cancelReq := true })) ∧
  (∀ (us k : Word) (m : Nat) (q : List Nat) (s : State), s.fly.goOrder = m :: q → s.pkg.flyerRuns = true →
    s.pkg.devState ≠ .boot → exec (.mbxAccept us k) s = .next (acceptMbx m us.toNat k.toNat s)) ∧
  (∀ (us k : Word) (m : MbxId) (q : List Nat) (s : State), s.fly.goOrder = m.val :: q → s.pkg.flyerRuns = true →
    s.pkg.devState ≠ .boot → (s.mbxAt m).torn = [] → (s.mbxAt m).cancelReq = false →
    acceptCheck s m (getBytes (s.mbxAt m).payload 0 4096) = none → Completes (.mbxAccept us k) s fun t =>
      t.fly.goOrder = q ∧ (t.mbxAt m).phase = .inProgress ∧
      (t.mbxAt m).req = some (requestOf (getBytes (s.mbxAt m).payload 0 4096)) ∧
      (t.mbxAt m).stepsDone = 0 ∧ (t.mbxAt m).stepsTotal = max k.toNat 1 ∧ t.fly.acceptMax = max s.fly.acceptMax us.toNat ∧
      t = { s with fly := t.fly }) ∧
  (∀ s : State, nextCommand s = none → exec .mailboxStep s = .next s) ∧
  (∀ (m : Nat) (s : State), nextCommand s = some m → (s.mbxAt m).cancelReq = false →
    exec .mailboxStep s = .next (countStep m s)) ∧
  (∀ (m : Nat) (r : MbxReq) (s : State), nextCommand s = some m → (s.mbxAt m).cancelReq = true →
    (s.mbxAt m).req = some r → exec .mailboxStep s = .next (failMbx m .eCancelled 0 (undoCommand r.command s))) ∧
  (∀ (m : MbxId) (v : Word) (s : State), mailboxesUp s = true → (s.mbxAt m).evtHead ≤ v.toNat →
    v.toNat ≤ (s.mbxAt m).evtTail → (s.mbxAt m).evtTail < 2 ^ 32 →
    exec (.mbxEvtHeadWrite m v) s = .next (s.modMbx m fun b => { b with evtHead := v.toNat }))

/-- A command that carries out a mailbox command leaves the state as it is unless a step of that command may end for
that mailbox (mayStep). Where it may and the command is not debug.unlock and no flash job or buddy wait is under way:
with a cancel request it undoes the command and ends it with E_CANCELLED; without one, in a device state that no
longer admits the command, it counts the step and ends it with E_DEVICE_FAILED. Completing a mailbox's command writes
USER and, but for a failure of any command other than frame.load, the reply fields; it sets the reply length, the
detail, the status and ANSWERED; the mailbox is then DONE with no request, its class entries are gone, completed
commands are counted, no other mailbox changes, and nothing outside the flyer, the host port and the output changes.
(rests on R235, R236, R237, R239, R240, R376, R397) -/
def Obligations.MailboxCommandsTakeTurnsAndEnd : Prop :=
  (∀ (c : Instr) (code : Nat) (m : MbxId) (s : State), mbxCommand c = some (code, m) → mayStep s code m = none →
    exec c s = .next s) ∧
  (∀ (c : Instr) (code : Nat) (m : MbxId) (s : State), mbxCommand c = some (code, m) → (mayStep s code m).isSome = true →
    (s.mbxAt m).cancelReq = true → s.res.job = none → s.res.buddyWait = none → code ≠ 0x0093 →
    exec c s = .next (failMbx m .eCancelled 0 (undoCommand code s))) ∧
  (∀ (c : Instr) (code : Nat) (m : MbxId) (s : State), mbxCommand c = some (code, m) → (mayStep s code m).isSome = true →
    (s.mbxAt m).cancelReq = false → notAdmitted s code = true → s.res.job = none → s.res.buddyWait = none → code ≠ 0x0093 →
    exec c s = .next (failMbx m .eDeviceFailed 0 (countStep m s))) ∧
  (∀ (m : Nat) (st : Status) (d : Nat) (fields : List Byte) (r : MbxReq) (s : State), (s.mbxAt m).req = some r →
    let t := completeMbx m st d fields s
    let reply := leBytes 8 r.user ++ if st.failure = true ∧ r.command ≠ 0x0040 then [] else fields
    (t.mbxAt m).phase = .done ∧ (t.mbxAt m).req = none ∧ (t.mbxAt m).status = st ∧ (t.mbxAt m).answered = r.command ∧
    (t.mbxAt m).detail = d % 2 ^ 32 ∧ (t.mbxAt m).replyLen = reply.length ∧
    (tabWf (s.mbxAt m).payload = true → ∀ i, i < reply.length → tget (t.mbxAt m).payload i = reply.getD i 0) ∧
    t.fly.cmdCount = wrapInc 32 s.fly.cmdCount ∧ (∀ e ∈ t.fly.classQ, e.2 ≠ m) ∧
    (∀ n, n ≠ m → t.mbxAt n = s.mbxAt n) ∧ t = { s with fly := t.fly, hp := t.hp, out := t.out })

/-- With the flyer running, a heartbeat counts and changes nothing else. With a standby, a standby takeover and an
expiry of the watchdog are both takeOver after the window of row 23 counts one; takeOver leaves LD1 active, the
takeover shown, no standby, no mailbox step taken, the steps that were mirrored and the package as they were, and
names the takeover in the hold of the frame only where a flyer step of the program is running. Without the flyer or a
standby a takeover changes nothing. The watchdog with no standby counts both windows of row 23 and triggers a PACKAGE
reset where none of the last hour preceded it; with one before it, the device is FAILED. The loss of the standby sets
STANDBY_LOST and leaves none, and changes nothing else. An uncorrectable memory error of the active cluster without a
standby triggers a PACKAGE reset, unless an equal or heavier one is under way; with a standby it takes over; an error
of the standby leaves the package, the frames and the clusters' roles as they were. (rests on R76, R232, R248, R373)
-/
def Obligations.FlyerClusterEvents : Prop :=
  (∀ s : State, s.pkg.flyerRuns = true → exec .flyerHeartbeat s =
    .next (s.modFly fun f => { f with heartbeats := wrapInc 32 f.heartbeats })) ∧
  (∀ s : State, s.pkg.flyerRuns = true → s.fly.noStandby = false →
    exec .standbyTakeover s = .next (takeOver 23 (winCount s 23 0 0 + 1) (winBump 23 0 0 s)) ∧
    exec .watchdogExpiry s = .next (takeOver 23 (winCount s 23 0 0 + 1) (winBump 23 0 0 s))) ∧
  (∀ (row n : Nat) (s : State), (takeOver row n s).fly.activeLd1 = true ∧ (takeOver row n s).fly.takeover = true ∧
    (takeOver row n s).fly.noStandby = true ∧ (takeOver row n s).fly.taken = [] ∧
    (takeOver row n s).fly.mirrored = s.fly.mirrored ∧ (takeOver row n s).pkg = s.pkg ∧
    (takeOver row n s).frm = (if flyerStepOpen s then (noteHold 0x80 s).frm else s.frm)) ∧
  (∀ s : State, (s.pkg.flyerRuns = false ∨ s.fly.noStandby = true) → exec .standbyTakeover s = .next s) ∧
  (∀ s : State, s.pkg.flyerRuns = true → s.fly.noStandby = true → winCount s 23 1 0 = 0 →
    exec .watchdogExpiry s = .next (triggerReset .package .watchdog (winBump 23 1 0 (winBump 23 0 0 s)))) ∧
  (∀ s : State, s.pkg.flyerRuns = true → s.fly.noStandby = true → 1 ≤ winCount s 23 1 0 →
    Completes .watchdogExpiry s fun t => t.pkg.devState = .failed) ∧
  (∀ s : State, s.fly.noStandby = false → exec .standbyLost s =
    .next (s.modFly fun f => { f with standbyLost := true, noStandby := true })) ∧
  (∀ s : State, s.pkg.flyerRuns = true → s.fly.noStandby = true → (∀ d, resetUnderway s = some d → d.weight < 2) →
    Completes (.flyerSramEcc true true) s fun t => t.pkg.resetReq = some (.package, .sramError)) ∧
  (∀ s : State, s.pkg.flyerRuns = true → s.fly.noStandby = false → Completes (.flyerSramEcc true true) s fun t =>
    t.fly.activeLd1 = true ∧ t.fly.noStandby = true ∧ t.pkg = s.pkg) ∧
  (∀ (bad : Bool) (s : State), s.pkg.flyerRuns = true → Completes (.flyerSramEcc false bad) s fun t =>
    t.pkg = s.pkg ∧ t.frm = s.frm ∧ t.fly.noStandby = s.fly.noStandby ∧ t.fly.activeLd1 = s.fly.activeLd1)

/-- For a command whose mailbox's step may end, that is not cancelled and that the device state admits (InTurn), on
the state u after its step is counted. dev.info, topo.status, power.status, attest.measure and test.status end S_OK
with their records; laser.status with those of the bank named, or of both for 0xFF, and with E_COMMAND for another.
mbx.assign ends with E_COMMAND for a KIND it does not know or a mailbox above 63, with E_PERMISSION for MB00, MB63 or
the asking mailbox, with E_STATE for a busy one, and else S_OK with that mailbox given its kind, tenant and vector,
IDLE. dev.feed ends S_OK with the feed changed alone, and E_COMMAND for 0. reset.compute in FAILED whose way out is
heavier ends with E_STATE and the way out; in FAILED with a hotspot of 340 or more ends with E_STATE; else it begins
the COMPUTE reset, its mailbox waiting. reset.package ends S_OK and then triggers a PACKAGE reset. cap.set ends with
E_CAP_RANGE outside 300 to 1600; else the cap is in force at once without a program and at the next frame with one,
and it ends S_OK, or S_CAP_UNREACHABLE below the floor. test.schedule ends with E_COMMAND for units 0 or from 16, S_OK
where no unit is named, and else holds the request, its mailbox waiting with one step for each unit. (rests on R234,
R241, R243, R273, R305, R324, R351, R366, R400, R411, R412) -/
def Obligations.DeviceCommandsOfMailboxes : Prop :=
  (∀ (m : MbxId) (r : MbxReq) (s : State), let u := countStep m s
    (InTurn s 0x0001 m r → exec (.devInfo m) s = .next (completeMbx m .sOk 0 (devInfoFields u) u)) ∧
    (InTurn s 0x0052 m r → exec (.topoStatus m) s =
      .next (completeMbx m .sOk 0 ((List.range 64).flatMap (topoRecord u)) u)) ∧
    (InTurn s 0x0058 m r → exec (.laserStatus m) s = .next (
      if fieldOf r.params 0 1 = 0xFF then completeMbx m .sOk 0 ((List.range 9).flatMap (laserRecord (u.bankAt 0)) ++
        (List.range 9).flatMap (laserRecord (u.bankAt 1))) u
      else if fieldOf r.params 0 1 < 2 then
        completeMbx m .sOk 0 ((List.range 9).flatMap (laserRecord (u.bankAt (fieldOf r.params 0 1)))) u
      else failMbx m .eCommand 0x10 u)) ∧
    (InTurn s 0x0071 m r → exec (.powerStatus m) s = .next (completeMbx m .sOk 0 (powerRecord u) u)) ∧
    (InTurn s 0x0091 m r → exec (.attestMeasure m) s = .next (completeMbx m .sOk 0 (leBytes 8 8 ++ measurements u) u)) ∧
    (InTurn s 0x00A1 m r → exec (.testStatus m) s = .next (completeMbx m .sOk 0 (testRecord u) u))) ∧
  (∀ (m : MbxId) (r : MbxReq) (s : State), InTurn s 0x0002 m r → mbxKindOf (fieldOf r.params 1 1) = none →
    exec (.mbxAssign m) s = .next (failMbx m .eCommand 0x11 (countStep m s))) ∧
  (∀ (m : MbxId) (r : MbxReq) (k : MbxKind) (s : State), InTurn s 0x0002 m r → mbxKindOf (fieldOf r.params 1 1) = some k →
    let u := countStep m s
    let x := fieldOf r.params 0 1
    (63 < x → exec (.mbxAssign m) s = .next (failMbx m .eCommand 0x10 u)) ∧
    (x ≤ 63 → (x = 0 ∨ x = 63 ∨ x = m.val) → exec (.mbxAssign m) s = .next (failMbx m .ePermission 0 u)) ∧
    (x ≤ 63 → x ≠ 0 → x ≠ 63 → x ≠ m.val → mbxBusy (u.mbxAt x) = true →
      exec (.mbxAssign m) s = .next (failMbx m .eState 0 u)) ∧
    (x ≤ 63 → x ≠ 0 → x ≠ 63 → x ≠ m.val → mbxBusy (u.mbxAt x) = false → exec (.mbxAssign m) s = .next
      (completeMbx m .sOk 0 [] (u.modMbx x fun b => { b with
        kind := k, tenant := fieldOf r.params 2 2 % 4096, vector := some (fieldOf r.params 4 2 % 2048), phase := .idle })))) ∧
  (∀ (m : MbxId) (r : MbxReq) (s : State), InTurn s 0x0003 m r → let u := countStep m s
    (fieldOf r.params 0 2 ≠ 0 → exec (.devFeed m) s =
      .next (completeMbx m .sOk 0 [] (u.modTop fun t => { t with feed := fieldOf r.params 0 2 }))) ∧
    (fieldOf r.params 0 2 = 0 → exec (.devFeed m) s = .next (failMbx m .eCommand 0x10 u))) ∧
  (∀ (m : MbxId) (r : MbxReq) (s : State), InTurn s 0x0010 m r → let u := countStep m s
    (s.pkg.devState ≠ .failed → exec (.resetCompute m) s =
      .next (beginCompute (u.modMbx m fun b => { b with started := true }))) ∧
    (s.pkg.devState = .failed → s.pkg.wayOut ≠ .compute → exec (.resetCompute m) s =
      .next (failMbx m .eState (if s.pkg.wayOut = .cold then 2 else 1) u)) ∧
    (s.pkg.devState = .failed → s.pkg.wayOut = .compute → exec (.resetCompute m) s =
      .next (if (List.range 6).any (fun d => 340 ≤ (u.thmDieAt d).hotspot) then failMbx m .eState 0 u
        else beginCompute (u.modMbx m fun b => { b with started := true })))) ∧
  (∀ (m : MbxId) (r : MbxReq) (s : State), InTurn s 0x0011 m r →
    exec (.resetPackage m) s = .next (triggerReset .package .resetPackage (completeMbx m .sOk 0 [] (countStep m s)))) ∧
  (∀ (m : MbxId) (r : MbxReq) (s : State), InTurn s 0x0070 m r → let u := countStep m s
    let cap := fieldOf r.params 0 2
    ((cap < 300 ∨ 1600 < cap) → exec (.capSet m) s = .next (failMbx m .eCapRange 0 u)) ∧
    (300 ≤ cap → cap ≤ 1600 → exec (.capSet m) s = .next (judgeCap cap (completeMbx m
      (if cap < s.pwr.floorW then .sCapUnreachable else .sOk) 0 (leBytes 2 cap ++ leBytes 2 s.pwr.floorW)
      (u.modPwr fun x => if noProgram u then { x with capW := cap, capNext := none } else { x with capNext := some cap }))))) ∧
  (∀ (m : MbxId) (r : MbxReq) (s : State), InTurn s 0x00A0 m r → let u := countStep m s
    let n := fieldOf r.params 0 2
    ((n = 0 ∨ 16 ≤ n) → exec (.testSchedule m) s = .next (failMbx m .eCommand 0x10 u)) ∧
    (n ≠ 0 → n < 16 → namedUnits u n = [] → exec (.testSchedule m) s = .next (completeMbx m .sOk 0 [] u)) ∧
    (n ≠ 0 → n < 16 → namedUnits u n ≠ [] → exec (.testSchedule m) s = .next
      ((u.modMbx m fun b => { b with started := true, stepsDone := 0, stepsTotal := (namedUnits u n).length }).modTst fun t =>
        let sched : HostTest := { mbx := m, units := n, notBefore := fieldOf r.params 8 6, total := (namedUnits u n).length }
        { t with host := some sched })))

/-- For a command in turn, not cancelled and admitted, on the state u after its step is counted. mem.place with an
image loaded ends with E_STATE, with a busy group among those it changes with E_PLACE_BUSY, and else places them and
ends S_OK; a mode from 2 or a range past 128 groups ends with E_COMMAND. host.window with an image or a committed
decoder ends with E_STATE, with a bad base, size or overlap with a spilled zone with E_WINDOW, with a region of its
reach bound with E_PLACE_BUSY, and else sets the window and ends S_OK. host.spill and host.unspill with an image end
with E_STATE, refused with E_SPILL, on a busy zone with E_PLACE_BUSY, and else set or clear the zone and end S_OK.
region.bind ends with the status of its check, with E_REGION 4 for a tenant from 4096, with E_REGION 8 with no free
entry, and else writes the lowest free entry and answers its handle. region.rebind and region.free end with the status
of their refusal, and else change the entry at once, or, with operations in flight that name it, when these have
completed. queue.page, queue.create, queue.rebind and queue.destroy end with the status of their check or write the
page or the descriptor, a fresh ring zeroed; queue.destroy disables the queue and, with none in flight, at once or
when that is so, clears it. (rests on R140, R188, R191, R192, R219, R222, R243, R432) -/
def Obligations.MemoryHostAndQueueCommandsOfMailboxes : Prop :=
  (∀ (m : MbxId) (r : MbxReq) (s : State), InTurn s 0x0020 m r → let u := countStep m s
    let g := (placeGroups r).filter fun k => placeBit u k != (fieldOf r.params 2 1 == 1)
    (2 ≤ fieldOf r.params 2 1 → exec (.memPlace m) s = .next (failMbx m .eCommand 0x12 u)) ∧
    (fieldOf r.params 2 1 < 2 → 128 < fieldOf r.params 0 1 + fieldOf r.params 1 1 →
      exec (.memPlace m) s = .next (failMbx m .eCommand 0x11 u)) ∧
    (fieldOf r.params 2 1 < 2 → fieldOf r.params 0 1 + fieldOf r.params 1 1 ≤ 128 →
      (s.frm.prog ≠ .noImage → exec (.memPlace m) s = .next (failMbx m .eState 0 u)) ∧
      (s.frm.prog = .noImage → g.any (groupBusy u) = true → exec (.memPlace m) s = .next (failMbx m .ePlaceBusy 0 u)) ∧
      (s.frm.prog = .noImage → g.any (groupBusy u) = false →
        exec (.memPlace m) s = .next (completeMbx m .sOk 0 [] (placeAll (fieldOf r.params 2 1 == 1) g u))))) ∧
  (∀ (m : MbxId) (r : MbxReq) (s : State), InTurn s 0x0021 m r → let u := countStep m s
    let wb := fieldOf r.params 0 8
    let n := fieldOf r.params 8 2
    let bad := wb % 2 ^ 28 ≠ 0 ∨ n = 0 ∨ 256 < n ∨ tablesBase < wb + n * 2 ^ 28 ∨
      (s.hp.spill.any fun e => e.2.isSome && overlaps wb (n * 2 ^ 28) (e.1 * 2 ^ 30) (2 ^ 30)) = true
    ((s.frm.prog ≠ .noImage ∨ s.hp.decoder = true) → exec (.hostWindow m) s = .next (failMbx m .eState 0 u)) ∧
    (s.frm.prog = .noImage → s.hp.decoder = false →
      (bad → exec (.hostWindow m) s = .next (failMbx m .eWindow 0 u)) ∧
      (¬ bad → exec (.hostWindow m) s = .next (if windowBusy u then failMbx m .ePlaceBusy 0 u
        else completeMbx m .sOk 0 [] (u.modHp fun h => { h with winBase := wb, winSize := n }))))) ∧
  (∀ (m : MbxId) (r : MbxReq) (s : State), InTurn s 0x0023 m r → let u := countStep m s
    let z := fieldOf r.params 0 2
    (s.frm.prog ≠ .noImage → exec (.hostUnspill m) s = .next (failMbx m .eState 0 u)) ∧
    (s.frm.prog = .noImage → tget s.hp.spill z = none → exec (.hostUnspill m) s = .next (failMbx m .eSpill 0 u)) ∧
    (s.frm.prog = .noImage → tget s.hp.spill z ≠ none → exec (.hostUnspill m) s = .next (if zoneBusy u z
      then failMbx m .ePlaceBusy 0 u else completeMbx m .sOk 0 [] (setSpill z none u)))) ∧
  (∀ (m : MbxId) (r : MbxReq) (s : State), InTurn s 0x0022 m r → let u := countStep m s
    let z := fieldOf r.params 0 2
    let hpa := fieldOf r.params 8 8
    let bad := hpa % 2 ^ 30 ≠ 0 ∨ 2 ^ 52 ≤ hpa ∨ 512 ≤ z ∨ z % 128 = 127 ∨
      overlaps (z * 2 ^ 30) (2 ^ 30) s.hp.winBase (s.hp.winSize * 2 ^ 28) = true ∨ 64 ≤ s.hp.spill.length ∨
      (s.hp.rate ≠ 0 ∧ s.hp.proto.getLsbD 1 = false)
    (s.frm.prog ≠ .noImage → exec (.hostSpill m) s = .next (failMbx m .eState 0 u)) ∧
    (s.frm.prog = .noImage → bad → exec (.hostSpill m) s = .next (failMbx m .eSpill 0 u)) ∧
    (s.frm.prog = .noImage → ¬ bad → exec (.hostSpill m) s = .next (if zoneBusy u z then failMbx m .ePlaceBusy 0 u
      else completeMbx m .sOk 0 [] (setSpill z (some hpa) u)))) ∧
  (∀ (m : MbxId) (r : MbxReq) (s : State), InTurn s 0x0024 m r → let u := countStep m s
    let tenant := reqTenant u m (fieldOf r.params 18 2)
    let chk := bindCheck u none (fieldOf r.params 0 8) (fieldOf r.params 8 8) (fieldOf r.params 16 1) (fieldOf r.params 17 1)
    (4096 ≤ tenant → exec (.regionBind m) s = .next (failMbx m .eRegion 4 u)) ∧
    (tenant < 4096 →
      (∀ st d, chk = some (st, d) → exec (.regionBind m) s = .next (failMbx m st d u)) ∧
      (chk = none → freeRegion u = none → exec (.regionBind m) s = .next (failMbx m .eRegion 8 u)) ∧
      (∀ i, chk = none → freeRegion u = some i → let v := u.modRegion i fun e =>
          { bound := true, base := fieldOf r.params 0 8, size := fieldOf r.params 8 8, mode := fieldOf r.params 16 1,
            access := BitVec.ofNat 5 (fieldOf r.params 17 1), gen := e.gen, tenant := tenant }
        exec (.regionBind m) s = .next (completeMbx m .sOk 0 (leBytes 4 (handleOf v i)) v)))) ∧
  (∀ (m : MbxId) (us : Nat) (r : MbxReq) (s : State), let u := countStep m s
    let h := fieldOf r.params 0 4
    let chk := bindCheck u (some (h % 2 ^ 19)) (fieldOf r.params 8 8) (fieldOf r.params 16 8) (fieldOf r.params 24 1)
      (fieldOf r.params 25 1)
    (InTurn s 0x0025 m r → ∀ st d, (regionRefusal u m h us = some (st, d) ∨
      (regionRefusal u m h us = none ∧ chk = some (st, d))) → exec (.regionRebind m us) s = .next (failMbx m st d u)) ∧
    (InTurn s 0x0025 m r → regionRefusal u m h us = none → chk = none → exec (.regionRebind m us) s =
      .next (if handleInFlight u h then u.modMbx m fun b => { b with started := true } else finishRebind m r u)) ∧
    (InTurn s 0x0026 m r → regionRefusal u m h us = none → exec (.regionFree m us) s =
      .next (if handleInFlight u h then u.modMbx m fun b => { b with started := true } else finishFree m r u)) ∧
    (InTurn s 0x0026 m r → ∀ st d, regionRefusal u m h us = some (st, d) →
      exec (.regionFree m us) s = .next (failMbx m st d u)) ∧
    (startedReq s 0x0025 m = some r → exec (.regionRebindDone m) s =
      .next (if handleInFlight s h then s else finishRebind m r s)) ∧
    (startedReq s 0x0025 m = none → startedReq s 0x0026 m = some r → exec (.regionRebindDone m) s =
      .next (if handleInFlight s h then s else finishFree m r s)) ∧
    (startedReq s 0x0025 m = none → startedReq s 0x0026 m = none → exec (.regionRebindDone m) s = .next s)) ∧
  (∀ (m : MbxId) (r : MbxReq) (s : State), InTurn s 0x0030 m r → let u := countStep m s
    let p := fieldOf r.params 0 2
    let t := fieldOf r.params 2 2 % 4096
    let lo := fieldOf r.params 4 4
    let hi := fieldOf r.params 8 4
    let bad := 4095 < p ∨ 0xFFFFF < lo ∨ 0xFFFFF < hi ∨
      (s.bob.queue.any fun e => lo ≤ e.1 && e.1 ≤ hi && e.2.cls != .unused && e.2.tenant != t) = true
    (bad → exec (.queuePage m) s = .next (failMbx m .eQueue 0 u)) ∧
    (¬ bad → exec (.queuePage m) s = .next (completeMbx m .sOk 0 [] (u.modPage p fun _ =>
      if hi < lo then {} else { valid := true, first := lo, last := hi, tenant := t })))) ∧
  (∀ (m : MbxId) (r : MbxReq) (s : State), classOf (fieldOf r.params 8 1) = none → let u := countStep m s
    let st := if foreignNamed u m r.params then Status.ePermission else .eQueue
    (InTurn s 0x0031 m r → exec (.queueCreate m) s = .next (failMbx m st 0 u)) ∧
    (InTurn s 0x0032 m r → exec (.queueRebind m) s = .next (failMbx m st 0 u))) ∧
  (∀ (m : MbxId) (r : MbxReq) (c : QClass) (s : State), classOf (fieldOf r.params 8 1) = some c → let u := countStep m s
    let q := fieldOf r.params 0 4
    let d := descriptorOf c (reqTenant u m (fieldOf r.params 12 2)) r.params
    let old := u.queueAt q
    let chk := fun taken => queueCheck u m q (fieldOf r.params 11 1) (fieldOf r.params 14 1) taken d
    (InTurn s 0x0031 m r →
      (∀ st n, chk (old.cls != .unused) = some (st, n) → exec (.queueCreate m) s = .next (failMbx m st n u)) ∧
      (chk (old.cls != .unused) = none →
        exec (.queueCreate m) s = .next (completeMbx m .sOk 0 [] (freshRing q (u.modQueue q fun _ => d))))) ∧
    (InTurn s 0x0032 m r →
      (∀ st n, chk (old.cls != c || old.tenant != d.tenant) = some (st, n) →
        exec (.queueRebind m) s = .next (failMbx m st n u)) ∧
      (chk (old.cls != c || old.tenant != d.tenant) = none → exec (.queueRebind m) s =
        .next (completeMbx m .sOk 0 (leBytes 1 (wrapInc 8 old.epoch)) (freshRing q (u.modQueue q fun _ => { old with
          prio := d.prio, weight := d.weight, log2 := d.log2, ringRegion := d.ringRegion, link := d.link,
          ringOff := d.ringOff, epoch := wrapInc 8 old.epoch, head := 0, tail := 0, peerTail := 0, credit := 0,
          headRung := false })))))) ∧
  (∀ (m : MbxId) (r : MbxReq) (s : State), let u := countStep m s
    let q := fieldOf r.params 0 4
    (InTurn s 0x0033 m r →
      (otherQueue u m q = true → exec (.queueDestroy m) s = .next (failMbx m .ePermission 0 u)) ∧
      (otherQueue u m q = false → ((u.queueAt q).cls = .unused ∨ linkedTo u q = true) →
        exec (.queueDestroy m) s = .next (failMbx m .eQueue 0 u)) ∧
      (otherQueue u m q = false → (u.queueAt q).cls ≠ .unused → linkedTo u q = false →
        let v := u.modQueue q fun d => { d with enabled := false }
        exec (.queueDestroy m) s = .next (if (v.queueAt q).inflight = 0
          then completeMbx m .sOk 0 [] (v.modQueue q fun _ => {}) else v.modMbx m fun b => { b with started := true }))) ∧
    (startedReq s 0x0033 m = some r → exec (.queueDestroyDone m) s =
      .next (if (s.queueAt q).inflight = 0 then completeMbx m .sOk 0 [] (s.modQueue q fun _ => {}) else s)) ∧
    (startedReq s 0x0033 m = none → exec (.queueDestroyDone m) s = .next s))

/-- For a command in turn, not cancelled and admitted, on the state u after its step is counted. frame.load ends with
E_STATE while a program runs or waits to start, with the status of a refused region, with the status of a failed read,
and else is checkImage of the bytes read: with a flaw it ends with the flaw's status, index and information
(imageRefused), and without one it keeps the image and ends S_OK with its tag. frame.start ends with E_ROLE at a
device that is no whorl, with E_STATE where startRefused holds, and else S_OK with the start announced. frame.preempt
ends with E_COMMAND for a mode other than 1 and 2, with E_ROLE at no whorl, with E_STATE with none running, and else
S_OK with the stop asked and the next tick answered. frame.unload ends with E_STATE unless an image is loaded and
neither runs nor waits, and else S_OK with the image gone. plan.load ends with the status of a refused region, a
failed read or a flaw, and else S_OK with the plan loaded and its tag answered. plan.accept ends with E_PLAN_FORMAT
with no plan loaded or another tag, with E_STATE where it would form a domain while a program is active, and else is
accepted at once or, while a strand is DISCOVERING, waits. (rests on R57, R58, R64, R199, R243, R308, R311) -/
def Obligations.FrameAndPlanCommandsOfMailboxes : Prop :=
  (∀ (m : MbxId) (r : MbxReq) (s : State), InTurn s 0x0040 m r → let u := countStep m s
    let h := fieldOf r.params 0 4
    let n := fieldOf r.params 4 4
    let o := fieldOf r.params 8 8
    let t := fieldOf r.params 16 2
    let rd := flyerRead (regionAddr u h o) n u
    let flaw := imageFlaw (rd.s.sec.signedFrames.contains t) rd.s.pkg.pkgCap.toNat rd.s.fab.deviceId rd.s.fab.tables.resvs
      (readImage t rd.bytes) rd.bytes n
    (programHeld u = true → exec (.frameLoad m) s = .next (failMbx m .eState 0 u)) ∧
    (programHeld u = false → ∀ st d, checkOperands u (anyTenant u h) [{ num := 1, handle := h, off := o, len := n }] = some (st, d) →
      exec (.frameLoad m) s = .next (failMbx m st d u)) ∧
    (programHeld u = false → checkOperands u (anyTenant u h) [{ num := 1, handle := h, off := o, len := n }] = none →
      ∀ st, rd.err = some st → exec (.frameLoad m) s = .next (failMbx m st 0 rd.s)) ∧
    (programHeld u = false → checkOperands u (anyTenant u h) [{ num := 1, handle := h, off := o, len := n }] = none → rd.err = none →
      (∀ st i f, flaw = some (st, i, f) → exec (.frameLoad m) s = .next (imageRefused m st i f rd.s)) ∧
      (flaw = none → exec (.frameLoad m) s = .next (completeMbx m .sOk 0
        (leBytes 8 (readImage t rd.bytes).tag ++ leBytes 8 (Config.freeNat rd.s.free))
        (keepImage (readImage t rd.bytes) rd.s.drawFree))))) ∧
  (∀ (m : MbxId) (r : MbxReq) (s : State), InTurn s 0x0041 m r → let u := countStep m s
    let tag := fieldOf r.params 0 8
    let n0 := fieldOf r.params 8 6
    (s.frm.role ≠ .whorl → exec (.frameStart m) s = .next (failMbx m .eRole 0 u)) ∧
    (s.frm.role = .whorl → (n0 < s.frm.number + 4 ∨ s.frm.wStart ≠ none ∨ s.frm.wRunning ≠ none ∨
        ((fieldOf r.params 16 1).testBit 0 = true ∧ s.frm.suspended.map (·.2) ≠ some tag)) →
      exec (.frameStart m) s = .next (failMbx m .eState 0 u)) ∧
    (s.frm.role = .whorl → s.frm.number + 4 ≤ n0 → s.frm.wStart = none → s.frm.wRunning = none →
      ((fieldOf r.params 16 1).testBit 0 = true → s.frm.suspended.map (·.2) = some tag) →
      exec (.frameStart m) s = .next (completeMbx m .sOk 0 [] (u.modFrm fun f =>
        { f with wStart := some { n0 := n0, tag := tag, resume := (fieldOf r.params 16 1).testBit 0 },
                 wResume := (fieldOf r.params 16 1).testBit 0 })))) ∧
  (∀ (m : MbxId) (r : MbxReq) (s : State), InTurn s 0x0042 m r → let u := countStep m s
    let mode := fieldOf r.params 0 1
    (mode ≠ 1 → mode ≠ 2 → exec (.framePreempt m) s = .next (failMbx m .eCommand 0x10 u)) ∧
    ((mode = 1 ∨ mode = 2) → s.frm.role ≠ .whorl → exec (.framePreempt m) s = .next (failMbx m .eRole 0 u)) ∧
    ((mode = 1 ∨ mode = 2) → s.frm.role = .whorl → s.frm.wRunning ≠ none → exec (.framePreempt m) s = .next (completeMbx m .sOk 0
      (leBytes 8 (lastTick u + 1)) (u.modFrm fun f => { f with wStop := some mode }))) ∧
    ((mode = 1 ∨ mode = 2) → s.frm.role = .whorl → s.frm.wRunning = none → exec (.framePreempt m) s = .next (failMbx m .eState 0 u))) ∧
  (∀ (m : MbxId) (r : MbxReq) (s : State), InTurn s 0x0043 m r → let u := countStep m s
    (s.frm.prog = .loaded → exec (.frameUnload m) s = .next (completeMbx m .sOk 0 [] (u.modFrm fun f =>
      { f with image := none, imageTag := 0, prog := .noImage, index := 0, suspended := none }))) ∧
    (s.frm.prog ≠ .loaded → exec (.frameUnload m) s = .next (failMbx m .eState 0 u))) ∧
  (∀ (m : MbxId) (r : MbxReq) (s : State), InTurn s 0x0050 m r → let u := countStep m s
    let h := fieldOf r.params 0 4
    let n := fieldOf r.params 4 4
    let o := fieldOf r.params 8 8
    let rd := flyerRead (regionAddr u h o) n u
    let chk := checkOperands u (anyTenant u h) [{ num := 1, handle := h, off := o, len := n }]
    (∀ st d, chk = some (st, d) → exec (.planLoad m) s = .next (failMbx m st d u)) ∧
    (∀ st, chk = none → (rd.err = some st ∨ (rd.err = none ∧ planFlaw rd.bytes n = some st)) →
      exec (.planLoad m) s = .next (failMbx m st 0 rd.s)) ∧
    (chk = none → rd.err = none → planFlaw rd.bytes n = none → exec (.planLoad m) s = .next (completeMbx m .sOk 0 (leBytes 8 (readPlan rd.bytes).tag)
      (rd.s.modTop fun t => { t with loaded := some (readPlan rd.bytes) })))) ∧
  (∀ (m : MbxId) (r : MbxReq) (s : State), InTurn s 0x0051 m r → let u := countStep m s
    (s.top.loaded = none → exec (.planAccept m) s = .next (failMbx m .ePlanFormat 0 u)) ∧
    (∀ p, s.top.loaded = some p →
      (fieldOf r.params 0 8 ≠ p.tag → exec (.planAccept m) s = .next (failMbx m .ePlanFormat 0 u)) ∧
      (fieldOf r.params 0 8 = p.tag → isRevision u p = false → programActive u = true →
        exec (.planAccept m) s = .next (failMbx m .eState 0 u)) ∧
      (fieldOf r.params 0 8 = p.tag → (isRevision u p = true ∨ programActive u = false) → exec (.planAccept m) s =
        .next (if discovering u then u.modTop fun t => { t with accepting := some m.val } else finishAccept m p u))))

/-- For a command in turn, not cancelled and admitted, on the state u after its step is counted. snapshot.take waits
while a snapshot job is under way; with none it ends with E_FLASH on read-only flash and E_FLASH_FULL where no room
can be made, the failure shown, and else holds the job, its mailbox waiting. The end of the copying of a snapshot
makes every snapshot complete, names the last, ends it, counts what was written, clears the worst health, sets an
automatic one's interval, and answers; with no job copying it changes nothing. snapshot.restore of a local identifier
ends with E_SNAPSHOT_ABSENT, E_STATE, E_NUMGEN_MISMATCH or E_SNAPSHOT_CORRUPT where the conditions name it, the
failure shown, and else restores rows, data and state and ends S_OK with the size; a generation of this device without
a copy is absent, and one of another device is restoreGen. buddy.set, with none waiting, of 0xFFFF releases the buddy
and ends S_OK, of the device itself ends with E_STATE, of one without a route with E_UNREACHABLE, and else asks it and
waits. fail.feed ends with E_COMMAND for a zero field, E_FLASH on read-only flash, and else sets the feed and interval
and answers it. log.read of a frame not held ends with E_LOG_RANGE; to the host cache it ends with E_HOST_LINK without
that path, and else writes the records and ends S_OK; to a region it ends with the handle's reason, E_BOUNDS where no
record fits, the failed write's status, and else S_OK. fw.update ends with E_FLASH on read-only flash, fails where its
region is refused or unread, and else is fwInstall. tenant.policy ends with E_STATE with an image of the tenant
loaded, with E_FLASH on read-only flash, and else keeps the list. debug.unlock of phase 0 in READY without an image
issues a challenge and ends S_OK, else E_STATE; of phase 1 it spends the challenge and triggers a PACKAGE reset with
the unlock for a good response, and counts a failure and ends with E_DEBUG_DENIED for another. A challenge's expiry
forgets it alone. (rests on R239, R373, R376, R377, R378, R380, R382, R384, R397, R403, R404) -/
def Obligations.ResilienceAndSecurityCommandsOfMailboxes : Prop :=
  (∀ (m : MbxId) (r : MbxReq) (s : State), InTurn s 0x0080 m r → s.res.job = none → let u := countStep m s
    let full := (fieldOf r.params 0 2).testBit 0
    let room := makeRoom (extentBytes (snapExtents u full)) u.res.snaps
    (s.res.flashRo = true → exec (.snapshotTake m) s = .next (failMbx m .eFlash 0 (snapFailed u))) ∧
    (s.res.flashRo = false → room = none → exec (.snapshotTake m) s = .next (failMbx m .eFlashFull 0 (snapFailed u))) ∧
    (∀ xs, s.res.flashRo = false → room = some xs →
      let j : SnapJob := { full := full, label := fieldOf r.params 8 8, auto := false, mbx := some m.val, asked := noProgram u }
      exec (.snapshotTake m) s = .next
        ((u.modRes fun x => { x with snaps := xs, job := some j }).modMbx m fun b => { b with started := true }))) ∧
  (∀ (m : MbxId) (s : State), s.res.job ≠ none → exec (.snapshotTake m) s = .next s) ∧
  (∀ (ms : Nat) (j : SnapJob) (id : Nat) (s : State), s.res.job = some j → j.copying = some id →
    let size := ((s.res.snaps.find? fun x => !x.complete).map (·.size)).getD 0
    let u := s.modRes fun r => { r with
      snaps := r.snaps.map (fun x => { x with complete := true }), snapLast := id, job := none, written := r.written + size,
      healthMax := r.health, lastAutoMs := if j.auto then some ms else r.lastAutoMs }
    let v := if j.auto then u.modRes fun r => { r with interval := snapInterval u } else u
    (j.mbx = none → exec (.snapshotCopyDone ms) s = .next v) ∧
    (∀ m, j.mbx = some m →
      exec (.snapshotCopyDone ms) s = .next (completeMbx m .sOk 0 (leBytes 8 id ++ leBytes 8 size) v))) ∧
  (∀ (ms : Nat) (s : State), s.res.job.bind (·.copying) = none → exec (.snapshotCopyDone ms) s = .next s) ∧
  (∀ (m : MbxId) (ok : Bool) (g : Option Generation) (r : MbxReq) (s : State), InTurn s 0x0081 m r → let u := countStep m s
    let id := fieldOf r.params 0 8
    let held := s.res.snaps.find? fun x => x.complete && x.id == id
    (id.testBit 63 = true → exec (.snapshotRestore m ok g) s = .next (if id.testBit 62 then failRestore m .eSnapshotAbsent u
      else restoreGen m (bitsOf id 61 48) (bitsOf id 47 0) g u)) ∧
    (id.testBit 63 = false → held = none →
      exec (.snapshotRestore m ok g) s = .next (failMbx m .eSnapshotAbsent 0 (snapFailed u))) ∧
    (∀ x, id.testBit 63 = false → held = some x →
      ((restorable u x.tag = false ∨ x.fwMajor ≠ s.fly.fwMajor) →
        exec (.snapshotRestore m ok g) s = .next (failMbx m .eState 0 (snapFailed u))) ∧
      (restorable u x.tag = true → x.fwMajor = s.fly.fwMajor →
        (x.numgen ≠ bitsOf s.pkg.pkgCap.toNat 23 20 →
          exec (.snapshotRestore m ok g) s = .next (failMbx m .eNumgenMismatch 0 (snapFailed u))) ∧
        (x.numgen = bitsOf s.pkg.pkgCap.toNat 23 20 → ok = false →
          exec (.snapshotRestore m ok g) s = .next (failMbx m .eSnapshotCorrupt 0 (snapFailed u))) ∧
        (x.numgen = bitsOf s.pkg.pkgCap.toNat 23 20 → ok = true → exec (.snapshotRestore m ok g) s =
          .next (completeMbx m .sOk 0 (leBytes 8 x.size) (restoreState x (restoreData x (endRows .ePreempted u)))))))) ∧
  (∀ (m : MbxId) (r : MbxReq) (s : State), InTurn s 0x0082 m r → s.res.buddyWait = none → let u := countStep m s
    let b := fieldOf r.params 0 2
    (b = 0xFFFF → exec (.buddySet m) s = .next (completeMbx m .sOk 0 [] (releaseBuddy b u))) ∧
    (b ≠ 0xFFFF → isSelf u b = true → exec (.buddySet m) s = .next (failMbx m .eState 0 u)) ∧
    (b ≠ 0xFFFF → isSelf u b = false → (2 ^ 14 ≤ b ∨ hasRoute u b = false) →
      exec (.buddySet m) s = .next (failMbx m .eUnreachable 0 u)) ∧
    (b < 2 ^ 14 → isSelf u b = false → hasRoute u b = true → exec (.buddySet m) s = .next
      (((sendBuddy .flyer b 0 (releaseBuddy b u)).modRes fun x => { x with buddyWait := some (m.val, b) }).modMbx m
        fun x => { x with started := true }))) ∧
  (∀ (m : MbxId) (s : State), s.res.buddyWait ≠ none → exec (.buddySet m) s = .next s) ∧
  (∀ (m : MbxId) (r : MbxReq) (s : State), InTurn s 0x0083 m r → let u := countStep m s
    let mtbf := fieldOf r.params 0 8
    let n := fieldOf r.params 8 2
    (mtbf = 0 → exec (.failFeed m) s = .next (failMbx m .eCommand 0x10 u)) ∧
    (mtbf ≠ 0 → n = 0 → exec (.failFeed m) s = .next (failMbx m .eCommand 0x18 u)) ∧
    (mtbf ≠ 0 → n ≠ 0 → s.res.flashRo = true → exec (.failFeed m) s = .next (failMbx m .eFlash 0 u)) ∧
    (mtbf ≠ 0 → n ≠ 0 → s.res.flashRo = false → let v := u.modRes fun x => { x with feed := some (mtbf, n) }
      exec (.failFeed m) s = .next (completeMbx m .sOk 0 (leBytes 8 (snapInterval v))
        (v.modRes fun x => { x with interval := snapInterval v })))) ∧
  (∀ (m : MbxId) (r : MbxReq) (s : State), InTurn s 0x0084 m r → let u := countStep m s
    let count := fieldOf r.params 8 4
    let h := fieldOf r.params 12 4
    let off := fieldOf r.params 16 8
    let held := s.res.log.dropWhile fun x => x.frame != fieldOf r.params 0 8
    (held = [] → exec (.logRead m) s = .next (failMbx m .eLogRange 0 u)) ∧
    (held ≠ [] → h = 0 → cacheOn u = false → exec (.logRead m) s = .next (failMbx m .eHostLink 0 u)) ∧
    (held ≠ [] → h = 0 → cacheOn u = true → exec (.logRead m) s = .next (completeMbx m .sOk 0 (logReply (held.take count))
      (u.emit (.cacheReq 5 off ((held.take count).flatMap (·.bytes)))))) ∧
    (held ≠ [] → h ≠ 0 → let why := handleReason u h (anyTenant u h) accWrite
      let rs := logTake count (((handleRegion u h).map (·.size)).getD 0 - off) held
      let w := flyerWrite (regionAddr u h off) (rs.flatMap (·.bytes)) u
      (why ≠ 0 → exec (.logRead m) s = .next (failMbx m .eRegion (256 + why) u)) ∧
      (why = 0 → count ≠ 0 → rs = [] → exec (.logRead m) s = .next (failMbx m .eBounds 1 u)) ∧
      (why = 0 → (count = 0 ∨ rs ≠ []) →
        (∀ st, w.err = some st → exec (.logRead m) s = .next (failMbx m st 0 w.s)) ∧
        (w.err = none → exec (.logRead m) s = .next (completeMbx m .sOk 0 (logReply rs) w.s))))) ∧
  (∀ (m : MbxId) (r : MbxReq) (s : State), InTurn s 0x0090 m r → let u := countStep m s
    let h := fieldOf r.params 0 4
    let n := fieldOf r.params 4 4
    let o := fieldOf r.params 8 8
    let rd := flyerRead (regionAddr u h o) n u
    let chk := checkOperands u (anyTenant u h) [{ num := 1, handle := h, off := o, len := n }]
    (s.res.flashRo = true → exec (.fwUpdate m) s = .next (failMbx m .eFlash 0 u)) ∧
    (∀ st d, s.res.flashRo = false → chk = some (st, d) → exec (.fwUpdate m) s = .next (fwUpdateFail m st d u)) ∧
    (∀ st, s.res.flashRo = false → chk = none → rd.err = some st →
      exec (.fwUpdate m) s = .next (fwUpdateFail m st 0 rd.s)) ∧
    (s.res.flashRo = false → chk = none → rd.err = none → exec (.fwUpdate m) s = .next (fwInstall m rd.bytes rd.s))) ∧
  (∀ (m : MbxId) (r : MbxReq) (s : State), InTurn s 0x0092 m r → let u := countStep m s
    let x := fieldOf r.params 0 2
    (tenantLoaded u x = true → exec (.tenantPolicy m) s = .next (failMbx m .eState 0 u)) ∧
    (tenantLoaded u x = false → s.res.flashRo = true → exec (.tenantPolicy m) s = .next (failMbx m .eFlash 0 u)) ∧
    (tenantLoaded u x = false → s.res.flashRo = false → exec (.tenantPolicy m) s =
      .next (completeMbx m .sOk 0 [] (u.modSec fun y => { y with
        signedFrames := setSigned x ((fieldOf r.params 2 2).testBit 0) y.signedFrames })))) ∧
  (∀ (m : MbxId) (r : MbxReq) (s : State), InTurn s 0x0093 m r → let u := countStep m s
    let good := responseGood u (sliceBytes r.params 8 512)
    let v := u.modSec fun x => { x with challenge := none, challengeStale := false }
    (fieldOf r.params 0 1 = 0 → s.pkg.devState = .ready → s.frm.prog = .noImage →
      exec (.debugUnlockChallenge m) s = .next (completeMbx m .sOk 0 (challengeBytes u)
        (u.drawFree.modSec fun x => { x with challenge := some (challengeBytes u), challengeStale := false }))) ∧
    (fieldOf r.params 0 1 = 0 → (s.pkg.devState ≠ .ready ∨ s.frm.prog ≠ .noImage) →
      exec (.debugUnlockChallenge m) s = .next (failMbx m .eState 0 u)) ∧
    (fieldOf r.params 0 1 = 1 → good = true → exec (.debugUnlockResponse m) s = .next
      (triggerReset .package .debugUnlock (completeMbx m .sOk 0 [] (v.modSec fun x => { x with unlockNext := true })))) ∧
    (fieldOf r.params 0 1 = 1 → good = false → exec (.debugUnlockResponse m) s = .next
      (failMbx m .eDebugDenied 0 (v.modSec fun x => { x with debugDenied := true, failed := satInc 15 x.failed }))) ∧
    (fieldOf r.params 0 1 ≠ 0 → fieldOf r.params 0 1 ≠ 1 →
      exec (.debugUnlockResponse m) s = .next (failMbx m .eCommand 0x10 u))) ∧
  (∀ s : State, exec .debugChallengeExpiry s = .next (s.modSec fun x => { x with challenge := none, challengeStale := false }))

/-- While BAR0 is decoded, a low word waits in its page and changes nothing else; while it is not, doorbell writes
change nothing. A doorbell with a cause to be ignored is counted and recorded with its page, queue and cause, and
changes nothing else. One without a cause moves a completion queue's head and marks it rung, or a request queue's tail
with the host's release over the new entries. A doorbell without a low word of its own uses the one that waits in the
page. Without a free tag, in OFF, in BOOT or in a COMPUTE reset a selection changes nothing, and where selectQueue
finds no queue nothing starts. Where it finds queue i and its head entry is readable, that entry is consumed under the
lowest free tag, and ends with the status of the check it fails, or waits to run with the host's release over its
inputs; one in an uncorrectable block is startBad. A ROW command whose head entry lies in an uncorrectable block ends
with E_DATA_ERROR, marked as a ring error, the head moved on; otherwise reading the entry changes nothing. (rests on
R185, R194, R195, R199, R201, R202, R203, R433) -/
def Obligations.DoorbellsAndCommandSelection : Prop :=
  (∀ (p : BitVec 12) (v : Word) (s : State), barUp s = true → exec (.doorbellLowWrite p v) s =
    .next (s.modBob fun b => { b with low := tput b.low p.toNat v.toNat })) ∧
  (∀ (p : BitVec 12) (v : Word) (lo : Option Word) (s : State), barUp s = false →
    exec (.doorbellLowWrite p v) s = .next s ∧ exec (.doorbell p lo v) s = .next s) ∧
  (∀ (p : BitVec 12) (lo hi : Word) (s : State), barUp s = true → doorbellCause s p.toNat lo.toNat hi.toNat ≠ 0 →
    exec (.doorbell p (some lo) hi) s = .next (s.modBob fun b => { b with
      dbErrors := wrapInc 32 b.dbErrors, dbPage := p.toNat, dbQueue := lo.toNat % 2 ^ 20,
      dbCause := doorbellCause s p.toNat lo.toNat hi.toNat, dbError := true })) ∧
  (∀ (p : BitVec 12) (lo hi : Word) (s : State), barUp s = true → doorbellCause s p.toNat lo.toNat hi.toNat = 0 →
    let n := lo.toNat % 2 ^ 20
    let q := s.queueAt n
    (q.cls = .completion → exec (.doorbell p (some lo) hi) s =
      .next (s.modQueue n fun q => { q with head := hi.toNat, headRung := true })) ∧
    (q.cls = .request → exec (.doorbell p (some lo) hi) s =
      .next (releaseEntries q q.tail ((hi.toNat + 2 ^ 32 - q.tail) % 2 ^ 32) (s.modQueue n fun q => { q with tail := hi.toNat })))) ∧
  (∀ (p : BitVec 12) (hi : Word) (s : State), barUp s = true → exec (.doorbell p none hi) s =
    .next (commitDoorbell p.toNat (tget s.bob.low p.toNat) hi.toNat s)) ∧
  (∀ s : State, (freeCommandTag s = none ∨ s.pkg.computeReset = true ∨ s.pkg.devState = .off ∨ s.pkg.devState = .boot) →
    exec .commandSelect s = .next s) ∧
  (∀ (tag : Nat) (u s : State), freeCommandTag s = some tag → commandsRun s = true →
    selectQueue ((tkeys s.bob.queue).filter (canStart s)) s = (none, u) → exec .commandSelect s = .next u) ∧
  (∀ (tag i : Nat) (u s : State), freeCommandTag s = some tag → commandsRun s = true →
    selectQueue ((tkeys s.bob.queue).filter (canStart s)) s = (some i, u) →
    (headBad u (u.queueAt i) = true → exec .commandSelect s = .next (startBad tag i u)) ∧
    (headBad u (u.queueAt i) = false → let e := headEntry u (u.queueAt i)
      let v := takeTag tag i e (consumeHead i u)
      (∀ st d, commandCheck v (u.queueAt i).tenant e = some (st, d) →
        exec .commandSelect s = .next (endCommand tag st 0 d v)) ∧
      (commandCheck v (u.queueAt i).tenant e = none →
        exec .commandSelect s = .next (hostReleases (operandRanges v e accRead) v)))) ∧
  (∀ (q : QueueId) (tag : Nat) (s : State), freeCommandTag s = some tag → commandsRun s = true →
    headReadable s (s.queueAt q) = true → headBad s (s.queueAt q) = true → Completes (.row q) s fun t =>
      (∃ c, t.tagAt tag = some c ∧ c.result = some .eDataError ∧ c.ringError = true) ∧
      (t.queueAt q).head = wrapInc 32 (s.queueAt q).head ∧ t.mem = s.mem) ∧
  (∀ (q : QueueId) (s : State), (freeCommandTag s = none ∨ commandsRun s = false ∨ headReadable s (s.queueAt q) = false ∨
    headBad s (s.queueAt q) = false) → exec (.row q) s = .next s)

/-- A command that is not runnable (it has not started, has ended, was sent, is of another opcode, or waits for its
inputs from the host) is left as it is. One that is runnable: NOP ends S_OK with value 0; COPY, FILL, PUT, PUT_REDUCE,
SIGNAL and GET are, within spillGate, copyCommand, the finishWrite of the repeated pattern, putCommand and getCommand;
FETCH_ADD and COMPARE_SWAP with a message number free issue their atomic within spillGate, and without one wait.
copyCommand ends with the status of a read that fails, which fails the frame, and else writes what it read, the bytes
that the two ranges share undefined; finishWrite ends with the status of the write that fails, which fails the frame
and leaves the range undefined, and else with S_OK and the number of bytes. With no spilled zone a FILL of bytes that
may be accessed puts byte i mod 8 of the pattern into byte i and changes no byte outside. The completion of a tag that
holds no command, whose command has not ended, or that is not the first ended of its completion queue, changes
nothing. Another one that writes no entry frees the tag, a discard counted; one that wrote no memory is written into
the ring where it has room and may be written, and else waits. (rests on R197, R198, R200, R207, R209, R297) -/
def Obligations.CommandsOfRequestQueues : Prop :=
  (∀ (t : TagId) (s : State),
    (runnable s t 0x00 = none → exec (.nop t) s = .next s) ∧ (runnable s t 0x01 = none → exec (.copy t) s = .next s) ∧
    (runnable s t 0x02 = none → exec (.fill t) s = .next s) ∧ (runnable s t 0x10 = none → exec (.put t) s = .next s) ∧
    (runnable s t 0x11 = none → exec (.get t) s = .next s) ∧ (runnable s t 0x12 = none → exec (.putReduce t) s = .next s) ∧
    (runnable s t 0x13 = none → exec (.fetchAdd t) s = .next s) ∧
    (runnable s t 0x14 = none → exec (.compareSwap t) s = .next s) ∧
    (runnable s t 0x15 = none → exec (.signal t) s = .next s)) ∧
  (∀ (t : TagId) (e : List Byte) (s : State),
    (runnable s t 0x00 = some e → exec (.nop t) s = .next (endCommand t .sOk 0 0 s)) ∧
    (runnable s t 0x01 = some e → exec (.copy t) s = .next (spillGate (.command t) (copyCommand t e) s)) ∧
    (runnable s t 0x02 = some e → exec (.fill t) s = .next (spillGate (.command t)
      (finishWrite t (regionAddr s (fieldOf e 0x10 4) (fieldOf e 0x18 8))
        ((List.range (fieldOf e 0x14 4)).map fun i => e.getD (0x20 + i % 8) 0)) s)) ∧
    (runnable s t 0x10 = some e → exec (.put t) s = .next (spillGate (.command t) (putCommand t e) s)) ∧
    (runnable s t 0x12 = some e → exec (.putReduce t) s = .next (spillGate (.command t) (putCommand t e) s)) ∧
    (runnable s t 0x15 = some e → exec (.signal t) s = .next (spillGate (.command t) (putCommand t e) s)) ∧
    (runnable s t 0x11 = some e → exec (.get t) s = .next (spillGate (.command t) (getCommand t e) s)) ∧
    (runnable s t 0x13 = some e → exec (.fetchAdd t) s = .next (if msgRoom s 1 then spillGate (.command t) (fun s =>
      issueAtomic (.command t) (commandUnit s t) 5 (fieldOf e 0x20 1) (fieldOf e 0x10 8) (fieldOf e 0x18 8) 0
        (markSent t s)) s else s)) ∧
    (runnable s t 0x14 = some e → exec (.compareSwap t) s = .next (if msgRoom s 1 then spillGate (.command t) (fun s =>
      issueAtomic (.command t) (commandUnit s t) 6 0 (fieldOf e 0x10 8) (fieldOf e 0x18 8) (fieldOf e 0x20 8)
        (markSent t s)) s else s))) ∧
  (∀ (t : TagId) (e : List Byte) (s : State), runnable s t 0x02 = some e → s.hp.spill = [] →
    let a := regionAddr s (fieldOf e 0x10 4) (fieldOf e 0x18 8)
    let n := fieldOf e 0x14 4
    accessRefused s a n = none → s.canonical → Completes (.fill t) s fun u =>
      (∀ i, i < n → readByte u (a + i) = e.getD (0x20 + i % 8) 0) ∧
      ∀ x, x < a ∨ a + n ≤ x → readByte u x = readByte s x) ∧
  (∀ (t : TagId) (e : List Byte) (s : State),
    let src := regionAddr s (fieldOf e 0x10 4) (fieldOf e 0x18 8)
    let dst := regionAddr s (fieldOf e 0x14 4) (fieldOf e 0x20 8)
    let n := fieldOf e 0x28 4
    let r := engineRead (.transfer 0 0) src n s
    (∀ st, r.err = some st → copyCommand t e s = endCommand t st 0 0 (failFrame st r.s)) ∧
    (r.err = none → copyCommand t e s = (if overlaps src n dst n
      then markUndef (max src dst) (min (src + n) (dst + n) - max src dst) (finishWrite t dst r.bytes r.s)
      else finishWrite t dst r.bytes r.s))) ∧
  (∀ (t : TagId) (a : Nat) (bs : List Byte) (s : State), let w := memWriteAs (.command t) a bs (noteWrote t (a, bs.length) s)
    (∀ st, w.err = some st → finishWrite t a bs s = endCommand t st 0 0 (failFrame st (markUndef a bs.length w.s))) ∧
    (w.err = none → finishWrite t a bs s = endCommand t .sOk bs.length 0 w.s)) ∧
  (∀ (t : TagId) (s : State), s.tagAt t = none → exec (.commandCompletion t) s = .next s) ∧
  (∀ (t : TagId) (c : Cmd) (s : State), s.tagAt t = some c → (c.result = none ∨ isNextEnded s t c = false) →
    exec (.commandCompletion t) s = .next s) ∧
  (∀ (t : TagId) (c : Cmd) (s : State), s.tagAt t = some c → c.result.isSome = true → isNextEnded s t c = true →
    (noEntry c = true → exec (.commandCompletion t) s = .next (freeCommand t c (countDiscard c s))) ∧
    (noEntry c = false → c.wrote = [] → let cq := s.queueAt (s.queueAt c.queue).link
      exec (.commandCompletion t) s = .next
        (if ringUsed cq < 2 ^ cq.log2 ∧ accessRefused s (entryAddr s cq cq.tail) 32 = none then writeCompletion t c s else s)))

/-- Unmasking a vector sends it where it is pending and may go; enabling MSI-X sends every one that is pending and may
go, in ascending order. A host access outside the window, or while CXL.mem traffic does not pass, changes nothing.
With a line of the window that may be accessed, a read that keeps no copy is answerRead of it; one that keeps a copy
is answerRead after its entry is set down, where it has one that is not being snooped or its set has room, and else it
waits and the set is evicted as far as it must be. answerRead of a line without a merging entry, a lost burst or an
uncorrectable error emits its bytes and changes nothing else; of an uncorrectable one it emits free bytes as poison,
and counts and shows it. A full host write leaves the line with its bytes, every other byte as it was, and an
acknowledgement last; a partial one is writeMasked of its bytes, and an acknowledgement. The answer to a snoop that
was sent takes in the data written back, frees the entry, and lets what waited go on; another one changes nothing. A
host snoop while CXL.cache traffic passes is answered from the agent's cache, or as a miss outside the spilled zones.
A spilled access fails with E_HOST_LINK without the CXL.cache path, arrives where the agent serves all of its lines,
and else waits and asks for them. The answer for a line that was asked for is spillFill. With BAR0 decoded the decoder
commits a size equal to the window's, and else sets its error. A write-back-invalidate is set down while traffic
passes, and its end evicts every line held. (rests on R142, R217, R218, R219, R220, R221, R222, R223, R224) -/
def Obligations.HostWindowAndSpillTraffic : Prop :=
  (∀ (v : BitVec 11) (s : State), exec (.msixUnmask (some v)) s =
    .next (sendPending v.toNat (s.modMsix v.toNat fun e => { e with unmasked := true }))) ∧
  (∀ s : State, exec (.msixUnmask none) s = .next (sendAllPending (tkeys s.hp.msix) (s.modHp fun h => { h with msixOn := true }))) ∧
  (∀ (hpa : Quad) (own keep : Bool) (mask : Quad) (d : List Byte) (s : State),
    (windowLine s hpa.toNat = none ∨ memTraffic s = false) →
    exec (.hostMemRead hpa keep own) s = .next s ∧ exec (.hostMemWrite hpa mask d) s = .next s) ∧
  (∀ (hpa : Quad) (own : Bool) (line : Nat) (s : State), windowLine s hpa.toNat = some line → memTraffic s = true →
    accessRefused s (64 * line) 64 = none →
    exec (.hostMemRead hpa false own) s = .next (answerRead line s) ∧
    (∀ f, tget s.hp.sf line = some f → f.snooped = false →
      exec (.hostMemRead hpa true own) s = .next (answerRead line (sfAdd line own s))) ∧
    (tget s.hp.sf line = none → (sfSet s line).length < 16 →
      exec (.hostMemRead hpa true own) s = .next (answerRead line (sfAdd line own s))) ∧
    (((∃ f, tget s.hp.sf line = some f ∧ f.snooped = true) ∨ (tget s.hp.sf line = none ∧ 16 ≤ (sfSet s line).length)) →
      exec (.hostMemRead hpa true own) s =
        .next (sfEvict line (s.modHp fun h => { h with sfWait := h.sfWait ++ [2 * line + bit own] })))) ∧
  (∀ (line : Nat) (s : State), s.hnk.wmb = [] → s.hnk.lostBursts = [] →
    (isUe s line = false → answerRead line s = s.emit (.hostData (readBytes s (64 * line) 64) false)) ∧
    (isUe s line = true → let t := answerRead line s
      t.out.getLast? = some (.hostData ((List.range 64).map (Config.freeByte s.free)) true) ∧ t.hp.poisonSent = true ∧
      t.hp.poisonHost = wrapInc 16 s.hp.poisonHost ∧ t.mem = s.mem)) ∧
  (∀ (hpa : Quad) (d : List Byte) (line : Nat) (s : State), windowLine s hpa.toNat = some line → memTraffic s = true →
    accessRefused s (64 * line) 64 = none → s.canonical → Completes (.hostMemWrite hpa (BitVec.allOnes 64) d) s fun t =>
      readBytes t (64 * line) 64 = fitBytes 64 d ∧ t.out.getLast? = some .hostDone ∧
      ∀ x, x < 64 * line ∨ 64 * line + 64 ≤ x → readByte t x = readByte s x) ∧
  (∀ (hpa mask : Quad) (d : List Byte) (line : Nat) (s : State), windowLine s hpa.toNat = some line → memTraffic s = true →
    accessRefused s (64 * line) 64 = none → mask.toNat ≠ 2 ^ 64 - 1 →
    exec (.hostMemWrite hpa mask d) s = .next ((writeMasked line mask.toNat d (List.range 64) s).emit .hostDone)) ∧
  (∀ (line : Nat) (d : Option (List Byte)) (s : State),
    ((snoopSent s line = false ∨ linkPasses s = false) → exec (.birsp line d) s = .next s) ∧
    (snoopSent s line = true → linkPasses s = true →
      let u := match d with
        | some bs => (memWrite (64 * line) (fitBytes 64 bs) s).s
        | none => s
      exec (.birsp line d) s = .next (flrServe (captureDue (sendSnoop
        (sfServe line (u.modHp fun h => { h with sf := tput h.sf line none }))))))) ∧
  (∀ (k : SnoopKind) (hpa : Quad) (s : State), (cacheTraffic s = false → exec (.hostSnoop k hpa) s = .next s) ∧
    (cacheTraffic s = true → exec (.hostSnoop k hpa) s = .next (match spillLine s hpa.toNat with
      | some line => snooped k line s
      | none => s.emit (.snoopResp 0 none)))) ∧
  (∀ (a : MemAccess) (s : State), (spillHpa s a.addr.toNat = none → exec (.spillAccess a) s = .next s) ∧
    (spillHpa s a.addr.toNat ≠ none →
      (cacheOn s = false → exec (.spillAccess a) s =
        .next (clientError a.client .eHostLink (s.modHp fun h => { h with spillErr := true }))) ∧
      (cacheOn s = true → accessServed s a = true → exec (.spillAccess a) s = .next (arrive false a s)) ∧
      (cacheOn s = true → accessServed s a = false → exec (.spillAccess a) s =
        .next (askWaiting [a] (s.modHp fun h => { h with spillWait := h.spillWait ++ [a] }))))) ∧
  (∀ (a : BitVec 40) (x : SpillAnswer) (l : AgentLine) (s : State), tget s.hp.agent (a.toNat / 64) = some l →
    exec (.spillFill a x) s = .next (if l.st = .wanted then spillFill (a.toNat / 64) l x s else s)) ∧
  (∀ (a : BitVec 40) (x : SpillAnswer) (s : State), tget s.hp.agent (a.toNat / 64) = none →
    exec (.spillFill a x) s = .next s) ∧
  (∀ (b z : Quad) (s : State), (barUp s = false → exec (.hdmDecoderCommit b z) s = .next s) ∧
    (barUp s = true → z.toNat = s.hp.winSize * 2 ^ 28 → exec (.hdmDecoderCommit b z) s =
      .next (s.modHp fun h => { h with decoder := true, db := b.toNat, decErr := false })) ∧
    (barUp s = true → z.toNat ≠ s.hp.winSize * 2 ^ 28 → exec (.hdmDecoderCommit b z) s =
      .next (s.modHp fun h => { h with decErr := true }))) ∧
  (∀ s : State, exec .cacheWbInv s = .next (if cacheTraffic s then s.modHp fun h => { h with wbinv := true } else s)) ∧
  (∀ s : State, (s.hp.wbinv = true → exec .cacheWbInvDone s = .next (agentFlush ((tkeys s.hp.agent).filter (agentHolds s))
      (s.modHp fun h => { h with wbinv := false }))) ∧
    (s.hp.wbinv = false → exec .cacheWbInvDone s = .next s))

/-- A link of a powered package that trains at a rate, width and flit mode that exist is linkTrained, which shows
them, at most at the rate that errors have left, with CXL.io alone in 68-byte mode and every protocol else, and no
recovery; another training changes nothing. A recovery of a link that is up and not in one is noted and counted, and
from the third within the hour the rate above the lowest is lowered for the next training; otherwise a recovery
changes nothing. A correctable error counts; before the sixty-fourth it changes neither the recovery nor the
resilience counts, and from the sixty-fourth it enters recovery and counts one level-2 action, unless the link is down
or in recovery already. D3hot is set, and at its end what is pending is sent. A Secure stream whose integrity check
fails is Insecure with its traffic held, the failure shown, one level-2 action counted and the other stream as it was;
a stream that is not Secure is left alone. (rests on R213, R214, R215, R225, R228, R229) -/
def Obligations.HostLinkAndItsErrors : Prop :=
  (∀ (r w f : Nat) (s : State), s.pkg.powered = true → 1 ≤ r → r ≤ 4 → (w = 4 ∨ w = 8 ∨ w = 15) → f ≤ 2 →
    (f ≠ 0 ∨ r ≤ 3) → exec (.hostLinkTrained r w f) s = .next (linkTrained r w f s)) ∧
  (∀ (r w f : Nat) (s : State), let t := linkTrained r w f s
    t.hp.rate = (s.hp.rateCap.map (min r)).getD r ∧ t.hp.width = w ∧ t.hp.flit = f ∧
    t.hp.proto = (if f = 0 then 1 else 7) ∧ t.hp.recovering = false ∧ t.mem = s.mem ∧ t.pkg = s.pkg) ∧
  (∀ (r w f : Nat) (s : State), (s.pkg.powered = false ∨ r = 0 ∨ 4 < r ∨ 2 < f ∨ (f = 0 ∧ 3 < r) ∨
    (w ≠ 4 ∧ w ≠ 8 ∧ w ≠ 15)) → exec (.hostLinkTrained r w f) s = .next s) ∧
  (∀ s : State, s.hp.rate ≠ 0 → s.hp.recovering = false → Completes .linkRecovery s fun t =>
    t.hp.recovering = true ∧ winCount t 19 1 0 = winCount s 19 1 0 + 1 ∧ t.pkg = s.pkg ∧ t.mem = s.mem ∧
    t.hp.rateCap = (if 2 ≤ winCount s 19 1 0 ∧ 1 < s.hp.rate then some (s.hp.rate - 1) else s.hp.rateCap)) ∧
  (∀ s : State, (s.hp.rate = 0 ∨ s.hp.recovering = true) → exec .linkRecovery s = .next s) ∧
  (∀ s : State, Completes .linkCorrectableError s fun t => winCount t 19 0 0 = winCount s 19 0 0 + 1 ∧ t.pkg = s.pkg ∧
    (winCount s 19 0 0 < 63 → t.hp.recovering = s.hp.recovering ∧ t.res = s.res) ∧
    (63 ≤ winCount s 19 0 0 → s.hp.rate ≠ 0 → t.hp.recovering = true ∧ t.res.level2 = wrapInc 16 s.res.level2)) ∧
  (∀ s : State, exec .d3hotEntry s = .next (s.modHp fun h => { h with d3 := true })) ∧
  (∀ s : State, exec .d3hotExit s = .next (sendAllPending (tkeys s.hp.msix) (s.modHp fun h => { h with d3 := false }))) ∧
  (∀ s : State, (s.hp.ideCm = .secure → Completes (.ideIntegrityFail true) s fun t =>
      t.hp.ideCm = .insecure ∧ t.hp.heldCm = true ∧ t.hp.ideFail = true ∧ t.hp.ideIo = s.hp.ideIo ∧
      t.res.level2 = wrapInc 16 s.res.level2 ∧ t.pkg = s.pkg) ∧
    (s.hp.ideIo = .secure → Completes (.ideIntegrityFail false) s fun t =>
      t.hp.ideIo = .insecure ∧ t.hp.heldIo = true ∧ t.hp.ideFail = true ∧ t.hp.ideCm = s.hp.ideCm ∧
      t.res.level2 = wrapInc 16 s.res.level2 ∧ t.pkg = s.pkg) ∧
    (s.hp.ideCm ≠ .secure → exec (.ideIntegrityFail true) s = .next s) ∧
    (s.hp.ideIo ≠ .secure → exec (.ideIntegrityFail false) s = .next s))

/-- While the DOE instance is not up, every message changes nothing; so does a request longer than 64 KiB. While it is
up: discovery answers the protocol of its index, and the table read answers the window's size, 300 ns and 100 GB/s. A
version request begins the connection anew and is answered; capabilities and algorithms are answered after it, and get
an error before; the algorithms are then negotiated. Before that, digests, certificates, challenges, measurements and
key exchange get an error. After it, digests are answered for slot 0; a certificate request is answered with its part
of the chain and the rest's length, or an error for another slot or an offset past the chain; a challenge is answered
signed with the chain's digest, free bytes and the digest of the measurements, or an error for another slot;
measurements are answered signed for an operation that exists; a key exchange opens a session whose identifier's lower
half is the requester's and answers it signed, or gets an error with two open. Finish of a session that is not
established establishes it or, where its check fails, removes it with an error; of an established one or an unknown
one it gets an error. Heartbeats, key updates, the end of the session and stream keys of an established session have
their effect and are answered; of a session not established, or unknown, they get an error. New keys make a stream
Secure in the mode selected, unless it is Insecure. (rests on R225, R226, R389, R398, R399) The layouts of the
responses are the model's own (log entry 5). -/
def Obligations.SecurityMessages : Prop :=
  (∀ (i : Byte) (req : List Byte) (w : Word) (ok cm : Bool) (op : IdeKmOp) (s : State), doeUp s = false →
    exec (.doeDiscovery i) s = .next s ∧ exec .cdatRead s = .next s ∧ exec (.finish w ok) s = .next s ∧
    exec (.heartbeat w) s = .next s ∧ exec (.keyUpdate w) s = .next s ∧ exec (.endSession w) s = .next s ∧
    exec (.ideKm w cm op) s = .next s) ∧
  (∀ (req : List Byte) (s : State), doeTakes s req = false →
    exec (.getVersion req) s = .next s ∧ exec (.getCapabilities req) s = .next s ∧
    exec (.negotiateAlgorithms req) s = .next s ∧ exec (.getDigests req) s = .next s ∧
    exec (.getCertificate req) s = .next s ∧ exec (.challenge req) s = .next s ∧ exec (.getMeasurements req) s = .next s ∧
    exec (.keyExchange req) s = .next s) ∧
  (∀ (i : Byte) (s : State), doeUp s = true →
    exec (.doeDiscovery i) s = .next (let p := doeProtocols.getD i.toNat (0, 0)
      s.emit (.doe (leBytes 2 p.1 ++ leBytes 1 p.2 ++ leBytes 1 (if i.toNat + 1 < 4 then i.toNat + 1 else 0)))) ∧
    exec .cdatRead s = .next (s.emit (.doe
      (leBytes 8 (s.hp.winSize * 2 ^ 28) ++ leBytes 4 300 ++ leBytes 4 300 ++ leBytes 4 100 ++ leBytes 4 100)))) ∧
  (∀ (req : List Byte) (s : State), doeTakes s req = true →
    exec (.getVersion req) s =
      .next ((s.modHp fun h => { h with versioned := true, negotiated := false }).emit (.spdm 0x04 (leBytes 2 0x1300) false)) ∧
    (s.hp.versioned = true → exec (.getCapabilities req) s = .next (s.emit (.spdm 0x61 (leBytes 4 0x62D6) false)) ∧
      exec (.negotiateAlgorithms req) s = .next ((s.modHp fun h => { h with negotiated := true }).emit
        (.spdm 0x63 (leBytes 4 0x40 ++ leBytes 4 0x4 ++ leBytes 4 0x10 ++ leBytes 4 0x2 ++ leBytes 4 0x8) false))) ∧
    (s.hp.versioned = false → exec (.getCapabilities req) s = .next (spdmError 0x04 s) ∧
      exec (.negotiateAlgorithms req) s = .next (spdmError 0x04 s)) ∧
    (s.hp.negotiated = false → exec (.getDigests req) s = .next (spdmError 0x04 s) ∧
      exec (.getCertificate req) s = .next (spdmError 0x04 s) ∧ exec (.challenge req) s = .next (spdmError 0x04 s) ∧
      exec (.getMeasurements req) s = .next (spdmError 0x04 s) ∧ exec (.keyExchange req) s = .next (spdmError 0x04 s))) ∧
  (∀ (req : List Byte) (s : State), doeTakes s req = true → s.hp.negotiated = true →
    let off := fieldOf req 4 2
    let part := (Config.certChain.drop off).take (fieldOf req 6 2)
    let id := fieldOf req 4 2 + 65536 * (Config.freeNat s.free % 65536)
    exec (.getDigests req) s = .next (s.emit (.spdm 0x01 (leBytes 1 1 ++ (Config.sha512 Config.certChain).toList) false)) ∧
    ((fieldOf req 2 1 ≠ 0 ∨ Config.certChain.length < off) → exec (.getCertificate req) s = .next (spdmError 0x01 s)) ∧
    (fieldOf req 2 1 = 0 → off ≤ Config.certChain.length → exec (.getCertificate req) s = .next (s.emit (.spdm 0x02
      (leBytes 2 part.length ++ leBytes 2 (Config.certChain.length - off - part.length) ++ part) false))) ∧
    (fieldOf req 2 1 ≠ 0 → exec (.challenge req) s = .next (spdmError 0x01 s)) ∧
    (fieldOf req 2 1 = 0 → exec (.challenge req) s = .next (spdmSigned 0x03 req ((Config.sha512 Config.certChain).toList ++
      leBytes 32 (Config.freeNat s.free) ++ (Config.sha512 (measurements s)).toList) s.drawFree)) ∧
    (measurementBlocks s (fieldOf req 3 1) = none → exec (.getMeasurements req) s = .next (spdmError 0x01 s)) ∧
    (∀ bs, measurementBlocks s (fieldOf req 3 1) = some bs → exec (.getMeasurements req) s =
      .next (spdmSigned 0x60 req (bs ++ leBytes 32 (Config.freeNat s.free)) s.drawFree)) ∧
    (s.hp.sessions.length < 2 → exec (.keyExchange req) s = .next (spdmSigned 0x64 req (leBytes 4 id)
      (s.drawFree.modHp fun h => { h with sessions := h.sessions ++ [{ id := id }] }))) ∧
    (2 ≤ s.hp.sessions.length → exec (.keyExchange req) s = .next (spdmError 0x07 s))) ∧
  (∀ (w : Word) (ok cm : Bool) (op : IdeKmOp) (s : State), doeUp s = true → sessionOf s w.toNat = none →
    exec (.finish w ok) s = .next (spdmError 0x02 s) ∧ exec (.heartbeat w) s = .next (spdmError 0x02 s) ∧
    exec (.keyUpdate w) s = .next (spdmError 0x02 s) ∧ exec (.endSession w) s = .next (spdmError 0x02 s) ∧
    exec (.ideKm w cm op) s = .next (spdmError 0x02 s)) ∧
  (∀ (w : Word) (x : Session) (cm : Bool) (op : IdeKmOp) (s : State), doeUp s = true → sessionOf s w.toNat = some x →
    x.open_ = false →
    exec (.finish w true) s = .next ((modSession w (fun x => { x with open_ := true }) s).emit (.spdm 0x65 [] false)) ∧
    exec (.finish w false) s = .next (spdmError 0x06 (s.modHp fun h =>
      { h with sessions := h.sessions.filter fun x => x.id != w.toNat })) ∧
    exec (.heartbeat w) s = .next (spdmError 0x04 s) ∧ exec (.keyUpdate w) s = .next (spdmError 0x04 s) ∧
    exec (.endSession w) s = .next (spdmError 0x04 s) ∧ exec (.ideKm w cm op) s = .next (spdmError 0x04 s)) ∧
  (∀ (w : Word) (x : Session) (ok cm : Bool) (op : IdeKmOp) (s : State), doeUp s = true → sessionOf s w.toNat = some x →
    x.open_ = true →
    exec (.finish w ok) s = .next (spdmError 0x04 s) ∧
    exec (.heartbeat w) s = .next (s.emit (.spdm 0x68 [] false)) ∧
    exec (.keyUpdate w) s = .next ((modSession w (fun x => { x with updates := x.updates + 1 }) s).emit (.spdm 0x69 [] false)) ∧
    exec (.endSession w) s = .next ((s.modHp fun h =>
      { h with sessions := h.sessions.filter fun x => x.id != w.toNat }).emit (.spdm 0x6C [] false)) ∧
    exec (.ideKm w cm op) s = .next ((s.modHp (ideKeyed cm op)).emit (.spdm 0x7E [] false))) ∧
  (∀ (c : Bool) (h : Hp),
    ideKeyed true (.setKeys c) h = (if h.ideCm = .insecure then h
      else { h with ideCm := .secure, heldCm := false, containment := c }) ∧
    ideKeyed false (.setKeys c) h = (if h.ideIo = .insecure then h else { h with ideIo := .secure, heldIo := false }) ∧
    ∀ cm, ideKeyed cm .refresh h = h)

/-- A lane loss and an announcement for a receive direction out of service, and a drop request for a transmit
direction out of service, change nothing. A lane loss in service is loseRx: of a lane that is not in the receive map
to come, or is in a drop request already, nothing; of one that L8 mirrors, the loss is counted and L8 takes its
position; of another, the loss is counted and a drop request goes out, and with fewer than four lanes left the map
without it is in force at once. A drop request that leaves out no transmit lane is acknowledged by announcing the map
again; another drops the lanes that it leaves out. A drop request is repeated while it is not acknowledged. An
announcement sets the receive map to come and its block, and with ACK takes out of the drop request the lanes that the
map leaves out. A map switch with a map to come puts it in force, with at least four lanes in a direction that stays
as it was; without one it changes nothing. A loss is located, and recorded, only for a lane that is lost. A restored
lane that has passed and finds an empty position joins the map, at the next frame boundary or at once without a
domain; another is not restored. (rests on R252, R253, R258, R260, R263, R264, R265, R266, R267, R269, R271) -/
def Obligations.LaneLossAndLaneMaps : Prop :=
  (∀ (n : StrandId) (l : LaneId) (bs : List Byte) (s : State),
    ((s.strandAt n).rxOut = true → exec (.laneLoss n l) s = .next s ∧ exec (.mapAnnounce n bs) s = .next s) ∧
    ((s.strandAt n).rxOut = false → exec (.laneLoss n l) s = .next (loseRx n l s)) ∧
    ((s.strandAt n).txOut = true → exec (.dropRequest n bs) s = .next s)) ∧
  (∀ (n l : Nat) (s : State), let t := s.strandAt n
    let u := withdraw n (countLoss n (breakCalibration n s))
    ((l ∉ rxPending t ∨ l ∈ t.dropReq) → loseRx n l s = s) ∧
    (l ∈ rxPending t → l ∉ t.dropReq → t.rxMirror = some l →
      loseRx n l s = applyRx n ((rxPending t).map fun x => if x = l then 8 else x) u) ∧
    (l ∈ rxPending t → l ∉ t.dropReq → t.rxMirror ≠ some l →
      let v := requestDrop n (u.modStrand n fun t => { t with dropReq := t.dropReq ++ [l] })
      let left := (rxPending t).filter fun x => x != l && !t.dropReq.contains x
      loseRx n l s = (if left.length < 4 then applyRx n left v else v))) ∧
  (∀ (n : StrandId) (bs : List Byte) (s : State), (s.strandAt n).txOut = false →
    let gone := (txPending (s.strandAt n)).filter fun l => !(lmapOf (fieldOf bs 2 4)).contains l
    (gone = [] → exec (.dropRequest n bs) s = .next (announceMap n (txPending (s.strandAt n))
      (((s.strandAt n).txNext.map (·.at_)).getD (s.linkAt n).txSeq) true s)) ∧
    (gone ≠ [] → exec (.dropRequest n bs) s = .next (dropAllTx n true gone s))) ∧
  (∀ (n : StrandId) (s : State), ((s.strandAt n).dropReq = [] → exec (.dropRequestRepeat n) s = .next s) ∧
    ((s.strandAt n).dropReq ≠ [] → exec (.dropRequestRepeat n) s = .next (requestDrop n s))) ∧
  (∀ (n : StrandId) (bs : List Byte) (s : State), (s.strandAt n).rxOut = false → let m := lmapOf (fieldOf bs 2 4)
    exec (.mapAnnounce n bs) s = .next (s.modStrand n fun t => { t with
      rxNext := some { map := m, at_ := seqFrom (s.linkAt n).rxSeq (fieldOf bs 8 4) },
      dropReq := if bitOf (fieldOf bs 1 1) 0 then t.dropReq.filter m.contains else t.dropReq })) ∧
  (∀ (n : StrandId) (c : MapChange) (s : State),
    ((s.strandAt n).rxNext = some c → exec (.mapSwitch n true) s = .next (applyRx n c.map s)) ∧
    ((s.strandAt n).txNext = some c → exec (.mapSwitch n false) s = .next (applyTx n c.map s)) ∧
    ((s.strandAt n).rxNext = none → exec (.mapSwitch n true) s = .next s) ∧
    ((s.strandAt n).txNext = none → exec (.mapSwitch n false) s = .next s) ∧
    ((s.strandAt n).rxNext = some c → 4 ≤ c.map.length → tabWf s.opt.strand = true → Completes (.mapSwitch n true) s fun t =>
      (t.strandAt n).rxMap = c.map ∧ (t.strandAt n).rxNext = none ∧ (t.strandAt n).rxOut = (s.strandAt n).rxOut ∧
      t.opt.laneEvent = true)) ∧
  (∀ (n : StrandId) (l : LaneId) (c : Vector Half 4) (s : State),
    (l.val ∉ (s.strandAt n).lost → exec (.lossLocation n l c) s = .next s) ∧
    (l.val ∈ (s.strandAt n).lost → let loc := locate (s.strandAt n) l c
      exec (.lossLocation n l c) s = .next (postEvent 0x06 .sLaneDrop n none (laneDropData s n l loc)
        (s.modStrand n fun t => { t with loc := loc })))) ∧
  (∀ (n : StrandId) (l : LaneId) (s : State),
    ((l.val ∉ (s.strandAt n).passed ∨ 8 ≤ (frameMap s n).length) → exec (.laneRestore n l) s = .next s) ∧
    (l.val ∈ (s.strandAt n).passed → (frameMap s n).length < 8 → exec (.laneRestore n l) s =
      .next (changeAtFrame n (frameMap s n ++ [l.val]) (s.modStrand n fun t =>
        { t with passed := t.passed.filter (· != l.val), lost := t.lost.filter (· != l.val) }))))

/-- Every 10 ms each laser for which there is a reading is adjusted by it, and nothing else changes: one that is not
lit takes the reading alone; a lit one's drive moves by one unit of 0.1 mA towards the target, not above its limit. A
failure of a laser that has failed or is retired changes nothing; of another it turns it off, records it, and is
wavelengthFailed; the sixth dead laser of a bank with no strand sending takes the device to FAILED. Laser 8 that locks
while it is warming is lit and every strand in service is due for training; one that does not lock has failed; outside
warming nothing changes. L8 trained on a strand in a period that was accepted is reported where the far end's was
found, marks the own one trained, and goes on with the calibration or ends the period. A verified mirror, and one
without a report, which is trained again, advance the swap; one that is not trained changes nothing. A swap that is
pending moves the position of every strand that sends, retires the laser that it replaces unless it has failed, sets
it in service and posts the event, in a frame that carries a microsecond or without a domain; otherwise nothing
changes. (rests on R255, R256, R268, R269, R271, R272, R373) The laser's target is the model's reading of its nominal
power (log entry 46). -/
def Obligations.LasersAndTheSpareWavelength : Prop :=
  (∀ (p : List Half) (s : State), Completes (.laserDriveAdjust p) s fun t =>
    (∀ (b : Fin 2) (w : Fin 9), laserAt t b w = match p[9 * b.val + w.val]? with
      | some x => adjustDrive x.toNat (laserAt s b w)
      | none => laserAt s b w) ∧ t = { s with opt := t.opt }) ∧
  (∀ (x : Nat) (l : Laser),
    (isLit l = false → adjustDrive x l = { l with power := x }) ∧
    (isLit l = true → x < laserTarget → l.drive < l.driveMax → (adjustDrive x l).drive = l.drive + 1) ∧
    (isLit l = true → laserTarget < x → (adjustDrive x l).drive = l.drive - 1) ∧
    (isLit l = true → x = laserTarget → (adjustDrive x l).drive = l.drive) ∧
    (isLit l = true → l.drive ≤ l.driveMax → (adjustDrive x l).drive ≤ l.driveMax)) ∧
  (∀ (b : BankId) (w : LaneId) (s : State), let st := (laserAt s b w).st
    let u := modLaser b w (fun l => { l with st := .failed }) s
    ((st = .failed ∨ st = .retired) → exec (.laserFailure b w) s = .next s) ∧
    (st ≠ .failed → st ≠ .retired → exec (.laserFailure b w) s =
      .next (wavelengthFailed b w (escalate { row := 29, obj := b.val, l3 := true, l4 := 6 ≤ deadLasers u b } u))) ∧
    (st ≠ .failed → st ≠ .retired → (laserAt s b w).faded = false → 5 ≤ deadLasers s b → bankSends s b = [] →
      Completes (.laserFailure b w) s fun t => t.pkg.devState = .failed)) ∧
  (∀ (b : BankId) (ok : Bool) (s : State),
    ((s.bankAt b).swap ≠ .warming → exec (.laser8Locked b ok) s = .next s) ∧
    ((s.bankAt b).swap = .warming → exec (.laser8Locked b false) s = exec (.laserFailure b 8) s) ∧
    ((s.bankAt b).swap = .warming →
      let u := (modLaser b 8 (fun l => { l with st := .lit }) s).modBank b fun k => { k with swap := .training }
      exec (.laser8Locked b true) s = .next (advanceSwap b
        ((bankStrands u b).foldl (fun s n => s.modStrand n fun t => { t with trainDue := true }) u)))) ∧
  (∀ (n : StrandId) (s : State),
    ((s.strandAt n).mirror = .trained → exec (.mirrorVerified n) s = .next (advanceSwap (bankOfStrand n)
      (s.modStrand n fun t => { t with mirror := .verified }))) ∧
    ((s.strandAt n).mirror = .trained → exec (.mirrorTimeout n) s = .next (advanceSwap (bankOfStrand n)
      (s.modStrand n fun t => { t with mirror := .untrained, trainDue := true }))) ∧
    ((s.strandAt n).mirror ≠ .trained → exec (.mirrorVerified n) s = .next s ∧ exec (.mirrorTimeout n) s = .next s)) ∧
  (∀ (n : StrandId) (o : Option LaneId) (s : State),
    (s.opt.cal = none → exec (.l8Trained n o) s = .next s) ∧
    (∀ j, s.opt.cal = some j → (j.strand ≠ n.val ∨ j.accepted = false) → exec (.l8Trained n o) s = .next s) ∧
    (∀ j, s.opt.cal = some j → j.strand = n.val → j.accepted = true →
      let fin := fun u : State => let v := if j.train then trainedHere n u else u
        if j.cal then v.modOpt fun o => { o with cal := some { j with train := false } } else endCalibration v
      exec (.l8Trained n none) s = .next (fin s) ∧
      ∀ l, exec (.l8Trained n (some l)) s = .next (fin (sendControl n (laneMsgBytes 4 false [] 0 noMargins)
        (s.modStrand n fun t => { t with rxMirror := some l.val }))))) ∧
  (∀ (b : BankId) (s : State),
    (((s.bankAt b).swap ≠ .pending ∨ (s.bankAt b).spareFor = none) → exec (.spareSwap b) s = .next s) ∧
    (∀ w, (s.bankAt b).swap = .pending → (s.bankAt b).spareFor = some w → s.frm.role ≠ .none → s.frm.cur.stretch = 0 →
      exec (.spareSwap b) s = .next s) ∧
    (∀ w, (s.bankAt b).swap = .pending → (s.bankAt b).spareFor = some w → (s.frm.role = .none ∨ s.frm.cur.stretch ≠ 0) →
      exec (.spareSwap b) s = .next (postEvent 0x06 .sSpareWavelength (laserObject b w) none (levelData 3 28 0)
        (((modLaser b w (fun l => { l with st := if l.st = .failed then .failed else .retired })
          (swapStrands w (bankSends s b) s)).modBank b fun k => { k with swap := .inService }).modOpt
            fun o => { o with swapDone := true }))))

/-- A strand out of service does not fall due. One in service is due at 10 minutes after its last calibration and not
before, with a lost lane or one in a drop request, on a drift that is not noted yet (driftFound), and overdue where it
is due; otherwise nothing changes. Where calStart finds a period that this device may start, it begins and the far end
is asked; else nothing changes. A request of another kind than 5 changes nothing; one that comes with a neighbour, no
calibration under way and a period that is free begins it and is accepted, and another is refused. While this device
asks, an acceptance is noted and a refusal ends the period; otherwise neither changes anything. A completion without
an accepted period changes nothing; of a calibration it ends the period and is calibrationDone of its result, of
another period it ends it. A round of margin readings counts 10 ms, takes each reading, sends the reports and judges
every wavelength; a reading becomes the lane's margin and the latest of at most ten. A report sets the transmit
margins, known; its absence marks them unknown. A write of OPT_MON_SEL sets its fields, and with GO and a defined
integration starts a reading; without BAR0 it changes nothing. A reading that runs is shown with its effective bits
and whether it is more than 3 dB low; without one nothing changes. (rests on R258, R259, R260, R261, R262, R263, R268,
R271, R272) -/
def Obligations.CalibrationAndMargins : Prop :=
  (∀ (n : StrandId) (s : State), let t := s.strandAt n
    (∀ w, inService s n = false → exec (.calibrationDue n w) s = .next s) ∧
    (inService s n = true →
      exec (.calibrationDue n .age) s = .next (if s.opt.clock - t.calAt < 60000 then s
        else s.modStrand n fun t => { t with calDue := true }) ∧
      exec (.calibrationDue n .lane) s = .next (if t.lost = [] ∧ t.dropReq = [] then s
        else s.modStrand n fun t => { t with calDue := true }) ∧
      exec (.calibrationDue n .drift) s = .next (if t.drift = true ∨ drifted t = false then s else driftFound n s) ∧
      exec (.calibrationDue n .overdue) s = .next (if t.calDue then s.modStrand n fun t => { t with calOverdue := true } else s))) ∧
  (∀ (n : StrandId) (s : State), (calStart s n = none → exec (.calibrationStart n) s = .next s) ∧
    ∀ j, calStart s n = some j → exec (.calibrationStart n) s =
      .next (sendControl n (laneMsgBytes 5 false [] 0 noMargins) (beginPeriod j s))) ∧
  (∀ (n : StrandId) (bs : List Byte) (c t : Bool) (s : State), let j := jobAsked s n c t
    (fieldOf bs 0 1 ≠ 5 → exec (.calibrationRequest n ⟨bs, c, t⟩) s = .next s) ∧
    (fieldOf bs 0 1 = 5 → s.opt.cal = none → present s n = true → periodFree s n (periodNs s j false) = true →
      exec (.calibrationRequest n ⟨bs, c, t⟩) s =
        .next (sendControl n (laneMsgBytes 6 false [] 0 noMargins) (beginPeriod j s))) ∧
    (fieldOf bs 0 1 = 5 → (s.opt.cal ≠ none ∨ present s n = false ∨ periodFree s n (periodNs s j false) = false) →
      exec (.calibrationRequest n ⟨bs, c, t⟩) s = .next (sendControl n (laneMsgBytes 7 false [] 0 noMargins) s))) ∧
  (∀ (n : StrandId) (s : State),
    (asking s n = true → exec (.calibrationAccept n) s =
        .next (s.modOpt fun o => { o with cal := o.cal.map fun j => { j with accepted := true } }) ∧
      exec (.calibrationRefuse n) s = .next (endCalibration s)) ∧
    (asking s n = false → exec (.calibrationAccept n) s = .next s ∧ exec (.calibrationRefuse n) s = .next s)) ∧
  (∀ (r : CalResult) (s : State),
    (s.opt.cal = none → exec (.calibrationComplete r) s = .next s) ∧
    (∀ j, s.opt.cal = some j → j.accepted = false → exec (.calibrationComplete r) s = .next s) ∧
    (∀ j, s.opt.cal = some j → j.accepted = true → exec (.calibrationComplete r) s =
      .next (if j.cal then calibrationDone j.strand r (endCalibration s) else endCalibration s))) ∧
  (∀ (xs : List (Nat × Nat × Nat)) (s : State), exec (.marginReading xs) s =
    .next (judgeMargins wavelengths (sendReports (takeReadingsOf (xs.filter fun x => x.1 < 64 && x.2.1 < 9 && x.2.2 < 65536)
      (s.modOpt fun o => { o with clock := o.clock + 1 }))))) ∧
  (∀ (n : StrandId) (l : LaneId) (c : Nat) (s : State), let t := (takeReading (n.val, l.val, c) s).strandAt n
    let m := marginOf s.free c
    tabWf (s.strandAt n).rxMargin = true → tabWf (s.strandAt n).rxLast = true →
    tget t.rxMargin l.val = some m ∧ tget t.rxLast l.val = (m :: tget (s.strandAt n).rxLast l.val).take 10) ∧
  (∀ (n : StrandId) (bs : List Byte) (s : State),
    exec (.marginReport n bs) s = .next (s.modStrand n fun t =>
      { (List.range 9).foldl (takeReported bs) t with txUnknown := false, txFresh := false }) ∧
    exec (.marginReportTimeout n) s = .next (s.modStrand n fun t => { t with txUnknown := true })) ∧
  (∀ (v : Word) (s : State), let n := v.toNat
    let x : MonSel := { integ := bitsOf n 15 14, stage := bitsOf n 13 12, strand := bitsOf n 9 4, lane := bitsOf n 3 0 }
    (barUp s = false → exec (.optMonGo v) s = .next s) ∧
    (barUp s = true → n.testBit 31 = true → x.integ ≠ 3 →
      exec (.optMonGo v) s = .next (s.modOpt fun o => { o with monSel := x, monRun := some x, monValid := false })) ∧
    (barUp s = true → (n.testBit 31 = false ∨ x.integ = 3) →
      exec (.optMonGo v) s = .next (s.modOpt fun o => { o with monSel := x }))) ∧
  (∀ (c : Half) (s : State), (s.opt.monRun = none → exec (.monitorReadingDone c) s = .next s) ∧
    ∀ x, s.opt.monRun = some x → exec (.monitorReadingDone c) s = .next (s.modOpt fun o => { o with
      monRun := none, monValid := true, monLow := below3dB c.toNat (monitorBase s x),
      monBits := monitorBits x.integ, monCode := c.toNat }))

/-- A strand that carries no traffic takes no block and sends none. A block received that is malformed, of a type
above 8, or fails its CRC sets NAK and nothing else. Another one first acts by its ACK and NAK (takeAck); then one
without a sequence number is noted, a sequenced one with the number expected is accepted, and one with another number
sets NAK and is noted. An ACK frees the held blocks it covers, held and to be resent; without NAK that is all but the
last NAK forgotten; a NAK begins a replay of all that stay held, unless nothing stays or it repeats the last NAK
within its quiet time. A block accepted that is no packet moves the expected number on and clears NAK; a packet is
taken into transit too, or counted as discarded in quarantine. Held blocks left uncovered for too long begin a replay
of them all. A replay is counted; the 64th of a window makes the strand due for calibration at level 2, and from the
third such trigger of the long window on the lane with the lowest margin is dropped at level 3. A position first
places waiting packets; it goes to the link-control block still going out, or to what position sends, and relayed
blocks that it left are held. There a tick comes first, then a held block to be resent, then the rest; what goes out
is exactly one block of the strand, and memory, the frame and the package stay as they were. With the replay buffer
full only link control goes out, and WINDOW_FULL is set. With nothing to send the block is idle. (rests on R258, R274,
R275, R277, R278, R279, R280, R291) -/
def Obligations.BlocksAreAcknowledgedReplayedAndPlaced : Prop :=
  (∀ (n : StrandId) (b : List Byte) (slot : Option (Fin 976)) (pos : Nat) (s : State), carriesTraffic s n = false →
    exec (.blockReceive n b) s = .next s ∧ exec (.blockPosition n slot pos) s = .next s) ∧
  (∀ (n : StrandId) (b : List Byte) (s : State), carriesTraffic s n = true →
    (fieldOf b 268 4 ≠ crc32c (b.take 268) ∨ b.length ≠ 272 ∨ 9 ≤ fieldOf b 0 1 / 16) →
      exec (.blockReceive n b) s = .next (s.modLink n fun l => { l with nak := true })) ∧
  (∀ (n : StrandId) (b : List Byte) (s : State), carriesTraffic s n = true →
    fieldOf b 268 4 = crc32c (b.take 268) → b.length = 272 → fieldOf b 0 1 / 16 < 9 →
    let typ := fieldOf b 0 1 / 16
    let seq := fieldOf b 1 2
    let u := takeAck n ((fieldOf b 0 1).testBit 0) (fieldOf b 3 2) s
    let blk : Blk := { typ := typ, dup := (fieldOf b 0 1).testBit 1 }
    (blk.sequenced = false → exec (.blockReceive n b) s = .next (noteSeen n seq false u)) ∧
    (blk.sequenced = true → seq = (u.linkAt n).rxSeq % 65536 →
      exec (.blockReceive n b) s = .next (acceptBlock n typ (fieldOf b 5 7) (sliceBytes b 12 256) u)) ∧
    (blk.sequenced = true → seq ≠ (u.linkAt n).rxSeq % 65536 → exec (.blockReceive n b) s =
      .next (noteSeen n seq true (u.modLink n fun l => { l with nak := true })))) ∧
  (∀ (n low : Nat) (s : State), let q := uncovered (s.linkAt n) low
    let v := s.modLink n fun l =>
      { l with held := l.held.filter fun e => q ≤ e.1, resend := l.resend.filter fun r => q ≤ r }
    takeAck n false low s = (v.modLink n fun l => { l with lastNak := none }) ∧
    ((v.linkAt n).held = [] ∨ ((v.linkAt n).lastNak = some q ∧ 0 < (v.linkAt n).nakQuiet) → takeAck n true low s = v) ∧
    ((v.linkAt n).held ≠ [] → ((v.linkAt n).lastNak ≠ some q ∨ (v.linkAt n).nakQuiet = 0) → takeAck n true low s =
      replayBegun n (v.modLink n fun l =>
        { l with lastNak := some q, nakQuiet := nakPositions v n, resend := l.held.map (·.1) }))) ∧
  (∀ (n typ route : Nat) (p : List Byte) (s : State),
    let v := s.modLink n fun l =>
      { l with rxSeq := wrapInc 48 l.rxSeq, nak := false, replayed := l.nak, late := decide (l.rxSeq < l.rxTop) }
    (typ ≠ 4 → acceptBlock n typ route p s = v) ∧
    ((v.discAt n).st = .quarantined → acceptBlock n 4 route p s =
      v.modTop fun x => { x with discards := wrapInc 32 x.discards }) ∧
    ((v.discAt n).st ≠ .quarantined → acceptBlock n 4 route p s = transitIn n route p v)) ∧
  (∀ (n : StrandId) (s : State),
    ((s.linkAt n).held = [] → exec (.replayTimeout n) s = .next s) ∧
    ((s.linkAt n).held ≠ [] → exec (.replayTimeout n) s =
      .next (replayBegun n (s.modLink n fun l => { l with lastNak := none, resend := l.held.map (·.1) })))) ∧
  (∀ (n : Nat) (s : State), let a := winBump 30 0 n s
    let b := (winBump 30 1 n a).modStrand n fun t => { t with calDue := true }
    (winCount a 30 0 n ≠ 64 → replayBegun n s = a) ∧
    (winCount a 30 0 n = 64 → winCount b 30 1 n < 3 →
      replayBegun n s = escalate { row := 30, obj := n, count := 64, l2 := true, l3 := false } b) ∧
    (∀ l, winCount a 30 0 n = 64 → 3 ≤ winCount b 30 1 n → lowestLane (b.strandAt n) = some l →
      replayBegun n s = escalate { row := 30, obj := n, count := 64, l2 := true, l3 := true } (dropTx n l false b))) ∧
  (∀ (n : StrandId) (slot : Option (Fin 976)) (pos : Nat) (s : State), carriesTraffic s n = true →
    let k := slot.map (·.val)
    let u := enterSlot n k (placePackets (passPosition n s))
    exec (.blockPosition n slot pos) s = .next (holdCut n (if 0 < (u.linkAt n).ctlLeft then endControl n u
      else position n (posKind u n k pos) u))) ∧
  (∀ (n : Nat) (k : PosKind) (s : State), ∃ bs, (position n k s).out = s.out ++ [.block n bs] ∧
    (position n k s).mem = s.mem ∧ (position n k s).frm = s.frm ∧ (position n k s).pkg = s.pkg) ∧
  (∀ (n : Nat) (k : PosKind) (s : State),
    (∀ b bs, (s.linkAt n).ticks = b :: bs → carries s n 5 = true →
      position n k s = sendBlock n b (s.modLink n fun l => { l with ticks := bs })) ∧
    (∀ e, (s.linkAt n).ticks = [] → resendNext s n = some e → position n k s = sendResent n k e s) ∧
    ((s.linkAt n).ticks = [] → resendNext s n = none → position n k s = sendRest n k s) ∧
    (windowIsFull s n = true → sendRest n k s = sendIdle n (s.modLink n fun l => { l with windowFull := true })) ∧
    (windowIsFull s n = false → (s.linkAt n).ctl = [] → (s.linkAt n).seqd = [] → circuitNext s n k = none →
      (s.linkAt n).pkt = none → sendRest n k s = sendBlock n {} s))

/-- On a quarantined strand a circuit block is counted and discarded. One for another device is relayed: without a
transit entry it is dropped as dropCircuit says; with one it is added to what the entry's egress strand may forward,
held at once where that strand carries nothing, and memory and the frame stay as they were while it carries. One for
this device goes to its transfer, waiting for spilled lines where it needs them. There an open block of a PUT that
R193 admits begins a transfer and adds its range to what the frame writes; one that R193 refuses is answered at once,
its transfer dropped; a collective's is taken as credit, as abort, or as the opening of a chunk. A data block of no
transfer or of a dropped one changes nothing; a collective's adds its bytes; another's bytes are performed as a
target's write, and added to the transfer, or answered with the write's failure and the transfer dropped. A data block
of a PUT to good blocks outside the tables leaves its bytes at their place, and every other byte as it was. A close
block of no transfer changes nothing, and of a dropped one removes it; a collective's hands on its chunk; another
whose COUNT and CHECK match is answered S_OK, and else E_DATA_ERROR, the mismatch counted and the bytes undefined.
(rests on R77, R193, R282, R285, R286, R294, R299, R310) -/
def Obligations.CircuitBlocksAtARelayAndAtTheirDevice : Prop :=
  (∀ (n : StrandId) (r : BitVec 56) (p : List Byte) (s : State), (s.discAt n).st = .quarantined →
    let t := s.modTop fun x => { x with discards := wrapInc 32 x.discards }
    exec (.circuitOpen n r p) s = .next t ∧ exec (.circuitData n r p) s = .next t ∧ exec (.circuitClose n r p) s = .next t) ∧
  (∀ (n : StrandId) (r : BitVec 56) (p : List Byte) (s : State), (s.discAt n).st ≠ .quarantined →
    isSelf s (routeDest r.toNat) = false →
    exec (.circuitOpen n r p) s = .next (relayCircuit n 1 r.toNat p s) ∧
    exec (.circuitData n r p) s = .next (relayCircuit n 2 r.toNat p s) ∧
    exec (.circuitClose n r p) s = .next (relayCircuit n 3 r.toNat p s)) ∧
  (∀ (n typ route : Nat) (p : List Byte) (s : State),
    let e := s.fab.tables.transits.find? fun t => t.inStrand == n && t.resv == routeResv route
    let b : Blk := { typ := typ, route := route, payload := fitBytes 256 p }
    (e = none → relayCircuit n typ route p s = dropCircuit s) ∧
    (∀ x, e = some x → carriesTraffic s x.outStrand = true → let t := relayCircuit n typ route p s
      (t.linkAt x.outStrand).cut = (s.linkAt x.outStrand).cut ++ [(routeResv route, b)] ∧ t = { s with fab := t.fab }) ∧
    (∀ x, e = some x → carriesTraffic s x.outStrand = false → relayCircuit n 2 route p s =
      holdCut x.outStrand (s.modLink x.outStrand fun l =>
        { l with cut := l.cut ++ [(routeResv route, { typ := 2, route := route, payload := fitBytes 256 p })] }))) ∧
  (∀ (n : StrandId) (r : BitVec 56) (p : List Byte) (s : State), (s.discAt n).st ≠ .quarantined →
    isSelf s (routeDest r.toNat) = true →
    exec (.circuitOpen n r p) s = .next (spillGate .fabric (openTransfer n r.toNat p) s) ∧
    exec (.circuitData n r p) s = .next (spillGate .fabric (transferData n r.toNat p) s) ∧
    exec (.circuitClose n r p) s = .next (spillGate .fabric (closeTransfer n r.toNat p) s)) ∧
  (∀ (n route : Nat) (p : List Byte) (s : State), fieldOf p 0 1 = 0x10 →
    (fieldOf p 1 1 = 0xFE → openTransfer n route p s = takeCreditOnly p s) ∧
    (fieldOf p 1 1 = 0xFF → openTransfer n route p s = takeAbort p s) ∧
    (fieldOf p 1 1 ≠ 0xFE → fieldOf p 1 1 ≠ 0xFF → let t := takeOpening p s
      let x : RxXfer := { op := 0x10, count := fieldOf p 4 4, len := fieldOf p 0x20 4, head := p, dropped := !t.1 }
      openTransfer n route p s = t.2.modFab fun f => { f with rxXfer := tput f.rxXfer (xferKey n route) (some x) })) ∧
  (∀ (n route : Nat) (p : List Byte) (s : State), fieldOf p 0 1 ≠ 0x10 →
    let x : RxXfer := { op := fieldOf p 0 1, redOp := fieldOf p 1 1, dtype := fieldOf p 2 1, count := fieldOf p 4 4,
                        gaddr := fieldOf p 8 8, len := fieldOf p 16 4, xoff := fieldOf p 20 4 }
    (remoteCheck s x.gaddr x.len accRemoteWrite = none → openTransfer n route p s =
      ((s.modFrm fun f => { f with writes := f.writes ++ [(gaLocal x.gaddr + x.xoff, min msgBytes (x.len - x.xoff))] }).modFab
        fun f => { f with rxXfer := tput f.rxXfer (xferKey n route) (some x) })) ∧
    (∀ st d, remoteCheck s x.gaddr x.len accRemoteWrite = some (st, d) → openTransfer n route p s =
      answerXfer route st d 0 ((noteStale st s).modFab fun f =>
        { f with rxXfer := tput f.rxXfer (xferKey n route) (some { x with dropped := true }) }))) ∧
  (∀ (n route : Nat) (p : List Byte) (s : State), let k := xferKey n route
    (tget s.fab.rxXfer k = none → transferData n route p s = s ∧ closeTransfer n route p s = s) ∧
    (∀ x, tget s.fab.rxXfer k = some x → x.dropped = true → transferData n route p s = s ∧
      closeTransfer n route p s = s.modFab fun f => { f with rxXfer := tput f.rxXfer k none })) ∧
  (∀ (n route : Nat) (p : List Byte) (x : RxXfer) (s : State), let k := xferKey n route
    let bs := blockPiece x (routeIndex route) p
    let w := targetWrite (x.op == 2) x.redOp x.dtype (gaLocal x.gaddr + x.xoff + 256 * routeIndex route) bs s
    let put := fun (y : RxXfer) (u : State) => u.modFab fun f => { f with rxXfer := tput f.rxXfer k (some y) }
    tget s.fab.rxXfer k = some x → x.dropped = false →
    (x.op = 0x10 → transferData n route p s = put { x with data := x.data ++ bs } s) ∧
    (x.op ≠ 0x10 → w.1 = none → transferData n route p s = put { x with data := x.data ++ bs } w.2) ∧
    (∀ st, x.op ≠ 0x10 → w.1 = some st →
      transferData n route p s = answerXfer route st 0 0 (put { x with dropped := true } w.2))) ∧
  (∀ (n route : Nat) (p : List Byte) (x : RxXfer) (s : State),
    let bs := blockPiece x (routeIndex route) p
    let a := gaLocal x.gaddr + x.xoff + 256 * routeIndex route
    tget s.fab.rxXfer (xferKey n route) = some x → x.dropped = false → x.op = 1 → s.canonical → s.hp.spill = [] →
    s.hnk.wmb = [] → s.hnk.lostBursts = [] → accessRefused s a bs.length = none →
    ((blocksOf a bs.length).all fun b => !isUe s b) = true → (∀ i, i < bs.length → tableByte s (a + i) = none) →
    let t := transferData n route p s
    readBytes t a bs.length = bs ∧ ∀ y, y < a ∨ a + bs.length ≤ y → readByte t y = readByte s y) ∧
  (∀ (n route : Nat) (p : List Byte) (x : RxXfer) (s : State), tget s.fab.rxXfer (xferKey n route) = some x →
    x.dropped = false → let u := s.modFab fun f => { f with rxXfer := tput f.rxXfer (xferKey n route) none }
    let good := fieldOf p 0 4 == x.count && fieldOf p 4 4 == crc32c x.data
    (x.op = 0x10 → closeTransfer n route p s = takeChunk { open_ := x.head, data := x.data, good := good } u) ∧
    (x.op ≠ 0x10 → good = true → closeTransfer n route p s = answerXfer route .sOk 0 x.count u) ∧
    (x.op ≠ 0x10 → good = false → closeTransfer n route p s = answerXfer route .eDataError 0 x.count
      (markUndef (gaLocal x.gaddr + x.xoff) x.data.length (checkMismatch u))))

/-- Each packet acts by its header and body, waiting for spilled lines where it needs them. A message that finds no
state entry is dropped and counted. A packet of a message already answered changes nothing but that a last one is
answered so again, and one already counted changes nothing; a one-packet message already answered is answered so
again, and another is performed, its answer kept and sent. A packet of a PUT or PUT_REDUCE that R193 refuses leaves
memory as it was and is answered. The first packet of a one-packet PUT that R193 admits, with good blocks outside the
tables, leaves its bytes, and that of a PUT_REDUCE the combination of its elements with those found; every other byte
stays, and the message is answered S_OK with one packet counted. The first packet of the data of a GET of this device
whose region still admits it writes its bytes and nothing else in memory; data that no GET waits for leaves memory as
it was and is answered. A GET admitted changes no byte, begins the operation that sends its data and is answered. A
FETCH_ADD or COMPARE_SWAP admitted, of a good aligned word, stores its result, a SIGNAL the sum of counter and
increment, and no other byte changes; a SIGNAL on the tail of a peer queue with room adds to it. A synchronisation
packet is counted, and acted on, unless it has been; each is answered. A new lane notice of fewer than eight lanes
sets its reservation's limit, another lifts it. (rests on R145, R175, R182, R193, R196, R197, R287, R289, R293, R294,
R297) -/
def Obligations.PacketsArePerformedOnceAndAnswered : Prop :=
  (∀ (p : List Byte) (m : Fin 128) (s : State), let h := pktHdr p
    let b := p.drop 32
    exec (.putData p m) s = .next (spillGate .fabric (putPacket false m h b) s) ∧
    exec (.putReduceData p m) s = .next (spillGate .fabric (putPacket true m h b) s) ∧
    exec (.getRequest p m) s = .next (spillGate .fabric (getPacket m h b) s) ∧
    exec (.getData p m) s = .next (spillGate .fabric (getDataPacket m h b) s) ∧
    exec (.fetchAddPacket p m) s = .next (spillGate .fabric
      (atomicPacket m (fun old => fetchAddResult h.dtype old (fieldOf b 0 8)) h) s) ∧
    exec (.compareSwapPacket p m) s = .next (spillGate .fabric
      (atomicPacket m (fun old => if old = fieldOf b 0 8 then fieldOf b 8 8 else old) h) s) ∧
    exec (.signalIncrement p m) s = .next (spillGate .fabric (signalPacket m h b) s) ∧
    exec (.synchronisation p m) s = .next (spillGate .fabric (syncPacket m h b) s) ∧
    exec (.laneNotice p m) s = .next (spillGate .fabric (noticePacket m h b) s)) ∧
  (∀ (c : Client) (f : State → State) (s : State), s.hp.spill = [] → spillGate c f s = f s) ∧
  (∀ (h : PktHdr) (k a : Nat) (data : List Byte) (bad : State → State)
      (f : State → Option (Status × Nat) × State) (s : State),
    (entryFor h s = none → receivePacket h k a data bad f s = dropPacket false s) ∧
    (∀ x ack, entryFor h s = some x → x.answer = some ack →
      receivePacket h k a data bad f s = if h.last && !ack.isEmpty then answerMsg h ack s else s) ∧
    (∀ x, entryFor h s = some x → x.answer = none → (tget x.got h.index).isSome = true →
      receivePacket h k a data bad f s = s)) ∧
  (∀ (h : PktHdr) (f : State → List Byte × State) (g : List Byte → State → State) (s : State),
    (entryFor h s = none → receiveOne h f g s = dropPacket false s) ∧
    (∀ x ack, entryFor h s = some x → x.answer = some ack → receiveOne h f g s = g ack s) ∧
    (∀ x, entryFor h s = some x → x.answer = none →
      receiveOne h f g s = g (f s).1 (putEntry h { x with answer := some (f s).1 } (f s).2))) ∧
  (∀ (p : List Byte) (m : Fin 128) (st : Status) (d : Nat) (s : State), let h := pktHdr p
    tget s.fab.rx (rxKey h) = none → openEntries s < 8192 → s.hp.spill = [] →
    remoteCheck s h.gaddr h.opLen accRemoteWrite = some (st, d) →
    (Completes (.putData p m) s fun t =>
      t.mem = s.mem ∧ t.undef = s.undef ∧ s.fab.inject.length < t.fab.inject.length) ∧
    (Completes (.putReduceData p m) s fun t =>
      t.mem = s.mem ∧ t.undef = s.undef ∧ s.fab.inject.length < t.fab.inject.length)) ∧
  (∀ (p : List Byte) (m : Fin 128) (s : State), let h := pktHdr p
    let data := (p.drop 32).take (pieceLen h)
    let a := gaLocal h.gaddr + h.msgOff
    tget s.fab.rx (rxKey h) = none → openEntries s < 8192 → h.index = 0 → h.last = true → h.count = 1 →
    h.check = crc32c data → remoteCheck s h.gaddr h.opLen accRemoteWrite = none → accessRefused s a data.length = none →
    s.canonical → s.hp.spill = [] → s.hnk.wmb = [] → s.hnk.lostBursts = [] →
    ((blocksOf a data.length).all fun b => !isUe s b) = true → (∀ i, i < data.length → tableByte s (a + i) = none) →
    let answered := fun t : State => t.fab.inject = s.fab.inject ++
      (messagePackets { src := selfId s, msg := freeMsg s, op := 9 } (ackData h.msg .sOk 0 1 m)).map fun b =>
        { dest := h.src, payload := b }
    (Completes (.putData p m) s fun t => readBytes t a data.length = data ∧ answered t ∧
      ∀ y, y < a ∨ a + data.length ≤ y → readByte t y = readByte s y) ∧
    (∀ fm, elemFmt h.dtype = some fm → faultyWords s a data.length = [] →
      let new := reduceBytes fm h.redOp data (readBytes s a data.length)
      Completes (.putReduceData p m) s fun t => readBytes t a data.length = new ∧ answered t ∧
        ∀ y, y < a ∨ a + data.length ≤ y → readByte t y = readByte s y)) ∧
  (∀ (p : List Byte) (m : Fin 128) (k : Nat) (o : RemOp) (s : State), let h := pktHdr p
    let data := (p.drop 32).take (pieceLen h)
    let a := gaLocal h.gaddr + h.msgOff
    tget s.fab.rx (rxKey h) = none → openEntries s < 8192 → h.index = 0 →
    (h.last = true → h.count = 1 → h.check = crc32c data) → getOp s h = some (k, o) →
    tget s.fab.op k = some o → o.status = none →
    getCheck s o.getRegion h.gaddr o.getLen = none → accessRefused s a data.length = none → s.hp.spill = [] →
    s.hnk.wmb = [] → s.hnk.lostBursts = [] → ((blocksOf a data.length).all fun b => !isUe s b) = true →
    Completes (.getData p m) s fun t =>
      t.mem = (writeBytes a data s).mem ∧ t.undef = (writeBytes a data s).undef) ∧
  (∀ (p : List Byte) (m : Fin 128) (s : State), tget s.fab.rx (rxKey (pktHdr p)) = none → openEntries s < 8192 →
    s.hp.spill = [] → getOp s (pktHdr p) = none → Completes (.getData p m) s fun t => t.mem = s.mem ∧
      t.undef = s.undef ∧ t.fab.op = s.fab.op ∧ s.fab.inject.length < t.fab.inject.length) ∧
  (∀ (p : List Byte) (m : Fin 128) (s : State), let h := pktHdr p
    tget s.fab.rx (rxKey h) = none → openEntries s < 8192 → remoteCheck s h.gaddr h.opLen accRemoteRead = none →
    accessRefused s (gaLocal h.gaddr) h.opLen = none → 0 < h.opLen → s.hp.spill = [] → s.hnk.lostBursts = [] →
    ((blocksOf (gaLocal h.gaddr) h.opLen).all fun b => !isUe s b) = true →
    faultyWords s (gaLocal h.gaddr) h.opLen = [] →
    Completes (.getRequest p m) s fun t => t.mem = s.mem ∧ t.undef = s.undef ∧ s.fab.inject.length < t.fab.inject.length ∧
      tget t.fab.op (s.fab.nextOp + 1) = some { op := 4, client := .fabric, dest := h.src, open_ := pieces h.opLen }) ∧
  (∀ (p : List Byte) (m : Fin 128) (s : State), let h := pktHdr p
    let a := gaLocal h.gaddr
    let old := leNat (readBytes s a 8)
    tget s.fab.rx (rxKey h) = none → openEntries s < 8192 → remoteCheck s h.gaddr 8 accRemoteWrite = none →
    accessRefused s a 8 = none → a % 8 = 0 → isUe s (a / 64) = false → faultyWords s a 8 = [] → s.canonical →
    s.hp.spill = [] → s.hnk.wmb = [] → (∀ i, i < 8 → tableByte s (a + i) = none) →
    (Completes (.fetchAddPacket p m) s fun t =>
      readBytes t a 8 = leBytes 8 (fetchAddResult h.dtype old (fieldOf (p.drop 32) 0 8)) ∧
      ∀ y, y < a ∨ a + 8 ≤ y → readByte t y = readByte s y) ∧
    (Completes (.compareSwapPacket p m) s fun t =>
      readBytes t a 8 = leBytes 8 (if old = fieldOf (p.drop 32) 0 8 then fieldOf (p.drop 32) 8 8 else old) ∧
      ∀ y, y < a ∨ a + 8 ≤ y → readByte t y = readByte s y)) ∧
  (∀ (p : List Byte) (m : Fin 128) (s : State), let h := pktHdr p
    let g := fieldOf (p.drop 32) 0 8
    let a := gaLocal g
    tget s.fab.rx (rxKey h) = none → openEntries s < 8192 → peerQueue a = none →
    remoteCheck s g 8 accRemoteWrite = none → accessRefused s a 8 = none → a % 8 = 0 → isUe s (a / 64) = false →
    faultyWords s a 8 = [] → s.canonical → s.hp.spill = [] → s.hnk.wmb = [] →
    (∀ i, i < 8 → tableByte s (a + i) = none) → Completes (.signalIncrement p m) s fun t =>
      readBytes t a 8 = leBytes 8 ((leNat (readBytes s a 8) + fieldOf (p.drop 32) 8 8) % 2 ^ 64) ∧
      ∀ y, y < a ∨ a + 8 ≤ y → readByte t y = readByte s y) ∧
  (∀ (p : List Byte) (m : Fin 128) (q : Nat) (s : State), let h := pktHdr p
    let g := fieldOf (p.drop 32) 0 8
    tget s.fab.rx (rxKey h) = none → openEntries s < 8192 → s.hp.spill = [] → peerQueue (gaLocal g) = some q →
    peerCheck s g q = none → let d := s.queueAt q
    (d.peerTail + 2 ^ 32 - d.head) % 2 ^ 32 + fieldOf (p.drop 32) 8 8 ≤ 2 ^ d.log2 →
      Completes (.signalIncrement p m) s fun t => t.bob = (s.modQueue q fun d =>
        { d with peerTail := (d.peerTail + fieldOf (p.drop 32) 8 8) % 2 ^ 64 }).bob ∧ t.mem = s.mem) ∧
  (∀ (m : Nat) (h : PktHdr) (b : List Byte) (s : State), let x := (fieldOf b 0 4, fieldOf b 4 8)
    let ack := ackData h.msg .sOk 0 1 m
    (x ∈ s.frm.released → syncPacket m h b s = answerMsg h ack s) ∧
    (x ∉ s.frm.released → syncPacket m h b s =
      answerMsg h ack (syncArrived x.1 (s.modFrm fun f => { f with released := f.released ++ [x] })))) ∧
  (∀ (p : List Byte) (m : Fin 128) (s : State), tget s.fab.rx (rxKey (pktHdr p)) = none → openEntries s < 8192 →
    s.hp.spill = [] →
    (fieldOf (p.drop 32) 2 1 < 8 → Completes (.laneNotice p m) s fun t => t.fab.laneLimit = true ∧
      tget t.fab.limit (fieldOf (p.drop 32) 1 1) = some (fieldOf (p.drop 32) 4 2)) ∧
    (8 ≤ fieldOf (p.drop 32) 2 1 → Completes (.laneNotice p m) s fun t =>
      t.fab.laneLimit = s.fab.laneLimit ∧ t.fab.limit = tput s.fab.limit (fieldOf (p.drop 32) 1 1) none))

/-- Acknowledgements, atomic replies and re-requests act by their header and body, waiting for spilled lines where
they need them. An acknowledgement first sets its source's rate and takes the synchronisation packets it answers out
of those that wait; then, where it names a message or transfer that this device sent to its source, that one is
answered with its status and DETAIL, a transfer's number coming free; another names nothing. Without marks a rate
rises by 2 blocks per µs, to 64 at most; with them, of at least one packet, it is multiplied by one minus half the
marked share, and is a quarter at least; a rate in lowest terms is the same rate. An atomic's reply to no message
changes nothing; another gives its operation the value, and where it comes from the message's destination answers the
message. A re-request from the message's destination sends the message again, another changes nothing; the message's
packets go out with RESENT set, and the resend is counted. The receiver asks for an incomplete message that is not
dropped, eight frames on, three times, then gives it up: its entry goes, the event is counted and MSG_INCOMPLETE is
set; a dropped one is forgotten, and an answered or recent one stays. The source resends a message sixteen frames on
four times, and then answers its operation E_UNREACHABLE. Every synchronisation packet that waits goes out again under
its number. A transit packet takes a free candidate strand with MARKS and HOPS incremented, the deflection counted, or
stays; in the end it is dropped and counted. (rests on R291, R292, R294, R295, R297, R298, R299) -/
def Obligations.AnswersResendsAndMessagesGivenUp : Prop :=
  (∀ (p : List Byte) (m : Fin 128) (s : State), let h := pktHdr p
    let b := p.drop 32
    exec (.acknowledgement p m) s = .next (spillGate .fabric (ackPacket h b) s) ∧
    exec (.atomicReply p m) s = .next (spillGate .fabric (replyPacket h b) s) ∧
    exec (.reRequest p m) s = .next (spillGate .fabric (reRequestPacket h b) s)) ∧
  (∀ (r : Rate) (packets marks : Nat),
    (64 * r.den ≤ r.num + 2 * r.den → rateAfter r packets 0 = { num := 64, den := 1 }) ∧
    (r.num + 2 * r.den < 64 * r.den → rateAfter r packets 0 = { num := r.num + 2 * r.den, den := r.den }) ∧
    (0 < marks → 0 < packets →
      let x : Rate := { num := r.num * (2 * packets - min marks packets), den := r.den * (2 * packets) }
      (4 * x.num ≤ x.den → rateAfter r packets marks = { num := 1, den := 4 }) ∧
      (x.den < 4 * x.num → rateAfter r packets marks = x.reduce)) ∧
    r.reduce.num * r.den = r.num * r.reduce.den) ∧
  (∀ (h : PktHdr) (b : List Byte) (s : State), let k := fieldOf b 0 2
    let st := statusOf (fieldOf b 2 2)
    let u := (updateRate h.src (fieldOf b 8 2) (fieldOf b 10 2) s).modFab fun f =>
      { f with syncOut := f.syncOut.filter fun y => !(y.dest == h.src && y.msg == k) }
    (h.redOp ≠ 1 → tget s.fab.tx k = none → ackPacket h b s = u) ∧
    (∀ x, h.redOp ≠ 1 → tget s.fab.tx k = some x → ackPacket h b s = if x.dest ≠ h.src then u
      else answerOp x.op st (fieldOf b 4 4) (u.modFab fun f => { f with tx := tput f.tx k none })) ∧
    (h.redOp = 1 → tget s.fab.txXfer k = none → ackPacket h b s = u) ∧
    (∀ x, h.redOp = 1 → tget s.fab.txXfer k = some x → ackPacket h b s = if x.dest ≠ h.src then u
      else xferFreed (answerOp x.op st (fieldOf b 4 4) (u.modFab fun f => { f with txXfer := tput f.txXfer k none })))) ∧
  (∀ (h : PktHdr) (b : List Byte) (s : State),
    (tget s.fab.tx h.msg = none → replyPacket h b s = s) ∧
    (∀ x, tget s.fab.tx h.msg = some x →
      let u := s.modFab fun f => { f with op := tmod f.op x.op fun o => o.map fun o => { o with value := fieldOf b 0 8 } }
      replyPacket h b s = if x.dest ≠ h.src then u
        else answerOp x.op (statusOf (fieldOf b 8 2)) 0 (u.modFab fun f => { f with tx := tput f.tx h.msg none }))) ∧
  (∀ (h : PktHdr) (b : List Byte) (s : State), let k := fieldOf b 0 2
    (tget s.fab.tx k = none → reRequestPacket h b s = s) ∧
    (∀ x, tget s.fab.tx k = some x → reRequestPacket h b s = if x.dest = h.src then resendMessage k false s else s)) ∧
  (∀ (k : Nat) (timed : Bool) (x : TxMsg) (s : State), tget s.fab.tx k = some x →
    let t := resendMessage k timed s
    t.fab.inject = s.fab.inject ++ x.packets.map (fun b => { dest := x.dest, payload := resentPacket b }) ∧
    t.fab.resends = wrapInc 16 s.fab.resends ∧
    tget t.fab.tx k = some { x with frames := 0, resends := x.resends + bit timed } ∧ t = { s with fab := t.fab }) ∧
  (∀ (src : BitVec 14) (msg : Half) (s : State), let k := src.toNat * 65536 + msg.toNat
    (tget s.fab.rx k = none → exec (.rerequestTimer src msg) s = .next s) ∧
    (∀ x, tget s.fab.rx k = some x → (x.answer.isSome = true ∨ framesPassed s x.frames 8 = false) →
      exec (.rerequestTimer src msg) s = .next s) ∧
    (∀ x, tget s.fab.rx k = some x → x.answer = none → framesPassed s x.frames 8 = true →
      (x.dropped = true → exec (.rerequestTimer src msg) s =
        .next (s.modFab fun f => { f with rx := tput f.rx k none })) ∧
      (x.dropped = false → x.rereqs < 3 → exec (.rerequestTimer src msg) s =
        .next (sendAnswer src.toNat { op := 0x0A } (leBytes 2 msg.toNat) (s.modFab fun f =>
          { f with rereqs := wrapInc 16 f.rereqs,
                   rx := tput f.rx k (some { x with frames := 0, rereqs := x.rereqs + 1 }) }))) ∧
      (x.dropped = false → 3 ≤ x.rereqs → let u := winBump 34 0 0 (s.modFab fun f =>
          { f with rx := tput f.rx k none, msgIncomplete := true })
        exec (.rerequestTimer src msg) s = .next (escalate
          { row := 34, count := winCount u 34 0 0, posted := true, own := some (0x07, .eMsgIncomplete, k) } u)))) ∧
  (∀ (msg : Half) (s : State),
    (tget s.fab.tx msg.toNat = none → exec (.resendTimer msg) s = .next s) ∧
    (∀ x, tget s.fab.tx msg.toNat = some x → framesPassed s x.frames 16 = false → exec (.resendTimer msg) s = .next s) ∧
    (∀ x, tget s.fab.tx msg.toNat = some x → framesPassed s x.frames 16 = true →
      (x.resends < 4 → exec (.resendTimer msg) s = .next (resendMessage msg.toNat true s)) ∧
      (4 ≤ x.resends → exec (.resendTimer msg) s = .next (answerOp x.op .eUnreachable 0 (s.modFab fun f =>
        { f with tx := tput f.tx msg.toNat none }))))) ∧
  (∀ s : State, Completes .syncResend s fun t => 
    t.fab.inject = s.fab.inject ++ s.fab.syncOut.map (fun y =>
      let data := leBytes 4 y.entry ++ leBytes 8 y.frame
      let h : PktHdr := { src := selfId s, msg := y.msg, count := 1, op := 0x0B, last := true, check := crc32c data }
      { dest := y.dest, payload := pktBytes h data }) ∧
    t.fab.syncOut = s.fab.syncOut ∧ t = { s with fab := t.fab }) ∧
  (∀ (i : Nat) (s : State), (s.fab.transit[i]? = none → exec (.transitDeflect i) s = .next s ∧
      exec (.transitDrop i) s = .next s) ∧
    (∀ p, s.fab.transit[i]? = some p →
      exec (.transitDrop i) s = .next (dropPacket false (s.modFab fun f => { f with transit := f.transit.eraseIdx i })) ∧
      (firstFree s (pktHdr p.payload) ((List.range 64).filter (packetCandidate s)) = none →
        exec (.transitDeflect i) s = .next s) ∧
      (∀ n, firstFree s (pktHdr p.payload) ((List.range 64).filter (packetCandidate s)) = some n →
        exec (.transitDeflect i) s = .next ((s.modFab fun f =>
          { f with transit := f.transit.eraseIdx i, deflections := wrapInc 32 f.deflections }).modLink n fun l =>
            { l with pkt := some { p with marks := min 127 (p.marks + 1), hops := p.hops + 1 } }))))

/-- A strand that carries no traffic takes no hello and sends none; on another a hello to be sent is queued as a
sequenced discovery block, and one received is taken. A hello taken first gives its sample, unless it echoes nothing
or a replay may have delayed it: the last 64 samples are kept, and with 64 the latency is their mean. It is then kept
with its echo, the neighbour is found once there are 64 samples, the strand's state is evaluated anew, and a child
that joins is welcomed. A strand that still waits and has had no hello when its time is over has no neighbour; a found
neighbour whose hellos have stopped is lost, with its samples, echo and hello; each has the strand's state evaluated
anew, and other strands change nothing. Evaluating anew takes up a plan.accept that waits and notes the strands of the
ticks. A direction that trains takes the lanes of its map, or of L0 to L7 where it has none, that did not fail, is in
service with at least four of them, and starts its link anew; a strand then in service begins its 20 ms, and in each
case its state is evaluated anew. The state of a strand is as R309 says: without a plan out, discovering, found or
none; under a plan absent or idle without a neighbour present, else matched, or quarantined with the first reason that
applies. (rests on R253, R270, R277, R301, R302, R303, R304, R309, R312, R323) -/
def Obligations.HellosAndNeighbours : Prop :=
  (∀ (n : StrandId) (p : List Byte) (w : Quad) (s : State),
    (carriesTraffic s n = false → exec (.hello n p w) s = .next s ∧ exec (.helloSend n w) s = .next s) ∧
    (carriesTraffic s n = true → exec (.hello n p w) s = .next (takeHello n p w.toNat s) ∧
      exec (.helloSend n w) s = .next (s.modLink n fun l =>
        { l with seqd := l.seqd ++ [{ typ := 8, payload := fitBytes 256 (discoveryHead s n 1 w.toNat) }] }))) ∧
  (∀ (n : Nat) (p : List Byte) (w : Nat) (s : State), let u := takeSample n p w s
    let v := u.modDisc n fun d =>
      { d with hello := some (helloOf p), echo := some (fieldOf p 26 8, w),
               rejoined := d.rejoined && (helloOf p).idValid && !(helloOf p).formed,
               nb := if d.samples.length = 64 then .found else d.nb }
    takeHello n p w s = welcome n (strandChanged n v)) ∧
  (∀ (n : Nat) (p : List Byte) (w : Nat) (s : State),
    ((fieldOf p 34 8 = 0 ∨ (s.linkAt n).replayed = true) → takeSample n p w s = s) ∧
    (fieldOf p 34 8 ≠ 0 → (s.linkAt n).replayed = false →
      takeSample n p w s = s.modDisc n fun d => let xs := (latencySample p w :: d.samples).take 64
        { d with samples := xs, latency := if xs.length = 64 then meanLatency xs else d.latency })) ∧
  (∀ (n : Nat) (s : State), strandChanged n s = noteTickStrands (resumeAccept (reevaluate n s))) ∧
  (∀ (n : StrandId) (s : State), let d := s.discAt n
    ((d.nb ≠ .waiting ∨ d.hello.isSome = true) → exec (.neighbourTimeout n) s = .next s) ∧
    (d.nb = .waiting → d.hello = none → exec (.neighbourTimeout n) s =
      .next (strandChanged n (s.modDisc n fun d => { d with nb := .none }))) ∧
    (d.nb ≠ .found → exec (.neighbourLost n) s = .next s) ∧
    (d.nb = .found → exec (.neighbourLost n) s = .next (strandChanged n (s.modDisc n fun d =>
      { d with nb := .lost, samples := [], echo := none, hello := none })))) ∧
  (∀ (n : StrandId) (rx : Bool) (l : List LaneId) (s : State),
    let u := restartLink n rx (trainDirection n rx (l.map (·.val)) s)
    (inService u n = false → exec (.strandTrained n rx l) s = .next (strandChanged n u)) ∧
    (inService u n = true → exec (.strandTrained n rx l) s = .next (strandChanged n ((joinSwap n u).modDisc n fun d =>
      { d with nb := .waiting, samples := [], hello := none, echo := none, rejoined := false })))) ∧
  (∀ (n : Nat) (l : List Nat) (s : State), let stays := fun m : List Nat => (mapToTrain m).filter fun x => !l.contains x
    let r := stays (s.strandAt n).rxMap
    let x := stays (s.strandAt n).txMap
    trainDirection n true l s = (s.modStrand n fun t =>
      { t with rxMap := r, rxNext := none, rxOut := decide (r.length < 4), dropReq := [] }) ∧
    trainDirection n false l s = (s.modStrand n fun t =>
      { t with txMap := x, txNext := none, txOut := decide (x.length < 4), lost := t.lost ++ l,
               withdrawn := t.withdrawn || x.length < 8 })) ∧
  (∀ (n : Nat) (s : State),
    (planNb s n = none → inService s n = false → strandState s n = (.out, 0)) ∧
    (planNb s n = none → inService s n = true → strandState s n =
      (match (s.discAt n).nb with | .waiting => .discovering | .found => .found | _ => .none, 0)) ∧
    (∀ e, planNb s n = some e → present s n = false →
      strandState s n = (if e.role = 1 then .absent else .idle, 0)) ∧
    (∀ e, planNb s n = some e → present s n = true →
      let why := mismatchReason e ((s.top.plan.map (·.domDigest)).getD 0) (s.discAt n).latency ((s.discAt n).hello.getD {})
      strandState s n = if why = 0 then (.matched, 0) else (.quarantined, why)))

/-- An alignment block that does not come from a parent strand of a tree of this device's plan changes nothing.
Another gives the device the place behind it: a depth one more, and the block's latency with the strand's and, behind
a device that is no root, 120 ns. Deeper than 8 it is in neither tree and the event is posted; else its tick latency
and the strand in use are recorded and it joins the tree: the place is kept, the alignment goes on to the tree's
matched children, and its summary goes once theirs are in. A summary for no tree changes nothing; from the standby for
its tree it is kept as the totals; from a child that is not matched it changes nothing; from a matched one it is kept,
and this device's own is then sent if it has changed after forming or after being sent, or once it is complete. A
summary that is late is sent without the missing children in each tree; after forming both are sent at each refresh,
before it nothing. Forming by the whorl, once, when it has its place: A is its largest latency and 200 ns, rounded up
to 100 ns, and A' likewise where the standby's totals came; H_L is 2 A + 1,000 ns; the domain is formed and its role
is the plan's. A form block from the main tree's parent to a device with its place in the tree gives it A and A', its
role, and TOO_FAR where A is less than its own latency and 200 ns; another changes nothing. (rests on R51, R69, R70,
R306, R311, R313, R314, R315) -/
def Obligations.FormingTheDomain : Prop :=
  (∀ (n : StrandId) (p : List Byte) (s : State), (2 ≤ fieldOf p 48 1 ∨ parentStrand s (fieldOf p 48 1) n p = false) →
    exec (.alignment n p) s = .next s) ∧
  (∀ (n : StrandId) (p : List Byte) (s : State), fieldOf p 48 1 < 2 → parentStrand s (fieldOf p 48 1) n p = true →
    let pos := placeBehind p (s.discAt n).latency
    (8 < pos.depth → exec (.alignment n p) s = .next (postDevice 0x08 .sPlanMismatch 0xFFFFFFFF
      (s.modTop fun t => { t with main := none, sb := none }))) ∧
    (pos.depth ≤ 8 → fieldOf p 48 1 = 0 → exec (.alignment n p) s = .next (joinTree 0 pos
      ((s.modFrm fun f => { f with latL := pos.lat, latNew := pos.lat }).modTop fun t => { t with inUse := n }))) ∧
    (pos.depth ≤ 8 → fieldOf p 48 1 = 1 → exec (.alignment n p) s = .next (joinTree 1 pos
      ((s.modFrm fun f => { f with latL2 := pos.lat, latNew2 := pos.lat }).modTop fun t => { t with sbInUse := n })))) ∧
  (∀ (q : TreePos) (s : State), let a := s.modTop fun t => { t with main := some q }
    let b := s.modTop fun t => { t with sb := some q }
    joinTree 0 q s = trySummary 0 (sendAlign 0 q (matchedChildren a 0) a) ∧
    joinTree 1 q s = trySummary 1 (sendAlign 1 q (matchedChildren b 1) b)) ∧
  (∀ (p : List Byte) (x : Nat), (placeBehind p x).depth = fieldOf p 49 1 + 1 ∧
    (fieldOf p 49 1 = 0 → (placeBehind p x).lat = fieldOf p 52 4 + x) ∧
    (fieldOf p 49 1 ≠ 0 → (placeBehind p x).lat = fieldOf p 52 4 + x + 120)) ∧
  (∀ (n : StrandId) (p : List Byte) (s : State),
    (2 ≤ fieldOf p 48 1 → exec (.summary n p) s = .next s) ∧
    (fieldOf p 48 1 = 1 → fromStandby s n = true → exec (.summary n p) s =
      .next (s.modTop fun t => { t with sbTotals := some ((summaryFields p).1, (summaryFields p).2.2.1) })) ∧
    (fieldOf p 48 1 < 2 → (fieldOf p 48 1 = 0 ∨ fromStandby s n = false) →
      n.val ∉ matchedChildren s (fieldOf p 48 1) → exec (.summary n p) s = .next s)) ∧
  (∀ (n : StrandId) (p : List Byte) (s : State), let tree := fieldOf p 48 1
    tree < 2 → (tree = 0 ∨ fromStandby s n = false) → n.val ∈ matchedChildren s tree →
    let u := s.modDisc n fun d =>
      if tree = 0 then { d with sum0 := some (summaryFields p) } else { d with sum1 := some (summaryFields p) }
    let w := if ((treePos u tree).map (·.sent)).getD false && summaryOf u tree != summaryOf s tree then sendSummary tree u
      else trySummary tree u
    (s.top.formed = true → summaryOf u tree = summaryOf s tree → exec (.summary n p) s = .next u) ∧
    (s.top.formed = true → summaryOf u tree ≠ summaryOf s tree → exec (.summary n p) s = .next (sendSummary tree u)) ∧
    (s.top.formed = false → tree = 1 → exec (.summary n p) s = .next w) ∧
    (s.top.formed = false → tree = 0 → w.top.plan.map planRole ≠ some .whorl → exec (.summary n p) s = .next w) ∧
    (s.top.formed = false → tree = 0 → w.top.plan.map planRole = some .whorl → exec (.summary n p) s =
      .next (w.modTop fun t => { t with sumCount := (summaryOf w 0).1, sumMatch := (summaryOf w 0).2.2.2 }))) ∧
  (∀ s : State, exec .summaryTimeout s = .next (lateSummary 1 (lateSummary 0 s)) ∧
    (s.top.formed = false → exec .summaryRefresh s = .next s) ∧
    (s.top.formed = true → exec .summaryRefresh s = .next (sendSummary 1 (sendSummary 0 s)))) ∧
  (∀ (tree : Nat) (s : State),
    (treePos s tree = none → lateSummary tree s = s ∧ trySummary tree s = s ∧ sendSummary tree s = s) ∧
    (∀ q, treePos s tree = some q → lateSummary tree s = if q.sent then s else sendSummary tree s) ∧
    (∀ q, treePos s tree = some q → trySummary tree s =
      if !q.sent && (matchedChildren s tree).all (fun n => (childSum s tree n).isSome) then sendSummary tree s else s)) ∧
  (∀ s : State,
    ((s.top.plan.map planRole ≠ some .whorl ∨ s.top.main = none ∨ s.top.formSent = true) →
      exec .formTimeout s = .next s) ∧
    (s.top.plan.map planRole = some .whorl → s.top.main.isSome = true → s.top.formSent = false →
      Completes .formTimeout s fun t => let a := alignDelay (summaryOf s 0).2.2.1
        t.top.formed = true ∧ t.top.formSent = true ∧ t.frm.alignA = a ∧ t.frm.role = .whorl ∧
        t.frm.holdLead = 2 * a + 1000 ∧ t.frm.noStandby = s.top.sbTotals.isNone ∧
        t.frm.alignA2 = ((s.top.sbTotals.map fun y => alignDelay y.2).getD 0) ∧ t.top.plan = s.top.plan)) ∧
  (∀ m : Nat, m + 200 ≤ alignDelay m ∧ alignDelay m < m + 300 ∧ alignDelay m % 100 = 0) ∧
  (∀ (n : StrandId) (p : List Byte) (s : State),
    ((parentStrand s 0 n p = false ∨ s.top.main = none) → exec (.form n p) s = .next s) ∧
    (parentStrand s 0 n p = true → s.top.main.isSome = true → Completes (.form n p) s fun t =>
      t.top.formed = true ∧ t.frm.alignA = fieldOf p 52 4 ∧ some t.frm.role = s.top.plan.map planRole ∧
      t.frm.noStandby = decide (fieldOf p 56 4 = 0xFFFFFFFF) ∧
      (fieldOf p 56 4 ≠ 0xFFFFFFFF → t.frm.alignA2 = fieldOf p 56 4) ∧
      t.top.tooFar = decide (fieldOf p 52 4 < s.frm.latL + 200)))

/-- On a quarantined strand chunks are discarded and counted. Elsewhere a chunk, its bytes cut to its length and its
CHECK compared, and a credit-only chunk are taken, waiting for spilled lines where they need them; an abort is taken.
A chunk of a skein that the frame does not use, or for which no context is bound or free, or whose collective is
stopped, does no more than bind the skein's context. Another gives its credit; with no collective running there it
waits in staging; else it is compared: one that is early waits, one that differs is a mismatch, one that fits is
consumed or, with a wrong CHECK, ends the collective. A chunk of a gather that is consumed into good blocks outside
the tables leaves its bytes in the output and every other byte as it was; one whose values are not final changes no
byte of memory. A mismatch is shown with both signatures and counted, stops the collective and fails the frame. A
credit-only chunk of no context or a stopped one changes nothing; another gives its credit and lets what waited for it
leave. An abort is shown; one seen before, or on a device that runs no image, does nothing more. Of a collective that
runs here it stops it, fails the frame and is counted. With no address spilled, a buddy takes an assignment or a
release once and answers it, an answer settles the request, a fetch is answered, and other packets change nothing; it
takes a device that it protects, or any while it protects fewer than four, and a release lets the device go. The
layout of buddy packets is the model's own (log entry 53). (rests on R310, R332, R333, R336, R337, R338, R339, R340,
R341, R378, R380) -/
def Obligations.CollectiveChunksCreditsAbortsAndBuddies : Prop :=
  (∀ (n : StrandId) (o data : List Byte) (w : Word) (s : State), (s.discAt n).st = .quarantined →
    let t := s.modTop fun x => { x with discards := wrapInc 32 x.discards }
    exec (.collectiveChunk n o data w) s = .next t ∧ exec (.creditOnly n o) s = .next t ∧ exec (.abortChunk n o) s = .next t) ∧
  (∀ (n : StrandId) (o data : List Byte) (w : Word) (s : State), (s.discAt n).st ≠ .quarantined →
    let bs := data.take (fieldOf o 0x20 4)
    exec (.collectiveChunk n o data w) s = .next (spillGate .fabric
      (takeChunk { open_ := o, data := bs, good := crc32c bs == w.toNat }) s) ∧
    exec (.creditOnly n o) s = .next (spillGate .fabric (takeCreditOnly o) s) ∧
    exec (.abortChunk n o) s = .next (takeAbort o s)) ∧
  (∀ (skein : Nat) (s : State),
    (∀ k, ctxOf s skein = some k → bindCtx skein s = (some k, s)) ∧
    (∀ k, ctxOf s skein = none → (List.range 16).find? (fun k => !(s.ctxAt k).bound) = some k →
      bindCtx skein s = (some k, s.modCtx k fun _ => { bound := true, skein := skein })) ∧
    (ctxOf s skein = none → (List.range 16).find? (fun k => !(s.ctxAt k).bound) = none → bindCtx skein s = (none, s))) ∧
  (∀ (x : EarlyChunk) (s : State), let o := x.open_
    let d := fieldOf o 2 1
    let b := bindCtx (fieldOf o 8 2) s
    (skeinInFrame s (fieldOf o 8 2) = false → takeChunk x s = s) ∧
    (skeinInFrame s (fieldOf o 8 2) = true → b.1 = none → takeChunk x s = b.2) ∧
    (∀ k, skeinInFrame s (fieldOf o 8 2) = true → b.1 = some k → (b.2.ctxAt k).stopped = true → takeChunk x s = b.2) ∧
    (∀ k, skeinInFrame s (fieldOf o 8 2) = true → b.1 = some k → (b.2.ctxAt k).stopped = false →
      let u := if d ≤ 1 then takeCredit k d (fieldOf o 0x0E 2) b.2 else b.2
      (runningColl u k = none → takeChunk x s = stageChunk k x u) ∧
      (∀ co, runningColl u k = some co → takeChunk x s = match compareOpening u co (u.ctxAt k) o with
        | .early => stageChunk k x u
        | .differs f => skeinMismatch co k f o u
        | .fits c => if x.good then consumeChunk co k d c x.data u else chunkCheckFails co k u))) ∧
  (∀ (co : Coll) (k d : Nat) (x : ChunkId) (bs : List Byte) (s : State), let t := consumeChunk co k d x bs s
    let a := outAddr co (chunkOff co.a d x) s
    (x.1 = 1 → co.a.elems ≠ 0 → s.canonical → s.hp.spill = [] → s.hnk.wmb = [] → s.hnk.lostBursts = [] →
      accessRefused s a bs.length = none → ((blocksOf a bs.length).all fun b => !isUe s b) = true →
      (∀ i, i < bs.length → tableByte s (a + i) = none) →
      readBytes t a bs.length = bs ∧ ∀ y, y < a ∨ a + bs.length ≤ y → readByte t y = readByte s y) ∧
    ((co.a.elems = 0 ∨ isFinal co x = false) → t.mem = s.mem ∧ t.undef = s.undef)) ∧
  (∀ (co : Coll) (k f : Nat) (o : List Byte) (s : State), let t := skeinMismatch co k f o s
    t.skn.mismatch = true ∧ t.skn.mismatches = wrapInc 16 s.skn.mismatches ∧ t.skn.lastSkein = co.a.skein ∧
    t.skn.sigExp = (s.ctxAt k).sig ∧ t.skn.sigGot = fieldOf o 0x18 8 ∧ (t.ctxAt k).stopped = true ∧
    t.frm.failStatus.isSome = true ∧ winCount t 38 0 0 = winCount s 38 0 0 + 1 ∧ t.mem = s.mem) ∧
  (∀ (o : List Byte) (s : State),
    (ctxOf s (fieldOf o 8 2) = none → takeCreditOnly o s = s) ∧
    (∀ k, ctxOf s (fieldOf o 8 2) = some k → ((s.ctxAt k).stopped = true ∨ 1 < fieldOf o 2 1) → takeCreditOnly o s = s) ∧
    (∀ k, ctxOf s (fieldOf o 8 2) = some k → (s.ctxAt k).stopped = false → fieldOf o 2 1 ≤ 1 →
      let u := takeCredit k (fieldOf o 2 1) (fieldOf o 0x0E 2) s
      (runningColl u k = none → takeCreditOnly o s = u) ∧
      (∀ co, runningColl u k = some co → takeCreditOnly o s = pump co k u))) ∧
  (∀ (o : List Byte) (s : State), let v := s.modSkn fun v => { v with aborted := true }
    let seen := s.skn.abortedSeq.any fun y => y.skein == fieldOf o 8 2 && y.seq == fieldOf o 0x10 4
    (seen = true → takeAbort o s = v) ∧ (seen = false → runningImage s = none → takeAbort o s = v)) ∧
  (∀ (o : List Byte) (img : Image) (r k : Nat) (co : Coll) (s : State),
    (s.skn.abortedSeq.any fun y => y.skein == fieldOf o 8 2 && y.seq == fieldOf o 0x10 4) = false →
    runningImage s = some img → myRank s = some r → ctxOf s (fieldOf o 8 2) = some k → (s.ctxAt k).started = true →
    (s.ctxAt k).seq = fieldOf o 0x10 4 → collOf s img (s.ctxAt k).step = some co → let t := takeAbort o s
      t.skn.aborted = true ∧ t.skn.aborts = wrapInc 16 s.skn.aborts ∧ t.skn.lastSkein = fieldOf o 8 2 ∧
      t.skn.lastPos = fieldOf o 0x0A 2 ∧ (t.ctxAt k).stopped = true ∧ t.frm.failStatus.isSome = true ∧
      winCount t 39 0 0 = winCount s 39 0 0 + 1 ∧ t.mem = s.mem) ∧
  (∀ (p : List Byte) (s : State), s.hp.spill = [] → let h := pktHdr p
    let b := p.drop 32
    let answer := fun bs s => sendAnswer h.src { op := 0x80 } bs s
    ((h.op ≠ 0x80 ∨ 4 ≤ fieldOf b 0 1) → exec (.buddyAssignment p) s = .next s) ∧
    (h.op = 0x80 → fieldOf b 0 1 = 0 → exec (.buddyAssignment p) s = .next (receiveOne h (takeProtected h) answer s)) ∧
    (h.op = 0x80 → fieldOf b 0 1 = 1 → exec (.buddyAssignment p) s = .next (receiveOne h (dropProtected h) answer s)) ∧
    (h.op = 0x80 → fieldOf b 0 1 = 2 → exec (.buddyAssignment p) s = .next (buddyAnswer h b s)) ∧
    (h.op = 0x80 → fieldOf b 0 1 = 3 → exec (.buddyAssignment p) s = .next (answer (fetchAnswer h b s) s))) ∧
  (∀ (h : PktHdr) (s : State), let known := s.res.protects.any fun p => p.live && p.dev == h.src
    ((known = true ∨ (s.res.protects.filter (·.live)).length < 4) →
      (takeProtected h s).2 = s.modRes fun r => { r with protects := joinProtected h.src r.protects }) ∧
    (known = false → 4 ≤ (s.res.protects.filter (·.live)).length → (takeProtected h s).2 = s) ∧
    (dropProtected h s).2 = s.modRes fun r => { r with protects := r.protects.filter fun p => p.dev != h.src })

/-- Without input power a report changes nothing. With it the readings are taken: VIN, P_IN, the dies' power, the last
10,000 readings of P_IN with the means of the last 10, 100 and 10,000, the shortfall, the run of readings above 1,500
W, and that of 10 ms means below 95 % of the limit. The interval then ends: dies without a message are counted,
budgets computed and brought into use, and a new interval begins with none received. With ninety readings in the run,
or a 10 ms mean more than 5 % above the cap, the guard is triggered; without a program the dies then choose and take
their steps and the guard is released where it may be. A trigger already in force changes nothing; another stretches
the clocks, is shown and counted, lowers every compute die's limit by two steps, is CAUSE bit 0 of the frame and takes
level 2; the peak comparator is one. A die's budget message carries the interval, its power, its demand and its
hotspot, and waits; on arrival it is kept, marked received, and each compute die's next budget is computed. A droop
stretches its die's clocks by 25 or 50 %, at least as before, and is counted, with CAUSE bit 1; recovery with none in
force changes nothing, and else ends the stretch and adds its time, a long one lowering the limit one step at level 2.
A new floor is kept and the cap judged against it: it is unreachable exactly below the floor, and posted as it becomes
so. A die pauses in the granules that its step's duty leaves out, and its two spindles' ramps follow. (rests on R38,
R101, R348, R350, R351, R352, R353, R354, R356, R358, R359, R373) -/
def Obligations.PowerReportsBudgetsDroopsAndTheGuard : Prop :=
  (∀ (r : RegReport) (s : State), (s.pkg.powered = false → exec (.regulatorReport r) s = .next s) ∧
    (s.pkg.powered = true → let a := endInterval (s.modPwr (takeReadings r))
      let b := if 90 ≤ a.pwr.excursion then guardTrigger .excursion a else a
      let c := if b.pwr.capW * 105 < b.pwr.mean10 * 100 then guardTrigger .cap b else b
      exec (.regulatorReport r) s = .next (if noProgram c then guardRelease (takeSteps (chooseSteps c)) else c))) ∧
  (∀ (r : RegReport) (x : Pwr), let y := takeReadings r x
    let rs := (r.pIn.toNat :: x.readings).take 10000
    y.vin = r.vin.toNat ∧ y.pIn = r.pIn.toNat ∧ y.dieW = r.dieW.map (·.toNat) ∧ y.readings = rs ∧ y.mean1 = meanOf 10 rs ∧
    y.mean10 = meanOf 100 rs ∧ y.mean1s = meanOf 10000 rs ∧ y.short = r.short ∧
    y.excursion = (if 1500 < r.pIn.toNat then min (x.excursion + 1) 65535 else 0) ∧
    y.calm = (if meanOf 100 rs * 100 < 95 * min x.capW 1500 then min (x.calm + 1) 65535 else 0)) ∧
  (∀ s : State, let u := countMissing 5 (countMissing 4 (countMissing 3 (countMissing 2 (countMissing 1 (countMissing 0 s)))))
    endInterval s = (computeBudgets u).modPwr fun x => { x with interval := wrapInc 16 x.interval, received := 0,
                                                                die := x.die.map fun d => { d with budget := d.budgetNext } }) ∧
  (∀ s : State, exec .stage1PeakComparator s = .next (guardTrigger .peak s)) ∧
  (∀ (k : GuardKind) (s : State), (k ∈ s.pwr.stretch → guardTrigger k s = s) ∧
    (k ∉ s.pwr.stretch → let u := s.modPwr fun x =>
        { x with stretch := x.stretch ++ [k], guard_ := true, guards := wrapInc 16 x.guards, guardDue := true,
                 die := x.die.map fun d => { d with lower := d.lower + 2 } }
      let v := winBump 41 0 0 (u.modFrm fun f => { f with plannedCause := f.plannedCause ||| 0x01 })
      guardTrigger k s = escalate { row := 41, count := winCount v 41 0 0, l2 := true } v)) ∧
  (∀ (d : Die) (s : State), let i := d.val
    let m : BudgetMsg :=
      { interval := s.pwr.interval, power := vget s.pwr.dieW i, hot := (s.thmDieAt i).hotspot,
        demand := if i < 4 then estimateAt s i (min (hintLimit s i) (s.pwrDieAt i).thermal) else vget s.pwr.dieW i }
    exec (.budgetSend d) s = .next (s.modPwr fun x => { x with sent := vmod x.sent i fun _ => some m })) ∧
  (∀ (d : Die) (s : State), (vget s.pwr.sent d = none → exec (.budgetMessage d) s = .next s) ∧
    (∀ m, vget s.pwr.sent d = some m → exec (.budgetMessage d) s = .next (computeBudgets (s.modPwr fun x =>
      { x with sent := vmod x.sent d fun _ => none, msg := vmod x.msg d fun _ => m,
               received := x.received ||| BitVec.ofNat 6 (2 ^ d.val) })))) ∧
  (∀ (c : CDie) (s : State), ((computeBudgets s).pwrDieAt c).budgetNext = budgetOf s c ∧
    ((computeBudgets s).pwrDieAt c).budget = (s.pwrDieAt c).budget) ∧
  (∀ (d : CDie) (deep : Bool) (s : State), let u := s.modPwrDie d fun x =>
      { x with droop := max x.droop (if deep then 50 else 25), droopEvents := satInc 0xFFFF x.droopEvents }
    let v := winBump 40 0 d (u.modFrm fun f => { f with plannedCause := f.plannedCause ||| 0x02 })
    exec (.droopDetect d deep) s = .next (escalate { row := 40, obj := d, count := winCount v 40 0 d } v)) ∧
  (∀ (d : CDie) (us : Nat) (s : State),
    (∀ long, (s.pwrDieAt d).droop = 0 → exec (.droopRecover d us long) s = .next s) ∧
    ((s.pwrDieAt d).droop ≠ 0 → let u := s.modPwrDie d fun x =>
        { x with droop := 0, droopUs := min (x.droopUs + us) 0xFFFF, lower := x.lower + 1 }
      exec (.droopRecover d us true) s = .next (escalate { row := 40, obj := d, count := winCount u 40 0 d, l2 := true } u) ∧
      exec (.droopRecover d us false) s = .next (s.modPwrDie d fun x =>
        { x with droop := 0, droopUs := min (x.droopUs + us) 0xFFFF }))) ∧
  (∀ (w : Half) (s : State), exec (.capReevaluation w) s =
    .next (judgeCap (s.pwr.capNext.getD s.pwr.capW) (s.modPwr fun x => { x with floorW := w.toNat }))) ∧
  (∀ (cap : Nat) (s : State), let u := s.modPwr fun x => { x with capUnreachable := decide (cap < s.pwr.floorW) }
    (cap < s.pwr.floorW → s.pwr.capUnreachable = false →
      judgeCap cap s = postDevice 0x0A .sCapUnreachable 0xFFFFFFFF u) ∧
    ((s.pwr.floorW ≤ cap ∨ s.pwr.capUnreachable = true) → judgeCap cap s = u)) ∧
  (∀ (d : CDie) (g : Fin 16) (s : State), let pause := decide (stepDuty (s.pwrDieAt d).step ≤ g.val)
    let turn := fun p => if (s.pwrDieAt d).paused = pause then rampEnded p else dutySpindle pause p
    exec (.dutyGranule d g) s =
      .next (((s.modPwrDie d fun x => { x with paused := pause }).modSpn (2 * d) turn).modSpn (2 * d + 1) turn) ∧
    (12 ≤ (s.pwrDieAt d).step → pause = false))

/-- H is 16 per level-2 action of the last hour, 64 per level-3 action of the last 24 hours, 32 per throttled compute
die and 32 per low wavelength, at most 255. Recomputing it keeps H and the highest H, ages the actions by 100 ms, and
makes a health snapshot due, without clearing one that is, when H reaches 128 from below while an image runs and it is
armed: a further one only once H has been below 96, or an hour has passed. An automatic snapshot begins where an image
runs, no job is under way and one is due, and is then due no more; elsewhere nothing changes. Beginning one fails
where the flash is read-only or room cannot be made, with the failure shown; else the snapshots that gave way go and
the job waits. The oldest staged record moves to the log, cut to its size, unless there is none, the flash is
read-only or the flyer does not run: then nothing changes. A flash error ends the operation that it meets; it is
counted and shown, and while there are spares a block is retired at levels 2 and 3; without one the flash is read-only
from then on. Its operation is that of the mailbox whose command uses the area, if any, which is undone and ends with
E_FLASH; for the snapshot area the job and every incomplete snapshot go, and the failure is shown. Closing a window
zeroes its count, hidden and shown; with row 0 the test counts, with row 40 the die's droop registers, and nothing
else. (rests on R369, R373, R376, R381, R382, R383, R386, R412) -/
def Obligations.HealthSnapshotsLogAndFlash : Prop :=
  (∀ s : State, healthOf s =
    min 255 (16 * s.res.recent2.length + 64 * s.res.recent3.length + 32 * throttledDies s + 32 * lowWavelengths s)) ∧
  (∀ s : State, let h := healthOf s
    let armed := s.res.healthArmed || h < 96 || hourTicks ≤ s.res.healthAge
    let due := s.frm.prog == .running && s.res.health < 128 && 128 ≤ h && armed
    exec (.healthRecompute () () ()) s = .next (s.modRes fun r =>
      { r with health := h, healthMax := max r.healthMax h, healthArmed := armed && !due, autoDue := r.autoDue || due
               recent2 := ageActions hourTicks r.recent2, recent3 := ageActions (24 * hourTicks) r.recent3
               healthAge := if due then 0 else min (r.healthAge + 1) 65535 })) ∧
  (∀ s : State,
    ((s.frm.prog ≠ .running ∨ s.res.job.isSome = true ∨ autoIsDue s = false) → exec .autoSnapshot s = .next s) ∧
    (s.frm.prog = .running → s.res.job = none → autoIsDue s = true → exec .autoSnapshot s =
      .next (beginSnapshot false true 0 none (s.modRes fun r => { r with autoDue := false })).2)) ∧
  (∀ (full auto : Bool) (label : Nat) (m : Option Nat) (s : State), let b := beginSnapshot full auto label m s
    let fails := s.modRes fun r => { r with snapFail := true }
    let room := makeRoom (extentBytes (snapExtents s full)) s.res.snaps
    (s.res.flashRo = true → b = (some .eFlash, fails)) ∧
    (s.res.flashRo = false → room = none → b = (some .eFlashFull, fails)) ∧
    (∀ ss, s.res.flashRo = false → room = some ss → b = (none, s.modRes fun r =>
      { r with snaps := ss, job := some { full := full, label := label, auto := auto, mbx := m, asked := noProgram s } }))) ∧
  (∀ s : State,
    ((s.res.staged = [] ∨ s.res.flashRo = true ∨ s.pkg.flyerRuns = false) → exec .logDrain s = .next s) ∧
    (∀ x xs, s.res.staged = x :: xs → s.res.flashRo = false → s.pkg.flyerRuns = true → exec .logDrain s =
      .next (s.modRes fun r => { r with staged := xs, log := logTrim (r.log ++ [x]), written := r.written + x.bytes.length }))) ∧
  (∀ (a : FlashArea) (s : State), let u := winBump 48 0 0 (flashOperation a s)
    (u.res.retired < Config.flashSpares → exec (.flashError a) s = .next (escalate
      { row := 48, count := winCount u 48 0 0, l2 := true, l3 := true }
      (u.modRes fun r => { r with flashErr := true, retired := r.retired + 1 }))) ∧
    (Config.flashSpares ≤ u.res.retired → exec (.flashError a) s = .next (escalate
      { row := 48, count := winCount u 48 0 0 } (u.modRes fun r => { r with flashErr := true, flashRo := true })))) ∧
  (∀ (a : FlashArea) (s : State),
    let cut := fun u : State => u.modRes fun r => { r with job := none, snaps := r.snaps.filter (·.complete), snapFail := true }
    let ended := fun m : Nat => failMbx m .eFlash 0 (undoCommand (((s.mbxAt m).req.map (·.command)).getD 0) s)
    (areaMailbox s a = none → flashOperation a s = if a = .snapshots then cut s else s) ∧
    (∀ m, areaMailbox s a = some m → flashOperation a s = if a = .snapshots then cut (ended m) else ended m)) ∧
  (∀ (row : Fin 49) (sub key : Nat) (s : State),
    let u : State := { s with win := tput s.win (winKey row.val sub key) 0, winHide := tput s.winHide (winKey row.val sub key) 0 }
    (row.val ≠ 0 → row.val ≠ 40 → exec (.errorWindowClose row sub key) s = .next u) ∧
    (row.val = 0 → exec (.errorWindowClose row sub key) s =
      .next (u.modTst fun t => { t with tested := .replicate 8 0, failed := .replicate 8 0 })) ∧
    (row.val = 40 → exec (.errorWindowClose row sub key) s =
      .next (u.modPwrDie key fun x => { x with droopEvents := 0, droopUs := 0 })))

/-- A unit that is tested falls due, and overdue, with the hours since its last test, at least 4, or 24 where it is
overdue, and so does a spindle's test register; one that does not exist or has been retired changes nothing. A segment
of a unit runs while the flyer does, outside FAILED, with hank memory not stopped, where the unit is due and chosen
and is free for the segment's time, or has its turn as an overdue one; elsewhere it changes nothing. A cache way is
first cleared. A segment that does not end the unit's test advances it and keeps the first failure; the last one
completes it with the first failure, if any. A complete test makes the unit as if new, counts it as tested, and in its
kind as failed where it failed, with the unit named; a running test.schedule notes it, and a failure counts in the
unit's row. With BAR0 decoded and the debug unlock granted, a write of TST_DBG_CTRL keeps whether a write is meant;
with GO it then accesses the aligned word at the debug address, and otherwise nothing more; without the unlock or the
BAR it changes nothing. An unmapped address shows done and error. With no address spilled, on a word that hank memory
does not turn away, that is correct and that no merging entry holds, a read takes its bytes into the data register and
changes no byte; a write outside the tables leaves the data register's bytes there and every other byte as it was.
(rests on R406, R407, R408, R409, R412, R414, R415) -/
def Obligations.UnitTestsAndDebugAccesses : Prop :=
  (∀ (u : UnitId) (o : Bool) (s : State), let k := u.kind.val
    let h := if o then 24 else 4
    let v := s.modUnit (unitKey k u.die u.unit) fun x =>
      { x with due := true, overdue := o || x.overdue, hours := max h x.hours }
    (unitTested s k u.die u.unit = false → exec (.unitDue u o) s = .next s) ∧
    (unitTested s k u.die u.unit = true → k ≠ 0 → exec (.unitDue u o) s = .next v) ∧
    (unitTested s k u.die u.unit = true → k = 0 → exec (.unitDue u o) s =
      .next (v.modSpn (2 * u.die.val + u.unit.val) fun p => { p with testHours := max h p.testHours }))) ∧
  (∀ (u : UnitId) (r : SegResult) (s : State), let k := u.kind.val
    let free := unitFree s k u.die u.unit (segmentNs s k u.die u.unit r.count) = true ∨ overdueTurn s k u.die u.unit = true
    ((s.pkg.flyerRuns = false ∨ s.pkg.devState = .failed ∨ s.hnk.stopped = true ∨ unitIsDue s k u.die u.unit = false ∨
      ¬ free ∨ isChosen s k u.die u.unit = false) → exec (.testSegment u r) s = .next s) ∧
    (s.pkg.flyerRuns = true → s.pkg.devState ≠ .failed → s.hnk.stopped = false → unitIsDue s k u.die u.unit = true →
      free → isChosen s k u.die u.unit = true → exec (.testSegment u r) s = .next (runSegment k u.die u.unit r s))) ∧
  (∀ (k die unit : Nat) (r : SegResult) (s : State), let u := if k = 5 then clearWay die unit s else s
    let x := u.unitAt (unitKey k die unit)
    let bad := x.bad <|> r.fail
    (x.progress + max r.count 1 < unitTotal k unit → runSegment k die unit r s =
      u.modUnit (unitKey k die unit) fun y => { y with progress := y.progress + max r.count 1, bad := bad }) ∧
    (unitTotal k unit ≤ x.progress + max r.count 1 → runSegment k die unit r s = testDone k die unit bad u)) ∧
  (∀ (k die unit : Nat) (s : State), let key := unitKey k die unit
    let u := (s.modUnit key fun _ => {}).modTst fun t => { t with tested := vmod t.tested k (· + 1) }
    let w := (s.modUnit key fun _ => {}).modTst fun t =>
      { t with tested := vmod t.tested k (· + 1), failed := vmod t.failed k (· + 1), fail := true
               last := { kind := k, die := die, unit := unit, frame := s.frm.number } }
    testDone k die unit none s = noteHostTest key true (noteSpindleTest k die unit true u) ∧
    (∀ p, testDone k die unit (some p) s =
      testFailed k die unit p (noteHostTest key false (noteSpindleTest k die unit false w)))) ∧
  (∀ (v : Word) (s : State), let u := s.modTst fun t => { t with dbgWrite := v.toNat.testBit 30 }
    ((barUp s = false ∨ s.sec.debugUnlocked = false) → exec (.tstDbgGo v) s = .next s) ∧
    (barUp s = true → s.sec.debugUnlocked = true → v.toNat.testBit 31 = false → exec (.tstDbgGo v) s = .next u) ∧
    (barUp s = true → s.sec.debugUnlocked = true → v.toNat.testBit 31 = true → exec (.tstDbgGo v) s =
      .next (debugAccess (u.modTst fun t => { t with dbgDone := false, dbgError := false })))) ∧
  (∀ s : State, let a := s.tst.dbgAddr / 4 * 4
    let t := debugAccess s
    (mapped a 4 = false → t = s.modTst fun t => { t with dbgDone := true, dbgError := true }) ∧
    (mapped a 4 = true → s.hp.spill = [] → accessRefused s a 4 = none → isUe s (a / 64) = false → s.hnk.wmb = [] →
      faultyWords s a 4 = [] →
      (s.tst.dbgWrite = false → t.tst.dbgDone = true ∧ t.tst.dbgError = false ∧
        t.tst.dbgData = leNat (readBytes s a 4) ∧ t.mem = s.mem ∧ t.undef = s.undef) ∧
      (s.tst.dbgWrite = true → s.canonical → (∀ i, i < 4 → tableByte s (a + i) = none) →
        readBytes t a 4 = leBytes 4 s.tst.dbgData ∧ t.tst.dbgDone = true ∧ t.tst.dbgError = false ∧
        ∀ y, y < a ∨ a + 4 ≤ y → readByte t y = readByte s y)))

/-- While BAR0 is not decoded no register access does anything. Where it is, a register write is the write of the
block that its offset lies in, by what that block has there; one that is not word-aligned or lies in no block changes
nothing, and a pair's high-word write to an offset that is no high word changes nothing, and is else such a write. In
PWR_STATUS, MOD_HP_STATUS and FAB_STATUS each write-one-to-clear bit is cleared where 1 is written and stays where 0
is, and nothing else changes; MOD_D2D_SEL takes its five bits. With the debug unlock granted a write of the debug
address's low word waits, and that of the high word commits both; without it neither changes anything. Reading a low
word answers it and latches the high word; reading a high word that is latched answers the latched one; reading
another register answers its value and changes nothing else. A write of FRM_SLACK_MIN, MBX_ACCEPT_MAX or FAB_CBUF_PEAK
restarts it and changes nothing else. (rests on R10, R11, R12, R45, R82, R160, R229, R250, R300, R367, R415) -/
def Obligations.RegisterAccessesByTheirTypes : Prop :=
  (∀ (o v : Word) (s : State), barUp s = false →
    exec (.registerWrite o v) s = .next s ∧ exec (.regPairHighWrite o v) s = .next s ∧ exec (.regLowRead o) s = .next s ∧
    exec (.frmSlackMinWrite v) s = .next s ∧ exec (.mbxAcceptMaxWrite v) s = .next s ∧
    exec (.fabCbufPeakWrite v) s = .next s) ∧
  (∀ (o v : Word) (s : State), barUp s = true → let b := blockOf o.toNat
    ((o.toNat % 4 ≠ 0 ∨ b.1 = .none) → exec (.registerWrite o v) s = .next s) ∧
    (o.toNat % 4 = 0 → exec (.registerWrite o v) s = .next (blockWrite b.1 b.2 v.toNat s)) ∧
    (isPairHigh o.toNat = false → exec (.regPairHighWrite o v) s = .next s) ∧
    (isPairHigh o.toNat = true → exec (.regPairHighWrite o v) s = exec (.registerWrite o v) s)) ∧
  (∀ (v : Word) (s : State), barUp s = true →
    exec (.registerWrite 0x1400000 v) s = .next { s with pwr := { s.pwr with
      guard_ := s.pwr.guard_ && !v.toNat.testBit 31, inputHigh := s.pwr.inputHigh && !v.toNat.testBit 30
      inputLow := s.pwr.inputLow && !v.toNat.testBit 29, budgetStale := s.pwr.budgetStale && !v.toNat.testBit 28 } } ∧
    exec (.registerWrite 0x204 v) s = .next { s with hp := { s.hp with
      linkDown := s.hp.linkDown && !v.toNat.testBit 31, ideFail := s.hp.ideFail && !v.toNat.testBit 30
      poisonSent := s.hp.poisonSent && !v.toNat.testBit 29, spillErr := s.hp.spillErr && !v.toNat.testBit 28
      downgrade := s.hp.downgrade && !v.toNat.testBit 27 } } ∧
    exec (.registerWrite 0x80 v) s = .next { s with pkg := { s.pkg with d2dSel := v.toNat % 32 } } ∧
    exec (.registerWrite 0x1000000 v) s = .next { s with fab := { s.fab with
      cbufOverflow := s.fab.cbufOverflow && !v.toNat.testBit 31, unreachable := s.fab.unreachable && !v.toNat.testBit 30
      msgIncomplete := s.fab.msgIncomplete && !v.toNat.testBit 29, checkFail := s.fab.checkFail && !v.toNat.testBit 28
      laneLimit := s.fab.laneLimit && !v.toNat.testBit 27 } }) ∧
  (∀ (v w : Word) (s : State), barUp s = true → s.sec.debugUnlocked = true →
    let t : State := { s with pairLow := tput s.pairLow 0x1C00104 v.toNat }
    exec (.registerWrite 0x1C00104 v) s = .next t ∧ exec (.regPairHighWrite 0x1C00108 w) t = .next { t with tst :=
      { t.tst with dbgAddr := w.toNat % 256 * 2 ^ 32 + tget t.pairLow 0x1C00104 } } ∧
    ((v ≠ 0 ∨ tabWf s.pairLow = true) → tget t.pairLow 0x1C00104 = v.toNat)) ∧
  (∀ (w : Word) (s : State), barUp s = true → s.sec.debugUnlocked = false →
    exec (.registerWrite 0x1C00104 w) s = .next s ∧ exec (.regPairHighWrite 0x1C00108 w) s = .next s) ∧
  (∀ (o : Word) (s : State), barUp s = true →
    (isPairLow o.toNat = true → Completes (.regLowRead o) s fun t => t.out = s.out ++ [.regValue (w32 (regRead s o.toNat))] ∧
      tget t.latch o.toNat = some (regRead s (o.toNat + 4)) ∧ t = { s with out := t.out, latch := t.latch }) ∧
    (isPairLow o.toNat = false → isPairHigh o.toNat = false →
      exec (.regLowRead o) s = .next (s.emit (.regValue (w32 (regRead s o.toNat))))) ∧
    (∀ x, isPairLow o.toNat = false → isPairHigh o.toNat = true → tget s.latch (o.toNat - 4) = some x →
      exec (.regLowRead o) s = .next ({ s with latch := tput s.latch (o.toNat - 4) none }.emit (.regValue (w32 x)))) ∧
    (isPairLow o.toNat = false → isPairHigh o.toNat = true → tget s.latch (o.toNat - 4) = none →
      exec (.regLowRead o) s = .next (s.emit (.regValue (w32 (regRead s o.toNat)))))) ∧
  (∀ (v : Word) (s : State), barUp s = true →
    exec (.frmSlackMinWrite v) s = .next { s with frm := { s.frm with slackMin := 0xFFFFFFFF } } ∧
    exec (.mbxAcceptMaxWrite v) s = .next { s with fly := { s.fly with acceptMax := 0 } } ∧
    exec (.fabCbufPeakWrite v) s = .next { s with fab := { s.fab with cbufPeak := 0 } })
end

