-- ==== Sys2Proof/Laws/State.lean ====
section
/-!
SUPPORT. What each update of the state does to each part of it: one lemma for each part and update, true by unfolding, so
that no later proof unfolds a record update.
-/

namespace Sys2Proof.Machine

/-! ### Entries by number -/

theorem vget_vmod_same {α : Type} {n : Nat} [Inhabited α] (v : Vector α n) (i : Nat) (f : α → α) (h : i < n) :
    vget (vmod v i f) i = f (vget v i) := by
  simp [vget, vmod, h, Vector.getD]

theorem vget_vmod_other {α : Type} {n : Nat} [Inhabited α] (v : Vector α n) (i j : Nat) (f : α → α) (h : j ≠ i) :
    vget (vmod v i f) j = vget v j := by
  unfold vget vmod
  split
  · simp [Vector.getD, Array.getD_eq_getD_getElem?, Array.getElem?_set, Ne.symm h]
  · rfl

/-- Two updates of an entry that agree on its value are the same. -/
theorem vmod_congr {α : Type} {n : Nat} [Inhabited α] (v : Vector α n) (i : Nat) (f g : α → α)
    (h : f (vget v i) = g (vget v i)) : vmod v i f = vmod v i g := by
  unfold vmod
  split
  · rename_i hi
    have : vget v i = v[i] := by simp [vget, Vector.getD, hi]
    rw [this] at h
    rw [h]
  · rfl

/-- Two updates of a table's entry that agree on its value are the same. -/
theorem tmod_congr {α : Type} [Inhabited α] [DecidableEq α] (t : Tab α) (k : Nat) (f g : α → α)
    (h : f (tget t k) = g (tget t k)) : tmod t k f = tmod t k g := by
  simp only [tmod, h]

/-- What each element of a fold leaves, the fold leaves. -/
theorem foldl_keeps {α β : Type} (f : State → β) (g : State → α → State) (h : ∀ s x, f (g s x) = f s) :
    ∀ (l : List α) (s : State), f (l.foldl g s) = f s
  | [], _ => rfl
  | x :: xs, s => (foldl_keeps f g h xs (g s x)).trans (h s x)

/-! ### Parts of the state -/

@[simp] theorem State.modPkg_pending (s : State) (f : Pkg → Pkg) : (s.modPkg f).pending = s.pending := rfl
@[simp] theorem State.modPkg_free (s : State) (f : Pkg → Pkg) : (s.modPkg f).free = s.free := rfl
@[simp] theorem State.modPkg_out (s : State) (f : Pkg → Pkg) : (s.modPkg f).out = s.out := rfl
@[simp] theorem State.modPkg_mem (s : State) (f : Pkg → Pkg) : (s.modPkg f).mem = s.mem := rfl
@[simp] theorem State.modPkg_undef (s : State) (f : Pkg → Pkg) : (s.modPkg f).undef = s.undef := rfl
@[simp] theorem State.modPkg_win (s : State) (f : Pkg → Pkg) : (s.modPkg f).win = s.win := rfl
@[simp] theorem State.modPkg_winHide (s : State) (f : Pkg → Pkg) : (s.modPkg f).winHide = s.winHide := rfl
@[simp] theorem State.modPkg_latch (s : State) (f : Pkg → Pkg) : (s.modPkg f).latch = s.latch := rfl
@[simp] theorem State.modPkg_pairLow (s : State) (f : Pkg → Pkg) : (s.modPkg f).pairLow = s.pairLow := rfl
@[simp] theorem State.modPkg_pkg (s : State) (f : Pkg → Pkg) : (s.modPkg f).pkg = f s.pkg := rfl
@[simp] theorem State.modPkg_frm (s : State) (f : Pkg → Pkg) : (s.modPkg f).frm = s.frm := rfl
@[simp] theorem State.modPkg_spn (s : State) (f : Pkg → Pkg) : (s.modPkg f).spn = s.spn := rfl
@[simp] theorem State.modPkg_vec (s : State) (f : Pkg → Pkg) : (s.modPkg f).vec = s.vec := rfl
@[simp] theorem State.modPkg_hnk (s : State) (f : Pkg → Pkg) : (s.modPkg f).hnk = s.hnk := rfl
@[simp] theorem State.modPkg_vis (s : State) (f : Pkg → Pkg) : (s.modPkg f).vis = s.vis := rfl
@[simp] theorem State.modPkg_bob (s : State) (f : Pkg → Pkg) : (s.modPkg f).bob = s.bob := rfl
@[simp] theorem State.modPkg_hp (s : State) (f : Pkg → Pkg) : (s.modPkg f).hp = s.hp := rfl
@[simp] theorem State.modPkg_fly (s : State) (f : Pkg → Pkg) : (s.modPkg f).fly = s.fly := rfl
@[simp] theorem State.modPkg_opt (s : State) (f : Pkg → Pkg) : (s.modPkg f).opt = s.opt := rfl
@[simp] theorem State.modPkg_fab (s : State) (f : Pkg → Pkg) : (s.modPkg f).fab = s.fab := rfl
@[simp] theorem State.modPkg_top (s : State) (f : Pkg → Pkg) : (s.modPkg f).top = s.top := rfl
@[simp] theorem State.modPkg_skn (s : State) (f : Pkg → Pkg) : (s.modPkg f).skn = s.skn := rfl
@[simp] theorem State.modPkg_pwr (s : State) (f : Pkg → Pkg) : (s.modPkg f).pwr = s.pwr := rfl
@[simp] theorem State.modPkg_thm (s : State) (f : Pkg → Pkg) : (s.modPkg f).thm = s.thm := rfl
@[simp] theorem State.modPkg_res (s : State) (f : Pkg → Pkg) : (s.modPkg f).res = s.res := rfl
@[simp] theorem State.modPkg_sec (s : State) (f : Pkg → Pkg) : (s.modPkg f).sec = s.sec := rfl
@[simp] theorem State.modPkg_tst (s : State) (f : Pkg → Pkg) : (s.modPkg f).tst = s.tst := rfl
@[simp] theorem State.modPkg_mdl (s : State) (f : Pkg → Pkg) : (s.modPkg f).mdl = s.mdl := rfl

@[simp] theorem State.modFrm_pending (s : State) (f : Frm → Frm) : (s.modFrm f).pending = s.pending := rfl
@[simp] theorem State.modFrm_free (s : State) (f : Frm → Frm) : (s.modFrm f).free = s.free := rfl
@[simp] theorem State.modFrm_out (s : State) (f : Frm → Frm) : (s.modFrm f).out = s.out := rfl
@[simp] theorem State.modFrm_mem (s : State) (f : Frm → Frm) : (s.modFrm f).mem = s.mem := rfl
@[simp] theorem State.modFrm_undef (s : State) (f : Frm → Frm) : (s.modFrm f).undef = s.undef := rfl
@[simp] theorem State.modFrm_win (s : State) (f : Frm → Frm) : (s.modFrm f).win = s.win := rfl
@[simp] theorem State.modFrm_winHide (s : State) (f : Frm → Frm) : (s.modFrm f).winHide = s.winHide := rfl
@[simp] theorem State.modFrm_latch (s : State) (f : Frm → Frm) : (s.modFrm f).latch = s.latch := rfl
@[simp] theorem State.modFrm_pairLow (s : State) (f : Frm → Frm) : (s.modFrm f).pairLow = s.pairLow := rfl
@[simp] theorem State.modFrm_pkg (s : State) (f : Frm → Frm) : (s.modFrm f).pkg = s.pkg := rfl
@[simp] theorem State.modFrm_frm (s : State) (f : Frm → Frm) : (s.modFrm f).frm = f s.frm := rfl
@[simp] theorem State.modFrm_spn (s : State) (f : Frm → Frm) : (s.modFrm f).spn = s.spn := rfl
@[simp] theorem State.modFrm_vec (s : State) (f : Frm → Frm) : (s.modFrm f).vec = s.vec := rfl
@[simp] theorem State.modFrm_hnk (s : State) (f : Frm → Frm) : (s.modFrm f).hnk = s.hnk := rfl
@[simp] theorem State.modFrm_vis (s : State) (f : Frm → Frm) : (s.modFrm f).vis = s.vis := rfl
@[simp] theorem State.modFrm_bob (s : State) (f : Frm → Frm) : (s.modFrm f).bob = s.bob := rfl
@[simp] theorem State.modFrm_hp (s : State) (f : Frm → Frm) : (s.modFrm f).hp = s.hp := rfl
@[simp] theorem State.modFrm_fly (s : State) (f : Frm → Frm) : (s.modFrm f).fly = s.fly := rfl
@[simp] theorem State.modFrm_opt (s : State) (f : Frm → Frm) : (s.modFrm f).opt = s.opt := rfl
@[simp] theorem State.modFrm_fab (s : State) (f : Frm → Frm) : (s.modFrm f).fab = s.fab := rfl
@[simp] theorem State.modFrm_top (s : State) (f : Frm → Frm) : (s.modFrm f).top = s.top := rfl
@[simp] theorem State.modFrm_skn (s : State) (f : Frm → Frm) : (s.modFrm f).skn = s.skn := rfl
@[simp] theorem State.modFrm_pwr (s : State) (f : Frm → Frm) : (s.modFrm f).pwr = s.pwr := rfl
@[simp] theorem State.modFrm_thm (s : State) (f : Frm → Frm) : (s.modFrm f).thm = s.thm := rfl
@[simp] theorem State.modFrm_res (s : State) (f : Frm → Frm) : (s.modFrm f).res = s.res := rfl
@[simp] theorem State.modFrm_sec (s : State) (f : Frm → Frm) : (s.modFrm f).sec = s.sec := rfl
@[simp] theorem State.modFrm_tst (s : State) (f : Frm → Frm) : (s.modFrm f).tst = s.tst := rfl
@[simp] theorem State.modFrm_mdl (s : State) (f : Frm → Frm) : (s.modFrm f).mdl = s.mdl := rfl

@[simp] theorem State.modHnk_pending (s : State) (f : Hnk → Hnk) : (s.modHnk f).pending = s.pending := rfl
@[simp] theorem State.modHnk_free (s : State) (f : Hnk → Hnk) : (s.modHnk f).free = s.free := rfl
@[simp] theorem State.modHnk_out (s : State) (f : Hnk → Hnk) : (s.modHnk f).out = s.out := rfl
@[simp] theorem State.modHnk_mem (s : State) (f : Hnk → Hnk) : (s.modHnk f).mem = s.mem := rfl
@[simp] theorem State.modHnk_undef (s : State) (f : Hnk → Hnk) : (s.modHnk f).undef = s.undef := rfl
@[simp] theorem State.modHnk_win (s : State) (f : Hnk → Hnk) : (s.modHnk f).win = s.win := rfl
@[simp] theorem State.modHnk_winHide (s : State) (f : Hnk → Hnk) : (s.modHnk f).winHide = s.winHide := rfl
@[simp] theorem State.modHnk_latch (s : State) (f : Hnk → Hnk) : (s.modHnk f).latch = s.latch := rfl
@[simp] theorem State.modHnk_pairLow (s : State) (f : Hnk → Hnk) : (s.modHnk f).pairLow = s.pairLow := rfl
@[simp] theorem State.modHnk_pkg (s : State) (f : Hnk → Hnk) : (s.modHnk f).pkg = s.pkg := rfl
@[simp] theorem State.modHnk_frm (s : State) (f : Hnk → Hnk) : (s.modHnk f).frm = s.frm := rfl
@[simp] theorem State.modHnk_spn (s : State) (f : Hnk → Hnk) : (s.modHnk f).spn = s.spn := rfl
@[simp] theorem State.modHnk_vec (s : State) (f : Hnk → Hnk) : (s.modHnk f).vec = s.vec := rfl
@[simp] theorem State.modHnk_hnk (s : State) (f : Hnk → Hnk) : (s.modHnk f).hnk = f s.hnk := rfl
@[simp] theorem State.modHnk_vis (s : State) (f : Hnk → Hnk) : (s.modHnk f).vis = s.vis := rfl
@[simp] theorem State.modHnk_bob (s : State) (f : Hnk → Hnk) : (s.modHnk f).bob = s.bob := rfl
@[simp] theorem State.modHnk_hp (s : State) (f : Hnk → Hnk) : (s.modHnk f).hp = s.hp := rfl
@[simp] theorem State.modHnk_fly (s : State) (f : Hnk → Hnk) : (s.modHnk f).fly = s.fly := rfl
@[simp] theorem State.modHnk_opt (s : State) (f : Hnk → Hnk) : (s.modHnk f).opt = s.opt := rfl
@[simp] theorem State.modHnk_fab (s : State) (f : Hnk → Hnk) : (s.modHnk f).fab = s.fab := rfl
@[simp] theorem State.modHnk_top (s : State) (f : Hnk → Hnk) : (s.modHnk f).top = s.top := rfl
@[simp] theorem State.modHnk_skn (s : State) (f : Hnk → Hnk) : (s.modHnk f).skn = s.skn := rfl
@[simp] theorem State.modHnk_pwr (s : State) (f : Hnk → Hnk) : (s.modHnk f).pwr = s.pwr := rfl
@[simp] theorem State.modHnk_thm (s : State) (f : Hnk → Hnk) : (s.modHnk f).thm = s.thm := rfl
@[simp] theorem State.modHnk_res (s : State) (f : Hnk → Hnk) : (s.modHnk f).res = s.res := rfl
@[simp] theorem State.modHnk_sec (s : State) (f : Hnk → Hnk) : (s.modHnk f).sec = s.sec := rfl
@[simp] theorem State.modHnk_tst (s : State) (f : Hnk → Hnk) : (s.modHnk f).tst = s.tst := rfl
@[simp] theorem State.modHnk_mdl (s : State) (f : Hnk → Hnk) : (s.modHnk f).mdl = s.mdl := rfl

@[simp] theorem State.modVis_pending (s : State) (f : Vis → Vis) : (s.modVis f).pending = s.pending := rfl
@[simp] theorem State.modVis_free (s : State) (f : Vis → Vis) : (s.modVis f).free = s.free := rfl
@[simp] theorem State.modVis_out (s : State) (f : Vis → Vis) : (s.modVis f).out = s.out := rfl
@[simp] theorem State.modVis_mem (s : State) (f : Vis → Vis) : (s.modVis f).mem = s.mem := rfl
@[simp] theorem State.modVis_undef (s : State) (f : Vis → Vis) : (s.modVis f).undef = s.undef := rfl
@[simp] theorem State.modVis_win (s : State) (f : Vis → Vis) : (s.modVis f).win = s.win := rfl
@[simp] theorem State.modVis_winHide (s : State) (f : Vis → Vis) : (s.modVis f).winHide = s.winHide := rfl
@[simp] theorem State.modVis_latch (s : State) (f : Vis → Vis) : (s.modVis f).latch = s.latch := rfl
@[simp] theorem State.modVis_pairLow (s : State) (f : Vis → Vis) : (s.modVis f).pairLow = s.pairLow := rfl
@[simp] theorem State.modVis_pkg (s : State) (f : Vis → Vis) : (s.modVis f).pkg = s.pkg := rfl
@[simp] theorem State.modVis_frm (s : State) (f : Vis → Vis) : (s.modVis f).frm = s.frm := rfl
@[simp] theorem State.modVis_spn (s : State) (f : Vis → Vis) : (s.modVis f).spn = s.spn := rfl
@[simp] theorem State.modVis_vec (s : State) (f : Vis → Vis) : (s.modVis f).vec = s.vec := rfl
@[simp] theorem State.modVis_hnk (s : State) (f : Vis → Vis) : (s.modVis f).hnk = s.hnk := rfl
@[simp] theorem State.modVis_vis (s : State) (f : Vis → Vis) : (s.modVis f).vis = f s.vis := rfl
@[simp] theorem State.modVis_bob (s : State) (f : Vis → Vis) : (s.modVis f).bob = s.bob := rfl
@[simp] theorem State.modVis_hp (s : State) (f : Vis → Vis) : (s.modVis f).hp = s.hp := rfl
@[simp] theorem State.modVis_fly (s : State) (f : Vis → Vis) : (s.modVis f).fly = s.fly := rfl
@[simp] theorem State.modVis_opt (s : State) (f : Vis → Vis) : (s.modVis f).opt = s.opt := rfl
@[simp] theorem State.modVis_fab (s : State) (f : Vis → Vis) : (s.modVis f).fab = s.fab := rfl
@[simp] theorem State.modVis_top (s : State) (f : Vis → Vis) : (s.modVis f).top = s.top := rfl
@[simp] theorem State.modVis_skn (s : State) (f : Vis → Vis) : (s.modVis f).skn = s.skn := rfl
@[simp] theorem State.modVis_pwr (s : State) (f : Vis → Vis) : (s.modVis f).pwr = s.pwr := rfl
@[simp] theorem State.modVis_thm (s : State) (f : Vis → Vis) : (s.modVis f).thm = s.thm := rfl
@[simp] theorem State.modVis_res (s : State) (f : Vis → Vis) : (s.modVis f).res = s.res := rfl
@[simp] theorem State.modVis_sec (s : State) (f : Vis → Vis) : (s.modVis f).sec = s.sec := rfl
@[simp] theorem State.modVis_tst (s : State) (f : Vis → Vis) : (s.modVis f).tst = s.tst := rfl
@[simp] theorem State.modVis_mdl (s : State) (f : Vis → Vis) : (s.modVis f).mdl = s.mdl := rfl

@[simp] theorem State.modBob_pending (s : State) (f : Bob → Bob) : (s.modBob f).pending = s.pending := rfl
@[simp] theorem State.modBob_free (s : State) (f : Bob → Bob) : (s.modBob f).free = s.free := rfl
@[simp] theorem State.modBob_out (s : State) (f : Bob → Bob) : (s.modBob f).out = s.out := rfl
@[simp] theorem State.modBob_mem (s : State) (f : Bob → Bob) : (s.modBob f).mem = s.mem := rfl
@[simp] theorem State.modBob_undef (s : State) (f : Bob → Bob) : (s.modBob f).undef = s.undef := rfl
@[simp] theorem State.modBob_win (s : State) (f : Bob → Bob) : (s.modBob f).win = s.win := rfl
@[simp] theorem State.modBob_winHide (s : State) (f : Bob → Bob) : (s.modBob f).winHide = s.winHide := rfl
@[simp] theorem State.modBob_latch (s : State) (f : Bob → Bob) : (s.modBob f).latch = s.latch := rfl
@[simp] theorem State.modBob_pairLow (s : State) (f : Bob → Bob) : (s.modBob f).pairLow = s.pairLow := rfl
@[simp] theorem State.modBob_pkg (s : State) (f : Bob → Bob) : (s.modBob f).pkg = s.pkg := rfl
@[simp] theorem State.modBob_frm (s : State) (f : Bob → Bob) : (s.modBob f).frm = s.frm := rfl
@[simp] theorem State.modBob_spn (s : State) (f : Bob → Bob) : (s.modBob f).spn = s.spn := rfl
@[simp] theorem State.modBob_vec (s : State) (f : Bob → Bob) : (s.modBob f).vec = s.vec := rfl
@[simp] theorem State.modBob_hnk (s : State) (f : Bob → Bob) : (s.modBob f).hnk = s.hnk := rfl
@[simp] theorem State.modBob_vis (s : State) (f : Bob → Bob) : (s.modBob f).vis = s.vis := rfl
@[simp] theorem State.modBob_bob (s : State) (f : Bob → Bob) : (s.modBob f).bob = f s.bob := rfl
@[simp] theorem State.modBob_hp (s : State) (f : Bob → Bob) : (s.modBob f).hp = s.hp := rfl
@[simp] theorem State.modBob_fly (s : State) (f : Bob → Bob) : (s.modBob f).fly = s.fly := rfl
@[simp] theorem State.modBob_opt (s : State) (f : Bob → Bob) : (s.modBob f).opt = s.opt := rfl
@[simp] theorem State.modBob_fab (s : State) (f : Bob → Bob) : (s.modBob f).fab = s.fab := rfl
@[simp] theorem State.modBob_top (s : State) (f : Bob → Bob) : (s.modBob f).top = s.top := rfl
@[simp] theorem State.modBob_skn (s : State) (f : Bob → Bob) : (s.modBob f).skn = s.skn := rfl
@[simp] theorem State.modBob_pwr (s : State) (f : Bob → Bob) : (s.modBob f).pwr = s.pwr := rfl
@[simp] theorem State.modBob_thm (s : State) (f : Bob → Bob) : (s.modBob f).thm = s.thm := rfl
@[simp] theorem State.modBob_res (s : State) (f : Bob → Bob) : (s.modBob f).res = s.res := rfl
@[simp] theorem State.modBob_sec (s : State) (f : Bob → Bob) : (s.modBob f).sec = s.sec := rfl
@[simp] theorem State.modBob_tst (s : State) (f : Bob → Bob) : (s.modBob f).tst = s.tst := rfl
@[simp] theorem State.modBob_mdl (s : State) (f : Bob → Bob) : (s.modBob f).mdl = s.mdl := rfl

@[simp] theorem State.modHp_pending (s : State) (f : Hp → Hp) : (s.modHp f).pending = s.pending := rfl
@[simp] theorem State.modHp_free (s : State) (f : Hp → Hp) : (s.modHp f).free = s.free := rfl
@[simp] theorem State.modHp_out (s : State) (f : Hp → Hp) : (s.modHp f).out = s.out := rfl
@[simp] theorem State.modHp_mem (s : State) (f : Hp → Hp) : (s.modHp f).mem = s.mem := rfl
@[simp] theorem State.modHp_undef (s : State) (f : Hp → Hp) : (s.modHp f).undef = s.undef := rfl
@[simp] theorem State.modHp_win (s : State) (f : Hp → Hp) : (s.modHp f).win = s.win := rfl
@[simp] theorem State.modHp_winHide (s : State) (f : Hp → Hp) : (s.modHp f).winHide = s.winHide := rfl
@[simp] theorem State.modHp_latch (s : State) (f : Hp → Hp) : (s.modHp f).latch = s.latch := rfl
@[simp] theorem State.modHp_pairLow (s : State) (f : Hp → Hp) : (s.modHp f).pairLow = s.pairLow := rfl
@[simp] theorem State.modHp_pkg (s : State) (f : Hp → Hp) : (s.modHp f).pkg = s.pkg := rfl
@[simp] theorem State.modHp_frm (s : State) (f : Hp → Hp) : (s.modHp f).frm = s.frm := rfl
@[simp] theorem State.modHp_spn (s : State) (f : Hp → Hp) : (s.modHp f).spn = s.spn := rfl
@[simp] theorem State.modHp_vec (s : State) (f : Hp → Hp) : (s.modHp f).vec = s.vec := rfl
@[simp] theorem State.modHp_hnk (s : State) (f : Hp → Hp) : (s.modHp f).hnk = s.hnk := rfl
@[simp] theorem State.modHp_vis (s : State) (f : Hp → Hp) : (s.modHp f).vis = s.vis := rfl
@[simp] theorem State.modHp_bob (s : State) (f : Hp → Hp) : (s.modHp f).bob = s.bob := rfl
@[simp] theorem State.modHp_hp (s : State) (f : Hp → Hp) : (s.modHp f).hp = f s.hp := rfl
@[simp] theorem State.modHp_fly (s : State) (f : Hp → Hp) : (s.modHp f).fly = s.fly := rfl
@[simp] theorem State.modHp_opt (s : State) (f : Hp → Hp) : (s.modHp f).opt = s.opt := rfl
@[simp] theorem State.modHp_fab (s : State) (f : Hp → Hp) : (s.modHp f).fab = s.fab := rfl
@[simp] theorem State.modHp_top (s : State) (f : Hp → Hp) : (s.modHp f).top = s.top := rfl
@[simp] theorem State.modHp_skn (s : State) (f : Hp → Hp) : (s.modHp f).skn = s.skn := rfl
@[simp] theorem State.modHp_pwr (s : State) (f : Hp → Hp) : (s.modHp f).pwr = s.pwr := rfl
@[simp] theorem State.modHp_thm (s : State) (f : Hp → Hp) : (s.modHp f).thm = s.thm := rfl
@[simp] theorem State.modHp_res (s : State) (f : Hp → Hp) : (s.modHp f).res = s.res := rfl
@[simp] theorem State.modHp_sec (s : State) (f : Hp → Hp) : (s.modHp f).sec = s.sec := rfl
@[simp] theorem State.modHp_tst (s : State) (f : Hp → Hp) : (s.modHp f).tst = s.tst := rfl
@[simp] theorem State.modHp_mdl (s : State) (f : Hp → Hp) : (s.modHp f).mdl = s.mdl := rfl

@[simp] theorem State.modFly_pending (s : State) (f : Fly → Fly) : (s.modFly f).pending = s.pending := rfl
@[simp] theorem State.modFly_free (s : State) (f : Fly → Fly) : (s.modFly f).free = s.free := rfl
@[simp] theorem State.modFly_out (s : State) (f : Fly → Fly) : (s.modFly f).out = s.out := rfl
@[simp] theorem State.modFly_mem (s : State) (f : Fly → Fly) : (s.modFly f).mem = s.mem := rfl
@[simp] theorem State.modFly_undef (s : State) (f : Fly → Fly) : (s.modFly f).undef = s.undef := rfl
@[simp] theorem State.modFly_win (s : State) (f : Fly → Fly) : (s.modFly f).win = s.win := rfl
@[simp] theorem State.modFly_winHide (s : State) (f : Fly → Fly) : (s.modFly f).winHide = s.winHide := rfl
@[simp] theorem State.modFly_latch (s : State) (f : Fly → Fly) : (s.modFly f).latch = s.latch := rfl
@[simp] theorem State.modFly_pairLow (s : State) (f : Fly → Fly) : (s.modFly f).pairLow = s.pairLow := rfl
@[simp] theorem State.modFly_pkg (s : State) (f : Fly → Fly) : (s.modFly f).pkg = s.pkg := rfl
@[simp] theorem State.modFly_frm (s : State) (f : Fly → Fly) : (s.modFly f).frm = s.frm := rfl
@[simp] theorem State.modFly_spn (s : State) (f : Fly → Fly) : (s.modFly f).spn = s.spn := rfl
@[simp] theorem State.modFly_vec (s : State) (f : Fly → Fly) : (s.modFly f).vec = s.vec := rfl
@[simp] theorem State.modFly_hnk (s : State) (f : Fly → Fly) : (s.modFly f).hnk = s.hnk := rfl
@[simp] theorem State.modFly_vis (s : State) (f : Fly → Fly) : (s.modFly f).vis = s.vis := rfl
@[simp] theorem State.modFly_bob (s : State) (f : Fly → Fly) : (s.modFly f).bob = s.bob := rfl
@[simp] theorem State.modFly_hp (s : State) (f : Fly → Fly) : (s.modFly f).hp = s.hp := rfl
@[simp] theorem State.modFly_fly (s : State) (f : Fly → Fly) : (s.modFly f).fly = f s.fly := rfl
@[simp] theorem State.modFly_opt (s : State) (f : Fly → Fly) : (s.modFly f).opt = s.opt := rfl
@[simp] theorem State.modFly_fab (s : State) (f : Fly → Fly) : (s.modFly f).fab = s.fab := rfl
@[simp] theorem State.modFly_top (s : State) (f : Fly → Fly) : (s.modFly f).top = s.top := rfl
@[simp] theorem State.modFly_skn (s : State) (f : Fly → Fly) : (s.modFly f).skn = s.skn := rfl
@[simp] theorem State.modFly_pwr (s : State) (f : Fly → Fly) : (s.modFly f).pwr = s.pwr := rfl
@[simp] theorem State.modFly_thm (s : State) (f : Fly → Fly) : (s.modFly f).thm = s.thm := rfl
@[simp] theorem State.modFly_res (s : State) (f : Fly → Fly) : (s.modFly f).res = s.res := rfl
@[simp] theorem State.modFly_sec (s : State) (f : Fly → Fly) : (s.modFly f).sec = s.sec := rfl
@[simp] theorem State.modFly_tst (s : State) (f : Fly → Fly) : (s.modFly f).tst = s.tst := rfl
@[simp] theorem State.modFly_mdl (s : State) (f : Fly → Fly) : (s.modFly f).mdl = s.mdl := rfl

@[simp] theorem State.modOpt_pending (s : State) (f : Opt → Opt) : (s.modOpt f).pending = s.pending := rfl
@[simp] theorem State.modOpt_free (s : State) (f : Opt → Opt) : (s.modOpt f).free = s.free := rfl
@[simp] theorem State.modOpt_out (s : State) (f : Opt → Opt) : (s.modOpt f).out = s.out := rfl
@[simp] theorem State.modOpt_mem (s : State) (f : Opt → Opt) : (s.modOpt f).mem = s.mem := rfl
@[simp] theorem State.modOpt_undef (s : State) (f : Opt → Opt) : (s.modOpt f).undef = s.undef := rfl
@[simp] theorem State.modOpt_win (s : State) (f : Opt → Opt) : (s.modOpt f).win = s.win := rfl
@[simp] theorem State.modOpt_winHide (s : State) (f : Opt → Opt) : (s.modOpt f).winHide = s.winHide := rfl
@[simp] theorem State.modOpt_latch (s : State) (f : Opt → Opt) : (s.modOpt f).latch = s.latch := rfl
@[simp] theorem State.modOpt_pairLow (s : State) (f : Opt → Opt) : (s.modOpt f).pairLow = s.pairLow := rfl
@[simp] theorem State.modOpt_pkg (s : State) (f : Opt → Opt) : (s.modOpt f).pkg = s.pkg := rfl
@[simp] theorem State.modOpt_frm (s : State) (f : Opt → Opt) : (s.modOpt f).frm = s.frm := rfl
@[simp] theorem State.modOpt_spn (s : State) (f : Opt → Opt) : (s.modOpt f).spn = s.spn := rfl
@[simp] theorem State.modOpt_vec (s : State) (f : Opt → Opt) : (s.modOpt f).vec = s.vec := rfl
@[simp] theorem State.modOpt_hnk (s : State) (f : Opt → Opt) : (s.modOpt f).hnk = s.hnk := rfl
@[simp] theorem State.modOpt_vis (s : State) (f : Opt → Opt) : (s.modOpt f).vis = s.vis := rfl
@[simp] theorem State.modOpt_bob (s : State) (f : Opt → Opt) : (s.modOpt f).bob = s.bob := rfl
@[simp] theorem State.modOpt_hp (s : State) (f : Opt → Opt) : (s.modOpt f).hp = s.hp := rfl
@[simp] theorem State.modOpt_fly (s : State) (f : Opt → Opt) : (s.modOpt f).fly = s.fly := rfl
@[simp] theorem State.modOpt_opt (s : State) (f : Opt → Opt) : (s.modOpt f).opt = f s.opt := rfl
@[simp] theorem State.modOpt_fab (s : State) (f : Opt → Opt) : (s.modOpt f).fab = s.fab := rfl
@[simp] theorem State.modOpt_top (s : State) (f : Opt → Opt) : (s.modOpt f).top = s.top := rfl
@[simp] theorem State.modOpt_skn (s : State) (f : Opt → Opt) : (s.modOpt f).skn = s.skn := rfl
@[simp] theorem State.modOpt_pwr (s : State) (f : Opt → Opt) : (s.modOpt f).pwr = s.pwr := rfl
@[simp] theorem State.modOpt_thm (s : State) (f : Opt → Opt) : (s.modOpt f).thm = s.thm := rfl
@[simp] theorem State.modOpt_res (s : State) (f : Opt → Opt) : (s.modOpt f).res = s.res := rfl
@[simp] theorem State.modOpt_sec (s : State) (f : Opt → Opt) : (s.modOpt f).sec = s.sec := rfl
@[simp] theorem State.modOpt_tst (s : State) (f : Opt → Opt) : (s.modOpt f).tst = s.tst := rfl
@[simp] theorem State.modOpt_mdl (s : State) (f : Opt → Opt) : (s.modOpt f).mdl = s.mdl := rfl

@[simp] theorem State.modFab_pending (s : State) (f : Fab → Fab) : (s.modFab f).pending = s.pending := rfl
@[simp] theorem State.modFab_free (s : State) (f : Fab → Fab) : (s.modFab f).free = s.free := rfl
@[simp] theorem State.modFab_out (s : State) (f : Fab → Fab) : (s.modFab f).out = s.out := rfl
@[simp] theorem State.modFab_mem (s : State) (f : Fab → Fab) : (s.modFab f).mem = s.mem := rfl
@[simp] theorem State.modFab_undef (s : State) (f : Fab → Fab) : (s.modFab f).undef = s.undef := rfl
@[simp] theorem State.modFab_win (s : State) (f : Fab → Fab) : (s.modFab f).win = s.win := rfl
@[simp] theorem State.modFab_winHide (s : State) (f : Fab → Fab) : (s.modFab f).winHide = s.winHide := rfl
@[simp] theorem State.modFab_latch (s : State) (f : Fab → Fab) : (s.modFab f).latch = s.latch := rfl
@[simp] theorem State.modFab_pairLow (s : State) (f : Fab → Fab) : (s.modFab f).pairLow = s.pairLow := rfl
@[simp] theorem State.modFab_pkg (s : State) (f : Fab → Fab) : (s.modFab f).pkg = s.pkg := rfl
@[simp] theorem State.modFab_frm (s : State) (f : Fab → Fab) : (s.modFab f).frm = s.frm := rfl
@[simp] theorem State.modFab_spn (s : State) (f : Fab → Fab) : (s.modFab f).spn = s.spn := rfl
@[simp] theorem State.modFab_vec (s : State) (f : Fab → Fab) : (s.modFab f).vec = s.vec := rfl
@[simp] theorem State.modFab_hnk (s : State) (f : Fab → Fab) : (s.modFab f).hnk = s.hnk := rfl
@[simp] theorem State.modFab_vis (s : State) (f : Fab → Fab) : (s.modFab f).vis = s.vis := rfl
@[simp] theorem State.modFab_bob (s : State) (f : Fab → Fab) : (s.modFab f).bob = s.bob := rfl
@[simp] theorem State.modFab_hp (s : State) (f : Fab → Fab) : (s.modFab f).hp = s.hp := rfl
@[simp] theorem State.modFab_fly (s : State) (f : Fab → Fab) : (s.modFab f).fly = s.fly := rfl
@[simp] theorem State.modFab_opt (s : State) (f : Fab → Fab) : (s.modFab f).opt = s.opt := rfl
@[simp] theorem State.modFab_fab (s : State) (f : Fab → Fab) : (s.modFab f).fab = f s.fab := rfl
@[simp] theorem State.modFab_top (s : State) (f : Fab → Fab) : (s.modFab f).top = s.top := rfl
@[simp] theorem State.modFab_skn (s : State) (f : Fab → Fab) : (s.modFab f).skn = s.skn := rfl
@[simp] theorem State.modFab_pwr (s : State) (f : Fab → Fab) : (s.modFab f).pwr = s.pwr := rfl
@[simp] theorem State.modFab_thm (s : State) (f : Fab → Fab) : (s.modFab f).thm = s.thm := rfl
@[simp] theorem State.modFab_res (s : State) (f : Fab → Fab) : (s.modFab f).res = s.res := rfl
@[simp] theorem State.modFab_sec (s : State) (f : Fab → Fab) : (s.modFab f).sec = s.sec := rfl
@[simp] theorem State.modFab_tst (s : State) (f : Fab → Fab) : (s.modFab f).tst = s.tst := rfl
@[simp] theorem State.modFab_mdl (s : State) (f : Fab → Fab) : (s.modFab f).mdl = s.mdl := rfl

@[simp] theorem State.modTop_pending (s : State) (f : Top → Top) : (s.modTop f).pending = s.pending := rfl
@[simp] theorem State.modTop_free (s : State) (f : Top → Top) : (s.modTop f).free = s.free := rfl
@[simp] theorem State.modTop_out (s : State) (f : Top → Top) : (s.modTop f).out = s.out := rfl
@[simp] theorem State.modTop_mem (s : State) (f : Top → Top) : (s.modTop f).mem = s.mem := rfl
@[simp] theorem State.modTop_undef (s : State) (f : Top → Top) : (s.modTop f).undef = s.undef := rfl
@[simp] theorem State.modTop_win (s : State) (f : Top → Top) : (s.modTop f).win = s.win := rfl
@[simp] theorem State.modTop_winHide (s : State) (f : Top → Top) : (s.modTop f).winHide = s.winHide := rfl
@[simp] theorem State.modTop_latch (s : State) (f : Top → Top) : (s.modTop f).latch = s.latch := rfl
@[simp] theorem State.modTop_pairLow (s : State) (f : Top → Top) : (s.modTop f).pairLow = s.pairLow := rfl
@[simp] theorem State.modTop_pkg (s : State) (f : Top → Top) : (s.modTop f).pkg = s.pkg := rfl
@[simp] theorem State.modTop_frm (s : State) (f : Top → Top) : (s.modTop f).frm = s.frm := rfl
@[simp] theorem State.modTop_spn (s : State) (f : Top → Top) : (s.modTop f).spn = s.spn := rfl
@[simp] theorem State.modTop_vec (s : State) (f : Top → Top) : (s.modTop f).vec = s.vec := rfl
@[simp] theorem State.modTop_hnk (s : State) (f : Top → Top) : (s.modTop f).hnk = s.hnk := rfl
@[simp] theorem State.modTop_vis (s : State) (f : Top → Top) : (s.modTop f).vis = s.vis := rfl
@[simp] theorem State.modTop_bob (s : State) (f : Top → Top) : (s.modTop f).bob = s.bob := rfl
@[simp] theorem State.modTop_hp (s : State) (f : Top → Top) : (s.modTop f).hp = s.hp := rfl
@[simp] theorem State.modTop_fly (s : State) (f : Top → Top) : (s.modTop f).fly = s.fly := rfl
@[simp] theorem State.modTop_opt (s : State) (f : Top → Top) : (s.modTop f).opt = s.opt := rfl
@[simp] theorem State.modTop_fab (s : State) (f : Top → Top) : (s.modTop f).fab = s.fab := rfl
@[simp] theorem State.modTop_top (s : State) (f : Top → Top) : (s.modTop f).top = f s.top := rfl
@[simp] theorem State.modTop_skn (s : State) (f : Top → Top) : (s.modTop f).skn = s.skn := rfl
@[simp] theorem State.modTop_pwr (s : State) (f : Top → Top) : (s.modTop f).pwr = s.pwr := rfl
@[simp] theorem State.modTop_thm (s : State) (f : Top → Top) : (s.modTop f).thm = s.thm := rfl
@[simp] theorem State.modTop_res (s : State) (f : Top → Top) : (s.modTop f).res = s.res := rfl
@[simp] theorem State.modTop_sec (s : State) (f : Top → Top) : (s.modTop f).sec = s.sec := rfl
@[simp] theorem State.modTop_tst (s : State) (f : Top → Top) : (s.modTop f).tst = s.tst := rfl
@[simp] theorem State.modTop_mdl (s : State) (f : Top → Top) : (s.modTop f).mdl = s.mdl := rfl

@[simp] theorem State.modSkn_pending (s : State) (f : Skn → Skn) : (s.modSkn f).pending = s.pending := rfl
@[simp] theorem State.modSkn_free (s : State) (f : Skn → Skn) : (s.modSkn f).free = s.free := rfl
@[simp] theorem State.modSkn_out (s : State) (f : Skn → Skn) : (s.modSkn f).out = s.out := rfl
@[simp] theorem State.modSkn_mem (s : State) (f : Skn → Skn) : (s.modSkn f).mem = s.mem := rfl
@[simp] theorem State.modSkn_undef (s : State) (f : Skn → Skn) : (s.modSkn f).undef = s.undef := rfl
@[simp] theorem State.modSkn_win (s : State) (f : Skn → Skn) : (s.modSkn f).win = s.win := rfl
@[simp] theorem State.modSkn_winHide (s : State) (f : Skn → Skn) : (s.modSkn f).winHide = s.winHide := rfl
@[simp] theorem State.modSkn_latch (s : State) (f : Skn → Skn) : (s.modSkn f).latch = s.latch := rfl
@[simp] theorem State.modSkn_pairLow (s : State) (f : Skn → Skn) : (s.modSkn f).pairLow = s.pairLow := rfl
@[simp] theorem State.modSkn_pkg (s : State) (f : Skn → Skn) : (s.modSkn f).pkg = s.pkg := rfl
@[simp] theorem State.modSkn_frm (s : State) (f : Skn → Skn) : (s.modSkn f).frm = s.frm := rfl
@[simp] theorem State.modSkn_spn (s : State) (f : Skn → Skn) : (s.modSkn f).spn = s.spn := rfl
@[simp] theorem State.modSkn_vec (s : State) (f : Skn → Skn) : (s.modSkn f).vec = s.vec := rfl
@[simp] theorem State.modSkn_hnk (s : State) (f : Skn → Skn) : (s.modSkn f).hnk = s.hnk := rfl
@[simp] theorem State.modSkn_vis (s : State) (f : Skn → Skn) : (s.modSkn f).vis = s.vis := rfl
@[simp] theorem State.modSkn_bob (s : State) (f : Skn → Skn) : (s.modSkn f).bob = s.bob := rfl
@[simp] theorem State.modSkn_hp (s : State) (f : Skn → Skn) : (s.modSkn f).hp = s.hp := rfl
@[simp] theorem State.modSkn_fly (s : State) (f : Skn → Skn) : (s.modSkn f).fly = s.fly := rfl
@[simp] theorem State.modSkn_opt (s : State) (f : Skn → Skn) : (s.modSkn f).opt = s.opt := rfl
@[simp] theorem State.modSkn_fab (s : State) (f : Skn → Skn) : (s.modSkn f).fab = s.fab := rfl
@[simp] theorem State.modSkn_top (s : State) (f : Skn → Skn) : (s.modSkn f).top = s.top := rfl
@[simp] theorem State.modSkn_skn (s : State) (f : Skn → Skn) : (s.modSkn f).skn = f s.skn := rfl
@[simp] theorem State.modSkn_pwr (s : State) (f : Skn → Skn) : (s.modSkn f).pwr = s.pwr := rfl
@[simp] theorem State.modSkn_thm (s : State) (f : Skn → Skn) : (s.modSkn f).thm = s.thm := rfl
@[simp] theorem State.modSkn_res (s : State) (f : Skn → Skn) : (s.modSkn f).res = s.res := rfl
@[simp] theorem State.modSkn_sec (s : State) (f : Skn → Skn) : (s.modSkn f).sec = s.sec := rfl
@[simp] theorem State.modSkn_tst (s : State) (f : Skn → Skn) : (s.modSkn f).tst = s.tst := rfl
@[simp] theorem State.modSkn_mdl (s : State) (f : Skn → Skn) : (s.modSkn f).mdl = s.mdl := rfl

@[simp] theorem State.modPwr_pending (s : State) (f : Pwr → Pwr) : (s.modPwr f).pending = s.pending := rfl
@[simp] theorem State.modPwr_free (s : State) (f : Pwr → Pwr) : (s.modPwr f).free = s.free := rfl
@[simp] theorem State.modPwr_out (s : State) (f : Pwr → Pwr) : (s.modPwr f).out = s.out := rfl
@[simp] theorem State.modPwr_mem (s : State) (f : Pwr → Pwr) : (s.modPwr f).mem = s.mem := rfl
@[simp] theorem State.modPwr_undef (s : State) (f : Pwr → Pwr) : (s.modPwr f).undef = s.undef := rfl
@[simp] theorem State.modPwr_win (s : State) (f : Pwr → Pwr) : (s.modPwr f).win = s.win := rfl
@[simp] theorem State.modPwr_winHide (s : State) (f : Pwr → Pwr) : (s.modPwr f).winHide = s.winHide := rfl
@[simp] theorem State.modPwr_latch (s : State) (f : Pwr → Pwr) : (s.modPwr f).latch = s.latch := rfl
@[simp] theorem State.modPwr_pairLow (s : State) (f : Pwr → Pwr) : (s.modPwr f).pairLow = s.pairLow := rfl
@[simp] theorem State.modPwr_pkg (s : State) (f : Pwr → Pwr) : (s.modPwr f).pkg = s.pkg := rfl
@[simp] theorem State.modPwr_frm (s : State) (f : Pwr → Pwr) : (s.modPwr f).frm = s.frm := rfl
@[simp] theorem State.modPwr_spn (s : State) (f : Pwr → Pwr) : (s.modPwr f).spn = s.spn := rfl
@[simp] theorem State.modPwr_vec (s : State) (f : Pwr → Pwr) : (s.modPwr f).vec = s.vec := rfl
@[simp] theorem State.modPwr_hnk (s : State) (f : Pwr → Pwr) : (s.modPwr f).hnk = s.hnk := rfl
@[simp] theorem State.modPwr_vis (s : State) (f : Pwr → Pwr) : (s.modPwr f).vis = s.vis := rfl
@[simp] theorem State.modPwr_bob (s : State) (f : Pwr → Pwr) : (s.modPwr f).bob = s.bob := rfl
@[simp] theorem State.modPwr_hp (s : State) (f : Pwr → Pwr) : (s.modPwr f).hp = s.hp := rfl
@[simp] theorem State.modPwr_fly (s : State) (f : Pwr → Pwr) : (s.modPwr f).fly = s.fly := rfl
@[simp] theorem State.modPwr_opt (s : State) (f : Pwr → Pwr) : (s.modPwr f).opt = s.opt := rfl
@[simp] theorem State.modPwr_fab (s : State) (f : Pwr → Pwr) : (s.modPwr f).fab = s.fab := rfl
@[simp] theorem State.modPwr_top (s : State) (f : Pwr → Pwr) : (s.modPwr f).top = s.top := rfl
@[simp] theorem State.modPwr_skn (s : State) (f : Pwr → Pwr) : (s.modPwr f).skn = s.skn := rfl
@[simp] theorem State.modPwr_pwr (s : State) (f : Pwr → Pwr) : (s.modPwr f).pwr = f s.pwr := rfl
@[simp] theorem State.modPwr_thm (s : State) (f : Pwr → Pwr) : (s.modPwr f).thm = s.thm := rfl
@[simp] theorem State.modPwr_res (s : State) (f : Pwr → Pwr) : (s.modPwr f).res = s.res := rfl
@[simp] theorem State.modPwr_sec (s : State) (f : Pwr → Pwr) : (s.modPwr f).sec = s.sec := rfl
@[simp] theorem State.modPwr_tst (s : State) (f : Pwr → Pwr) : (s.modPwr f).tst = s.tst := rfl
@[simp] theorem State.modPwr_mdl (s : State) (f : Pwr → Pwr) : (s.modPwr f).mdl = s.mdl := rfl

@[simp] theorem State.modThm_pending (s : State) (f : Thm → Thm) : (s.modThm f).pending = s.pending := rfl
@[simp] theorem State.modThm_free (s : State) (f : Thm → Thm) : (s.modThm f).free = s.free := rfl
@[simp] theorem State.modThm_out (s : State) (f : Thm → Thm) : (s.modThm f).out = s.out := rfl
@[simp] theorem State.modThm_mem (s : State) (f : Thm → Thm) : (s.modThm f).mem = s.mem := rfl
@[simp] theorem State.modThm_undef (s : State) (f : Thm → Thm) : (s.modThm f).undef = s.undef := rfl
@[simp] theorem State.modThm_win (s : State) (f : Thm → Thm) : (s.modThm f).win = s.win := rfl
@[simp] theorem State.modThm_winHide (s : State) (f : Thm → Thm) : (s.modThm f).winHide = s.winHide := rfl
@[simp] theorem State.modThm_latch (s : State) (f : Thm → Thm) : (s.modThm f).latch = s.latch := rfl
@[simp] theorem State.modThm_pairLow (s : State) (f : Thm → Thm) : (s.modThm f).pairLow = s.pairLow := rfl
@[simp] theorem State.modThm_pkg (s : State) (f : Thm → Thm) : (s.modThm f).pkg = s.pkg := rfl
@[simp] theorem State.modThm_frm (s : State) (f : Thm → Thm) : (s.modThm f).frm = s.frm := rfl
@[simp] theorem State.modThm_spn (s : State) (f : Thm → Thm) : (s.modThm f).spn = s.spn := rfl
@[simp] theorem State.modThm_vec (s : State) (f : Thm → Thm) : (s.modThm f).vec = s.vec := rfl
@[simp] theorem State.modThm_hnk (s : State) (f : Thm → Thm) : (s.modThm f).hnk = s.hnk := rfl
@[simp] theorem State.modThm_vis (s : State) (f : Thm → Thm) : (s.modThm f).vis = s.vis := rfl
@[simp] theorem State.modThm_bob (s : State) (f : Thm → Thm) : (s.modThm f).bob = s.bob := rfl
@[simp] theorem State.modThm_hp (s : State) (f : Thm → Thm) : (s.modThm f).hp = s.hp := rfl
@[simp] theorem State.modThm_fly (s : State) (f : Thm → Thm) : (s.modThm f).fly = s.fly := rfl
@[simp] theorem State.modThm_opt (s : State) (f : Thm → Thm) : (s.modThm f).opt = s.opt := rfl
@[simp] theorem State.modThm_fab (s : State) (f : Thm → Thm) : (s.modThm f).fab = s.fab := rfl
@[simp] theorem State.modThm_top (s : State) (f : Thm → Thm) : (s.modThm f).top = s.top := rfl
@[simp] theorem State.modThm_skn (s : State) (f : Thm → Thm) : (s.modThm f).skn = s.skn := rfl
@[simp] theorem State.modThm_pwr (s : State) (f : Thm → Thm) : (s.modThm f).pwr = s.pwr := rfl
@[simp] theorem State.modThm_thm (s : State) (f : Thm → Thm) : (s.modThm f).thm = f s.thm := rfl
@[simp] theorem State.modThm_res (s : State) (f : Thm → Thm) : (s.modThm f).res = s.res := rfl
@[simp] theorem State.modThm_sec (s : State) (f : Thm → Thm) : (s.modThm f).sec = s.sec := rfl
@[simp] theorem State.modThm_tst (s : State) (f : Thm → Thm) : (s.modThm f).tst = s.tst := rfl
@[simp] theorem State.modThm_mdl (s : State) (f : Thm → Thm) : (s.modThm f).mdl = s.mdl := rfl

@[simp] theorem State.modRes_pending (s : State) (f : Res → Res) : (s.modRes f).pending = s.pending := rfl
@[simp] theorem State.modRes_free (s : State) (f : Res → Res) : (s.modRes f).free = s.free := rfl
@[simp] theorem State.modRes_out (s : State) (f : Res → Res) : (s.modRes f).out = s.out := rfl
@[simp] theorem State.modRes_mem (s : State) (f : Res → Res) : (s.modRes f).mem = s.mem := rfl
@[simp] theorem State.modRes_undef (s : State) (f : Res → Res) : (s.modRes f).undef = s.undef := rfl
@[simp] theorem State.modRes_win (s : State) (f : Res → Res) : (s.modRes f).win = s.win := rfl
@[simp] theorem State.modRes_winHide (s : State) (f : Res → Res) : (s.modRes f).winHide = s.winHide := rfl
@[simp] theorem State.modRes_latch (s : State) (f : Res → Res) : (s.modRes f).latch = s.latch := rfl
@[simp] theorem State.modRes_pairLow (s : State) (f : Res → Res) : (s.modRes f).pairLow = s.pairLow := rfl
@[simp] theorem State.modRes_pkg (s : State) (f : Res → Res) : (s.modRes f).pkg = s.pkg := rfl
@[simp] theorem State.modRes_frm (s : State) (f : Res → Res) : (s.modRes f).frm = s.frm := rfl
@[simp] theorem State.modRes_spn (s : State) (f : Res → Res) : (s.modRes f).spn = s.spn := rfl
@[simp] theorem State.modRes_vec (s : State) (f : Res → Res) : (s.modRes f).vec = s.vec := rfl
@[simp] theorem State.modRes_hnk (s : State) (f : Res → Res) : (s.modRes f).hnk = s.hnk := rfl
@[simp] theorem State.modRes_vis (s : State) (f : Res → Res) : (s.modRes f).vis = s.vis := rfl
@[simp] theorem State.modRes_bob (s : State) (f : Res → Res) : (s.modRes f).bob = s.bob := rfl
@[simp] theorem State.modRes_hp (s : State) (f : Res → Res) : (s.modRes f).hp = s.hp := rfl
@[simp] theorem State.modRes_fly (s : State) (f : Res → Res) : (s.modRes f).fly = s.fly := rfl
@[simp] theorem State.modRes_opt (s : State) (f : Res → Res) : (s.modRes f).opt = s.opt := rfl
@[simp] theorem State.modRes_fab (s : State) (f : Res → Res) : (s.modRes f).fab = s.fab := rfl
@[simp] theorem State.modRes_top (s : State) (f : Res → Res) : (s.modRes f).top = s.top := rfl
@[simp] theorem State.modRes_skn (s : State) (f : Res → Res) : (s.modRes f).skn = s.skn := rfl
@[simp] theorem State.modRes_pwr (s : State) (f : Res → Res) : (s.modRes f).pwr = s.pwr := rfl
@[simp] theorem State.modRes_thm (s : State) (f : Res → Res) : (s.modRes f).thm = s.thm := rfl
@[simp] theorem State.modRes_res (s : State) (f : Res → Res) : (s.modRes f).res = f s.res := rfl
@[simp] theorem State.modRes_sec (s : State) (f : Res → Res) : (s.modRes f).sec = s.sec := rfl
@[simp] theorem State.modRes_tst (s : State) (f : Res → Res) : (s.modRes f).tst = s.tst := rfl
@[simp] theorem State.modRes_mdl (s : State) (f : Res → Res) : (s.modRes f).mdl = s.mdl := rfl

@[simp] theorem State.modSec_pending (s : State) (f : Sec → Sec) : (s.modSec f).pending = s.pending := rfl
@[simp] theorem State.modSec_free (s : State) (f : Sec → Sec) : (s.modSec f).free = s.free := rfl
@[simp] theorem State.modSec_out (s : State) (f : Sec → Sec) : (s.modSec f).out = s.out := rfl
@[simp] theorem State.modSec_mem (s : State) (f : Sec → Sec) : (s.modSec f).mem = s.mem := rfl
@[simp] theorem State.modSec_undef (s : State) (f : Sec → Sec) : (s.modSec f).undef = s.undef := rfl
@[simp] theorem State.modSec_win (s : State) (f : Sec → Sec) : (s.modSec f).win = s.win := rfl
@[simp] theorem State.modSec_winHide (s : State) (f : Sec → Sec) : (s.modSec f).winHide = s.winHide := rfl
@[simp] theorem State.modSec_latch (s : State) (f : Sec → Sec) : (s.modSec f).latch = s.latch := rfl
@[simp] theorem State.modSec_pairLow (s : State) (f : Sec → Sec) : (s.modSec f).pairLow = s.pairLow := rfl
@[simp] theorem State.modSec_pkg (s : State) (f : Sec → Sec) : (s.modSec f).pkg = s.pkg := rfl
@[simp] theorem State.modSec_frm (s : State) (f : Sec → Sec) : (s.modSec f).frm = s.frm := rfl
@[simp] theorem State.modSec_spn (s : State) (f : Sec → Sec) : (s.modSec f).spn = s.spn := rfl
@[simp] theorem State.modSec_vec (s : State) (f : Sec → Sec) : (s.modSec f).vec = s.vec := rfl
@[simp] theorem State.modSec_hnk (s : State) (f : Sec → Sec) : (s.modSec f).hnk = s.hnk := rfl
@[simp] theorem State.modSec_vis (s : State) (f : Sec → Sec) : (s.modSec f).vis = s.vis := rfl
@[simp] theorem State.modSec_bob (s : State) (f : Sec → Sec) : (s.modSec f).bob = s.bob := rfl
@[simp] theorem State.modSec_hp (s : State) (f : Sec → Sec) : (s.modSec f).hp = s.hp := rfl
@[simp] theorem State.modSec_fly (s : State) (f : Sec → Sec) : (s.modSec f).fly = s.fly := rfl
@[simp] theorem State.modSec_opt (s : State) (f : Sec → Sec) : (s.modSec f).opt = s.opt := rfl
@[simp] theorem State.modSec_fab (s : State) (f : Sec → Sec) : (s.modSec f).fab = s.fab := rfl
@[simp] theorem State.modSec_top (s : State) (f : Sec → Sec) : (s.modSec f).top = s.top := rfl
@[simp] theorem State.modSec_skn (s : State) (f : Sec → Sec) : (s.modSec f).skn = s.skn := rfl
@[simp] theorem State.modSec_pwr (s : State) (f : Sec → Sec) : (s.modSec f).pwr = s.pwr := rfl
@[simp] theorem State.modSec_thm (s : State) (f : Sec → Sec) : (s.modSec f).thm = s.thm := rfl
@[simp] theorem State.modSec_res (s : State) (f : Sec → Sec) : (s.modSec f).res = s.res := rfl
@[simp] theorem State.modSec_sec (s : State) (f : Sec → Sec) : (s.modSec f).sec = f s.sec := rfl
@[simp] theorem State.modSec_tst (s : State) (f : Sec → Sec) : (s.modSec f).tst = s.tst := rfl
@[simp] theorem State.modSec_mdl (s : State) (f : Sec → Sec) : (s.modSec f).mdl = s.mdl := rfl

@[simp] theorem State.modTst_pending (s : State) (f : Tst → Tst) : (s.modTst f).pending = s.pending := rfl
@[simp] theorem State.modTst_free (s : State) (f : Tst → Tst) : (s.modTst f).free = s.free := rfl
@[simp] theorem State.modTst_out (s : State) (f : Tst → Tst) : (s.modTst f).out = s.out := rfl
@[simp] theorem State.modTst_mem (s : State) (f : Tst → Tst) : (s.modTst f).mem = s.mem := rfl
@[simp] theorem State.modTst_undef (s : State) (f : Tst → Tst) : (s.modTst f).undef = s.undef := rfl
@[simp] theorem State.modTst_win (s : State) (f : Tst → Tst) : (s.modTst f).win = s.win := rfl
@[simp] theorem State.modTst_winHide (s : State) (f : Tst → Tst) : (s.modTst f).winHide = s.winHide := rfl
@[simp] theorem State.modTst_latch (s : State) (f : Tst → Tst) : (s.modTst f).latch = s.latch := rfl
@[simp] theorem State.modTst_pairLow (s : State) (f : Tst → Tst) : (s.modTst f).pairLow = s.pairLow := rfl
@[simp] theorem State.modTst_pkg (s : State) (f : Tst → Tst) : (s.modTst f).pkg = s.pkg := rfl
@[simp] theorem State.modTst_frm (s : State) (f : Tst → Tst) : (s.modTst f).frm = s.frm := rfl
@[simp] theorem State.modTst_spn (s : State) (f : Tst → Tst) : (s.modTst f).spn = s.spn := rfl
@[simp] theorem State.modTst_vec (s : State) (f : Tst → Tst) : (s.modTst f).vec = s.vec := rfl
@[simp] theorem State.modTst_hnk (s : State) (f : Tst → Tst) : (s.modTst f).hnk = s.hnk := rfl
@[simp] theorem State.modTst_vis (s : State) (f : Tst → Tst) : (s.modTst f).vis = s.vis := rfl
@[simp] theorem State.modTst_bob (s : State) (f : Tst → Tst) : (s.modTst f).bob = s.bob := rfl
@[simp] theorem State.modTst_hp (s : State) (f : Tst → Tst) : (s.modTst f).hp = s.hp := rfl
@[simp] theorem State.modTst_fly (s : State) (f : Tst → Tst) : (s.modTst f).fly = s.fly := rfl
@[simp] theorem State.modTst_opt (s : State) (f : Tst → Tst) : (s.modTst f).opt = s.opt := rfl
@[simp] theorem State.modTst_fab (s : State) (f : Tst → Tst) : (s.modTst f).fab = s.fab := rfl
@[simp] theorem State.modTst_top (s : State) (f : Tst → Tst) : (s.modTst f).top = s.top := rfl
@[simp] theorem State.modTst_skn (s : State) (f : Tst → Tst) : (s.modTst f).skn = s.skn := rfl
@[simp] theorem State.modTst_pwr (s : State) (f : Tst → Tst) : (s.modTst f).pwr = s.pwr := rfl
@[simp] theorem State.modTst_thm (s : State) (f : Tst → Tst) : (s.modTst f).thm = s.thm := rfl
@[simp] theorem State.modTst_res (s : State) (f : Tst → Tst) : (s.modTst f).res = s.res := rfl
@[simp] theorem State.modTst_sec (s : State) (f : Tst → Tst) : (s.modTst f).sec = s.sec := rfl
@[simp] theorem State.modTst_tst (s : State) (f : Tst → Tst) : (s.modTst f).tst = f s.tst := rfl
@[simp] theorem State.modTst_mdl (s : State) (f : Tst → Tst) : (s.modTst f).mdl = s.mdl := rfl

@[simp] theorem State.modMdl_pending (s : State) (f : Mdl → Mdl) : (s.modMdl f).pending = s.pending := rfl
@[simp] theorem State.modMdl_free (s : State) (f : Mdl → Mdl) : (s.modMdl f).free = s.free := rfl
@[simp] theorem State.modMdl_out (s : State) (f : Mdl → Mdl) : (s.modMdl f).out = s.out := rfl
@[simp] theorem State.modMdl_mem (s : State) (f : Mdl → Mdl) : (s.modMdl f).mem = s.mem := rfl
@[simp] theorem State.modMdl_undef (s : State) (f : Mdl → Mdl) : (s.modMdl f).undef = s.undef := rfl
@[simp] theorem State.modMdl_win (s : State) (f : Mdl → Mdl) : (s.modMdl f).win = s.win := rfl
@[simp] theorem State.modMdl_winHide (s : State) (f : Mdl → Mdl) : (s.modMdl f).winHide = s.winHide := rfl
@[simp] theorem State.modMdl_latch (s : State) (f : Mdl → Mdl) : (s.modMdl f).latch = s.latch := rfl
@[simp] theorem State.modMdl_pairLow (s : State) (f : Mdl → Mdl) : (s.modMdl f).pairLow = s.pairLow := rfl
@[simp] theorem State.modMdl_pkg (s : State) (f : Mdl → Mdl) : (s.modMdl f).pkg = s.pkg := rfl
@[simp] theorem State.modMdl_frm (s : State) (f : Mdl → Mdl) : (s.modMdl f).frm = s.frm := rfl
@[simp] theorem State.modMdl_spn (s : State) (f : Mdl → Mdl) : (s.modMdl f).spn = s.spn := rfl
@[simp] theorem State.modMdl_vec (s : State) (f : Mdl → Mdl) : (s.modMdl f).vec = s.vec := rfl
@[simp] theorem State.modMdl_hnk (s : State) (f : Mdl → Mdl) : (s.modMdl f).hnk = s.hnk := rfl
@[simp] theorem State.modMdl_vis (s : State) (f : Mdl → Mdl) : (s.modMdl f).vis = s.vis := rfl
@[simp] theorem State.modMdl_bob (s : State) (f : Mdl → Mdl) : (s.modMdl f).bob = s.bob := rfl
@[simp] theorem State.modMdl_hp (s : State) (f : Mdl → Mdl) : (s.modMdl f).hp = s.hp := rfl
@[simp] theorem State.modMdl_fly (s : State) (f : Mdl → Mdl) : (s.modMdl f).fly = s.fly := rfl
@[simp] theorem State.modMdl_opt (s : State) (f : Mdl → Mdl) : (s.modMdl f).opt = s.opt := rfl
@[simp] theorem State.modMdl_fab (s : State) (f : Mdl → Mdl) : (s.modMdl f).fab = s.fab := rfl
@[simp] theorem State.modMdl_top (s : State) (f : Mdl → Mdl) : (s.modMdl f).top = s.top := rfl
@[simp] theorem State.modMdl_skn (s : State) (f : Mdl → Mdl) : (s.modMdl f).skn = s.skn := rfl
@[simp] theorem State.modMdl_pwr (s : State) (f : Mdl → Mdl) : (s.modMdl f).pwr = s.pwr := rfl
@[simp] theorem State.modMdl_thm (s : State) (f : Mdl → Mdl) : (s.modMdl f).thm = s.thm := rfl
@[simp] theorem State.modMdl_res (s : State) (f : Mdl → Mdl) : (s.modMdl f).res = s.res := rfl
@[simp] theorem State.modMdl_sec (s : State) (f : Mdl → Mdl) : (s.modMdl f).sec = s.sec := rfl
@[simp] theorem State.modMdl_tst (s : State) (f : Mdl → Mdl) : (s.modMdl f).tst = s.tst := rfl
@[simp] theorem State.modMdl_mdl (s : State) (f : Mdl → Mdl) : (s.modMdl f).mdl = f s.mdl := rfl

@[simp] theorem State.emit_pending (s : State) (e : Emit) : (s.emit e).pending = s.pending := rfl
@[simp] theorem State.emit_free (s : State) (e : Emit) : (s.emit e).free = s.free := rfl
@[simp] theorem State.emit_out (s : State) (e : Emit) : (s.emit e).out = s.out ++ [e] := rfl
@[simp] theorem State.emit_mem (s : State) (e : Emit) : (s.emit e).mem = s.mem := rfl
@[simp] theorem State.emit_undef (s : State) (e : Emit) : (s.emit e).undef = s.undef := rfl
@[simp] theorem State.emit_win (s : State) (e : Emit) : (s.emit e).win = s.win := rfl
@[simp] theorem State.emit_winHide (s : State) (e : Emit) : (s.emit e).winHide = s.winHide := rfl
@[simp] theorem State.emit_latch (s : State) (e : Emit) : (s.emit e).latch = s.latch := rfl
@[simp] theorem State.emit_pairLow (s : State) (e : Emit) : (s.emit e).pairLow = s.pairLow := rfl
@[simp] theorem State.emit_pkg (s : State) (e : Emit) : (s.emit e).pkg = s.pkg := rfl
@[simp] theorem State.emit_frm (s : State) (e : Emit) : (s.emit e).frm = s.frm := rfl
@[simp] theorem State.emit_spn (s : State) (e : Emit) : (s.emit e).spn = s.spn := rfl
@[simp] theorem State.emit_vec (s : State) (e : Emit) : (s.emit e).vec = s.vec := rfl
@[simp] theorem State.emit_hnk (s : State) (e : Emit) : (s.emit e).hnk = s.hnk := rfl
@[simp] theorem State.emit_vis (s : State) (e : Emit) : (s.emit e).vis = s.vis := rfl
@[simp] theorem State.emit_bob (s : State) (e : Emit) : (s.emit e).bob = s.bob := rfl
@[simp] theorem State.emit_hp (s : State) (e : Emit) : (s.emit e).hp = s.hp := rfl
@[simp] theorem State.emit_fly (s : State) (e : Emit) : (s.emit e).fly = s.fly := rfl
@[simp] theorem State.emit_opt (s : State) (e : Emit) : (s.emit e).opt = s.opt := rfl
@[simp] theorem State.emit_fab (s : State) (e : Emit) : (s.emit e).fab = s.fab := rfl
@[simp] theorem State.emit_top (s : State) (e : Emit) : (s.emit e).top = s.top := rfl
@[simp] theorem State.emit_skn (s : State) (e : Emit) : (s.emit e).skn = s.skn := rfl
@[simp] theorem State.emit_pwr (s : State) (e : Emit) : (s.emit e).pwr = s.pwr := rfl
@[simp] theorem State.emit_thm (s : State) (e : Emit) : (s.emit e).thm = s.thm := rfl
@[simp] theorem State.emit_res (s : State) (e : Emit) : (s.emit e).res = s.res := rfl
@[simp] theorem State.emit_sec (s : State) (e : Emit) : (s.emit e).sec = s.sec := rfl
@[simp] theorem State.emit_tst (s : State) (e : Emit) : (s.emit e).tst = s.tst := rfl
@[simp] theorem State.emit_mdl (s : State) (e : Emit) : (s.emit e).mdl = s.mdl := rfl

@[simp] theorem State.drawFree_pending (s : State) : (s.drawFree).pending = s.pending := rfl
@[simp] theorem State.drawFree_free (s : State) : (s.drawFree).free = s.free + 1 := rfl
@[simp] theorem State.drawFree_out (s : State) : (s.drawFree).out = s.out := rfl
@[simp] theorem State.drawFree_mem (s : State) : (s.drawFree).mem = s.mem := rfl
@[simp] theorem State.drawFree_undef (s : State) : (s.drawFree).undef = s.undef := rfl
@[simp] theorem State.drawFree_win (s : State) : (s.drawFree).win = s.win := rfl
@[simp] theorem State.drawFree_winHide (s : State) : (s.drawFree).winHide = s.winHide := rfl
@[simp] theorem State.drawFree_latch (s : State) : (s.drawFree).latch = s.latch := rfl
@[simp] theorem State.drawFree_pairLow (s : State) : (s.drawFree).pairLow = s.pairLow := rfl
@[simp] theorem State.drawFree_pkg (s : State) : (s.drawFree).pkg = s.pkg := rfl
@[simp] theorem State.drawFree_frm (s : State) : (s.drawFree).frm = s.frm := rfl
@[simp] theorem State.drawFree_spn (s : State) : (s.drawFree).spn = s.spn := rfl
@[simp] theorem State.drawFree_vec (s : State) : (s.drawFree).vec = s.vec := rfl
@[simp] theorem State.drawFree_hnk (s : State) : (s.drawFree).hnk = s.hnk := rfl
@[simp] theorem State.drawFree_vis (s : State) : (s.drawFree).vis = s.vis := rfl
@[simp] theorem State.drawFree_bob (s : State) : (s.drawFree).bob = s.bob := rfl
@[simp] theorem State.drawFree_hp (s : State) : (s.drawFree).hp = s.hp := rfl
@[simp] theorem State.drawFree_fly (s : State) : (s.drawFree).fly = s.fly := rfl
@[simp] theorem State.drawFree_opt (s : State) : (s.drawFree).opt = s.opt := rfl
@[simp] theorem State.drawFree_fab (s : State) : (s.drawFree).fab = s.fab := rfl
@[simp] theorem State.drawFree_top (s : State) : (s.drawFree).top = s.top := rfl
@[simp] theorem State.drawFree_skn (s : State) : (s.drawFree).skn = s.skn := rfl
@[simp] theorem State.drawFree_pwr (s : State) : (s.drawFree).pwr = s.pwr := rfl
@[simp] theorem State.drawFree_thm (s : State) : (s.drawFree).thm = s.thm := rfl
@[simp] theorem State.drawFree_res (s : State) : (s.drawFree).res = s.res := rfl
@[simp] theorem State.drawFree_sec (s : State) : (s.drawFree).sec = s.sec := rfl
@[simp] theorem State.drawFree_tst (s : State) : (s.drawFree).tst = s.tst := rfl
@[simp] theorem State.drawFree_mdl (s : State) : (s.drawFree).mdl = s.mdl := rfl

@[simp] theorem State.drawFrees_pending (n : Nat) (s : State) : (s.drawFrees n).pending = s.pending := rfl
@[simp] theorem State.drawFrees_free (n : Nat) (s : State) : (s.drawFrees n).free = s.free + n := rfl
@[simp] theorem State.drawFrees_out (n : Nat) (s : State) : (s.drawFrees n).out = s.out := rfl
@[simp] theorem State.drawFrees_mem (n : Nat) (s : State) : (s.drawFrees n).mem = s.mem := rfl
@[simp] theorem State.drawFrees_undef (n : Nat) (s : State) : (s.drawFrees n).undef = s.undef := rfl
@[simp] theorem State.drawFrees_win (n : Nat) (s : State) : (s.drawFrees n).win = s.win := rfl
@[simp] theorem State.drawFrees_winHide (n : Nat) (s : State) : (s.drawFrees n).winHide = s.winHide := rfl
@[simp] theorem State.drawFrees_latch (n : Nat) (s : State) : (s.drawFrees n).latch = s.latch := rfl
@[simp] theorem State.drawFrees_pairLow (n : Nat) (s : State) : (s.drawFrees n).pairLow = s.pairLow := rfl
@[simp] theorem State.drawFrees_pkg (n : Nat) (s : State) : (s.drawFrees n).pkg = s.pkg := rfl
@[simp] theorem State.drawFrees_frm (n : Nat) (s : State) : (s.drawFrees n).frm = s.frm := rfl
@[simp] theorem State.drawFrees_spn (n : Nat) (s : State) : (s.drawFrees n).spn = s.spn := rfl
@[simp] theorem State.drawFrees_vec (n : Nat) (s : State) : (s.drawFrees n).vec = s.vec := rfl
@[simp] theorem State.drawFrees_hnk (n : Nat) (s : State) : (s.drawFrees n).hnk = s.hnk := rfl
@[simp] theorem State.drawFrees_vis (n : Nat) (s : State) : (s.drawFrees n).vis = s.vis := rfl
@[simp] theorem State.drawFrees_bob (n : Nat) (s : State) : (s.drawFrees n).bob = s.bob := rfl
@[simp] theorem State.drawFrees_hp (n : Nat) (s : State) : (s.drawFrees n).hp = s.hp := rfl
@[simp] theorem State.drawFrees_fly (n : Nat) (s : State) : (s.drawFrees n).fly = s.fly := rfl
@[simp] theorem State.drawFrees_opt (n : Nat) (s : State) : (s.drawFrees n).opt = s.opt := rfl
@[simp] theorem State.drawFrees_fab (n : Nat) (s : State) : (s.drawFrees n).fab = s.fab := rfl
@[simp] theorem State.drawFrees_top (n : Nat) (s : State) : (s.drawFrees n).top = s.top := rfl
@[simp] theorem State.drawFrees_skn (n : Nat) (s : State) : (s.drawFrees n).skn = s.skn := rfl
@[simp] theorem State.drawFrees_pwr (n : Nat) (s : State) : (s.drawFrees n).pwr = s.pwr := rfl
@[simp] theorem State.drawFrees_thm (n : Nat) (s : State) : (s.drawFrees n).thm = s.thm := rfl
@[simp] theorem State.drawFrees_res (n : Nat) (s : State) : (s.drawFrees n).res = s.res := rfl
@[simp] theorem State.drawFrees_sec (n : Nat) (s : State) : (s.drawFrees n).sec = s.sec := rfl
@[simp] theorem State.drawFrees_tst (n : Nat) (s : State) : (s.drawFrees n).tst = s.tst := rfl
@[simp] theorem State.drawFrees_mdl (n : Nat) (s : State) : (s.drawFrees n).mdl = s.mdl := rfl

@[simp] theorem State.modSpn_pending (s : State) (i : Nat) (f : Spindle → Spindle) : (s.modSpn i f).pending = s.pending := rfl
@[simp] theorem State.modSpn_free (s : State) (i : Nat) (f : Spindle → Spindle) : (s.modSpn i f).free = s.free := rfl
@[simp] theorem State.modSpn_out (s : State) (i : Nat) (f : Spindle → Spindle) : (s.modSpn i f).out = s.out := rfl
@[simp] theorem State.modSpn_mem (s : State) (i : Nat) (f : Spindle → Spindle) : (s.modSpn i f).mem = s.mem := rfl
@[simp] theorem State.modSpn_undef (s : State) (i : Nat) (f : Spindle → Spindle) : (s.modSpn i f).undef = s.undef := rfl
@[simp] theorem State.modSpn_win (s : State) (i : Nat) (f : Spindle → Spindle) : (s.modSpn i f).win = s.win := rfl
@[simp] theorem State.modSpn_winHide (s : State) (i : Nat) (f : Spindle → Spindle) : (s.modSpn i f).winHide = s.winHide := rfl
@[simp] theorem State.modSpn_latch (s : State) (i : Nat) (f : Spindle → Spindle) : (s.modSpn i f).latch = s.latch := rfl
@[simp] theorem State.modSpn_pairLow (s : State) (i : Nat) (f : Spindle → Spindle) : (s.modSpn i f).pairLow = s.pairLow := rfl
@[simp] theorem State.modSpn_pkg (s : State) (i : Nat) (f : Spindle → Spindle) : (s.modSpn i f).pkg = s.pkg := rfl
@[simp] theorem State.modSpn_frm (s : State) (i : Nat) (f : Spindle → Spindle) : (s.modSpn i f).frm = s.frm := rfl
@[simp] theorem State.modSpn_spn (s : State) (i : Nat) (f : Spindle → Spindle) : (s.modSpn i f).spn = vmod s.spn i f := rfl
@[simp] theorem State.modSpn_vec (s : State) (i : Nat) (f : Spindle → Spindle) : (s.modSpn i f).vec = s.vec := rfl
@[simp] theorem State.modSpn_hnk (s : State) (i : Nat) (f : Spindle → Spindle) : (s.modSpn i f).hnk = s.hnk := rfl
@[simp] theorem State.modSpn_vis (s : State) (i : Nat) (f : Spindle → Spindle) : (s.modSpn i f).vis = s.vis := rfl
@[simp] theorem State.modSpn_bob (s : State) (i : Nat) (f : Spindle → Spindle) : (s.modSpn i f).bob = s.bob := rfl
@[simp] theorem State.modSpn_hp (s : State) (i : Nat) (f : Spindle → Spindle) : (s.modSpn i f).hp = s.hp := rfl
@[simp] theorem State.modSpn_fly (s : State) (i : Nat) (f : Spindle → Spindle) : (s.modSpn i f).fly = s.fly := rfl
@[simp] theorem State.modSpn_opt (s : State) (i : Nat) (f : Spindle → Spindle) : (s.modSpn i f).opt = s.opt := rfl
@[simp] theorem State.modSpn_fab (s : State) (i : Nat) (f : Spindle → Spindle) : (s.modSpn i f).fab = s.fab := rfl
@[simp] theorem State.modSpn_top (s : State) (i : Nat) (f : Spindle → Spindle) : (s.modSpn i f).top = s.top := rfl
@[simp] theorem State.modSpn_skn (s : State) (i : Nat) (f : Spindle → Spindle) : (s.modSpn i f).skn = s.skn := rfl
@[simp] theorem State.modSpn_pwr (s : State) (i : Nat) (f : Spindle → Spindle) : (s.modSpn i f).pwr = s.pwr := rfl
@[simp] theorem State.modSpn_thm (s : State) (i : Nat) (f : Spindle → Spindle) : (s.modSpn i f).thm = s.thm := rfl
@[simp] theorem State.modSpn_res (s : State) (i : Nat) (f : Spindle → Spindle) : (s.modSpn i f).res = s.res := rfl
@[simp] theorem State.modSpn_sec (s : State) (i : Nat) (f : Spindle → Spindle) : (s.modSpn i f).sec = s.sec := rfl
@[simp] theorem State.modSpn_tst (s : State) (i : Nat) (f : Spindle → Spindle) : (s.modSpn i f).tst = s.tst := rfl
@[simp] theorem State.modSpn_mdl (s : State) (i : Nat) (f : Spindle → Spindle) : (s.modSpn i f).mdl = s.mdl := rfl

@[simp] theorem State.modVec_pending (s : State) (i : Nat) (f : VecDie → VecDie) : (s.modVec i f).pending = s.pending := rfl
@[simp] theorem State.modVec_free (s : State) (i : Nat) (f : VecDie → VecDie) : (s.modVec i f).free = s.free := rfl
@[simp] theorem State.modVec_out (s : State) (i : Nat) (f : VecDie → VecDie) : (s.modVec i f).out = s.out := rfl
@[simp] theorem State.modVec_mem (s : State) (i : Nat) (f : VecDie → VecDie) : (s.modVec i f).mem = s.mem := rfl
@[simp] theorem State.modVec_undef (s : State) (i : Nat) (f : VecDie → VecDie) : (s.modVec i f).undef = s.undef := rfl
@[simp] theorem State.modVec_win (s : State) (i : Nat) (f : VecDie → VecDie) : (s.modVec i f).win = s.win := rfl
@[simp] theorem State.modVec_winHide (s : State) (i : Nat) (f : VecDie → VecDie) : (s.modVec i f).winHide = s.winHide := rfl
@[simp] theorem State.modVec_latch (s : State) (i : Nat) (f : VecDie → VecDie) : (s.modVec i f).latch = s.latch := rfl
@[simp] theorem State.modVec_pairLow (s : State) (i : Nat) (f : VecDie → VecDie) : (s.modVec i f).pairLow = s.pairLow := rfl
@[simp] theorem State.modVec_pkg (s : State) (i : Nat) (f : VecDie → VecDie) : (s.modVec i f).pkg = s.pkg := rfl
@[simp] theorem State.modVec_frm (s : State) (i : Nat) (f : VecDie → VecDie) : (s.modVec i f).frm = s.frm := rfl
@[simp] theorem State.modVec_spn (s : State) (i : Nat) (f : VecDie → VecDie) : (s.modVec i f).spn = s.spn := rfl
@[simp] theorem State.modVec_vec (s : State) (i : Nat) (f : VecDie → VecDie) : (s.modVec i f).vec = vmod s.vec i f := rfl
@[simp] theorem State.modVec_hnk (s : State) (i : Nat) (f : VecDie → VecDie) : (s.modVec i f).hnk = s.hnk := rfl
@[simp] theorem State.modVec_vis (s : State) (i : Nat) (f : VecDie → VecDie) : (s.modVec i f).vis = s.vis := rfl
@[simp] theorem State.modVec_bob (s : State) (i : Nat) (f : VecDie → VecDie) : (s.modVec i f).bob = s.bob := rfl
@[simp] theorem State.modVec_hp (s : State) (i : Nat) (f : VecDie → VecDie) : (s.modVec i f).hp = s.hp := rfl
@[simp] theorem State.modVec_fly (s : State) (i : Nat) (f : VecDie → VecDie) : (s.modVec i f).fly = s.fly := rfl
@[simp] theorem State.modVec_opt (s : State) (i : Nat) (f : VecDie → VecDie) : (s.modVec i f).opt = s.opt := rfl
@[simp] theorem State.modVec_fab (s : State) (i : Nat) (f : VecDie → VecDie) : (s.modVec i f).fab = s.fab := rfl
@[simp] theorem State.modVec_top (s : State) (i : Nat) (f : VecDie → VecDie) : (s.modVec i f).top = s.top := rfl
@[simp] theorem State.modVec_skn (s : State) (i : Nat) (f : VecDie → VecDie) : (s.modVec i f).skn = s.skn := rfl
@[simp] theorem State.modVec_pwr (s : State) (i : Nat) (f : VecDie → VecDie) : (s.modVec i f).pwr = s.pwr := rfl
@[simp] theorem State.modVec_thm (s : State) (i : Nat) (f : VecDie → VecDie) : (s.modVec i f).thm = s.thm := rfl
@[simp] theorem State.modVec_res (s : State) (i : Nat) (f : VecDie → VecDie) : (s.modVec i f).res = s.res := rfl
@[simp] theorem State.modVec_sec (s : State) (i : Nat) (f : VecDie → VecDie) : (s.modVec i f).sec = s.sec := rfl
@[simp] theorem State.modVec_tst (s : State) (i : Nat) (f : VecDie → VecDie) : (s.modVec i f).tst = s.tst := rfl
@[simp] theorem State.modVec_mdl (s : State) (i : Nat) (f : VecDie → VecDie) : (s.modVec i f).mdl = s.mdl := rfl

@[simp] theorem State.modHank_pending (s : State) (i : Nat) (f : Hank → Hank) : (s.modHank i f).pending = s.pending := rfl
@[simp] theorem State.modHank_free (s : State) (i : Nat) (f : Hank → Hank) : (s.modHank i f).free = s.free := rfl
@[simp] theorem State.modHank_out (s : State) (i : Nat) (f : Hank → Hank) : (s.modHank i f).out = s.out := rfl
@[simp] theorem State.modHank_mem (s : State) (i : Nat) (f : Hank → Hank) : (s.modHank i f).mem = s.mem := rfl
@[simp] theorem State.modHank_undef (s : State) (i : Nat) (f : Hank → Hank) : (s.modHank i f).undef = s.undef := rfl
@[simp] theorem State.modHank_win (s : State) (i : Nat) (f : Hank → Hank) : (s.modHank i f).win = s.win := rfl
@[simp] theorem State.modHank_winHide (s : State) (i : Nat) (f : Hank → Hank) : (s.modHank i f).winHide = s.winHide := rfl
@[simp] theorem State.modHank_latch (s : State) (i : Nat) (f : Hank → Hank) : (s.modHank i f).latch = s.latch := rfl
@[simp] theorem State.modHank_pairLow (s : State) (i : Nat) (f : Hank → Hank) : (s.modHank i f).pairLow = s.pairLow := rfl
@[simp] theorem State.modHank_pkg (s : State) (i : Nat) (f : Hank → Hank) : (s.modHank i f).pkg = s.pkg := rfl
@[simp] theorem State.modHank_frm (s : State) (i : Nat) (f : Hank → Hank) : (s.modHank i f).frm = s.frm := rfl
@[simp] theorem State.modHank_spn (s : State) (i : Nat) (f : Hank → Hank) : (s.modHank i f).spn = s.spn := rfl
@[simp] theorem State.modHank_vec (s : State) (i : Nat) (f : Hank → Hank) : (s.modHank i f).vec = s.vec := rfl
@[simp] theorem State.modHank_hnk (s : State) (i : Nat) (f : Hank → Hank) :
    (s.modHank i f).hnk = { s.hnk with hank := tmod s.hnk.hank i f } := rfl
@[simp] theorem State.modHank_vis (s : State) (i : Nat) (f : Hank → Hank) : (s.modHank i f).vis = s.vis := rfl
@[simp] theorem State.modHank_bob (s : State) (i : Nat) (f : Hank → Hank) : (s.modHank i f).bob = s.bob := rfl
@[simp] theorem State.modHank_hp (s : State) (i : Nat) (f : Hank → Hank) : (s.modHank i f).hp = s.hp := rfl
@[simp] theorem State.modHank_fly (s : State) (i : Nat) (f : Hank → Hank) : (s.modHank i f).fly = s.fly := rfl
@[simp] theorem State.modHank_opt (s : State) (i : Nat) (f : Hank → Hank) : (s.modHank i f).opt = s.opt := rfl
@[simp] theorem State.modHank_fab (s : State) (i : Nat) (f : Hank → Hank) : (s.modHank i f).fab = s.fab := rfl
@[simp] theorem State.modHank_top (s : State) (i : Nat) (f : Hank → Hank) : (s.modHank i f).top = s.top := rfl
@[simp] theorem State.modHank_skn (s : State) (i : Nat) (f : Hank → Hank) : (s.modHank i f).skn = s.skn := rfl
@[simp] theorem State.modHank_pwr (s : State) (i : Nat) (f : Hank → Hank) : (s.modHank i f).pwr = s.pwr := rfl
@[simp] theorem State.modHank_thm (s : State) (i : Nat) (f : Hank → Hank) : (s.modHank i f).thm = s.thm := rfl
@[simp] theorem State.modHank_res (s : State) (i : Nat) (f : Hank → Hank) : (s.modHank i f).res = s.res := rfl
@[simp] theorem State.modHank_sec (s : State) (i : Nat) (f : Hank → Hank) : (s.modHank i f).sec = s.sec := rfl
@[simp] theorem State.modHank_tst (s : State) (i : Nat) (f : Hank → Hank) : (s.modHank i f).tst = s.tst := rfl
@[simp] theorem State.modHank_mdl (s : State) (i : Nat) (f : Hank → Hank) : (s.modHank i f).mdl = s.mdl := rfl

@[simp] theorem State.modChan_pending (s : State) (i : Nat) (f : Chan → Chan) : (s.modChan i f).pending = s.pending := rfl
@[simp] theorem State.modChan_free (s : State) (i : Nat) (f : Chan → Chan) : (s.modChan i f).free = s.free := rfl
@[simp] theorem State.modChan_out (s : State) (i : Nat) (f : Chan → Chan) : (s.modChan i f).out = s.out := rfl
@[simp] theorem State.modChan_mem (s : State) (i : Nat) (f : Chan → Chan) : (s.modChan i f).mem = s.mem := rfl
@[simp] theorem State.modChan_undef (s : State) (i : Nat) (f : Chan → Chan) : (s.modChan i f).undef = s.undef := rfl
@[simp] theorem State.modChan_win (s : State) (i : Nat) (f : Chan → Chan) : (s.modChan i f).win = s.win := rfl
@[simp] theorem State.modChan_winHide (s : State) (i : Nat) (f : Chan → Chan) : (s.modChan i f).winHide = s.winHide := rfl
@[simp] theorem State.modChan_latch (s : State) (i : Nat) (f : Chan → Chan) : (s.modChan i f).latch = s.latch := rfl
@[simp] theorem State.modChan_pairLow (s : State) (i : Nat) (f : Chan → Chan) : (s.modChan i f).pairLow = s.pairLow := rfl
@[simp] theorem State.modChan_pkg (s : State) (i : Nat) (f : Chan → Chan) : (s.modChan i f).pkg = s.pkg := rfl
@[simp] theorem State.modChan_frm (s : State) (i : Nat) (f : Chan → Chan) : (s.modChan i f).frm = s.frm := rfl
@[simp] theorem State.modChan_spn (s : State) (i : Nat) (f : Chan → Chan) : (s.modChan i f).spn = s.spn := rfl
@[simp] theorem State.modChan_vec (s : State) (i : Nat) (f : Chan → Chan) : (s.modChan i f).vec = s.vec := rfl
@[simp] theorem State.modChan_hnk (s : State) (i : Nat) (f : Chan → Chan) :
    (s.modChan i f).hnk = { s.hnk with chan := tmod s.hnk.chan i f } := rfl
@[simp] theorem State.modChan_vis (s : State) (i : Nat) (f : Chan → Chan) : (s.modChan i f).vis = s.vis := rfl
@[simp] theorem State.modChan_bob (s : State) (i : Nat) (f : Chan → Chan) : (s.modChan i f).bob = s.bob := rfl
@[simp] theorem State.modChan_hp (s : State) (i : Nat) (f : Chan → Chan) : (s.modChan i f).hp = s.hp := rfl
@[simp] theorem State.modChan_fly (s : State) (i : Nat) (f : Chan → Chan) : (s.modChan i f).fly = s.fly := rfl
@[simp] theorem State.modChan_opt (s : State) (i : Nat) (f : Chan → Chan) : (s.modChan i f).opt = s.opt := rfl
@[simp] theorem State.modChan_fab (s : State) (i : Nat) (f : Chan → Chan) : (s.modChan i f).fab = s.fab := rfl
@[simp] theorem State.modChan_top (s : State) (i : Nat) (f : Chan → Chan) : (s.modChan i f).top = s.top := rfl
@[simp] theorem State.modChan_skn (s : State) (i : Nat) (f : Chan → Chan) : (s.modChan i f).skn = s.skn := rfl
@[simp] theorem State.modChan_pwr (s : State) (i : Nat) (f : Chan → Chan) : (s.modChan i f).pwr = s.pwr := rfl
@[simp] theorem State.modChan_thm (s : State) (i : Nat) (f : Chan → Chan) : (s.modChan i f).thm = s.thm := rfl
@[simp] theorem State.modChan_res (s : State) (i : Nat) (f : Chan → Chan) : (s.modChan i f).res = s.res := rfl
@[simp] theorem State.modChan_sec (s : State) (i : Nat) (f : Chan → Chan) : (s.modChan i f).sec = s.sec := rfl
@[simp] theorem State.modChan_tst (s : State) (i : Nat) (f : Chan → Chan) : (s.modChan i f).tst = s.tst := rfl
@[simp] theorem State.modChan_mdl (s : State) (i : Nat) (f : Chan → Chan) : (s.modChan i f).mdl = s.mdl := rfl

@[simp] theorem State.modQueue_pending (s : State) (i : Nat) (f : Queue → Queue) : (s.modQueue i f).pending = s.pending := rfl
@[simp] theorem State.modQueue_free (s : State) (i : Nat) (f : Queue → Queue) : (s.modQueue i f).free = s.free := rfl
@[simp] theorem State.modQueue_out (s : State) (i : Nat) (f : Queue → Queue) : (s.modQueue i f).out = s.out := rfl
@[simp] theorem State.modQueue_mem (s : State) (i : Nat) (f : Queue → Queue) : (s.modQueue i f).mem = s.mem := rfl
@[simp] theorem State.modQueue_undef (s : State) (i : Nat) (f : Queue → Queue) : (s.modQueue i f).undef = s.undef := rfl
@[simp] theorem State.modQueue_win (s : State) (i : Nat) (f : Queue → Queue) : (s.modQueue i f).win = s.win := rfl
@[simp] theorem State.modQueue_winHide (s : State) (i : Nat) (f : Queue → Queue) : (s.modQueue i f).winHide = s.winHide := rfl
@[simp] theorem State.modQueue_latch (s : State) (i : Nat) (f : Queue → Queue) : (s.modQueue i f).latch = s.latch := rfl
@[simp] theorem State.modQueue_pairLow (s : State) (i : Nat) (f : Queue → Queue) : (s.modQueue i f).pairLow = s.pairLow := rfl
@[simp] theorem State.modQueue_pkg (s : State) (i : Nat) (f : Queue → Queue) : (s.modQueue i f).pkg = s.pkg := rfl
@[simp] theorem State.modQueue_frm (s : State) (i : Nat) (f : Queue → Queue) : (s.modQueue i f).frm = s.frm := rfl
@[simp] theorem State.modQueue_spn (s : State) (i : Nat) (f : Queue → Queue) : (s.modQueue i f).spn = s.spn := rfl
@[simp] theorem State.modQueue_vec (s : State) (i : Nat) (f : Queue → Queue) : (s.modQueue i f).vec = s.vec := rfl
@[simp] theorem State.modQueue_hnk (s : State) (i : Nat) (f : Queue → Queue) : (s.modQueue i f).hnk = s.hnk := rfl
@[simp] theorem State.modQueue_vis (s : State) (i : Nat) (f : Queue → Queue) : (s.modQueue i f).vis = s.vis := rfl
@[simp] theorem State.modQueue_bob (s : State) (i : Nat) (f : Queue → Queue) :
    (s.modQueue i f).bob = { s.bob with queue := tmod s.bob.queue i f } := rfl
@[simp] theorem State.modQueue_hp (s : State) (i : Nat) (f : Queue → Queue) : (s.modQueue i f).hp = s.hp := rfl
@[simp] theorem State.modQueue_fly (s : State) (i : Nat) (f : Queue → Queue) : (s.modQueue i f).fly = s.fly := rfl
@[simp] theorem State.modQueue_opt (s : State) (i : Nat) (f : Queue → Queue) : (s.modQueue i f).opt = s.opt := rfl
@[simp] theorem State.modQueue_fab (s : State) (i : Nat) (f : Queue → Queue) : (s.modQueue i f).fab = s.fab := rfl
@[simp] theorem State.modQueue_top (s : State) (i : Nat) (f : Queue → Queue) : (s.modQueue i f).top = s.top := rfl
@[simp] theorem State.modQueue_skn (s : State) (i : Nat) (f : Queue → Queue) : (s.modQueue i f).skn = s.skn := rfl
@[simp] theorem State.modQueue_pwr (s : State) (i : Nat) (f : Queue → Queue) : (s.modQueue i f).pwr = s.pwr := rfl
@[simp] theorem State.modQueue_thm (s : State) (i : Nat) (f : Queue → Queue) : (s.modQueue i f).thm = s.thm := rfl
@[simp] theorem State.modQueue_res (s : State) (i : Nat) (f : Queue → Queue) : (s.modQueue i f).res = s.res := rfl
@[simp] theorem State.modQueue_sec (s : State) (i : Nat) (f : Queue → Queue) : (s.modQueue i f).sec = s.sec := rfl
@[simp] theorem State.modQueue_tst (s : State) (i : Nat) (f : Queue → Queue) : (s.modQueue i f).tst = s.tst := rfl
@[simp] theorem State.modQueue_mdl (s : State) (i : Nat) (f : Queue → Queue) : (s.modQueue i f).mdl = s.mdl := rfl

@[simp] theorem State.modRegion_pending (s : State) (i : Nat) (f : Region → Region) : (s.modRegion i f).pending = s.pending := rfl
@[simp] theorem State.modRegion_free (s : State) (i : Nat) (f : Region → Region) : (s.modRegion i f).free = s.free := rfl
@[simp] theorem State.modRegion_out (s : State) (i : Nat) (f : Region → Region) : (s.modRegion i f).out = s.out := rfl
@[simp] theorem State.modRegion_mem (s : State) (i : Nat) (f : Region → Region) : (s.modRegion i f).mem = s.mem := rfl
@[simp] theorem State.modRegion_undef (s : State) (i : Nat) (f : Region → Region) : (s.modRegion i f).undef = s.undef := rfl
@[simp] theorem State.modRegion_win (s : State) (i : Nat) (f : Region → Region) : (s.modRegion i f).win = s.win := rfl
@[simp] theorem State.modRegion_winHide (s : State) (i : Nat) (f : Region → Region) : (s.modRegion i f).winHide = s.winHide := rfl
@[simp] theorem State.modRegion_latch (s : State) (i : Nat) (f : Region → Region) : (s.modRegion i f).latch = s.latch := rfl
@[simp] theorem State.modRegion_pairLow (s : State) (i : Nat) (f : Region → Region) : (s.modRegion i f).pairLow = s.pairLow := rfl
@[simp] theorem State.modRegion_pkg (s : State) (i : Nat) (f : Region → Region) : (s.modRegion i f).pkg = s.pkg := rfl
@[simp] theorem State.modRegion_frm (s : State) (i : Nat) (f : Region → Region) : (s.modRegion i f).frm = s.frm := rfl
@[simp] theorem State.modRegion_spn (s : State) (i : Nat) (f : Region → Region) : (s.modRegion i f).spn = s.spn := rfl
@[simp] theorem State.modRegion_vec (s : State) (i : Nat) (f : Region → Region) : (s.modRegion i f).vec = s.vec := rfl
@[simp] theorem State.modRegion_hnk (s : State) (i : Nat) (f : Region → Region) : (s.modRegion i f).hnk = s.hnk := rfl
@[simp] theorem State.modRegion_vis (s : State) (i : Nat) (f : Region → Region) : (s.modRegion i f).vis = s.vis := rfl
@[simp] theorem State.modRegion_bob (s : State) (i : Nat) (f : Region → Region) :
    (s.modRegion i f).bob = { s.bob with region := tmod s.bob.region i f } := rfl
@[simp] theorem State.modRegion_hp (s : State) (i : Nat) (f : Region → Region) : (s.modRegion i f).hp = s.hp := rfl
@[simp] theorem State.modRegion_fly (s : State) (i : Nat) (f : Region → Region) : (s.modRegion i f).fly = s.fly := rfl
@[simp] theorem State.modRegion_opt (s : State) (i : Nat) (f : Region → Region) : (s.modRegion i f).opt = s.opt := rfl
@[simp] theorem State.modRegion_fab (s : State) (i : Nat) (f : Region → Region) : (s.modRegion i f).fab = s.fab := rfl
@[simp] theorem State.modRegion_top (s : State) (i : Nat) (f : Region → Region) : (s.modRegion i f).top = s.top := rfl
@[simp] theorem State.modRegion_skn (s : State) (i : Nat) (f : Region → Region) : (s.modRegion i f).skn = s.skn := rfl
@[simp] theorem State.modRegion_pwr (s : State) (i : Nat) (f : Region → Region) : (s.modRegion i f).pwr = s.pwr := rfl
@[simp] theorem State.modRegion_thm (s : State) (i : Nat) (f : Region → Region) : (s.modRegion i f).thm = s.thm := rfl
@[simp] theorem State.modRegion_res (s : State) (i : Nat) (f : Region → Region) : (s.modRegion i f).res = s.res := rfl
@[simp] theorem State.modRegion_sec (s : State) (i : Nat) (f : Region → Region) : (s.modRegion i f).sec = s.sec := rfl
@[simp] theorem State.modRegion_tst (s : State) (i : Nat) (f : Region → Region) : (s.modRegion i f).tst = s.tst := rfl
@[simp] theorem State.modRegion_mdl (s : State) (i : Nat) (f : Region → Region) : (s.modRegion i f).mdl = s.mdl := rfl

@[simp] theorem State.modPage_pending (s : State) (i : Nat) (f : DbPage → DbPage) : (s.modPage i f).pending = s.pending := rfl
@[simp] theorem State.modPage_free (s : State) (i : Nat) (f : DbPage → DbPage) : (s.modPage i f).free = s.free := rfl
@[simp] theorem State.modPage_out (s : State) (i : Nat) (f : DbPage → DbPage) : (s.modPage i f).out = s.out := rfl
@[simp] theorem State.modPage_mem (s : State) (i : Nat) (f : DbPage → DbPage) : (s.modPage i f).mem = s.mem := rfl
@[simp] theorem State.modPage_undef (s : State) (i : Nat) (f : DbPage → DbPage) : (s.modPage i f).undef = s.undef := rfl
@[simp] theorem State.modPage_win (s : State) (i : Nat) (f : DbPage → DbPage) : (s.modPage i f).win = s.win := rfl
@[simp] theorem State.modPage_winHide (s : State) (i : Nat) (f : DbPage → DbPage) : (s.modPage i f).winHide = s.winHide := rfl
@[simp] theorem State.modPage_latch (s : State) (i : Nat) (f : DbPage → DbPage) : (s.modPage i f).latch = s.latch := rfl
@[simp] theorem State.modPage_pairLow (s : State) (i : Nat) (f : DbPage → DbPage) : (s.modPage i f).pairLow = s.pairLow := rfl
@[simp] theorem State.modPage_pkg (s : State) (i : Nat) (f : DbPage → DbPage) : (s.modPage i f).pkg = s.pkg := rfl
@[simp] theorem State.modPage_frm (s : State) (i : Nat) (f : DbPage → DbPage) : (s.modPage i f).frm = s.frm := rfl
@[simp] theorem State.modPage_spn (s : State) (i : Nat) (f : DbPage → DbPage) : (s.modPage i f).spn = s.spn := rfl
@[simp] theorem State.modPage_vec (s : State) (i : Nat) (f : DbPage → DbPage) : (s.modPage i f).vec = s.vec := rfl
@[simp] theorem State.modPage_hnk (s : State) (i : Nat) (f : DbPage → DbPage) : (s.modPage i f).hnk = s.hnk := rfl
@[simp] theorem State.modPage_vis (s : State) (i : Nat) (f : DbPage → DbPage) : (s.modPage i f).vis = s.vis := rfl
@[simp] theorem State.modPage_bob (s : State) (i : Nat) (f : DbPage → DbPage) :
    (s.modPage i f).bob = { s.bob with page := tmod s.bob.page i f } := rfl
@[simp] theorem State.modPage_hp (s : State) (i : Nat) (f : DbPage → DbPage) : (s.modPage i f).hp = s.hp := rfl
@[simp] theorem State.modPage_fly (s : State) (i : Nat) (f : DbPage → DbPage) : (s.modPage i f).fly = s.fly := rfl
@[simp] theorem State.modPage_opt (s : State) (i : Nat) (f : DbPage → DbPage) : (s.modPage i f).opt = s.opt := rfl
@[simp] theorem State.modPage_fab (s : State) (i : Nat) (f : DbPage → DbPage) : (s.modPage i f).fab = s.fab := rfl
@[simp] theorem State.modPage_top (s : State) (i : Nat) (f : DbPage → DbPage) : (s.modPage i f).top = s.top := rfl
@[simp] theorem State.modPage_skn (s : State) (i : Nat) (f : DbPage → DbPage) : (s.modPage i f).skn = s.skn := rfl
@[simp] theorem State.modPage_pwr (s : State) (i : Nat) (f : DbPage → DbPage) : (s.modPage i f).pwr = s.pwr := rfl
@[simp] theorem State.modPage_thm (s : State) (i : Nat) (f : DbPage → DbPage) : (s.modPage i f).thm = s.thm := rfl
@[simp] theorem State.modPage_res (s : State) (i : Nat) (f : DbPage → DbPage) : (s.modPage i f).res = s.res := rfl
@[simp] theorem State.modPage_sec (s : State) (i : Nat) (f : DbPage → DbPage) : (s.modPage i f).sec = s.sec := rfl
@[simp] theorem State.modPage_tst (s : State) (i : Nat) (f : DbPage → DbPage) : (s.modPage i f).tst = s.tst := rfl
@[simp] theorem State.modPage_mdl (s : State) (i : Nat) (f : DbPage → DbPage) : (s.modPage i f).mdl = s.mdl := rfl

@[simp] theorem State.modTag_pending (s : State) (i : Nat) (f : (Option Cmd) → (Option Cmd)) : (s.modTag i f).pending = s.pending := rfl
@[simp] theorem State.modTag_free (s : State) (i : Nat) (f : (Option Cmd) → (Option Cmd)) : (s.modTag i f).free = s.free := rfl
@[simp] theorem State.modTag_out (s : State) (i : Nat) (f : (Option Cmd) → (Option Cmd)) : (s.modTag i f).out = s.out := rfl
@[simp] theorem State.modTag_mem (s : State) (i : Nat) (f : (Option Cmd) → (Option Cmd)) : (s.modTag i f).mem = s.mem := rfl
@[simp] theorem State.modTag_undef (s : State) (i : Nat) (f : (Option Cmd) → (Option Cmd)) : (s.modTag i f).undef = s.undef := rfl
@[simp] theorem State.modTag_win (s : State) (i : Nat) (f : (Option Cmd) → (Option Cmd)) : (s.modTag i f).win = s.win := rfl
@[simp] theorem State.modTag_winHide (s : State) (i : Nat) (f : (Option Cmd) → (Option Cmd)) : (s.modTag i f).winHide = s.winHide := rfl
@[simp] theorem State.modTag_latch (s : State) (i : Nat) (f : (Option Cmd) → (Option Cmd)) : (s.modTag i f).latch = s.latch := rfl
@[simp] theorem State.modTag_pairLow (s : State) (i : Nat) (f : (Option Cmd) → (Option Cmd)) : (s.modTag i f).pairLow = s.pairLow := rfl
@[simp] theorem State.modTag_pkg (s : State) (i : Nat) (f : (Option Cmd) → (Option Cmd)) : (s.modTag i f).pkg = s.pkg := rfl
@[simp] theorem State.modTag_frm (s : State) (i : Nat) (f : (Option Cmd) → (Option Cmd)) : (s.modTag i f).frm = s.frm := rfl
@[simp] theorem State.modTag_spn (s : State) (i : Nat) (f : (Option Cmd) → (Option Cmd)) : (s.modTag i f).spn = s.spn := rfl
@[simp] theorem State.modTag_vec (s : State) (i : Nat) (f : (Option Cmd) → (Option Cmd)) : (s.modTag i f).vec = s.vec := rfl
@[simp] theorem State.modTag_hnk (s : State) (i : Nat) (f : (Option Cmd) → (Option Cmd)) : (s.modTag i f).hnk = s.hnk := rfl
@[simp] theorem State.modTag_vis (s : State) (i : Nat) (f : (Option Cmd) → (Option Cmd)) : (s.modTag i f).vis = s.vis := rfl
@[simp] theorem State.modTag_bob (s : State) (i : Nat) (f : (Option Cmd) → (Option Cmd)) :
    (s.modTag i f).bob = { s.bob with tag := tmod s.bob.tag i f } := rfl
@[simp] theorem State.modTag_hp (s : State) (i : Nat) (f : (Option Cmd) → (Option Cmd)) : (s.modTag i f).hp = s.hp := rfl
@[simp] theorem State.modTag_fly (s : State) (i : Nat) (f : (Option Cmd) → (Option Cmd)) : (s.modTag i f).fly = s.fly := rfl
@[simp] theorem State.modTag_opt (s : State) (i : Nat) (f : (Option Cmd) → (Option Cmd)) : (s.modTag i f).opt = s.opt := rfl
@[simp] theorem State.modTag_fab (s : State) (i : Nat) (f : (Option Cmd) → (Option Cmd)) : (s.modTag i f).fab = s.fab := rfl
@[simp] theorem State.modTag_top (s : State) (i : Nat) (f : (Option Cmd) → (Option Cmd)) : (s.modTag i f).top = s.top := rfl
@[simp] theorem State.modTag_skn (s : State) (i : Nat) (f : (Option Cmd) → (Option Cmd)) : (s.modTag i f).skn = s.skn := rfl
@[simp] theorem State.modTag_pwr (s : State) (i : Nat) (f : (Option Cmd) → (Option Cmd)) : (s.modTag i f).pwr = s.pwr := rfl
@[simp] theorem State.modTag_thm (s : State) (i : Nat) (f : (Option Cmd) → (Option Cmd)) : (s.modTag i f).thm = s.thm := rfl
@[simp] theorem State.modTag_res (s : State) (i : Nat) (f : (Option Cmd) → (Option Cmd)) : (s.modTag i f).res = s.res := rfl
@[simp] theorem State.modTag_sec (s : State) (i : Nat) (f : (Option Cmd) → (Option Cmd)) : (s.modTag i f).sec = s.sec := rfl
@[simp] theorem State.modTag_tst (s : State) (i : Nat) (f : (Option Cmd) → (Option Cmd)) : (s.modTag i f).tst = s.tst := rfl
@[simp] theorem State.modTag_mdl (s : State) (i : Nat) (f : (Option Cmd) → (Option Cmd)) : (s.modTag i f).mdl = s.mdl := rfl

@[simp] theorem State.modMbx_pending (s : State) (i : Nat) (f : Mbx → Mbx) : (s.modMbx i f).pending = s.pending := rfl
@[simp] theorem State.modMbx_free (s : State) (i : Nat) (f : Mbx → Mbx) : (s.modMbx i f).free = s.free := rfl
@[simp] theorem State.modMbx_out (s : State) (i : Nat) (f : Mbx → Mbx) : (s.modMbx i f).out = s.out := rfl
@[simp] theorem State.modMbx_mem (s : State) (i : Nat) (f : Mbx → Mbx) : (s.modMbx i f).mem = s.mem := rfl
@[simp] theorem State.modMbx_undef (s : State) (i : Nat) (f : Mbx → Mbx) : (s.modMbx i f).undef = s.undef := rfl
@[simp] theorem State.modMbx_win (s : State) (i : Nat) (f : Mbx → Mbx) : (s.modMbx i f).win = s.win := rfl
@[simp] theorem State.modMbx_winHide (s : State) (i : Nat) (f : Mbx → Mbx) : (s.modMbx i f).winHide = s.winHide := rfl
@[simp] theorem State.modMbx_latch (s : State) (i : Nat) (f : Mbx → Mbx) : (s.modMbx i f).latch = s.latch := rfl
@[simp] theorem State.modMbx_pairLow (s : State) (i : Nat) (f : Mbx → Mbx) : (s.modMbx i f).pairLow = s.pairLow := rfl
@[simp] theorem State.modMbx_pkg (s : State) (i : Nat) (f : Mbx → Mbx) : (s.modMbx i f).pkg = s.pkg := rfl
@[simp] theorem State.modMbx_frm (s : State) (i : Nat) (f : Mbx → Mbx) : (s.modMbx i f).frm = s.frm := rfl
@[simp] theorem State.modMbx_spn (s : State) (i : Nat) (f : Mbx → Mbx) : (s.modMbx i f).spn = s.spn := rfl
@[simp] theorem State.modMbx_vec (s : State) (i : Nat) (f : Mbx → Mbx) : (s.modMbx i f).vec = s.vec := rfl
@[simp] theorem State.modMbx_hnk (s : State) (i : Nat) (f : Mbx → Mbx) : (s.modMbx i f).hnk = s.hnk := rfl
@[simp] theorem State.modMbx_vis (s : State) (i : Nat) (f : Mbx → Mbx) : (s.modMbx i f).vis = s.vis := rfl
@[simp] theorem State.modMbx_bob (s : State) (i : Nat) (f : Mbx → Mbx) : (s.modMbx i f).bob = s.bob := rfl
@[simp] theorem State.modMbx_hp (s : State) (i : Nat) (f : Mbx → Mbx) : (s.modMbx i f).hp = s.hp := rfl
@[simp] theorem State.modMbx_fly (s : State) (i : Nat) (f : Mbx → Mbx) :
    (s.modMbx i f).fly = { s.fly with mbx := tmod s.fly.mbx i f } := rfl
@[simp] theorem State.modMbx_opt (s : State) (i : Nat) (f : Mbx → Mbx) : (s.modMbx i f).opt = s.opt := rfl
@[simp] theorem State.modMbx_fab (s : State) (i : Nat) (f : Mbx → Mbx) : (s.modMbx i f).fab = s.fab := rfl
@[simp] theorem State.modMbx_top (s : State) (i : Nat) (f : Mbx → Mbx) : (s.modMbx i f).top = s.top := rfl
@[simp] theorem State.modMbx_skn (s : State) (i : Nat) (f : Mbx → Mbx) : (s.modMbx i f).skn = s.skn := rfl
@[simp] theorem State.modMbx_pwr (s : State) (i : Nat) (f : Mbx → Mbx) : (s.modMbx i f).pwr = s.pwr := rfl
@[simp] theorem State.modMbx_thm (s : State) (i : Nat) (f : Mbx → Mbx) : (s.modMbx i f).thm = s.thm := rfl
@[simp] theorem State.modMbx_res (s : State) (i : Nat) (f : Mbx → Mbx) : (s.modMbx i f).res = s.res := rfl
@[simp] theorem State.modMbx_sec (s : State) (i : Nat) (f : Mbx → Mbx) : (s.modMbx i f).sec = s.sec := rfl
@[simp] theorem State.modMbx_tst (s : State) (i : Nat) (f : Mbx → Mbx) : (s.modMbx i f).tst = s.tst := rfl
@[simp] theorem State.modMbx_mdl (s : State) (i : Nat) (f : Mbx → Mbx) : (s.modMbx i f).mdl = s.mdl := rfl

@[simp] theorem State.modStrand_pending (s : State) (i : Nat) (f : Strand → Strand) : (s.modStrand i f).pending = s.pending := rfl
@[simp] theorem State.modStrand_free (s : State) (i : Nat) (f : Strand → Strand) : (s.modStrand i f).free = s.free := rfl
@[simp] theorem State.modStrand_out (s : State) (i : Nat) (f : Strand → Strand) : (s.modStrand i f).out = s.out := rfl
@[simp] theorem State.modStrand_mem (s : State) (i : Nat) (f : Strand → Strand) : (s.modStrand i f).mem = s.mem := rfl
@[simp] theorem State.modStrand_undef (s : State) (i : Nat) (f : Strand → Strand) : (s.modStrand i f).undef = s.undef := rfl
@[simp] theorem State.modStrand_win (s : State) (i : Nat) (f : Strand → Strand) : (s.modStrand i f).win = s.win := rfl
@[simp] theorem State.modStrand_winHide (s : State) (i : Nat) (f : Strand → Strand) : (s.modStrand i f).winHide = s.winHide := rfl
@[simp] theorem State.modStrand_latch (s : State) (i : Nat) (f : Strand → Strand) : (s.modStrand i f).latch = s.latch := rfl
@[simp] theorem State.modStrand_pairLow (s : State) (i : Nat) (f : Strand → Strand) : (s.modStrand i f).pairLow = s.pairLow := rfl
@[simp] theorem State.modStrand_pkg (s : State) (i : Nat) (f : Strand → Strand) : (s.modStrand i f).pkg = s.pkg := rfl
@[simp] theorem State.modStrand_frm (s : State) (i : Nat) (f : Strand → Strand) : (s.modStrand i f).frm = s.frm := rfl
@[simp] theorem State.modStrand_spn (s : State) (i : Nat) (f : Strand → Strand) : (s.modStrand i f).spn = s.spn := rfl
@[simp] theorem State.modStrand_vec (s : State) (i : Nat) (f : Strand → Strand) : (s.modStrand i f).vec = s.vec := rfl
@[simp] theorem State.modStrand_hnk (s : State) (i : Nat) (f : Strand → Strand) : (s.modStrand i f).hnk = s.hnk := rfl
@[simp] theorem State.modStrand_vis (s : State) (i : Nat) (f : Strand → Strand) : (s.modStrand i f).vis = s.vis := rfl
@[simp] theorem State.modStrand_bob (s : State) (i : Nat) (f : Strand → Strand) : (s.modStrand i f).bob = s.bob := rfl
@[simp] theorem State.modStrand_hp (s : State) (i : Nat) (f : Strand → Strand) : (s.modStrand i f).hp = s.hp := rfl
@[simp] theorem State.modStrand_fly (s : State) (i : Nat) (f : Strand → Strand) : (s.modStrand i f).fly = s.fly := rfl
@[simp] theorem State.modStrand_opt (s : State) (i : Nat) (f : Strand → Strand) :
    (s.modStrand i f).opt = { s.opt with strand := tmod s.opt.strand i f } := rfl
@[simp] theorem State.modStrand_fab (s : State) (i : Nat) (f : Strand → Strand) : (s.modStrand i f).fab = s.fab := rfl
@[simp] theorem State.modStrand_top (s : State) (i : Nat) (f : Strand → Strand) : (s.modStrand i f).top = s.top := rfl
@[simp] theorem State.modStrand_skn (s : State) (i : Nat) (f : Strand → Strand) : (s.modStrand i f).skn = s.skn := rfl
@[simp] theorem State.modStrand_pwr (s : State) (i : Nat) (f : Strand → Strand) : (s.modStrand i f).pwr = s.pwr := rfl
@[simp] theorem State.modStrand_thm (s : State) (i : Nat) (f : Strand → Strand) : (s.modStrand i f).thm = s.thm := rfl
@[simp] theorem State.modStrand_res (s : State) (i : Nat) (f : Strand → Strand) : (s.modStrand i f).res = s.res := rfl
@[simp] theorem State.modStrand_sec (s : State) (i : Nat) (f : Strand → Strand) : (s.modStrand i f).sec = s.sec := rfl
@[simp] theorem State.modStrand_tst (s : State) (i : Nat) (f : Strand → Strand) : (s.modStrand i f).tst = s.tst := rfl
@[simp] theorem State.modStrand_mdl (s : State) (i : Nat) (f : Strand → Strand) : (s.modStrand i f).mdl = s.mdl := rfl

@[simp] theorem State.modBank_pending (s : State) (i : Nat) (f : Bank → Bank) : (s.modBank i f).pending = s.pending := rfl
@[simp] theorem State.modBank_free (s : State) (i : Nat) (f : Bank → Bank) : (s.modBank i f).free = s.free := rfl
@[simp] theorem State.modBank_out (s : State) (i : Nat) (f : Bank → Bank) : (s.modBank i f).out = s.out := rfl
@[simp] theorem State.modBank_mem (s : State) (i : Nat) (f : Bank → Bank) : (s.modBank i f).mem = s.mem := rfl
@[simp] theorem State.modBank_undef (s : State) (i : Nat) (f : Bank → Bank) : (s.modBank i f).undef = s.undef := rfl
@[simp] theorem State.modBank_win (s : State) (i : Nat) (f : Bank → Bank) : (s.modBank i f).win = s.win := rfl
@[simp] theorem State.modBank_winHide (s : State) (i : Nat) (f : Bank → Bank) : (s.modBank i f).winHide = s.winHide := rfl
@[simp] theorem State.modBank_latch (s : State) (i : Nat) (f : Bank → Bank) : (s.modBank i f).latch = s.latch := rfl
@[simp] theorem State.modBank_pairLow (s : State) (i : Nat) (f : Bank → Bank) : (s.modBank i f).pairLow = s.pairLow := rfl
@[simp] theorem State.modBank_pkg (s : State) (i : Nat) (f : Bank → Bank) : (s.modBank i f).pkg = s.pkg := rfl
@[simp] theorem State.modBank_frm (s : State) (i : Nat) (f : Bank → Bank) : (s.modBank i f).frm = s.frm := rfl
@[simp] theorem State.modBank_spn (s : State) (i : Nat) (f : Bank → Bank) : (s.modBank i f).spn = s.spn := rfl
@[simp] theorem State.modBank_vec (s : State) (i : Nat) (f : Bank → Bank) : (s.modBank i f).vec = s.vec := rfl
@[simp] theorem State.modBank_hnk (s : State) (i : Nat) (f : Bank → Bank) : (s.modBank i f).hnk = s.hnk := rfl
@[simp] theorem State.modBank_vis (s : State) (i : Nat) (f : Bank → Bank) : (s.modBank i f).vis = s.vis := rfl
@[simp] theorem State.modBank_bob (s : State) (i : Nat) (f : Bank → Bank) : (s.modBank i f).bob = s.bob := rfl
@[simp] theorem State.modBank_hp (s : State) (i : Nat) (f : Bank → Bank) : (s.modBank i f).hp = s.hp := rfl
@[simp] theorem State.modBank_fly (s : State) (i : Nat) (f : Bank → Bank) : (s.modBank i f).fly = s.fly := rfl
@[simp] theorem State.modBank_opt (s : State) (i : Nat) (f : Bank → Bank) :
    (s.modBank i f).opt = { s.opt with bank := vmod s.opt.bank i f } := rfl
@[simp] theorem State.modBank_fab (s : State) (i : Nat) (f : Bank → Bank) : (s.modBank i f).fab = s.fab := rfl
@[simp] theorem State.modBank_top (s : State) (i : Nat) (f : Bank → Bank) : (s.modBank i f).top = s.top := rfl
@[simp] theorem State.modBank_skn (s : State) (i : Nat) (f : Bank → Bank) : (s.modBank i f).skn = s.skn := rfl
@[simp] theorem State.modBank_pwr (s : State) (i : Nat) (f : Bank → Bank) : (s.modBank i f).pwr = s.pwr := rfl
@[simp] theorem State.modBank_thm (s : State) (i : Nat) (f : Bank → Bank) : (s.modBank i f).thm = s.thm := rfl
@[simp] theorem State.modBank_res (s : State) (i : Nat) (f : Bank → Bank) : (s.modBank i f).res = s.res := rfl
@[simp] theorem State.modBank_sec (s : State) (i : Nat) (f : Bank → Bank) : (s.modBank i f).sec = s.sec := rfl
@[simp] theorem State.modBank_tst (s : State) (i : Nat) (f : Bank → Bank) : (s.modBank i f).tst = s.tst := rfl
@[simp] theorem State.modBank_mdl (s : State) (i : Nat) (f : Bank → Bank) : (s.modBank i f).mdl = s.mdl := rfl

@[simp] theorem State.modLink_pending (s : State) (i : Nat) (f : Link → Link) : (s.modLink i f).pending = s.pending := rfl
@[simp] theorem State.modLink_free (s : State) (i : Nat) (f : Link → Link) : (s.modLink i f).free = s.free := rfl
@[simp] theorem State.modLink_out (s : State) (i : Nat) (f : Link → Link) : (s.modLink i f).out = s.out := rfl
@[simp] theorem State.modLink_mem (s : State) (i : Nat) (f : Link → Link) : (s.modLink i f).mem = s.mem := rfl
@[simp] theorem State.modLink_undef (s : State) (i : Nat) (f : Link → Link) : (s.modLink i f).undef = s.undef := rfl
@[simp] theorem State.modLink_win (s : State) (i : Nat) (f : Link → Link) : (s.modLink i f).win = s.win := rfl
@[simp] theorem State.modLink_winHide (s : State) (i : Nat) (f : Link → Link) : (s.modLink i f).winHide = s.winHide := rfl
@[simp] theorem State.modLink_latch (s : State) (i : Nat) (f : Link → Link) : (s.modLink i f).latch = s.latch := rfl
@[simp] theorem State.modLink_pairLow (s : State) (i : Nat) (f : Link → Link) : (s.modLink i f).pairLow = s.pairLow := rfl
@[simp] theorem State.modLink_pkg (s : State) (i : Nat) (f : Link → Link) : (s.modLink i f).pkg = s.pkg := rfl
@[simp] theorem State.modLink_frm (s : State) (i : Nat) (f : Link → Link) : (s.modLink i f).frm = s.frm := rfl
@[simp] theorem State.modLink_spn (s : State) (i : Nat) (f : Link → Link) : (s.modLink i f).spn = s.spn := rfl
@[simp] theorem State.modLink_vec (s : State) (i : Nat) (f : Link → Link) : (s.modLink i f).vec = s.vec := rfl
@[simp] theorem State.modLink_hnk (s : State) (i : Nat) (f : Link → Link) : (s.modLink i f).hnk = s.hnk := rfl
@[simp] theorem State.modLink_vis (s : State) (i : Nat) (f : Link → Link) : (s.modLink i f).vis = s.vis := rfl
@[simp] theorem State.modLink_bob (s : State) (i : Nat) (f : Link → Link) : (s.modLink i f).bob = s.bob := rfl
@[simp] theorem State.modLink_hp (s : State) (i : Nat) (f : Link → Link) : (s.modLink i f).hp = s.hp := rfl
@[simp] theorem State.modLink_fly (s : State) (i : Nat) (f : Link → Link) : (s.modLink i f).fly = s.fly := rfl
@[simp] theorem State.modLink_opt (s : State) (i : Nat) (f : Link → Link) : (s.modLink i f).opt = s.opt := rfl
@[simp] theorem State.modLink_fab (s : State) (i : Nat) (f : Link → Link) :
    (s.modLink i f).fab = { s.fab with link := tmod s.fab.link i f } := rfl
@[simp] theorem State.modLink_top (s : State) (i : Nat) (f : Link → Link) : (s.modLink i f).top = s.top := rfl
@[simp] theorem State.modLink_skn (s : State) (i : Nat) (f : Link → Link) : (s.modLink i f).skn = s.skn := rfl
@[simp] theorem State.modLink_pwr (s : State) (i : Nat) (f : Link → Link) : (s.modLink i f).pwr = s.pwr := rfl
@[simp] theorem State.modLink_thm (s : State) (i : Nat) (f : Link → Link) : (s.modLink i f).thm = s.thm := rfl
@[simp] theorem State.modLink_res (s : State) (i : Nat) (f : Link → Link) : (s.modLink i f).res = s.res := rfl
@[simp] theorem State.modLink_sec (s : State) (i : Nat) (f : Link → Link) : (s.modLink i f).sec = s.sec := rfl
@[simp] theorem State.modLink_tst (s : State) (i : Nat) (f : Link → Link) : (s.modLink i f).tst = s.tst := rfl
@[simp] theorem State.modLink_mdl (s : State) (i : Nat) (f : Link → Link) : (s.modLink i f).mdl = s.mdl := rfl

@[simp] theorem State.modDisc_pending (s : State) (i : Nat) (f : Disc → Disc) : (s.modDisc i f).pending = s.pending := rfl
@[simp] theorem State.modDisc_free (s : State) (i : Nat) (f : Disc → Disc) : (s.modDisc i f).free = s.free := rfl
@[simp] theorem State.modDisc_out (s : State) (i : Nat) (f : Disc → Disc) : (s.modDisc i f).out = s.out := rfl
@[simp] theorem State.modDisc_mem (s : State) (i : Nat) (f : Disc → Disc) : (s.modDisc i f).mem = s.mem := rfl
@[simp] theorem State.modDisc_undef (s : State) (i : Nat) (f : Disc → Disc) : (s.modDisc i f).undef = s.undef := rfl
@[simp] theorem State.modDisc_win (s : State) (i : Nat) (f : Disc → Disc) : (s.modDisc i f).win = s.win := rfl
@[simp] theorem State.modDisc_winHide (s : State) (i : Nat) (f : Disc → Disc) : (s.modDisc i f).winHide = s.winHide := rfl
@[simp] theorem State.modDisc_latch (s : State) (i : Nat) (f : Disc → Disc) : (s.modDisc i f).latch = s.latch := rfl
@[simp] theorem State.modDisc_pairLow (s : State) (i : Nat) (f : Disc → Disc) : (s.modDisc i f).pairLow = s.pairLow := rfl
@[simp] theorem State.modDisc_pkg (s : State) (i : Nat) (f : Disc → Disc) : (s.modDisc i f).pkg = s.pkg := rfl
@[simp] theorem State.modDisc_frm (s : State) (i : Nat) (f : Disc → Disc) : (s.modDisc i f).frm = s.frm := rfl
@[simp] theorem State.modDisc_spn (s : State) (i : Nat) (f : Disc → Disc) : (s.modDisc i f).spn = s.spn := rfl
@[simp] theorem State.modDisc_vec (s : State) (i : Nat) (f : Disc → Disc) : (s.modDisc i f).vec = s.vec := rfl
@[simp] theorem State.modDisc_hnk (s : State) (i : Nat) (f : Disc → Disc) : (s.modDisc i f).hnk = s.hnk := rfl
@[simp] theorem State.modDisc_vis (s : State) (i : Nat) (f : Disc → Disc) : (s.modDisc i f).vis = s.vis := rfl
@[simp] theorem State.modDisc_bob (s : State) (i : Nat) (f : Disc → Disc) : (s.modDisc i f).bob = s.bob := rfl
@[simp] theorem State.modDisc_hp (s : State) (i : Nat) (f : Disc → Disc) : (s.modDisc i f).hp = s.hp := rfl
@[simp] theorem State.modDisc_fly (s : State) (i : Nat) (f : Disc → Disc) : (s.modDisc i f).fly = s.fly := rfl
@[simp] theorem State.modDisc_opt (s : State) (i : Nat) (f : Disc → Disc) : (s.modDisc i f).opt = s.opt := rfl
@[simp] theorem State.modDisc_fab (s : State) (i : Nat) (f : Disc → Disc) : (s.modDisc i f).fab = s.fab := rfl
@[simp] theorem State.modDisc_top (s : State) (i : Nat) (f : Disc → Disc) :
    (s.modDisc i f).top = { s.top with disc := tmod s.top.disc i f } := rfl
@[simp] theorem State.modDisc_skn (s : State) (i : Nat) (f : Disc → Disc) : (s.modDisc i f).skn = s.skn := rfl
@[simp] theorem State.modDisc_pwr (s : State) (i : Nat) (f : Disc → Disc) : (s.modDisc i f).pwr = s.pwr := rfl
@[simp] theorem State.modDisc_thm (s : State) (i : Nat) (f : Disc → Disc) : (s.modDisc i f).thm = s.thm := rfl
@[simp] theorem State.modDisc_res (s : State) (i : Nat) (f : Disc → Disc) : (s.modDisc i f).res = s.res := rfl
@[simp] theorem State.modDisc_sec (s : State) (i : Nat) (f : Disc → Disc) : (s.modDisc i f).sec = s.sec := rfl
@[simp] theorem State.modDisc_tst (s : State) (i : Nat) (f : Disc → Disc) : (s.modDisc i f).tst = s.tst := rfl
@[simp] theorem State.modDisc_mdl (s : State) (i : Nat) (f : Disc → Disc) : (s.modDisc i f).mdl = s.mdl := rfl

@[simp] theorem State.modCtx_pending (s : State) (i : Nat) (f : Ctx → Ctx) : (s.modCtx i f).pending = s.pending := rfl
@[simp] theorem State.modCtx_free (s : State) (i : Nat) (f : Ctx → Ctx) : (s.modCtx i f).free = s.free := rfl
@[simp] theorem State.modCtx_out (s : State) (i : Nat) (f : Ctx → Ctx) : (s.modCtx i f).out = s.out := rfl
@[simp] theorem State.modCtx_mem (s : State) (i : Nat) (f : Ctx → Ctx) : (s.modCtx i f).mem = s.mem := rfl
@[simp] theorem State.modCtx_undef (s : State) (i : Nat) (f : Ctx → Ctx) : (s.modCtx i f).undef = s.undef := rfl
@[simp] theorem State.modCtx_win (s : State) (i : Nat) (f : Ctx → Ctx) : (s.modCtx i f).win = s.win := rfl
@[simp] theorem State.modCtx_winHide (s : State) (i : Nat) (f : Ctx → Ctx) : (s.modCtx i f).winHide = s.winHide := rfl
@[simp] theorem State.modCtx_latch (s : State) (i : Nat) (f : Ctx → Ctx) : (s.modCtx i f).latch = s.latch := rfl
@[simp] theorem State.modCtx_pairLow (s : State) (i : Nat) (f : Ctx → Ctx) : (s.modCtx i f).pairLow = s.pairLow := rfl
@[simp] theorem State.modCtx_pkg (s : State) (i : Nat) (f : Ctx → Ctx) : (s.modCtx i f).pkg = s.pkg := rfl
@[simp] theorem State.modCtx_frm (s : State) (i : Nat) (f : Ctx → Ctx) : (s.modCtx i f).frm = s.frm := rfl
@[simp] theorem State.modCtx_spn (s : State) (i : Nat) (f : Ctx → Ctx) : (s.modCtx i f).spn = s.spn := rfl
@[simp] theorem State.modCtx_vec (s : State) (i : Nat) (f : Ctx → Ctx) : (s.modCtx i f).vec = s.vec := rfl
@[simp] theorem State.modCtx_hnk (s : State) (i : Nat) (f : Ctx → Ctx) : (s.modCtx i f).hnk = s.hnk := rfl
@[simp] theorem State.modCtx_vis (s : State) (i : Nat) (f : Ctx → Ctx) : (s.modCtx i f).vis = s.vis := rfl
@[simp] theorem State.modCtx_bob (s : State) (i : Nat) (f : Ctx → Ctx) : (s.modCtx i f).bob = s.bob := rfl
@[simp] theorem State.modCtx_hp (s : State) (i : Nat) (f : Ctx → Ctx) : (s.modCtx i f).hp = s.hp := rfl
@[simp] theorem State.modCtx_fly (s : State) (i : Nat) (f : Ctx → Ctx) : (s.modCtx i f).fly = s.fly := rfl
@[simp] theorem State.modCtx_opt (s : State) (i : Nat) (f : Ctx → Ctx) : (s.modCtx i f).opt = s.opt := rfl
@[simp] theorem State.modCtx_fab (s : State) (i : Nat) (f : Ctx → Ctx) : (s.modCtx i f).fab = s.fab := rfl
@[simp] theorem State.modCtx_top (s : State) (i : Nat) (f : Ctx → Ctx) : (s.modCtx i f).top = s.top := rfl
@[simp] theorem State.modCtx_skn (s : State) (i : Nat) (f : Ctx → Ctx) :
    (s.modCtx i f).skn = { s.skn with ctx := tmod s.skn.ctx i f } := rfl
@[simp] theorem State.modCtx_pwr (s : State) (i : Nat) (f : Ctx → Ctx) : (s.modCtx i f).pwr = s.pwr := rfl
@[simp] theorem State.modCtx_thm (s : State) (i : Nat) (f : Ctx → Ctx) : (s.modCtx i f).thm = s.thm := rfl
@[simp] theorem State.modCtx_res (s : State) (i : Nat) (f : Ctx → Ctx) : (s.modCtx i f).res = s.res := rfl
@[simp] theorem State.modCtx_sec (s : State) (i : Nat) (f : Ctx → Ctx) : (s.modCtx i f).sec = s.sec := rfl
@[simp] theorem State.modCtx_tst (s : State) (i : Nat) (f : Ctx → Ctx) : (s.modCtx i f).tst = s.tst := rfl
@[simp] theorem State.modCtx_mdl (s : State) (i : Nat) (f : Ctx → Ctx) : (s.modCtx i f).mdl = s.mdl := rfl

@[simp] theorem State.modPwrDie_pending (s : State) (i : Nat) (f : PwrDie → PwrDie) : (s.modPwrDie i f).pending = s.pending := rfl
@[simp] theorem State.modPwrDie_free (s : State) (i : Nat) (f : PwrDie → PwrDie) : (s.modPwrDie i f).free = s.free := rfl
@[simp] theorem State.modPwrDie_out (s : State) (i : Nat) (f : PwrDie → PwrDie) : (s.modPwrDie i f).out = s.out := rfl
@[simp] theorem State.modPwrDie_mem (s : State) (i : Nat) (f : PwrDie → PwrDie) : (s.modPwrDie i f).mem = s.mem := rfl
@[simp] theorem State.modPwrDie_undef (s : State) (i : Nat) (f : PwrDie → PwrDie) : (s.modPwrDie i f).undef = s.undef := rfl
@[simp] theorem State.modPwrDie_win (s : State) (i : Nat) (f : PwrDie → PwrDie) : (s.modPwrDie i f).win = s.win := rfl
@[simp] theorem State.modPwrDie_winHide (s : State) (i : Nat) (f : PwrDie → PwrDie) : (s.modPwrDie i f).winHide = s.winHide := rfl
@[simp] theorem State.modPwrDie_latch (s : State) (i : Nat) (f : PwrDie → PwrDie) : (s.modPwrDie i f).latch = s.latch := rfl
@[simp] theorem State.modPwrDie_pairLow (s : State) (i : Nat) (f : PwrDie → PwrDie) : (s.modPwrDie i f).pairLow = s.pairLow := rfl
@[simp] theorem State.modPwrDie_pkg (s : State) (i : Nat) (f : PwrDie → PwrDie) : (s.modPwrDie i f).pkg = s.pkg := rfl
@[simp] theorem State.modPwrDie_frm (s : State) (i : Nat) (f : PwrDie → PwrDie) : (s.modPwrDie i f).frm = s.frm := rfl
@[simp] theorem State.modPwrDie_spn (s : State) (i : Nat) (f : PwrDie → PwrDie) : (s.modPwrDie i f).spn = s.spn := rfl
@[simp] theorem State.modPwrDie_vec (s : State) (i : Nat) (f : PwrDie → PwrDie) : (s.modPwrDie i f).vec = s.vec := rfl
@[simp] theorem State.modPwrDie_hnk (s : State) (i : Nat) (f : PwrDie → PwrDie) : (s.modPwrDie i f).hnk = s.hnk := rfl
@[simp] theorem State.modPwrDie_vis (s : State) (i : Nat) (f : PwrDie → PwrDie) : (s.modPwrDie i f).vis = s.vis := rfl
@[simp] theorem State.modPwrDie_bob (s : State) (i : Nat) (f : PwrDie → PwrDie) : (s.modPwrDie i f).bob = s.bob := rfl
@[simp] theorem State.modPwrDie_hp (s : State) (i : Nat) (f : PwrDie → PwrDie) : (s.modPwrDie i f).hp = s.hp := rfl
@[simp] theorem State.modPwrDie_fly (s : State) (i : Nat) (f : PwrDie → PwrDie) : (s.modPwrDie i f).fly = s.fly := rfl
@[simp] theorem State.modPwrDie_opt (s : State) (i : Nat) (f : PwrDie → PwrDie) : (s.modPwrDie i f).opt = s.opt := rfl
@[simp] theorem State.modPwrDie_fab (s : State) (i : Nat) (f : PwrDie → PwrDie) : (s.modPwrDie i f).fab = s.fab := rfl
@[simp] theorem State.modPwrDie_top (s : State) (i : Nat) (f : PwrDie → PwrDie) : (s.modPwrDie i f).top = s.top := rfl
@[simp] theorem State.modPwrDie_skn (s : State) (i : Nat) (f : PwrDie → PwrDie) : (s.modPwrDie i f).skn = s.skn := rfl
@[simp] theorem State.modPwrDie_pwr (s : State) (i : Nat) (f : PwrDie → PwrDie) :
    (s.modPwrDie i f).pwr = { s.pwr with die := vmod s.pwr.die i f } := rfl
@[simp] theorem State.modPwrDie_thm (s : State) (i : Nat) (f : PwrDie → PwrDie) : (s.modPwrDie i f).thm = s.thm := rfl
@[simp] theorem State.modPwrDie_res (s : State) (i : Nat) (f : PwrDie → PwrDie) : (s.modPwrDie i f).res = s.res := rfl
@[simp] theorem State.modPwrDie_sec (s : State) (i : Nat) (f : PwrDie → PwrDie) : (s.modPwrDie i f).sec = s.sec := rfl
@[simp] theorem State.modPwrDie_tst (s : State) (i : Nat) (f : PwrDie → PwrDie) : (s.modPwrDie i f).tst = s.tst := rfl
@[simp] theorem State.modPwrDie_mdl (s : State) (i : Nat) (f : PwrDie → PwrDie) : (s.modPwrDie i f).mdl = s.mdl := rfl

@[simp] theorem State.modThmDie_pending (s : State) (i : Nat) (f : ThmDie → ThmDie) : (s.modThmDie i f).pending = s.pending := rfl
@[simp] theorem State.modThmDie_free (s : State) (i : Nat) (f : ThmDie → ThmDie) : (s.modThmDie i f).free = s.free := rfl
@[simp] theorem State.modThmDie_out (s : State) (i : Nat) (f : ThmDie → ThmDie) : (s.modThmDie i f).out = s.out := rfl
@[simp] theorem State.modThmDie_mem (s : State) (i : Nat) (f : ThmDie → ThmDie) : (s.modThmDie i f).mem = s.mem := rfl
@[simp] theorem State.modThmDie_undef (s : State) (i : Nat) (f : ThmDie → ThmDie) : (s.modThmDie i f).undef = s.undef := rfl
@[simp] theorem State.modThmDie_win (s : State) (i : Nat) (f : ThmDie → ThmDie) : (s.modThmDie i f).win = s.win := rfl
@[simp] theorem State.modThmDie_winHide (s : State) (i : Nat) (f : ThmDie → ThmDie) : (s.modThmDie i f).winHide = s.winHide := rfl
@[simp] theorem State.modThmDie_latch (s : State) (i : Nat) (f : ThmDie → ThmDie) : (s.modThmDie i f).latch = s.latch := rfl
@[simp] theorem State.modThmDie_pairLow (s : State) (i : Nat) (f : ThmDie → ThmDie) : (s.modThmDie i f).pairLow = s.pairLow := rfl
@[simp] theorem State.modThmDie_pkg (s : State) (i : Nat) (f : ThmDie → ThmDie) : (s.modThmDie i f).pkg = s.pkg := rfl
@[simp] theorem State.modThmDie_frm (s : State) (i : Nat) (f : ThmDie → ThmDie) : (s.modThmDie i f).frm = s.frm := rfl
@[simp] theorem State.modThmDie_spn (s : State) (i : Nat) (f : ThmDie → ThmDie) : (s.modThmDie i f).spn = s.spn := rfl
@[simp] theorem State.modThmDie_vec (s : State) (i : Nat) (f : ThmDie → ThmDie) : (s.modThmDie i f).vec = s.vec := rfl
@[simp] theorem State.modThmDie_hnk (s : State) (i : Nat) (f : ThmDie → ThmDie) : (s.modThmDie i f).hnk = s.hnk := rfl
@[simp] theorem State.modThmDie_vis (s : State) (i : Nat) (f : ThmDie → ThmDie) : (s.modThmDie i f).vis = s.vis := rfl
@[simp] theorem State.modThmDie_bob (s : State) (i : Nat) (f : ThmDie → ThmDie) : (s.modThmDie i f).bob = s.bob := rfl
@[simp] theorem State.modThmDie_hp (s : State) (i : Nat) (f : ThmDie → ThmDie) : (s.modThmDie i f).hp = s.hp := rfl
@[simp] theorem State.modThmDie_fly (s : State) (i : Nat) (f : ThmDie → ThmDie) : (s.modThmDie i f).fly = s.fly := rfl
@[simp] theorem State.modThmDie_opt (s : State) (i : Nat) (f : ThmDie → ThmDie) : (s.modThmDie i f).opt = s.opt := rfl
@[simp] theorem State.modThmDie_fab (s : State) (i : Nat) (f : ThmDie → ThmDie) : (s.modThmDie i f).fab = s.fab := rfl
@[simp] theorem State.modThmDie_top (s : State) (i : Nat) (f : ThmDie → ThmDie) : (s.modThmDie i f).top = s.top := rfl
@[simp] theorem State.modThmDie_skn (s : State) (i : Nat) (f : ThmDie → ThmDie) : (s.modThmDie i f).skn = s.skn := rfl
@[simp] theorem State.modThmDie_pwr (s : State) (i : Nat) (f : ThmDie → ThmDie) : (s.modThmDie i f).pwr = s.pwr := rfl
@[simp] theorem State.modThmDie_thm (s : State) (i : Nat) (f : ThmDie → ThmDie) :
    (s.modThmDie i f).thm = { s.thm with die := vmod s.thm.die i f } := rfl
@[simp] theorem State.modThmDie_res (s : State) (i : Nat) (f : ThmDie → ThmDie) : (s.modThmDie i f).res = s.res := rfl
@[simp] theorem State.modThmDie_sec (s : State) (i : Nat) (f : ThmDie → ThmDie) : (s.modThmDie i f).sec = s.sec := rfl
@[simp] theorem State.modThmDie_tst (s : State) (i : Nat) (f : ThmDie → ThmDie) : (s.modThmDie i f).tst = s.tst := rfl
@[simp] theorem State.modThmDie_mdl (s : State) (i : Nat) (f : ThmDie → ThmDie) : (s.modThmDie i f).mdl = s.mdl := rfl

@[simp] theorem State.modOp_pending (s : State) (i : Nat) (f : OpState → OpState) : (s.modOp i f).pending = s.pending := rfl
@[simp] theorem State.modOp_free (s : State) (i : Nat) (f : OpState → OpState) : (s.modOp i f).free = s.free := rfl
@[simp] theorem State.modOp_out (s : State) (i : Nat) (f : OpState → OpState) : (s.modOp i f).out = s.out := rfl
@[simp] theorem State.modOp_mem (s : State) (i : Nat) (f : OpState → OpState) : (s.modOp i f).mem = s.mem := rfl
@[simp] theorem State.modOp_undef (s : State) (i : Nat) (f : OpState → OpState) : (s.modOp i f).undef = s.undef := rfl
@[simp] theorem State.modOp_win (s : State) (i : Nat) (f : OpState → OpState) : (s.modOp i f).win = s.win := rfl
@[simp] theorem State.modOp_winHide (s : State) (i : Nat) (f : OpState → OpState) : (s.modOp i f).winHide = s.winHide := rfl
@[simp] theorem State.modOp_latch (s : State) (i : Nat) (f : OpState → OpState) : (s.modOp i f).latch = s.latch := rfl
@[simp] theorem State.modOp_pairLow (s : State) (i : Nat) (f : OpState → OpState) : (s.modOp i f).pairLow = s.pairLow := rfl
@[simp] theorem State.modOp_pkg (s : State) (i : Nat) (f : OpState → OpState) :
    (s.modOp i f).pkg = { s.pkg with op := vmod s.pkg.op i f } := rfl
@[simp] theorem State.modOp_frm (s : State) (i : Nat) (f : OpState → OpState) : (s.modOp i f).frm = s.frm := rfl
@[simp] theorem State.modOp_spn (s : State) (i : Nat) (f : OpState → OpState) : (s.modOp i f).spn = s.spn := rfl
@[simp] theorem State.modOp_vec (s : State) (i : Nat) (f : OpState → OpState) : (s.modOp i f).vec = s.vec := rfl
@[simp] theorem State.modOp_hnk (s : State) (i : Nat) (f : OpState → OpState) : (s.modOp i f).hnk = s.hnk := rfl
@[simp] theorem State.modOp_vis (s : State) (i : Nat) (f : OpState → OpState) : (s.modOp i f).vis = s.vis := rfl
@[simp] theorem State.modOp_bob (s : State) (i : Nat) (f : OpState → OpState) : (s.modOp i f).bob = s.bob := rfl
@[simp] theorem State.modOp_hp (s : State) (i : Nat) (f : OpState → OpState) : (s.modOp i f).hp = s.hp := rfl
@[simp] theorem State.modOp_fly (s : State) (i : Nat) (f : OpState → OpState) : (s.modOp i f).fly = s.fly := rfl
@[simp] theorem State.modOp_opt (s : State) (i : Nat) (f : OpState → OpState) : (s.modOp i f).opt = s.opt := rfl
@[simp] theorem State.modOp_fab (s : State) (i : Nat) (f : OpState → OpState) : (s.modOp i f).fab = s.fab := rfl
@[simp] theorem State.modOp_top (s : State) (i : Nat) (f : OpState → OpState) : (s.modOp i f).top = s.top := rfl
@[simp] theorem State.modOp_skn (s : State) (i : Nat) (f : OpState → OpState) : (s.modOp i f).skn = s.skn := rfl
@[simp] theorem State.modOp_pwr (s : State) (i : Nat) (f : OpState → OpState) : (s.modOp i f).pwr = s.pwr := rfl
@[simp] theorem State.modOp_thm (s : State) (i : Nat) (f : OpState → OpState) : (s.modOp i f).thm = s.thm := rfl
@[simp] theorem State.modOp_res (s : State) (i : Nat) (f : OpState → OpState) : (s.modOp i f).res = s.res := rfl
@[simp] theorem State.modOp_sec (s : State) (i : Nat) (f : OpState → OpState) : (s.modOp i f).sec = s.sec := rfl
@[simp] theorem State.modOp_tst (s : State) (i : Nat) (f : OpState → OpState) : (s.modOp i f).tst = s.tst := rfl
@[simp] theorem State.modOp_mdl (s : State) (i : Nat) (f : OpState → OpState) : (s.modOp i f).mdl = s.mdl := rfl

@[simp] theorem State.modD2d_pending (s : State) (i : Nat) (f : D2dLink → D2dLink) : (s.modD2d i f).pending = s.pending := rfl
@[simp] theorem State.modD2d_free (s : State) (i : Nat) (f : D2dLink → D2dLink) : (s.modD2d i f).free = s.free := rfl
@[simp] theorem State.modD2d_out (s : State) (i : Nat) (f : D2dLink → D2dLink) : (s.modD2d i f).out = s.out := rfl
@[simp] theorem State.modD2d_mem (s : State) (i : Nat) (f : D2dLink → D2dLink) : (s.modD2d i f).mem = s.mem := rfl
@[simp] theorem State.modD2d_undef (s : State) (i : Nat) (f : D2dLink → D2dLink) : (s.modD2d i f).undef = s.undef := rfl
@[simp] theorem State.modD2d_win (s : State) (i : Nat) (f : D2dLink → D2dLink) : (s.modD2d i f).win = s.win := rfl
@[simp] theorem State.modD2d_winHide (s : State) (i : Nat) (f : D2dLink → D2dLink) : (s.modD2d i f).winHide = s.winHide := rfl
@[simp] theorem State.modD2d_latch (s : State) (i : Nat) (f : D2dLink → D2dLink) : (s.modD2d i f).latch = s.latch := rfl
@[simp] theorem State.modD2d_pairLow (s : State) (i : Nat) (f : D2dLink → D2dLink) : (s.modD2d i f).pairLow = s.pairLow := rfl
@[simp] theorem State.modD2d_pkg (s : State) (i : Nat) (f : D2dLink → D2dLink) :
    (s.modD2d i f).pkg = { s.pkg with d2d := tmod s.pkg.d2d i f } := rfl
@[simp] theorem State.modD2d_frm (s : State) (i : Nat) (f : D2dLink → D2dLink) : (s.modD2d i f).frm = s.frm := rfl
@[simp] theorem State.modD2d_spn (s : State) (i : Nat) (f : D2dLink → D2dLink) : (s.modD2d i f).spn = s.spn := rfl
@[simp] theorem State.modD2d_vec (s : State) (i : Nat) (f : D2dLink → D2dLink) : (s.modD2d i f).vec = s.vec := rfl
@[simp] theorem State.modD2d_hnk (s : State) (i : Nat) (f : D2dLink → D2dLink) : (s.modD2d i f).hnk = s.hnk := rfl
@[simp] theorem State.modD2d_vis (s : State) (i : Nat) (f : D2dLink → D2dLink) : (s.modD2d i f).vis = s.vis := rfl
@[simp] theorem State.modD2d_bob (s : State) (i : Nat) (f : D2dLink → D2dLink) : (s.modD2d i f).bob = s.bob := rfl
@[simp] theorem State.modD2d_hp (s : State) (i : Nat) (f : D2dLink → D2dLink) : (s.modD2d i f).hp = s.hp := rfl
@[simp] theorem State.modD2d_fly (s : State) (i : Nat) (f : D2dLink → D2dLink) : (s.modD2d i f).fly = s.fly := rfl
@[simp] theorem State.modD2d_opt (s : State) (i : Nat) (f : D2dLink → D2dLink) : (s.modD2d i f).opt = s.opt := rfl
@[simp] theorem State.modD2d_fab (s : State) (i : Nat) (f : D2dLink → D2dLink) : (s.modD2d i f).fab = s.fab := rfl
@[simp] theorem State.modD2d_top (s : State) (i : Nat) (f : D2dLink → D2dLink) : (s.modD2d i f).top = s.top := rfl
@[simp] theorem State.modD2d_skn (s : State) (i : Nat) (f : D2dLink → D2dLink) : (s.modD2d i f).skn = s.skn := rfl
@[simp] theorem State.modD2d_pwr (s : State) (i : Nat) (f : D2dLink → D2dLink) : (s.modD2d i f).pwr = s.pwr := rfl
@[simp] theorem State.modD2d_thm (s : State) (i : Nat) (f : D2dLink → D2dLink) : (s.modD2d i f).thm = s.thm := rfl
@[simp] theorem State.modD2d_res (s : State) (i : Nat) (f : D2dLink → D2dLink) : (s.modD2d i f).res = s.res := rfl
@[simp] theorem State.modD2d_sec (s : State) (i : Nat) (f : D2dLink → D2dLink) : (s.modD2d i f).sec = s.sec := rfl
@[simp] theorem State.modD2d_tst (s : State) (i : Nat) (f : D2dLink → D2dLink) : (s.modD2d i f).tst = s.tst := rfl
@[simp] theorem State.modD2d_mdl (s : State) (i : Nat) (f : D2dLink → D2dLink) : (s.modD2d i f).mdl = s.mdl := rfl

@[simp] theorem State.modSlot_pending (s : State) (i : Nat) (f : Slot → Slot) : (s.modSlot i f).pending = s.pending := rfl
@[simp] theorem State.modSlot_free (s : State) (i : Nat) (f : Slot → Slot) : (s.modSlot i f).free = s.free := rfl
@[simp] theorem State.modSlot_out (s : State) (i : Nat) (f : Slot → Slot) : (s.modSlot i f).out = s.out := rfl
@[simp] theorem State.modSlot_mem (s : State) (i : Nat) (f : Slot → Slot) : (s.modSlot i f).mem = s.mem := rfl
@[simp] theorem State.modSlot_undef (s : State) (i : Nat) (f : Slot → Slot) : (s.modSlot i f).undef = s.undef := rfl
@[simp] theorem State.modSlot_win (s : State) (i : Nat) (f : Slot → Slot) : (s.modSlot i f).win = s.win := rfl
@[simp] theorem State.modSlot_winHide (s : State) (i : Nat) (f : Slot → Slot) : (s.modSlot i f).winHide = s.winHide := rfl
@[simp] theorem State.modSlot_latch (s : State) (i : Nat) (f : Slot → Slot) : (s.modSlot i f).latch = s.latch := rfl
@[simp] theorem State.modSlot_pairLow (s : State) (i : Nat) (f : Slot → Slot) : (s.modSlot i f).pairLow = s.pairLow := rfl
@[simp] theorem State.modSlot_pkg (s : State) (i : Nat) (f : Slot → Slot) : (s.modSlot i f).pkg = s.pkg := rfl
@[simp] theorem State.modSlot_frm (s : State) (i : Nat) (f : Slot → Slot) : (s.modSlot i f).frm = s.frm := rfl
@[simp] theorem State.modSlot_spn (s : State) (i : Nat) (f : Slot → Slot) : (s.modSlot i f).spn = s.spn := rfl
@[simp] theorem State.modSlot_vec (s : State) (i : Nat) (f : Slot → Slot) : (s.modSlot i f).vec = s.vec := rfl
@[simp] theorem State.modSlot_hnk (s : State) (i : Nat) (f : Slot → Slot) : (s.modSlot i f).hnk = s.hnk := rfl
@[simp] theorem State.modSlot_vis (s : State) (i : Nat) (f : Slot → Slot) : (s.modSlot i f).vis = s.vis := rfl
@[simp] theorem State.modSlot_bob (s : State) (i : Nat) (f : Slot → Slot) : (s.modSlot i f).bob = s.bob := rfl
@[simp] theorem State.modSlot_hp (s : State) (i : Nat) (f : Slot → Slot) : (s.modSlot i f).hp = s.hp := rfl
@[simp] theorem State.modSlot_fly (s : State) (i : Nat) (f : Slot → Slot) : (s.modSlot i f).fly = s.fly := rfl
@[simp] theorem State.modSlot_opt (s : State) (i : Nat) (f : Slot → Slot) : (s.modSlot i f).opt = s.opt := rfl
@[simp] theorem State.modSlot_fab (s : State) (i : Nat) (f : Slot → Slot) : (s.modSlot i f).fab = s.fab := rfl
@[simp] theorem State.modSlot_top (s : State) (i : Nat) (f : Slot → Slot) : (s.modSlot i f).top = s.top := rfl
@[simp] theorem State.modSlot_skn (s : State) (i : Nat) (f : Slot → Slot) : (s.modSlot i f).skn = s.skn := rfl
@[simp] theorem State.modSlot_pwr (s : State) (i : Nat) (f : Slot → Slot) : (s.modSlot i f).pwr = s.pwr := rfl
@[simp] theorem State.modSlot_thm (s : State) (i : Nat) (f : Slot → Slot) : (s.modSlot i f).thm = s.thm := rfl
@[simp] theorem State.modSlot_res (s : State) (i : Nat) (f : Slot → Slot) : (s.modSlot i f).res = s.res := rfl
@[simp] theorem State.modSlot_sec (s : State) (i : Nat) (f : Slot → Slot) :
    (s.modSlot i f).sec = { s.sec with slot := vmod s.sec.slot i f } := rfl
@[simp] theorem State.modSlot_tst (s : State) (i : Nat) (f : Slot → Slot) : (s.modSlot i f).tst = s.tst := rfl
@[simp] theorem State.modSlot_mdl (s : State) (i : Nat) (f : Slot → Slot) : (s.modSlot i f).mdl = s.mdl := rfl

@[simp] theorem State.modRlc_pending (s : State) (i : Nat) (f : VisDie → VisDie) : (s.modRlc i f).pending = s.pending := rfl
@[simp] theorem State.modRlc_free (s : State) (i : Nat) (f : VisDie → VisDie) : (s.modRlc i f).free = s.free := rfl
@[simp] theorem State.modRlc_out (s : State) (i : Nat) (f : VisDie → VisDie) : (s.modRlc i f).out = s.out := rfl
@[simp] theorem State.modRlc_mem (s : State) (i : Nat) (f : VisDie → VisDie) : (s.modRlc i f).mem = s.mem := rfl
@[simp] theorem State.modRlc_undef (s : State) (i : Nat) (f : VisDie → VisDie) : (s.modRlc i f).undef = s.undef := rfl
@[simp] theorem State.modRlc_win (s : State) (i : Nat) (f : VisDie → VisDie) : (s.modRlc i f).win = s.win := rfl
@[simp] theorem State.modRlc_winHide (s : State) (i : Nat) (f : VisDie → VisDie) : (s.modRlc i f).winHide = s.winHide := rfl
@[simp] theorem State.modRlc_latch (s : State) (i : Nat) (f : VisDie → VisDie) : (s.modRlc i f).latch = s.latch := rfl
@[simp] theorem State.modRlc_pairLow (s : State) (i : Nat) (f : VisDie → VisDie) : (s.modRlc i f).pairLow = s.pairLow := rfl
@[simp] theorem State.modRlc_pkg (s : State) (i : Nat) (f : VisDie → VisDie) : (s.modRlc i f).pkg = s.pkg := rfl
@[simp] theorem State.modRlc_frm (s : State) (i : Nat) (f : VisDie → VisDie) : (s.modRlc i f).frm = s.frm := rfl
@[simp] theorem State.modRlc_spn (s : State) (i : Nat) (f : VisDie → VisDie) : (s.modRlc i f).spn = s.spn := rfl
@[simp] theorem State.modRlc_vec (s : State) (i : Nat) (f : VisDie → VisDie) : (s.modRlc i f).vec = s.vec := rfl
@[simp] theorem State.modRlc_hnk (s : State) (i : Nat) (f : VisDie → VisDie) : (s.modRlc i f).hnk = s.hnk := rfl
@[simp] theorem State.modRlc_vis (s : State) (i : Nat) (f : VisDie → VisDie) :
    (s.modRlc i f).vis = { s.vis with die := vmod s.vis.die i f } := rfl
@[simp] theorem State.modRlc_bob (s : State) (i : Nat) (f : VisDie → VisDie) : (s.modRlc i f).bob = s.bob := rfl
@[simp] theorem State.modRlc_hp (s : State) (i : Nat) (f : VisDie → VisDie) : (s.modRlc i f).hp = s.hp := rfl
@[simp] theorem State.modRlc_fly (s : State) (i : Nat) (f : VisDie → VisDie) : (s.modRlc i f).fly = s.fly := rfl
@[simp] theorem State.modRlc_opt (s : State) (i : Nat) (f : VisDie → VisDie) : (s.modRlc i f).opt = s.opt := rfl
@[simp] theorem State.modRlc_fab (s : State) (i : Nat) (f : VisDie → VisDie) : (s.modRlc i f).fab = s.fab := rfl
@[simp] theorem State.modRlc_top (s : State) (i : Nat) (f : VisDie → VisDie) : (s.modRlc i f).top = s.top := rfl
@[simp] theorem State.modRlc_skn (s : State) (i : Nat) (f : VisDie → VisDie) : (s.modRlc i f).skn = s.skn := rfl
@[simp] theorem State.modRlc_pwr (s : State) (i : Nat) (f : VisDie → VisDie) : (s.modRlc i f).pwr = s.pwr := rfl
@[simp] theorem State.modRlc_thm (s : State) (i : Nat) (f : VisDie → VisDie) : (s.modRlc i f).thm = s.thm := rfl
@[simp] theorem State.modRlc_res (s : State) (i : Nat) (f : VisDie → VisDie) : (s.modRlc i f).res = s.res := rfl
@[simp] theorem State.modRlc_sec (s : State) (i : Nat) (f : VisDie → VisDie) : (s.modRlc i f).sec = s.sec := rfl
@[simp] theorem State.modRlc_tst (s : State) (i : Nat) (f : VisDie → VisDie) : (s.modRlc i f).tst = s.tst := rfl
@[simp] theorem State.modRlc_mdl (s : State) (i : Nat) (f : VisDie → VisDie) : (s.modRlc i f).mdl = s.mdl := rfl

@[simp] theorem State.modSensor_pending (s : State) (i : Nat) (f : Sensor → Sensor) : (s.modSensor i f).pending = s.pending := rfl
@[simp] theorem State.modSensor_free (s : State) (i : Nat) (f : Sensor → Sensor) : (s.modSensor i f).free = s.free := rfl
@[simp] theorem State.modSensor_out (s : State) (i : Nat) (f : Sensor → Sensor) : (s.modSensor i f).out = s.out := rfl
@[simp] theorem State.modSensor_mem (s : State) (i : Nat) (f : Sensor → Sensor) : (s.modSensor i f).mem = s.mem := rfl
@[simp] theorem State.modSensor_undef (s : State) (i : Nat) (f : Sensor → Sensor) : (s.modSensor i f).undef = s.undef := rfl
@[simp] theorem State.modSensor_win (s : State) (i : Nat) (f : Sensor → Sensor) : (s.modSensor i f).win = s.win := rfl
@[simp] theorem State.modSensor_winHide (s : State) (i : Nat) (f : Sensor → Sensor) : (s.modSensor i f).winHide = s.winHide := rfl
@[simp] theorem State.modSensor_latch (s : State) (i : Nat) (f : Sensor → Sensor) : (s.modSensor i f).latch = s.latch := rfl
@[simp] theorem State.modSensor_pairLow (s : State) (i : Nat) (f : Sensor → Sensor) : (s.modSensor i f).pairLow = s.pairLow := rfl
@[simp] theorem State.modSensor_pkg (s : State) (i : Nat) (f : Sensor → Sensor) : (s.modSensor i f).pkg = s.pkg := rfl
@[simp] theorem State.modSensor_frm (s : State) (i : Nat) (f : Sensor → Sensor) : (s.modSensor i f).frm = s.frm := rfl
@[simp] theorem State.modSensor_spn (s : State) (i : Nat) (f : Sensor → Sensor) : (s.modSensor i f).spn = s.spn := rfl
@[simp] theorem State.modSensor_vec (s : State) (i : Nat) (f : Sensor → Sensor) : (s.modSensor i f).vec = s.vec := rfl
@[simp] theorem State.modSensor_hnk (s : State) (i : Nat) (f : Sensor → Sensor) : (s.modSensor i f).hnk = s.hnk := rfl
@[simp] theorem State.modSensor_vis (s : State) (i : Nat) (f : Sensor → Sensor) : (s.modSensor i f).vis = s.vis := rfl
@[simp] theorem State.modSensor_bob (s : State) (i : Nat) (f : Sensor → Sensor) : (s.modSensor i f).bob = s.bob := rfl
@[simp] theorem State.modSensor_hp (s : State) (i : Nat) (f : Sensor → Sensor) : (s.modSensor i f).hp = s.hp := rfl
@[simp] theorem State.modSensor_fly (s : State) (i : Nat) (f : Sensor → Sensor) : (s.modSensor i f).fly = s.fly := rfl
@[simp] theorem State.modSensor_opt (s : State) (i : Nat) (f : Sensor → Sensor) : (s.modSensor i f).opt = s.opt := rfl
@[simp] theorem State.modSensor_fab (s : State) (i : Nat) (f : Sensor → Sensor) : (s.modSensor i f).fab = s.fab := rfl
@[simp] theorem State.modSensor_top (s : State) (i : Nat) (f : Sensor → Sensor) : (s.modSensor i f).top = s.top := rfl
@[simp] theorem State.modSensor_skn (s : State) (i : Nat) (f : Sensor → Sensor) : (s.modSensor i f).skn = s.skn := rfl
@[simp] theorem State.modSensor_pwr (s : State) (i : Nat) (f : Sensor → Sensor) : (s.modSensor i f).pwr = s.pwr := rfl
@[simp] theorem State.modSensor_thm (s : State) (i : Nat) (f : Sensor → Sensor) :
    (s.modSensor i f).thm = { s.thm with sensor := tmod s.thm.sensor i f } := rfl
@[simp] theorem State.modSensor_res (s : State) (i : Nat) (f : Sensor → Sensor) : (s.modSensor i f).res = s.res := rfl
@[simp] theorem State.modSensor_sec (s : State) (i : Nat) (f : Sensor → Sensor) : (s.modSensor i f).sec = s.sec := rfl
@[simp] theorem State.modSensor_tst (s : State) (i : Nat) (f : Sensor → Sensor) : (s.modSensor i f).tst = s.tst := rfl
@[simp] theorem State.modSensor_mdl (s : State) (i : Nat) (f : Sensor → Sensor) : (s.modSensor i f).mdl = s.mdl := rfl

@[simp] theorem State.modUnit_pending (s : State) (i : Nat) (f : TestUnit → TestUnit) : (s.modUnit i f).pending = s.pending := rfl
@[simp] theorem State.modUnit_free (s : State) (i : Nat) (f : TestUnit → TestUnit) : (s.modUnit i f).free = s.free := rfl
@[simp] theorem State.modUnit_out (s : State) (i : Nat) (f : TestUnit → TestUnit) : (s.modUnit i f).out = s.out := rfl
@[simp] theorem State.modUnit_mem (s : State) (i : Nat) (f : TestUnit → TestUnit) : (s.modUnit i f).mem = s.mem := rfl
@[simp] theorem State.modUnit_undef (s : State) (i : Nat) (f : TestUnit → TestUnit) : (s.modUnit i f).undef = s.undef := rfl
@[simp] theorem State.modUnit_win (s : State) (i : Nat) (f : TestUnit → TestUnit) : (s.modUnit i f).win = s.win := rfl
@[simp] theorem State.modUnit_winHide (s : State) (i : Nat) (f : TestUnit → TestUnit) : (s.modUnit i f).winHide = s.winHide := rfl
@[simp] theorem State.modUnit_latch (s : State) (i : Nat) (f : TestUnit → TestUnit) : (s.modUnit i f).latch = s.latch := rfl
@[simp] theorem State.modUnit_pairLow (s : State) (i : Nat) (f : TestUnit → TestUnit) : (s.modUnit i f).pairLow = s.pairLow := rfl
@[simp] theorem State.modUnit_pkg (s : State) (i : Nat) (f : TestUnit → TestUnit) : (s.modUnit i f).pkg = s.pkg := rfl
@[simp] theorem State.modUnit_frm (s : State) (i : Nat) (f : TestUnit → TestUnit) : (s.modUnit i f).frm = s.frm := rfl
@[simp] theorem State.modUnit_spn (s : State) (i : Nat) (f : TestUnit → TestUnit) : (s.modUnit i f).spn = s.spn := rfl
@[simp] theorem State.modUnit_vec (s : State) (i : Nat) (f : TestUnit → TestUnit) : (s.modUnit i f).vec = s.vec := rfl
@[simp] theorem State.modUnit_hnk (s : State) (i : Nat) (f : TestUnit → TestUnit) : (s.modUnit i f).hnk = s.hnk := rfl
@[simp] theorem State.modUnit_vis (s : State) (i : Nat) (f : TestUnit → TestUnit) : (s.modUnit i f).vis = s.vis := rfl
@[simp] theorem State.modUnit_bob (s : State) (i : Nat) (f : TestUnit → TestUnit) : (s.modUnit i f).bob = s.bob := rfl
@[simp] theorem State.modUnit_hp (s : State) (i : Nat) (f : TestUnit → TestUnit) : (s.modUnit i f).hp = s.hp := rfl
@[simp] theorem State.modUnit_fly (s : State) (i : Nat) (f : TestUnit → TestUnit) : (s.modUnit i f).fly = s.fly := rfl
@[simp] theorem State.modUnit_opt (s : State) (i : Nat) (f : TestUnit → TestUnit) : (s.modUnit i f).opt = s.opt := rfl
@[simp] theorem State.modUnit_fab (s : State) (i : Nat) (f : TestUnit → TestUnit) : (s.modUnit i f).fab = s.fab := rfl
@[simp] theorem State.modUnit_top (s : State) (i : Nat) (f : TestUnit → TestUnit) : (s.modUnit i f).top = s.top := rfl
@[simp] theorem State.modUnit_skn (s : State) (i : Nat) (f : TestUnit → TestUnit) : (s.modUnit i f).skn = s.skn := rfl
@[simp] theorem State.modUnit_pwr (s : State) (i : Nat) (f : TestUnit → TestUnit) : (s.modUnit i f).pwr = s.pwr := rfl
@[simp] theorem State.modUnit_thm (s : State) (i : Nat) (f : TestUnit → TestUnit) : (s.modUnit i f).thm = s.thm := rfl
@[simp] theorem State.modUnit_res (s : State) (i : Nat) (f : TestUnit → TestUnit) : (s.modUnit i f).res = s.res := rfl
@[simp] theorem State.modUnit_sec (s : State) (i : Nat) (f : TestUnit → TestUnit) : (s.modUnit i f).sec = s.sec := rfl
@[simp] theorem State.modUnit_tst (s : State) (i : Nat) (f : TestUnit → TestUnit) :
    (s.modUnit i f).tst = { s.tst with unit := tmod s.tst.unit i f } := rfl
@[simp] theorem State.modUnit_mdl (s : State) (i : Nat) (f : TestUnit → TestUnit) : (s.modUnit i f).mdl = s.mdl := rfl

@[simp] theorem State.modMsix_pending (s : State) (i : Nat) (f : MsixEntry → MsixEntry) : (s.modMsix i f).pending = s.pending := rfl
@[simp] theorem State.modMsix_free (s : State) (i : Nat) (f : MsixEntry → MsixEntry) : (s.modMsix i f).free = s.free := rfl
@[simp] theorem State.modMsix_out (s : State) (i : Nat) (f : MsixEntry → MsixEntry) : (s.modMsix i f).out = s.out := rfl
@[simp] theorem State.modMsix_mem (s : State) (i : Nat) (f : MsixEntry → MsixEntry) : (s.modMsix i f).mem = s.mem := rfl
@[simp] theorem State.modMsix_undef (s : State) (i : Nat) (f : MsixEntry → MsixEntry) : (s.modMsix i f).undef = s.undef := rfl
@[simp] theorem State.modMsix_win (s : State) (i : Nat) (f : MsixEntry → MsixEntry) : (s.modMsix i f).win = s.win := rfl
@[simp] theorem State.modMsix_winHide (s : State) (i : Nat) (f : MsixEntry → MsixEntry) : (s.modMsix i f).winHide = s.winHide := rfl
@[simp] theorem State.modMsix_latch (s : State) (i : Nat) (f : MsixEntry → MsixEntry) : (s.modMsix i f).latch = s.latch := rfl
@[simp] theorem State.modMsix_pairLow (s : State) (i : Nat) (f : MsixEntry → MsixEntry) : (s.modMsix i f).pairLow = s.pairLow := rfl
@[simp] theorem State.modMsix_pkg (s : State) (i : Nat) (f : MsixEntry → MsixEntry) : (s.modMsix i f).pkg = s.pkg := rfl
@[simp] theorem State.modMsix_frm (s : State) (i : Nat) (f : MsixEntry → MsixEntry) : (s.modMsix i f).frm = s.frm := rfl
@[simp] theorem State.modMsix_spn (s : State) (i : Nat) (f : MsixEntry → MsixEntry) : (s.modMsix i f).spn = s.spn := rfl
@[simp] theorem State.modMsix_vec (s : State) (i : Nat) (f : MsixEntry → MsixEntry) : (s.modMsix i f).vec = s.vec := rfl
@[simp] theorem State.modMsix_hnk (s : State) (i : Nat) (f : MsixEntry → MsixEntry) : (s.modMsix i f).hnk = s.hnk := rfl
@[simp] theorem State.modMsix_vis (s : State) (i : Nat) (f : MsixEntry → MsixEntry) : (s.modMsix i f).vis = s.vis := rfl
@[simp] theorem State.modMsix_bob (s : State) (i : Nat) (f : MsixEntry → MsixEntry) : (s.modMsix i f).bob = s.bob := rfl
@[simp] theorem State.modMsix_hp (s : State) (i : Nat) (f : MsixEntry → MsixEntry) :
    (s.modMsix i f).hp = { s.hp with msix := tmod s.hp.msix i f } := rfl
@[simp] theorem State.modMsix_fly (s : State) (i : Nat) (f : MsixEntry → MsixEntry) : (s.modMsix i f).fly = s.fly := rfl
@[simp] theorem State.modMsix_opt (s : State) (i : Nat) (f : MsixEntry → MsixEntry) : (s.modMsix i f).opt = s.opt := rfl
@[simp] theorem State.modMsix_fab (s : State) (i : Nat) (f : MsixEntry → MsixEntry) : (s.modMsix i f).fab = s.fab := rfl
@[simp] theorem State.modMsix_top (s : State) (i : Nat) (f : MsixEntry → MsixEntry) : (s.modMsix i f).top = s.top := rfl
@[simp] theorem State.modMsix_skn (s : State) (i : Nat) (f : MsixEntry → MsixEntry) : (s.modMsix i f).skn = s.skn := rfl
@[simp] theorem State.modMsix_pwr (s : State) (i : Nat) (f : MsixEntry → MsixEntry) : (s.modMsix i f).pwr = s.pwr := rfl
@[simp] theorem State.modMsix_thm (s : State) (i : Nat) (f : MsixEntry → MsixEntry) : (s.modMsix i f).thm = s.thm := rfl
@[simp] theorem State.modMsix_res (s : State) (i : Nat) (f : MsixEntry → MsixEntry) : (s.modMsix i f).res = s.res := rfl
@[simp] theorem State.modMsix_sec (s : State) (i : Nat) (f : MsixEntry → MsixEntry) : (s.modMsix i f).sec = s.sec := rfl
@[simp] theorem State.modMsix_tst (s : State) (i : Nat) (f : MsixEntry → MsixEntry) : (s.modMsix i f).tst = s.tst := rfl
@[simp] theorem State.modMsix_mdl (s : State) (i : Nat) (f : MsixEntry → MsixEntry) : (s.modMsix i f).mdl = s.mdl := rfl

end Sys2Proof.Machine
end

