-- ==== Sys2Proof/Laws/Tab.lean ====
section
/-!
SUPPORT. The laws of sparse tables: reading after writing, and that every operation keeps the canonical form.
-/

namespace Sys2Proof.Machine

variable {α : Type}

theorem tabAbove_mono {lo lo' : Nat} (h : lo ≤ lo') : ∀ {t : Tab α}, tabAbove lo' t = true → tabAbove lo t = true
  | [], _ => rfl
  | (a, _) :: _, ht => by simp only [tabAbove, decide_eq_true_eq] at *; omega

variable [Inhabited α]

variable [DecidableEq α]

theorem tabWf_cons {a : Nat} {v : α} {t : Tab α} :
    tabWf ((a, v) :: t) = true ↔ v ≠ default ∧ tabAbove a t = true ∧ tabWf t = true := by
  simp [tabWf, and_assoc]

/-- A key at or below every listed key of a canonical table reads as the default. -/
theorem tget_default : ∀ {t : Tab α} {lo k : Nat}, tabWf t = true → tabAbove lo t = true → k ≤ lo → tget t k = default
  | [], _, _, _, _, _ => rfl
  | (a, v) :: r, lo, k, hw, ha, hk => by
    have hw' := tabWf_cons.1 hw
    have h' : lo < a := by simpa [tabAbove] using ha
    have hne : ¬ a = k := by omega
    simp only [tget, hne, if_false]
    exact tget_default hw'.2.2 hw'.2.1 (by omega)

theorem tput_above {lo k : Nat} {v : α} (hk : lo < k) :
    ∀ {t : Tab α}, tabAbove lo t = true → tabWf t = true → tabAbove lo (tput t k v) = true
  | [], _, _ => by by_cases h : v = default <;> simp [tput, tabAbove, h, hk]
  | (a, w) :: t, ha, hw => by
    have ha' : lo < a := by simpa [tabAbove] using ha
    have hw' := tabWf_cons.1 hw
    unfold tput
    split
    · simpa [tabAbove] using ha'
    · split
      · split
        · exact tabAbove_mono (Nat.le_of_lt ha') hw'.2.1
        · simpa [tabAbove] using hk
      · split
        · simpa [tabAbove] using ha'
        · simpa [tabAbove] using hk

/-- Putting a value keeps the canonical form. -/
theorem tput_wf {k : Nat} {v : α} : ∀ {t : Tab α}, tabWf t = true → tabWf (tput t k v) = true
  | [], _ => by by_cases h : v = default <;> simp [tput, tabWf, tabAbove, h]
  | (a, w) :: t, hw => by
    have hw' := tabWf_cons.1 hw
    unfold tput
    split
    · next h => exact tabWf_cons.2 ⟨hw'.1, tput_above h hw'.2.1 hw'.2.2, tput_wf hw'.2.2⟩
    · next h =>
      split
      · next h2 =>
        split
        · exact hw'.2.2
        · next hv => exact tabWf_cons.2 ⟨hv, h2 ▸ hw'.2.1, hw'.2.2⟩
      · next h2 =>
        split
        · exact hw
        · next hv => exact tabWf_cons.2 ⟨hv, by simp only [tabAbove, decide_eq_true_eq]; omega, hw⟩

/-- A canonical table reads back what has been put. -/
theorem tget_tput_same {k : Nat} {v : α} : ∀ {t : Tab α}, tabWf t = true → tget (tput t k v) k = v
  | [], _ => by by_cases h : v = default <;> simp [tput, tget, h]
  | (a, w) :: t, hw => by
    have hw' := tabWf_cons.1 hw
    unfold tput
    split
    · next h =>
      have : ¬ a = k := by omega
      simp only [tget, this, if_false]
      exact tget_tput_same hw'.2.2
    · split
      · next h2 =>
        split
        · next hv => rw [hv]; exact tget_default hw'.2.2 hw'.2.1 (Nat.le_of_eq h2.symm)
        · simp [tget]
      · next h h2 =>
        split
        · next hv =>
          have : ¬ a = k := h2
          simp only [tget, this, if_false, hv]
          exact tget_default hw'.2.2 hw'.2.1 (by omega)
        · simp [tget]

/-- Putting a value leaves every other key alone. -/
theorem tget_tput_value {k : Nat} {v : α} (hv : v ≠ default) : ∀ {t : Tab α}, tget (tput t k v) k = v
  | [] => by simp [tput, tget, hv]
  | (a, w) :: t => by
    unfold tput
    split
    · rename_i h
      simp only [tget, Nat.ne_of_lt h, if_false]
      exact tget_tput_value hv
    · split
      · simp [tget, hv]
      · simp [tget, hv]

theorem tget_tput_other {k j : Nat} {v : α} (h : j ≠ k) : ∀ {t : Tab α}, tget (tput t k v) j = tget t j
  | [] => by by_cases hv : v = default <;> simp [tput, tget, hv, Ne.symm h]
  | (a, w) :: t => by
    unfold tput
    split
    · simp only [tget]
      split
      · rfl
      · exact tget_tput_other h
    · split
      · next h2 =>
        have : ¬ a = j := by omega
        split <;> simp [tget, this, Ne.symm h]
      · split <;> simp [tget, Ne.symm h]

theorem tabAbove_filter {lo : Nat} {p : Nat × α → Bool} :
    ∀ {t : Tab α}, tabAbove lo t = true → tabWf t = true → tabAbove lo (t.filter p) = true
  | [], _, _ => rfl
  | (a, v) :: t, ha, hw => by
    have ha' : lo < a := by simpa [tabAbove] using ha
    have hw' := tabWf_cons.1 hw
    rw [List.filter_cons]
    split
    · simpa [tabAbove] using ha'
    · exact tabAbove_filter (tabAbove_mono (Nat.le_of_lt ha') hw'.2.1) hw'.2.2

/-- Taking entries away keeps the canonical form. -/
theorem filter_wf {p : Nat × α → Bool} : ∀ {t : Tab α}, tabWf t = true → tabWf (t.filter p) = true
  | [], _ => rfl
  | (a, v) :: t, hw => by
    have hw' := tabWf_cons.1 hw
    rw [List.filter_cons]
    split
    · exact tabWf_cons.2 ⟨hw'.1, tabAbove_filter hw'.2.1 hw'.2.2, filter_wf hw'.2.2⟩
    · exact filter_wf hw'.2.2

end Sys2Proof.Machine
end

