-- ==== Sys2Proof/Laws/Kept.lean ====
section
/-!
SUPPORT. What every operation of the machine keeps: the queue of waiting commands as it is, and memory and the lanes'
registers in their canonical form. One lemma for each operation follows in the Keep files.
-/

namespace Sys2Proof.Machine

/-- The registers of every compute die's lanes are held in canonical form. -/
def RegsWf (v : Vector VecDie 4) : Prop :=
  ∀ i, tabWf (vget v i).regs = true

/-- The queue is `q`, and memory and the lanes' registers are canonical. -/
def Kept (q : List Instr) (s : State) : Prop :=
  s.pending = q ∧ Memory.wf s.mem = true ∧ RegsWf s.vec

/-- An update of every die that keeps its registers canonical. -/
theorem regsWf_map {v : Vector VecDie 4} {f : VecDie → VecDie} (hv : RegsWf v)
    (hf : ∀ x, tabWf x.regs = true → tabWf (f x).regs = true) : RegsWf (v.map f) := by
  intro i
  have h := hv i
  by_cases hi : i < 4
  · have e : vget (v.map f) i = f (vget v i) := by simp [vget, Vector.getD, hi]
    rw [e]
    exact hf _ h
  · have e : vget (v.map f) i = default := by simp [vget, Vector.getD, hi]
    rw [e]
    rfl

/-- An update of one die that keeps its registers canonical. -/
theorem regsWf_mod {v : Vector VecDie 4} {f : VecDie → VecDie} (n : Nat) (hv : RegsWf v)
    (hf : ∀ x, tabWf x.regs = true → tabWf (f x).regs = true) : RegsWf (vmod v n f) := by
  intro i
  by_cases hi : i = n
  · subst hi
    by_cases hn : i < 4
    · rw [vget_vmod_same _ _ _ hn]
      exact hf _ (hv i)
    · have e : vmod v i f = v := by simp [vmod, hn]
      rw [e]
      exact hv i
  · rw [vget_vmod_other _ _ _ _ hi]
    exact hv i

/-- A next state of this outcome has the queue `q` and canonical memory. -/
def KeptOut (q : List Instr) (o : Host.Outcome State Fault Refusal) : Prop :=
  ∀ t, o = .next t → Kept q t

theorem keptOut_next {q : List Instr} {s : State} (h : Kept q s) : KeptOut q (.next s) := by
  intro t ht
  cases ht
  exact h

theorem keptOut_fault {q : List Instr} {f : Fault} : KeptOut q (.fault f) := by
  intro t ht
  cases ht

theorem keptOut_ite {q : List Instr} {c : Prop} [Decidable c] {a b : Host.Outcome State Fault Refusal}
    (ha : KeptOut q a) (hb : KeptOut q b) : KeptOut q (if c then a else b) := by
  split <;> assumption

theorem kept_ite {q : List Instr} {c : Prop} [Decidable c] {a b : State} (ha : Kept q a) (hb : Kept q b) :
    Kept q (if c then a else b) := by
  split <;> assumption

theorem kept_snd {q : List Instr} {α : Type} {p : α × State} {a : α} {s : State} (he : p = (a, s)) (h : Kept q p.2) :
    Kept q s := by
  rw [he] at h
  exact h

theorem kept_trd {q : List Instr} {α β : Type} {p : α × β × State} {a : α} {b : β} {s : State} (he : p = (a, b, s))
    (h : Kept q p.2.2) : Kept q s := by
  rw [he] at h
  exact h

theorem kept_ite_snd {q : List Instr} {α : Type} {c : Prop} [Decidable c] {a b : α × State} (ha : Kept q a.2)
    (hb : Kept q b.2) : Kept q (if c then a else b).2 := by
  split <;> assumption

theorem kept_getD {q : List Instr} {α : Type} {o : Option α} {f : α → State} {s : State} (hf : ∀ x, Kept q (f x))
    (h : Kept q s) : Kept q ((o.map f).getD s) := by
  cases o with
  | none => exact h
  | some x => exact hf x

theorem foldl_kept {q : List Instr} {α : Type} {l : List α} {g : State → α → State}
    (hg : ∀ s x, Kept q s → Kept q (g s x)) : ∀ {s : State}, Kept q s → Kept q (l.foldl g s) := by
  induction l with
  | nil => exact fun h => h
  | cons x xs ih => exact fun h => ih (hg _ x h)

end Sys2Proof.Machine
end

