-- ==== Sys2Proof/Laws/KeepFields.lean ====
section
/-!
SUPPORT. Every operation of Machine/Fields.lean leaves the queue alone and keeps memory and the lanes' registers canonical.
-/

namespace Sys2Proof.Machine

/-- `State.modPkg` keeps the queue, canonical memory and canonical registers. -/
theorem State.modPkg_kept {pq : List Instr} (s : State) (f : Pkg → Pkg) (hk : Kept pq s) :
    Kept pq (State.modPkg s f) :=
  hk

/-- `State.modFrm` keeps the queue, canonical memory and canonical registers. -/
theorem State.modFrm_kept {pq : List Instr} (s : State) (f : Frm → Frm) (hk : Kept pq s) :
    Kept pq (State.modFrm s f) :=
  hk

/-- `State.modHnk` keeps the queue, canonical memory and canonical registers. -/
theorem State.modHnk_kept {pq : List Instr} (s : State) (f : Hnk → Hnk) (hk : Kept pq s) :
    Kept pq (State.modHnk s f) :=
  hk

/-- `State.modVis` keeps the queue, canonical memory and canonical registers. -/
theorem State.modVis_kept {pq : List Instr} (s : State) (f : Vis → Vis) (hk : Kept pq s) :
    Kept pq (State.modVis s f) :=
  hk

/-- `State.modBob` keeps the queue, canonical memory and canonical registers. -/
theorem State.modBob_kept {pq : List Instr} (s : State) (f : Bob → Bob) (hk : Kept pq s) :
    Kept pq (State.modBob s f) :=
  hk

/-- `State.modHp` keeps the queue, canonical memory and canonical registers. -/
theorem State.modHp_kept {pq : List Instr} (s : State) (f : Hp → Hp) (hk : Kept pq s) :
    Kept pq (State.modHp s f) :=
  hk

/-- `State.modFly` keeps the queue, canonical memory and canonical registers. -/
theorem State.modFly_kept {pq : List Instr} (s : State) (f : Fly → Fly) (hk : Kept pq s) :
    Kept pq (State.modFly s f) :=
  hk

/-- `State.modOpt` keeps the queue, canonical memory and canonical registers. -/
theorem State.modOpt_kept {pq : List Instr} (s : State) (f : Opt → Opt) (hk : Kept pq s) :
    Kept pq (State.modOpt s f) :=
  hk

/-- `State.modFab` keeps the queue, canonical memory and canonical registers. -/
theorem State.modFab_kept {pq : List Instr} (s : State) (f : Fab → Fab) (hk : Kept pq s) :
    Kept pq (State.modFab s f) :=
  hk

/-- `State.modTop` keeps the queue, canonical memory and canonical registers. -/
theorem State.modTop_kept {pq : List Instr} (s : State) (f : Top → Top) (hk : Kept pq s) :
    Kept pq (State.modTop s f) :=
  hk

/-- `State.modSkn` keeps the queue, canonical memory and canonical registers. -/
theorem State.modSkn_kept {pq : List Instr} (s : State) (f : Skn → Skn) (hk : Kept pq s) :
    Kept pq (State.modSkn s f) :=
  hk

/-- `State.modPwr` keeps the queue, canonical memory and canonical registers. -/
theorem State.modPwr_kept {pq : List Instr} (s : State) (f : Pwr → Pwr) (hk : Kept pq s) :
    Kept pq (State.modPwr s f) :=
  hk

/-- `State.modThm` keeps the queue, canonical memory and canonical registers. -/
theorem State.modThm_kept {pq : List Instr} (s : State) (f : Thm → Thm) (hk : Kept pq s) :
    Kept pq (State.modThm s f) :=
  hk

/-- `State.modRes` keeps the queue, canonical memory and canonical registers. -/
theorem State.modRes_kept {pq : List Instr} (s : State) (f : Res → Res) (hk : Kept pq s) :
    Kept pq (State.modRes s f) :=
  hk

/-- `State.modSec` keeps the queue, canonical memory and canonical registers. -/
theorem State.modSec_kept {pq : List Instr} (s : State) (f : Sec → Sec) (hk : Kept pq s) :
    Kept pq (State.modSec s f) :=
  hk

/-- `State.modTst` keeps the queue, canonical memory and canonical registers. -/
theorem State.modTst_kept {pq : List Instr} (s : State) (f : Tst → Tst) (hk : Kept pq s) :
    Kept pq (State.modTst s f) :=
  hk

/-- `State.modMdl` keeps the queue, canonical memory and canonical registers. -/
theorem State.modMdl_kept {pq : List Instr} (s : State) (f : Mdl → Mdl) (hk : Kept pq s) :
    Kept pq (State.modMdl s f) :=
  hk

/-- `State.modSpn` keeps the queue, canonical memory and canonical registers. -/
theorem State.modSpn_kept {pq : List Instr} (s : State) (i : Nat) (f : Spindle → Spindle) (hk : Kept pq s) :
    Kept pq (State.modSpn s i f) :=
  hk

/-- `State.modVec` keeps the queue and canonical memory, and canonical registers where its change does. -/
theorem State.modVec_kept {pq : List Instr} (s : State) (i : Nat) (f : VecDie → VecDie) (hk : Kept pq s)
    (hf : ∀ x, tabWf x.regs = true → tabWf (f x).regs = true) : Kept pq (State.modVec s i f) :=
  ⟨hk.1, hk.2.1, regsWf_mod i hk.2.2 hf⟩

/-- `State.modHank` keeps the queue, canonical memory and canonical registers. -/
theorem State.modHank_kept {pq : List Instr} (s : State) (i : Nat) (f : Hank → Hank) (hk : Kept pq s) :
    Kept pq (State.modHank s i f) :=
  hk

/-- `State.modChan` keeps the queue, canonical memory and canonical registers. -/
theorem State.modChan_kept {pq : List Instr} (s : State) (i : Nat) (f : Chan → Chan) (hk : Kept pq s) :
    Kept pq (State.modChan s i f) :=
  hk

/-- `State.modQueue` keeps the queue, canonical memory and canonical registers. -/
theorem State.modQueue_kept {pq : List Instr} (s : State) (i : Nat) (f : Queue → Queue) (hk : Kept pq s) :
    Kept pq (State.modQueue s i f) :=
  hk

/-- `State.modRegion` keeps the queue, canonical memory and canonical registers. -/
theorem State.modRegion_kept {pq : List Instr} (s : State) (i : Nat) (f : Region → Region) (hk : Kept pq s) :
    Kept pq (State.modRegion s i f) :=
  hk

/-- `State.modPage` keeps the queue, canonical memory and canonical registers. -/
theorem State.modPage_kept {pq : List Instr} (s : State) (i : Nat) (f : DbPage → DbPage) (hk : Kept pq s) :
    Kept pq (State.modPage s i f) :=
  hk

/-- `State.modTag` keeps the queue, canonical memory and canonical registers. -/
theorem State.modTag_kept {pq : List Instr} (s : State) (i : Nat) (f : (Option Cmd) → (Option Cmd)) (hk : Kept pq s) :
    Kept pq (State.modTag s i f) :=
  hk

/-- `State.modMbx` keeps the queue, canonical memory and canonical registers. -/
theorem State.modMbx_kept {pq : List Instr} (s : State) (i : Nat) (f : Mbx → Mbx) (hk : Kept pq s) :
    Kept pq (State.modMbx s i f) :=
  hk

/-- `State.modStrand` keeps the queue, canonical memory and canonical registers. -/
theorem State.modStrand_kept {pq : List Instr} (s : State) (i : Nat) (f : Strand → Strand) (hk : Kept pq s) :
    Kept pq (State.modStrand s i f) :=
  hk

/-- `State.modBank` keeps the queue, canonical memory and canonical registers. -/
theorem State.modBank_kept {pq : List Instr} (s : State) (i : Nat) (f : Bank → Bank) (hk : Kept pq s) :
    Kept pq (State.modBank s i f) :=
  hk

/-- `State.modLink` keeps the queue, canonical memory and canonical registers. -/
theorem State.modLink_kept {pq : List Instr} (s : State) (i : Nat) (f : Link → Link) (hk : Kept pq s) :
    Kept pq (State.modLink s i f) :=
  hk

/-- `State.modDisc` keeps the queue, canonical memory and canonical registers. -/
theorem State.modDisc_kept {pq : List Instr} (s : State) (i : Nat) (f : Disc → Disc) (hk : Kept pq s) :
    Kept pq (State.modDisc s i f) :=
  hk

/-- `State.modCtx` keeps the queue, canonical memory and canonical registers. -/
theorem State.modCtx_kept {pq : List Instr} (s : State) (i : Nat) (f : Ctx → Ctx) (hk : Kept pq s) :
    Kept pq (State.modCtx s i f) :=
  hk

/-- `State.modPwrDie` keeps the queue, canonical memory and canonical registers. -/
theorem State.modPwrDie_kept {pq : List Instr} (s : State) (i : Nat) (f : PwrDie → PwrDie) (hk : Kept pq s) :
    Kept pq (State.modPwrDie s i f) :=
  hk

/-- `State.modThmDie` keeps the queue, canonical memory and canonical registers. -/
theorem State.modThmDie_kept {pq : List Instr} (s : State) (i : Nat) (f : ThmDie → ThmDie) (hk : Kept pq s) :
    Kept pq (State.modThmDie s i f) :=
  hk

/-- `State.modOp` keeps the queue, canonical memory and canonical registers. -/
theorem State.modOp_kept {pq : List Instr} (s : State) (i : Nat) (f : OpState → OpState) (hk : Kept pq s) :
    Kept pq (State.modOp s i f) :=
  hk

/-- `State.modD2d` keeps the queue, canonical memory and canonical registers. -/
theorem State.modD2d_kept {pq : List Instr} (s : State) (i : Nat) (f : D2dLink → D2dLink) (hk : Kept pq s) :
    Kept pq (State.modD2d s i f) :=
  hk

/-- `State.modSlot` keeps the queue, canonical memory and canonical registers. -/
theorem State.modSlot_kept {pq : List Instr} (s : State) (i : Nat) (f : Slot → Slot) (hk : Kept pq s) :
    Kept pq (State.modSlot s i f) :=
  hk

/-- `State.modRlc` keeps the queue, canonical memory and canonical registers. -/
theorem State.modRlc_kept {pq : List Instr} (s : State) (i : Nat) (f : VisDie → VisDie) (hk : Kept pq s) :
    Kept pq (State.modRlc s i f) :=
  hk

/-- `State.modSensor` keeps the queue, canonical memory and canonical registers. -/
theorem State.modSensor_kept {pq : List Instr} (s : State) (i : Nat) (f : Sensor → Sensor) (hk : Kept pq s) :
    Kept pq (State.modSensor s i f) :=
  hk

/-- `State.modUnit` keeps the queue, canonical memory and canonical registers. -/
theorem State.modUnit_kept {pq : List Instr} (s : State) (i : Nat) (f : TestUnit → TestUnit) (hk : Kept pq s) :
    Kept pq (State.modUnit s i f) :=
  hk

/-- `State.modMsix` keeps the queue, canonical memory and canonical registers. -/
theorem State.modMsix_kept {pq : List Instr} (s : State) (i : Nat) (f : MsixEntry → MsixEntry) (hk : Kept pq s) :
    Kept pq (State.modMsix s i f) :=
  hk

/-- `State.emit` keeps the queue, canonical memory and canonical registers. -/
theorem State.emit_kept {pq : List Instr} (s : State) (e : Emit) (hk : Kept pq s) :
    Kept pq (State.emit s e) :=
  hk

/-- `State.drawFree` keeps the queue, canonical memory and canonical registers. -/
theorem State.drawFree_kept {pq : List Instr} (s : State) (hk : Kept pq s) :
    Kept pq (State.drawFree s) :=
  hk

/-- `State.drawFrees` keeps the queue, canonical memory and canonical registers. -/
theorem State.drawFrees_kept {pq : List Instr} (n : Nat) (s : State) (hk : Kept pq s) :
    Kept pq (State.drawFrees n s) :=
  hk

end Sys2Proof.Machine
end

