-- ==== Sys2Proof/Laws/KeepOps.lean ====
section
/-!
SUPPORT. Every operation of Machine/Ops.lean leaves the queue alone and keeps memory and the lanes' registers canonical.
-/

namespace Sys2Proof.Machine

/-- `sendVector` keeps the queue, canonical memory and canonical registers. -/
theorem sendVector_kept {pq : List Instr} (v : Nat) (s : State) (hk : Kept pq s) :
    Kept pq (sendVector v s) := by
  unfold sendVector
  try dsimp only
  repeat' first
    | with_reducible assumption
    | with_reducible apply State.modMsix_kept
    | with_reducible apply State.emit_kept
    | intro _
    | with_reducible apply kept_ite

/-- `ringPost` keeps the queue, canonical memory and canonical registers. -/
theorem ringPost_kept {pq : List Instr} (m source : Nat) (st : Status) (obj : Nat) (tenant : Option Nat) (data : List Byte) (s : State) (hk : Kept pq s) :
    Kept pq (ringPost m source st obj tenant data s) := by
  unfold ringPost
  try dsimp only
  repeat' first
    | with_reducible assumption
    | with_reducible apply State.modMbx_kept
    | with_reducible apply sendVector_kept
    | intro _
    | with_reducible apply kept_ite

/-- `postEvent` keeps the queue, canonical memory and canonical registers. -/
theorem postEvent_kept {pq : List Instr} (source : Nat) (st : Status) (obj : Nat) (tenant : Option Nat) (data : List Byte) (s : State) (hk : Kept pq s) :
    Kept pq (postEvent source st obj tenant data s) := by
  unfold postEvent
  try dsimp only
  repeat' first
    | with_reducible assumption
    | with_reducible apply ringPost_kept
    | intro _
    | with_reducible apply kept_ite

/-- `postDevice` keeps the queue, canonical memory and canonical registers. -/
theorem postDevice_kept {pq : List Instr} (source : Nat) (st : Status) (obj : Nat) (s : State) (hk : Kept pq s) :
    Kept pq (postDevice source st obj s) := by
  unfold postDevice
  try dsimp only
  repeat' first
    | with_reducible assumption
    | with_reducible apply postEvent_kept

/-- `failFrame` keeps the queue, canonical memory and canonical registers. -/
theorem failFrame_kept {pq : List Instr} (st : Status) (s : State) (hk : Kept pq s) :
    Kept pq (failFrame st s) := by
  unfold failFrame
  try dsimp only
  repeat' first
    | with_reducible assumption
    | with_reducible apply State.modFrm_kept

/-- `noteHold` keeps the queue, canonical memory and canonical registers. -/
theorem noteHold_kept {pq : List Instr} (cause : Nat) (s : State) (hk : Kept pq s) :
    Kept pq (noteHold cause s) := by
  unfold noteHold
  try dsimp only
  repeat' first
    | with_reducible assumption
    | with_reducible apply State.modFrm_kept

/-- `setDevState` keeps the queue, canonical memory and canonical registers. -/
theorem setDevState_kept {pq : List Instr} (d : DevState) (s : State) (hk : Kept pq s) :
    Kept pq (setDevState d s) := by
  unfold setDevState
  try dsimp only
  repeat' first
    | with_reducible assumption
    | with_reducible apply State.modPkg_kept
    | with_reducible apply State.modSec_kept
    | intro _
    | with_reducible apply kept_ite

/-- `enterFailed` keeps the queue, canonical memory and canonical registers. -/
theorem enterFailed_kept {pq : List Instr} (way : WayOut) (st : Status) (s : State) (hk : Kept pq s) :
    Kept pq (enterFailed way st s) := by
  unfold enterFailed
  try dsimp only
  repeat' first
    | with_reducible assumption
    | with_reducible apply State.modPkg_kept
    | with_reducible apply failFrame_kept
    | with_reducible apply setDevState_kept

/-- `winAdd` keeps the queue, canonical memory and canonical registers. -/
theorem winAdd_kept {pq : List Instr} (row sub obj n : Nat) (s : State) (hk : Kept pq s) :
    Kept pq (winAdd row sub obj n s) := by
  unfold winAdd
  try dsimp only
  repeat' first
    | with_reducible assumption
    | intro _
    | with_reducible apply kept_ite
    | with_reducible apply kept_ite_snd
    | split
    | (with_reducible apply kept_snd; focus assumption)
    | (with_reducible apply kept_trd; focus assumption)
    | dsimp only
    | assumption

/-- `winBump` keeps the queue, canonical memory and canonical registers. -/
theorem winBump_kept {pq : List Instr} (row sub obj : Nat) (s : State) (hk : Kept pq s) :
    Kept pq (winBump row sub obj s) := by
  unfold winBump
  try dsimp only
  repeat' first
    | with_reducible assumption
    | with_reducible apply winAdd_kept

/-- `levelPost` keeps the queue, canonical memory and canonical registers. -/
theorem levelPost_kept {pq : List Instr} (l : Levels) (s : State) (hk : Kept pq s) :
    Kept pq (levelPost l s) := by
  unfold levelPost
  try dsimp only
  repeat' first
    | with_reducible assumption
    | with_reducible apply postEvent_kept
    | intro _
    | with_reducible apply kept_ite
    | with_reducible apply kept_ite_snd
    | split

/-- `escalate` keeps the queue, canonical memory and canonical registers. -/
theorem escalate_kept {pq : List Instr} (l : Levels) (s : State) (hk : Kept pq s) :
    Kept pq (escalate l s) := by
  unfold escalate
  try dsimp only
  repeat' first
    | with_reducible assumption
    | with_reducible apply State.modRes_kept
    | with_reducible apply enterFailed_kept
    | with_reducible apply levelPost_kept
    | intro _
    | with_reducible apply kept_ite

/-- `endCommand` keeps the queue, canonical memory and canonical registers. -/
theorem endCommand_kept {pq : List Instr} (tag : Nat) (st : Status) (value detail : Nat) (s : State) (hk : Kept pq s) :
    Kept pq (endCommand tag st value detail s) := by
  unfold endCommand
  try dsimp only
  repeat' first
    | with_reducible assumption
    | with_reducible apply State.modBob_kept
    | intro _
    | with_reducible apply kept_ite
    | with_reducible apply kept_ite_snd
    | split

/-- `endCommands` keeps the queue, canonical memory and canonical registers. -/
theorem endCommands_kept {pq : List Instr} (st : Status) (y0 : List Nat) (y1 : State) (hk : Kept pq y1) :
    Kept pq (endCommands st y0 y1) := by
  induction y0 generalizing st y1 with
  | nil => exact hk
  | cons x xs ih =>
    unfold endCommands
    try dsimp only
    repeat' first
      | with_reducible assumption
      | apply ih
      | with_reducible apply endCommand_kept

/-- `clientError` keeps the queue, canonical memory and canonical registers. -/
theorem clientError_kept {pq : List Instr} (c : Client) (st : Status) (s : State) (hk : Kept pq s) :
    Kept pq (clientError c st s) := by
  unfold clientError
  try dsimp only
  repeat' first
    | with_reducible assumption
    | with_reducible apply State.modFrm_kept
    | with_reducible apply State.modTag_kept
    | with_reducible apply failFrame_kept
    | intro _
    | with_reducible apply kept_ite
    | with_reducible apply kept_ite_snd
    | split

/-- `stepError` keeps the queue, canonical memory and canonical registers. -/
theorem stepError_kept {pq : List Instr} (i : Nat) (st : Status) (detail : Nat) (s : State) (hk : Kept pq s) :
    Kept pq (stepError i st detail s) := by
  unfold stepError
  try dsimp only
  repeat' first
    | with_reducible assumption
    | with_reducible apply State.modFrm_kept
    | with_reducible apply failFrame_kept

/-- `localCorrected` keeps the queue, canonical memory and canonical registers. -/
theorem localCorrected_kept {pq : List Instr} (die b k : Nat) (s : State) (hk : Kept pq s) :
    Kept pq (localCorrected die b k s) := by
  unfold localCorrected
  try dsimp only
  repeat' first
    | with_reducible assumption
    | with_reducible apply State.modVec_kept
    | with_reducible apply winAdd_kept
    | with_reducible apply escalate_kept
    | intro _

/-- `localUncorrectable` keeps the queue, canonical memory and canonical registers. -/
theorem localUncorrectable_kept {pq : List Instr} (die : Nat) (s : State) (hk : Kept pq s) :
    Kept pq (localUncorrectable die s) := by
  unfold localUncorrectable
  try dsimp only
  repeat' first
    | with_reducible assumption
    | with_reducible apply State.modVec_kept
    | with_reducible apply failFrame_kept
    | with_reducible apply winBump_kept
    | with_reducible apply escalate_kept
    | intro _

end Sys2Proof.Machine
end

