-- ==== Sys2Proof/Laws/KeepMemory.lean ====
section
/-!
SUPPORT. Every operation of Machine/Memory.lean leaves the queue alone and keeps memory and the lanes' registers canonical.
-/

namespace Sys2Proof.Machine

/-- `putBytes` keeps the canonical form. -/
theorem putBytes_wf : ∀ {t : Tab Byte} (a : Nat) (bs : List Byte), tabWf t = true → tabWf (putBytes t a bs) = true
  | _, _, [], ht => ht
  | _, a, _ :: bs, ht => putBytes_wf (a + 1) bs (tput_wf ht)

/-- `writeBytes` keeps the queue and canonical memory. -/
theorem writeBytes_kept {pq : List Instr} (a : Nat) (bs : List Byte) (s : State) (hk : Kept pq s) :
    Kept pq (writeBytes a bs s) := by
  unfold writeBytes
  split
  · exact hk
  · exact ⟨hk.1, putBytes_wf a bs hk.2.1, hk.2.2⟩

/-- `markUndef` keeps the queue, canonical memory and canonical registers. -/
theorem markUndef_kept {pq : List Instr} (base len : Nat) (s : State) (hk : Kept pq s) :
    Kept pq (markUndef base len s) := by
  unfold markUndef
  try dsimp only
  repeat' first
    | with_reducible assumption
    | with_reducible apply State.drawFree_kept
    | intro _
    | with_reducible apply kept_ite
    | with_reducible apply kept_ite_snd
    | split
    | (with_reducible apply kept_snd; focus assumption)
    | (with_reducible apply kept_trd; focus assumption)
    | dsimp only
    | assumption

/-- `endHeld` keeps the queue, canonical memory and canonical registers. -/
theorem endHeld_kept {pq : List Instr} (st : Status) (s : State) (hk : Kept pq s) :
    Kept pq (endHeld st s) := by
  unfold endHeld
  try dsimp only
  repeat' first
    | with_reducible assumption
    | with_reducible apply State.modHnk_kept
    | with_reducible apply clientError_kept
    | (refine foldl_kept ?_ ?_; intro _ _ _)

/-- `loseHank` keeps the queue, canonical memory and canonical registers. -/
theorem loseHank_kept {pq : List Instr} (h : Nat) (s : State) (hk : Kept pq s) :
    Kept pq (loseHank h s) := by
  unfold loseHank
  try dsimp only
  repeat' first
    | with_reducible assumption
    | with_reducible apply State.modPkg_kept
    | with_reducible apply State.modHnk_kept
    | with_reducible apply enterFailed_kept
    | with_reducible apply endCommands_kept
    | with_reducible apply endHeld_kept

/-- `recordUe` keeps the queue, canonical memory and canonical registers. -/
theorem recordUe_kept {pq : List Instr} (block : Nat) (s : State) (hk : Kept pq s) :
    Kept pq (recordUe block s) := by
  unfold recordUe
  try dsimp only
  repeat' first
    | with_reducible assumption
    | with_reducible apply State.modHnk_kept
    | with_reducible apply State.modHank_kept
    | with_reducible apply winBump_kept
    | with_reducible apply escalate_kept
    | with_reducible apply loseHank_kept
    | intro _
    | with_reducible apply kept_ite

/-- `applyCells` keeps the queue, canonical memory and canonical registers. -/
theorem applyCells_kept {pq : List Instr} (c : CellFaults) (s : State) (hk : Kept pq s) :
    Kept pq (applyCells c s) := by
  unfold applyCells
  try dsimp only
  repeat' first
    | with_reducible assumption
    | with_reducible apply State.modVis_kept
    | with_reducible apply State.modRlc_kept
    | (refine foldl_kept ?_ ?_; intro _ _ _)

/-- `meetWords` keeps the queue, canonical memory and canonical registers. -/
theorem meetWords_kept {pq : List Instr} (y0 : List Nat) (y1 : Bool × State) (hk : Kept pq y1.2) :
    Kept pq (meetWords y0 y1).2 := by
  induction y0 generalizing y1 with
  | nil => exact hk
  | cons x xs ih =>
    unfold meetWords
    try dsimp only
    repeat' first
      | with_reducible assumption
      | apply ih
      | with_reducible apply localCorrected_kept
      | with_reducible apply localUncorrectable_kept
      | intro _
      | with_reducible apply kept_ite
      | with_reducible apply kept_ite_snd

/-- `freshWords` keeps the queue, canonical memory and canonical registers. -/
theorem freshWords_kept {pq : List Instr} (a n : Nat) (s : State) (hk : Kept pq s) :
    Kept pq (freshWords a n s) := by
  unfold freshWords
  try dsimp only
  repeat' first
    | with_reducible assumption
    | with_reducible apply State.modVis_kept

/-- `clientsError` keeps the queue, canonical memory and canonical registers. -/
theorem clientsError_kept {pq : List Instr} (st : Status) (y0 : List Client) (y1 : State) (hk : Kept pq y1) :
    Kept pq (clientsError st y0 y1) := by
  induction y0 generalizing st y1 with
  | nil => exact hk
  | cons x xs ih =>
    unfold clientsError
    try dsimp only
    repeat' first
      | with_reducible assumption
      | apply ih
      | with_reducible apply clientError_kept

/-- `wmbFlush` keeps the queue, canonical memory and canonical registers. -/
theorem wmbFlush_kept {pq : List Instr} (e : WmbEntry) (s : State) (hk : Kept pq s) :
    Kept pq (wmbFlush e s) := by
  unfold wmbFlush
  try dsimp only
  repeat' first
    | with_reducible assumption
    | with_reducible apply State.modHnk_kept
    | with_reducible apply recordUe_kept
    | with_reducible apply clientsError_kept
    | intro _
    | with_reducible apply kept_ite

/-- `wmbFlushBlock` keeps the queue, canonical memory and canonical registers. -/
theorem wmbFlushBlock_kept {pq : List Instr} (block : Nat) (s : State) (hk : Kept pq s) :
    Kept pq (wmbFlushBlock block s) := by
  unfold wmbFlushBlock
  try dsimp only
  repeat' first
    | with_reducible assumption
    | with_reducible apply wmbFlush_kept
    | intro _
    | with_reducible apply kept_ite
    | with_reducible apply kept_ite_snd
    | split

/-- `wmbMerge` keeps the queue, canonical memory and canonical registers. -/
theorem wmbMerge_kept {pq : List Instr} (c0 : Client) (block a n : Nat) (s : State) (hk : Kept pq s) :
    Kept pq (wmbMerge c0 block a n s) := by
  unfold wmbMerge
  try dsimp only
  repeat' first
    | with_reducible assumption
    | with_reducible apply State.modHnk_kept
    | with_reducible apply wmbFlush_kept
    | (refine kept_getD ?_ ?_; intro _)
    | intro _
    | with_reducible apply kept_ite

/-- `agentEvict` keeps the queue, canonical memory and canonical registers. -/
theorem agentEvict_kept {pq : List Instr} (line : Nat) (s : State) (hk : Kept pq s) :
    Kept pq (agentEvict line s) := by
  unfold agentEvict
  try dsimp only
  repeat' first
    | with_reducible assumption
    | with_reducible apply State.modHp_kept
    | with_reducible apply State.emit_kept
    | with_reducible apply State.drawFree_kept
    | intro _
    | with_reducible apply kept_ite
    | with_reducible apply kept_ite_snd
    | split

/-- `agentRoom` keeps the queue, canonical memory and canonical registers. -/
theorem agentRoom_kept {pq : List Instr} (line : Nat) (s : State) (hk : Kept pq s) :
    Kept pq (agentRoom line s) := by
  unfold agentRoom
  try dsimp only
  repeat' first
    | with_reducible assumption
    | with_reducible apply State.drawFree_kept
    | with_reducible apply agentEvict_kept
    | intro _
    | with_reducible apply kept_ite

/-- `agentAsk` keeps the queue, canonical memory and canonical registers. -/
theorem agentAsk_kept {pq : List Instr} (who : Option Client) (m : SpillMiss) (s : State) (hk : Kept pq s) :
    Kept pq (agentAsk who m s) := by
  unfold agentAsk
  try dsimp only
  repeat' first
    | with_reducible assumption
    | with_reducible apply State.modHp_kept
    | with_reducible apply State.emit_kept
    | with_reducible apply agentRoom_kept
    | intro _
    | with_reducible apply kept_ite

/-- `agentAskAll` keeps the queue, canonical memory and canonical registers. -/
theorem agentAskAll_kept {pq : List Instr} (who : Option Client) (y0 : List SpillMiss) (y1 : State) (hk : Kept pq y1) :
    Kept pq (agentAskAll who y0 y1) := by
  induction y0 generalizing who y1 with
  | nil => exact hk
  | cons x xs ih =>
    unfold agentAskAll
    try dsimp only
    repeat' first
      | with_reducible assumption
      | apply ih
      | with_reducible apply agentAsk_kept

/-- `agentTake` keeps the queue, canonical memory and canonical registers. -/
theorem agentTake_kept {pq : List Instr} (line : Nat) (write : Bool) (s : State) (hk : Kept pq s) :
    Kept pq (agentTake line write s) := by
  unfold agentTake
  try dsimp only
  repeat' first
    | with_reducible assumption
    | with_reducible apply State.modHp_kept

/-- `agentFetch` keeps the queue, canonical memory and canonical registers. -/
theorem agentFetch_kept {pq : List Instr} (line : Nat) (write full : Bool) (s : State) (hk : Kept pq s) :
    Kept pq (agentFetch line write full s) := by
  unfold agentFetch
  try dsimp only
  repeat' first
    | with_reducible assumption
    | with_reducible apply State.modHp_kept
    | with_reducible apply agentAsk_kept

/-- `agentTouch` keeps the queue, canonical memory and canonical registers. -/
theorem agentTouch_kept {pq : List Instr} (line : Nat) (write full : Bool) (s : State) (hk : Kept pq s) :
    Kept pq (agentTouch line write full s) := by
  unfold agentTouch
  try dsimp only
  repeat' first
    | with_reducible assumption
    | with_reducible apply State.modHp_kept
    | with_reducible apply agentTake_kept
    | with_reducible apply agentFetch_kept
    | intro _
    | with_reducible apply kept_ite
    | with_reducible apply kept_ite_snd
    | split

/-- `spillGate` keeps the queue, canonical memory and canonical registers. -/
theorem spillGate_kept {pq : List Instr} (c : Client) (f : State → State) (s : State) (hf : ∀ x0, Kept pq x0 → Kept pq (f x0)) (hk : Kept pq s) :
    Kept pq (spillGate c f s) := by
  unfold spillGate
  try dsimp only
  repeat' first
    | with_reducible assumption
    | with_reducible apply State.modHp_kept
    | with_reducible apply agentAskAll_kept
    | apply hf
    | intro _
    | with_reducible apply kept_ite

/-- `forgetSpill` keeps the queue, canonical memory and canonical registers. -/
theorem forgetSpill_kept {pq : List Instr} (p : Client → Bool) (s : State) (hk : Kept pq s) :
    Kept pq (forgetSpill p s) := by
  unfold forgetSpill
  try dsimp only
  repeat' first
    | with_reducible assumption
    | with_reducible apply State.modHp_kept

/-- `noteSpill` keeps the queue, canonical memory and canonical registers. -/
theorem noteSpill_kept {pq : List Instr} (st : Status) (s : State) (hk : Kept pq s) :
    Kept pq (noteSpill st s) := by
  unfold noteSpill
  try dsimp only
  repeat' first
    | with_reducible assumption
    | with_reducible apply State.modHp_kept
    | intro _
    | with_reducible apply kept_ite

/-- `recordUes` keeps the queue, canonical memory and canonical registers. -/
theorem recordUes_kept {pq : List Instr} (y0 : List Nat) (y1 : State) (hk : Kept pq y1) :
    Kept pq (recordUes y0 y1) := by
  induction y0 generalizing y1 with
  | nil => exact hk
  | cons x xs ih =>
    unfold recordUes
    try dsimp only
    repeat' first
      | with_reducible assumption
      | apply ih
      | with_reducible apply recordUe_kept

/-- `touchSpilled` keeps the queue, canonical memory and canonical registers. -/
theorem touchSpilled_kept {pq : List Instr} (write : Bool) (a n : Nat) (y0 : List Nat) (y1 : State) (hk : Kept pq y1) :
    Kept pq (touchSpilled write a n y0 y1) := by
  induction y0 generalizing write a n y1 with
  | nil => exact hk
  | cons x xs ih =>
    unfold touchSpilled
    try dsimp only
    repeat' first
      | with_reducible assumption
      | apply ih
      | with_reducible apply agentTouch_kept
      | intro _
      | with_reducible apply kept_ite

/-- `memRead` keeps the queue, canonical memory and canonical registers. -/
theorem memRead_kept {pq : List Instr} (a n : Nat) (s : State) (hk : Kept pq s) :
    Kept pq (memRead a n s).s := by
  unfold memRead
  try dsimp only
  repeat' first
    | with_reducible assumption
    | with_reducible apply meetWords_kept
    | with_reducible apply noteSpill_kept
    | with_reducible apply recordUes_kept
    | with_reducible apply touchSpilled_kept
    | intro _
    | with_reducible apply kept_ite
    | with_reducible apply kept_ite_snd
    | split

/-- `streamBlock` keeps the queue, canonical memory and canonical registers. -/
theorem streamBlock_kept {pq : List Instr} (c : Client) (block a n : Nat) (s : State) (hk : Kept pq s) :
    Kept pq (streamBlock c block a n s) := by
  unfold streamBlock
  try dsimp only
  repeat' first
    | with_reducible assumption
    | with_reducible apply State.modHnk_kept
    | with_reducible apply wmbMerge_kept
    | intro _
    | with_reducible apply kept_ite

/-- `streamBlocks` keeps the queue, canonical memory and canonical registers. -/
theorem streamBlocks_kept {pq : List Instr} (c : Client) (a n : Nat) (y0 : List Nat) (y1 : State) (hk : Kept pq y1) :
    Kept pq (streamBlocks c a n y0 y1) := by
  induction y0 generalizing c a n y1 with
  | nil => exact hk
  | cons x xs ih =>
    unfold streamBlocks
    try dsimp only
    repeat' first
      | with_reducible assumption
      | apply ih
      | with_reducible apply streamBlock_kept

/-- `memWriteAs` keeps the queue, canonical memory and canonical registers. -/
theorem memWriteAs_kept {pq : List Instr} (c : Client) (a : Nat) (bs : List Byte) (s : State) (hk : Kept pq s) :
    Kept pq (memWriteAs c a bs s).s := by
  unfold memWriteAs
  try dsimp only
  repeat' first
    | with_reducible assumption
    | with_reducible apply writeBytes_kept
    | with_reducible apply freshWords_kept
    | with_reducible apply noteSpill_kept
    | with_reducible apply touchSpilled_kept
    | with_reducible apply streamBlocks_kept
    | intro _
    | with_reducible apply kept_ite
    | with_reducible apply kept_ite_snd
    | split

/-- `memWrite` keeps the queue, canonical memory and canonical registers. -/
theorem memWrite_kept {pq : List Instr} (a : Nat) (bs : List Byte) (s : State) (hk : Kept pq s) :
    Kept pq (memWrite a bs s).s := by
  unfold memWrite
  try dsimp only
  repeat' first
    | with_reducible assumption
    | with_reducible apply memWriteAs_kept

/-- `narrowWrite` keeps the queue, canonical memory and canonical registers. -/
theorem narrowWrite_kept {pq : List Instr} (a : Nat) (bs : List Byte) (s : State) (hk : Kept pq s) :
    Kept pq (narrowWrite a bs s).s := by
  unfold narrowWrite
  try dsimp only
  repeat' first
    | with_reducible assumption
    | with_reducible apply writeBytes_kept
    | with_reducible apply recordUe_kept
    | with_reducible apply freshWords_kept
    | with_reducible apply wmbFlushBlock_kept
    | with_reducible apply noteSpill_kept
    | with_reducible apply touchSpilled_kept
    | intro _
    | with_reducible apply kept_ite
    | with_reducible apply kept_ite_snd
    | split

/-- `narrowRead` keeps the queue, canonical memory and canonical registers. -/
theorem narrowRead_kept {pq : List Instr} (a n : Nat) (s : State) (hk : Kept pq s) :
    Kept pq (narrowRead a n s).s := by
  unfold narrowRead
  try dsimp only
  repeat' first
    | with_reducible assumption
    | with_reducible apply wmbFlushBlock_kept
    | with_reducible apply memRead_kept
    | intro _
    | with_reducible apply kept_ite

/-- `wmbFlushAll` keeps the queue, canonical memory and canonical registers. -/
theorem wmbFlushAll_kept {pq : List Instr} (y0 : List Nat) (y1 : State) (hk : Kept pq y1) :
    Kept pq (wmbFlushAll y0 y1) := by
  induction y0 generalizing y1 with
  | nil => exact hk
  | cons x xs ih =>
    unfold wmbFlushAll
    try dsimp only
    repeat' first
      | with_reducible assumption
      | apply ih
      | with_reducible apply wmbFlushBlock_kept

/-- `narrowSpan` keeps the queue, canonical memory and canonical registers. -/
theorem narrowSpan_kept {pq : List Instr} (a n : Nat) (s : State) (hk : Kept pq s) :
    Kept pq (narrowSpan a n s).s := by
  unfold narrowSpan
  try dsimp only
  repeat' first
    | with_reducible assumption
    | with_reducible apply memRead_kept
    | with_reducible apply wmbFlushAll_kept

/-- `memAtomic` keeps the queue, canonical memory and canonical registers. -/
theorem memAtomic_kept {pq : List Instr} (a : Nat) (op : AtomicOp) (s : State) (hk : Kept pq s) :
    Kept pq (memAtomic a op s).s := by
  unfold memAtomic
  try dsimp only
  repeat' first
    | with_reducible assumption
    | with_reducible apply touchSpilled_kept
    | with_reducible apply narrowWrite_kept
    | with_reducible apply narrowRead_kept
    | intro _
    | with_reducible apply kept_ite
    | with_reducible apply kept_ite_snd
    | split

/-- `takeLost` keeps the queue, canonical memory and canonical registers. -/
theorem takeLost_kept {pq : List Instr} (c : Client) (a n : Nat) (s : State) (hk : Kept pq s) :
    Kept pq (takeLost c a n s).2 := by
  unfold takeLost
  try dsimp only
  repeat' first
    | with_reducible assumption
    | with_reducible apply State.modHnk_kept
    | intro _
    | with_reducible apply kept_ite
    | with_reducible apply kept_ite_snd

/-- `fabricRead` keeps the queue, canonical memory and canonical registers. -/
theorem fabricRead_kept {pq : List Instr} (a n : Nat) (s : State) (hk : Kept pq s) :
    Kept pq (fabricRead a n s).s := by
  unfold fabricRead
  try dsimp only
  repeat' first
    | with_reducible assumption
    | with_reducible apply memRead_kept
    | with_reducible apply takeLost_kept
    | intro _
    | with_reducible apply kept_ite
    | with_reducible apply kept_ite_snd
    | split

/-- `fabricWrite` keeps the queue, canonical memory and canonical registers. -/
theorem fabricWrite_kept {pq : List Instr} (a : Nat) (bs : List Byte) (s : State) (hk : Kept pq s) :
    Kept pq (fabricWrite a bs s).s := by
  unfold fabricWrite
  try dsimp only
  repeat' first
    | with_reducible assumption
    | with_reducible apply memWriteAs_kept
    | with_reducible apply wmbFlushAll_kept
    | with_reducible apply takeLost_kept
    | intro _
    | with_reducible apply kept_ite
    | with_reducible apply kept_ite_snd
    | split

/-- `issueWrite` keeps the queue, canonical memory and canonical registers. -/
theorem issueWrite_kept {pq : List Instr} (w : HeldWrite) (s : State) (hk : Kept pq s) :
    Kept pq (issueWrite w s) := by
  unfold issueWrite
  try dsimp only
  repeat' first
    | with_reducible assumption
    | with_reducible apply State.modVis_kept

/-- `undefWrites` keeps the queue, canonical memory and canonical registers. -/
theorem undefWrites_kept {pq : List Instr} (y0 : List (Nat × Nat)) (y1 : State) (hk : Kept pq y1) :
    Kept pq (undefWrites y0 y1) := by
  induction y0 generalizing y1 with
  | nil => exact hk
  | cons x xs ih =>
    unfold undefWrites
    try dsimp only
    repeat' first
      | with_reducible assumption
      | apply ih
      | with_reducible apply markUndef_kept

/-- `noteWrite` keeps the queue, canonical memory and canonical registers. -/
theorem noteWrite_kept {pq : List Instr} (c : Client) (a n : Nat) (s : State) (hk : Kept pq s) :
    Kept pq (noteWrite c a n s) := by
  unfold noteWrite
  try dsimp only
  repeat' first
    | with_reducible assumption
    | with_reducible apply State.modFrm_kept
    | intro _
    | with_reducible apply kept_ite
    | with_reducible apply kept_ite_snd
    | split

/-- `performWrite` keeps the queue, canonical memory and canonical registers. -/
theorem performWrite_kept {pq : List Instr} (w : HeldWrite) (s : State) (hk : Kept pq s) :
    Kept pq (performWrite w s) := by
  unfold performWrite
  try dsimp only
  repeat' first
    | with_reducible assumption
    | with_reducible apply clientError_kept
    | with_reducible apply memWriteAs_kept
    | with_reducible apply narrowWrite_kept
    | with_reducible apply noteWrite_kept
    | intro _
    | with_reducible apply kept_ite
    | with_reducible apply kept_ite_snd
    | split

/-- `performAll` keeps the queue, canonical memory and canonical registers. -/
theorem performAll_kept {pq : List Instr} (y0 : List HeldWrite) (y1 : State) (hk : Kept pq y1) :
    Kept pq (performAll y0 y1) := by
  induction y0 generalizing y1 with
  | nil => exact hk
  | cons x xs ih =>
    unfold performAll
    try dsimp only
    repeat' first
      | with_reducible assumption
      | apply ih
      | with_reducible apply performWrite_kept

/-- `performHeld` keeps the queue, canonical memory and canonical registers. -/
theorem performHeld_kept {pq : List Instr} (p : HeldWrite → Bool) (s : State) (hk : Kept pq s) :
    Kept pq (performHeld p s) := by
  unfold performHeld
  try dsimp only
  repeat' first
    | with_reducible assumption
    | with_reducible apply State.modVis_kept
    | with_reducible apply performAll_kept

/-- `ownFirst` keeps the queue, canonical memory and canonical registers. -/
theorem ownFirst_kept {pq : List Instr} (e : Engine) (a n : Nat) (s : State) (hk : Kept pq s) :
    Kept pq (ownFirst e a n s) := by
  unfold ownFirst
  try dsimp only
  repeat' first
    | with_reducible assumption
    | with_reducible apply performHeld_kept

/-- `engineRead` keeps the queue, canonical memory and canonical registers. -/
theorem engineRead_kept {pq : List Instr} (e : Engine) (a n : Nat) (s : State) (hk : Kept pq s) :
    Kept pq (engineRead e a n s).s := by
  unfold engineRead
  try dsimp only
  repeat' first
    | with_reducible assumption
    | with_reducible apply memRead_kept
    | with_reducible apply ownFirst_kept

end Sys2Proof.Machine
end

