-- ==== Sys2Proof/Laws/KeepMailbox.lean ====
section
/-!
SUPPORT. Every operation of Machine/Mailbox.lean leaves the queue alone and keeps memory and the lanes' registers canonical.
-/

namespace Sys2Proof.Machine

/-- `completeMbx` keeps the queue, canonical memory and canonical registers. -/
theorem completeMbx_kept {pq : List Instr} (m : Nat) (st : Status) (detail : Nat) (fields : List Byte) (s : State) (hk : Kept pq s) :
    Kept pq (completeMbx m st detail fields s) := by
  unfold completeMbx
  try dsimp only
  repeat' first
    | with_reducible assumption
    | with_reducible apply State.modFly_kept
    | with_reducible apply State.modMbx_kept
    | with_reducible apply sendVector_kept
    | intro _
    | with_reducible apply kept_ite
    | with_reducible apply kept_ite_snd
    | split

/-- `failMbx` keeps the queue, canonical memory and canonical registers. -/
theorem failMbx_kept {pq : List Instr} (m : Nat) (st : Status) (detail : Nat) (s : State) (hk : Kept pq s) :
    Kept pq (failMbx m st detail s) := by
  unfold failMbx
  try dsimp only
  repeat' first
    | with_reducible assumption
    | with_reducible apply completeMbx_kept

/-- `takeTurn` keeps the queue, canonical memory and canonical registers. -/
theorem takeTurn_kept {pq : List Instr} (m : Nat) (s : State) (hk : Kept pq s) :
    Kept pq (takeTurn m s) := by
  unfold takeTurn
  try dsimp only
  repeat' first
    | with_reducible assumption
    | with_reducible apply State.modFly_kept
    | intro _
    | with_reducible apply kept_ite

/-- `countStep` keeps the queue, canonical memory and canonical registers. -/
theorem countStep_kept {pq : List Instr} (m : Nat) (s : State) (hk : Kept pq s) :
    Kept pq (countStep m s) := by
  unfold countStep
  try dsimp only
  repeat' first
    | with_reducible assumption
    | with_reducible apply State.modFly_kept
    | with_reducible apply State.modMbx_kept
    | with_reducible apply takeTurn_kept

/-- `undoCommand` keeps the queue, canonical memory and canonical registers. -/
theorem undoCommand_kept {pq : List Instr} (code : Nat) (s : State) (hk : Kept pq s) :
    Kept pq (undoCommand code s) := by
  unfold undoCommand
  try dsimp only
  repeat' first
    | with_reducible assumption
    | with_reducible apply State.modTop_kept
    | with_reducible apply State.modRes_kept
    | with_reducible apply State.modSlot_kept
    | intro _
    | with_reducible apply kept_ite
    | with_reducible apply kept_ite_snd
    | split

/-- `casbomi` keeps the queue, canonical memory and canonical registers. -/
theorem casbomi_kept {pq : List Instr} (code m : Nat) (f : MbxReq → State → State) (s : State) (hf : ∀ x0 x1, Kept pq x1 → Kept pq (f x0 x1)) (hk : Kept pq s) :
    Kept pq (casbomi code m f s) := by
  unfold casbomi
  try dsimp only
  repeat' first
    | with_reducible assumption
    | with_reducible apply failMbx_kept
    | with_reducible apply countStep_kept
    | with_reducible apply undoCommand_kept
    | apply hf
    | intro _
    | with_reducible apply kept_ite
    | with_reducible apply kept_ite_snd
    | split

/-- `goMbx` keeps the queue, canonical memory and canonical registers. -/
theorem goMbx_kept {pq : List Instr} (m : Nat) (s : State) (hk : Kept pq s) :
    Kept pq (goMbx m s) := by
  unfold goMbx
  try dsimp only
  repeat' first
    | with_reducible assumption
    | with_reducible apply State.modFly_kept
    | with_reducible apply State.modMbx_kept
    | intro _
    | with_reducible apply kept_ite

/-- `execMbxGo` keeps the queue, canonical memory and canonical registers. -/
theorem execMbxGo_kept {pq : List Instr} (mbx : MbxId) (s : State) (hk : Kept pq s) :
    KeptOut pq (execMbxGo mbx s) := by
  unfold execMbxGo
  try dsimp only
  repeat' first
    | with_reducible assumption
    | with_reducible refine keptOut_next ?_
    | exact keptOut_fault
    | with_reducible refine keptOut_ite ?_ ?_
    | with_reducible apply goMbx_kept

/-- `cancelMbx` keeps the queue, canonical memory and canonical registers. -/
theorem cancelMbx_kept {pq : List Instr} (m : Nat) (s : State) (hk : Kept pq s) :
    Kept pq (cancelMbx m s) := by
  unfold cancelMbx
  try dsimp only
  repeat' first
    | with_reducible assumption
    | with_reducible apply State.modMbx_kept
    | with_reducible apply failMbx_kept
    | with_reducible apply undoCommand_kept
    | intro _
    | with_reducible apply kept_ite
    | with_reducible apply kept_ite_snd
    | split

/-- `execMbxCancel` keeps the queue, canonical memory and canonical registers. -/
theorem execMbxCancel_kept {pq : List Instr} (mbx : MbxId) (s : State) (hk : Kept pq s) :
    KeptOut pq (execMbxCancel mbx s) := by
  unfold execMbxCancel
  try dsimp only
  repeat' first
    | with_reducible assumption
    | with_reducible refine keptOut_next ?_
    | exact keptOut_fault
    | with_reducible refine keptOut_ite ?_ ?_
    | with_reducible apply cancelMbx_kept
    | intro _
    | with_reducible apply kept_ite

/-- `execMailboxStep` keeps the queue, canonical memory and canonical registers. -/
theorem execMailboxStep_kept {pq : List Instr} (s : State) (hk : Kept pq s) :
    KeptOut pq (execMailboxStep s) := by
  unfold execMailboxStep
  try dsimp only
  repeat' first
    | with_reducible assumption
    | with_reducible refine keptOut_next ?_
    | exact keptOut_fault
    | with_reducible refine keptOut_ite ?_ ?_
    | with_reducible apply failMbx_kept
    | with_reducible apply countStep_kept
    | with_reducible apply undoCommand_kept
    | intro _
    | with_reducible apply kept_ite
    | with_reducible apply kept_ite_snd
    | split

/-- `evtHeadWrite` keeps the queue, canonical memory and canonical registers. -/
theorem evtHeadWrite_kept {pq : List Instr} (m v : Nat) (s : State) (hk : Kept pq s) :
    Kept pq (evtHeadWrite m v s) := by
  unfold evtHeadWrite
  try dsimp only
  repeat' first
    | with_reducible assumption
    | with_reducible apply State.modMbx_kept
    | intro _
    | with_reducible apply kept_ite

/-- `execMbxEvtHeadWrite` keeps the queue, canonical memory and canonical registers. -/
theorem execMbxEvtHeadWrite_kept {pq : List Instr} (mbx : MbxId) (value : Word) (s : State) (hk : Kept pq s) :
    KeptOut pq (execMbxEvtHeadWrite mbx value s) := by
  unfold execMbxEvtHeadWrite
  try dsimp only
  repeat' first
    | with_reducible assumption
    | with_reducible refine keptOut_next ?_
    | exact keptOut_fault
    | with_reducible refine keptOut_ite ?_ ?_
    | with_reducible apply evtHeadWrite_kept

/-- `writePayload` keeps the queue, canonical memory and canonical registers. -/
theorem writePayload_kept {pq : List Instr} (m off : Nat) (bs : List Byte) (s : State) (hk : Kept pq s) :
    Kept pq (writePayload m off bs s) := by
  unfold writePayload
  try dsimp only
  repeat' first
    | with_reducible assumption
    | with_reducible apply State.modMbx_kept

/-- `execFlyerHeartbeat` keeps the queue, canonical memory and canonical registers. -/
theorem execFlyerHeartbeat_kept {pq : List Instr} (s : State) (hk : Kept pq s) :
    KeptOut pq (execFlyerHeartbeat s) := by
  unfold execFlyerHeartbeat
  try dsimp only
  repeat' first
    | with_reducible assumption
    | with_reducible refine keptOut_next ?_
    | exact keptOut_fault
    | with_reducible refine keptOut_ite ?_ ?_
    | with_reducible apply State.modFly_kept
    | intro _
    | with_reducible apply kept_ite

/-- `takeOver` keeps the queue, canonical memory and canonical registers. -/
theorem takeOver_kept {pq : List Instr} (row count : Nat) (s : State) (hk : Kept pq s) :
    Kept pq (takeOver row count s) := by
  unfold takeOver
  try dsimp only
  repeat' first
    | with_reducible assumption
    | with_reducible apply State.modFly_kept
    | with_reducible apply noteHold_kept
    | with_reducible apply escalate_kept
    | intro _
    | with_reducible apply kept_ite

/-- `triggerReset` keeps the queue, canonical memory and canonical registers. -/
theorem triggerReset_kept {pq : List Instr} (dom : ResetDomain) (src : ResetSource) (s : State) (hk : Kept pq s) :
    Kept pq (triggerReset dom src s) := by
  unfold triggerReset
  try dsimp only
  repeat' first
    | with_reducible assumption
    | with_reducible apply State.modPkg_kept
    | intro _
    | with_reducible apply kept_ite

/-- `execStandbyTakeover` keeps the queue, canonical memory and canonical registers. -/
theorem execStandbyTakeover_kept {pq : List Instr} (s : State) (hk : Kept pq s) :
    KeptOut pq (execStandbyTakeover s) := by
  unfold execStandbyTakeover
  try dsimp only
  repeat' first
    | with_reducible assumption
    | with_reducible refine keptOut_next ?_
    | exact keptOut_fault
    | with_reducible refine keptOut_ite ?_ ?_
    | with_reducible apply winBump_kept
    | with_reducible apply takeOver_kept
    | intro _
    | with_reducible apply kept_ite

/-- `watchdogAlone` keeps the queue, canonical memory and canonical registers. -/
theorem watchdogAlone_kept {pq : List Instr} (s : State) (hk : Kept pq s) :
    Kept pq (watchdogAlone s) := by
  unfold watchdogAlone
  try dsimp only
  repeat' first
    | with_reducible assumption
    | with_reducible apply winBump_kept
    | with_reducible apply escalate_kept
    | with_reducible apply triggerReset_kept
    | intro _
    | with_reducible apply kept_ite

/-- `execWatchdogExpiry` keeps the queue, canonical memory and canonical registers. -/
theorem execWatchdogExpiry_kept {pq : List Instr} (s : State) (hk : Kept pq s) :
    KeptOut pq (execWatchdogExpiry s) := by
  unfold execWatchdogExpiry
  try dsimp only
  repeat' first
    | with_reducible assumption
    | with_reducible refine keptOut_next ?_
    | exact keptOut_fault
    | with_reducible refine keptOut_ite ?_ ?_
    | with_reducible apply winBump_kept
    | with_reducible apply takeOver_kept
    | with_reducible apply watchdogAlone_kept
    | intro _
    | with_reducible apply kept_ite

/-- `execStandbyLost` keeps the queue, canonical memory and canonical registers. -/
theorem execStandbyLost_kept {pq : List Instr} (s : State) (hk : Kept pq s) :
    KeptOut pq (execStandbyLost s) := by
  unfold execStandbyLost
  try dsimp only
  repeat' first
    | with_reducible assumption
    | with_reducible refine keptOut_next ?_
    | exact keptOut_fault
    | with_reducible refine keptOut_ite ?_ ?_
    | with_reducible apply State.modFly_kept
    | intro _
    | with_reducible apply kept_ite

/-- `sramError` keeps the queue, canonical memory and canonical registers. -/
theorem sramError_kept {pq : List Instr} (active bad : Bool) (s : State) (hk : Kept pq s) :
    Kept pq (sramError active bad s) := by
  unfold sramError
  try dsimp only
  repeat' first
    | with_reducible assumption
    | with_reducible apply State.modFly_kept
    | with_reducible apply State.modRes_kept
    | with_reducible apply winBump_kept
    | with_reducible apply escalate_kept
    | with_reducible apply takeOver_kept
    | with_reducible apply triggerReset_kept
    | intro _
    | with_reducible apply kept_ite

/-- `execFlyerSramEcc` keeps the queue, canonical memory and canonical registers. -/
theorem execFlyerSramEcc_kept {pq : List Instr} (active uncorrectable : Bool) (s : State) (hk : Kept pq s) :
    KeptOut pq (execFlyerSramEcc active uncorrectable s) := by
  unfold execFlyerSramEcc
  try dsimp only
  repeat' first
    | with_reducible assumption
    | with_reducible refine keptOut_next ?_
    | exact keptOut_fault
    | with_reducible refine keptOut_ite ?_ ?_
    | with_reducible apply sramError_kept
    | intro _
    | with_reducible apply kept_ite

/-- `execDevInfo` keeps the queue, canonical memory and canonical registers. -/
theorem execDevInfo_kept {pq : List Instr} (mbx : MbxId) (s : State) (hk : Kept pq s) :
    KeptOut pq (execDevInfo mbx s) := by
  unfold execDevInfo
  try dsimp only
  repeat' first
    | with_reducible assumption
    | with_reducible refine keptOut_next ?_
    | exact keptOut_fault
    | with_reducible refine keptOut_ite ?_ ?_
    | with_reducible apply completeMbx_kept
    | with_reducible apply casbomi_kept
    | intro _

/-- `mbxAssign` keeps the queue, canonical memory and canonical registers. -/
theorem mbxAssign_kept {pq : List Instr} (m : Nat) (r : MbxReq) (s : State) (hk : Kept pq s) :
    Kept pq (mbxAssign m r s) := by
  unfold mbxAssign
  try dsimp only
  repeat' first
    | with_reducible assumption
    | with_reducible apply State.modMbx_kept
    | with_reducible apply completeMbx_kept
    | with_reducible apply failMbx_kept
    | intro _
    | with_reducible apply kept_ite
    | with_reducible apply kept_ite_snd
    | split

/-- `execMbxAssign` keeps the queue, canonical memory and canonical registers. -/
theorem execMbxAssign_kept {pq : List Instr} (mbx : MbxId) (s : State) (hk : Kept pq s) :
    KeptOut pq (execMbxAssign mbx s) := by
  unfold execMbxAssign
  try dsimp only
  repeat' first
    | with_reducible assumption
    | with_reducible refine keptOut_next ?_
    | exact keptOut_fault
    | with_reducible refine keptOut_ite ?_ ?_
    | with_reducible apply casbomi_kept
    | with_reducible apply mbxAssign_kept

/-- `execDevFeed` keeps the queue, canonical memory and canonical registers. -/
theorem execDevFeed_kept {pq : List Instr} (mbx : MbxId) (s : State) (hk : Kept pq s) :
    KeptOut pq (execDevFeed mbx s) := by
  unfold execDevFeed
  try dsimp only
  repeat' first
    | with_reducible assumption
    | with_reducible refine keptOut_next ?_
    | exact keptOut_fault
    | with_reducible refine keptOut_ite ?_ ?_
    | with_reducible apply State.modTop_kept
    | with_reducible apply completeMbx_kept
    | with_reducible apply failMbx_kept
    | with_reducible apply casbomi_kept
    | intro _
    | with_reducible apply kept_ite

end Sys2Proof.Machine
end

