-- ==== Sys2Proof/Laws/KeepOperands.lean ====
section
/-!
SUPPORT. Every operation of Machine/Operands.lean leaves the queue alone and keeps memory and the lanes' registers canonical.
-/

namespace Sys2Proof.Machine

/-- `noteStale` keeps the queue, canonical memory and canonical registers. -/
theorem noteStale_kept {pq : List Instr} (st : Status) (s : State) (hk : Kept pq s) :
    Kept pq (noteStale st s) := by
  unfold noteStale
  try dsimp only
  repeat' first
    | with_reducible assumption
    | with_reducible apply State.modBob_kept
    | intro _
    | with_reducible apply kept_ite

end Sys2Proof.Machine
end

