-- ==== Sys2Proof/Laws/KeepAccess.lean ====
section
/-!
SUPPORT. Every operation of Machine/Access.lean leaves the queue alone and keeps memory and the lanes' registers canonical.
-/

namespace Sys2Proof.Machine

/-- `stackCorrected` keeps the queue, canonical memory and canonical registers. -/
theorem stackCorrected_kept {pq : List Instr} (h n : Nat) (s : State) (hk : Kept pq s) :
    Kept pq (stackCorrected h n s) := by
  unfold stackCorrected
  try dsimp only
  repeat' first
    | with_reducible assumption
    | with_reducible apply winAdd_kept

/-- `blocksFail` keeps the queue, canonical memory and canonical registers. -/
theorem blocksFail_kept {pq : List Instr} (y0 : List Nat) (y1 : State) (hk : Kept pq y1) :
    Kept pq (blocksFail y0 y1) := by
  induction y0 generalizing y1 with
  | nil => exact hk
  | cons x xs ih =>
    unfold blocksFail
    try dsimp only
    repeat' first
      | with_reducible assumption
      | apply ih
      | with_reducible apply State.modHnk_kept

/-- `countCorrected` keeps the queue, canonical memory and canonical registers. -/
theorem countCorrected_kept {pq : List Instr} (y0 : List Nat) (y1 : State) (hk : Kept pq y1) :
    Kept pq (countCorrected y0 y1) := by
  induction y0 generalizing y1 with
  | nil => exact hk
  | cons x xs ih =>
    unfold countCorrected
    try dsimp only
    repeat' first
      | with_reducible assumption
      | apply ih
      | with_reducible apply stackCorrected_kept

/-- `noteCells` keeps the queue, canonical memory and canonical registers. -/
theorem noteCells_kept {pq : List Instr} (a : MemAccess) (s : State) (hk : Kept pq s) :
    Kept pq (noteCells a s) := by
  unfold noteCells
  try dsimp only
  repeat' first
    | with_reducible assumption
    | with_reducible apply applyCells_kept
    | with_reducible apply blocksFail_kept
    | with_reducible apply countCorrected_kept

/-- `arriveWrite` keeps the queue, canonical memory and canonical registers. -/
theorem arriveWrite_kept {pq : List Instr} (w : HeldWrite) (s : State) (hk : Kept pq s) :
    Kept pq (arriveWrite w s) := by
  unfold arriveWrite
  try dsimp only
  repeat' first
    | with_reducible assumption
    | with_reducible apply State.modVis_kept
    | with_reducible apply performWrite_kept
    | intro _
    | with_reducible apply kept_ite

/-- `performAccess` keeps the queue, canonical memory and canonical registers. -/
theorem performAccess_kept {pq : List Instr} (narrow : Bool) (a : MemAccess) (s : State) (hk : Kept pq s) :
    Kept pq (performAccess narrow a s) := by
  unfold performAccess
  try dsimp only
  repeat' first
    | with_reducible assumption
    | with_reducible apply clientError_kept
    | with_reducible apply memRead_kept
    | with_reducible apply narrowRead_kept
    | with_reducible apply ownFirst_kept
    | with_reducible apply noteCells_kept
    | with_reducible apply arriveWrite_kept
    | intro _
    | with_reducible apply kept_ite
    | with_reducible apply kept_ite_snd
    | split

/-- `arrive` keeps the queue, canonical memory and canonical registers. -/
theorem arrive_kept {pq : List Instr} (narrow : Bool) (a : MemAccess) (s : State) (hk : Kept pq s) :
    Kept pq (arrive narrow a s) := by
  unfold arrive
  try dsimp only
  repeat' first
    | with_reducible assumption
    | with_reducible apply State.modHnk_kept
    | with_reducible apply performAccess_kept
    | intro _
    | with_reducible apply kept_ite

/-- `arriveAll` keeps the queue, canonical memory and canonical registers. -/
theorem arriveAll_kept {pq : List Instr} (y0 : List (Bool × MemAccess)) (y1 : State) (hk : Kept pq y1) :
    Kept pq (arriveAll y0 y1) := by
  induction y0 generalizing y1 with
  | nil => exact hk
  | cons x xs ih =>
    unfold arriveAll
    try dsimp only
    repeat' first
      | with_reducible assumption
      | apply ih
      | with_reducible apply arrive_kept

/-- `resumeHeld` keeps the queue, canonical memory and canonical registers. -/
theorem resumeHeld_kept {pq : List Instr} (s : State) (hk : Kept pq s) :
    Kept pq (resumeHeld s) := by
  unfold resumeHeld
  try dsimp only
  repeat' first
    | with_reducible assumption
    | with_reducible apply State.modHnk_kept
    | with_reducible apply arriveAll_kept

end Sys2Proof.Machine
end

