-- ==== Sys2Proof/Laws/KeepPackage.lean ====
section
/-!
SUPPORT. Every operation of Machine/Package.lean leaves the queue alone and keeps memory and the lanes' registers canonical.
-/

namespace Sys2Proof.Machine

/-- `execOpTransitionRequest` keeps the queue, canonical memory and canonical registers. -/
theorem execOpTransitionRequest_kept {pq : List Instr} (die : CDie) (op : Fin 8) (s : State) (hk : Kept pq s) :
    KeptOut pq (execOpTransitionRequest die op s) := by
  unfold execOpTransitionRequest
  try dsimp only
  repeat' first
    | with_reducible assumption
    | with_reducible refine keptOut_next ?_
    | exact keptOut_fault
    | with_reducible refine keptOut_ite ?_ ?_
    | with_reducible apply State.modOp_kept

/-- `execTargetLoopLock` keeps the queue, canonical memory and canonical registers. -/
theorem execTargetLoopLock_kept {pq : List Instr} (die : CDie) (s : State) (hk : Kept pq s) :
    KeptOut pq (execTargetLoopLock die s) := by
  unfold execTargetLoopLock
  try dsimp only
  repeat' first
    | with_reducible assumption
    | with_reducible refine keptOut_next ?_
    | exact keptOut_fault
    | with_reducible refine keptOut_ite ?_ ?_
    | with_reducible apply State.modOp_kept

/-- `execVoltageRiseComplete` keeps the queue, canonical memory and canonical registers. -/
theorem execVoltageRiseComplete_kept {pq : List Instr} (die : CDie) (s : State) (hk : Kept pq s) :
    KeptOut pq (execVoltageRiseComplete die s) := by
  unfold execVoltageRiseComplete
  try dsimp only
  repeat' first
    | with_reducible assumption
    | with_reducible refine keptOut_next ?_
    | exact keptOut_fault
    | with_reducible refine keptOut_ite ?_ ?_
    | with_reducible apply State.modOp_kept

/-- `execClockSwitchPauseEnd` keeps the queue, canonical memory and canonical registers. -/
theorem execClockSwitchPauseEnd_kept {pq : List Instr} (die : CDie) (s : State) (hk : Kept pq s) :
    KeptOut pq (execClockSwitchPauseEnd die s) := by
  unfold execClockSwitchPauseEnd
  try dsimp only
  repeat' first
    | with_reducible assumption
    | with_reducible refine keptOut_next ?_
    | exact keptOut_fault
    | with_reducible refine keptOut_ite ?_ ?_
    | with_reducible apply State.modOp_kept

/-- `execOpTransitionComplete` keeps the queue, canonical memory and canonical registers. -/
theorem execOpTransitionComplete_kept {pq : List Instr} (die : CDie) (s : State) (hk : Kept pq s) :
    KeptOut pq (execOpTransitionComplete die s) := by
  unfold execOpTransitionComplete
  try dsimp only
  repeat' first
    | with_reducible assumption
    | with_reducible refine keptOut_next ?_
    | exact keptOut_fault
    | with_reducible refine keptOut_ite ?_ ?_
    | with_reducible apply State.modOp_kept

/-- `referenceLost` keeps the queue, canonical memory and canonical registers. -/
theorem referenceLost_kept {pq : List Instr} (s : State) (hk : Kept pq s) :
    Kept pq (referenceLost s) := by
  unfold referenceLost
  try dsimp only
  repeat' first
    | with_reducible assumption
    | with_reducible apply State.modPkg_kept
    | with_reducible apply escalate_kept
    | intro _
    | with_reducible apply kept_ite

/-- `execReferenceLoss` keeps the queue, canonical memory and canonical registers. -/
theorem execReferenceLoss_kept {pq : List Instr} (s : State) (hk : Kept pq s) :
    KeptOut pq (execReferenceLoss s) := by
  unfold execReferenceLoss
  try dsimp only
  repeat' first
    | with_reducible assumption
    | with_reducible refine keptOut_next ?_
    | exact keptOut_fault
    | with_reducible refine keptOut_ite ?_ ?_
    | with_reducible apply referenceLost_kept

/-- `execReferenceReturn` keeps the queue, canonical memory and canonical registers. -/
theorem execReferenceReturn_kept {pq : List Instr} (s : State) (hk : Kept pq s) :
    KeptOut pq (execReferenceReturn s) := by
  unfold execReferenceReturn
  try dsimp only
  repeat' first
    | with_reducible assumption
    | with_reducible refine keptOut_next ?_
    | exact keptOut_fault
    | with_reducible refine keptOut_ite ?_ ?_
    | with_reducible apply State.modPkg_kept

/-- `holdoverExpired` keeps the queue, canonical memory and canonical registers. -/
theorem holdoverExpired_kept {pq : List Instr} (s : State) (hk : Kept pq s) :
    Kept pq (holdoverExpired s) := by
  unfold holdoverExpired
  try dsimp only
  repeat' first
    | with_reducible assumption
    | with_reducible apply State.modPkg_kept
    | with_reducible apply escalate_kept
    | intro _
    | with_reducible apply kept_ite

/-- `execHoldoverExpiry` keeps the queue, canonical memory and canonical registers. -/
theorem execHoldoverExpiry_kept {pq : List Instr} (s : State) (hk : Kept pq s) :
    KeptOut pq (execHoldoverExpiry s) := by
  unfold execHoldoverExpiry
  try dsimp only
  repeat' first
    | with_reducible assumption
    | with_reducible refine keptOut_next ?_
    | exact keptOut_fault
    | with_reducible refine keptOut_ite ?_ ?_
    | with_reducible apply holdoverExpired_kept

/-- `loopLost` keeps the queue, canonical memory and canonical registers. -/
theorem loopLost_kept {pq : List Instr} (die : Die) (s : State) (hk : Kept pq s) :
    Kept pq (loopLost die s) := by
  unfold loopLost
  try dsimp only
  repeat' first
    | with_reducible assumption
    | with_reducible apply State.modPkg_kept
    | with_reducible apply noteHold_kept
    | with_reducible apply winBump_kept
    | with_reducible apply escalate_kept

/-- `execLoopLossOfLock` keeps the queue, canonical memory and canonical registers. -/
theorem execLoopLossOfLock_kept {pq : List Instr} (die : Die) (s : State) (hk : Kept pq s) :
    KeptOut pq (execLoopLossOfLock die s) := by
  unfold execLoopLossOfLock
  try dsimp only
  repeat' first
    | with_reducible assumption
    | with_reducible refine keptOut_next ?_
    | exact keptOut_fault
    | with_reducible refine keptOut_ite ?_ ?_
    | with_reducible apply loopLost_kept

/-- `execRelockComplete` keeps the queue, canonical memory and canonical registers. -/
theorem execRelockComplete_kept {pq : List Instr} (die : Die) (s : State) (hk : Kept pq s) :
    KeptOut pq (execRelockComplete die s) := by
  unfold execRelockComplete
  try dsimp only
  repeat' first
    | with_reducible assumption
    | with_reducible refine keptOut_next ?_
    | exact keptOut_fault
    | with_reducible refine keptOut_ite ?_ ?_
    | with_reducible apply State.modPkg_kept
    | with_reducible apply resumeHeld_kept
    | intro _
    | with_reducible apply kept_ite

/-- `flitReplayed` keeps the queue, canonical memory and canonical registers. -/
theorem flitReplayed_kept {pq : List Instr} (link : Fin 26) (s : State) (hk : Kept pq s) :
    Kept pq (flitReplayed link s) := by
  unfold flitReplayed
  try dsimp only
  repeat' first
    | with_reducible assumption
    | with_reducible apply State.modD2d_kept
    | with_reducible apply winBump_kept
    | with_reducible apply escalate_kept
    | intro _
    | with_reducible apply kept_ite

/-- `execFlitCrcFail` keeps the queue, canonical memory and canonical registers. -/
theorem execFlitCrcFail_kept {pq : List Instr} (link : Fin 26) (s : State) (hk : Kept pq s) :
    KeptOut pq (execFlitCrcFail link s) := by
  unfold execFlitCrcFail
  try dsimp only
  repeat' first
    | with_reducible assumption
    | with_reducible refine keptOut_next ?_
    | exact keptOut_fault
    | with_reducible refine keptOut_ite ?_ ?_
    | with_reducible apply flitReplayed_kept

/-- `execD2dRetrainStart` keeps the queue, canonical memory and canonical registers. -/
theorem execD2dRetrainStart_kept {pq : List Instr} (link : Fin 26) (s : State) (hk : Kept pq s) :
    KeptOut pq (execD2dRetrainStart link s) := by
  unfold execD2dRetrainStart
  try dsimp only
  repeat' first
    | with_reducible assumption
    | with_reducible refine keptOut_next ?_
    | exact keptOut_fault
    | with_reducible refine keptOut_ite ?_ ?_
    | with_reducible apply State.modD2d_kept
    | intro _
    | with_reducible apply kept_ite

/-- `retrained` keeps the queue, canonical memory and canonical registers. -/
theorem retrained_kept {pq : List Instr} (link : Fin 26) (s : State) (hk : Kept pq s) :
    Kept pq (retrained link s) := by
  unfold retrained
  try dsimp only
  repeat' first
    | with_reducible assumption
    | with_reducible apply State.modD2d_kept
    | with_reducible apply winBump_kept
    | with_reducible apply escalate_kept
    | with_reducible apply resumeHeld_kept

/-- `execD2dRetrainComplete` keeps the queue, canonical memory and canonical registers. -/
theorem execD2dRetrainComplete_kept {pq : List Instr} (link : Fin 26) (s : State) (hk : Kept pq s) :
    KeptOut pq (execD2dRetrainComplete link s) := by
  unfold execD2dRetrainComplete
  try dsimp only
  repeat' first
    | with_reducible assumption
    | with_reducible refine keptOut_next ?_
    | exact keptOut_fault
    | with_reducible refine keptOut_ite ?_ ?_
    | with_reducible apply retrained_kept
    | intro _
    | with_reducible apply kept_ite

end Sys2Proof.Machine
end

