-- ==== Sys2Proof/Laws/KeepProgram.lean ====
section
/-!
SUPPORT. Every operation of Machine/Program.lean leaves the queue alone and keeps memory and the lanes' registers canonical.
-/

namespace Sys2Proof.Machine


end Sys2Proof.Machine
end

