-- ==== Sys2Proof/Laws/KeepRepair.lean ====
section
/-!
SUPPORT. Every operation of Machine/Repair.lean leaves the queue alone and keeps memory and the lanes' registers canonical.
-/

namespace Sys2Proof.Machine

/-- `retestUnit` keeps the queue, canonical memory and canonical registers. -/
theorem retestUnit_kept {pq : List Instr} (kind die unit : Nat) (s : State) (hk : Kept pq s) :
    Kept pq (retestUnit kind die unit s) := by
  unfold retestUnit
  try dsimp only
  repeat' first
    | with_reducible assumption
    | with_reducible apply State.modUnit_kept

/-- `requestRefuse` keeps the queue, canonical memory and canonical registers. -/
theorem requestRefuse_kept {pq : List Instr} (i r c : Nat) (s : State) (hk : Kept pq s) :
    Kept pq (requestRefuse i r c s) := by
  unfold requestRefuse
  try dsimp only
  repeat' first
    | with_reducible assumption
    | with_reducible apply State.modTst_kept
    | with_reducible apply State.modSpn_kept
    | with_reducible apply postDevice_kept

/-- `dpuFailed` keeps the queue, canonical memory and canonical registers. -/
theorem dpuFailed_kept {pq : List Instr} (i r c : Nat) (s : State) (hk : Kept pq s) :
    Kept pq (dpuFailed i r c s) := by
  unfold dpuFailed
  try dsimp only
  repeat' first
    | with_reducible assumption
    | with_reducible apply State.modTst_kept
    | with_reducible apply failFrame_kept
    | with_reducible apply winBump_kept
    | with_reducible apply escalate_kept
    | with_reducible apply retestUnit_kept
    | with_reducible apply requestRefuse_kept
    | intro _
    | with_reducible apply kept_ite

/-- `bankCorrected` keeps the queue, canonical memory and canonical registers. -/
theorem bankCorrected_kept {pq : List Instr} (i : Nat) (acc : Bool) (b k : Nat) (s : State) (hk : Kept pq s) :
    Kept pq (bankCorrected i acc b k s) := by
  unfold bankCorrected
  try dsimp only
  repeat' first
    | with_reducible assumption
    | with_reducible apply State.modSpn_kept
    | with_reducible apply winAdd_kept
    | with_reducible apply escalate_kept

/-- `spindleUncorrectable` keeps the queue, canonical memory and canonical registers. -/
theorem spindleUncorrectable_kept {pq : List Instr} (i : Nat) (s : State) (hk : Kept pq s) :
    Kept pq (spindleUncorrectable i s) := by
  unfold spindleUncorrectable
  try dsimp only
  repeat' first
    | with_reducible assumption
    | with_reducible apply State.modSpn_kept
    | with_reducible apply failFrame_kept
    | with_reducible apply winBump_kept
    | with_reducible apply escalate_kept

/-- `withholdCore` keeps the queue, canonical memory and canonical registers. -/
theorem withholdCore_kept {pq : List Instr} (die core : Nat) (s : State) (hk : Kept pq s) :
    Kept pq (withholdCore die core s) := by
  unfold withholdCore
  try dsimp only
  repeat' first
    | with_reducible assumption
    | with_reducible apply State.modVec_kept
    | with_reducible apply failFrame_kept
    | intro _
    | with_reducible apply kept_ite

/-- `coreEvents` keeps the queue, canonical memory and canonical registers. -/
theorem coreEvents_kept {pq : List Instr} (row die core k : Nat) (s : State) (hk : Kept pq s) :
    Kept pq (coreEvents row die core k s) := by
  unfold coreEvents
  try dsimp only
  repeat' first
    | with_reducible assumption
    | with_reducible apply winAdd_kept
    | with_reducible apply escalate_kept
    | with_reducible apply withholdCore_kept
    | intro _
    | with_reducible apply kept_ite

/-- `corePatternFailed` keeps the queue, canonical memory and canonical registers. -/
theorem corePatternFailed_kept {pq : List Instr} (die core : Nat) (s : State) (hk : Kept pq s) :
    Kept pq (corePatternFailed die core s) := by
  unfold corePatternFailed
  try dsimp only
  repeat' first
    | with_reducible assumption
    | with_reducible apply retestUnit_kept
    | with_reducible apply coreEvents_kept

/-- `registerParity` keeps the queue, canonical memory and canonical registers. -/
theorem registerParity_kept {pq : List Instr} (die core : Nat) (s : State) (hk : Kept pq s) :
    Kept pq (registerParity die core s) := by
  unfold registerParity
  try dsimp only
  repeat' first
    | with_reducible assumption
    | with_reducible apply State.modVec_kept
    | with_reducible apply failFrame_kept
    | with_reducible apply coreEvents_kept
    | intro _

/-- `rlcParity` keeps the queue, canonical memory and canonical registers. -/
theorem rlcParity_kept {pq : List Instr} (die set way k : Nat) (clean : Bool) (s : State) (hk : Kept pq s) :
    Kept pq (rlcParity die set way k clean s) := by
  unfold rlcParity
  try dsimp only
  repeat' first
    | with_reducible assumption
    | with_reducible apply State.modRlc_kept
    | with_reducible apply winAdd_kept
    | with_reducible apply escalate_kept
    | intro _
    | with_reducible apply kept_ite

end Sys2Proof.Machine
end

