-- ==== Sys2Proof/Laws/KeepRlc.lean ====
section
/-!
SUPPORT. Every operation of Machine/Rlc.lean leaves the queue alone and keeps memory and the lanes' registers canonical.
-/

namespace Sys2Proof.Machine

/-- `rlcPut` keeps the queue, canonical memory and canonical registers. -/
theorem rlcPut_kept {pq : List Instr} (d line : Nat) (l : Option RlcLine) (s : State) (hk : Kept pq s) :
    Kept pq (rlcPut d line l s) := by
  unfold rlcPut
  try dsimp only
  repeat' first
    | with_reducible assumption
    | with_reducible apply State.modRlc_kept

/-- `rlcBack` keeps the queue, canonical memory and canonical registers. -/
theorem rlcBack_kept {pq : List Instr} (d line : Nat) (l : RlcLine) (s : State) (hk : Kept pq s) :
    Kept pq (rlcBack d line l s) := by
  unfold rlcBack
  try dsimp only
  repeat' first
    | with_reducible assumption
    | with_reducible apply memWrite_kept
    | with_reducible apply rlcPut_kept
    | intro _
    | with_reducible apply kept_ite

/-- `rlcLose` keeps the queue, canonical memory and canonical registers. -/
theorem rlcLose_kept {pq : List Instr} (d line : Nat) (l : RlcLine) (s : State) (hk : Kept pq s) :
    Kept pq (rlcLose d line l s) := by
  unfold rlcLose
  try dsimp only
  repeat' first
    | with_reducible assumption
    | with_reducible apply State.modRlc_kept
    | with_reducible apply failFrame_kept
    | with_reducible apply rlcPut_kept
    | intro _
    | with_reducible apply kept_ite

/-- `rlcEmptyWay` keeps the queue, canonical memory and canonical registers. -/
theorem rlcEmptyWay_kept {pq : List Instr} (d way : Nat) :
    ∀ (y0 : List (Nat × Option RlcLine)) (y1 : State), Kept pq y1 → Kept pq (rlcEmptyWay d way y0 y1)
  | [], _, hk => hk
  | (line, some l) :: ls, s, hk => by
    unfold rlcEmptyWay
    apply rlcEmptyWay_kept d way ls
    split
    · exact hk
    · split
      · exact rlcLose_kept _ _ _ _ hk
      · exact rlcPut_kept _ _ _ _ (rlcBack_kept _ _ _ _ hk)
  | (_, none) :: ls, s, hk => rlcEmptyWay_kept d way ls s hk

/-- `rlcParityHit` keeps the queue, canonical memory and canonical registers. -/
theorem rlcParityHit_kept {pq : List Instr} (d line : Nat) (s : State) (hk : Kept pq s) :
    Kept pq (rlcParityHit d line s).2 := by
  unfold rlcParityHit
  try dsimp only
  repeat' first
    | with_reducible assumption
    | with_reducible apply rlcParity_kept
    | with_reducible apply rlcLose_kept
    | with_reducible apply rlcEmptyWay_kept
    | intro _
    | with_reducible apply kept_ite
    | with_reducible apply kept_ite_snd
    | split

/-- `rlcClean` keeps the queue, canonical memory and canonical registers. -/
theorem rlcClean_kept {pq : List Instr} (d line : Nat) (s : State) (hk : Kept pq s) :
    Kept pq (rlcClean d line s) := by
  unfold rlcClean
  try dsimp only
  repeat' first
    | with_reducible assumption
    | with_reducible apply rlcBack_kept
    | with_reducible apply rlcParityHit_kept
    | intro _
    | with_reducible apply kept_ite
    | with_reducible apply kept_ite_snd
    | split

/-- `rlcEvict` keeps the queue, canonical memory and canonical registers. -/
theorem rlcEvict_kept {pq : List Instr} (d line : Nat) (s : State) (hk : Kept pq s) :
    Kept pq (rlcEvict d line s) := by
  unfold rlcEvict
  try dsimp only
  repeat' first
    | with_reducible assumption
    | with_reducible apply rlcPut_kept
    | with_reducible apply rlcClean_kept

/-- `rlcAllocate` keeps the queue, canonical memory and canonical registers. -/
theorem rlcAllocate_kept {pq : List Instr} (d line : Nat) (flyer dirty : Bool) (data : List Byte) (s : State) (hk : Kept pq s) :
    Kept pq (rlcAllocate d line flyer dirty data s) := by
  unfold rlcAllocate
  try dsimp only
  repeat' first
    | with_reducible assumption
    | with_reducible apply State.drawFree_kept
    | with_reducible apply memWrite_kept
    | with_reducible apply rlcPut_kept
    | with_reducible apply rlcEvict_kept
    | intro _
    | with_reducible apply kept_ite
    | with_reducible apply kept_ite_snd
    | split

/-- `rlcCheck` keeps the queue, canonical memory and canonical registers. -/
theorem rlcCheck_kept {pq : List Instr} (d line : Nat) (s : State) (hk : Kept pq s) :
    Kept pq (rlcCheck d line s).2 := by
  unfold rlcCheck
  try dsimp only
  repeat' first
    | with_reducible assumption
    | with_reducible apply rlcParityHit_kept
    | intro _
    | with_reducible apply kept_ite
    | with_reducible apply kept_ite_snd

/-- `rlcLoad` keeps the queue, canonical memory and canonical registers. -/
theorem rlcLoad_kept {pq : List Instr} (d : Nat) (flyer : Bool) (a n : Nat) (s : State) (hk : Kept pq s) :
    Kept pq (rlcLoad d flyer a n s).s := by
  unfold rlcLoad
  try dsimp only
  repeat' first
    | with_reducible assumption
    | with_reducible apply memRead_kept
    | with_reducible apply rlcAllocate_kept
    | intro _
    | with_reducible apply kept_ite
    | with_reducible apply kept_ite_snd
    | split

/-- `rlcRead` keeps the queue, canonical memory and canonical registers. -/
theorem rlcRead_kept {pq : List Instr} (d : Nat) (flyer : Bool) (a n : Nat) (s : State) (hk : Kept pq s) :
    Kept pq (rlcRead d flyer a n s).s := by
  unfold rlcRead
  try dsimp only
  repeat' first
    | with_reducible assumption
    | with_reducible apply rlcCheck_kept
    | with_reducible apply rlcLoad_kept
    | intro _
    | with_reducible apply kept_ite
    | with_reducible apply kept_ite_snd
    | split

/-- `rlcStore` keeps the queue, canonical memory and canonical registers. -/
theorem rlcStore_kept {pq : List Instr} (d : Nat) (flyer : Bool) (a : Nat) (bs : List Byte) (s : State) (hk : Kept pq s) :
    Kept pq (rlcStore d flyer a bs s).s := by
  unfold rlcStore
  try dsimp only
  repeat' first
    | with_reducible assumption
    | with_reducible apply memRead_kept
    | with_reducible apply memWrite_kept
    | with_reducible apply rlcPut_kept
    | with_reducible apply rlcAllocate_kept
    | intro _
    | with_reducible apply kept_ite
    | with_reducible apply kept_ite_snd
    | split

/-- `rlcWrite` keeps the queue, canonical memory and canonical registers. -/
theorem rlcWrite_kept {pq : List Instr} (d : Nat) (flyer : Bool) (a : Nat) (bs : List Byte) (s : State) (hk : Kept pq s) :
    Kept pq (rlcWrite d flyer a bs s).s := by
  unfold rlcWrite
  try dsimp only
  repeat' first
    | with_reducible assumption
    | with_reducible apply rlcCheck_kept
    | with_reducible apply rlcStore_kept
    | intro _
    | with_reducible apply kept_ite
    | with_reducible apply kept_ite_snd
    | split

/-- `flyerReadBlocks` keeps the queue, canonical memory and canonical registers. -/
theorem flyerReadBlocks_kept {pq : List Instr} (a n : Nat) (y0 : List Nat) (y1 : Access) (hk : Kept pq y1.s) :
    Kept pq (flyerReadBlocks a n y0 y1).s := by
  induction y0 generalizing a n y1 with
  | nil => exact hk
  | cons x xs ih =>
    unfold flyerReadBlocks
    try dsimp only
    repeat' first
      | with_reducible assumption
      | apply ih
      | with_reducible apply memRead_kept
      | with_reducible apply rlcRead_kept
      | intro _
      | with_reducible apply kept_ite
      | with_reducible apply kept_ite_snd
      | split

/-- `flyerRead` keeps the queue, canonical memory and canonical registers. -/
theorem flyerRead_kept {pq : List Instr} (a n : Nat) (s : State) (hk : Kept pq s) :
    Kept pq (flyerRead a n s).s := by
  unfold flyerRead
  try dsimp only
  repeat' first
    | with_reducible assumption
    | with_reducible apply flyerReadBlocks_kept

/-- `flyerWriteBlocks` keeps the queue, canonical memory and canonical registers. -/
theorem flyerWriteBlocks_kept {pq : List Instr} (a : Nat) (bytes : List Byte) (y0 : List Nat) (y1 : Access) (hk : Kept pq y1.s) :
    Kept pq (flyerWriteBlocks a bytes y0 y1).s := by
  induction y0 generalizing a bytes y1 with
  | nil => exact hk
  | cons x xs ih =>
    unfold flyerWriteBlocks
    try dsimp only
    repeat' first
      | with_reducible assumption
      | apply ih
      | with_reducible apply memWrite_kept
      | with_reducible apply rlcWrite_kept
      | intro _
      | with_reducible apply kept_ite
      | with_reducible apply kept_ite_snd
      | split

/-- `flyerWrite` keeps the queue, canonical memory and canonical registers. -/
theorem flyerWrite_kept {pq : List Instr} (a : Nat) (bs : List Byte) (s : State) (hk : Kept pq s) :
    Kept pq (flyerWrite a bs s).s := by
  unfold flyerWrite
  try dsimp only
  repeat' first
    | with_reducible assumption
    | with_reducible apply flyerWriteBlocks_kept

/-- `walkLine` keeps the queue, canonical memory and canonical registers. -/
theorem walkLine_kept {pq : List Instr} (d line : Nat) (count drop : Bool) (s : State) (hk : Kept pq s) :
    Kept pq (walkLine d line count drop s) := by
  unfold walkLine
  try dsimp only
  repeat' first
    | with_reducible assumption
    | with_reducible apply State.modRlc_kept
    | with_reducible apply rlcPut_kept
    | with_reducible apply rlcClean_kept
    | intro _
    | with_reducible apply kept_ite

/-- `walkAll` keeps the queue, canonical memory and canonical registers. -/
theorem walkAll_kept {pq : List Instr} (d : Nat) (count drop : Bool) (y0 : List Nat) (y1 : State) (hk : Kept pq y1) :
    Kept pq (walkAll d count drop y0 y1) := by
  induction y0 generalizing d count drop y1 with
  | nil => exact hk
  | cons x xs ih =>
    unfold walkAll
    try dsimp only
    repeat' first
      | with_reducible assumption
      | apply ih
      | with_reducible apply walkLine_kept

/-- `walkRange` keeps the queue, canonical memory and canonical registers. -/
theorem walkRange_kept {pq : List Instr} (d : Nat) (flyer drop : Bool) (base len : Nat) (s : State) (hk : Kept pq s) :
    Kept pq (walkRange d flyer drop base len s) := by
  unfold walkRange
  try dsimp only
  repeat' first
    | with_reducible assumption
    | with_reducible apply State.modRlc_kept
    | with_reducible apply walkAll_kept

/-- `walkPartition` keeps the queue, canonical memory and canonical registers. -/
theorem walkPartition_kept {pq : List Instr} (d : Nat) (drop : Bool) (base len : Nat) (s : State) (hk : Kept pq s) :
    Kept pq (walkPartition d drop base len s) := by
  unfold walkPartition
  try dsimp only
  repeat' first
    | with_reducible assumption
    | with_reducible apply walkRange_kept
    | intro _
    | with_reducible apply kept_ite

/-- `walkFlyer` keeps the queue, canonical memory and canonical registers. -/
theorem walkFlyer_kept {pq : List Instr} (drop : Bool) (base len : Nat) (s : State) (hk : Kept pq s) :
    Kept pq (walkFlyer drop base len s) := by
  unfold walkFlyer
  try dsimp only
  repeat' first
    | with_reducible assumption
    | with_reducible apply walkPartition_kept

/-- `cleanLines` keeps the queue, canonical memory and canonical registers. -/
theorem cleanLines_kept {pq : List Instr} (d : Nat) (y0 : List Nat) (y1 : State) (hk : Kept pq y1) :
    Kept pq (cleanLines d y0 y1) := by
  induction y0 generalizing d y1 with
  | nil => exact hk
  | cons x xs ih =>
    unfold cleanLines
    try dsimp only
    repeat' first
      | with_reducible assumption
      | apply ih
      | with_reducible apply rlcClean_kept

/-- `cleanAll` keeps the queue, canonical memory and canonical registers. -/
theorem cleanAll_kept {pq : List Instr} (d : Nat) (s : State) (hk : Kept pq s) :
    Kept pq (cleanAll d s) := by
  unfold cleanAll
  try dsimp only
  repeat' first
    | with_reducible assumption
    | with_reducible apply cleanLines_kept

/-- `flushDie` keeps the queue, canonical memory and canonical registers. -/
theorem flushDie_kept {pq : List Instr} (d : Nat) (count : Bool) (s : State) (hk : Kept pq s) :
    Kept pq (flushDie d count s) := by
  unfold flushDie
  try dsimp only
  repeat' first
    | with_reducible assumption
    | with_reducible apply walkAll_kept

/-- `sendSnoop` keeps the queue, canonical memory and canonical registers. -/
theorem sendSnoop_kept {pq : List Instr} (s : State) (hk : Kept pq s) :
    Kept pq (sendSnoop s) := by
  unfold sendSnoop
  try dsimp only
  repeat' first
    | with_reducible assumption
    | with_reducible apply State.modHp_kept
    | with_reducible apply State.emit_kept
    | intro _
    | with_reducible apply kept_ite
    | with_reducible apply kept_ite_snd
    | split

/-- `snoopLine` keeps the queue, canonical memory and canonical registers. -/
theorem snoopLine_kept {pq : List Instr} (release : Bool) (line : Nat) (s : State) (hk : Kept pq s) :
    Kept pq (snoopLine release line s) := by
  unfold snoopLine
  try dsimp only
  repeat' first
    | with_reducible assumption
    | with_reducible apply State.modHp_kept
    | with_reducible apply sendSnoop_kept

/-- `snoopAll` keeps the queue, canonical memory and canonical registers. -/
theorem snoopAll_kept {pq : List Instr} (release : Bool) (y0 : List Nat) (y1 : State) (hk : Kept pq y1) :
    Kept pq (snoopAll release y0 y1) := by
  induction y0 generalizing release y1 with
  | nil => exact hk
  | cons x xs ih =>
    unfold snoopAll
    try dsimp only
    repeat' first
      | with_reducible assumption
      | apply ih
      | with_reducible apply snoopLine_kept

/-- `sendSnoops` keeps the queue, canonical memory and canonical registers. -/
theorem sendSnoops_kept {pq : List Instr} (y0 : List Nat) (y1 : State) (hk : Kept pq y1) :
    Kept pq (sendSnoops y0 y1) := by
  induction y0 generalizing y1 with
  | nil => exact hk
  | cons x xs ih =>
    unfold sendSnoops
    try dsimp only
    repeat' first
      | with_reducible assumption
      | apply ih
      | with_reducible apply sendSnoop_kept

/-- `hostRelease` keeps the queue, canonical memory and canonical registers. -/
theorem hostRelease_kept {pq : List Instr} (base len : Nat) (s : State) (hk : Kept pq s) :
    Kept pq (hostRelease base len s) := by
  unfold hostRelease
  try dsimp only
  repeat' first
    | with_reducible assumption
    | with_reducible apply snoopAll_kept

/-- `hostAcquire` keeps the queue, canonical memory and canonical registers. -/
theorem hostAcquire_kept {pq : List Instr} (base len : Nat) (s : State) (hk : Kept pq s) :
    Kept pq (hostAcquire base len s) := by
  unfold hostAcquire
  try dsimp only
  repeat' first
    | with_reducible assumption
    | with_reducible apply snoopAll_kept

/-- `performRange` keeps the queue, canonical memory and canonical registers. -/
theorem performRange_kept {pq : List Instr} (es : List Engine) (sc : Scope) (base len : Nat) (s : State) (hk : Kept pq s) :
    Kept pq (performRange es sc base len s) := by
  unfold performRange
  try dsimp only
  repeat' first
    | with_reducible assumption
    | with_reducible apply performHeld_kept
    | intro _
    | with_reducible apply kept_ite

/-- `releaseWalk` keeps the queue, canonical memory and canonical registers. -/
theorem releaseWalk_kept {pq : List Instr} (e : Engine) (base len : Nat) (s : State) (hk : Kept pq s) :
    Kept pq (releaseWalk e base len s) := by
  cases e
  case vector c => exact walkRange_kept _ _ _ _ _ _ hk
  case flyer => exact walkFlyer_kept _ _ _ _ hk
  all_goals exact hk

/-- `countRelease` keeps the queue, canonical memory and canonical registers. -/
theorem countRelease_kept {pq : List Instr} (e : Engine) (s : State) (hk : Kept pq s) :
    Kept pq (countRelease e s) := by
  unfold countRelease
  try dsimp only
  repeat' first
    | with_reducible assumption
    | with_reducible apply State.modRlc_kept
    | intro _
    | with_reducible apply kept_ite
    | with_reducible apply kept_ite_snd
    | split

/-- `releaseOf` keeps the queue, canonical memory and canonical registers. -/
theorem releaseOf_kept {pq : List Instr} (e : Engine) (es : List Engine) (sc : Scope) (base len : Nat) (s : State) (hk : Kept pq s) :
    Kept pq (releaseOf e es sc base len s) := by
  unfold releaseOf
  try dsimp only
  repeat' first
    | with_reducible assumption
    | with_reducible apply performRange_kept
    | with_reducible apply releaseWalk_kept
    | with_reducible apply countRelease_kept

/-- `acquireWalk` keeps the queue, canonical memory and canonical registers. -/
theorem acquireWalk_kept {pq : List Instr} (e : Engine) (base len : Nat) (s : State) (hk : Kept pq s) :
    Kept pq (acquireWalk e base len s) := by
  cases e
  case vector c => exact walkRange_kept _ _ _ _ _ _ hk
  case flyer => exact walkFlyer_kept _ _ _ _ hk
  case host => exact hostAcquire_kept _ _ _ hk
  all_goals exact hk

/-- `countAcquire` keeps the queue, canonical memory and canonical registers. -/
theorem countAcquire_kept {pq : List Instr} (e : Engine) (s : State) (hk : Kept pq s) :
    Kept pq (countAcquire e s) := by
  unfold countAcquire
  try dsimp only
  repeat' first
    | with_reducible assumption
    | with_reducible apply State.modRlc_kept
    | intro _
    | with_reducible apply kept_ite
    | with_reducible apply kept_ite_snd
    | split

/-- `acquireOf` keeps the queue, canonical memory and canonical registers. -/
theorem acquireOf_kept {pq : List Instr} (e : Engine) (base len : Nat) (s : State) (hk : Kept pq s) :
    Kept pq (acquireOf e base len s) := by
  unfold acquireOf
  try dsimp only
  repeat' first
    | with_reducible assumption
    | with_reducible apply acquireWalk_kept
    | with_reducible apply countAcquire_kept

/-- `barrier` keeps the queue, canonical memory and canonical registers. -/
theorem barrier_kept {pq : List Instr} (s : State) (hk : Kept pq s) :
    Kept pq (barrier s) := by
  unfold barrier
  try dsimp only
  repeat' first
    | with_reducible assumption
    | with_reducible apply State.modVis_kept
    | with_reducible apply performHeld_kept
    | with_reducible apply flushDie_kept

end Sys2Proof.Machine
end

