-- ==== Sys2Proof/Laws/KeepQueues.lean ====
section
/-!
SUPPORT. Every operation of Machine/Queues.lean leaves the queue alone and keeps memory and the lanes' registers canonical.
-/

namespace Sys2Proof.Machine

/-- `queuePage` keeps the queue, canonical memory and canonical registers. -/
theorem queuePage_kept {pq : List Instr} (m : Nat) (r : MbxReq) (s : State) (hk : Kept pq s) :
    Kept pq (queuePage m r s) := by
  unfold queuePage
  try dsimp only
  repeat' first
    | with_reducible assumption
    | with_reducible apply State.modPage_kept
    | with_reducible apply completeMbx_kept
    | with_reducible apply failMbx_kept
    | intro _
    | with_reducible apply kept_ite

/-- `execQueuePage` keeps the queue, canonical memory and canonical registers. -/
theorem execQueuePage_kept {pq : List Instr} (mbx : MbxId) (s : State) (hk : Kept pq s) :
    KeptOut pq (execQueuePage mbx s) := by
  unfold execQueuePage
  try dsimp only
  repeat' first
    | with_reducible assumption
    | with_reducible refine keptOut_next ?_
    | exact keptOut_fault
    | with_reducible refine keptOut_ite ?_ ?_
    | with_reducible apply casbomi_kept
    | with_reducible apply queuePage_kept

/-- `freshRing` keeps the queue, canonical memory and canonical registers. -/
theorem freshRing_kept {pq : List Instr} (q : Nat) (s : State) (hk : Kept pq s) :
    Kept pq (freshRing q s) := by
  unfold freshRing
  try dsimp only
  repeat' first
    | with_reducible assumption
    | with_reducible apply memWrite_kept
    | intro _
    | with_reducible apply kept_ite

/-- `queueCreate` keeps the queue, canonical memory and canonical registers. -/
theorem queueCreate_kept {pq : List Instr} (m : Nat) (r : MbxReq) (s : State) (hk : Kept pq s) :
    Kept pq (queueCreate m r s) := by
  unfold queueCreate
  try dsimp only
  repeat' first
    | with_reducible assumption
    | with_reducible apply State.modQueue_kept
    | with_reducible apply completeMbx_kept
    | with_reducible apply failMbx_kept
    | with_reducible apply freshRing_kept
    | intro _
    | with_reducible apply kept_ite
    | with_reducible apply kept_ite_snd
    | split

/-- `execQueueCreate` keeps the queue, canonical memory and canonical registers. -/
theorem execQueueCreate_kept {pq : List Instr} (mbx : MbxId) (s : State) (hk : Kept pq s) :
    KeptOut pq (execQueueCreate mbx s) := by
  unfold execQueueCreate
  try dsimp only
  repeat' first
    | with_reducible assumption
    | with_reducible refine keptOut_next ?_
    | exact keptOut_fault
    | with_reducible refine keptOut_ite ?_ ?_
    | with_reducible apply casbomi_kept
    | with_reducible apply queueCreate_kept

/-- `queueRebind` keeps the queue, canonical memory and canonical registers. -/
theorem queueRebind_kept {pq : List Instr} (m : Nat) (r : MbxReq) (s : State) (hk : Kept pq s) :
    Kept pq (queueRebind m r s) := by
  unfold queueRebind
  try dsimp only
  repeat' first
    | with_reducible assumption
    | with_reducible apply State.modQueue_kept
    | with_reducible apply completeMbx_kept
    | with_reducible apply failMbx_kept
    | with_reducible apply freshRing_kept
    | intro _
    | with_reducible apply kept_ite
    | with_reducible apply kept_ite_snd
    | split

/-- `execQueueRebind` keeps the queue, canonical memory and canonical registers. -/
theorem execQueueRebind_kept {pq : List Instr} (mbx : MbxId) (s : State) (hk : Kept pq s) :
    KeptOut pq (execQueueRebind mbx s) := by
  unfold execQueueRebind
  try dsimp only
  repeat' first
    | with_reducible assumption
    | with_reducible refine keptOut_next ?_
    | exact keptOut_fault
    | with_reducible refine keptOut_ite ?_ ?_
    | with_reducible apply casbomi_kept
    | with_reducible apply queueRebind_kept

/-- `queueGone` keeps the queue, canonical memory and canonical registers. -/
theorem queueGone_kept {pq : List Instr} (m q : Nat) (s : State) (hk : Kept pq s) :
    Kept pq (queueGone m q s) := by
  unfold queueGone
  try dsimp only
  repeat' first
    | with_reducible assumption
    | with_reducible apply State.modQueue_kept
    | with_reducible apply completeMbx_kept

/-- `queueDestroy` keeps the queue, canonical memory and canonical registers. -/
theorem queueDestroy_kept {pq : List Instr} (m : Nat) (r : MbxReq) (s : State) (hk : Kept pq s) :
    Kept pq (queueDestroy m r s) := by
  unfold queueDestroy
  try dsimp only
  repeat' first
    | with_reducible assumption
    | with_reducible apply State.modQueue_kept
    | with_reducible apply State.modMbx_kept
    | with_reducible apply failMbx_kept
    | with_reducible apply queueGone_kept
    | intro _
    | with_reducible apply kept_ite

/-- `execQueueDestroy` keeps the queue, canonical memory and canonical registers. -/
theorem execQueueDestroy_kept {pq : List Instr} (mbx : MbxId) (s : State) (hk : Kept pq s) :
    KeptOut pq (execQueueDestroy mbx s) := by
  unfold execQueueDestroy
  try dsimp only
  repeat' first
    | with_reducible assumption
    | with_reducible refine keptOut_next ?_
    | exact keptOut_fault
    | with_reducible refine keptOut_ite ?_ ?_
    | with_reducible apply casbomi_kept
    | with_reducible apply queueDestroy_kept

/-- `execQueueDestroyDone` keeps the queue, canonical memory and canonical registers. -/
theorem execQueueDestroyDone_kept {pq : List Instr} (mbx : MbxId) (s : State) (hk : Kept pq s) :
    KeptOut pq (execQueueDestroyDone mbx s) := by
  unfold execQueueDestroyDone
  try dsimp only
  repeat' first
    | with_reducible assumption
    | with_reducible refine keptOut_next ?_
    | exact keptOut_fault
    | with_reducible refine keptOut_ite ?_ ?_
    | with_reducible apply queueGone_kept
    | intro _
    | with_reducible apply kept_ite
    | with_reducible apply kept_ite_snd
    | split

/-- `regionBind` keeps the queue, canonical memory and canonical registers. -/
theorem regionBind_kept {pq : List Instr} (m : Nat) (r : MbxReq) (s : State) (hk : Kept pq s) :
    Kept pq (regionBind m r s) := by
  unfold regionBind
  try dsimp only
  repeat' first
    | with_reducible assumption
    | with_reducible apply State.modRegion_kept
    | with_reducible apply completeMbx_kept
    | with_reducible apply failMbx_kept
    | intro _
    | with_reducible apply kept_ite
    | with_reducible apply kept_ite_snd
    | split

/-- `execRegionBind` keeps the queue, canonical memory and canonical registers. -/
theorem execRegionBind_kept {pq : List Instr} (mbx : MbxId) (s : State) (hk : Kept pq s) :
    KeptOut pq (execRegionBind mbx s) := by
  unfold execRegionBind
  try dsimp only
  repeat' first
    | with_reducible assumption
    | with_reducible refine keptOut_next ?_
    | exact keptOut_fault
    | with_reducible refine keptOut_ite ?_ ?_
    | with_reducible apply casbomi_kept
    | with_reducible apply regionBind_kept

/-- `finishRebind` keeps the queue, canonical memory and canonical registers. -/
theorem finishRebind_kept {pq : List Instr} (m : Nat) (r : MbxReq) (s : State) (hk : Kept pq s) :
    Kept pq (finishRebind m r s) := by
  unfold finishRebind
  try dsimp only
  repeat' first
    | with_reducible assumption
    | with_reducible apply State.modRegion_kept
    | with_reducible apply completeMbx_kept

/-- `regionRebind` keeps the queue, canonical memory and canonical registers. -/
theorem regionRebind_kept {pq : List Instr} (m sinceUs : Nat) (r : MbxReq) (s : State) (hk : Kept pq s) :
    Kept pq (regionRebind m sinceUs r s) := by
  unfold regionRebind
  try dsimp only
  repeat' first
    | with_reducible assumption
    | with_reducible apply State.modMbx_kept
    | with_reducible apply failMbx_kept
    | with_reducible apply finishRebind_kept
    | intro _
    | with_reducible apply kept_ite
    | with_reducible apply kept_ite_snd
    | split

/-- `execRegionRebind` keeps the queue, canonical memory and canonical registers. -/
theorem execRegionRebind_kept {pq : List Instr} (mbx : MbxId) (sinceUs : Nat) (s : State) (hk : Kept pq s) :
    KeptOut pq (execRegionRebind mbx sinceUs s) := by
  unfold execRegionRebind
  try dsimp only
  repeat' first
    | with_reducible assumption
    | with_reducible refine keptOut_next ?_
    | exact keptOut_fault
    | with_reducible refine keptOut_ite ?_ ?_
    | with_reducible apply casbomi_kept
    | with_reducible apply regionRebind_kept

/-- `finishFree` keeps the queue, canonical memory and canonical registers. -/
theorem finishFree_kept {pq : List Instr} (m : Nat) (r : MbxReq) (s : State) (hk : Kept pq s) :
    Kept pq (finishFree m r s) := by
  unfold finishFree
  try dsimp only
  repeat' first
    | with_reducible assumption
    | with_reducible apply State.modRegion_kept
    | with_reducible apply completeMbx_kept

/-- `regionFree` keeps the queue, canonical memory and canonical registers. -/
theorem regionFree_kept {pq : List Instr} (m sinceUs : Nat) (r : MbxReq) (s : State) (hk : Kept pq s) :
    Kept pq (regionFree m sinceUs r s) := by
  unfold regionFree
  try dsimp only
  repeat' first
    | with_reducible assumption
    | with_reducible apply State.modMbx_kept
    | with_reducible apply failMbx_kept
    | with_reducible apply finishFree_kept
    | intro _
    | with_reducible apply kept_ite
    | with_reducible apply kept_ite_snd
    | split

/-- `execRegionFree` keeps the queue, canonical memory and canonical registers. -/
theorem execRegionFree_kept {pq : List Instr} (mbx : MbxId) (sinceUs : Nat) (s : State) (hk : Kept pq s) :
    KeptOut pq (execRegionFree mbx sinceUs s) := by
  unfold execRegionFree
  try dsimp only
  repeat' first
    | with_reducible assumption
    | with_reducible refine keptOut_next ?_
    | exact keptOut_fault
    | with_reducible refine keptOut_ite ?_ ?_
    | with_reducible apply casbomi_kept
    | with_reducible apply regionFree_kept

/-- `execRegionRebindDone` keeps the queue, canonical memory and canonical registers. -/
theorem execRegionRebindDone_kept {pq : List Instr} (mbx : MbxId) (s : State) (hk : Kept pq s) :
    KeptOut pq (execRegionRebindDone mbx s) := by
  unfold execRegionRebindDone
  try dsimp only
  repeat' first
    | with_reducible assumption
    | with_reducible refine keptOut_next ?_
    | exact keptOut_fault
    | with_reducible refine keptOut_ite ?_ ?_
    | with_reducible apply finishRebind_kept
    | with_reducible apply finishFree_kept
    | intro _
    | with_reducible apply kept_ite
    | with_reducible apply kept_ite_snd
    | split

/-- `dbLow` keeps the queue, canonical memory and canonical registers. -/
theorem dbLow_kept {pq : List Instr} (page : Nat) (v : Word) (s : State) (hk : Kept pq s) :
    Kept pq (dbLow page v s) := by
  unfold dbLow
  try dsimp only
  repeat' first
    | with_reducible assumption
    | with_reducible apply State.modBob_kept

/-- `execDoorbellLowWrite` keeps the queue, canonical memory and canonical registers. -/
theorem execDoorbellLowWrite_kept {pq : List Instr} (page : BitVec 12) (value : Word) (s : State) (hk : Kept pq s) :
    KeptOut pq (execDoorbellLowWrite page value s) := by
  unfold execDoorbellLowWrite
  try dsimp only
  repeat' first
    | with_reducible assumption
    | with_reducible refine keptOut_next ?_
    | exact keptOut_fault
    | with_reducible refine keptOut_ite ?_ ?_
    | with_reducible apply dbLow_kept
    | intro _
    | with_reducible apply kept_ite

/-- `badDoorbell` keeps the queue, canonical memory and canonical registers. -/
theorem badDoorbell_kept {pq : List Instr} (page queue cause : Nat) (s : State) (hk : Kept pq s) :
    Kept pq (badDoorbell page queue cause s) := by
  unfold badDoorbell
  try dsimp only
  repeat' first
    | with_reducible assumption
    | with_reducible apply State.modBob_kept

/-- `releaseEntries` keeps the queue, canonical memory and canonical registers. -/
theorem releaseEntries_kept {pq : List Instr} (q : Queue) (y0 : Nat) (y1 : Nat) (y2 : State) (hk : Kept pq y2) :
    Kept pq (releaseEntries q y0 y1 y2) := by
  induction y1 generalizing q y0 y2 with
  | zero => exact hk
  | succ n ih =>
    unfold releaseEntries
    try dsimp only
    repeat' first
      | with_reducible assumption
      | apply ih
      | with_reducible apply hostRelease_kept

/-- `commitDoorbell` keeps the queue, canonical memory and canonical registers. -/
theorem commitDoorbell_kept {pq : List Instr} (page low index : Nat) (s : State) (hk : Kept pq s) :
    Kept pq (commitDoorbell page low index s) := by
  unfold commitDoorbell
  try dsimp only
  repeat' first
    | with_reducible assumption
    | with_reducible apply State.modQueue_kept
    | with_reducible apply badDoorbell_kept
    | with_reducible apply releaseEntries_kept
    | intro _
    | with_reducible apply kept_ite

/-- `execDoorbell` keeps the queue, canonical memory and canonical registers. -/
theorem execDoorbell_kept {pq : List Instr} (page : BitVec 12) (low : Option Word) (high : Word) (s : State) (hk : Kept pq s) :
    KeptOut pq (execDoorbell page low high s) := by
  unfold execDoorbell
  try dsimp only
  repeat' first
    | with_reducible assumption
    | with_reducible refine keptOut_next ?_
    | exact keptOut_fault
    | with_reducible refine keptOut_ite ?_ ?_
    | with_reducible apply commitDoorbell_kept
    | intro _
    | with_reducible apply kept_ite

end Sys2Proof.Machine
end

