-- ==== Sys2Proof/Laws/KeepAcceptance.lean ====
section
/-!
SUPPORT. Every operation of Machine/Acceptance.lean leaves the queue alone and keeps memory and the lanes' registers canonical.
-/

namespace Sys2Proof.Machine

/-- `acceptMbx` keeps the queue, canonical memory and canonical registers. -/
theorem acceptMbx_kept {pq : List Instr} (m us steps : Nat) (s : State) (hk : Kept pq s) :
    Kept pq (acceptMbx m us steps s) := by
  unfold acceptMbx
  try dsimp only
  repeat' first
    | with_reducible assumption
    | with_reducible apply State.modFly_kept
    | with_reducible apply State.modMbx_kept
    | with_reducible apply State.drawFree_kept
    | with_reducible apply failMbx_kept
    | intro _
    | with_reducible apply kept_ite
    | with_reducible apply kept_ite_snd
    | split

/-- `execMbxAccept` keeps the queue, canonical memory and canonical registers. -/
theorem execMbxAccept_kept {pq : List Instr} (us steps : Word) (s : State) (hk : Kept pq s) :
    KeptOut pq (execMbxAccept us steps s) := by
  unfold execMbxAccept
  try dsimp only
  repeat' first
    | with_reducible assumption
    | with_reducible refine keptOut_next ?_
    | exact keptOut_fault
    | with_reducible refine keptOut_ite ?_ ?_
    | with_reducible apply acceptMbx_kept
    | intro _
    | with_reducible apply kept_ite
    | with_reducible apply kept_ite_snd
    | split

end Sys2Proof.Machine
end

