-- ==== Sys2Proof/Laws/KeepPower.lean ====
section
/-!
SUPPORT. Every operation of Machine/Power.lean leaves the queue alone and keeps memory and the lanes' registers canonical.
-/

namespace Sys2Proof.Machine

/-- `chooseStep` keeps the queue, canonical memory and canonical registers. -/
theorem chooseStep_kept {pq : List Instr} (i : Nat) (s : State) (hk : Kept pq s) :
    Kept pq (chooseStep i s) := by
  unfold chooseStep
  try dsimp only
  repeat' first
    | with_reducible assumption
    | with_reducible apply State.modPwr_kept
    | with_reducible apply State.modPwrDie_kept
    | intro _
    | with_reducible apply kept_ite

/-- `chooseSteps` keeps the queue, canonical memory and canonical registers. -/
theorem chooseSteps_kept {pq : List Instr} (s : State) (hk : Kept pq s) :
    Kept pq (chooseSteps s) := by
  unfold chooseSteps
  try dsimp only
  repeat' first
    | with_reducible assumption
    | with_reducible apply State.modPwr_kept
    | with_reducible apply chooseStep_kept

/-- `takeStep` keeps the queue, canonical memory and canonical registers. -/
theorem takeStep_kept {pq : List Instr} (i : Nat) (s : State) (hk : Kept pq s) :
    Kept pq (takeStep i s) := by
  unfold takeStep
  try dsimp only
  repeat' first
    | with_reducible assumption
    | with_reducible apply State.modPwrDie_kept
    | with_reducible apply State.modOp_kept
    | intro _
    | with_reducible apply kept_ite
    | with_reducible apply kept_ite_snd
    | split

/-- `takeSteps` keeps the queue, canonical memory and canonical registers. -/
theorem takeSteps_kept {pq : List Instr} (s : State) (hk : Kept pq s) :
    Kept pq (takeSteps s) := by
  unfold takeSteps
  try dsimp only
  repeat' first
    | with_reducible assumption
    | with_reducible apply takeStep_kept

/-- `applyLimits` keeps the queue, canonical memory and canonical registers. -/
theorem applyLimits_kept {pq : List Instr} (s : State) (hk : Kept pq s) :
    Kept pq (applyLimits s) := by
  unfold applyLimits
  try dsimp only
  repeat' first
    | with_reducible assumption
    | with_reducible apply State.modPwr_kept
    | with_reducible apply takeSteps_kept

/-- `execStepChoice` keeps the queue, canonical memory and canonical registers. -/
theorem execStepChoice_kept {pq : List Instr} (s : State) (hk : Kept pq s) :
    KeptOut pq (execStepChoice s) := by
  unfold execStepChoice
  try dsimp only
  repeat' first
    | with_reducible assumption
    | with_reducible refine keptOut_next ?_
    | exact keptOut_fault
    | with_reducible refine keptOut_ite ?_ ?_
    | with_reducible apply chooseSteps_kept
    | intro _
    | with_reducible apply kept_ite

/-- `execBudgetSend` keeps the queue, canonical memory and canonical registers. -/
theorem execBudgetSend_kept {pq : List Instr} (die : Die) (s : State) (hk : Kept pq s) :
    KeptOut pq (execBudgetSend die s) := by
  unfold execBudgetSend
  try dsimp only
  repeat' first
    | with_reducible assumption
    | with_reducible refine keptOut_next ?_
    | exact keptOut_fault
    | with_reducible refine keptOut_ite ?_ ?_
    | with_reducible apply State.modPwr_kept

/-- `computeBudgets` keeps the queue, canonical memory and canonical registers. -/
theorem computeBudgets_kept {pq : List Instr} (s : State) (hk : Kept pq s) :
    Kept pq (computeBudgets s) := by
  unfold computeBudgets
  try dsimp only
  repeat' first
    | with_reducible assumption
    | with_reducible apply State.modPwr_kept

/-- `execBudgetMessage` keeps the queue, canonical memory and canonical registers. -/
theorem execBudgetMessage_kept {pq : List Instr} (die : Die) (s : State) (hk : Kept pq s) :
    KeptOut pq (execBudgetMessage die s) := by
  unfold execBudgetMessage
  try dsimp only
  repeat' first
    | with_reducible assumption
    | with_reducible refine keptOut_next ?_
    | exact keptOut_fault
    | with_reducible refine keptOut_ite ?_ ?_
    | with_reducible apply State.modPwr_kept
    | with_reducible apply computeBudgets_kept
    | intro _
    | with_reducible apply kept_ite
    | with_reducible apply kept_ite_snd
    | split

/-- `countMissing` keeps the queue, canonical memory and canonical registers. -/
theorem countMissing_kept {pq : List Instr} (i : Nat) (s : State) (hk : Kept pq s) :
    Kept pq (countMissing i s) := by
  unfold countMissing
  try dsimp only
  repeat' first
    | with_reducible assumption
    | with_reducible apply State.modPwr_kept
    | with_reducible apply winBump_kept
    | with_reducible apply escalate_kept
    | intro _
    | with_reducible apply kept_ite

/-- `endInterval` keeps the queue, canonical memory and canonical registers. -/
theorem endInterval_kept {pq : List Instr} (s : State) (hk : Kept pq s) :
    Kept pq (endInterval s) := by
  unfold endInterval
  try dsimp only
  repeat' first
    | with_reducible assumption
    | with_reducible apply State.modPwr_kept
    | with_reducible apply computeBudgets_kept
    | with_reducible apply countMissing_kept

/-- `guardTrigger` keeps the queue, canonical memory and canonical registers. -/
theorem guardTrigger_kept {pq : List Instr} (k : GuardKind) (s : State) (hk : Kept pq s) :
    Kept pq (guardTrigger k s) := by
  unfold guardTrigger
  try dsimp only
  repeat' first
    | with_reducible assumption
    | with_reducible apply State.modPwr_kept
    | with_reducible apply noteHold_kept
    | with_reducible apply winBump_kept
    | with_reducible apply escalate_kept
    | intro _
    | with_reducible apply kept_ite

/-- `guardRelease` keeps the queue, canonical memory and canonical registers. -/
theorem guardRelease_kept {pq : List Instr} (s : State) (hk : Kept pq s) :
    Kept pq (guardRelease s) := by
  unfold guardRelease
  try dsimp only
  repeat' first
    | with_reducible assumption
    | with_reducible apply State.modPwr_kept
    | intro _
    | with_reducible apply kept_ite

/-- `execStage1PeakComparator` keeps the queue, canonical memory and canonical registers. -/
theorem execStage1PeakComparator_kept {pq : List Instr} (s : State) (hk : Kept pq s) :
    KeptOut pq (execStage1PeakComparator s) := by
  unfold execStage1PeakComparator
  try dsimp only
  repeat' first
    | with_reducible assumption
    | with_reducible refine keptOut_next ?_
    | exact keptOut_fault
    | with_reducible refine keptOut_ite ?_ ?_
    | with_reducible apply guardTrigger_kept

/-- `regulatorReport` keeps the queue, canonical memory and canonical registers. -/
theorem regulatorReport_kept {pq : List Instr} (r : RegReport) (s : State) (hk : Kept pq s) :
    Kept pq (regulatorReport r s) := by
  unfold regulatorReport
  try dsimp only
  repeat' first
    | with_reducible assumption
    | with_reducible apply State.modPwr_kept
    | with_reducible apply chooseSteps_kept
    | with_reducible apply takeSteps_kept
    | with_reducible apply endInterval_kept
    | with_reducible apply guardTrigger_kept
    | with_reducible apply guardRelease_kept
    | intro _
    | with_reducible apply kept_ite

/-- `execRegulatorReport` keeps the queue, canonical memory and canonical registers. -/
theorem execRegulatorReport_kept {pq : List Instr} (r : RegReport) (s : State) (hk : Kept pq s) :
    KeptOut pq (execRegulatorReport r s) := by
  unfold execRegulatorReport
  try dsimp only
  repeat' first
    | with_reducible assumption
    | with_reducible refine keptOut_next ?_
    | exact keptOut_fault
    | with_reducible refine keptOut_ite ?_ ?_
    | with_reducible apply regulatorReport_kept
    | intro _
    | with_reducible apply kept_ite

/-- `execDroopDetect` keeps the queue, canonical memory and canonical registers. -/
theorem execDroopDetect_kept {pq : List Instr} (die : CDie) (deep : Bool) (s : State) (hk : Kept pq s) :
    KeptOut pq (execDroopDetect die deep s) := by
  unfold execDroopDetect
  try dsimp only
  repeat' first
    | with_reducible assumption
    | with_reducible refine keptOut_next ?_
    | exact keptOut_fault
    | with_reducible refine keptOut_ite ?_ ?_
    | with_reducible apply State.modPwrDie_kept
    | with_reducible apply noteHold_kept
    | with_reducible apply winBump_kept
    | with_reducible apply escalate_kept

/-- `execDroopRecover` keeps the queue, canonical memory and canonical registers. -/
theorem execDroopRecover_kept {pq : List Instr} (die : CDie) (us : Nat) (long : Bool) (s : State) (hk : Kept pq s) :
    KeptOut pq (execDroopRecover die us long s) := by
  unfold execDroopRecover
  try dsimp only
  repeat' first
    | with_reducible assumption
    | with_reducible refine keptOut_next ?_
    | exact keptOut_fault
    | with_reducible refine keptOut_ite ?_ ?_
    | with_reducible apply State.modPwrDie_kept
    | with_reducible apply escalate_kept
    | intro _
    | with_reducible apply kept_ite

/-- `hintFrame` keeps the queue, canonical memory and canonical registers. -/
theorem hintFrame_kept {pq : List Instr} (s : State) (hk : Kept pq s) :
    Kept pq (hintFrame s) := by
  unfold hintFrame
  try dsimp only
  repeat' first
    | with_reducible assumption
    | with_reducible apply State.modPwr_kept

/-- `powerFrame` keeps the queue, canonical memory and canonical registers. -/
theorem powerFrame_kept {pq : List Instr} (s : State) (hk : Kept pq s) :
    Kept pq (powerFrame s) := by
  unfold powerFrame
  try dsimp only
  repeat' first
    | with_reducible assumption
    | with_reducible apply State.modPwr_kept
    | with_reducible apply takeSteps_kept
    | with_reducible apply guardRelease_kept

/-- `judgeCap` keeps the queue, canonical memory and canonical registers. -/
theorem judgeCap_kept {pq : List Instr} (cap : Nat) (s : State) (hk : Kept pq s) :
    Kept pq (judgeCap cap s) := by
  unfold judgeCap
  try dsimp only
  repeat' first
    | with_reducible assumption
    | with_reducible apply State.modPwr_kept
    | with_reducible apply postDevice_kept
    | intro _
    | with_reducible apply kept_ite

/-- `capSet` keeps the queue, canonical memory and canonical registers. -/
theorem capSet_kept {pq : List Instr} (m : Nat) (r : MbxReq) (s : State) (hk : Kept pq s) :
    Kept pq (capSet m r s) := by
  unfold capSet
  try dsimp only
  repeat' first
    | with_reducible assumption
    | with_reducible apply State.modPwr_kept
    | with_reducible apply completeMbx_kept
    | with_reducible apply failMbx_kept
    | with_reducible apply judgeCap_kept
    | intro _
    | with_reducible apply kept_ite

/-- `execCapSet` keeps the queue, canonical memory and canonical registers. -/
theorem execCapSet_kept {pq : List Instr} (mbx : MbxId) (s : State) (hk : Kept pq s) :
    KeptOut pq (execCapSet mbx s) := by
  unfold execCapSet
  try dsimp only
  repeat' first
    | with_reducible assumption
    | with_reducible refine keptOut_next ?_
    | exact keptOut_fault
    | with_reducible refine keptOut_ite ?_ ?_
    | with_reducible apply casbomi_kept
    | with_reducible apply capSet_kept

/-- `execCapReevaluation` keeps the queue, canonical memory and canonical registers. -/
theorem execCapReevaluation_kept {pq : List Instr} (floorW : Half) (s : State) (hk : Kept pq s) :
    KeptOut pq (execCapReevaluation floorW s) := by
  unfold execCapReevaluation
  try dsimp only
  repeat' first
    | with_reducible assumption
    | with_reducible refine keptOut_next ?_
    | exact keptOut_fault
    | with_reducible refine keptOut_ite ?_ ?_
    | with_reducible apply State.modPwr_kept
    | with_reducible apply judgeCap_kept

/-- `execPowerStatus` keeps the queue, canonical memory and canonical registers. -/
theorem execPowerStatus_kept {pq : List Instr} (mbx : MbxId) (s : State) (hk : Kept pq s) :
    KeptOut pq (execPowerStatus mbx s) := by
  unfold execPowerStatus
  try dsimp only
  repeat' first
    | with_reducible assumption
    | with_reducible refine keptOut_next ?_
    | exact keptOut_fault
    | with_reducible refine keptOut_ite ?_ ?_
    | with_reducible apply completeMbx_kept
    | with_reducible apply casbomi_kept
    | intro _

end Sys2Proof.Machine
end

