-- ==== Sys2Proof/Laws/KeepRemote.lean ====
section
/-!
SUPPORT. Every operation of Machine/Remote.lean leaves the queue alone and keeps memory and the lanes' registers canonical.
-/

namespace Sys2Proof.Machine

/-- `injectPacket` keeps the queue, canonical memory and canonical registers. -/
theorem injectPacket_kept {pq : List Instr} (dest : Nat) (payload : List Byte) (s : State) (hk : Kept pq s) :
    Kept pq (injectPacket dest payload s) := by
  unfold injectPacket
  try dsimp only
  repeat' first
    | with_reducible assumption
    | with_reducible apply State.modFab_kept

/-- `injectAll` keeps the queue, canonical memory and canonical registers. -/
theorem injectAll_kept {pq : List Instr} (dest : Nat) (y0 : List (List Byte)) (y1 : State) (hk : Kept pq y1) :
    Kept pq (injectAll dest y0 y1) := by
  induction y0 generalizing dest y1 with
  | nil => exact hk
  | cons x xs ih =>
    unfold injectAll
    try dsimp only
    repeat' first
      | with_reducible assumption
      | apply ih
      | with_reducible apply injectPacket_kept

/-- `sendMessage` keeps the queue, canonical memory and canonical registers. -/
theorem sendMessage_kept {pq : List Instr} (op dest : Nat) (h : PktHdr) (data : List Byte) (s : State) (hk : Kept pq s) :
    Kept pq (sendMessage op dest h data s) := by
  unfold sendMessage
  try dsimp only
  repeat' first
    | with_reducible assumption
    | with_reducible apply State.modFab_kept
    | with_reducible apply injectAll_kept

/-- `sendAnswer` keeps the queue, canonical memory and canonical registers. -/
theorem sendAnswer_kept {pq : List Instr} (dest : Nat) (h : PktHdr) (data : List Byte) (s : State) (hk : Kept pq s) :
    Kept pq (sendAnswer dest h data s) := by
  unfold sendAnswer
  try dsimp only
  repeat' first
    | with_reducible assumption
    | with_reducible apply State.modFab_kept
    | with_reducible apply injectAll_kept

/-- `sendAck` keeps the queue, canonical memory and canonical registers. -/
theorem sendAck_kept {pq : List Instr} (dest : Nat) (transfer : Bool) (data : List Byte) (s : State) (hk : Kept pq s) :
    Kept pq (sendAck dest transfer data s) := by
  unfold sendAck
  try dsimp only
  repeat' first
    | with_reducible assumption
    | with_reducible apply sendAnswer_kept

/-- `checkMismatch` keeps the queue, canonical memory and canonical registers. -/
theorem checkMismatch_kept {pq : List Instr} (s : State) (hk : Kept pq s) :
    Kept pq (checkMismatch s) := by
  unfold checkMismatch
  try dsimp only
  repeat' first
    | with_reducible assumption
    | with_reducible apply State.modFab_kept
    | with_reducible apply winBump_kept
    | with_reducible apply escalate_kept

/-- `targetWrite` keeps the queue, canonical memory and canonical registers. -/
theorem targetWrite_kept {pq : List Instr} (reduce : Bool) (redOp dtype a : Nat) (data : List Byte) (s : State) (hk : Kept pq s) :
    Kept pq (targetWrite reduce redOp dtype a data s).2 := by
  unfold targetWrite
  try dsimp only
  repeat' first
    | with_reducible assumption
    | with_reducible apply clientError_kept
    | with_reducible apply markUndef_kept
    | with_reducible apply fabricRead_kept
    | with_reducible apply fabricWrite_kept
    | intro _
    | with_reducible apply kept_ite
    | with_reducible apply kept_ite_snd
    | split

/-- `peerIncrement` keeps the queue and canonical memory. -/
theorem peerIncrement_kept {pq : List Instr} (q inc : Nat) (s : State) (hk : Kept pq s) :
    Kept pq (peerIncrement q inc s).2 := by
  unfold peerIncrement
  exact kept_ite_snd (postEvent_kept _ _ _ _ _ _ (State.modBob_kept _ _ (State.modQueue_kept _ _ _ hk)))
    (State.modQueue_kept _ _ _ hk)

/-- `counterIncrement` keeps the queue, canonical memory and canonical registers. -/
theorem counterIncrement_kept {pq : List Instr} (g inc : Nat) (s : State) (hk : Kept pq s) :
    Kept pq (counterIncrement g inc s).2 := by
  unfold counterIncrement
  try dsimp only
  repeat' first
    | with_reducible assumption
    | with_reducible apply memAtomic_kept
    | with_reducible apply noteStale_kept
    | with_reducible apply peerIncrement_kept
    | intro _
    | with_reducible apply kept_ite
    | with_reducible apply kept_ite_snd
    | split

/-- `arriveCheck` keeps the queue, canonical memory and canonical registers. -/
theorem arriveCheck_kept {pq : List Instr} (g n acc : Nat) (s : State) (hk : Kept pq s) :
    Kept pq (arriveCheck g n acc s).2 := by
  unfold arriveCheck
  try dsimp only
  repeat' first
    | with_reducible assumption
    | with_reducible apply noteStale_kept
    | intro _
    | with_reducible apply kept_ite
    | with_reducible apply kept_ite_snd
    | split

/-- `targetAtomic` keeps the queue, canonical memory and canonical registers. -/
theorem targetAtomic_kept {pq : List Instr} (g : Nat) (f : Nat → Nat) (s : State) (hk : Kept pq s) :
    Kept pq (targetAtomic g f s).2.2 := by
  unfold targetAtomic
  try dsimp only
  repeat' first
    | with_reducible assumption
    | with_reducible apply narrowWrite_kept
    | with_reducible apply narrowRead_kept
    | with_reducible apply arriveCheck_kept
    | intro _
    | with_reducible apply kept_ite
    | with_reducible apply kept_ite_snd
    | split
    | (with_reducible apply kept_snd; focus assumption)

/-- `deliver` keeps the queue, canonical memory and canonical registers. -/
theorem deliver_kept {pq : List Instr} (c : Client) (st : Status) (value detail : Nat) (s : State) (hk : Kept pq s) :
    Kept pq (deliver c st value detail s) := by
  unfold deliver
  try dsimp only
  repeat' first
    | with_reducible assumption
    | with_reducible apply State.modFab_kept
    | with_reducible apply State.modRes_kept
    | with_reducible apply endCommand_kept
    | with_reducible apply clientError_kept
    | with_reducible apply failMbx_kept
    | intro _
    | with_reducible apply kept_ite
    | with_reducible apply kept_ite_snd
    | split

/-- `sendIncrements` keeps the queue, canonical memory and canonical registers. -/
theorem sendIncrements_kept {pq : List Instr} (y0 : List Nat) (y1 : State) (hk : Kept pq y1) :
    Kept pq (sendIncrements y0 y1) := by
  induction y0 generalizing y1 with
  | nil => exact hk
  | cons x xs ih =>
    unfold sendIncrements
    try dsimp only
    repeat' first
      | with_reducible assumption
      | apply ih
      | with_reducible apply State.modFab_kept
      | with_reducible apply sendMessage_kept
      | intro _
      | with_reducible apply kept_ite
      | with_reducible apply kept_ite_snd
      | split

/-- `settleOp` keeps the queue, canonical memory and canonical registers. -/
theorem settleOp_kept {pq : List Instr} (k : Nat) (s : State) (hk : Kept pq s) :
    Kept pq (settleOp k s) := by
  unfold settleOp
  try dsimp only
  repeat' first
    | with_reducible assumption
    | with_reducible apply State.modFab_kept
    | with_reducible apply deliver_kept
    | with_reducible apply sendIncrements_kept
    | intro _
    | with_reducible apply kept_ite
    | with_reducible apply kept_ite_snd
    | split

/-- `answerOp` keeps the queue, canonical memory and canonical registers. -/
theorem answerOp_kept {pq : List Instr} (k : Nat) (st : Status) (detail : Nat) (s : State) (hk : Kept pq s) :
    Kept pq (answerOp k st detail s) := by
  unfold answerOp
  try dsimp only
  repeat' first
    | with_reducible assumption
    | with_reducible apply State.modFab_kept
    | with_reducible apply settleOp_kept

/-- `newOp` keeps the queue, canonical memory and canonical registers. -/
theorem newOp_kept {pq : List Instr} (o : RemOp) (s : State) (hk : Kept pq s) :
    Kept pq (newOp o s).2 := by
  unfold newOp
  try dsimp only
  repeat' first
    | with_reducible assumption
    | with_reducible apply State.modFab_kept

/-- `sendMessages` keeps the queue, canonical memory and canonical registers. -/
theorem sendMessages_kept {pq : List Instr} (k dest : Nat) (h : PktHdr) (data : List Byte) (y0 : List Nat) (y1 : State) (hk : Kept pq y1) :
    Kept pq (sendMessages k dest h data y0 y1) := by
  induction y0 generalizing k dest h data y1 with
  | nil => exact hk
  | cons x xs ih =>
    unfold sendMessages
    try dsimp only
    repeat' first
      | with_reducible assumption
      | apply ih
      | with_reducible apply sendMessage_kept

/-- `putSelf` keeps the queue, canonical memory and canonical registers. -/
theorem putSelf_kept {pq : List Instr} (r : PutReq) (data : List Byte) (s : State) (hk : Kept pq s) :
    Kept pq (putSelf r data s) := by
  unfold putSelf
  try dsimp only
  repeat' first
    | with_reducible assumption
    | with_reducible apply noteStale_kept
    | with_reducible apply targetWrite_kept
    | with_reducible apply counterIncrement_kept
    | with_reducible apply deliver_kept
    | intro _
    | with_reducible apply kept_ite
    | with_reducible apply kept_ite_snd
    | split
    | (with_reducible apply kept_snd; focus assumption)

/-- `sendTransfer` keeps the queue, canonical memory and canonical registers. -/
theorem sendTransfer_kept {pq : List Instr} (r : XferRest) (i : Nat) (s : State) (hk : Kept pq s) :
    Kept pq (sendTransfer r i s) := by
  unfold sendTransfer
  try dsimp only
  repeat' first
    | with_reducible assumption
    | with_reducible apply State.modFab_kept
    | with_reducible apply State.modLink_kept

/-- `sendTransfers` keeps the queue, canonical memory and canonical registers. -/
theorem sendTransfers_kept {pq : List Instr} (r : XferRest) (y0 : List Nat) (y1 : State) (hk : Kept pq y1) :
    Kept pq (sendTransfers r y0 y1) := by
  induction y0 generalizing r y1 with
  | nil => exact hk
  | cons x xs ih =>
    unfold sendTransfers
    try dsimp only
    repeat' first
      | with_reducible assumption
      | apply ih
      | with_reducible apply State.modFab_kept
      | with_reducible apply sendTransfer_kept
      | intro _
      | with_reducible apply kept_ite

/-- `resumeTransfers` keeps the queue, canonical memory and canonical registers. -/
theorem resumeTransfers_kept {pq : List Instr} (y0 : List XferRest) (y1 : State) (hk : Kept pq y1) :
    Kept pq (resumeTransfers y0 y1) := by
  induction y0 generalizing y1 with
  | nil => exact hk
  | cons x xs ih =>
    unfold resumeTransfers
    try dsimp only
    repeat' first
      | with_reducible assumption
      | apply ih
      | with_reducible apply sendTransfers_kept

/-- `xferFreed` keeps the queue, canonical memory and canonical registers. -/
theorem xferFreed_kept {pq : List Instr} (s : State) (hk : Kept pq s) :
    Kept pq (xferFreed s) := by
  unfold xferFreed
  try dsimp only
  repeat' first
    | with_reducible assumption
    | with_reducible apply State.modFab_kept
    | with_reducible apply resumeTransfers_kept

/-- `putFar` keeps the queue, canonical memory and canonical registers. -/
theorem putFar_kept {pq : List Instr} (r : PutReq) (data : List Byte) (s : State) (hk : Kept pq s) :
    Kept pq (putFar r data s) := by
  unfold putFar
  try dsimp only
  repeat' first
    | with_reducible assumption
    | with_reducible apply settleOp_kept
    | with_reducible apply newOp_kept
    | with_reducible apply sendMessages_kept
    | with_reducible apply sendTransfers_kept
    | intro _
    | with_reducible apply kept_ite
    | with_reducible apply kept_ite_snd
    | split

/-- `issuePut` keeps the queue, canonical memory and canonical registers. -/
theorem issuePut_kept {pq : List Instr} (e : Engine) (r : PutReq) (s : State) (hk : Kept pq s) :
    Kept pq (issuePut e r s) := by
  unfold issuePut
  try dsimp only
  repeat' first
    | with_reducible assumption
    | with_reducible apply failFrame_kept
    | with_reducible apply engineRead_kept
    | with_reducible apply deliver_kept
    | with_reducible apply putSelf_kept
    | with_reducible apply putFar_kept
    | intro _
    | with_reducible apply kept_ite
    | with_reducible apply kept_ite_snd
    | split

/-- `issueGet` keeps the queue, canonical memory and canonical registers. -/
theorem issueGet_kept {pq : List Instr} (client : Client) (unit gaddr len handle off : Nat) (s : State) (hk : Kept pq s) :
    Kept pq (issueGet client unit gaddr len handle off s) := by
  unfold issueGet
  try dsimp only
  repeat' first
    | with_reducible assumption
    | with_reducible apply memRead_kept
    | with_reducible apply sendMessage_kept
    | with_reducible apply targetWrite_kept
    | with_reducible apply arriveCheck_kept
    | with_reducible apply deliver_kept
    | with_reducible apply newOp_kept
    | intro _
    | with_reducible apply kept_ite
    | with_reducible apply kept_ite_snd
    | split
    | (with_reducible apply kept_snd; focus assumption)

/-- `issueAtomic` keeps the queue, canonical memory and canonical registers. -/
theorem issueAtomic_kept {pq : List Instr} (client : Client) (unit op dtype gaddr a b : Nat) (s : State) (hk : Kept pq s) :
    Kept pq (issueAtomic client unit op dtype gaddr a b s) := by
  unfold issueAtomic
  try dsimp only
  repeat' first
    | with_reducible assumption
    | with_reducible apply sendMessage_kept
    | with_reducible apply targetAtomic_kept
    | with_reducible apply deliver_kept
    | with_reducible apply newOp_kept
    | intro _
    | with_reducible apply kept_ite
    | with_reducible apply kept_ite_snd
    | split
    | (with_reducible apply kept_snd; focus assumption)
    | (with_reducible apply kept_trd; focus assumption)

/-- `sendSync` keeps the queue, canonical memory and canonical registers. -/
theorem sendSync_kept {pq : List Instr} (entry frame dest : Nat) (s : State) (hk : Kept pq s) :
    Kept pq (sendSync entry frame dest s) := by
  unfold sendSync
  try dsimp only
  repeat' first
    | with_reducible assumption
    | with_reducible apply State.modFab_kept
    | with_reducible apply sendAnswer_kept
    | intro _
    | with_reducible apply kept_ite

end Sys2Proof.Machine
end

