-- ==== Sys2Proof/Laws/KeepResilience.lean ====
section
/-!
SUPPORT. Every operation of Machine/Resilience.lean leaves the queue alone and keeps memory and the lanes' registers canonical.
-/

namespace Sys2Proof.Machine

/-- `snapFailed` keeps the queue, canonical memory and canonical registers. -/
theorem snapFailed_kept {pq : List Instr} (s : State) (hk : Kept pq s) :
    Kept pq (snapFailed s) := by
  unfold snapFailed
  try dsimp only
  repeat' first
    | with_reducible assumption
    | with_reducible apply State.modRes_kept

/-- `beginSnapshot` keeps the queue, canonical memory and canonical registers. -/
theorem beginSnapshot_kept {pq : List Instr} (full auto : Bool) (label : Nat) (m : Option Nat) (s : State) (hk : Kept pq s) :
    Kept pq (beginSnapshot full auto label m s).2 := by
  unfold beginSnapshot
  try dsimp only
  repeat' first
    | with_reducible assumption
    | with_reducible apply State.modRes_kept
    | with_reducible apply snapFailed_kept
    | intro _
    | with_reducible apply kept_ite
    | with_reducible apply kept_ite_snd
    | split

/-- `snapshotTake` keeps the queue, canonical memory and canonical registers. -/
theorem snapshotTake_kept {pq : List Instr} (m : Nat) (r : MbxReq) (s : State) (hk : Kept pq s) :
    Kept pq (snapshotTake m r s) := by
  unfold snapshotTake
  try dsimp only
  repeat' first
    | with_reducible assumption
    | with_reducible apply State.modMbx_kept
    | with_reducible apply failMbx_kept
    | with_reducible apply beginSnapshot_kept
    | intro _
    | with_reducible apply kept_ite
    | with_reducible apply kept_ite_snd
    | split
    | (with_reducible apply kept_snd; focus assumption)

/-- `execSnapshotTake` keeps the queue, canonical memory and canonical registers. -/
theorem execSnapshotTake_kept {pq : List Instr} (mbx : MbxId) (s : State) (hk : Kept pq s) :
    KeptOut pq (execSnapshotTake mbx s) := by
  unfold execSnapshotTake
  try dsimp only
  repeat' first
    | with_reducible assumption
    | with_reducible refine keptOut_next ?_
    | exact keptOut_fault
    | with_reducible refine keptOut_ite ?_ ?_
    | with_reducible apply casbomi_kept
    | with_reducible apply snapshotTake_kept
    | intro _
    | with_reducible apply kept_ite

/-- `captureSnapshot` keeps the queue, canonical memory and canonical registers. -/
theorem captureSnapshot_kept {pq : List Instr} (j : SnapJob) (s : State) (hk : Kept pq s) :
    Kept pq (captureSnapshot j s) := by
  unfold captureSnapshot
  try dsimp only
  repeat' first
    | with_reducible assumption
    | with_reducible apply State.modRes_kept
    | with_reducible apply cleanAll_kept

/-- `snapFrame` keeps the queue, canonical memory and canonical registers. -/
theorem snapFrame_kept {pq : List Instr} (s : State) (hk : Kept pq s) :
    Kept pq (snapFrame s) := by
  unfold snapFrame
  try dsimp only
  repeat' first
    | with_reducible assumption
    | with_reducible apply captureSnapshot_kept
    | intro _
    | with_reducible apply kept_ite
    | with_reducible apply kept_ite_snd
    | split

/-- `execSnapshotCopyDone` keeps the queue, canonical memory and canonical registers. -/
theorem execSnapshotCopyDone_kept {pq : List Instr} (ms : Nat) (s : State) (hk : Kept pq s) :
    KeptOut pq (execSnapshotCopyDone ms s) := by
  unfold execSnapshotCopyDone
  try dsimp only
  repeat' first
    | with_reducible assumption
    | with_reducible refine keptOut_next ?_
    | exact keptOut_fault
    | with_reducible refine keptOut_ite ?_ ?_
    | with_reducible apply State.modRes_kept
    | with_reducible apply completeMbx_kept
    | intro _
    | with_reducible apply kept_ite
    | with_reducible apply kept_ite_snd
    | split

/-- `execAutoSnapshot` keeps the queue, canonical memory and canonical registers. -/
theorem execAutoSnapshot_kept {pq : List Instr} (s : State) (hk : Kept pq s) :
    KeptOut pq (execAutoSnapshot s) := by
  unfold execAutoSnapshot
  try dsimp only
  repeat' first
    | with_reducible assumption
    | with_reducible refine keptOut_next ?_
    | exact keptOut_fault
    | with_reducible refine keptOut_ite ?_ ?_
    | with_reducible apply State.modRes_kept
    | with_reducible apply beginSnapshot_kept
    | intro _
    | with_reducible apply kept_ite

/-- `healthRecompute` keeps the queue, canonical memory and canonical registers. -/
theorem healthRecompute_kept {pq : List Instr} (s : State) (hk : Kept pq s) :
    Kept pq (healthRecompute s) := by
  unfold healthRecompute
  try dsimp only
  repeat' first
    | with_reducible assumption
    | with_reducible apply State.modRes_kept

/-- `execHealthRecompute` keeps the queue, canonical memory and canonical registers. -/
theorem execHealthRecompute_kept {pq : List Instr} (_l2 _l3 _hour : Unit) (s : State) (hk : Kept pq s) :
    KeptOut pq (execHealthRecompute _l2 _l3 _hour s) := by
  unfold execHealthRecompute
  try dsimp only
  repeat' first
    | with_reducible assumption
    | with_reducible refine keptOut_next ?_
    | exact keptOut_fault
    | with_reducible refine keptOut_ite ?_ ?_
    | with_reducible apply healthRecompute_kept

/-- `failFeed` keeps the queue, canonical memory and canonical registers. -/
theorem failFeed_kept {pq : List Instr} (m : Nat) (r : MbxReq) (s : State) (hk : Kept pq s) :
    Kept pq (failFeed m r s) := by
  unfold failFeed
  try dsimp only
  repeat' first
    | with_reducible assumption
    | with_reducible apply State.modRes_kept
    | with_reducible apply completeMbx_kept
    | with_reducible apply failMbx_kept
    | intro _
    | with_reducible apply kept_ite

/-- `execFailFeed` keeps the queue, canonical memory and canonical registers. -/
theorem execFailFeed_kept {pq : List Instr} (mbx : MbxId) (s : State) (hk : Kept pq s) :
    KeptOut pq (execFailFeed mbx s) := by
  unfold execFailFeed
  try dsimp only
  repeat' first
    | with_reducible assumption
    | with_reducible refine keptOut_next ?_
    | exact keptOut_fault
    | with_reducible refine keptOut_ite ?_ ?_
    | with_reducible apply casbomi_kept
    | with_reducible apply failFeed_kept

/-- `stageLog` keeps the queue, canonical memory and canonical registers. -/
theorem stageLog_kept {pq : List Instr} (s : State) (hk : Kept pq s) :
    Kept pq (stageLog s) := by
  unfold stageLog
  try dsimp only
  repeat' first
    | with_reducible assumption
    | with_reducible apply State.modRes_kept
    | intro _
    | with_reducible apply kept_ite

/-- `execLogDrain` keeps the queue, canonical memory and canonical registers. -/
theorem execLogDrain_kept {pq : List Instr} (s : State) (hk : Kept pq s) :
    KeptOut pq (execLogDrain s) := by
  unfold execLogDrain
  try dsimp only
  repeat' first
    | with_reducible assumption
    | with_reducible refine keptOut_next ?_
    | exact keptOut_fault
    | with_reducible refine keptOut_ite ?_ ?_
    | with_reducible apply State.modRes_kept
    | intro _
    | with_reducible apply kept_ite
    | with_reducible apply kept_ite_snd
    | split

/-- `logRead` keeps the queue, canonical memory and canonical registers. -/
theorem logRead_kept {pq : List Instr} (m : Nat) (r : MbxReq) (s : State) (hk : Kept pq s) :
    Kept pq (logRead m r s) := by
  unfold logRead
  try dsimp only
  repeat' first
    | with_reducible assumption
    | with_reducible apply State.emit_kept
    | with_reducible apply completeMbx_kept
    | with_reducible apply failMbx_kept
    | with_reducible apply flyerWrite_kept
    | intro _
    | with_reducible apply kept_ite
    | with_reducible apply kept_ite_snd
    | split

/-- `execLogRead` keeps the queue, canonical memory and canonical registers. -/
theorem execLogRead_kept {pq : List Instr} (mbx : MbxId) (s : State) (hk : Kept pq s) :
    KeptOut pq (execLogRead mbx s) := by
  unfold execLogRead
  try dsimp only
  repeat' first
    | with_reducible assumption
    | with_reducible refine keptOut_next ?_
    | exact keptOut_fault
    | with_reducible refine keptOut_ite ?_ ?_
    | with_reducible apply casbomi_kept
    | with_reducible apply logRead_kept

/-- `flashOperation` keeps the queue, canonical memory and canonical registers. -/
theorem flashOperation_kept {pq : List Instr} (area : FlashArea) (s : State) (hk : Kept pq s) :
    Kept pq (flashOperation area s) := by
  unfold flashOperation
  try dsimp only
  repeat' first
    | with_reducible assumption
    | with_reducible apply State.modRes_kept
    | with_reducible apply failMbx_kept
    | with_reducible apply undoCommand_kept
    | with_reducible apply snapFailed_kept
    | intro _
    | with_reducible apply kept_ite
    | with_reducible apply kept_ite_snd
    | split

/-- `execFlashError` keeps the queue, canonical memory and canonical registers. -/
theorem execFlashError_kept {pq : List Instr} (area : FlashArea) (s : State) (hk : Kept pq s) :
    KeptOut pq (execFlashError area s) := by
  unfold execFlashError
  try dsimp only
  repeat' first
    | with_reducible assumption
    | with_reducible refine keptOut_next ?_
    | exact keptOut_fault
    | with_reducible refine keptOut_ite ?_ ?_
    | with_reducible apply State.modRes_kept
    | with_reducible apply winBump_kept
    | with_reducible apply escalate_kept
    | with_reducible apply flashOperation_kept

end Sys2Proof.Machine
end

