-- ==== Sys2Proof/Laws/KeepCommands.lean ====
section
/-!
SUPPORT. Every operation of Machine/Commands.lean leaves the queue alone and keeps memory and the lanes' registers canonical.
-/

namespace Sys2Proof.Machine

/-- `hostReleases` keeps the queue, canonical memory and canonical registers. -/
theorem hostReleases_kept {pq : List Instr} (y0 : List (Nat × Nat)) (y1 : State) (hk : Kept pq y1) :
    Kept pq (hostReleases y0 y1) := by
  induction y0 generalizing y1 with
  | nil => exact hk
  | cons x xs ih =>
    unfold hostReleases
    try dsimp only
    repeat' first
      | with_reducible assumption
      | apply ih
      | with_reducible apply hostRelease_kept

/-- `hostAcquires` keeps the queue, canonical memory and canonical registers. -/
theorem hostAcquires_kept {pq : List Instr} (y0 : List (Nat × Nat)) (y1 : State) (hk : Kept pq y1) :
    Kept pq (hostAcquires y0 y1) := by
  induction y0 generalizing y1 with
  | nil => exact hk
  | cons x xs ih =>
    unfold hostAcquires
    try dsimp only
    repeat' first
      | with_reducible assumption
      | apply ih
      | with_reducible apply hostAcquire_kept

/-- `gainCredit` keeps the queue, canonical memory and canonical registers. -/
theorem gainCredit_kept {pq : List Instr} (y0 : List Nat) (y1 : State) (hk : Kept pq y1) :
    Kept pq (gainCredit y0 y1) := by
  induction y0 generalizing y1 with
  | nil => exact hk
  | cons x xs ih =>
    unfold gainCredit
    try dsimp only
    repeat' first
      | with_reducible assumption
      | apply ih
      | with_reducible apply State.modQueue_kept

/-- `selectQueue` keeps the queue, canonical memory and canonical registers. -/
theorem selectQueue_kept {pq : List Instr} (elig : List Nat) (s : State) (hk : Kept pq s) :
    Kept pq (selectQueue elig s).2 := by
  unfold selectQueue
  try dsimp only
  repeat' first
    | with_reducible assumption
    | with_reducible apply State.modQueue_kept
    | with_reducible apply gainCredit_kept
    | intro _
    | with_reducible apply kept_ite
    | with_reducible apply kept_ite_snd
    | split

/-- `consumeHead` keeps the queue, canonical memory and canonical registers. -/
theorem consumeHead_kept {pq : List Instr} (i : Nat) (s : State) (hk : Kept pq s) :
    Kept pq (consumeHead i s) := by
  unfold consumeHead
  try dsimp only
  repeat' first
    | with_reducible assumption
    | with_reducible apply State.modQueue_kept

/-- `takeTag` keeps the queue, canonical memory and canonical registers. -/
theorem takeTag_kept {pq : List Instr} (tag i : Nat) (e : List Byte) (s : State) (hk : Kept pq s) :
    Kept pq (takeTag tag i e s) := by
  unfold takeTag
  try dsimp only
  repeat' first
    | with_reducible assumption
    | with_reducible apply State.modQueue_kept
    | with_reducible apply State.modTag_kept
    | with_reducible apply forgetSpill_kept

/-- `startBad` keeps the queue, canonical memory and canonical registers. -/
theorem startBad_kept {pq : List Instr} (tag i : Nat) (s : State) (hk : Kept pq s) :
    Kept pq (startBad tag i s) := by
  unfold startBad
  try dsimp only
  repeat' first
    | with_reducible assumption
    | with_reducible apply State.modTag_kept
    | with_reducible apply endCommand_kept
    | with_reducible apply recordUe_kept
    | with_reducible apply consumeHead_kept
    | with_reducible apply takeTag_kept

/-- `startCommand` keeps the queue, canonical memory and canonical registers. -/
theorem startCommand_kept {pq : List Instr} (tag i : Nat) (s : State) (hk : Kept pq s) :
    Kept pq (startCommand tag i s) := by
  unfold startCommand
  try dsimp only
  repeat' first
    | with_reducible assumption
    | with_reducible apply endCommand_kept
    | with_reducible apply hostReleases_kept
    | with_reducible apply consumeHead_kept
    | with_reducible apply takeTag_kept
    | with_reducible apply startBad_kept
    | intro _
    | with_reducible apply kept_ite
    | with_reducible apply kept_ite_snd
    | split

/-- `execCommandSelect` keeps the queue, canonical memory and canonical registers. -/
theorem execCommandSelect_kept {pq : List Instr} (s : State) (hk : Kept pq s) :
    KeptOut pq (execCommandSelect s) := by
  unfold execCommandSelect
  try dsimp only
  repeat' first
    | with_reducible assumption
    | with_reducible refine keptOut_next ?_
    | exact keptOut_fault
    | with_reducible refine keptOut_ite ?_ ?_
    | with_reducible apply selectQueue_kept
    | with_reducible apply startCommand_kept
    | intro _
    | with_reducible apply kept_ite
    | with_reducible apply kept_ite_snd
    | split
    | (with_reducible apply kept_snd; focus assumption)

/-- `noteWrote` keeps the queue, canonical memory and canonical registers. -/
theorem noteWrote_kept {pq : List Instr} (tag : Nat) (r : Nat × Nat) (s : State) (hk : Kept pq s) :
    Kept pq (noteWrote tag r s) := by
  unfold noteWrote
  try dsimp only
  repeat' first
    | with_reducible assumption
    | with_reducible apply State.modTag_kept

/-- `finishWrite` keeps the queue, canonical memory and canonical registers. -/
theorem finishWrite_kept {pq : List Instr} (tag a : Nat) (bs : List Byte) (s : State) (hk : Kept pq s) :
    Kept pq (finishWrite tag a bs s) := by
  unfold finishWrite
  try dsimp only
  repeat' first
    | with_reducible assumption
    | with_reducible apply failFrame_kept
    | with_reducible apply endCommand_kept
    | with_reducible apply markUndef_kept
    | with_reducible apply memWriteAs_kept
    | with_reducible apply noteWrote_kept
    | intro _
    | with_reducible apply kept_ite
    | with_reducible apply kept_ite_snd
    | split

/-- `execNop` keeps the queue, canonical memory and canonical registers. -/
theorem execNop_kept {pq : List Instr} (tag : TagId) (s : State) (hk : Kept pq s) :
    KeptOut pq (execNop tag s) := by
  unfold execNop
  try dsimp only
  repeat' first
    | with_reducible assumption
    | with_reducible refine keptOut_next ?_
    | exact keptOut_fault
    | with_reducible refine keptOut_ite ?_ ?_
    | with_reducible apply endCommand_kept
    | intro _
    | with_reducible apply kept_ite
    | with_reducible apply kept_ite_snd
    | split

/-- `copyCommand` keeps the queue, canonical memory and canonical registers. -/
theorem copyCommand_kept {pq : List Instr} (tag : Nat) (e : List Byte) (s : State) (hk : Kept pq s) :
    Kept pq (copyCommand tag e s) := by
  unfold copyCommand
  try dsimp only
  repeat' first
    | with_reducible assumption
    | with_reducible apply failFrame_kept
    | with_reducible apply endCommand_kept
    | with_reducible apply markUndef_kept
    | with_reducible apply engineRead_kept
    | with_reducible apply finishWrite_kept
    | intro _
    | with_reducible apply kept_ite
    | with_reducible apply kept_ite_snd
    | split

/-- `execCopy` keeps the queue, canonical memory and canonical registers. -/
theorem execCopy_kept {pq : List Instr} (tag : TagId) (s : State) (hk : Kept pq s) :
    KeptOut pq (execCopy tag s) := by
  unfold execCopy
  try dsimp only
  repeat' first
    | with_reducible assumption
    | with_reducible refine keptOut_next ?_
    | exact keptOut_fault
    | with_reducible refine keptOut_ite ?_ ?_
    | with_reducible apply spillGate_kept
    | with_reducible apply copyCommand_kept
    | intro _
    | with_reducible apply kept_ite
    | with_reducible apply kept_ite_snd
    | split

/-- `execFill` keeps the queue, canonical memory and canonical registers. -/
theorem execFill_kept {pq : List Instr} (tag : TagId) (s : State) (hk : Kept pq s) :
    KeptOut pq (execFill tag s) := by
  unfold execFill
  try dsimp only
  repeat' first
    | with_reducible assumption
    | with_reducible refine keptOut_next ?_
    | exact keptOut_fault
    | with_reducible refine keptOut_ite ?_ ?_
    | with_reducible apply spillGate_kept
    | with_reducible apply finishWrite_kept
    | intro _
    | with_reducible apply kept_ite
    | with_reducible apply kept_ite_snd
    | split

/-- `markSent` keeps the queue, canonical memory and canonical registers. -/
theorem markSent_kept {pq : List Instr} (tag : Nat) (s : State) (hk : Kept pq s) :
    Kept pq (markSent tag s) := by
  unfold markSent
  try dsimp only
  repeat' first
    | with_reducible assumption
    | with_reducible apply State.modTag_kept

/-- `putCommand` keeps the queue, canonical memory and canonical registers. -/
theorem putCommand_kept {pq : List Instr} (tag : Nat) (e : List Byte) (s : State) (hk : Kept pq s) :
    Kept pq (putCommand tag e s) := by
  unfold putCommand
  try dsimp only
  repeat' first
    | with_reducible assumption
    | with_reducible apply issuePut_kept
    | with_reducible apply markSent_kept
    | intro _
    | with_reducible apply kept_ite

/-- `execPut` keeps the queue, canonical memory and canonical registers. -/
theorem execPut_kept {pq : List Instr} (tag : TagId) (s : State) (hk : Kept pq s) :
    KeptOut pq (execPut tag s) := by
  unfold execPut
  try dsimp only
  repeat' first
    | with_reducible assumption
    | with_reducible refine keptOut_next ?_
    | exact keptOut_fault
    | with_reducible refine keptOut_ite ?_ ?_
    | with_reducible apply spillGate_kept
    | with_reducible apply putCommand_kept
    | intro _
    | with_reducible apply kept_ite
    | with_reducible apply kept_ite_snd
    | split

/-- `execPutReduce` keeps the queue, canonical memory and canonical registers. -/
theorem execPutReduce_kept {pq : List Instr} (tag : TagId) (s : State) (hk : Kept pq s) :
    KeptOut pq (execPutReduce tag s) := by
  unfold execPutReduce
  try dsimp only
  repeat' first
    | with_reducible assumption
    | with_reducible refine keptOut_next ?_
    | exact keptOut_fault
    | with_reducible refine keptOut_ite ?_ ?_
    | with_reducible apply spillGate_kept
    | with_reducible apply putCommand_kept
    | intro _
    | with_reducible apply kept_ite
    | with_reducible apply kept_ite_snd
    | split

/-- `execSignal` keeps the queue, canonical memory and canonical registers. -/
theorem execSignal_kept {pq : List Instr} (tag : TagId) (s : State) (hk : Kept pq s) :
    KeptOut pq (execSignal tag s) := by
  unfold execSignal
  try dsimp only
  repeat' first
    | with_reducible assumption
    | with_reducible refine keptOut_next ?_
    | exact keptOut_fault
    | with_reducible refine keptOut_ite ?_ ?_
    | with_reducible apply spillGate_kept
    | with_reducible apply putCommand_kept
    | intro _
    | with_reducible apply kept_ite
    | with_reducible apply kept_ite_snd
    | split

/-- `getCommand` keeps the queue, canonical memory and canonical registers. -/
theorem getCommand_kept {pq : List Instr} (tag : Nat) (e : List Byte) (s : State) (hk : Kept pq s) :
    Kept pq (getCommand tag e s) := by
  unfold getCommand
  try dsimp only
  repeat' first
    | with_reducible assumption
    | with_reducible apply issueGet_kept
    | with_reducible apply noteWrote_kept
    | with_reducible apply markSent_kept
    | intro _
    | with_reducible apply kept_ite

/-- `execGet` keeps the queue, canonical memory and canonical registers. -/
theorem execGet_kept {pq : List Instr} (tag : TagId) (s : State) (hk : Kept pq s) :
    KeptOut pq (execGet tag s) := by
  unfold execGet
  try dsimp only
  repeat' first
    | with_reducible assumption
    | with_reducible refine keptOut_next ?_
    | exact keptOut_fault
    | with_reducible refine keptOut_ite ?_ ?_
    | with_reducible apply spillGate_kept
    | with_reducible apply getCommand_kept
    | intro _
    | with_reducible apply kept_ite
    | with_reducible apply kept_ite_snd
    | split

/-- `execFetchAdd` keeps the queue, canonical memory and canonical registers. -/
theorem execFetchAdd_kept {pq : List Instr} (tag : TagId) (s : State) (hk : Kept pq s) :
    KeptOut pq (execFetchAdd tag s) := by
  unfold execFetchAdd
  try dsimp only
  repeat' first
    | with_reducible assumption
    | with_reducible refine keptOut_next ?_
    | exact keptOut_fault
    | with_reducible refine keptOut_ite ?_ ?_
    | with_reducible apply spillGate_kept
    | with_reducible apply issueAtomic_kept
    | with_reducible apply markSent_kept
    | intro _
    | with_reducible apply kept_ite
    | with_reducible apply kept_ite_snd
    | split

/-- `execCompareSwap` keeps the queue, canonical memory and canonical registers. -/
theorem execCompareSwap_kept {pq : List Instr} (tag : TagId) (s : State) (hk : Kept pq s) :
    KeptOut pq (execCompareSwap tag s) := by
  unfold execCompareSwap
  try dsimp only
  repeat' first
    | with_reducible assumption
    | with_reducible refine keptOut_next ?_
    | exact keptOut_fault
    | with_reducible refine keptOut_ite ?_ ?_
    | with_reducible apply spillGate_kept
    | with_reducible apply issueAtomic_kept
    | with_reducible apply markSent_kept
    | intro _
    | with_reducible apply kept_ite
    | with_reducible apply kept_ite_snd
    | split

/-- `execRow` keeps the queue, canonical memory and canonical registers. -/
theorem execRow_kept {pq : List Instr} (queue : QueueId) (s : State) (hk : Kept pq s) :
    KeptOut pq (execRow queue s) := by
  unfold execRow
  try dsimp only
  repeat' first
    | with_reducible assumption
    | with_reducible refine keptOut_next ?_
    | exact keptOut_fault
    | with_reducible refine keptOut_ite ?_ ?_
    | with_reducible apply startBad_kept
    | intro _
    | with_reducible apply kept_ite
    | with_reducible apply kept_ite_snd
    | split

/-- `freeCommand` keeps the queue, canonical memory and canonical registers. -/
theorem freeCommand_kept {pq : List Instr} (tag : Nat) (c : Cmd) (s : State) (hk : Kept pq s) :
    Kept pq (freeCommand tag c s) := by
  unfold freeCommand
  try dsimp only
  repeat' first
    | with_reducible assumption
    | with_reducible apply State.modBob_kept
    | with_reducible apply State.modQueue_kept

/-- `countDiscard` keeps the queue, canonical memory and canonical registers. -/
theorem countDiscard_kept {pq : List Instr} (c : Cmd) (s : State) (hk : Kept pq s) :
    Kept pq (countDiscard c s) := by
  unfold countDiscard
  try dsimp only
  repeat' first
    | with_reducible assumption
    | with_reducible apply State.modBob_kept
    | intro _
    | with_reducible apply kept_ite

/-- `writeCompletion` keeps the queue, canonical memory and canonical registers. -/
theorem writeCompletion_kept {pq : List Instr} (tag : Nat) (c : Cmd) (s : State) (hk : Kept pq s) :
    Kept pq (writeCompletion tag c s) := by
  unfold writeCompletion
  try dsimp only
  repeat' first
    | with_reducible assumption
    | with_reducible apply State.modQueue_kept
    | with_reducible apply sendVector_kept
    | with_reducible apply memWrite_kept
    | with_reducible apply freeCommand_kept
    | intro _
    | with_reducible apply kept_ite

/-- `complete` keeps the queue, canonical memory and canonical registers. -/
theorem complete_kept {pq : List Instr} (tag : Nat) (c : Cmd) (s : State) (hk : Kept pq s) :
    Kept pq (complete tag c s) := by
  unfold complete
  try dsimp only
  repeat' first
    | with_reducible assumption
    | with_reducible apply hostAcquires_kept
    | with_reducible apply freeCommand_kept
    | with_reducible apply countDiscard_kept
    | with_reducible apply writeCompletion_kept
    | intro _
    | with_reducible apply kept_ite

/-- `execCommandCompletion` keeps the queue, canonical memory and canonical registers. -/
theorem execCommandCompletion_kept {pq : List Instr} (tag : TagId) (s : State) (hk : Kept pq s) :
    KeptOut pq (execCommandCompletion tag s) := by
  unfold execCommandCompletion
  try dsimp only
  repeat' first
    | with_reducible assumption
    | with_reducible refine keptOut_next ?_
    | exact keptOut_fault
    | with_reducible refine keptOut_ite ?_ ?_
    | with_reducible apply complete_kept
    | intro _
    | with_reducible apply kept_ite
    | with_reducible apply kept_ite_snd
    | split

/-- `admitPick` keeps the queue, canonical memory and canonical registers. -/
theorem admitPick_kept {pq : List Instr} (row i rows : Nat) (skip : List Nat) (s : State) (hk : Kept pq s) :
    Kept pq (admitPick row i rows skip s).2 := by
  unfold admitPick
  try dsimp only
  repeat' first
    | with_reducible assumption
    | with_reducible apply State.modBob_kept
    | with_reducible apply endCommand_kept
    | with_reducible apply hostReleases_kept
    | with_reducible apply consumeHead_kept
    | with_reducible apply takeTag_kept
    | intro _
    | with_reducible apply kept_ite
    | with_reducible apply kept_ite_snd
    | split

/-- `admitEntry` keeps the queue and canonical memory. -/
theorem admitEntry_kept {pq : List Instr} (lo hi : Nat) (y0 y1 : Nat) (y2 : List Nat) (y3 : State) (hk : Kept pq y3) :
    Kept pq (admitEntry lo hi y0 y1 y2 y3) := by
  induction y0 generalizing y1 y2 y3 with
  | zero => exact hk
  | succ n ih =>
    cases y1 with
    | zero => exact hk
    | succ m =>
      simp only [admitEntry]
      split
      · exact hk
      · split
        · exact hk
        · exact ih _ _ _ (admitPick_kept _ _ _ _ _ (selectQueue_kept _ _ hk))

/-- `admitEntries` keeps the queue, canonical memory and canonical registers. -/
theorem admitEntries_kept {pq : List Instr} (y0 : List SlotEntry) (y1 : State) (hk : Kept pq y1) :
    Kept pq (admitEntries y0 y1) := by
  induction y0 generalizing y1 with
  | nil => exact hk
  | cons x xs ih =>
    unfold admitEntries
    try dsimp only
    repeat' first
      | with_reducible assumption
      | apply ih
      | with_reducible apply admitEntry_kept

/-- `noRows` keeps the queue, canonical memory and canonical registers. -/
theorem noRows_kept {pq : List Instr} (s : State) (hk : Kept pq s) :
    Kept pq (noRows s) := by
  unfold noRows
  try dsimp only
  repeat' first
    | with_reducible assumption
    | with_reducible apply State.modBob_kept

/-- `admission` keeps the queue, canonical memory and canonical registers. -/
theorem admission_kept {pq : List Instr} (img : Image) (rank index : Nat) (s : State) (hk : Kept pq s) :
    Kept pq (admission img rank index s) := by
  unfold admission
  try dsimp only
  repeat' first
    | with_reducible assumption
    | with_reducible apply State.modBob_kept
    | with_reducible apply State.modRes_kept
    | with_reducible apply admitEntries_kept
    | with_reducible apply noRows_kept
    | intro _
    | with_reducible apply kept_ite

/-- `completeRow` keeps the queue, canonical memory and canonical registers. -/
theorem completeRow_kept {pq : List Instr} (row : Nat) (s : State) (hk : Kept pq s) :
    Kept pq (completeRow row s) := by
  unfold completeRow
  try dsimp only
  repeat' first
    | with_reducible assumption
    | with_reducible apply State.modTag_kept
    | with_reducible apply endCommand_kept
    | with_reducible apply performHeld_kept
    | with_reducible apply walkRange_kept
    | (refine foldl_kept ?_ ?_; intro _ _ _)
    | intro _
    | with_reducible apply kept_ite
    | with_reducible apply kept_ite_snd
    | split

/-- `ageRow` keeps the queue, canonical memory and canonical registers. -/
theorem ageRow_kept {pq : List Instr} (row : Nat) (s : State) (hk : Kept pq s) :
    Kept pq (ageRow row s) := by
  unfold ageRow
  try dsimp only
  repeat' first
    | with_reducible assumption
    | with_reducible apply writeBytes_kept
    | with_reducible apply completeRow_kept
    | intro _
    | with_reducible apply kept_ite

/-- `ageRows` keeps the queue, canonical memory and canonical registers. -/
theorem ageRows_kept {pq : List Instr} (y0 : List Nat) (y1 : State) (hk : Kept pq y1) :
    Kept pq (ageRows y0 y1) := by
  induction y0 generalizing y1 with
  | nil => exact hk
  | cons x xs ih =>
    unfold ageRows
    try dsimp only
    repeat' first
      | with_reducible assumption
      | apply ih
      | with_reducible apply ageRow_kept

/-- `writeRows` keeps the queue, canonical memory and canonical registers. -/
theorem writeRows_kept {pq : List Instr} (y0 : List Nat) (y1 : State) (hk : Kept pq y1) :
    Kept pq (writeRows y0 y1) := by
  induction y0 generalizing y1 with
  | nil => exact hk
  | cons x xs ih =>
    unfold writeRows
    try dsimp only
    repeat' first
      | with_reducible assumption
      | apply ih
      | with_reducible apply memWrite_kept
      | intro _
      | with_reducible apply kept_ite
      | with_reducible apply kept_ite_snd
      | split

/-- `walkTable` keeps the queue, canonical memory and canonical registers. -/
theorem walkTable_kept {pq : List Instr} (drop : Bool) (s : State) (hk : Kept pq s) :
    Kept pq (walkTable drop s) := by
  unfold walkTable
  try dsimp only
  repeat' first
    | with_reducible assumption
    | with_reducible apply walkRange_kept
    | with_reducible apply walkFlyer_kept

/-- `holdLeadRows` keeps the queue, canonical memory and canonical registers. -/
theorem holdLeadRows_kept {pq : List Instr} (s : State) (hk : Kept pq s) :
    Kept pq (holdLeadRows s) := by
  unfold holdLeadRows
  try dsimp only
  repeat' first
    | with_reducible assumption
    | with_reducible apply performHeld_kept
    | with_reducible apply ageRows_kept
    | with_reducible apply writeRows_kept
    | with_reducible apply walkTable_kept

/-- `endRows` keeps the queue, canonical memory and canonical registers. -/
theorem endRows_kept {pq : List Instr} (st : Status) (s : State) (hk : Kept pq s) :
    Kept pq (endRows st s) := by
  unfold endRows
  try dsimp only
  repeat' first
    | with_reducible assumption
    | with_reducible apply State.modBob_kept
    | with_reducible apply endCommands_kept
    | with_reducible apply writeBytes_kept
    | (refine foldl_kept ?_ ?_; intro _ _ _)

/-- `setDownRows` keeps the queue, canonical memory and canonical registers. -/
theorem setDownRows_kept {pq : List Instr} (s : State) (hk : Kept pq s) :
    Kept pq (setDownRows s) := by
  unfold setDownRows
  try dsimp only
  repeat' first
    | with_reducible assumption
    | with_reducible apply State.modRes_kept

/-- `captureRows` keeps the queue, canonical memory and canonical registers. -/
theorem captureRows_kept {pq : List Instr} (s : State) (hk : Kept pq s) :
    Kept pq (captureRows s) := by
  unfold captureRows
  try dsimp only
  repeat' first
    | with_reducible assumption
    | with_reducible apply State.modRes_kept
    | with_reducible apply setDownRows_kept
    | intro _
    | with_reducible apply kept_ite

/-- `setDownDue` keeps the queue, canonical memory and canonical registers. -/
theorem setDownDue_kept {pq : List Instr} (s : State) (hk : Kept pq s) :
    Kept pq (setDownDue s) := by
  unfold setDownDue
  try dsimp only
  repeat' first
    | with_reducible assumption
    | with_reducible apply setDownRows_kept
    | intro _
    | with_reducible apply kept_ite

/-- `captureDue` keeps the queue, canonical memory and canonical registers. -/
theorem captureDue_kept {pq : List Instr} (s : State) (hk : Kept pq s) :
    Kept pq (captureDue s) := by
  unfold captureDue
  try dsimp only
  repeat' first
    | with_reducible assumption
    | with_reducible apply captureRows_kept
    | intro _
    | with_reducible apply kept_ite

end Sys2Proof.Machine
end

