-- ==== Sys2Proof/Laws/KeepSelfTest.lean ====
section
/-!
SUPPORT. Every operation of Machine/SelfTest.lean leaves the queue alone and keeps memory and the lanes' registers canonical.
-/

namespace Sys2Proof.Machine

/-- `execUnitDue` keeps the queue, canonical memory and canonical registers. -/
theorem execUnitDue_kept {pq : List Instr} (unit : UnitId) (overdue : Bool) (s : State) (hk : Kept pq s) :
    KeptOut pq (execUnitDue unit overdue s) := by
  unfold execUnitDue
  try dsimp only
  repeat' first
    | with_reducible assumption
    | with_reducible refine keptOut_next ?_
    | exact keptOut_fault
    | with_reducible refine keptOut_ite ?_ ?_
    | with_reducible apply State.modSpn_kept
    | with_reducible apply State.modUnit_kept
    | intro _
    | with_reducible apply kept_ite

/-- `testSchedule` keeps the queue, canonical memory and canonical registers. -/
theorem testSchedule_kept {pq : List Instr} (m : Nat) (r : MbxReq) (s : State) (hk : Kept pq s) :
    Kept pq (testSchedule m r s) := by
  unfold testSchedule
  try dsimp only
  repeat' first
    | with_reducible assumption
    | with_reducible apply State.modTst_kept
    | with_reducible apply State.modMbx_kept
    | with_reducible apply completeMbx_kept
    | with_reducible apply failMbx_kept
    | intro _
    | with_reducible apply kept_ite

/-- `execTestSchedule` keeps the queue, canonical memory and canonical registers. -/
theorem execTestSchedule_kept {pq : List Instr} (mbx : MbxId) (s : State) (hk : Kept pq s) :
    KeptOut pq (execTestSchedule mbx s) := by
  unfold execTestSchedule
  try dsimp only
  repeat' first
    | with_reducible assumption
    | with_reducible refine keptOut_next ?_
    | exact keptOut_fault
    | with_reducible refine keptOut_ite ?_ ?_
    | with_reducible apply casbomi_kept
    | with_reducible apply testSchedule_kept

/-- `execTestStatus` keeps the queue, canonical memory and canonical registers. -/
theorem execTestStatus_kept {pq : List Instr} (mbx : MbxId) (s : State) (hk : Kept pq s) :
    KeptOut pq (execTestStatus mbx s) := by
  unfold execTestStatus
  try dsimp only
  repeat' first
    | with_reducible assumption
    | with_reducible refine keptOut_next ?_
    | exact keptOut_fault
    | with_reducible refine keptOut_ite ?_ ?_
    | with_reducible apply completeMbx_kept
    | with_reducible apply casbomi_kept
    | intro _

/-- `debugAccess` keeps the queue, canonical memory and canonical registers. -/
theorem debugAccess_kept {pq : List Instr} (s : State) (hk : Kept pq s) :
    Kept pq (debugAccess s) := by
  unfold debugAccess
  try dsimp only
  repeat' first
    | with_reducible assumption
    | with_reducible apply State.modTst_kept
    | with_reducible apply narrowWrite_kept
    | with_reducible apply narrowRead_kept
    | intro _
    | with_reducible apply kept_ite
    | with_reducible apply kept_ite_snd
    | split

/-- `dbgCtrlWrite` keeps the queue, canonical memory and canonical registers. -/
theorem dbgCtrlWrite_kept {pq : List Instr} (v : Nat) (s : State) (hk : Kept pq s) :
    Kept pq (dbgCtrlWrite v s) := by
  unfold dbgCtrlWrite
  try dsimp only
  repeat' first
    | with_reducible assumption
    | with_reducible apply State.modTst_kept
    | with_reducible apply debugAccess_kept
    | intro _
    | with_reducible apply kept_ite

/-- `execTstDbgGo` keeps the queue, canonical memory and canonical registers. -/
theorem execTstDbgGo_kept {pq : List Instr} (value : Word) (s : State) (hk : Kept pq s) :
    KeptOut pq (execTstDbgGo value s) := by
  unfold execTstDbgGo
  try dsimp only
  repeat' first
    | with_reducible assumption
    | with_reducible refine keptOut_next ?_
    | exact keptOut_fault
    | with_reducible refine keptOut_ite ?_ ?_
    | with_reducible apply dbgCtrlWrite_kept
    | intro _
    | with_reducible apply kept_ite

end Sys2Proof.Machine
end

