-- ==== Sys2Proof/Laws/KeepSteps.lean ====
section
/-!
SUPPORT. Every operation of Machine/Steps.lean leaves the queue alone and keeps memory and the lanes' registers canonical.
-/

namespace Sys2Proof.Machine

/-- `acquirePart` keeps the queue, canonical memory and canonical registers. -/
theorem acquirePart_kept {pq : List Instr} (img : Image) (step : StepEntry) (e : SyncEntry) (s : State) (hk : Kept pq s) :
    Kept pq (acquirePart img step e s) := by
  unfold acquirePart
  try dsimp only
  repeat' first
    | with_reducible assumption
    | with_reducible apply countAcquire_kept
    | with_reducible apply acquireOf_kept
    | intro _
    | with_reducible apply kept_ite

/-- `acquireParts` keeps the queue, canonical memory and canonical registers. -/
theorem acquireParts_kept {pq : List Instr} (img : Image) (rank : Nat) (step : StepEntry) (y0 : List (Nat × SyncEntry)) (y1 : State) (hk : Kept pq y1) :
    Kept pq (acquireParts img rank step y0 y1) := by
  induction y0 generalizing img rank step y1 with
  | nil => exact hk
  | cons x xs ih =>
    unfold acquireParts
    try dsimp only
    repeat' first
      | with_reducible assumption
      | apply ih
      | with_reducible apply acquirePart_kept
      | intro _
      | with_reducible apply kept_ite

/-- `hostParts` keeps the queue, canonical memory and canonical registers. -/
theorem hostParts_kept {pq : List Instr} (y0 : List (Nat × SyncEntry)) (y1 : State) (hk : Kept pq y1) :
    Kept pq (hostParts y0 y1) := by
  induction y0 generalizing y1 with
  | nil => exact hk
  | cons x xs ih =>
    unfold hostParts
    try dsimp only
    repeat' first
      | with_reducible assumption
      | apply ih
      | with_reducible apply hostRelease_kept
      | intro _
      | with_reducible apply kept_ite

/-- `logHostParts` keeps the queue, canonical memory and canonical registers. -/
theorem logHostParts_kept {pq : List Instr} (y0 : List (Nat × SyncEntry)) (y1 : State) (hk : Kept pq y1) :
    Kept pq (logHostParts y0 y1) := by
  induction y0 generalizing y1 with
  | nil => exact hk
  | cons x xs ih =>
    unfold logHostParts
    try dsimp only
    repeat' first
      | with_reducible assumption
      | apply ih
      | with_reducible apply State.modRes_kept
      | intro _
      | with_reducible apply kept_ite

/-- `takeUnit` keeps the queue, canonical memory and canonical registers. -/
theorem takeUnit_kept {pq : List Instr} (i : Nat) (e : StepEntry) (s : State) (hk : Kept pq s) :
    Kept pq (takeUnit i e s) := by
  unfold takeUnit
  try dsimp only
  repeat' first
    | with_reducible assumption
    | with_reducible apply State.modFrm_kept
    | with_reducible apply State.modSpn_kept
    | with_reducible apply State.modVec_kept
    | (refine foldl_kept ?_ ?_; intro _ _ _)
    | intro _

/-- `startWork` keeps the queue, canonical memory and canonical registers. -/
theorem startWork_kept {pq : List Instr} (img : Image) (rank i : Nat) (e : StepEntry) (pairs : List (Nat × SyncEntry)) (run : Image → StepEntry → List Byte → State → State) (s : State) (hrun : ∀ x0 x1 x2 x3, Kept pq x3 → Kept pq (run x0 x1 x2 x3)) (hk : Kept pq s) :
    Kept pq (startWork img rank i e pairs run s) := by
  unfold startWork
  try dsimp only
  repeat' first
    | with_reducible assumption
    | with_reducible apply State.modFrm_kept
    | with_reducible apply acquireParts_kept
    | with_reducible apply logHostParts_kept
    | with_reducible apply takeUnit_kept
    | apply hrun

/-- `startStep` keeps the queue, canonical memory and canonical registers. -/
theorem startStep_kept {pq : List Instr} (i kind opcode : Nat) (run : Image → StepEntry → List Byte → State → State) (s : State) (hrun : ∀ x0 x1 x2 x3, Kept pq x3 → Kept pq (run x0 x1 x2 x3)) (hk : Kept pq s) :
    Kept pq (startStep i kind opcode run s) := by
  unfold startStep
  try dsimp only
  repeat' first
    | with_reducible assumption
    | with_reducible apply clientError_kept
    | with_reducible apply spillGate_kept
    | with_reducible apply hostParts_kept
    | with_reducible apply takeUnit_kept
    | with_reducible apply startWork_kept
    | apply hrun
    | intro _
    | with_reducible apply kept_ite
    | with_reducible apply kept_ite_snd
    | split

/-- `checkedStep` keeps the queue, canonical memory and canonical registers. -/
theorem checkedStep_kept {pq : List Instr} (i : Nat) (os : List Operand) (work : State → State) (s : State) (hwork : ∀ x0, Kept pq x0 → Kept pq (work x0)) (hk : Kept pq s) :
    Kept pq (checkedStep i os work s) := by
  unfold checkedStep
  try dsimp only
  repeat' first
    | with_reducible assumption
    | with_reducible apply stepError_kept
    | apply hwork
    | intro _
    | with_reducible apply kept_ite
    | with_reducible apply kept_ite_snd
    | split

/-- `leaveGroup` keeps the queue, canonical memory and canonical registers. -/
theorem leaveGroup_kept {pq : List Instr} (die step g : Nat) (s : State) (hk : Kept pq s) :
    Kept pq (leaveGroup die step g s) := by
  unfold leaveGroup
  try dsimp only
  repeat' first
    | with_reducible assumption
    | with_reducible apply State.modVec_kept
    | intro _

/-- `leaveUnit` keeps the queue, canonical memory and canonical registers. -/
theorem leaveUnit_kept {pq : List Instr} (i : Nat) (e : StepEntry) (s : State) (hk : Kept pq s) :
    Kept pq (leaveUnit i e s) := by
  unfold leaveUnit
  try dsimp only
  repeat' first
    | with_reducible assumption
    | with_reducible apply State.modSpn_kept
    | with_reducible apply leaveGroup_kept
    | (refine foldl_kept ?_ ?_; intro _ _ _)

/-- `countAttention` keeps the queue, canonical memory and canonical registers. -/
theorem countAttention_kept {pq : List Instr} (e : StepEntry) (s : State) (hk : Kept pq s) :
    Kept pq (countAttention e s) := by
  unfold countAttention
  try dsimp only
  repeat' first
    | with_reducible assumption
    | with_reducible apply State.modVec_kept
    | intro _
    | with_reducible apply kept_ite
    | with_reducible apply kept_ite_snd
    | split

/-- `completeStep` keeps the queue, canonical memory and canonical registers. -/
theorem completeStep_kept {pq : List Instr} (i : Nat) (e : StepEntry) (s : State) (hk : Kept pq s) :
    Kept pq (completeStep i e s) := by
  unfold completeStep
  try dsimp only
  repeat' first
    | with_reducible assumption
    | with_reducible apply State.modFrm_kept
    | with_reducible apply performHeld_kept
    | with_reducible apply leaveUnit_kept
    | with_reducible apply countAttention_kept

/-- `execStepComplete` keeps the queue, canonical memory and canonical registers. -/
theorem execStepComplete_kept {pq : List Instr} (step : Nat) (s : State) (hk : Kept pq s) :
    KeptOut pq (execStepComplete step s) := by
  unfold execStepComplete
  try dsimp only
  repeat' first
    | with_reducible assumption
    | with_reducible refine keptOut_next ?_
    | exact keptOut_fault
    | with_reducible refine keptOut_ite ?_ ?_
    | with_reducible apply spillGate_kept
    | with_reducible apply completeStep_kept
    | intro _
    | with_reducible apply kept_ite
    | with_reducible apply kept_ite_snd
    | split

/-- `releasePart` keeps the queue, canonical memory and canonical registers. -/
theorem releasePart_kept {pq : List Instr} (img : Image) (step : StepEntry) (e : SyncEntry) (s : State) (hk : Kept pq s) :
    Kept pq (releasePart img step e s) := by
  unfold releasePart
  try dsimp only
  repeat' first
    | with_reducible assumption
    | with_reducible apply performRange_kept
    | with_reducible apply countRelease_kept
    | with_reducible apply releaseOf_kept
    | intro _
    | with_reducible apply kept_ite
    | with_reducible apply kept_ite_snd
    | split

/-- `pairReleased` keeps the queue, canonical memory and canonical registers. -/
theorem pairReleased_kept {pq : List Instr} (img : Image) (k : Nat) (e : SyncEntry) (s : State) (hk : Kept pq s) :
    Kept pq (pairReleased img k e s) := by
  unfold pairReleased
  try dsimp only
  repeat' first
    | with_reducible assumption
    | with_reducible apply State.modFrm_kept
    | with_reducible apply sendSync_kept
    | intro _
    | with_reducible apply kept_ite

/-- `releasePair` keeps the queue, canonical memory and canonical registers. -/
theorem releasePair_kept {pq : List Instr} (img : Image) (rank k : Nat) (step : StepEntry) (e : SyncEntry) (s : State) (hk : Kept pq s) :
    Kept pq (releasePair img rank k step e s) := by
  unfold releasePair
  try dsimp only
  repeat' first
    | with_reducible assumption
    | with_reducible apply failFrame_kept
    | with_reducible apply hostAcquire_kept
    | with_reducible apply releasePart_kept
    | with_reducible apply pairReleased_kept
    | intro _
    | with_reducible apply kept_ite
    | with_reducible apply kept_ite_snd
    | split

/-- `releaseHostPair` keeps the queue, canonical memory and canonical registers. -/
theorem releaseHostPair_kept {pq : List Instr} (img : Image) (k : Nat) (e : SyncEntry) (s : State) (hk : Kept pq s) :
    Kept pq (releaseHostPair img k e s) := by
  unfold releaseHostPair
  try dsimp only
  repeat' first
    | with_reducible assumption
    | with_reducible apply failFrame_kept
    | with_reducible apply hostRelease_kept
    | with_reducible apply pairReleased_kept
    | intro _
    | with_reducible apply kept_ite
    | with_reducible apply kept_ite_snd
    | split

/-- `execSyncRelease` keeps the queue, canonical memory and canonical registers. -/
theorem execSyncRelease_kept {pq : List Instr} (entry : Nat) (s : State) (hk : Kept pq s) :
    KeptOut pq (execSyncRelease entry s) := by
  unfold execSyncRelease
  try dsimp only
  repeat' first
    | with_reducible assumption
    | with_reducible refine keptOut_next ?_
    | exact keptOut_fault
    | with_reducible refine keptOut_ite ?_ ?_
    | with_reducible apply spillGate_kept
    | with_reducible apply releasePair_kept
    | with_reducible apply releaseHostPair_kept
    | intro _
    | with_reducible apply kept_ite
    | with_reducible apply kept_ite_snd
    | split

/-- `execNmx2Barrier` keeps the queue, canonical memory and canonical registers. -/
theorem execNmx2Barrier_kept {pq : List Instr} (step : Nat) (s : State) (hk : Kept pq s) :
    KeptOut pq (execNmx2Barrier step s) := by
  unfold execNmx2Barrier
  try dsimp only
  repeat' first
    | with_reducible assumption
    | with_reducible refine keptOut_next ?_
    | exact keptOut_fault
    | with_reducible refine keptOut_ite ?_ ?_
    | with_reducible apply State.modFrm_kept
    | with_reducible apply spillGate_kept
    | with_reducible apply barrier_kept
    | intro _
    | with_reducible apply kept_ite
    | with_reducible apply kept_ite_snd
    | split

/-- `postStep` keeps the queue, canonical memory and canonical registers. -/
theorem postStep_kept {pq : List Instr} (args : List Byte) (s : State) (hk : Kept pq s) :
    Kept pq (postStep args s) := by
  unfold postStep
  try dsimp only
  repeat' first
    | with_reducible assumption
    | with_reducible apply State.drawFree_kept
    | with_reducible apply postEvent_kept

/-- `execPost` keeps the queue, canonical memory and canonical registers. -/
theorem execPost_kept {pq : List Instr} (step : Nat) (s : State) (hk : Kept pq s) :
    KeptOut pq (execPost step s) := by
  unfold execPost
  try dsimp only
  repeat' first
    | with_reducible assumption
    | with_reducible refine keptOut_next ?_
    | exact keptOut_fault
    | with_reducible refine keptOut_ite ?_ ?_
    | with_reducible apply startStep_kept
    | with_reducible apply postStep_kept
    | intro _

/-- `flyerCopy` keeps the queue, canonical memory and canonical registers. -/
theorem flyerCopy_kept {pq : List Instr} (step : Nat) (args : List Byte) (s : State) (hk : Kept pq s) :
    Kept pq (flyerCopy step args s) := by
  unfold flyerCopy
  try dsimp only
  repeat' first
    | with_reducible assumption
    | with_reducible apply clientError_kept
    | with_reducible apply noteWrite_kept
    | with_reducible apply flyerRead_kept
    | with_reducible apply flyerWrite_kept
    | with_reducible apply checkedStep_kept
    | intro _
    | with_reducible apply kept_ite
    | with_reducible apply kept_ite_snd
    | split

/-- `execFlyerCopy` keeps the queue, canonical memory and canonical registers. -/
theorem execFlyerCopy_kept {pq : List Instr} (step : Nat) (s : State) (hk : Kept pq s) :
    KeptOut pq (execFlyerCopy step s) := by
  unfold execFlyerCopy
  try dsimp only
  repeat' first
    | with_reducible assumption
    | with_reducible refine keptOut_next ?_
    | exact keptOut_fault
    | with_reducible refine keptOut_ite ?_ ?_
    | with_reducible apply startStep_kept
    | with_reducible apply flyerCopy_kept
    | intro _

end Sys2Proof.Machine
end

