-- ==== Sys2Proof/Laws/KeepSpindle.lean ====
section
/-!
SUPPORT. Every operation of Machine/Spindle.lean leaves the queue alone and keeps memory and the lanes' registers canonical.
-/

namespace Sys2Proof.Machine

/-- `readRows` keeps the queue, canonical memory and canonical registers. -/
theorem readRows_kept {pq : List Instr} (i : Nat) (r : Rows) (len first : Nat) (y0 : Nat) (y1 : State) (hk : Kept pq y1) :
    Kept pq (readRows i r len first y0 y1).s := by
  induction y0 generalizing i r len first y1 with
  | zero => exact hk
  | succ n ih =>
    unfold readRows
    try dsimp only
    repeat' first
      | with_reducible assumption
      | apply ih
      | with_reducible apply engineRead_kept

/-- `matRead` keeps the queue, canonical memory and canonical registers. -/
theorem matRead_kept {pq : List Instr} (a : MatArgs) (scaled : Bool) (i first count : Nat) (s : State) (hk : Kept pq s) :
    Kept pq (matRead a scaled i first count s).s := by
  unfold matRead
  try dsimp only
  repeat' first
    | with_reducible assumption
    | with_reducible apply readRows_kept
    | intro _
    | with_reducible apply kept_ite
    | with_reducible apply kept_ite_snd
    | split

/-- `putRow` keeps the queue, canonical memory and canonical registers. -/
theorem putRow_kept {pq : List Instr} (i step : Nat) (a : MatArgs) (mi first : Nat) (es : List MatElem) (s : State) (hk : Kept pq s) :
    Kept pq (putRow i step a mi first es s) := by
  unfold putRow
  try dsimp only
  repeat' first
    | with_reducible assumption
    | with_reducible apply State.modSpn_kept
    | with_reducible apply issueWrite_kept
    | intro _
    | with_reducible apply kept_ite

/-- `putRows` keeps the queue, canonical memory and canonical registers. -/
theorem putRows_kept {pq : List Instr} (i step : Nat) (a : MatArgs) (first : Nat) (y0 : Nat) (y1 : List (List MatElem)) (y2 : State) (hk : Kept pq y2) :
    Kept pq (putRows i step a first y0 y1 y2) := by
  induction y1 generalizing i step a first y0 y2 with
  | nil => exact hk
  | cons x xs ih =>
    unfold putRows
    try dsimp only
    repeat' first
      | with_reducible assumption
      | apply ih
      | with_reducible apply putRow_kept

/-- `bufferError` keeps the queue, canonical memory and canonical registers. -/
theorem bufferError_kept {pq : List Instr} (step die : Nat) (b : BufferError) (s : State) (hk : Kept pq s) :
    Kept pq (bufferError step die b s) := by
  unfold bufferError
  try dsimp only
  repeat' first
    | with_reducible assumption
    | with_reducible apply clientError_kept
    | with_reducible apply bankCorrected_kept
    | with_reducible apply spindleUncorrectable_kept
    | intro _
    | with_reducible apply kept_ite

/-- `bufferErrors` keeps the queue, canonical memory and canonical registers. -/
theorem bufferErrors_kept {pq : List Instr} (step die : Nat) (y0 : List BufferError) (y1 : State) (hk : Kept pq y1) :
    Kept pq (bufferErrors step die y0 y1) := by
  induction y0 generalizing step die y1 with
  | nil => exact hk
  | cons x xs ih =>
    unfold bufferErrors
    try dsimp only
    repeat' first
      | with_reducible assumption
      | apply ih
      | with_reducible apply bufferError_kept

/-- `matSpoil` keeps the queue, canonical memory and canonical registers. -/
theorem matSpoil_kept {pq : List Instr} (i : Nat) (a : MatArgs) (pk : PairKind) (first count : Nat) (y0 : Nat) (y1 : State) (hk : Kept pq y1) :
    Kept pq (matSpoil i a pk first count y0 y1) := by
  induction y0 generalizing i a pk first count y1 with
  | zero => exact hk
  | succ n ih =>
    unfold matSpoil
    try dsimp only
    repeat' first
      | with_reducible assumption
      | apply ih
      | with_reducible apply State.modSpn_kept
      | with_reducible apply State.drawFrees_kept
      | with_reducible apply markUndef_kept
      | intro _
      | with_reducible apply kept_ite

/-- `matSpindle` keeps the queue, canonical memory and canonical registers. -/
theorem matSpindle_kept {pq : List Instr} (step : Nat) (a : MatArgs) (pk : PairKind) (reached : Nat) (bad : List (Nat × Nat)) (col : Nat × Nat × Nat) (s : State) (hk : Kept pq s) :
    Kept pq (matSpindle step a pk reached bad col s) := by
  unfold matSpindle
  try dsimp only
  repeat' first
    | with_reducible assumption
    | with_reducible apply State.modSpn_kept
    | with_reducible apply State.drawFrees_kept
    | with_reducible apply clientError_kept
    | with_reducible apply matRead_kept
    | with_reducible apply putRows_kept
    | with_reducible apply matSpoil_kept
    | intro _
    | with_reducible apply kept_ite
    | with_reducible apply kept_ite_snd
    | split

/-- `matSpindles` keeps the queue, canonical memory and canonical registers. -/
theorem matSpindles_kept {pq : List Instr} (step : Nat) (a : MatArgs) (pk : PairKind) (reached : Nat) (bad : List (Nat × Nat)) (y0 : List (Nat × Nat × Nat)) (y1 : State) (hk : Kept pq y1) :
    Kept pq (matSpindles step a pk reached bad y0 y1) := by
  induction y0 generalizing step a pk reached bad y1 with
  | nil => exact hk
  | cons x xs ih =>
    unfold matSpindles
    try dsimp only
    repeat' first
      | with_reducible assumption
      | apply ih
      | with_reducible apply matSpindle_kept

/-- `matmulStep` keeps the queue, canonical memory and canonical registers. -/
theorem matmulStep_kept {pq : List Instr} (step reached : Nat) (errs : List BufferError) (e : StepEntry) (args : List Byte) (s : State) (hk : Kept pq s) :
    Kept pq (matmulStep step reached errs e args s) := by
  unfold matmulStep
  try dsimp only
  repeat' first
    | with_reducible assumption
    | with_reducible apply checkedStep_kept
    | with_reducible apply bufferErrors_kept
    | with_reducible apply matSpindles_kept
    | intro _
    | with_reducible apply kept_ite
    | with_reducible apply kept_ite_snd
    | split

/-- `execMatmul` keeps the queue, canonical memory and canonical registers. -/
theorem execMatmul_kept {pq : List Instr} (step : Nat) (reached : Fin 9) (errs : List BufferError) (s : State) (hk : Kept pq s) :
    KeptOut pq (execMatmul step reached errs s) := by
  unfold execMatmul
  try dsimp only
  repeat' first
    | with_reducible assumption
    | with_reducible refine keptOut_next ?_
    | exact keptOut_fault
    | with_reducible refine keptOut_ite ?_ ?_
    | with_reducible apply startStep_kept
    | with_reducible apply matmulStep_kept
    | intro _

/-- `execDutyGranule` keeps the queue, canonical memory and canonical registers. -/
theorem execDutyGranule_kept {pq : List Instr} (die : CDie) (granule : Fin 16) (s : State) (hk : Kept pq s) :
    KeptOut pq (execDutyGranule die granule s) := by
  unfold execDutyGranule
  try dsimp only
  repeat' first
    | with_reducible assumption
    | with_reducible refine keptOut_next ?_
    | exact keptOut_fault
    | with_reducible refine keptOut_ite ?_ ?_
    | with_reducible apply State.modSpn_kept
    | with_reducible apply State.modPwrDie_kept

end Sys2Proof.Machine
end

