-- ==== Sys2Proof/Laws/KeepVector.lean ====
section
/-!
SUPPORT. Every operation of Machine/Vector.lean leaves the queue alone and keeps memory and the lanes' registers canonical.
-/

namespace Sys2Proof.Machine

/-- `placePly` keeps the queue, canonical memory and canonical registers. -/
theorem placePly_kept {pq : List Instr} (die : Nat) (r : PlyRef) (s : State) (hk : Kept pq s) :
    Kept pq (placePly die r s) := by
  unfold placePly
  dsimp only
  split
  · exact hk
  · exact State.modVec_kept _ _ _ hk fun _ hx => filter_wf hx

/-- `plyIssue` keeps the queue, canonical memory and canonical registers. -/
theorem plyIssue_kept {pq : List Instr} (r : PlyRef) (top : Nat) (run : StepEntry → KernelArgs → State → State) (s : State) (hrun : ∀ x0 x1 x2, Kept pq x2 → Kept pq (run x0 x1 x2)) (hk : Kept pq s) :
    Kept pq (plyIssue r top run s) := by
  unfold plyIssue
  try dsimp only
  repeat' first
    | with_reducible assumption
    | with_reducible apply spillGate_kept
    | with_reducible apply placePly_kept
    | apply hrun
    | intro _
    | with_reducible apply kept_ite
    | with_reducible apply kept_ite_snd
    | split
    | (with_reducible apply kept_snd; focus assumption)
    | (with_reducible apply kept_trd; focus assumption)
    | dsimp only
    | assumption

/-- `kernelStep` keeps the queue, canonical memory and canonical registers. -/
theorem kernelStep_kept {pq : List Instr} (step : Nat) (args : List Byte) (s : State) (hk : Kept pq s) :
    Kept pq (kernelStep step args s) := by
  unfold kernelStep
  try dsimp only
  repeat' first
    | with_reducible assumption
    | with_reducible apply checkedStep_kept
    | intro _
    | with_reducible apply kept_ite
    | with_reducible apply kept_ite_snd
    | split
    | (with_reducible apply kept_snd; focus assumption)
    | (with_reducible apply kept_trd; focus assumption)
    | dsimp only
    | assumption

/-- `execKernel` keeps the queue, canonical memory and canonical registers. -/
theorem execKernel_kept {pq : List Instr} (step : Nat) (s : State) (hk : Kept pq s) :
    KeptOut pq (execKernel step s) := by
  unfold execKernel
  try dsimp only
  repeat' first
    | with_reducible assumption
    | with_reducible refine keptOut_next ?_
    | exact keptOut_fault
    | with_reducible refine keptOut_ite ?_ ?_
    | with_reducible apply startStep_kept
    | with_reducible apply kernelStep_kept
    | intro _
    | with_reducible apply kept_ite
    | with_reducible apply kept_ite_snd
    | split
    | (with_reducible apply kept_snd; focus assumption)
    | (with_reducible apply kept_trd; focus assumption)
    | dsimp only
    | assumption

/-- `writeReg` keeps the queue, canonical memory and canonical registers. -/
theorem writeReg_kept {pq : List Instr} (die core ply lane reg value : Nat) (s : State) (hk : Kept pq s) :
    Kept pq (writeReg die core ply lane reg value s) :=
  State.modVec_kept _ _ _ hk fun _ hx => tput_wf hx

/-- `loadRegs` keeps the queue, canonical memory and canonical registers. -/
theorem loadRegs_kept {pq : List Instr} (die core slot lane reg : Nat) (bs : List Byte) (y0 : Nat) (y1 : State) (hk : Kept pq y1) :
    Kept pq (loadRegs die core slot lane reg bs y0 y1) := by
  induction y0 generalizing die core slot lane reg bs y1 with
  | zero => exact hk
  | succ n ih =>
    unfold loadRegs
    try dsimp only
    repeat' first
      | with_reducible assumption
      | apply ih
      | with_reducible apply writeReg_kept
      | intro _
      | with_reducible apply kept_ite
      | with_reducible apply kept_ite_snd
      | split
      | (with_reducible apply kept_snd; focus assumption)
      | (with_reducible apply kept_trd; focus assumption)
      | dsimp only
      | assumption

/-- `plyErrors` keeps the queue, canonical memory and canonical registers. -/
theorem plyErrors_kept {pq : List Instr} (e : StepEntry) (r : PlyRef) (x : PlyErrors) (s : State) (hk : Kept pq s) :
    Kept pq (plyErrors e r x s) := by
  unfold plyErrors
  try dsimp only
  repeat' first
    | with_reducible assumption
    | with_reducible apply clientError_kept
    | with_reducible apply applyCells_kept
    | with_reducible apply registerParity_kept
    | intro _
    | with_reducible apply kept_ite
    | with_reducible apply kept_ite_snd
    | split
    | (with_reducible apply kept_snd; focus assumption)
    | (with_reducible apply kept_trd; focus assumption)
    | dsimp only
    | assumption

/-- `delivered` keeps the queue, canonical memory and canonical registers. -/
theorem delivered_kept {pq : List Instr} (bad : Bool) (a n : Nat) (r : Access) (hk : Kept pq r.s) :
    Kept pq (delivered bad a n r).2 := by
  unfold delivered
  try dsimp only
  repeat' first
    | with_reducible assumption
    | with_reducible apply State.drawFree_kept
    | intro _
    | with_reducible apply kept_ite
    | with_reducible apply kept_ite_snd
    | split
    | (with_reducible apply kept_snd; focus assumption)
    | (with_reducible apply kept_trd; focus assumption)
    | dsimp only
    | assumption

/-- `noteAccess` keeps the queue, canonical memory and canonical registers. -/
theorem noteAccess_kept {pq : List Instr} (step : Nat) (r : Access) (hk : Kept pq r.s) :
    Kept pq (noteAccess step r).s := by
  unfold noteAccess
  try dsimp only
  repeat' first
    | with_reducible assumption
    | with_reducible apply clientError_kept
    | intro _
    | with_reducible apply kept_ite
    | with_reducible apply kept_ite_snd
    | split
    | (with_reducible apply kept_snd; focus assumption)
    | (with_reducible apply kept_trd; focus assumption)
    | dsimp only
    | assumption

/-- `suppressed` keeps the queue, canonical memory and canonical registers. -/
theorem suppressed_kept {pq : List Instr} (step die : Nat) (st : Status) (detail : Nat) (s : State) (hk : Kept pq s) :
    Kept pq (suppressed step die st detail s) := by
  unfold suppressed
  try dsimp only
  repeat' first
    | with_reducible assumption
    | with_reducible apply State.modVec_kept
    | with_reducible apply stepError_kept
    | intro _
    | with_reducible apply kept_ite
    | with_reducible apply kept_ite_snd
    | split
    | (with_reducible apply kept_snd; focus assumption)
    | (with_reducible apply kept_trd; focus assumption)
    | dsimp only
    | assumption

/-- `loadLanes` keeps the queue, canonical memory and canonical registers. -/
theorem loadLanes_kept {pq : List Instr} (die : Nat) (a : PlyAccess) (bs : List Byte) (y0 : List Nat) (y1 : State) (hk : Kept pq y1) :
    Kept pq (loadLanes die a bs y0 y1) := by
  induction y0 generalizing die a bs y1 with
  | nil => exact hk
  | cons x xs ih =>
    unfold loadLanes
    try dsimp only
    repeat' first
      | with_reducible assumption
      | apply ih
      | with_reducible apply loadRegs_kept
      | intro _
      | with_reducible apply kept_ite
      | with_reducible apply kept_ite_snd
      | split
      | (with_reducible apply kept_snd; focus assumption)
      | (with_reducible apply kept_trd; focus assumption)
      | dsimp only
      | assumption

/-- `vectorLoad` keeps the queue, canonical memory and canonical registers. -/
theorem vectorLoad_kept {pq : List Instr} (a : PlyAccess) (e : StepEntry) (k : KernelArgs) (s : State) (hk : Kept pq s) :
    Kept pq (vectorLoad a e k s) := by
  unfold vectorLoad
  try dsimp only
  repeat' first
    | with_reducible assumption
    | with_reducible apply engineRead_kept
    | with_reducible apply plyErrors_kept
    | with_reducible apply delivered_kept
    | with_reducible apply noteAccess_kept
    | with_reducible apply suppressed_kept
    | with_reducible apply loadLanes_kept
    | intro _
    | with_reducible apply kept_ite
    | with_reducible apply kept_ite_snd
    | split
    | (with_reducible apply kept_snd; focus assumption)
    | (with_reducible apply kept_trd; focus assumption)
    | dsimp only
    | assumption

/-- `execVectorLoad` keeps the queue, canonical memory and canonical registers. -/
theorem execVectorLoad_kept {pq : List Instr} (a : PlyAccess) (s : State) (hk : Kept pq s) :
    KeptOut pq (execVectorLoad a s) := by
  unfold execVectorLoad
  try dsimp only
  repeat' first
    | with_reducible assumption
    | with_reducible refine keptOut_next ?_
    | exact keptOut_fault
    | with_reducible refine keptOut_ite ?_ ?_
    | with_reducible apply plyIssue_kept
    | with_reducible apply vectorLoad_kept
    | intro _
    | with_reducible apply kept_ite
    | with_reducible apply kept_ite_snd
    | split
    | (with_reducible apply kept_snd; focus assumption)
    | (with_reducible apply kept_trd; focus assumption)
    | dsimp only
    | assumption

/-- `plyWrite` keeps the queue, canonical memory and canonical registers. -/
theorem plyWrite_kept {pq : List Instr} (e : StepEntry) (step core addr : Nat) (bs : List Byte) (narrow : Bool) (s : State) (hk : Kept pq s) :
    Kept pq (plyWrite e step core addr bs narrow s) := by
  unfold plyWrite
  try dsimp only
  repeat' first
    | with_reducible assumption
    | with_reducible apply issueWrite_kept
    | intro _
    | with_reducible apply kept_ite
    | with_reducible apply kept_ite_snd
    | split
    | (with_reducible apply kept_snd; focus assumption)
    | (with_reducible apply kept_trd; focus assumption)
    | dsimp only
    | assumption

/-- `storeLanes` keeps the queue, canonical memory and canonical registers. -/
theorem storeLanes_kept {pq : List Instr} (e : StepEntry) (a : PlyAccess) (addr : Nat) (y0 : List Nat) (y1 : State) (hk : Kept pq y1) :
    Kept pq (storeLanes e a addr y0 y1) := by
  induction y0 generalizing e a addr y1 with
  | nil => exact hk
  | cons x xs ih =>
    unfold storeLanes
    try dsimp only
    repeat' first
      | with_reducible assumption
      | apply ih
      | with_reducible apply plyWrite_kept
      | intro _
      | with_reducible apply kept_ite
      | with_reducible apply kept_ite_snd
      | split
      | (with_reducible apply kept_snd; focus assumption)
      | (with_reducible apply kept_trd; focus assumption)
      | dsimp only
      | assumption

/-- `vectorStore` keeps the queue, canonical memory and canonical registers. -/
theorem vectorStore_kept {pq : List Instr} (a : PlyAccess) (e : StepEntry) (k : KernelArgs) (s : State) (hk : Kept pq s) :
    Kept pq (vectorStore a e k s) := by
  unfold vectorStore
  try dsimp only
  repeat' first
    | with_reducible assumption
    | with_reducible apply plyErrors_kept
    | with_reducible apply suppressed_kept
    | with_reducible apply plyWrite_kept
    | with_reducible apply storeLanes_kept
    | intro _
    | with_reducible apply kept_ite
    | with_reducible apply kept_ite_snd
    | split
    | (with_reducible apply kept_snd; focus assumption)
    | (with_reducible apply kept_trd; focus assumption)
    | dsimp only
    | assumption

/-- `execVectorStore` keeps the queue, canonical memory and canonical registers. -/
theorem execVectorStore_kept {pq : List Instr} (a : PlyAccess) (s : State) (hk : Kept pq s) :
    KeptOut pq (execVectorStore a s) := by
  unfold execVectorStore
  try dsimp only
  repeat' first
    | with_reducible assumption
    | with_reducible refine keptOut_next ?_
    | exact keptOut_fault
    | with_reducible refine keptOut_ite ?_ ?_
    | with_reducible apply plyIssue_kept
    | with_reducible apply vectorStore_kept
    | intro _
    | with_reducible apply kept_ite
    | with_reducible apply kept_ite_snd
    | split
    | (with_reducible apply kept_snd; focus assumption)
    | (with_reducible apply kept_trd; focus assumption)
    | dsimp only
    | assumption

/-- `scalarRead` keeps the queue, canonical memory and canonical registers. -/
theorem scalarRead_kept {pq : List Instr} (e : StepEntry) (core a n : Nat) (y0 : List Nat) (y1 : Access) (hk : Kept pq y1.s) :
    Kept pq (scalarRead e core a n y0 y1).s := by
  induction y0 generalizing e core a n y1 with
  | nil => exact hk
  | cons x xs ih =>
    unfold scalarRead
    try dsimp only
    repeat' first
      | with_reducible assumption
      | apply ih
      | with_reducible apply ownFirst_kept
      | with_reducible apply engineRead_kept
      | with_reducible apply rlcRead_kept
      | intro _
      | with_reducible apply kept_ite
      | with_reducible apply kept_ite_snd
      | split
      | (with_reducible apply kept_snd; focus assumption)
      | (with_reducible apply kept_trd; focus assumption)
      | dsimp only
      | assumption

/-- `scalarLoad` keeps the queue, canonical memory and canonical registers. -/
theorem scalarLoad_kept {pq : List Instr} (a : PlyAccess) (e : StepEntry) (k : KernelArgs) (s : State) (hk : Kept pq s) :
    Kept pq (scalarLoad a e k s) := by
  unfold scalarLoad
  try dsimp only
  repeat' first
    | with_reducible assumption
    | with_reducible apply loadRegs_kept
    | with_reducible apply plyErrors_kept
    | with_reducible apply delivered_kept
    | with_reducible apply noteAccess_kept
    | with_reducible apply suppressed_kept
    | with_reducible apply scalarRead_kept
    | (refine foldl_kept ?_ ?_; intro _ _ _)
    | intro _
    | with_reducible apply kept_ite
    | with_reducible apply kept_ite_snd
    | split
    | (with_reducible apply kept_snd; focus assumption)
    | (with_reducible apply kept_trd; focus assumption)
    | dsimp only
    | assumption

/-- `execScalarLoad` keeps the queue, canonical memory and canonical registers. -/
theorem execScalarLoad_kept {pq : List Instr} (a : PlyAccess) (s : State) (hk : Kept pq s) :
    KeptOut pq (execScalarLoad a s) := by
  unfold execScalarLoad
  try dsimp only
  repeat' first
    | with_reducible assumption
    | with_reducible refine keptOut_next ?_
    | exact keptOut_fault
    | with_reducible refine keptOut_ite ?_ ?_
    | with_reducible apply plyIssue_kept
    | with_reducible apply scalarLoad_kept
    | intro _
    | with_reducible apply kept_ite
    | with_reducible apply kept_ite_snd
    | split
    | (with_reducible apply kept_snd; focus assumption)
    | (with_reducible apply kept_trd; focus assumption)
    | dsimp only
    | assumption

/-- `scalarWrite` keeps the queue, canonical memory and canonical registers. -/
theorem scalarWrite_kept {pq : List Instr} (e : StepEntry) (step core a : Nat) (bytes : List Byte) (y0 : List Nat) (y1 : State) (hk : Kept pq y1) :
    Kept pq (scalarWrite e step core a bytes y0 y1) := by
  induction y0 generalizing e step core a bytes y1 with
  | nil => exact hk
  | cons x xs ih =>
    unfold scalarWrite
    try dsimp only
    repeat' first
      | with_reducible assumption
      | apply ih
      | with_reducible apply noteWrite_kept
      | with_reducible apply ownFirst_kept
      | with_reducible apply rlcWrite_kept
      | with_reducible apply noteAccess_kept
      | with_reducible apply plyWrite_kept
      | intro _
      | with_reducible apply kept_ite
      | with_reducible apply kept_ite_snd
      | split
      | (with_reducible apply kept_snd; focus assumption)
      | (with_reducible apply kept_trd; focus assumption)
      | dsimp only
      | assumption

/-- `scalarStore` keeps the queue, canonical memory and canonical registers. -/
theorem scalarStore_kept {pq : List Instr} (a : PlyAccess) (e : StepEntry) (k : KernelArgs) (s : State) (hk : Kept pq s) :
    Kept pq (scalarStore a e k s) := by
  unfold scalarStore
  try dsimp only
  repeat' first
    | with_reducible assumption
    | with_reducible apply plyErrors_kept
    | with_reducible apply suppressed_kept
    | with_reducible apply scalarWrite_kept
    | intro _
    | with_reducible apply kept_ite
    | with_reducible apply kept_ite_snd
    | split
    | (with_reducible apply kept_snd; focus assumption)
    | (with_reducible apply kept_trd; focus assumption)
    | dsimp only
    | assumption

/-- `execScalarStore` keeps the queue, canonical memory and canonical registers. -/
theorem execScalarStore_kept {pq : List Instr} (a : PlyAccess) (s : State) (hk : Kept pq s) :
    KeptOut pq (execScalarStore a s) := by
  unfold execScalarStore
  try dsimp only
  repeat' first
    | with_reducible assumption
    | with_reducible refine keptOut_next ?_
    | exact keptOut_fault
    | with_reducible refine keptOut_ite ?_ ?_
    | with_reducible apply plyIssue_kept
    | with_reducible apply scalarStore_kept
    | intro _
    | with_reducible apply kept_ite
    | with_reducible apply kept_ite_snd
    | split
    | (with_reducible apply kept_snd; focus assumption)
    | (with_reducible apply kept_trd; focus assumption)
    | dsimp only
    | assumption

/-- `gatherLanes` keeps the queue, canonical memory and canonical registers. -/
theorem gatherLanes_kept {pq : List Instr} (e : StepEntry) (k : KernelArgs) (a : PlyAccess) (acc : Nat) (y0 : List Nat) (y1 : List GatherLane × State) (hk : Kept pq y1.2) :
    Kept pq (gatherLanes e k a acc y0 y1).2 := by
  induction y0 generalizing e k a acc y1 with
  | nil => exact hk
  | cons x xs ih =>
    unfold gatherLanes
    try dsimp only
    repeat' first
      | with_reducible assumption
      | apply ih
      | with_reducible apply suppressed_kept
      | (refine kept_getD ?_ ?_; intro _)
      | intro _
      | with_reducible apply kept_ite
      | with_reducible apply kept_ite_snd
      | split
      | (with_reducible apply kept_snd; focus assumption)
      | (with_reducible apply kept_trd; focus assumption)
      | dsimp only
      | assumption

/-- `scatterHalf` keeps the queue, canonical memory and canonical registers. -/
theorem scatterHalf_kept {pq : List Instr} (die : Nat) (w : GatherWait) (half : Nat) (y0 : List GatherLane) (y1 : State) (hk : Kept pq y1) :
    Kept pq (scatterHalf die w half y0 y1) := by
  induction y0 generalizing die w half y1 with
  | nil => exact hk
  | cons x xs ih =>
    unfold scatterHalf
    try dsimp only
    repeat' first
      | with_reducible assumption
      | apply ih
      | with_reducible apply issueWrite_kept
      | intro _
      | with_reducible apply kept_ite
      | with_reducible apply kept_ite_snd
      | split
      | (with_reducible apply kept_snd; focus assumption)
      | (with_reducible apply kept_trd; focus assumption)
      | dsimp only
      | assumption

/-- `gatherTake` keeps the queue, canonical memory and canonical registers. -/
theorem gatherTake_kept {pq : List Instr} (die : Nat) (w : GatherWait) (y0 : List Nat) (y1 : State) (hk : Kept pq y1) :
    Kept pq (gatherTake die w y0 y1) := by
  induction y0 generalizing die w y1 with
  | nil => exact hk
  | cons x xs ih =>
    unfold gatherTake
    try dsimp only
    repeat' first
      | with_reducible assumption
      | apply ih
      | with_reducible apply State.modVec_kept
      | with_reducible apply scatterHalf_kept
      | intro _
      | with_reducible apply kept_ite
      | with_reducible apply kept_ite_snd
      | split
      | (with_reducible apply kept_snd; focus assumption)
      | (with_reducible apply kept_trd; focus assumption)
      | dsimp only
      | assumption

/-- `gatherIssue` keeps the queue, canonical memory and canonical registers. -/
theorem gatherIssue_kept {pq : List Instr} (die : Nat) (w : GatherWait) (halves : List Nat) (s : State) (hk : Kept pq s) :
    Kept pq (gatherIssue die w halves s) := by
  unfold gatherIssue
  try dsimp only
  repeat' first
    | with_reducible assumption
    | with_reducible apply State.modVec_kept
    | with_reducible apply gatherTake_kept
    | intro _
    | with_reducible apply kept_ite
    | with_reducible apply kept_ite_snd
    | split
    | (with_reducible apply kept_snd; focus assumption)
    | (with_reducible apply kept_trd; focus assumption)
    | dsimp only
    | assumption

/-- `gatherLocal` keeps the queue, canonical memory and canonical registers. -/
theorem gatherLocal_kept {pq : List Instr} (e : StepEntry) (a : PlyAccess) (y0 : List GatherLane) (y1 : State) (hk : Kept pq y1) :
    Kept pq (gatherLocal e a y0 y1) := by
  induction y0 generalizing e a y1 with
  | nil => exact hk
  | cons x xs ih =>
    unfold gatherLocal
    try dsimp only
    repeat' first
      | with_reducible assumption
      | apply ih
      | with_reducible apply engineRead_kept
      | with_reducible apply loadRegs_kept
      | with_reducible apply delivered_kept
      | with_reducible apply noteAccess_kept
      | intro _
      | with_reducible apply kept_ite
      | with_reducible apply kept_ite_snd
      | split
      | (with_reducible apply kept_snd; focus assumption)
      | (with_reducible apply kept_trd; focus assumption)
      | dsimp only
      | assumption

/-- `gather` keeps the queue, canonical memory and canonical registers. -/
theorem gather_kept {pq : List Instr} (a : PlyAccess) (e : StepEntry) (k : KernelArgs) (s : State) (hk : Kept pq s) :
    Kept pq (gather a e k s) := by
  unfold gather
  try dsimp only
  repeat' first
    | with_reducible assumption
    | with_reducible apply plyErrors_kept
    | with_reducible apply gatherLanes_kept
    | with_reducible apply gatherIssue_kept
    | with_reducible apply gatherLocal_kept
    | intro _
    | with_reducible apply kept_ite
    | with_reducible apply kept_ite_snd
    | split
    | (with_reducible apply kept_snd; focus assumption)
    | (with_reducible apply kept_trd; focus assumption)
    | dsimp only
    | assumption

/-- `execGather` keeps the queue, canonical memory and canonical registers. -/
theorem execGather_kept {pq : List Instr} (a : PlyAccess) (s : State) (hk : Kept pq s) :
    KeptOut pq (execGather a s) := by
  unfold execGather
  try dsimp only
  repeat' first
    | with_reducible assumption
    | with_reducible refine keptOut_next ?_
    | exact keptOut_fault
    | with_reducible refine keptOut_ite ?_ ?_
    | with_reducible apply plyIssue_kept
    | with_reducible apply gather_kept
    | intro _
    | with_reducible apply kept_ite
    | with_reducible apply kept_ite_snd
    | split
    | (with_reducible apply kept_snd; focus assumption)
    | (with_reducible apply kept_trd; focus assumption)
    | dsimp only
    | assumption

/-- `gatherReturn` keeps the queue, canonical memory and canonical registers. -/
theorem gatherReturn_kept {pq : List Instr} (die : Nat) (g : GatherEntry) (s : State) (hk : Kept pq s) :
    Kept pq (gatherReturn die g s) := by
  unfold gatherReturn
  try dsimp only
  repeat' first
    | with_reducible assumption
    | with_reducible apply State.modVec_kept
    | with_reducible apply clientError_kept
    | with_reducible apply narrowRead_kept
    | with_reducible apply ownFirst_kept
    | with_reducible apply delivered_kept
    | intro _
    | with_reducible apply kept_ite
    | with_reducible apply kept_ite_snd
    | split
    | (with_reducible apply kept_snd; focus assumption)
    | (with_reducible apply kept_trd; focus assumption)
    | dsimp only
    | assumption

/-- `gatherNext` keeps the queue, canonical memory and canonical registers. -/
theorem gatherNext_kept {pq : List Instr} (die : Nat) (s : State) (hk : Kept pq s) :
    Kept pq (gatherNext die s) := by
  unfold gatherNext
  try dsimp only
  repeat' first
    | with_reducible assumption
    | with_reducible apply State.modVec_kept
    | with_reducible apply gatherTake_kept
    | intro _
    | with_reducible apply kept_ite
    | with_reducible apply kept_ite_snd
    | split
    | (with_reducible apply kept_snd; focus assumption)
    | (with_reducible apply kept_trd; focus assumption)
    | dsimp only
    | assumption

/-- `countStall` keeps the queue, canonical memory and canonical registers. -/
theorem countStall_kept {pq : List Instr} (die : Nat) (cycles : Word) (s : State) (hk : Kept pq s) :
    Kept pq (countStall die cycles s) := by
  unfold countStall
  try dsimp only
  repeat' first
    | with_reducible assumption
    | with_reducible apply State.modVec_kept
    | intro _
    | with_reducible apply kept_ite
    | with_reducible apply kept_ite_snd
    | split
    | (with_reducible apply kept_snd; focus assumption)
    | (with_reducible apply kept_trd; focus assumption)
    | dsimp only
    | assumption

/-- `execGatherEntryFree` keeps the queue, canonical memory and canonical registers. -/
theorem execGatherEntryFree_kept {pq : List Instr} (die : CDie) (index : Fin 1024) (cycles : Word) (s : State) (hk : Kept pq s) :
    KeptOut pq (execGatherEntryFree die index cycles s) := by
  unfold execGatherEntryFree
  try dsimp only
  repeat' first
    | with_reducible assumption
    | with_reducible refine keptOut_next ?_
    | exact keptOut_fault
    | with_reducible refine keptOut_ite ?_ ?_
    | with_reducible apply State.modVec_kept
    | with_reducible apply gatherReturn_kept
    | with_reducible apply gatherNext_kept
    | with_reducible apply countStall_kept
    | intro _
    | with_reducible apply kept_ite
    | with_reducible apply kept_ite_snd
    | split
    | (with_reducible apply kept_snd; focus assumption)
    | (with_reducible apply kept_trd; focus assumption)
    | dsimp only
    | assumption

/-- `gatherRest` keeps the queue, canonical memory and canonical registers. -/
theorem gatherRest_kept {pq : List Instr} (die core slot : Nat) (y0 : List GatherEntry) (y1 : State) (hk : Kept pq y1) :
    Kept pq (gatherRest die core slot y0 y1) := by
  induction y0 generalizing die core slot y1 with
  | nil => exact hk
  | cons x xs ih =>
    unfold gatherRest
    try dsimp only
    repeat' first
      | with_reducible assumption
      | apply ih
      | with_reducible apply gatherReturn_kept
      | intro _
      | with_reducible apply kept_ite
      | with_reducible apply kept_ite_snd
      | split
      | (with_reducible apply kept_snd; focus assumption)
      | (with_reducible apply kept_trd; focus assumption)
      | dsimp only
      | assumption

/-- `gatherLoad` keeps the queue, canonical memory and canonical registers. -/
theorem gatherLoad_kept {pq : List Instr} (die : Nat) (w : GatherWait) (y0 : List GatherLane) (y1 : State) (hk : Kept pq y1) :
    Kept pq (gatherLoad die w y0 y1) := by
  induction y0 generalizing die w y1 with
  | nil => exact hk
  | cons x xs ih =>
    unfold gatherLoad
    try dsimp only
    repeat' first
      | with_reducible assumption
      | apply ih
      | with_reducible apply loadRegs_kept
      | intro _
      | with_reducible apply kept_ite
      | with_reducible apply kept_ite_snd
      | split
      | (with_reducible apply kept_snd; focus assumption)
      | (with_reducible apply kept_trd; focus assumption)
      | dsimp only
      | assumption

/-- `gatherRefill` keeps the queue, canonical memory and canonical registers. -/
theorem gatherRefill_kept {pq : List Instr} (die : Nat) (y0 : Nat) (y1 : State) (hk : Kept pq y1) :
    Kept pq (gatherRefill die y0 y1) := by
  induction y0 generalizing die y1 with
  | zero => exact hk
  | succ n ih =>
    unfold gatherRefill
    try dsimp only
    repeat' first
      | with_reducible assumption
      | apply ih
      | with_reducible apply gatherNext_kept
      | intro _
      | with_reducible apply kept_ite
      | with_reducible apply kept_ite_snd
      | split
      | (with_reducible apply kept_snd; focus assumption)
      | (with_reducible apply kept_trd; focus assumption)
      | dsimp only
      | assumption

/-- `execGatherDataReturn` keeps the queue, canonical memory and canonical registers. -/
theorem execGatherDataReturn_kept {pq : List Instr} (die : CDie) (core : Fin 64) (ply : GatherEnd) (s : State) (hk : Kept pq s) :
    KeptOut pq (execGatherDataReturn die core ply s) := by
  unfold execGatherDataReturn
  try dsimp only
  repeat' first
    | with_reducible assumption
    | with_reducible refine keptOut_next ?_
    | exact keptOut_fault
    | with_reducible refine keptOut_ite ?_ ?_
    | with_reducible apply State.modVec_kept
    | with_reducible apply countStall_kept
    | with_reducible apply gatherRest_kept
    | with_reducible apply gatherLoad_kept
    | with_reducible apply gatherRefill_kept
    | intro _
    | with_reducible apply kept_ite
    | with_reducible apply kept_ite_snd
    | split
    | (with_reducible apply kept_snd; focus assumption)
    | (with_reducible apply kept_trd; focus assumption)
    | dsimp only
    | assumption

/-- `scatterLocal` keeps the queue, canonical memory and canonical registers. -/
theorem scatterLocal_kept {pq : List Instr} (e : StepEntry) (a : PlyAccess) (y0 : List GatherLane) (y1 : State) (hk : Kept pq y1) :
    Kept pq (scatterLocal e a y0 y1) := by
  induction y0 generalizing e a y1 with
  | nil => exact hk
  | cons x xs ih =>
    unfold scatterLocal
    try dsimp only
    repeat' first
      | with_reducible assumption
      | apply ih
      | with_reducible apply plyWrite_kept
      | intro _
      | with_reducible apply kept_ite
      | with_reducible apply kept_ite_snd
      | split
      | (with_reducible apply kept_snd; focus assumption)
      | (with_reducible apply kept_trd; focus assumption)
      | dsimp only
      | assumption

/-- `scatter` keeps the queue, canonical memory and canonical registers. -/
theorem scatter_kept {pq : List Instr} (a : PlyAccess) (e : StepEntry) (k : KernelArgs) (s : State) (hk : Kept pq s) :
    Kept pq (scatter a e k s) := by
  unfold scatter
  try dsimp only
  repeat' first
    | with_reducible assumption
    | with_reducible apply plyErrors_kept
    | with_reducible apply gatherLanes_kept
    | with_reducible apply gatherIssue_kept
    | with_reducible apply scatterLocal_kept
    | intro _
    | with_reducible apply kept_ite
    | with_reducible apply kept_ite_snd
    | split
    | (with_reducible apply kept_snd; focus assumption)
    | (with_reducible apply kept_trd; focus assumption)
    | dsimp only
    | assumption

/-- `execScatter` keeps the queue, canonical memory and canonical registers. -/
theorem execScatter_kept {pq : List Instr} (a : PlyAccess) (s : State) (hk : Kept pq s) :
    KeptOut pq (execScatter a s) := by
  unfold execScatter
  try dsimp only
  repeat' first
    | with_reducible assumption
    | with_reducible refine keptOut_next ?_
    | exact keptOut_fault
    | with_reducible refine keptOut_ite ?_ ?_
    | with_reducible apply plyIssue_kept
    | with_reducible apply scatter_kept
    | intro _
    | with_reducible apply kept_ite
    | with_reducible apply kept_ite_snd
    | split
    | (with_reducible apply kept_snd; focus assumption)
    | (with_reducible apply kept_trd; focus assumption)
    | dsimp only
    | assumption

/-- `atomicDest` keeps the queue, canonical memory and canonical registers. -/
theorem atomicDest_kept {pq : List Instr} (die : Nat) (r : PlyRef) (lane : Nat) (dst : Option (Fin 256)) (bs : List Byte) (s : State) (hk : Kept pq s) :
    Kept pq (atomicDest die r lane dst bs s) := by
  unfold atomicDest
  try dsimp only
  repeat' first
    | with_reducible assumption
    | with_reducible apply loadRegs_kept
    | intro _
    | with_reducible apply kept_ite
    | with_reducible apply kept_ite_snd
    | split
    | (with_reducible apply kept_snd; focus assumption)
    | (with_reducible apply kept_trd; focus assumption)
    | dsimp only
    | assumption

/-- `localAtomic` keeps the queue, canonical memory and canonical registers. -/
theorem localAtomic_kept {pq : List Instr} (engine : Engine) (step addr n : Nat) (op : LocalOp) (a b : Nat) (s : State) (hk : Kept pq s) :
    Kept pq (localAtomic engine step addr n op a b s).2 := by
  unfold localAtomic
  try dsimp only
  repeat' first
    | with_reducible assumption
    | with_reducible apply memWrite_kept
    | with_reducible apply noteWrite_kept
    | with_reducible apply engineRead_kept
    | with_reducible apply noteAccess_kept
    | intro _
    | with_reducible apply kept_ite
    | with_reducible apply kept_ite_snd
    | split
    | (with_reducible apply kept_snd; focus assumption)
    | (with_reducible apply kept_trd; focus assumption)
    | dsimp only
    | assumption

/-- `atomicLanes` keeps the queue, canonical memory and canonical registers. -/
theorem atomicLanes_kept {pq : List Instr} (a : PlyAtomic) (e : StepEntry) (k : KernelArgs) (y0 : List Nat) (y1 : State) (hk : Kept pq y1) :
    Kept pq (atomicLanes a e k y0 y1) := by
  induction y0 generalizing a e k y1 with
  | nil => exact hk
  | cons x xs ih =>
    unfold atomicLanes
    try dsimp only
    repeat' first
      | with_reducible assumption
      | apply ih
      | with_reducible apply suppressed_kept
      | with_reducible apply atomicDest_kept
      | with_reducible apply localAtomic_kept
      | (refine kept_getD ?_ ?_; intro _)
      | intro _
      | with_reducible apply kept_ite
      | with_reducible apply kept_ite_snd
      | split
      | (with_reducible apply kept_snd; focus assumption)
      | (with_reducible apply kept_trd; focus assumption)
      | dsimp only
      | assumption

/-- `plyAtomic` keeps the queue, canonical memory and canonical registers. -/
theorem plyAtomic_kept {pq : List Instr} (a : PlyAtomic) (s : State) (hk : Kept pq s) :
    Kept pq (plyAtomic a s) := by
  unfold plyAtomic
  try dsimp only
  repeat' first
    | with_reducible assumption
    | with_reducible apply plyIssue_kept
    | with_reducible apply plyErrors_kept
    | with_reducible apply atomicLanes_kept
    | intro _
    | with_reducible apply kept_ite
    | with_reducible apply kept_ite_snd
    | split
    | (with_reducible apply kept_snd; focus assumption)
    | (with_reducible apply kept_trd; focus assumption)
    | dsimp only
    | assumption

/-- `execLocalStoreAtomic` keeps the queue, canonical memory and canonical registers. -/
theorem execLocalStoreAtomic_kept {pq : List Instr} (ref : PlyRef) (region : Fin 16) (lanes : AtomicLanes) (wide : Bool) (op : LocalOp) (a b : Fin 256) (dest : Option (Fin 256)) (s : State) (hk : Kept pq s) :
    KeptOut pq (execLocalStoreAtomic ref region lanes wide op a b dest s) := by
  unfold execLocalStoreAtomic
  try dsimp only
  repeat' first
    | with_reducible assumption
    | with_reducible refine keptOut_next ?_
    | exact keptOut_fault
    | with_reducible refine keptOut_ite ?_ ?_
    | with_reducible apply plyAtomic_kept
    | intro _
    | with_reducible apply kept_ite
    | with_reducible apply kept_ite_snd
    | split
    | (with_reducible apply kept_snd; focus assumption)
    | (with_reducible apply kept_trd; focus assumption)
    | dsimp only
    | assumption

/-- `hankAtomic` keeps the queue, canonical memory and canonical registers. -/
theorem hankAtomic_kept {pq : List Instr} (engine : Engine) (client : Client) (addr : Nat) (op : AtomicOp) (s : State) (hk : Kept pq s) :
    Kept pq (hankAtomic engine client addr op s).2 := by
  unfold hankAtomic
  try dsimp only
  repeat' first
    | with_reducible assumption
    | with_reducible apply clientError_kept
    | with_reducible apply memAtomic_kept
    | with_reducible apply noteWrite_kept
    | with_reducible apply ownFirst_kept
    | intro _
    | with_reducible apply kept_ite
    | with_reducible apply kept_ite_snd
    | split
    | (with_reducible apply kept_snd; focus assumption)
    | (with_reducible apply kept_trd; focus assumption)
    | dsimp only
    | assumption

/-- `kernelAtomic` keeps the queue, canonical memory and canonical registers. -/
theorem kernelAtomic_kept {pq : List Instr} (r : PlyRef) (lane region off : Nat) (op : AtomicOp) (dst : Option (Fin 256)) (err : PlyErrors) (e : StepEntry) (k : KernelArgs) (s : State) (hk : Kept pq s) :
    Kept pq (kernelAtomic r lane region off op dst err e k s) := by
  unfold kernelAtomic
  try dsimp only
  repeat' first
    | with_reducible assumption
    | with_reducible apply plyErrors_kept
    | with_reducible apply suppressed_kept
    | with_reducible apply atomicDest_kept
    | with_reducible apply hankAtomic_kept
    | intro _
    | with_reducible apply kept_ite
    | with_reducible apply kept_ite_snd
    | split
    | (with_reducible apply kept_snd; focus assumption)
    | (with_reducible apply kept_trd; focus assumption)
    | dsimp only
    | assumption

/-- `execHankAtomic` keeps the queue, canonical memory and canonical registers. -/
theorem execHankAtomic_kept {pq : List Instr} (src : AtomicSrc) (region : Fin 16) (addr : BitVec 40) (op : AtomicOp) (dest : Option (Fin 256)) (s : State) (hk : Kept pq s) :
    KeptOut pq (execHankAtomic src region addr op dest s) := by
  cases src
  all_goals unfold execHankAtomic
  all_goals try dsimp only
  repeat' first
    | with_reducible assumption
    | with_reducible refine keptOut_next ?_
    | exact keptOut_fault
    | with_reducible refine keptOut_ite ?_ ?_
    | with_reducible apply spillGate_kept
    | with_reducible apply plyIssue_kept
    | with_reducible apply hankAtomic_kept
    | with_reducible apply kernelAtomic_kept
    | (refine kept_getD ?_ ?_; intro _)
    | intro _
    | with_reducible apply kept_ite
    | with_reducible apply kept_ite_snd
    | split
    | (with_reducible apply kept_snd; focus assumption)
    | (with_reducible apply kept_trd; focus assumption)
    | dsimp only
    | assumption

/-- `arithLanes` keeps the queue, canonical memory and canonical registers. -/
theorem arithLanes_kept {pq : List Instr} (die : Nat) (k : KernelArgs) (x : PlyArith) (numgen free : Nat) (y0 : List Nat) (y1 : State) (hk : Kept pq y1) :
    Kept pq (arithLanes die k x numgen free y0 y1) := by
  induction y0 generalizing die k x numgen free y1 with
  | nil => exact hk
  | cons x xs ih =>
    unfold arithLanes
    try dsimp only
    repeat' first
      | with_reducible assumption
      | apply ih
      | with_reducible apply writeReg_kept
      | intro _
      | with_reducible apply kept_ite
      | with_reducible apply kept_ite_snd
      | split
      | (with_reducible apply kept_snd; focus assumption)
      | (with_reducible apply kept_trd; focus assumption)
      | dsimp only
      | assumption

/-- `vectorArith` keeps the queue, canonical memory and canonical registers. -/
theorem vectorArith_kept {pq : List Instr} (a : PlyArith) (e : StepEntry) (k : KernelArgs) (s : State) (hk : Kept pq s) :
    Kept pq (vectorArith a e k s) := by
  unfold vectorArith
  try dsimp only
  repeat' first
    | with_reducible assumption
    | with_reducible apply State.drawFrees_kept
    | with_reducible apply plyErrors_kept
    | with_reducible apply arithLanes_kept
    | intro _
    | with_reducible apply kept_ite
    | with_reducible apply kept_ite_snd
    | split
    | (with_reducible apply kept_snd; focus assumption)
    | (with_reducible apply kept_trd; focus assumption)
    | dsimp only
    | assumption

/-- `execVectorArith` keeps the queue, canonical memory and canonical registers. -/
theorem execVectorArith_kept {pq : List Instr} (a : PlyArith) (s : State) (hk : Kept pq s) :
    KeptOut pq (execVectorArith a s) := by
  unfold execVectorArith
  try dsimp only
  repeat' first
    | with_reducible assumption
    | with_reducible refine keptOut_next ?_
    | exact keptOut_fault
    | with_reducible refine keptOut_ite ?_ ?_
    | with_reducible apply plyIssue_kept
    | with_reducible apply vectorArith_kept
    | intro _
    | with_reducible apply kept_ite
    | with_reducible apply kept_ite_snd
    | split
    | (with_reducible apply kept_snd; focus assumption)
    | (with_reducible apply kept_trd; focus assumption)
    | dsimp only
    | assumption

/-- `broadcast` keeps the queue, canonical memory and canonical registers. -/
theorem broadcast_kept {pq : List Instr} (die : Nat) (x : PlyReduce) (v : Nat) (ls : List Nat) (s : State) (hk : Kept pq s) :
    Kept pq (broadcast die x v ls s) := by
  unfold broadcast
  try dsimp only
  repeat' first
    | with_reducible assumption
    | with_reducible apply writeReg_kept
    | (refine foldl_kept ?_ ?_; intro _ _ _)
    | intro _
    | with_reducible apply kept_ite
    | with_reducible apply kept_ite_snd
    | split
    | (with_reducible apply kept_snd; focus assumption)
    | (with_reducible apply kept_trd; focus assumption)
    | dsimp only
    | assumption

/-- `reduceLanes` keeps the queue, canonical memory and canonical registers. -/
theorem reduceLanes_kept {pq : List Instr} (x : PlyReduce) (f : List Nat → Nat) (e : StepEntry) (k : KernelArgs) (s : State) (hk : Kept pq s) :
    Kept pq (reduceLanes x f e k s) := by
  unfold reduceLanes
  try dsimp only
  repeat' first
    | with_reducible assumption
    | with_reducible apply State.drawFree_kept
    | with_reducible apply plyErrors_kept
    | with_reducible apply broadcast_kept
    | intro _
    | with_reducible apply kept_ite
    | with_reducible apply kept_ite_snd
    | split
    | (with_reducible apply kept_snd; focus assumption)
    | (with_reducible apply kept_trd; focus assumption)
    | dsimp only
    | assumption

/-- `execPlyReduction` keeps the queue, canonical memory and canonical registers. -/
theorem execPlyReduction_kept {pq : List Instr} (a : PlyReduce) (s : State) (hk : Kept pq s) :
    KeptOut pq (execPlyReduction a s) := by
  unfold execPlyReduction
  try dsimp only
  repeat' first
    | with_reducible assumption
    | with_reducible refine keptOut_next ?_
    | exact keptOut_fault
    | with_reducible refine keptOut_ite ?_ ?_
    | with_reducible apply plyIssue_kept
    | with_reducible apply reduceLanes_kept
    | intro _
    | with_reducible apply kept_ite
    | with_reducible apply kept_ite_snd
    | split
    | (with_reducible apply kept_snd; focus assumption)
    | (with_reducible apply kept_trd; focus assumption)
    | dsimp only
    | assumption

/-- `execBsum32` keeps the queue, canonical memory and canonical registers. -/
theorem execBsum32_kept {pq : List Instr} (a : PlyReduce) (s : State) (hk : Kept pq s) :
    KeptOut pq (execBsum32 a s) := by
  unfold execBsum32
  try dsimp only
  repeat' first
    | with_reducible assumption
    | with_reducible refine keptOut_next ?_
    | exact keptOut_fault
    | with_reducible refine keptOut_ite ?_ ?_
    | with_reducible apply plyIssue_kept
    | with_reducible apply reduceLanes_kept
    | intro _
    | with_reducible apply kept_ite
    | with_reducible apply kept_ite_snd
    | split
    | (with_reducible apply kept_snd; focus assumption)
    | (with_reducible apply kept_trd; focus assumption)
    | dsimp only
    | assumption

end Sys2Proof.Machine
end

