-- ==== Sys2Proof/Laws/KeepAttention.lean ====
section
/-!
SUPPORT. Every operation of Machine/Attention.lean leaves the queue alone and keeps memory and the lanes' registers canonical.
-/

namespace Sys2Proof.Machine

/-- `attnFail` keeps the queue, canonical memory and canonical registers. -/
theorem attnFail_kept {pq : List Instr} (step : Nat) (e : StepEntry) (n : Nat) (st : Status) (detail : Nat) (s : State) (hk : Kept pq s) :
    Kept pq (attnFail step e n st detail s) := by
  unfold attnFail
  try dsimp only
  repeat' first
    | with_reducible assumption
    | with_reducible apply State.modVec_kept
    | with_reducible apply stepError_kept
    | intro _
    | with_reducible apply kept_ite
    | with_reducible apply kept_ite_snd
    | split
    | (with_reducible apply kept_snd; focus assumption)
    | (with_reducible apply kept_trd; focus assumption)
    | dsimp only
    | assumption

/-- `attnRead` keeps the queue, canonical memory and canonical registers. -/
theorem attnRead_kept {pq : List Instr} (step : Nat) (e : StepEntry) (narrow : Bool) (handle off n : Nat) (s : State) (hk : Kept pq s) :
    Kept pq (attnRead step e narrow handle off n s).2 := by
  unfold attnRead
  try dsimp only
  repeat' first
    | with_reducible assumption
    | with_reducible apply narrowSpan_kept
    | with_reducible apply ownFirst_kept
    | with_reducible apply engineRead_kept
    | with_reducible apply noteAccess_kept
    | with_reducible apply attnFail_kept
    | intro _
    | with_reducible apply kept_ite
    | with_reducible apply kept_ite_snd
    | split
    | (with_reducible apply kept_snd; focus assumption)
    | (with_reducible apply kept_trd; focus assumption)
    | dsimp only
    | assumption

/-- `attnParity` keeps the queue, canonical memory and canonical registers. -/
theorem attnParity_kept {pq : List Instr} (step : Nat) (e : StepEntry) (y0 : List (Fin 64)) (y1 : State) (hk : Kept pq y1) :
    Kept pq (attnParity step e y0 y1) := by
  induction y0 generalizing step e y1 with
  | nil => exact hk
  | cons x xs ih =>
    unfold attnParity
    try dsimp only
    repeat' first
      | with_reducible assumption
      | apply ih
      | with_reducible apply clientError_kept
      | with_reducible apply registerParity_kept
      | intro _
      | with_reducible apply kept_ite
      | with_reducible apply kept_ite_snd
      | split
      | (with_reducible apply kept_snd; focus assumption)
      | (with_reducible apply kept_trd; focus assumption)
      | dsimp only
      | assumption

/-- `attnErrors` keeps the queue, canonical memory and canonical registers. -/
theorem attnErrors_kept {pq : List Instr} (step : Nat) (e : StepEntry) (parity : List (Fin 64)) (cells : CellFaults) (s : State) (hk : Kept pq s) :
    Kept pq (attnErrors step e parity cells s) := by
  unfold attnErrors
  try dsimp only
  repeat' first
    | with_reducible assumption
    | with_reducible apply applyCells_kept
    | with_reducible apply attnParity_kept
    | intro _
    | with_reducible apply kept_ite
    | with_reducible apply kept_ite_snd
    | split
    | (with_reducible apply kept_snd; focus assumption)
    | (with_reducible apply kept_trd; focus assumption)
    | dsimp only
    | assumption

/-- `readTables` keeps the queue, canonical memory and canonical registers. -/
theorem readTables_kept {pq : List Instr} (step : Nat) (e : StepEntry) (a : AttendArgs) (sd : SeqDesc) (n : Nat) (y0 : List Nat) (y1 : List (List Nat)) (y2 : State) (hk : Kept pq y2) :
    Kept pq (readTables step e a sd n y0 y1 y2).2 := by
  induction y0 generalizing step e a sd n y1 y2 with
  | nil => exact hk
  | cons x xs ih =>
    unfold readTables
    try dsimp only
    repeat' first
      | with_reducible assumption
      | apply ih
      | with_reducible apply attnRead_kept
      | intro _
      | with_reducible apply kept_ite
      | with_reducible apply kept_ite_snd
      | split
      | (with_reducible apply kept_snd; focus assumption)
      | (with_reducible apply kept_trd; focus assumption)
      | dsimp only
      | assumption

/-- `readKv` keeps the queue, canonical memory and canonical registers. -/
theorem readKv_kept {pq : List Instr} (e : StepEntry) (sd : SeqDesc) (base : Nat) (y0 : Nat) (y1 : Nat) (y2 : List (List Num) × Option Status × State) (hk : Kept pq y2.2.2) :
    Kept pq (readKv e sd base y0 y1 y2).2.2 := by
  induction y1 generalizing e sd base y0 y2 with
  | zero => exact hk
  | succ n ih =>
    unfold readKv
    try dsimp only
    repeat' first
      | with_reducible assumption
      | apply ih
      | with_reducible apply engineRead_kept
      | intro _
      | with_reducible apply kept_ite
      | with_reducible apply kept_ite_snd
      | split
      | (with_reducible apply kept_snd; focus assumption)
      | (with_reducible apply kept_trd; focus assumption)
      | dsimp only
      | assumption

/-- `readHead` keeps the queue, canonical memory and canonical registers. -/
theorem readHead_kept {pq : List Instr} (u : StepEntry) (sd : SeqDesc) (half lim : Nat) (y0 : Nat) (y1 : List Nat) (y2 : List (List Num) × Option Status × State) (hk : Kept pq y2.2.2) :
    Kept pq (readHead u sd half lim y0 y1 y2).2.2 := by
  induction y1 generalizing u sd half lim y0 y2 with
  | nil => exact hk
  | cons x xs ih =>
    unfold readHead
    try dsimp only
    repeat' first
      | with_reducible assumption
      | apply ih
      | with_reducible apply readKv_kept
      | intro _
      | with_reducible apply kept_ite
      | with_reducible apply kept_ite_snd
      | split
      | (with_reducible apply kept_snd; focus assumption)
      | (with_reducible apply kept_trd; focus assumption)
      | dsimp only
      | assumption

/-- `readHeads` keeps the queue, canonical memory and canonical registers. -/
theorem readHeads_kept {pq : List Instr} (u : StepEntry) (sd : SeqDesc) (lim : Nat) (y0 : List (List Nat)) (y1 : List (List (List Num) × List (List Num)) × Option Status × State) (hk : Kept pq y1.2.2) :
    Kept pq (readHeads u sd lim y0 y1).2.2 := by
  induction y0 generalizing u sd lim y1 with
  | nil => exact hk
  | cons x xs ih =>
    unfold readHeads
    try dsimp only
    repeat' first
      | with_reducible assumption
      | apply ih
      | with_reducible apply readHead_kept
      | intro _
      | with_reducible apply kept_ite
      | with_reducible apply kept_ite_snd
      | split
      | (with_reducible apply kept_snd; focus assumption)
      | (with_reducible apply kept_trd; focus assumption)
      | dsimp only
      | assumption

/-- `attendRows` keeps the queue, canonical memory and canonical registers. -/
theorem attendRows_kept {pq : List Instr} (e : StepEntry) (a : AttendArgs) (sd : SeqDesc) (ps : List Nat) (kvs : List (List (List Num) × List (List Num))) (y0 : Nat) (y1 : Nat) (y2 : AttnOut × Option Status × State) (hk : Kept pq y2.2.2) :
    Kept pq (attendRows e a sd ps kvs y0 y1 y2).2.2 := by
  induction y1 generalizing e a sd ps kvs y0 y2 with
  | zero => exact hk
  | succ n ih =>
    unfold attendRows
    try dsimp only
    repeat' first
      | with_reducible assumption
      | apply ih
      | with_reducible apply engineRead_kept
      | (refine kept_getD ?_ ?_; intro _)
      | intro _
      | with_reducible apply kept_ite
      | with_reducible apply kept_ite_snd
      | split
      | (with_reducible apply kept_snd; focus assumption)
      | (with_reducible apply kept_trd; focus assumption)
      | dsimp only
      | assumption

/-- `attnWrites` keeps the queue, canonical memory and canonical registers. -/
theorem attnWrites_kept {pq : List Instr} (e : StepEntry) (step : Nat) (ws : List (Nat × List Byte)) (s : State) (hk : Kept pq s) :
    Kept pq (attnWrites e step ws s) := by
  unfold attnWrites
  try dsimp only
  repeat' first
    | with_reducible assumption
    | with_reducible apply issueWrite_kept
    | (refine foldl_kept ?_ ?_; intro _ _ _)
    | intro _
    | with_reducible apply kept_ite
    | with_reducible apply kept_ite_snd
    | split
    | (with_reducible apply kept_snd; focus assumption)
    | (with_reducible apply kept_trd; focus assumption)
    | dsimp only
    | assumption

/-- `attnSpoil` keeps the queue, canonical memory and canonical registers. -/
theorem attnSpoil_kept {pq : List Instr} (ws : List (Nat × List Byte)) (s : State) (hk : Kept pq s) :
    Kept pq (attnSpoil ws s) := by
  unfold attnSpoil
  try dsimp only
  repeat' first
    | with_reducible assumption
    | with_reducible apply markUndef_kept
    | (refine foldl_kept ?_ ?_; intro _ _ _)
    | intro _
    | with_reducible apply kept_ite
    | with_reducible apply kept_ite_snd
    | split
    | (with_reducible apply kept_snd; focus assumption)
    | (with_reducible apply kept_trd; focus assumption)
    | dsimp only
    | assumption

/-- `attnFinish` keeps the queue, canonical memory and canonical registers. -/
theorem attnFinish_kept {pq : List Instr} (e : StepEntry) (step : Nat) (r : AttnOut × Option Status × State) (hk : Kept pq r.2.2) :
    Kept pq (attnFinish e step r) := by
  unfold attnFinish
  try dsimp only
  repeat' first
    | with_reducible assumption
    | with_reducible apply State.modVec_kept
    | with_reducible apply clientError_kept
    | with_reducible apply attnWrites_kept
    | with_reducible apply attnSpoil_kept
    | intro _
    | with_reducible apply kept_ite
    | with_reducible apply kept_ite_snd
    | split
    | (with_reducible apply kept_snd; focus assumption)
    | (with_reducible apply kept_trd; focus assumption)
    | dsimp only
    | assumption

/-- `attendCompute` keeps the queue, canonical memory and canonical registers. -/
theorem attendCompute_kept {pq : List Instr} (step : Nat) (e : StepEntry) (a : AttendArgs) (sd : SeqDesc) (ps : List Nat) (lim : Nat) (tabs : List (List Nat)) (s : State) (hk : Kept pq s) :
    Kept pq (attendCompute step e a sd ps lim tabs s) := by
  unfold attendCompute
  try dsimp only
  repeat' first
    | with_reducible assumption
    | with_reducible apply attnFail_kept
    | with_reducible apply readHeads_kept
    | with_reducible apply attendRows_kept
    | with_reducible apply attnFinish_kept
    | intro _
    | with_reducible apply kept_ite
    | with_reducible apply kept_ite_snd
    | split
    | (with_reducible apply kept_snd; focus assumption)
    | (with_reducible apply kept_trd; focus assumption)
    | dsimp only
    | assumption

/-- `attendPages` keeps the queue, canonical memory and canonical registers. -/
theorem attendPages_kept {pq : List Instr} (step : Nat) (e : StepEntry) (a : AttendArgs) (sd : SeqDesc) (ps : List Nat) (s : State) (hk : Kept pq s) :
    Kept pq (attendPages step e a sd ps s) := by
  unfold attendPages
  try dsimp only
  repeat' first
    | with_reducible assumption
    | with_reducible apply attnFail_kept
    | with_reducible apply readTables_kept
    | with_reducible apply attendCompute_kept
    | (refine foldl_kept ?_ ?_; intro _ _ _)
    | intro _
    | with_reducible apply kept_ite
    | with_reducible apply kept_ite_snd
    | split
    | (with_reducible apply kept_snd; focus assumption)
    | (with_reducible apply kept_trd; focus assumption)
    | dsimp only
    | assumption

/-- `attendPositions` keeps the queue, canonical memory and canonical registers. -/
theorem attendPositions_kept {pq : List Instr} (step : Nat) (e : StepEntry) (a : AttendArgs) (sd : SeqDesc) (s : State) (hk : Kept pq s) :
    Kept pq (attendPositions step e a sd s) := by
  unfold attendPositions
  try dsimp only
  repeat' first
    | with_reducible assumption
    | with_reducible apply attnFail_kept
    | with_reducible apply attnRead_kept
    | with_reducible apply attendPages_kept
    | intro _
    | with_reducible apply kept_ite
    | with_reducible apply kept_ite_snd
    | split
    | (with_reducible apply kept_snd; focus assumption)
    | (with_reducible apply kept_trd; focus assumption)
    | dsimp only
    | assumption

/-- `attendStep` keeps the queue, canonical memory and canonical registers. -/
theorem attendStep_kept {pq : List Instr} (step : Nat) (e : StepEntry) (args : List Byte) (s : State) (hk : Kept pq s) :
    Kept pq (attendStep step e args s) := by
  unfold attendStep
  try dsimp only
  repeat' first
    | with_reducible assumption
    | with_reducible apply attnFail_kept
    | with_reducible apply attnRead_kept
    | with_reducible apply attendPositions_kept
    | intro _
    | with_reducible apply kept_ite
    | with_reducible apply kept_ite_snd
    | split
    | (with_reducible apply kept_snd; focus assumption)
    | (with_reducible apply kept_trd; focus assumption)
    | dsimp only
    | assumption

/-- `execAttend` keeps the queue, canonical memory and canonical registers. -/
theorem execAttend_kept {pq : List Instr} (step : CoreStep) (s : State) (hk : Kept pq s) :
    KeptOut pq (execAttend step s) := by
  unfold execAttend
  try dsimp only
  repeat' first
    | with_reducible assumption
    | with_reducible refine keptOut_next ?_
    | exact keptOut_fault
    | with_reducible refine keptOut_ite ?_ ?_
    | with_reducible apply startStep_kept
    | with_reducible apply attnErrors_kept
    | with_reducible apply attendStep_kept
    | intro _
    | with_reducible apply kept_ite
    | with_reducible apply kept_ite_snd
    | split
    | (with_reducible apply kept_snd; focus assumption)
    | (with_reducible apply kept_trd; focus assumption)
    | dsimp only
    | assumption

/-- `mergeStep` keeps the queue, canonical memory and canonical registers. -/
theorem mergeStep_kept {pq : List Instr} (step : Nat) (e : StepEntry) (args : List Byte) (s : State) (hk : Kept pq s) :
    Kept pq (mergeStep step e args s) := by
  unfold mergeStep
  try dsimp only
  repeat' first
    | with_reducible assumption
    | with_reducible apply engineRead_kept
    | with_reducible apply attnFail_kept
    | with_reducible apply attnFinish_kept
    | intro _
    | with_reducible apply kept_ite
    | with_reducible apply kept_ite_snd
    | split
    | (with_reducible apply kept_snd; focus assumption)
    | (with_reducible apply kept_trd; focus assumption)
    | dsimp only
    | assumption

/-- `execMerge` keeps the queue, canonical memory and canonical registers. -/
theorem execMerge_kept {pq : List Instr} (step : CoreStep) (s : State) (hk : Kept pq s) :
    KeptOut pq (execMerge step s) := by
  unfold execMerge
  try dsimp only
  repeat' first
    | with_reducible assumption
    | with_reducible refine keptOut_next ?_
    | exact keptOut_fault
    | with_reducible refine keptOut_ite ?_ ?_
    | with_reducible apply startStep_kept
    | with_reducible apply attnErrors_kept
    | with_reducible apply mergeStep_kept
    | intro _
    | with_reducible apply kept_ite
    | with_reducible apply kept_ite_snd
    | split
    | (with_reducible apply kept_snd; focus assumption)
    | (with_reducible apply kept_trd; focus assumption)
    | dsimp only
    | assumption

end Sys2Proof.Machine
end

