-- ==== Sys2Proof/Laws/KeepFirmware.lean ====
section
/-!
SUPPORT. Every operation of Machine/Firmware.lean leaves the queue alone and keeps memory and the lanes' registers canonical.
-/

namespace Sys2Proof.Machine

/-- `rejectSlot` keeps the queue, canonical memory and canonical registers. -/
theorem rejectSlot_kept {pq : List Instr} (i reason : Nat) (s : State) (hk : Kept pq s) :
    Kept pq (rejectSlot i reason s) := by
  unfold rejectSlot
  try dsimp only
  repeat' first
    | with_reducible assumption
    | with_reducible apply State.modSec_kept
    | with_reducible apply State.modSlot_kept

/-- `trySlot` keeps the queue, canonical memory and canonical registers. -/
theorem trySlot_kept {pq : List Instr} (unread : BitVec 2) (st : SlotState) (s : State) (hk : Kept pq s) :
    Kept pq (trySlot unread st s).2 := by
  unfold trySlot
  try dsimp only
  repeat' first
    | with_reducible assumption
    | with_reducible apply rejectSlot_kept
    | intro _
    | with_reducible apply kept_ite
    | with_reducible apply kept_ite_snd
    | split

/-- `tryPending` keeps the queue, canonical memory and canonical registers. -/
theorem tryPending_kept {pq : List Instr} (unread : BitVec 2) (s : State) (hk : Kept pq s) :
    Kept pq (tryPending unread s).2 := by
  unfold tryPending
  try dsimp only
  repeat' first
    | with_reducible assumption
    | with_reducible apply State.modSlot_kept
    | with_reducible apply rejectSlot_kept
    | with_reducible apply trySlot_kept
    | intro _
    | with_reducible apply kept_ite
    | with_reducible apply kept_ite_snd
    | split

/-- `chooseSlot` keeps the queue, canonical memory and canonical registers. -/
theorem chooseSlot_kept {pq : List Instr} (unread : BitVec 2) (s : State) (hk : Kept pq s) :
    Kept pq (chooseSlot unread s).2 := by
  unfold chooseSlot
  try dsimp only
  repeat' first
    | with_reducible assumption
    | with_reducible apply trySlot_kept
    | with_reducible apply tryPending_kept
    | intro _
    | with_reducible apply kept_ite
    | with_reducible apply kept_ite_snd
    | split
    | (with_reducible apply kept_snd; focus assumption)

/-- `slotReady` keeps the queue, canonical memory and canonical registers. -/
theorem slotReady_kept {pq : List Instr} (i : Nat) (s : State) (hk : Kept pq s) :
    Kept pq (slotReady i s) := by
  unfold slotReady
  try dsimp only
  repeat' first
    | with_reducible assumption
    | with_reducible apply State.modSec_kept
    | with_reducible apply State.modSlot_kept

/-- `execSvnBitBlown` keeps the queue, canonical memory and canonical registers. -/
theorem execSvnBitBlown_kept {pq : List Instr} (ok : Bool) (s : State) (hk : Kept pq s) :
    KeptOut pq (execSvnBitBlown ok s) := by
  unfold execSvnBitBlown
  try dsimp only
  repeat' first
    | with_reducible assumption
    | with_reducible refine keptOut_next ?_
    | exact keptOut_fault
    | with_reducible refine keptOut_ite ?_ ?_
    | with_reducible apply State.modSec_kept
    | intro _
    | with_reducible apply kept_ite
    | with_reducible apply kept_ite_snd
    | split

/-- `fwUpdateFail` keeps the queue, canonical memory and canonical registers. -/
theorem fwUpdateFail_kept {pq : List Instr} (m : Nat) (st : Status) (d : Nat) (s : State) (hk : Kept pq s) :
    Kept pq (fwUpdateFail m st d s) := by
  unfold fwUpdateFail
  try dsimp only
  repeat' first
    | with_reducible assumption
    | with_reducible apply State.modSlot_kept
    | with_reducible apply failMbx_kept

/-- `fwInstall` keeps the queue, canonical memory and canonical registers. -/
theorem fwInstall_kept {pq : List Instr} (m : Nat) (img : List Byte) (s : State) (hk : Kept pq s) :
    Kept pq (fwInstall m img s) := by
  unfold fwInstall
  try dsimp only
  repeat' first
    | with_reducible assumption
    | with_reducible apply State.modSec_kept
    | with_reducible apply State.modSlot_kept
    | with_reducible apply completeMbx_kept
    | with_reducible apply fwUpdateFail_kept
    | intro _
    | with_reducible apply kept_ite

/-- `fwUpdate` keeps the queue, canonical memory and canonical registers. -/
theorem fwUpdate_kept {pq : List Instr} (m : Nat) (r : MbxReq) (s : State) (hk : Kept pq s) :
    Kept pq (fwUpdate m r s) := by
  unfold fwUpdate
  try dsimp only
  repeat' first
    | with_reducible assumption
    | with_reducible apply failMbx_kept
    | with_reducible apply flyerRead_kept
    | with_reducible apply fwUpdateFail_kept
    | with_reducible apply fwInstall_kept
    | intro _
    | with_reducible apply kept_ite
    | with_reducible apply kept_ite_snd
    | split

/-- `execFwUpdate` keeps the queue, canonical memory and canonical registers. -/
theorem execFwUpdate_kept {pq : List Instr} (mbx : MbxId) (s : State) (hk : Kept pq s) :
    KeptOut pq (execFwUpdate mbx s) := by
  unfold execFwUpdate
  try dsimp only
  repeat' first
    | with_reducible assumption
    | with_reducible refine keptOut_next ?_
    | exact keptOut_fault
    | with_reducible refine keptOut_ite ?_ ?_
    | with_reducible apply casbomi_kept
    | with_reducible apply fwUpdate_kept

end Sys2Proof.Machine
end

