-- ==== Sys2Proof/Laws/KeepHank.lean ====
section
/-!
SUPPORT. Every operation of Machine/Hank.lean leaves the queue alone and keeps memory and the lanes' registers canonical.
-/

namespace Sys2Proof.Machine

/-- `execStreamAccess` keeps the queue, canonical memory and canonical registers. -/
theorem execStreamAccess_kept {pq : List Instr} (a : MemAccess) (s : State) (hk : Kept pq s) :
    KeptOut pq (execStreamAccess a s) := by
  unfold execStreamAccess
  try dsimp only
  repeat' first
    | with_reducible assumption
    | with_reducible refine keptOut_next ?_
    | exact keptOut_fault
    | with_reducible refine keptOut_ite ?_ ?_
    | with_reducible apply spillGate_kept
    | with_reducible apply arrive_kept

/-- `execNarrowAccess` keeps the queue, canonical memory and canonical registers. -/
theorem execNarrowAccess_kept {pq : List Instr} (a : MemAccess) (s : State) (hk : Kept pq s) :
    KeptOut pq (execNarrowAccess a s) := by
  unfold execNarrowAccess
  try dsimp only
  repeat' first
    | with_reducible assumption
    | with_reducible refine keptOut_next ?_
    | exact keptOut_fault
    | with_reducible refine keptOut_ite ?_ ?_
    | with_reducible apply spillGate_kept
    | with_reducible apply arrive_kept

/-- `execWmbEntryTimeout` keeps the queue, canonical memory and canonical registers. -/
theorem execWmbEntryTimeout_kept {pq : List Instr} (block : Nat) (s : State) (hk : Kept pq s) :
    KeptOut pq (execWmbEntryTimeout block s) := by
  unfold execWmbEntryTimeout
  try dsimp only
  repeat' first
    | with_reducible assumption
    | with_reducible refine keptOut_next ?_
    | exact keptOut_fault
    | with_reducible refine keptOut_ite ?_ ?_
    | with_reducible apply wmbFlushBlock_kept

/-- `execStackScrub` keeps the queue, canonical memory and canonical registers. -/
theorem execStackScrub_kept {pq : List Instr} (block : Nat) (bad : Bool) (s : State) (hk : Kept pq s) :
    KeptOut pq (execStackScrub block bad s) := by
  unfold execStackScrub
  try dsimp only
  repeat' first
    | with_reducible assumption
    | with_reducible refine keptOut_next ?_
    | exact keptOut_fault
    | with_reducible refine keptOut_ite ?_ ?_
    | with_reducible apply recordUe_kept
    | with_reducible apply stackCorrected_kept
    | with_reducible apply blocksFail_kept
    | intro _
    | with_reducible apply kept_ite

/-- `execRefresh` keeps the queue, canonical memory and canonical registers. -/
theorem execRefresh_kept {pq : List Instr} (hank : HankId) (s : State) (hk : Kept pq s) :
    KeptOut pq (execRefresh hank s) := by
  unfold execRefresh
  try dsimp only
  repeat' first
    | with_reducible assumption
    | with_reducible refine keptOut_next ?_
    | exact keptOut_fault
    | with_reducible refine keptOut_ite ?_ ?_
    | with_reducible apply State.modHank_kept
    | intro _
    | with_reducible apply kept_ite

/-- `queueAction` keeps the queue, canonical memory and canonical registers. -/
theorem queueAction_kept {pq : List Instr} (c : Nat) (k : ActKind) (s : State) (hk : Kept pq s) :
    Kept pq (queueAction c k s) := by
  unfold queueAction
  try dsimp only
  repeat' first
    | with_reducible assumption
    | with_reducible apply State.modHnk_kept
    | intro _
    | with_reducible apply kept_ite

/-- `queueFirst` keeps the queue, canonical memory and canonical registers. -/
theorem queueFirst_kept {pq : List Instr} (c : Nat) (k : ActKind) (s : State) (hk : Kept pq s) :
    Kept pq (queueFirst c k s) := by
  unfold queueFirst
  try dsimp only
  repeat' first
    | with_reducible assumption
    | with_reducible apply State.modHnk_kept

/-- `needPinRepair` keeps the queue, canonical memory and canonical registers. -/
theorem needPinRepair_kept {pq : List Instr} (row c n : Nat) (first l2 : Bool) (s : State) (hk : Kept pq s) :
    Kept pq (needPinRepair row c n first l2 s) := by
  unfold needPinRepair
  try dsimp only
  repeat' first
    | with_reducible assumption
    | with_reducible apply State.modHnk_kept
    | with_reducible apply escalate_kept
    | with_reducible apply loseHank_kept
    | with_reducible apply queueFirst_kept
    | intro _
    | with_reducible apply kept_ite

/-- `resent` keeps the queue, canonical memory and canonical registers. -/
theorem resent_kept {pq : List Instr} (c n : Nat) (s : State) (hk : Kept pq s) :
    Kept pq (resent c n s) := by
  unfold resent
  try dsimp only
  repeat' first
    | with_reducible assumption
    | with_reducible apply State.modHank_kept
    | with_reducible apply winAdd_kept
    | with_reducible apply escalate_kept
    | with_reducible apply queueAction_kept
    | intro _
    | with_reducible apply kept_ite

/-- `burstLost` keeps the queue, canonical memory and canonical registers. -/
theorem burstLost_kept {pq : List Instr} (c : Nat) (client : Client) (s : State) (hk : Kept pq s) :
    Kept pq (burstLost c client s) := by
  unfold burstLost
  try dsimp only
  repeat' first
    | with_reducible assumption
    | with_reducible apply State.modHnk_kept
    | with_reducible apply clientError_kept
    | intro _
    | with_reducible apply kept_ite
    | with_reducible apply kept_ite_snd
    | split

/-- `burstFailed` keeps the queue, canonical memory and canonical registers. -/
theorem burstFailed_kept {pq : List Instr} (c n : Nat) (client : Client) (s : State) (hk : Kept pq s) :
    Kept pq (burstFailed c n client s) := by
  unfold burstFailed
  try dsimp only
  repeat' first
    | with_reducible assumption
    | with_reducible apply winBump_kept
    | with_reducible apply escalate_kept
    | with_reducible apply queueFirst_kept
    | with_reducible apply resent_kept
    | with_reducible apply burstLost_kept
    | intro _
    | with_reducible apply kept_ite

/-- `execBurstCrcMismatch` keeps the queue, canonical memory and canonical registers. -/
theorem execBurstCrcMismatch_kept {pq : List Instr} (chan : ChanId) (transfers : List Burst) (client : Client) (s : State) (hk : Kept pq s) :
    KeptOut pq (execBurstCrcMismatch chan transfers client s) := by
  unfold execBurstCrcMismatch
  try dsimp only
  repeat' first
    | with_reducible assumption
    | with_reducible refine keptOut_next ?_
    | exact keptOut_fault
    | with_reducible refine keptOut_ite ?_ ?_
    | with_reducible apply burstFailed_kept
    | intro _
    | with_reducible apply kept_ite

/-- `refreshDue` keeps the queue, canonical memory and canonical registers. -/
theorem refreshDue_kept {pq : List Instr} (s : State) (hk : Kept pq s) :
    Kept pq (refreshDue s) := by
  unfold refreshDue
  try dsimp only
  repeat' first
    | with_reducible assumption
    | with_reducible apply State.modHnk_kept
    | intro _
    | with_reducible apply kept_ite

/-- `execChannelActionStart` keeps the queue, canonical memory and canonical registers. -/
theorem execChannelActionStart_kept {pq : List Instr} (s : State) (hk : Kept pq s) :
    KeptOut pq (execChannelActionStart s) := by
  unfold execChannelActionStart
  try dsimp only
  repeat' first
    | with_reducible assumption
    | with_reducible refine keptOut_next ?_
    | exact keptOut_fault
    | with_reducible refine keptOut_ite ?_ ?_
    | with_reducible apply State.modHnk_kept
    | intro _
    | with_reducible apply kept_ite
    | with_reducible apply kept_ite_snd
    | split

/-- `applyBandDue` keeps the queue, canonical memory and canonical registers. -/
theorem applyBandDue_kept {pq : List Instr} (h : Nat) (s : State) (hk : Kept pq s) :
    Kept pq (applyBandDue h s) := by
  unfold applyBandDue
  try dsimp only
  repeat' first
    | with_reducible assumption
    | with_reducible apply State.modHank_kept

/-- `retrainEnded` keeps the queue, canonical memory and canonical registers. -/
theorem retrainEnded_kept {pq : List Instr} (c : Nat) (ok : Bool) (margins : List Nat) (s : State) (hk : Kept pq s) :
    Kept pq (retrainEnded c ok margins s) := by
  unfold retrainEnded
  try dsimp only
  repeat' first
    | with_reducible assumption
    | with_reducible apply State.modHnk_kept
    | with_reducible apply State.modChan_kept
    | with_reducible apply resumeHeld_kept
    | with_reducible apply needPinRepair_kept
    | with_reducible apply refreshDue_kept
    | with_reducible apply applyBandDue_kept
    | intro _
    | with_reducible apply kept_ite

/-- `retrainCounted` keeps the queue, canonical memory and canonical registers. -/
theorem retrainCounted_kept {pq : List Instr} (c : Nat) (ok : Bool) (s : State) (hk : Kept pq s) :
    Kept pq (retrainCounted c ok s) := by
  unfold retrainCounted
  try dsimp only
  repeat' first
    | with_reducible assumption
    | with_reducible apply State.modHnk_kept
    | with_reducible apply winBump_kept
    | with_reducible apply needPinRepair_kept
    | intro _
    | with_reducible apply kept_ite

/-- `execRetrainComplete` keeps the queue, canonical memory and canonical registers. -/
theorem execRetrainComplete_kept {pq : List Instr} (ok : Bool) (margins : List Nat) (s : State) (hk : Kept pq s) :
    KeptOut pq (execRetrainComplete ok margins s) := by
  unfold execRetrainComplete
  try dsimp only
  repeat' first
    | with_reducible assumption
    | with_reducible refine keptOut_next ?_
    | exact keptOut_fault
    | with_reducible refine keptOut_ite ?_ ?_
    | with_reducible apply retrainEnded_kept
    | with_reducible apply retrainCounted_kept
    | intro _
    | with_reducible apply kept_ite
    | with_reducible apply kept_ite_snd
    | split

/-- `pinRepaired` keeps the queue, canonical memory and canonical registers. -/
theorem pinRepaired_kept {pq : List Instr} (c : Nat) (ok : Bool) (margins : List Nat) (s : State) (hk : Kept pq s) :
    Kept pq (pinRepaired c ok margins s) := by
  unfold pinRepaired
  try dsimp only
  repeat' first
    | with_reducible assumption
    | with_reducible apply State.modHnk_kept
    | with_reducible apply State.modChan_kept
    | with_reducible apply retrainEnded_kept
    | intro _
    | with_reducible apply kept_ite
    | with_reducible apply kept_ite_snd
    | split
    | (with_reducible apply kept_snd; focus assumption)
    | (with_reducible apply kept_trd; focus assumption)
    | dsimp only
    | assumption

/-- `execPinRepairComplete` keeps the queue, canonical memory and canonical registers. -/
theorem execPinRepairComplete_kept {pq : List Instr} (ok : Bool) (margins : List Nat) (s : State) (hk : Kept pq s) :
    KeptOut pq (execPinRepairComplete ok margins s) := by
  unfold execPinRepairComplete
  try dsimp only
  repeat' first
    | with_reducible assumption
    | with_reducible refine keptOut_next ?_
    | exact keptOut_fault
    | with_reducible refine keptOut_ite ?_ ?_
    | with_reducible apply pinRepaired_kept
    | intro _
    | with_reducible apply kept_ite
    | with_reducible apply kept_ite_snd
    | split

/-- `execStackNoAnswer` keeps the queue, canonical memory and canonical registers. -/
theorem execStackNoAnswer_kept {pq : List Instr} (chan : ChanId) (s : State) (hk : Kept pq s) :
    KeptOut pq (execStackNoAnswer chan s) := by
  unfold execStackNoAnswer
  try dsimp only
  repeat' first
    | with_reducible assumption
    | with_reducible refine keptOut_next ?_
    | exact keptOut_fault
    | with_reducible refine keptOut_ite ?_ ?_
    | with_reducible apply escalate_kept
    | with_reducible apply loseHank_kept

/-- `execRowRepair` keeps the queue, canonical memory and canonical registers. -/
theorem execRowRepair_kept {pq : List Instr} (block : Nat) (s : State) (hk : Kept pq s) :
    KeptOut pq (execRowRepair block s) := by
  unfold execRowRepair
  try dsimp only
  repeat' first
    | with_reducible assumption
    | with_reducible refine keptOut_next ?_
    | exact keptOut_fault
    | with_reducible refine keptOut_ite ?_ ?_
    | with_reducible apply State.modHnk_kept
    | with_reducible apply escalate_kept
    | with_reducible apply loseHank_kept
    | intro _
    | with_reducible apply kept_ite

/-- `execRowRepairComplete` keeps the queue, canonical memory and canonical registers. -/
theorem execRowRepairComplete_kept {pq : List Instr} (s : State) (hk : Kept pq s) :
    KeptOut pq (execRowRepairComplete s) := by
  unfold execRowRepairComplete
  try dsimp only
  repeat' first
    | with_reducible assumption
    | with_reducible refine keptOut_next ?_
    | exact keptOut_fault
    | with_reducible refine keptOut_ite ?_ ?_
    | with_reducible apply State.modHnk_kept
    | with_reducible apply State.modHank_kept
    | with_reducible apply refreshDue_kept
    | intro _
    | with_reducible apply kept_ite
    | with_reducible apply kept_ite_snd
    | split

/-- `loopbackWrite` keeps the queue, canonical memory and canonical registers. -/
theorem loopbackWrite_kept {pq : List Instr} (h v : Nat) (s : State) (hk : Kept pq s) :
    Kept pq (loopbackWrite h v s) := by
  unfold loopbackWrite
  try dsimp only
  repeat' first
    | with_reducible assumption
    | with_reducible apply State.modHank_kept
    | intro _
    | with_reducible apply kept_ite

/-- `execLoopbackGo` keeps the queue, canonical memory and canonical registers. -/
theorem execLoopbackGo_kept {pq : List Instr} (hank : HankId) (value : Word) (s : State) (hk : Kept pq s) :
    KeptOut pq (execLoopbackGo hank value s) := by
  unfold execLoopbackGo
  try dsimp only
  repeat' first
    | with_reducible assumption
    | with_reducible refine keptOut_next ?_
    | exact keptOut_fault
    | with_reducible refine keptOut_ite ?_ ?_
    | with_reducible apply loopbackWrite_kept
    | intro _
    | with_reducible apply kept_ite

/-- `execLoopbackDone` keeps the queue, canonical memory and canonical registers. -/
theorem execLoopbackDone_kept {pq : List Instr} (hank : HankId) (pinFail : BitVec 19) (s : State) (hk : Kept pq s) :
    KeptOut pq (execLoopbackDone hank pinFail s) := by
  unfold execLoopbackDone
  try dsimp only
  repeat' first
    | with_reducible assumption
    | with_reducible refine keptOut_next ?_
    | exact keptOut_fault
    | with_reducible refine keptOut_ite ?_ ?_
    | with_reducible apply State.modHank_kept
    | intro _
    | with_reducible apply kept_ite

/-- `probeWrite` keeps the queue, canonical memory and canonical registers. -/
theorem probeWrite_kept {pq : List Instr} (v : Nat) (s : State) (hk : Kept pq s) :
    Kept pq (probeWrite v s) := by
  unfold probeWrite
  try dsimp only
  repeat' first
    | with_reducible assumption
    | with_reducible apply State.modHnk_kept

/-- `execHnkProbe` keeps the queue, canonical memory and canonical registers. -/
theorem execHnkProbe_kept {pq : List Instr} (value : Word) (s : State) (hk : Kept pq s) :
    KeptOut pq (execHnkProbe value s) := by
  unfold execHnkProbe
  try dsimp only
  repeat' first
    | with_reducible assumption
    | with_reducible refine keptOut_next ?_
    | exact keptOut_fault
    | with_reducible refine keptOut_ite ?_ ?_
    | with_reducible apply probeWrite_kept
    | intro _
    | with_reducible apply kept_ite

/-- `undefGroup` keeps the queue, canonical memory and canonical registers. -/
theorem undefGroup_kept {pq : List Instr} (k : Nat) (s : State) (hk : Kept pq s) :
    Kept pq (undefGroup k s) := by
  unfold undefGroup
  try dsimp only
  repeat' first
    | with_reducible assumption
    | with_reducible apply markUndef_kept

/-- `placeAll` keeps the queue, canonical memory and canonical registers. -/
theorem placeAll_kept {pq : List Instr} (mode : Bool) (y0 : List Nat) (y1 : State) (hk : Kept pq y1) :
    Kept pq (placeAll mode y0 y1) := by
  induction y0 generalizing mode y1 with
  | nil => exact hk
  | cons x xs ih =>
    unfold placeAll
    try dsimp only
    repeat' first
      | with_reducible assumption
      | apply ih
      | with_reducible apply State.modHnk_kept
      | with_reducible apply undefGroup_kept

/-- `memPlace` keeps the queue, canonical memory and canonical registers. -/
theorem memPlace_kept {pq : List Instr} (m : Nat) (r : MbxReq) (s : State) (hk : Kept pq s) :
    Kept pq (memPlace m r s) := by
  unfold memPlace
  try dsimp only
  repeat' first
    | with_reducible assumption
    | with_reducible apply completeMbx_kept
    | with_reducible apply failMbx_kept
    | with_reducible apply placeAll_kept
    | intro _
    | with_reducible apply kept_ite

/-- `execMemPlace` keeps the queue, canonical memory and canonical registers. -/
theorem execMemPlace_kept {pq : List Instr} (mbx : MbxId) (s : State) (hk : Kept pq s) :
    KeptOut pq (execMemPlace mbx s) := by
  unfold execMemPlace
  try dsimp only
  repeat' first
    | with_reducible assumption
    | with_reducible refine keptOut_next ?_
    | exact keptOut_fault
    | with_reducible refine keptOut_ite ?_ ?_
    | with_reducible apply casbomi_kept
    | with_reducible apply memPlace_kept

end Sys2Proof.Machine
end

