-- ==== Sys2Proof/Laws/KeepReset.lean ====
section
/-!
SUPPORT. Every operation of Machine/Reset.lean leaves the queue alone and keeps memory and the lanes' registers canonical.
-/

namespace Sys2Proof.Machine

/-- `clearedState` keeps the queue; it leaves memory empty. -/
theorem clearedState_kept {pq : List Instr} (keep : Bool) (s : State) (hk : Kept pq s) : Kept pq (clearedState keep s) :=
  ⟨hk.1, rfl, regsWf_map hk.2.2 fun _ _ => rfl⟩

/-- `zeroLocal` keeps the queue and canonical memory. -/
theorem zeroLocal_kept {pq : List Instr} (s : State) (hk : Kept pq s) : Kept pq (zeroLocal s) :=
  ⟨hk.1, filter_wf hk.2.1, hk.2.2⟩

/-- `abortMbxs` keeps the queue, canonical memory and canonical registers. -/
theorem abortMbxs_kept {pq : List Instr} (y0 : List Nat) (y1 : State) (hk : Kept pq y1) :
    Kept pq (abortMbxs y0 y1) := by
  induction y0 generalizing y1 with
  | nil => exact hk
  | cons x xs ih =>
    unfold abortMbxs
    try dsimp only
    repeat' first
      | with_reducible assumption
      | apply ih
      | with_reducible apply failMbx_kept
      | with_reducible apply undoCommand_kept

/-- `clearRowStates` keeps the queue, canonical memory and canonical registers. -/
theorem clearRowStates_kept {pq : List Instr} (y0 : List Nat) (y1 : State) (hk : Kept pq y1) :
    Kept pq (clearRowStates y0 y1) := by
  induction y0 generalizing y1 with
  | nil => exact hk
  | cons x xs ih =>
    unfold clearRowStates
    try dsimp only
    repeat' first
      | with_reducible assumption
      | apply ih
      | with_reducible apply writeBytes_kept

/-- `freeRows` keeps the queue, canonical memory and canonical registers. -/
theorem freeRows_kept {pq : List Instr} (s : State) (hk : Kept pq s) :
    Kept pq (freeRows s) := by
  unfold freeRows
  try dsimp only
  repeat' first
    | with_reducible assumption
    | with_reducible apply State.modBob_kept
    | with_reducible apply clearRowStates_kept

/-- `clearProgram` keeps the queue, canonical memory and canonical registers. -/
theorem clearProgram_kept {pq : List Instr} (s : State) (hk : Kept pq s) :
    Kept pq (clearProgram s) := by
  unfold clearProgram
  try dsimp only
  repeat' first
    | with_reducible assumption
    | with_reducible apply State.modFrm_kept
    | with_reducible apply failFrame_kept
    | with_reducible apply undefWrites_kept

/-- `computeFields` keeps the queue, canonical memory and canonical registers. -/
theorem computeFields_kept {pq : List Instr} (s : State) (hk : Kept pq s) : Kept pq (computeFields s) :=
  ⟨hk.1, hk.2.1, regsWf_map hk.2.2 fun _ _ => rfl⟩

/-- `computeClear` keeps the queue, canonical memory and canonical registers. -/
theorem computeClear_kept {pq : List Instr} (s : State) (hk : Kept pq s) :
    Kept pq (computeClear s) := by
  unfold computeClear
  try dsimp only
  repeat' first
    | with_reducible assumption
    | with_reducible apply endCommands_kept
    | with_reducible apply forgetSpill_kept
    | with_reducible apply zeroLocal_kept
    | with_reducible apply abortMbxs_kept
    | with_reducible apply freeRows_kept
    | with_reducible apply clearProgram_kept
    | with_reducible apply computeFields_kept

/-- `emptyHostQueues` keeps the queue, canonical memory and canonical registers. -/
theorem emptyHostQueues_kept {pq : List Instr} (s : State) (hk : Kept pq s) :
    Kept pq (emptyHostQueues s) := by
  unfold emptyHostQueues
  try dsimp only
  repeat' first
    | with_reducible assumption
    | with_reducible apply State.modBob_kept

/-- `resetFunction` keeps the queue, canonical memory and canonical registers. -/
theorem resetFunction_kept {pq : List Instr} (s : State) (hk : Kept pq s) :
    Kept pq (resetFunction s) := by
  unfold resetFunction
  try dsimp only
  repeat' first
    | with_reducible assumption
    | with_reducible apply State.modHp_kept

/-- `flrEffect` keeps the queue, canonical memory and canonical registers. -/
theorem flrEffect_kept {pq : List Instr} (s : State) (hk : Kept pq s) :
    Kept pq (flrEffect s) := by
  unfold flrEffect
  try dsimp only
  repeat' first
    | with_reducible assumption
    | with_reducible apply State.modPkg_kept
    | with_reducible apply emptyHostQueues_kept
    | with_reducible apply resetFunction_kept

/-- `flrArrives` keeps the queue, canonical memory and canonical registers. -/
theorem flrArrives_kept {pq : List Instr} (s : State) (hk : Kept pq s) :
    Kept pq (flrArrives s) := by
  unfold flrArrives
  try dsimp only
  repeat' first
    | with_reducible assumption
    | with_reducible apply State.modHp_kept
    | with_reducible apply flrEffect_kept
    | intro _
    | with_reducible apply kept_ite

/-- `flrServe` keeps the queue, canonical memory and canonical registers. -/
theorem flrServe_kept {pq : List Instr} (s : State) (hk : Kept pq s) :
    Kept pq (flrServe s) := by
  unfold flrServe
  try dsimp only
  repeat' first
    | with_reducible assumption
    | with_reducible apply flrArrives_kept
    | intro _
    | with_reducible apply kept_ite

/-- `dropAgent` keeps the queue, canonical memory and canonical registers. -/
theorem dropAgent_kept {pq : List Instr} (s : State) (hk : Kept pq s) :
    Kept pq (dropAgent s) := by
  unfold dropAgent
  try dsimp only
  repeat' first
    | with_reducible assumption
    | with_reducible apply State.modHp_kept
    | with_reducible apply markUndef_kept
    | (refine foldl_kept ?_ ?_; intro _ _ _)

/-- `failSpillWaits` keeps the queue, canonical memory and canonical registers. -/
theorem failSpillWaits_kept {pq : List Instr} (s : State) (hk : Kept pq s) :
    Kept pq (failSpillWaits s) := by
  unfold failSpillWaits
  try dsimp only
  repeat' first
    | with_reducible assumption
    | with_reducible apply State.modHp_kept
    | with_reducible apply clientError_kept
    | (refine foldl_kept ?_ ?_; intro _ _ _)

/-- `linkDownEffect` keeps the queue, canonical memory and canonical registers. -/
theorem linkDownEffect_kept {pq : List Instr} (s : State) (hk : Kept pq s) :
    Kept pq (linkDownEffect s) := by
  unfold linkDownEffect
  try dsimp only
  repeat' first
    | with_reducible assumption
    | with_reducible apply State.modHp_kept
    | with_reducible apply emptyHostQueues_kept
    | with_reducible apply resetFunction_kept
    | with_reducible apply dropAgent_kept
    | with_reducible apply failSpillWaits_kept

end Sys2Proof.Machine
end

