-- ==== Sys2Proof/Laws/KeepBoot.lean ====
section
/-!
SUPPORT. Every operation of Machine/Boot.lean leaves the queue alone and keeps memory and the lanes' registers canonical.
-/

namespace Sys2Proof.Machine

/-- `bootHalt` keeps the queue, canonical memory and canonical registers. -/
theorem bootHalt_kept {pq : List Instr} (code a b : Nat) (s : State) (hk : Kept pq s) :
    Kept pq (bootHalt code a b s) := by
  unfold bootHalt
  try dsimp only
  repeat' first
    | with_reducible assumption
    | with_reducible apply State.modPkg_kept
    | with_reducible apply setDevState_kept

/-- `raiseQueued` keeps the queue, canonical memory and canonical registers. -/
theorem raiseQueued_kept {pq : List Instr} (i : Nat) (s : State) (hk : Kept pq s) :
    Kept pq (raiseQueued i s) := by
  unfold raiseQueued
  try dsimp only
  repeat' first
    | with_reducible assumption
    | with_reducible apply State.modTst_kept
    | with_reducible apply State.modSpn_kept
    | with_reducible apply escalate_kept
    | with_reducible apply requestRefuse_kept
    | intro _
    | with_reducible apply kept_ite
    | with_reducible apply kept_ite_snd
    | split

/-- `applyRefuse` keeps the queue, canonical memory and canonical registers. -/
theorem applyRefuse_kept {pq : List Instr} (i : Nat) (fail : Option (Nat × Nat)) (s : State) (hk : Kept pq s) :
    Kept pq (applyRefuse i fail s) := by
  unfold applyRefuse
  try dsimp only
  repeat' first
    | with_reducible assumption
    | with_reducible apply State.modSpn_kept
    | with_reducible apply dpuFailed_kept
    | with_reducible apply raiseQueued_kept
    | intro _
    | with_reducible apply kept_ite
    | with_reducible apply kept_ite_snd
    | split

/-- `applyRefuses` keeps the queue, canonical memory and canonical registers. -/
theorem applyRefuses_kept {pq : List Instr} (env : BootEnv) (y0 : List Nat) (y1 : State) (hk : Kept pq y1) :
    Kept pq (applyRefuses env y0 y1) := by
  induction y0 generalizing env y1 with
  | nil => exact hk
  | cons x xs ih =>
    unfold applyRefuses
    try dsimp only
    repeat' first
      | with_reducible assumption
      | apply ih
      | with_reducible apply applyRefuse_kept

/-- `registerTables` keeps the queue, canonical memory and canonical registers. -/
theorem registerTables_kept {pq : List Instr} (s : State) (hk : Kept pq s) :
    Kept pq (registerTables s) := by
  unfold registerTables
  try dsimp only
  repeat' first
    | with_reducible assumption
    | with_reducible apply State.modRegion_kept

/-- `trainHanks` keeps the queue, canonical memory and canonical registers. -/
theorem trainHanks_kept {pq : List Instr} (env : BootEnv) (s : State) (hk : Kept pq s) :
    Kept pq (trainHanks env s) := by
  unfold trainHanks
  try dsimp only
  repeat' first
    | with_reducible assumption
    | with_reducible apply State.modHank_kept
    | with_reducible apply loseHank_kept
    | with_reducible apply registerTables_kept
    | (refine foldl_kept ?_ ?_; intro _ _ _)
    | intro _
    | with_reducible apply kept_ite
    | with_reducible apply kept_ite_snd
    | split

/-- `checkBank` keeps the queue, canonical memory and canonical registers. -/
theorem checkBank_kept {pq : List Instr} (b serial : Nat) (s : State) (hk : Kept pq s) :
    Kept pq (checkBank b serial s) := by
  unfold checkBank
  try dsimp only
  repeat' first
    | with_reducible assumption
    | with_reducible apply State.modMdl_kept
    | with_reducible apply State.modStrand_kept
    | with_reducible apply State.modBank_kept
    | (refine foldl_kept ?_ ?_; intro _ _ _)
    | intro _
    | with_reducible apply kept_ite

/-- `lightLasers` keeps the queue, canonical memory and canonical registers. -/
theorem lightLasers_kept {pq : List Instr} (env : BootEnv) (s : State) (hk : Kept pq s) :
    Kept pq (lightLasers env s) := by
  unfold lightLasers
  try dsimp only
  repeat' first
    | with_reducible assumption
    | with_reducible apply State.modOpt_kept
    | with_reducible apply checkBank_kept

/-- `startFirmware` keeps the queue, canonical memory and canonical registers. -/
theorem startFirmware_kept {pq : List Instr} (env : BootEnv) (i : Nat) (s : State) (hk : Kept pq s) :
    Kept pq (startFirmware env i s) := by
  unfold startFirmware
  try dsimp only
  repeat' first
    | with_reducible assumption
    | with_reducible apply State.modPkg_kept
    | with_reducible apply State.modSec_kept

/-- `bringUnits` keeps the queue, canonical memory and canonical registers. -/
theorem bringUnits_kept {pq : List Instr} (env : BootEnv) (im : FwImage) (s : State) (hk : Kept pq s) :
    Kept pq (bringUnits env im s) := by
  unfold bringUnits
  try dsimp only
  repeat' first
    | with_reducible assumption
    | with_reducible apply State.modPkg_kept
    | with_reducible apply State.modFly_kept
    | with_reducible apply applyRefuses_kept
    | with_reducible apply trainHanks_kept
    | with_reducible apply lightLasers_kept

/-- `reachReady` keeps the queue, canonical memory and canonical registers. -/
theorem reachReady_kept {pq : List Instr} (i : Nat) (s : State) (hk : Kept pq s) :
    Kept pq (reachReady i s) := by
  unfold reachReady
  try dsimp only
  repeat' first
    | with_reducible assumption
    | with_reducible apply setDevState_kept
    | with_reducible apply slotReady_kept
    | intro _
    | with_reducible apply kept_ite

/-- `bringUp` keeps the queue, canonical memory and canonical registers. -/
theorem bringUp_kept {pq : List Instr} (env : BootEnv) (i : Nat) (s : State) (hk : Kept pq s) :
    Kept pq (bringUp env i s) := by
  unfold bringUp
  try dsimp only
  repeat' first
    | with_reducible assumption
    | with_reducible apply startFirmware_kept
    | with_reducible apply bringUnits_kept
    | with_reducible apply reachReady_kept
    | intro _
    | with_reducible apply kept_ite

/-- `bootFirmware` keeps the queue, canonical memory and canonical registers. -/
theorem bootFirmware_kept {pq : List Instr} (env : BootEnv) (s : State) (hk : Kept pq s) :
    Kept pq (bootFirmware env s) := by
  unfold bootFirmware
  try dsimp only
  repeat' first
    | with_reducible assumption
    | with_reducible apply State.modPkg_kept
    | with_reducible apply chooseSlot_kept
    | with_reducible apply bootHalt_kept
    | with_reducible apply bringUp_kept
    | intro _
    | with_reducible apply kept_ite
    | with_reducible apply kept_ite_snd
    | split
    | (with_reducible apply kept_snd; focus assumption)

/-- `bootDies` keeps the queue, canonical memory and canonical registers. -/
theorem bootDies_kept {pq : List Instr} (env : BootEnv) (s : State) (hk : Kept pq s) :
    Kept pq (bootDies env s) := by
  unfold bootDies
  try dsimp only
  repeat' first
    | with_reducible assumption
    | with_reducible apply State.modPkg_kept
    | with_reducible apply bootHalt_kept
    | with_reducible apply bootFirmware_kept
    | intro _
    | with_reducible apply kept_ite
    | with_reducible apply kept_ite_snd
    | split

/-- `boot` keeps the queue, canonical memory and canonical registers. -/
theorem boot_kept {pq : List Instr} (env : BootEnv) (dom : ResetDomain) (src : ResetSource) (s : State) (hk : Kept pq s) :
    Kept pq (boot env dom src s) := by
  unfold boot
  try dsimp only
  repeat' first
    | with_reducible assumption
    | with_reducible apply State.modPkg_kept
    | with_reducible apply State.modSec_kept
    | with_reducible apply State.modMdl_kept
    | with_reducible apply setDevState_kept
    | with_reducible apply bootHalt_kept
    | with_reducible apply bootDies_kept
    | intro _
    | with_reducible apply kept_ite

/-- `execColdReset` keeps the queue, canonical memory and canonical registers. -/
theorem execColdReset_kept {pq : List Instr} (env : BootEnv) (s : State) (hk : Kept pq s) :
    KeptOut pq (execColdReset env s) := by
  unfold execColdReset
  try dsimp only
  repeat' first
    | with_reducible assumption
    | with_reducible refine keptOut_next ?_
    | exact keptOut_fault
    | with_reducible refine keptOut_ite ?_ ?_
    | with_reducible apply clearedState_kept
    | with_reducible apply boot_kept
    | intro _
    | with_reducible apply kept_ite

/-- `execPackageReset` keeps the queue, canonical memory and canonical registers. -/
theorem execPackageReset_kept {pq : List Instr} (env : BootEnv) (s : State) (hk : Kept pq s) :
    KeptOut pq (execPackageReset env s) := by
  unfold execPackageReset
  try dsimp only
  repeat' first
    | with_reducible assumption
    | with_reducible refine keptOut_next ?_
    | exact keptOut_fault
    | with_reducible refine keptOut_ite ?_ ?_
    | with_reducible apply clearedState_kept
    | with_reducible apply boot_kept
    | intro _
    | with_reducible apply kept_ite
    | with_reducible apply kept_ite_snd
    | split

/-- `execDieAnswerTimeout` keeps the queue, canonical memory and canonical registers. -/
theorem execDieAnswerTimeout_kept {pq : List Instr} (die : Die) (s : State) (hk : Kept pq s) :
    KeptOut pq (execDieAnswerTimeout die s) := by
  unfold execDieAnswerTimeout
  try dsimp only
  repeat' first
    | with_reducible assumption
    | with_reducible refine keptOut_next ?_
    | exact keptOut_fault
    | with_reducible refine keptOut_ite ?_ ?_
    | with_reducible apply bootHalt_kept
    | intro _
    | with_reducible apply kept_ite

/-- `beginCompute` keeps the queue, canonical memory and canonical registers. -/
theorem beginCompute_kept {pq : List Instr} (s : State) (hk : Kept pq s) :
    Kept pq (beginCompute s) := by
  unfold beginCompute
  try dsimp only
  repeat' first
    | with_reducible assumption
    | with_reducible apply setDevState_kept
    | with_reducible apply computeClear_kept
    | intro _
    | with_reducible apply kept_ite

/-- `resetCompute` keeps the queue, canonical memory and canonical registers. -/
theorem resetCompute_kept {pq : List Instr} (m : Nat) (_r : MbxReq) (s : State) (hk : Kept pq s) :
    Kept pq (resetCompute m _r s) := by
  unfold resetCompute
  try dsimp only
  repeat' first
    | with_reducible assumption
    | with_reducible apply State.modMbx_kept
    | with_reducible apply failMbx_kept
    | with_reducible apply beginCompute_kept
    | intro _
    | with_reducible apply kept_ite

/-- `execResetCompute` keeps the queue, canonical memory and canonical registers. -/
theorem execResetCompute_kept {pq : List Instr} (mbx : MbxId) (s : State) (hk : Kept pq s) :
    KeptOut pq (execResetCompute mbx s) := by
  unfold execResetCompute
  try dsimp only
  repeat' first
    | with_reducible assumption
    | with_reducible refine keptOut_next ?_
    | exact keptOut_fault
    | with_reducible refine keptOut_ite ?_ ?_
    | with_reducible apply casbomi_kept
    | with_reducible apply resetCompute_kept

/-- `completeAll` keeps the queue, canonical memory and canonical registers. -/
theorem completeAll_kept {pq : List Instr} (st : Status) (y0 : List Nat) (y1 : State) (hk : Kept pq y1) :
    Kept pq (completeAll st y0 y1) := by
  induction y0 generalizing st y1 with
  | nil => exact hk
  | cons x xs ih =>
    unfold completeAll
    try dsimp only
    repeat' first
      | with_reducible assumption
      | apply ih
      | with_reducible apply completeMbx_kept

/-- `computeDone` keeps the queue, canonical memory and canonical registers. -/
theorem computeDone_kept {pq : List Instr} (lost : Option HankId) (s : State) (hk : Kept pq s) :
    Kept pq (computeDone lost s) := by
  unfold computeDone
  try dsimp only
  repeat' first
    | with_reducible assumption
    | with_reducible apply State.modPkg_kept
    | with_reducible apply State.modHnk_kept
    | with_reducible apply State.modThm_kept
    | with_reducible apply setDevState_kept
    | with_reducible apply escalate_kept
    | with_reducible apply loseHank_kept
    | with_reducible apply resumeHeld_kept
    | with_reducible apply completeAll_kept
    | intro _
    | with_reducible apply kept_ite
    | with_reducible apply kept_ite_snd
    | split

/-- `execComputeResetComplete` keeps the queue, canonical memory and canonical registers. -/
theorem execComputeResetComplete_kept {pq : List Instr} (hankLost : Option HankId) (s : State) (hk : Kept pq s) :
    KeptOut pq (execComputeResetComplete hankLost s) := by
  unfold execComputeResetComplete
  try dsimp only
  repeat' first
    | with_reducible assumption
    | with_reducible refine keptOut_next ?_
    | exact keptOut_fault
    | with_reducible refine keptOut_ite ?_ ?_
    | with_reducible apply computeDone_kept
    | intro _
    | with_reducible apply kept_ite

/-- `execResetPackage` keeps the queue, canonical memory and canonical registers. -/
theorem execResetPackage_kept {pq : List Instr} (mbx : MbxId) (s : State) (hk : Kept pq s) :
    KeptOut pq (execResetPackage mbx s) := by
  unfold execResetPackage
  try dsimp only
  repeat' first
    | with_reducible assumption
    | with_reducible refine keptOut_next ?_
    | exact keptOut_fault
    | with_reducible refine keptOut_ite ?_ ?_
    | with_reducible apply completeMbx_kept
    | with_reducible apply casbomi_kept
    | with_reducible apply triggerReset_kept
    | intro _

/-- `execFlr` keeps the queue, canonical memory and canonical registers. -/
theorem execFlr_kept {pq : List Instr} (s : State) (hk : Kept pq s) :
    KeptOut pq (execFlr s) := by
  unfold execFlr
  try dsimp only
  repeat' first
    | with_reducible assumption
    | with_reducible refine keptOut_next ?_
    | exact keptOut_fault
    | with_reducible refine keptOut_ite ?_ ?_
    | with_reducible apply flrArrives_kept
    | intro _
    | with_reducible apply kept_ite

/-- `execHotReset` keeps the queue, canonical memory and canonical registers. -/
theorem execHotReset_kept {pq : List Instr} (s : State) (hk : Kept pq s) :
    KeptOut pq (execHotReset s) := by
  unfold execHotReset
  try dsimp only
  repeat' first
    | with_reducible assumption
    | with_reducible refine keptOut_next ?_
    | exact keptOut_fault
    | with_reducible refine keptOut_ite ?_ ?_
    | with_reducible apply linkDownEffect_kept

/-- `execInputUndervoltage` keeps the queue, canonical memory and canonical registers. -/
theorem execInputUndervoltage_kept {pq : List Instr} (s : State) (hk : Kept pq s) :
    KeptOut pq (execInputUndervoltage s) := by
  unfold execInputUndervoltage
  try dsimp only
  repeat' first
    | with_reducible assumption
    | with_reducible refine keptOut_next ?_
    | exact keptOut_fault
    | with_reducible refine keptOut_ite ?_ ?_
    | with_reducible apply triggerReset_kept
    | intro _
    | with_reducible apply kept_ite

/-- `execInputLowDip` keeps the queue, canonical memory and canonical registers. -/
theorem execInputLowDip_kept {pq : List Instr} (s : State) (hk : Kept pq s) :
    KeptOut pq (execInputLowDip s) := by
  unfold execInputLowDip
  try dsimp only
  repeat' first
    | with_reducible assumption
    | with_reducible refine keptOut_next ?_
    | exact keptOut_fault
    | with_reducible refine keptOut_ite ?_ ?_
    | with_reducible apply State.modPwr_kept
    | with_reducible apply escalate_kept
    | intro _
    | with_reducible apply kept_ite

/-- `execInputHigh` keeps the queue, canonical memory and canonical registers. -/
theorem execInputHigh_kept {pq : List Instr} (s : State) (hk : Kept pq s) :
    KeptOut pq (execInputHigh s) := by
  unfold execInputHigh
  try dsimp only
  repeat' first
    | with_reducible assumption
    | with_reducible refine keptOut_next ?_
    | exact keptOut_fault
    | with_reducible refine keptOut_ite ?_ ?_
    | with_reducible apply State.modPwr_kept
    | intro _
    | with_reducible apply kept_ite

/-- `powerOff` keeps the queue, canonical memory and canonical registers. -/
theorem powerOff_kept {pq : List Instr} (s : State) (hk : Kept pq s) :
    Kept pq (powerOff s) := by
  unfold powerOff
  try dsimp only
  repeat' first
    | with_reducible assumption
    | with_reducible apply State.modPkg_kept
    | with_reducible apply clearedState_kept

/-- `execInputOvervoltage` keeps the queue, canonical memory and canonical registers. -/
theorem execInputOvervoltage_kept {pq : List Instr} (s : State) (hk : Kept pq s) :
    KeptOut pq (execInputOvervoltage s) := by
  unfold execInputOvervoltage
  try dsimp only
  repeat' first
    | with_reducible assumption
    | with_reducible refine keptOut_next ?_
    | exact keptOut_fault
    | with_reducible refine keptOut_ite ?_ ?_
    | with_reducible apply powerOff_kept
    | intro _
    | with_reducible apply kept_ite

/-- `execPresentBreak` keeps the queue, canonical memory and canonical registers. -/
theorem execPresentBreak_kept {pq : List Instr} (s : State) (hk : Kept pq s) :
    KeptOut pq (execPresentBreak s) := by
  unfold execPresentBreak
  try dsimp only
  repeat' first
    | with_reducible assumption
    | with_reducible refine keptOut_next ?_
    | exact keptOut_fault
    | with_reducible refine keptOut_ite ?_ ?_
    | with_reducible apply State.modMdl_kept
    | with_reducible apply powerOff_kept
    | intro _
    | with_reducible apply kept_ite

/-- `execStage1Start` keeps the queue, canonical memory and canonical registers. -/
theorem execStage1Start_kept {pq : List Instr} (s : State) (hk : Kept pq s) :
    KeptOut pq (execStage1Start s) := by
  unfold execStage1Start
  try dsimp only
  repeat' first
    | with_reducible assumption
    | with_reducible refine keptOut_next ?_
    | exact keptOut_fault
    | with_reducible refine keptOut_ite ?_ ?_
    | with_reducible apply State.modPkg_kept
    | with_reducible apply State.modMdl_kept
    | intro _
    | with_reducible apply kept_ite

/-- `sbAnswer` keeps the queue, canonical memory and canonical registers. -/
theorem sbAnswer_kept {pq : List Instr} (result : Nat) (data : List Byte) (s : State) (hk : Kept pq s) :
    Kept pq (sbAnswer result data s) := by
  unfold sbAnswer
  try dsimp only
  repeat' first
    | with_reducible assumption
    | with_reducible apply State.emit_kept

/-- `execSbCold` keeps the queue, canonical memory and canonical registers. -/
theorem execSbCold_kept {pq : List Instr} (s : State) (hk : Kept pq s) :
    KeptOut pq (execSbCold s) := by
  unfold execSbCold
  try dsimp only
  repeat' first
    | with_reducible assumption
    | with_reducible refine keptOut_next ?_
    | exact keptOut_fault
    | with_reducible refine keptOut_ite ?_ ?_
    | with_reducible apply State.modSec_kept
    | with_reducible apply triggerReset_kept
    | with_reducible apply sbAnswer_kept
    | intro _
    | with_reducible apply kept_ite

/-- `execSbPackage` keeps the queue, canonical memory and canonical registers. -/
theorem execSbPackage_kept {pq : List Instr} (s : State) (hk : Kept pq s) :
    KeptOut pq (execSbPackage s) := by
  unfold execSbPackage
  try dsimp only
  repeat' first
    | with_reducible assumption
    | with_reducible refine keptOut_next ?_
    | exact keptOut_fault
    | with_reducible refine keptOut_ite ?_ ?_
    | with_reducible apply State.modSec_kept
    | with_reducible apply triggerReset_kept
    | with_reducible apply sbAnswer_kept
    | intro _
    | with_reducible apply kept_ite

/-- `execRecoveryData` keeps the queue, canonical memory and canonical registers. -/
theorem execRecoveryData_kept {pq : List Instr} (offset : Word) (data : List Byte) (s : State) (hk : Kept pq s) :
    KeptOut pq (execRecoveryData offset data s) := by
  unfold execRecoveryData
  try dsimp only
  repeat' first
    | with_reducible assumption
    | with_reducible refine keptOut_next ?_
    | exact keptOut_fault
    | with_reducible refine keptOut_ite ?_ ?_
    | with_reducible apply State.modSec_kept
    | with_reducible apply sbAnswer_kept
    | intro _
    | with_reducible apply kept_ite

/-- `recoveryFailed` keeps the queue, canonical memory and canonical registers. -/
theorem recoveryFailed_kept {pq : List Instr} (reason : Nat) (s : State) (hk : Kept pq s) :
    Kept pq (recoveryFailed reason s) := by
  unfold recoveryFailed
  try dsimp only
  repeat' first
    | with_reducible assumption
    | with_reducible apply State.modPkg_kept
    | with_reducible apply State.modSec_kept
    | with_reducible apply sbAnswer_kept

/-- `execRecoveryCommit` keeps the queue, canonical memory and canonical registers. -/
theorem execRecoveryCommit_kept {pq : List Instr} (len : Word) (s : State) (hk : Kept pq s) :
    KeptOut pq (execRecoveryCommit len s) := by
  unfold execRecoveryCommit
  try dsimp only
  repeat' first
    | with_reducible assumption
    | with_reducible refine keptOut_next ?_
    | exact keptOut_fault
    | with_reducible refine keptOut_ite ?_ ?_
    | with_reducible apply State.modSec_kept
    | with_reducible apply State.modSlot_kept
    | with_reducible apply sbAnswer_kept
    | with_reducible apply recoveryFailed_kept
    | intro _
    | with_reducible apply kept_ite

/-- `postCondition` keeps the queue, canonical memory and canonical registers. -/
theorem postCondition_kept {pq : List Instr} (code : Nat) (was now : Bool) (s : State) (hk : Kept pq s) :
    Kept pq (postCondition code was now s) := by
  unfold postCondition
  try dsimp only
  repeat' first
    | with_reducible assumption
    | with_reducible apply postEvent_kept
    | intro _
    | with_reducible apply kept_ite

/-- `execModuleSensorRead` keeps the queue, canonical memory and canonical registers. -/
theorem execModuleSensorRead_kept {pq : List Instr} (r : ModuleReading) (s : State) (hk : Kept pq s) :
    KeptOut pq (execModuleSensorRead r s) := by
  unfold execModuleSensorRead
  try dsimp only
  repeat' first
    | with_reducible assumption
    | with_reducible refine keptOut_next ?_
    | exact keptOut_fault
    | with_reducible refine keptOut_ite ?_ ?_
    | with_reducible apply postCondition_kept
    | intro _
    | with_reducible apply kept_ite
    | with_reducible apply kept_ite_snd
    | split
    | (with_reducible apply kept_snd; focus assumption)
    | (with_reducible apply kept_trd; focus assumption)
    | dsimp only
    | assumption

end Sys2Proof.Machine
end

