-- ==== Sys2Proof/Laws/KeepTransfer.lean ====
section
/-!
SUPPORT. Every operation of Machine/Transfer.lean leaves the queue alone and keeps memory and the lanes' registers canonical.
-/

namespace Sys2Proof.Machine

/-- `noteSelf` keeps the queue, canonical memory and canonical registers. -/
theorem noteSelf_kept {pq : List Instr} (step : Nat) (a : XferArgs) (s : State) (hk : Kept pq s) :
    Kept pq (noteSelf step a s) := by
  unfold noteSelf
  try dsimp only
  repeat' first
    | with_reducible assumption
    | with_reducible apply noteWrite_kept
    | intro _
    | with_reducible apply kept_ite

/-- `xferPut` keeps the queue, canonical memory and canonical registers. -/
theorem xferPut_kept {pq : List Instr} (step : Nat) (img : Image) (e : StepEntry) (a : XferArgs) (s : State) (hk : Kept pq s) :
    Kept pq (xferPut step img e a s) := by
  unfold xferPut
  try dsimp only
  repeat' first
    | with_reducible assumption
    | with_reducible apply issuePut_kept
    | with_reducible apply noteSelf_kept

/-- `xferGet` keeps the queue, canonical memory and canonical registers. -/
theorem xferGet_kept {pq : List Instr} (step : Nat) (e : StepEntry) (a : XferArgs) (s : State) (hk : Kept pq s) :
    Kept pq (xferGet step e a s) := by
  unfold xferGet
  try dsimp only
  repeat' first
    | with_reducible assumption
    | with_reducible apply noteWrite_kept
    | with_reducible apply issueGet_kept

/-- `xferStep` keeps the queue, canonical memory and canonical registers. -/
theorem xferStep_kept {pq : List Instr} (step : Nat) (img : Image) (e : StepEntry) (args : List Byte) (s : State) (hk : Kept pq s) :
    Kept pq (xferStep step img e args s) := by
  unfold xferStep
  try dsimp only
  repeat' first
    | with_reducible assumption
    | with_reducible apply checkedStep_kept
    | with_reducible apply xferPut_kept
    | with_reducible apply xferGet_kept
    | intro _
    | with_reducible apply kept_ite

/-- `execXfer` keeps the queue, canonical memory and canonical registers. -/
theorem execXfer_kept {pq : List Instr} (step : Nat) (s : State) (hk : Kept pq s) :
    KeptOut pq (execXfer step s) := by
  unfold execXfer
  try dsimp only
  repeat' first
    | with_reducible assumption
    | with_reducible refine keptOut_next ?_
    | exact keptOut_fault
    | with_reducible refine keptOut_ite ?_ ?_
    | with_reducible apply startStep_kept
    | with_reducible apply xferStep_kept
    | intro _
    | with_reducible apply kept_ite
    | with_reducible apply kept_ite_snd
    | split

end Sys2Proof.Machine
end

