-- ==== Sys2Proof/Laws/KeepBuddy.lean ====
section
/-!
SUPPORT. Every operation of Machine/Buddy.lean leaves the queue alone and keeps memory and the lanes' registers canonical.
-/

namespace Sys2Proof.Machine

/-- `abandonGen` keeps the queue, canonical memory and canonical registers. -/
theorem abandonGen_kept {pq : List Instr} (p : Protected) (s : State) (hk : Kept pq s) :
    Kept pq (abandonGen p s) := by
  unfold abandonGen
  try dsimp only
  repeat' first
    | with_reducible assumption
    | with_reducible apply State.modRes_kept

/-- `abandonGens` keeps the queue, canonical memory and canonical registers. -/
theorem abandonGens_kept {pq : List Instr} (bad : BuddyGen → Bool) (y0 : List Protected) (y1 : State) (hk : Kept pq y1) :
    Kept pq (abandonGens bad y0 y1) := by
  induction y0 generalizing y1 with
  | nil => exact hk
  | cons x xs ih =>
    unfold abandonGens
    try dsimp only
    repeat' first
      | with_reducible assumption
      | apply ih
      | with_reducible apply abandonGen_kept
      | intro _
      | with_reducible apply kept_ite

/-- `buddyFrame` keeps the queue, canonical memory and canonical registers. -/
theorem buddyFrame_kept {pq : List Instr} (s : State) (hk : Kept pq s) :
    Kept pq (buddyFrame s) := by
  unfold buddyFrame
  try dsimp only
  repeat' first
    | with_reducible assumption
    | with_reducible apply State.modRes_kept
    | with_reducible apply abandonGens_kept
    | intro _
    | with_reducible apply kept_ite
    | with_reducible apply kept_ite_snd
    | split

/-- `buddyFail` keeps the queue, canonical memory and canonical registers. -/
theorem buddyFail_kept {pq : List Instr} (s : State) (hk : Kept pq s) :
    Kept pq (buddyFail s) := by
  unfold buddyFail
  try dsimp only
  repeat' first
    | with_reducible assumption
    | with_reducible apply State.modRes_kept
    | with_reducible apply abandonGens_kept

/-- `tapInto` keeps the queue, canonical memory and canonical registers. -/
theorem tapInto_kept {pq : List Instr} (img : Image) (rank : Nat) (sh : Shard) (p : Protected) (s : State) (hk : Kept pq s) :
    Kept pq (tapInto img rank sh p s) := by
  unfold tapInto
  try dsimp only
  repeat' first
    | with_reducible assumption
    | with_reducible apply State.modRes_kept
    | with_reducible apply abandonGen_kept
    | intro _
    | with_reducible apply kept_ite
    | with_reducible apply kept_ite_snd
    | split

/-- `tapShard` keeps the queue, canonical memory and canonical registers. -/
theorem tapShard_kept {pq : List Instr} (img : Image) (rank step j off : Nat) (bs : List Byte) (s : State) (hk : Kept pq s) :
    Kept pq (tapShard img rank step j off bs s) := by
  unfold tapShard
  try dsimp only
  repeat' first
    | with_reducible assumption
    | with_reducible apply tapInto_kept
    | (refine foldl_kept ?_ ?_; intro _ _ _)
    | intro _
    | with_reducible apply kept_ite
    | with_reducible apply kept_ite_snd
    | split

end Sys2Proof.Machine
end

