-- ==== Sys2Proof/Laws/KeepStrands.lean ====
section
/-!
SUPPORT. Every operation of Machine/Strands.lean leaves the queue alone and keeps memory and the lanes' registers canonical.
-/

namespace Sys2Proof.Machine

/-- `sendControl` keeps the queue, canonical memory and canonical registers. -/
theorem sendControl_kept {pq : List Instr} (n : Nat) (msg : List Byte) (s : State) (hk : Kept pq s) :
    Kept pq (sendControl n msg s) := by
  unfold sendControl
  try dsimp only
  repeat' first
    | with_reducible assumption
    | with_reducible apply State.modLink_kept

/-- `sendSequenced` keeps the queue, canonical memory and canonical registers. -/
theorem sendSequenced_kept {pq : List Instr} (n typ : Nat) (payload : List Byte) (s : State) (hk : Kept pq s) :
    Kept pq (sendSequenced n typ payload s) := by
  unfold sendSequenced
  try dsimp only
  repeat' first
    | with_reducible assumption
    | with_reducible apply State.modLink_kept

/-- `sendDiscovery` keeps the queue, canonical memory and canonical registers. -/
theorem sendDiscovery_kept {pq : List Instr} (n kind : Nat) (tail : List Byte) (s : State) (hk : Kept pq s) :
    Kept pq (sendDiscovery n kind tail s) := by
  unfold sendDiscovery
  try dsimp only
  repeat' first
    | with_reducible assumption
    | with_reducible apply State.drawFree_kept
    | with_reducible apply sendSequenced_kept

/-- `sendSummary` keeps the queue, canonical memory and canonical registers. -/
theorem sendSummary_kept {pq : List Instr} (tree : Nat) (s : State) (hk : Kept pq s) :
    Kept pq (sendSummary tree s) := by
  unfold sendSummary
  try dsimp only
  repeat' first
    | with_reducible assumption
    | with_reducible apply State.modTop_kept
    | with_reducible apply sendDiscovery_kept
    | intro _
    | with_reducible apply kept_ite
    | with_reducible apply kept_ite_snd
    | split

/-- `freshSummaries` keeps the queue, canonical memory and canonical registers. -/
theorem freshSummaries_kept {pq : List Instr} (s : State) (hk : Kept pq s) :
    Kept pq (freshSummaries s) := by
  unfold freshSummaries
  try dsimp only
  repeat' first
    | with_reducible assumption
    | with_reducible apply sendSummary_kept
    | intro _
    | with_reducible apply kept_ite

/-- `stateChanged` keeps the queue, canonical memory and canonical registers. -/
theorem stateChanged_kept {pq : List Instr} (n : Nat) (old new : DiscState) (s : State) (hk : Kept pq s) :
    Kept pq (stateChanged n old new s) := by
  unfold stateChanged
  try dsimp only
  repeat' first
    | with_reducible assumption
    | with_reducible apply State.modFrm_kept
    | with_reducible apply State.modTop_kept
    | with_reducible apply postEvent_kept
    | with_reducible apply winBump_kept
    | with_reducible apply escalate_kept
    | with_reducible apply freshSummaries_kept
    | intro _
    | with_reducible apply kept_ite

/-- `refreshSummary` keeps the queue, canonical memory and canonical registers. -/
theorem refreshSummary_kept {pq : List Instr} (tree : Nat) (before : Nat × Nat × Nat × Bool) (s : State) (hk : Kept pq s) :
    Kept pq (refreshSummary tree before s) := by
  unfold refreshSummary
  try dsimp only
  repeat' first
    | with_reducible assumption
    | with_reducible apply sendSummary_kept
    | intro _
    | with_reducible apply kept_ite

/-- `reevaluate` keeps the queue, canonical memory and canonical registers. -/
theorem reevaluate_kept {pq : List Instr} (n : Nat) (s : State) (hk : Kept pq s) :
    Kept pq (reevaluate n s) := by
  unfold reevaluate
  try dsimp only
  repeat' first
    | with_reducible assumption
    | with_reducible apply State.modDisc_kept
    | with_reducible apply stateChanged_kept
    | with_reducible apply refreshSummary_kept
    | intro _
    | with_reducible apply kept_ite

/-- `planLaneChange` keeps the queue, canonical memory and canonical registers. -/
theorem planLaneChange_kept {pq : List Instr} (s : State) (hk : Kept pq s) :
    Kept pq (planLaneChange s) := by
  unfold planLaneChange
  try dsimp only
  repeat' first
    | with_reducible assumption
    | with_reducible apply State.modFrm_kept

/-- `advanceSwap` keeps the queue, canonical memory and canonical registers. -/
theorem advanceSwap_kept {pq : List Instr} (b : Nat) (s : State) (hk : Kept pq s) :
    Kept pq (advanceSwap b s) := by
  unfold advanceSwap
  try dsimp only
  repeat' first
    | with_reducible assumption
    | with_reducible apply State.modBank_kept
    | with_reducible apply planLaneChange_kept
    | intro _
    | with_reducible apply kept_ite

/-- `noteTickStrands` keeps the queue, canonical memory and canonical registers. -/
theorem noteTickStrands_kept {pq : List Instr} (s : State) (hk : Kept pq s) :
    Kept pq (noteTickStrands s) := by
  unfold noteTickStrands
  try dsimp only
  repeat' first
    | with_reducible assumption
    | with_reducible apply State.modFrm_kept
    | with_reducible apply State.modTop_kept
    | intro _
    | with_reducible apply kept_ite
    | with_reducible apply kept_ite_snd
    | split

/-- `leaveService` keeps the queue, canonical memory and canonical registers. -/
theorem leaveService_kept {pq : List Instr} (n : Nat) (s : State) (hk : Kept pq s) :
    Kept pq (leaveService n s) := by
  unfold leaveService
  try dsimp only
  repeat' first
    | with_reducible assumption
    | with_reducible apply State.modDisc_kept
    | with_reducible apply failFrame_kept
    | with_reducible apply reevaluate_kept
    | with_reducible apply advanceSwap_kept
    | with_reducible apply noteTickStrands_kept
    | intro _
    | with_reducible apply kept_ite

/-- `sendNotices` keeps the queue, canonical memory and canonical registers. -/
theorem sendNotices_kept {pq : List Instr} (n : Nat) (y0 : List (Nat × Nat × Nat)) (y1 : State) (hk : Kept pq y1) :
    Kept pq (sendNotices n y0 y1) := by
  induction y0 generalizing n y1 with
  | nil => exact hk
  | cons x xs ih =>
    unfold sendNotices
    try dsimp only
    repeat' first
      | with_reducible assumption
      | apply ih
      | with_reducible apply sendMessage_kept
      | intro _
      | with_reducible apply kept_ite

/-- `laneNotices` keeps the queue, canonical memory and canonical registers. -/
theorem laneNotices_kept {pq : List Instr} (n : Nat) (s : State) (hk : Kept pq s) :
    Kept pq (laneNotices n s) := by
  unfold laneNotices
  try dsimp only
  repeat' first
    | with_reducible assumption
    | with_reducible apply sendNotices_kept

end Sys2Proof.Machine
end

