-- ==== Sys2Proof/Laws/KeepLanes.lean ====
section
/-!
SUPPORT. Every operation of Machine/Lanes.lean leaves the queue alone and keeps memory and the lanes' registers canonical.
-/

namespace Sys2Proof.Machine

/-- `laneCause` keeps the queue, canonical memory and canonical registers. -/
theorem laneCause_kept {pq : List Instr} (s : State) (hk : Kept pq s) :
    Kept pq (laneCause s) := by
  unfold laneCause
  try dsimp only
  repeat' first
    | with_reducible assumption
    | with_reducible apply State.modOpt_kept
    | with_reducible apply noteHold_kept

/-- `announceMap` keeps the queue, canonical memory and canonical registers. -/
theorem announceMap_kept {pq : List Instr} (n : Nat) (m : List Nat) (seq : Nat) (ack : Bool) (s : State) (hk : Kept pq s) :
    Kept pq (announceMap n m seq ack s) := by
  unfold announceMap
  try dsimp only
  repeat' first
    | with_reducible assumption
    | with_reducible apply sendControl_kept

/-- `maybeReturn` keeps the queue, canonical memory and canonical registers. -/
theorem maybeReturn_kept {pq : List Instr} (n : Nat) (s : State) (hk : Kept pq s) :
    Kept pq (maybeReturn n s) := by
  unfold maybeReturn
  try dsimp only
  repeat' first
    | with_reducible assumption
    | with_reducible apply State.modStrand_kept

/-- `withdraw` keeps the queue, canonical memory and canonical registers. -/
theorem withdraw_kept {pq : List Instr} (n : Nat) (s : State) (hk : Kept pq s) :
    Kept pq (withdraw n s) := by
  unfold withdraw
  try dsimp only
  repeat' first
    | with_reducible assumption
    | with_reducible apply State.modStrand_kept

/-- `applyTx` keeps the queue, canonical memory and canonical registers. -/
theorem applyTx_kept {pq : List Instr} (n : Nat) (m : List Nat) (s : State) (hk : Kept pq s) :
    Kept pq (applyTx n m s) := by
  unfold applyTx
  try dsimp only
  repeat' first
    | with_reducible assumption
    | with_reducible apply State.modStrand_kept
    | with_reducible apply leaveService_kept
    | with_reducible apply laneNotices_kept
    | with_reducible apply laneCause_kept
    | with_reducible apply maybeReturn_kept
    | intro _
    | with_reducible apply kept_ite

/-- `applyRx` keeps the queue, canonical memory and canonical registers. -/
theorem applyRx_kept {pq : List Instr} (n : Nat) (m : List Nat) (s : State) (hk : Kept pq s) :
    Kept pq (applyRx n m s) := by
  unfold applyRx
  try dsimp only
  repeat' first
    | with_reducible assumption
    | with_reducible apply State.modStrand_kept
    | with_reducible apply leaveService_kept
    | with_reducible apply laneCause_kept
    | with_reducible apply maybeReturn_kept
    | with_reducible apply withdraw_kept
    | intro _
    | with_reducible apply kept_ite

/-- `countLoss` keeps the queue, canonical memory and canonical registers. -/
theorem countLoss_kept {pq : List Instr} (n : Nat) (s : State) (hk : Kept pq s) :
    Kept pq (countLoss n s) := by
  unfold countLoss
  try dsimp only
  repeat' first
    | with_reducible assumption
    | with_reducible apply State.modOpt_kept
    | with_reducible apply State.modStrand_kept
    | with_reducible apply winBump_kept
    | with_reducible apply escalate_kept

/-- `calibrationFailed` keeps the queue, canonical memory and canonical registers. -/
theorem calibrationFailed_kept {pq : List Instr} (n : Nat) (s : State) (hk : Kept pq s) :
    Kept pq (calibrationFailed n s) := by
  unfold calibrationFailed
  try dsimp only
  repeat' first
    | with_reducible assumption
    | with_reducible apply State.modOpt_kept
    | with_reducible apply winBump_kept
    | with_reducible apply escalate_kept

/-- `endCalibration` keeps the queue, canonical memory and canonical registers. -/
theorem endCalibration_kept {pq : List Instr} (s : State) (hk : Kept pq s) :
    Kept pq (endCalibration s) := by
  unfold endCalibration
  try dsimp only
  repeat' first
    | with_reducible assumption
    | with_reducible apply State.modOpt_kept
    | with_reducible apply State.modStrand_kept
    | intro _
    | with_reducible apply kept_ite
    | with_reducible apply kept_ite_snd
    | split

/-- `breakCalibration` keeps the queue, canonical memory and canonical registers. -/
theorem breakCalibration_kept {pq : List Instr} (n : Nat) (s : State) (hk : Kept pq s) :
    Kept pq (breakCalibration n s) := by
  unfold breakCalibration
  try dsimp only
  repeat' first
    | with_reducible assumption
    | with_reducible apply calibrationFailed_kept
    | with_reducible apply endCalibration_kept
    | intro _
    | with_reducible apply kept_ite

/-- `dropAtFrame` keeps the queue, canonical memory and canonical registers. -/
theorem dropAtFrame_kept {pq : List Instr} (n lane : Nat) (s : State) (hk : Kept pq s) :
    Kept pq (dropAtFrame n lane s) := by
  unfold dropAtFrame
  try dsimp only
  repeat' first
    | with_reducible assumption
    | with_reducible apply State.modOpt_kept

/-- `dropTx` keeps the queue, canonical memory and canonical registers. -/
theorem dropTx_kept {pq : List Instr} (n lane : Nat) (ack : Bool) (s : State) (hk : Kept pq s) :
    Kept pq (dropTx n lane ack s) := by
  unfold dropTx
  try dsimp only
  repeat' first
    | with_reducible assumption
    | with_reducible apply State.modStrand_kept
    | with_reducible apply announceMap_kept
    | with_reducible apply withdraw_kept
    | with_reducible apply applyTx_kept
    | with_reducible apply countLoss_kept
    | with_reducible apply breakCalibration_kept
    | with_reducible apply dropAtFrame_kept
    | intro _
    | with_reducible apply kept_ite

/-- `dropAllTx` keeps the queue, canonical memory and canonical registers. -/
theorem dropAllTx_kept {pq : List Instr} (n : Nat) (ack : Bool) (y0 : List Nat) (y1 : State) (hk : Kept pq y1) :
    Kept pq (dropAllTx n ack y0 y1) := by
  induction y0 generalizing n ack y1 with
  | nil => exact hk
  | cons x xs ih =>
    unfold dropAllTx
    try dsimp only
    repeat' first
      | with_reducible assumption
      | apply ih
      | with_reducible apply dropTx_kept

/-- `requestDrop` keeps the queue, canonical memory and canonical registers. -/
theorem requestDrop_kept {pq : List Instr} (n : Nat) (s : State) (hk : Kept pq s) :
    Kept pq (requestDrop n s) := by
  unfold requestDrop
  try dsimp only
  repeat' first
    | with_reducible assumption
    | with_reducible apply sendControl_kept

/-- `loseRx` keeps the queue, canonical memory and canonical registers. -/
theorem loseRx_kept {pq : List Instr} (n lane : Nat) (s : State) (hk : Kept pq s) :
    Kept pq (loseRx n lane s) := by
  unfold loseRx
  try dsimp only
  repeat' first
    | with_reducible assumption
    | with_reducible apply State.modStrand_kept
    | with_reducible apply withdraw_kept
    | with_reducible apply applyRx_kept
    | with_reducible apply countLoss_kept
    | with_reducible apply breakCalibration_kept
    | with_reducible apply requestDrop_kept
    | intro _
    | with_reducible apply kept_ite

/-- `loseAllRx` keeps the queue, canonical memory and canonical registers. -/
theorem loseAllRx_kept {pq : List Instr} (n : Nat) (y0 : List Nat) (y1 : State) (hk : Kept pq y1) :
    Kept pq (loseAllRx n y0 y1) := by
  induction y0 generalizing n y1 with
  | nil => exact hk
  | cons x xs ih =>
    unfold loseAllRx
    try dsimp only
    repeat' first
      | with_reducible assumption
      | apply ih
      | with_reducible apply loseRx_kept

/-- `execLaneLoss` keeps the queue, canonical memory and canonical registers. -/
theorem execLaneLoss_kept {pq : List Instr} (strand : StrandId) (lane : LaneId) (s : State) (hk : Kept pq s) :
    KeptOut pq (execLaneLoss strand lane s) := by
  unfold execLaneLoss
  try dsimp only
  repeat' first
    | with_reducible assumption
    | with_reducible refine keptOut_next ?_
    | exact keptOut_fault
    | with_reducible refine keptOut_ite ?_ ?_
    | with_reducible apply loseRx_kept
    | intro _
    | with_reducible apply kept_ite

/-- `execDropRequest` keeps the queue, canonical memory and canonical registers. -/
theorem execDropRequest_kept {pq : List Instr} (strand : StrandId) (payload : List Byte) (s : State) (hk : Kept pq s) :
    KeptOut pq (execDropRequest strand payload s) := by
  unfold execDropRequest
  try dsimp only
  repeat' first
    | with_reducible assumption
    | with_reducible refine keptOut_next ?_
    | exact keptOut_fault
    | with_reducible refine keptOut_ite ?_ ?_
    | with_reducible apply announceMap_kept
    | with_reducible apply dropAllTx_kept
    | intro _
    | with_reducible apply kept_ite

/-- `execDropRequestRepeat` keeps the queue, canonical memory and canonical registers. -/
theorem execDropRequestRepeat_kept {pq : List Instr} (strand : StrandId) (s : State) (hk : Kept pq s) :
    KeptOut pq (execDropRequestRepeat strand s) := by
  unfold execDropRequestRepeat
  try dsimp only
  repeat' first
    | with_reducible assumption
    | with_reducible refine keptOut_next ?_
    | exact keptOut_fault
    | with_reducible refine keptOut_ite ?_ ?_
    | with_reducible apply requestDrop_kept
    | intro _
    | with_reducible apply kept_ite

/-- `execMapAnnounce` keeps the queue, canonical memory and canonical registers. -/
theorem execMapAnnounce_kept {pq : List Instr} (strand : StrandId) (payload : List Byte) (s : State) (hk : Kept pq s) :
    KeptOut pq (execMapAnnounce strand payload s) := by
  unfold execMapAnnounce
  try dsimp only
  repeat' first
    | with_reducible assumption
    | with_reducible refine keptOut_next ?_
    | exact keptOut_fault
    | with_reducible refine keptOut_ite ?_ ?_
    | with_reducible apply State.modStrand_kept
    | intro _
    | with_reducible apply kept_ite

/-- `execMapSwitch` keeps the queue, canonical memory and canonical registers. -/
theorem execMapSwitch_kept {pq : List Instr} (strand : StrandId) (receive : Bool) (s : State) (hk : Kept pq s) :
    KeptOut pq (execMapSwitch strand receive s) := by
  unfold execMapSwitch
  try dsimp only
  repeat' first
    | with_reducible assumption
    | with_reducible refine keptOut_next ?_
    | exact keptOut_fault
    | with_reducible refine keptOut_ite ?_ ?_
    | with_reducible apply applyTx_kept
    | with_reducible apply applyRx_kept
    | intro _
    | with_reducible apply kept_ite
    | with_reducible apply kept_ite_snd
    | split

/-- `mapAtOnce` keeps the queue, canonical memory and canonical registers. -/
theorem mapAtOnce_kept {pq : List Instr} (n : Nat) (m : List Nat) (s : State) (hk : Kept pq s) :
    Kept pq (mapAtOnce n m s) := by
  unfold mapAtOnce
  try dsimp only
  repeat' first
    | with_reducible assumption
    | with_reducible apply announceMap_kept
    | with_reducible apply applyTx_kept

/-- `changeAtFrame` keeps the queue, canonical memory and canonical registers. -/
theorem changeAtFrame_kept {pq : List Instr} (n : Nat) (m : List Nat) (s : State) (hk : Kept pq s) :
    Kept pq (changeAtFrame n m s) := by
  unfold changeAtFrame
  try dsimp only
  repeat' first
    | with_reducible assumption
    | with_reducible apply State.modOpt_kept
    | with_reducible apply planLaneChange_kept
    | with_reducible apply mapAtOnce_kept
    | intro _
    | with_reducible apply kept_ite

/-- `applyAll` keeps the queue, canonical memory and canonical registers. -/
theorem applyAll_kept {pq : List Instr} (y0 : List (Nat × List Nat)) (y1 : State) (hk : Kept pq y1) :
    Kept pq (applyAll y0 y1) := by
  induction y0 generalizing y1 with
  | nil => exact hk
  | cons x xs ih =>
    unfold applyAll
    try dsimp only
    repeat' first
      | with_reducible assumption
      | apply ih
      | with_reducible apply mapAtOnce_kept

/-- `lanesAtFrame` keeps the queue, canonical memory and canonical registers. -/
theorem lanesAtFrame_kept {pq : List Instr} (s : State) (hk : Kept pq s) :
    Kept pq (lanesAtFrame s) := by
  unfold lanesAtFrame
  try dsimp only
  repeat' first
    | with_reducible assumption
    | with_reducible apply State.modOpt_kept
    | with_reducible apply applyAll_kept

/-- `execLaneRestore` keeps the queue, canonical memory and canonical registers. -/
theorem execLaneRestore_kept {pq : List Instr} (strand : StrandId) (lane : LaneId) (s : State) (hk : Kept pq s) :
    KeptOut pq (execLaneRestore strand lane s) := by
  unfold execLaneRestore
  try dsimp only
  repeat' first
    | with_reducible assumption
    | with_reducible refine keptOut_next ?_
    | exact keptOut_fault
    | with_reducible refine keptOut_ite ?_ ?_
    | with_reducible apply State.modStrand_kept
    | with_reducible apply changeAtFrame_kept
    | intro _
    | with_reducible apply kept_ite

/-- `execLossLocation` keeps the queue, canonical memory and canonical registers. -/
theorem execLossLocation_kept {pq : List Instr} (strand : StrandId) (lane : LaneId) (codes : Vector Half 4) (s : State) (hk : Kept pq s) :
    KeptOut pq (execLossLocation strand lane codes s) := by
  unfold execLossLocation
  try dsimp only
  repeat' first
    | with_reducible assumption
    | with_reducible refine keptOut_next ?_
    | exact keptOut_fault
    | with_reducible refine keptOut_ite ?_ ?_
    | with_reducible apply State.modStrand_kept
    | with_reducible apply postEvent_kept
    | intro _
    | with_reducible apply kept_ite

end Sys2Proof.Machine
end

