-- ==== Sys2Proof/Laws/KeepFabric.lean ====
section
/-!
SUPPORT. Every operation of Machine/Fabric.lean leaves the queue alone and keeps memory and the lanes' registers canonical.
-/

namespace Sys2Proof.Machine

/-- `sendBlock` keeps the queue, canonical memory and canonical registers. -/
theorem sendBlock_kept {pq : List Instr} (n : Nat) (b : Blk) (s : State) (hk : Kept pq s) :
    Kept pq (sendBlock n b s) := by
  unfold sendBlock
  try dsimp only
  repeat' first
    | with_reducible assumption
    | with_reducible apply State.modLink_kept
    | with_reducible apply State.emit_kept
    | intro _
    | with_reducible apply kept_ite

/-- `resendBlock` keeps the queue, canonical memory and canonical registers. -/
theorem resendBlock_kept {pq : List Instr} (n seq : Nat) (b : Blk) (s : State) (hk : Kept pq s) :
    Kept pq (resendBlock n seq b s) := by
  unfold resendBlock
  try dsimp only
  repeat' first
    | with_reducible assumption
    | with_reducible apply State.modLink_kept
    | with_reducible apply State.emit_kept

/-- `replayBegun` keeps the queue, canonical memory and canonical registers. -/
theorem replayBegun_kept {pq : List Instr} (n : Nat) (s : State) (hk : Kept pq s) :
    Kept pq (replayBegun n s) := by
  unfold replayBegun
  try dsimp only
  repeat' first
    | with_reducible assumption
    | with_reducible apply State.modStrand_kept
    | with_reducible apply winBump_kept
    | with_reducible apply escalate_kept
    | with_reducible apply dropTx_kept
    | intro _
    | with_reducible apply kept_ite
    | with_reducible apply kept_ite_snd
    | split

/-- `takeAck` keeps the queue, canonical memory and canonical registers. -/
theorem takeAck_kept {pq : List Instr} (n : Nat) (nak : Bool) (low : Nat) (s : State) (hk : Kept pq s) :
    Kept pq (takeAck n nak low s) := by
  unfold takeAck
  try dsimp only
  repeat' first
    | with_reducible assumption
    | with_reducible apply State.modLink_kept
    | with_reducible apply replayBegun_kept
    | intro _
    | with_reducible apply kept_ite

/-- `dropPacket` keeps the queue, canonical memory and canonical registers. -/
theorem dropPacket_kept {pq : List Instr} (hops : Bool) (s : State) (hk : Kept pq s) :
    Kept pq (dropPacket hops s) := by
  unfold dropPacket
  try dsimp only
  repeat' first
    | with_reducible assumption
    | with_reducible apply State.modFab_kept
    | with_reducible apply winBump_kept

/-- `transitIn` keeps the queue, canonical memory and canonical registers. -/
theorem transitIn_kept {pq : List Instr} (n route : Nat) (payload : List Byte) (s : State) (hk : Kept pq s) :
    Kept pq (transitIn n route payload s) := by
  unfold transitIn
  try dsimp only
  repeat' first
    | with_reducible assumption
    | with_reducible apply State.modFab_kept
    | with_reducible apply dropPacket_kept
    | intro _
    | with_reducible apply kept_ite

/-- `noteSeen` keeps the queue, canonical memory and canonical registers. -/
theorem noteSeen_kept {pq : List Instr} (n seq : Nat) (sequenced : Bool) (s : State) (hk : Kept pq s) :
    Kept pq (noteSeen n seq sequenced s) := by
  unfold noteSeen
  try dsimp only
  repeat' first
    | with_reducible assumption
    | with_reducible apply State.modLink_kept

/-- `acceptBlock` keeps the queue, canonical memory and canonical registers. -/
theorem acceptBlock_kept {pq : List Instr} (n typ route : Nat) (payload : List Byte) (s : State) (hk : Kept pq s) :
    Kept pq (acceptBlock n typ route payload s) := by
  unfold acceptBlock
  try dsimp only
  repeat' first
    | with_reducible assumption
    | with_reducible apply State.modTop_kept
    | with_reducible apply State.modLink_kept
    | with_reducible apply transitIn_kept
    | intro _
    | with_reducible apply kept_ite

/-- `receiveBlock` keeps the queue, canonical memory and canonical registers. -/
theorem receiveBlock_kept {pq : List Instr} (n : Nat) (b : List Byte) (s : State) (hk : Kept pq s) :
    Kept pq (receiveBlock n b s) := by
  unfold receiveBlock
  try dsimp only
  repeat' first
    | with_reducible assumption
    | with_reducible apply State.modLink_kept
    | with_reducible apply takeAck_kept
    | with_reducible apply noteSeen_kept
    | with_reducible apply acceptBlock_kept
    | intro _
    | with_reducible apply kept_ite

/-- `execBlockReceive` keeps the queue, canonical memory and canonical registers. -/
theorem execBlockReceive_kept {pq : List Instr} (strand : StrandId) (block : List Byte) (s : State) (hk : Kept pq s) :
    KeptOut pq (execBlockReceive strand block s) := by
  unfold execBlockReceive
  try dsimp only
  repeat' first
    | with_reducible assumption
    | with_reducible refine keptOut_next ?_
    | exact keptOut_fault
    | with_reducible refine keptOut_ite ?_ ?_
    | with_reducible apply receiveBlock_kept
    | intro _
    | with_reducible apply kept_ite

/-- `execReplayTimeout` keeps the queue, canonical memory and canonical registers. -/
theorem execReplayTimeout_kept {pq : List Instr} (strand : StrandId) (s : State) (hk : Kept pq s) :
    KeptOut pq (execReplayTimeout strand s) := by
  unfold execReplayTimeout
  try dsimp only
  repeat' first
    | with_reducible assumption
    | with_reducible refine keptOut_next ?_
    | exact keptOut_fault
    | with_reducible refine keptOut_ite ?_ ?_
    | with_reducible apply State.modLink_kept
    | with_reducible apply replayBegun_kept
    | intro _
    | with_reducible apply kept_ite

/-- `choosePacket` keeps the queue, canonical memory and canonical registers. -/
theorem choosePacket_kept {pq : List Instr} (n : Nat) (p : Pkt) (s : State) (hk : Kept pq s) :
    Kept pq (choosePacket n p s) := by
  unfold choosePacket
  try dsimp only
  repeat' first
    | with_reducible assumption
    | with_reducible apply State.modLink_kept

/-- `placeWaiting` keeps the queue, canonical memory and canonical registers. -/
theorem placeWaiting_kept {pq : List Instr} (own : Bool) (y0 : List Pkt) (y1 : State) (hk : Kept pq y1) :
    Kept pq (placeWaiting own y0 y1).2 := by
  induction y0 generalizing own y1 with
  | nil => exact hk
  | cons x xs ih =>
    unfold placeWaiting
    try dsimp only
    repeat' first
      | with_reducible assumption
      | apply ih
      | with_reducible apply choosePacket_kept
      | intro _
      | with_reducible apply kept_ite
      | with_reducible apply kept_ite_snd
      | split

/-- `placePackets` keeps the queue, canonical memory and canonical registers. -/
theorem placePackets_kept {pq : List Instr} (s : State) (hk : Kept pq s) :
    Kept pq (placePackets s) := by
  unfold placePackets
  try dsimp only
  repeat' first
    | with_reducible assumption
    | with_reducible apply State.modFab_kept
    | with_reducible apply placeWaiting_kept

/-- `execTransitDeflect` keeps the queue, canonical memory and canonical registers. -/
theorem execTransitDeflect_kept {pq : List Instr} (index : Nat) (s : State) (hk : Kept pq s) :
    KeptOut pq (execTransitDeflect index s) := by
  unfold execTransitDeflect
  try dsimp only
  repeat' first
    | with_reducible assumption
    | with_reducible refine keptOut_next ?_
    | exact keptOut_fault
    | with_reducible refine keptOut_ite ?_ ?_
    | with_reducible apply State.modFab_kept
    | with_reducible apply choosePacket_kept
    | intro _
    | with_reducible apply kept_ite
    | with_reducible apply kept_ite_snd
    | split

/-- `execTransitDrop` keeps the queue, canonical memory and canonical registers. -/
theorem execTransitDrop_kept {pq : List Instr} (index : Nat) (s : State) (hk : Kept pq s) :
    KeptOut pq (execTransitDrop index s) := by
  unfold execTransitDrop
  try dsimp only
  repeat' first
    | with_reducible assumption
    | with_reducible refine keptOut_next ?_
    | exact keptOut_fault
    | with_reducible refine keptOut_ite ?_ ?_
    | with_reducible apply State.modFab_kept
    | with_reducible apply dropPacket_kept
    | intro _
    | with_reducible apply kept_ite
    | with_reducible apply kept_ite_snd
    | split

/-- `dropCircuit` keeps the queue, canonical memory and canonical registers. -/
theorem dropCircuit_kept {pq : List Instr} (s : State) (hk : Kept pq s) :
    Kept pq (dropCircuit s) := by
  unfold dropCircuit
  try dsimp only
  repeat' first
    | with_reducible assumption
    | with_reducible apply State.modFab_kept
    | with_reducible apply failFrame_kept
    | with_reducible apply winBump_kept
    | with_reducible apply escalate_kept

/-- `holdBlock` keeps the queue, canonical memory and canonical registers. -/
theorem holdBlock_kept {pq : List Instr} (n : Nat) (q : Nat × Blk) (s : State) (hk : Kept pq s) :
    Kept pq (holdBlock n q s) := by
  unfold holdBlock
  try dsimp only
  repeat' first
    | with_reducible assumption
    | with_reducible apply State.modFab_kept
    | with_reducible apply State.modLink_kept
    | with_reducible apply dropCircuit_kept
    | intro _
    | with_reducible apply kept_ite

/-- `holdBlocks` keeps the queue, canonical memory and canonical registers. -/
theorem holdBlocks_kept {pq : List Instr} (n : Nat) (y0 : List (Nat × Blk)) (y1 : State) (hk : Kept pq y1) :
    Kept pq (holdBlocks n y0 y1) := by
  induction y0 generalizing n y1 with
  | nil => exact hk
  | cons x xs ih =>
    unfold holdBlocks
    try dsimp only
    repeat' first
      | with_reducible assumption
      | apply ih
      | with_reducible apply holdBlock_kept

/-- `holdCut` keeps the queue, canonical memory and canonical registers. -/
theorem holdCut_kept {pq : List Instr} (n : Nat) (s : State) (hk : Kept pq s) :
    Kept pq (holdCut n s) := by
  unfold holdCut
  try dsimp only
  repeat' first
    | with_reducible assumption
    | with_reducible apply State.modLink_kept
    | with_reducible apply holdBlocks_kept

/-- `takeCircuit` keeps the queue, canonical memory and canonical registers. -/
theorem takeCircuit_kept {pq : List Instr} (n : Nat) (relayed : Bool) (q : Nat × Blk) (s : State) (hk : Kept pq s) :
    Kept pq (takeCircuit n relayed q s) := by
  unfold takeCircuit
  try dsimp only
  repeat' first
    | with_reducible assumption
    | with_reducible apply State.modSkn_kept
    | with_reducible apply State.modLink_kept
    | with_reducible apply xferFreed_kept
    | intro _
    | with_reducible apply kept_ite

/-- `acceptSent` keeps the queue, canonical memory and canonical registers. -/
theorem acceptSent_kept {pq : List Instr} (n : Nat) (m : List Byte) (s : State) (hk : Kept pq s) :
    Kept pq (acceptSent n m s) := by
  unfold acceptSent
  try dsimp only
  repeat' first
    | with_reducible assumption
    | with_reducible apply State.modOpt_kept
    | intro _
    | with_reducible apply kept_ite

/-- `sendIdle` keeps the queue, canonical memory and canonical registers. -/
theorem sendIdle_kept {pq : List Instr} (n : Nat) (s : State) (hk : Kept pq s) :
    Kept pq (sendIdle n s) := by
  unfold sendIdle
  try dsimp only
  repeat' first
    | with_reducible assumption
    | with_reducible apply State.modLink_kept
    | with_reducible apply sendBlock_kept
    | with_reducible apply acceptSent_kept
    | intro _
    | with_reducible apply kept_ite
    | with_reducible apply kept_ite_snd
    | split

/-- `sendClass` keeps the queue, canonical memory and canonical registers. -/
theorem sendClass_kept {pq : List Instr} (n : Nat) (k : PosKind) (s : State) (hk : Kept pq s) :
    Kept pq (sendClass n k s) := by
  unfold sendClass
  try dsimp only
  repeat' first
    | with_reducible assumption
    | with_reducible apply State.modLink_kept
    | with_reducible apply sendBlock_kept
    | with_reducible apply placePackets_kept
    | with_reducible apply takeCircuit_kept
    | intro _
    | with_reducible apply kept_ite
    | with_reducible apply kept_ite_snd
    | split

/-- `sendRest` keeps the queue, canonical memory and canonical registers. -/
theorem sendRest_kept {pq : List Instr} (n : Nat) (k : PosKind) (s : State) (hk : Kept pq s) :
    Kept pq (sendRest n k s) := by
  unfold sendRest
  try dsimp only
  repeat' first
    | with_reducible assumption
    | with_reducible apply State.modLink_kept
    | with_reducible apply sendBlock_kept
    | with_reducible apply sendIdle_kept
    | with_reducible apply sendClass_kept
    | intro _
    | with_reducible apply kept_ite
    | with_reducible apply kept_ite_snd
    | split

/-- `sendResent` keeps the queue, canonical memory and canonical registers. -/
theorem sendResent_kept {pq : List Instr} (n : Nat) (k : PosKind) (e : Nat × Blk) (s : State) (hk : Kept pq s) :
    Kept pq (sendResent n k e s) := by
  unfold sendResent
  try dsimp only
  repeat' first
    | with_reducible assumption
    | with_reducible apply sendBlock_kept
    | with_reducible apply resendBlock_kept
    | intro _
    | with_reducible apply kept_ite

/-- `position` keeps the queue, canonical memory and canonical registers. -/
theorem position_kept {pq : List Instr} (n : Nat) (k : PosKind) (s : State) (hk : Kept pq s) :
    Kept pq (position n k s) := by
  unfold position
  try dsimp only
  repeat' first
    | with_reducible assumption
    | with_reducible apply State.modLink_kept
    | with_reducible apply sendBlock_kept
    | with_reducible apply sendRest_kept
    | with_reducible apply sendResent_kept
    | intro _
    | with_reducible apply kept_ite
    | with_reducible apply kept_ite_snd
    | split

/-- `enterSlot` keeps the queue, canonical memory and canonical registers. -/
theorem enterSlot_kept {pq : List Instr} (n : Nat) (slot : Option Nat) (s : State) (hk : Kept pq s) :
    Kept pq (enterSlot n slot s) := by
  unfold enterSlot
  try dsimp only
  repeat' first
    | with_reducible assumption
    | with_reducible apply State.modLink_kept
    | intro _
    | with_reducible apply kept_ite

/-- `passPosition` keeps the queue, canonical memory and canonical registers. -/
theorem passPosition_kept {pq : List Instr} (n : Nat) (s : State) (hk : Kept pq s) :
    Kept pq (passPosition n s) := by
  unfold passPosition
  try dsimp only
  repeat' first
    | with_reducible assumption
    | with_reducible apply State.modLink_kept

/-- `endControl` keeps the queue, canonical memory and canonical registers. -/
theorem endControl_kept {pq : List Instr} (n : Nat) (s : State) (hk : Kept pq s) :
    Kept pq (endControl n s) := by
  unfold endControl
  try dsimp only
  repeat' first
    | with_reducible assumption
    | with_reducible apply State.modLink_kept

/-- `execBlockPosition` keeps the queue, canonical memory and canonical registers. -/
theorem execBlockPosition_kept {pq : List Instr} (strand : StrandId) (slot : Option (Fin 976)) (position_ : Nat) (s : State) (hk : Kept pq s) :
    KeptOut pq (execBlockPosition strand slot position_ s) := by
  unfold execBlockPosition
  try dsimp only
  repeat' first
    | with_reducible assumption
    | with_reducible refine keptOut_next ?_
    | exact keptOut_fault
    | with_reducible refine keptOut_ite ?_ ?_
    | with_reducible apply placePackets_kept
    | with_reducible apply holdCut_kept
    | with_reducible apply position_kept
    | with_reducible apply enterSlot_kept
    | with_reducible apply passPosition_kept
    | with_reducible apply endControl_kept
    | intro _
    | with_reducible apply kept_ite

end Sys2Proof.Machine
end

