-- ==== Sys2Proof/Laws/KeepSkeins.lean ====
section
/-!
SUPPORT. Every operation of Machine/Skeins.lean leaves the queue alone and keeps memory and the lanes' registers canonical.
-/

namespace Sys2Proof.Machine

/-- `bindCtx` keeps the queue, canonical memory and canonical registers. -/
theorem bindCtx_kept {pq : List Instr} (skein : Nat) (s : State) (hk : Kept pq s) :
    Kept pq (bindCtx skein s).2 := by
  unfold bindCtx
  try dsimp only
  repeat' first
    | with_reducible assumption
    | with_reducible apply State.modCtx_kept
    | intro _
    | with_reducible apply kept_ite
    | with_reducible apply kept_ite_snd
    | split

/-- `queueBlocks` keeps the queue, canonical memory and canonical registers. -/
theorem queueBlocks_kept {pq : List Instr} (c : CircEntry) (blocks : Nat → List Blk) (s : State) (hk : Kept pq s) :
    Kept pq (queueBlocks c blocks s) := by
  unfold queueBlocks
  try dsimp only
  repeat' first
    | with_reducible assumption
    | with_reducible apply State.modFab_kept
    | with_reducible apply State.modLink_kept

/-- `sendUrgent` keeps the queue, canonical memory and canonical registers. -/
theorem sendUrgent_kept {pq : List Instr} (c : CircEntry) (opening : List Byte) (s : State) (hk : Kept pq s) :
    Kept pq (sendUrgent c opening s) := by
  unfold sendUrgent
  try dsimp only
  repeat' first
    | with_reducible assumption
    | with_reducible apply queueBlocks_kept

/-- `credited` keeps the queue, canonical memory and canonical registers. -/
theorem credited_kept {pq : List Instr} (k d : Nat) (s : State) (hk : Kept pq s) :
    Kept pq (credited k d s) := by
  unfold credited
  try dsimp only
  repeat' first
    | with_reducible assumption
    | with_reducible apply State.modCtx_kept

/-- `sendChunk` keeps the queue, canonical memory and canonical registers. -/
theorem sendChunk_kept {pq : List Instr} (co : Coll) (k d : Nat) (x : ChunkId) (s : State) (hk : Kept pq s) :
    Kept pq (sendChunk co k d x s) := by
  unfold sendChunk
  try dsimp only
  repeat' first
    | with_reducible assumption
    | with_reducible apply State.modSkn_kept
    | with_reducible apply State.modCtx_kept
    | with_reducible apply queueBlocks_kept
    | with_reducible apply credited_kept

/-- `pumpDir` keeps the queue, canonical memory and canonical registers. -/
theorem pumpDir_kept {pq : List Instr} (co : Coll) (k d : Nat) (y0 : Nat) (y1 : State) (hk : Kept pq y1) :
    Kept pq (pumpDir co k d y0 y1) := by
  induction y0 generalizing co k d y1 with
  | zero => exact hk
  | succ n ih =>
    unfold pumpDir
    try dsimp only
    repeat' first
      | with_reducible assumption
      | apply ih
      | with_reducible apply State.modSkn_kept
      | with_reducible apply State.modCtx_kept
      | with_reducible apply sendChunk_kept
      | intro _
      | with_reducible apply kept_ite
      | with_reducible apply kept_ite_snd
      | split

/-- `returnCredit` keeps the queue, canonical memory and canonical registers. -/
theorem returnCredit_kept {pq : List Instr} (co : Coll) (k d : Nat) (s : State) (hk : Kept pq s) :
    Kept pq (returnCredit co k d s) := by
  unfold returnCredit
  try dsimp only
  repeat' first
    | with_reducible assumption
    | with_reducible apply sendUrgent_kept
    | with_reducible apply credited_kept
    | intro _
    | with_reducible apply kept_ite

/-- `finishCtx` keeps the queue, canonical memory and canonical registers. -/
theorem finishCtx_kept {pq : List Instr} (k : Nat) (s : State) (hk : Kept pq s) :
    Kept pq (finishCtx k s) := by
  unfold finishCtx
  try dsimp only
  repeat' first
    | with_reducible assumption
    | with_reducible apply State.modSkn_kept
    | with_reducible apply State.modCtx_kept
    | intro _
    | with_reducible apply kept_ite

/-- `pump` keeps the queue, canonical memory and canonical registers. -/
theorem pump_kept {pq : List Instr} (co : Coll) (k : Nat) (s : State) (hk : Kept pq s) :
    Kept pq (pump co k s) := by
  unfold pump
  try dsimp only
  repeat' first
    | with_reducible assumption
    | with_reducible apply pumpDir_kept
    | with_reducible apply returnCredit_kept
    | with_reducible apply finishCtx_kept

/-- `dropChunks` keeps the queue, canonical memory and canonical registers. -/
theorem dropChunks_kept {pq : List Instr} (bad : Blk → Bool) (s : State) (hk : Kept pq s) :
    Kept pq (dropChunks bad s) := by
  unfold dropChunks
  try dsimp only
  repeat' first
    | with_reducible assumption
    | with_reducible apply State.modFab_kept

/-- `endCollective` keeps the queue, canonical memory and canonical registers. -/
theorem endCollective_kept {pq : List Instr} (co : Coll) (k : Nat) (st : Status) (s : State) (hk : Kept pq s) :
    Kept pq (endCollective co k st s) := by
  unfold endCollective
  try dsimp only
  repeat' first
    | with_reducible assumption
    | with_reducible apply State.modCtx_kept
    | with_reducible apply clientError_kept
    | with_reducible apply dropChunks_kept

/-- `sendAborts` keeps the queue, canonical memory and canonical registers. -/
theorem sendAborts_kept {pq : List Instr} (co : Coll) (d : Nat) (opening : List Byte) (y0 : List Nat) (y1 : State) (hk : Kept pq y1) :
    Kept pq (sendAborts co d opening y0 y1) := by
  induction y0 generalizing co d opening y1 with
  | nil => exact hk
  | cons x xs ih =>
    unfold sendAborts
    try dsimp only
    repeat' first
      | with_reducible assumption
      | apply ih
      | with_reducible apply sendUrgent_kept

/-- `skeinMismatch` keeps the queue, canonical memory and canonical registers. -/
theorem skeinMismatch_kept {pq : List Instr} (co : Coll) (k field : Nat) (o : List Byte) (s : State) (hk : Kept pq s) :
    Kept pq (skeinMismatch co k field o s) := by
  unfold skeinMismatch
  try dsimp only
  repeat' first
    | with_reducible assumption
    | with_reducible apply State.modSkn_kept
    | with_reducible apply postEvent_kept
    | with_reducible apply winBump_kept
    | with_reducible apply endCollective_kept
    | with_reducible apply sendAborts_kept

/-- `noteAbort` keeps the queue, canonical memory and canonical registers. -/
theorem noteAbort_kept {pq : List Instr} (x : SeenAbort) (s : State) (hk : Kept pq s) :
    Kept pq (noteAbort x s) := by
  unfold noteAbort
  try dsimp only
  repeat' first
    | with_reducible assumption
    | with_reducible apply State.modSkn_kept
    | with_reducible apply winBump_kept

/-- `postAbort` keeps the queue, canonical memory and canonical registers. -/
theorem postAbort_kept {pq : List Instr} (co : Coll) (seq : Nat) (x : SeenAbort) (s : State) (hk : Kept pq s) :
    Kept pq (postAbort co seq x s) := by
  unfold postAbort
  try dsimp only
  repeat' first
    | with_reducible assumption
    | with_reducible apply postEvent_kept

/-- `forwardAbort` keeps the queue, canonical memory and canonical registers. -/
theorem forwardAbort_kept {pq : List Instr} (co : Coll) (x : SeenAbort) (c : Ctx) (sig : Nat) (s : State) (hk : Kept pq s) :
    Kept pq (forwardAbort co x c sig s) := by
  unfold forwardAbort
  try dsimp only
  repeat' first
    | with_reducible assumption
    | with_reducible apply sendUrgent_kept

/-- `takeCredit` keeps the queue, canonical memory and canonical registers. -/
theorem takeCredit_kept {pq : List Instr} (k d credit : Nat) (s : State) (hk : Kept pq s) :
    Kept pq (takeCredit k d credit s) := by
  unfold takeCredit
  try dsimp only
  repeat' first
    | with_reducible assumption
    | with_reducible apply State.modCtx_kept

/-- `writeOut` keeps the queue, canonical memory and canonical registers. -/
theorem writeOut_kept {pq : List Instr} (co : Coll) (k off : Nat) (bs : List Byte) (s : State) (hk : Kept pq s) :
    Kept pq (writeOut co k off bs s) := by
  unfold writeOut
  try dsimp only
  repeat' first
    | with_reducible assumption
    | with_reducible apply targetWrite_kept
    | with_reducible apply endCollective_kept
    | intro _
    | with_reducible apply kept_ite
    | with_reducible apply kept_ite_snd
    | split
    | (with_reducible apply kept_snd; focus assumption)

/-- `combineChunk` keeps the queue, canonical memory and canonical registers. -/
theorem combineChunk_kept {pq : List Instr} (co : Coll) (k d : Nat) (x : ChunkId) (data : List Byte) (s : State) (hk : Kept pq s) :
    Kept pq (combineChunk co k d x data s) := by
  unfold combineChunk
  try dsimp only
  repeat' first
    | with_reducible assumption
    | with_reducible apply State.modCtx_kept
    | with_reducible apply tapShard_kept
    | with_reducible apply writeOut_kept
    | intro _
    | with_reducible apply kept_ite

/-- `consumeChunk` keeps the queue, canonical memory and canonical registers. -/
theorem consumeChunk_kept {pq : List Instr} (co : Coll) (k d : Nat) (x : ChunkId) (data : List Byte) (s : State) (hk : Kept pq s) :
    Kept pq (consumeChunk co k d x data s) := by
  unfold consumeChunk
  try dsimp only
  repeat' first
    | with_reducible assumption
    | with_reducible apply State.modCtx_kept
    | with_reducible apply pump_kept
    | with_reducible apply combineChunk_kept
    | intro _
    | with_reducible apply kept_ite

/-- `chunkCheckFails` keeps the queue, canonical memory and canonical registers. -/
theorem chunkCheckFails_kept {pq : List Instr} (co : Coll) (k : Nat) (s : State) (hk : Kept pq s) :
    Kept pq (chunkCheckFails co k s) := by
  unfold chunkCheckFails
  try dsimp only
  repeat' first
    | with_reducible assumption
    | with_reducible apply State.modSkn_kept
    | with_reducible apply checkMismatch_kept
    | with_reducible apply endCollective_kept

/-- `stageChunk` keeps the queue, canonical memory and canonical registers. -/
theorem stageChunk_kept {pq : List Instr} (k : Nat) (x : EarlyChunk) (s : State) (hk : Kept pq s) :
    Kept pq (stageChunk k x s) := by
  unfold stageChunk
  try dsimp only
  repeat' first
    | with_reducible assumption
    | with_reducible apply State.modCtx_kept

/-- `takeChunk` keeps the queue, canonical memory and canonical registers. -/
theorem takeChunk_kept {pq : List Instr} (x : EarlyChunk) (s : State) (hk : Kept pq s) :
    Kept pq (takeChunk x s) := by
  unfold takeChunk
  try dsimp only
  repeat' first
    | with_reducible assumption
    | with_reducible apply bindCtx_kept
    | with_reducible apply skeinMismatch_kept
    | with_reducible apply takeCredit_kept
    | with_reducible apply consumeChunk_kept
    | with_reducible apply chunkCheckFails_kept
    | with_reducible apply stageChunk_kept
    | intro _
    | with_reducible apply kept_ite
    | with_reducible apply kept_ite_snd
    | split
    | (with_reducible apply kept_snd; focus assumption)

/-- `takeOpening` keeps the queue, canonical memory and canonical registers. -/
theorem takeOpening_kept {pq : List Instr} (o : List Byte) (s : State) (hk : Kept pq s) :
    Kept pq (takeOpening o s).2 := by
  unfold takeOpening
  try dsimp only
  repeat' first
    | with_reducible assumption
    | with_reducible apply bindCtx_kept
    | with_reducible apply skeinMismatch_kept
    | intro _
    | with_reducible apply kept_ite
    | with_reducible apply kept_ite_snd
    | split
    | (with_reducible apply kept_snd; focus assumption)

/-- `takeEarly` keeps the queue, canonical memory and canonical registers. -/
theorem takeEarly_kept {pq : List Instr} (y0 : List EarlyChunk) (y1 : State) (hk : Kept pq y1) :
    Kept pq (takeEarly y0 y1) := by
  induction y0 generalizing y1 with
  | nil => exact hk
  | cons x xs ih =>
    unfold takeEarly
    try dsimp only
    repeat' first
      | with_reducible assumption
      | apply ih
      | with_reducible apply takeChunk_kept

/-- `execCollectiveChunk` keeps the queue, canonical memory and canonical registers. -/
theorem execCollectiveChunk_kept {pq : List Instr} (strand : StrandId) (opening data : List Byte) (check : Word) (s : State) (hk : Kept pq s) :
    KeptOut pq (execCollectiveChunk strand opening data check s) := by
  unfold execCollectiveChunk
  try dsimp only
  repeat' first
    | with_reducible assumption
    | with_reducible refine keptOut_next ?_
    | exact keptOut_fault
    | with_reducible refine keptOut_ite ?_ ?_
    | with_reducible apply State.modTop_kept
    | with_reducible apply spillGate_kept
    | with_reducible apply takeChunk_kept
    | intro _
    | with_reducible apply kept_ite

/-- `takeCreditOnly` keeps the queue, canonical memory and canonical registers. -/
theorem takeCreditOnly_kept {pq : List Instr} (o : List Byte) (s : State) (hk : Kept pq s) :
    Kept pq (takeCreditOnly o s) := by
  unfold takeCreditOnly
  try dsimp only
  repeat' first
    | with_reducible assumption
    | with_reducible apply pump_kept
    | with_reducible apply takeCredit_kept
    | intro _
    | with_reducible apply kept_ite
    | with_reducible apply kept_ite_snd
    | split

/-- `execCreditOnly` keeps the queue, canonical memory and canonical registers. -/
theorem execCreditOnly_kept {pq : List Instr} (strand : StrandId) (opening : List Byte) (s : State) (hk : Kept pq s) :
    KeptOut pq (execCreditOnly strand opening s) := by
  unfold execCreditOnly
  try dsimp only
  repeat' first
    | with_reducible assumption
    | with_reducible refine keptOut_next ?_
    | exact keptOut_fault
    | with_reducible refine keptOut_ite ?_ ?_
    | with_reducible apply State.modTop_kept
    | with_reducible apply spillGate_kept
    | with_reducible apply takeCreditOnly_kept
    | intro _
    | with_reducible apply kept_ite

/-- `abortStarted` keeps the queue, canonical memory and canonical registers. -/
theorem abortStarted_kept {pq : List Instr} (co : Coll) (k : Nat) (x : SeenAbort) (s : State) (hk : Kept pq s) :
    Kept pq (abortStarted co k x s) := by
  unfold abortStarted
  try dsimp only
  repeat' first
    | with_reducible assumption
    | with_reducible apply endCollective_kept
    | with_reducible apply noteAbort_kept
    | with_reducible apply postAbort_kept
    | with_reducible apply forwardAbort_kept

/-- `abortOther` keeps the queue, canonical memory and canonical registers. -/
theorem abortOther_kept {pq : List Instr} (co : Coll) (x : SeenAbort) (s : State) (hk : Kept pq s) :
    Kept pq (abortOther co x s) := by
  unfold abortOther
  try dsimp only
  repeat' first
    | with_reducible assumption
    | with_reducible apply failFrame_kept
    | with_reducible apply noteAbort_kept
    | with_reducible apply postAbort_kept
    | with_reducible apply forwardAbort_kept
    | intro _
    | with_reducible apply kept_ite

/-- `takeAbort` keeps the queue, canonical memory and canonical registers. -/
theorem takeAbort_kept {pq : List Instr} (o : List Byte) (s : State) (hk : Kept pq s) :
    Kept pq (takeAbort o s) := by
  unfold takeAbort
  try dsimp only
  repeat' first
    | with_reducible assumption
    | with_reducible apply State.modSkn_kept
    | with_reducible apply abortStarted_kept
    | with_reducible apply abortOther_kept
    | intro _
    | with_reducible apply kept_ite
    | with_reducible apply kept_ite_snd
    | split

/-- `execAbortChunk` keeps the queue, canonical memory and canonical registers. -/
theorem execAbortChunk_kept {pq : List Instr} (strand : StrandId) (opening : List Byte) (s : State) (hk : Kept pq s) :
    KeptOut pq (execAbortChunk strand opening s) := by
  unfold execAbortChunk
  try dsimp only
  repeat' first
    | with_reducible assumption
    | with_reducible refine keptOut_next ?_
    | exact keptOut_fault
    | with_reducible refine keptOut_ite ?_ ?_
    | with_reducible apply State.modTop_kept
    | with_reducible apply takeAbort_kept
    | intro _
    | with_reducible apply kept_ite

/-- `openCtx` keeps the queue, canonical memory and canonical registers. -/
theorem openCtx_kept {pq : List Instr} (co : Coll) (k : Nat) (s : State) (hk : Kept pq s) :
    Kept pq (openCtx co k s) := by
  unfold openCtx
  try dsimp only
  repeat' first
    | with_reducible assumption
    | with_reducible apply State.modSkn_kept
    | with_reducible apply State.modCtx_kept

/-- `loadInput` keeps the queue, canonical memory and canonical registers. -/
theorem loadInput_kept {pq : List Instr} (co : Coll) (k : Nat) (s : State) (hk : Kept pq s) :
    Kept pq (loadInput co k s) := by
  unfold loadInput
  try dsimp only
  repeat' first
    | with_reducible assumption
    | with_reducible apply State.modCtx_kept
    | with_reducible apply engineRead_kept
    | with_reducible apply endCollective_kept
    | with_reducible apply writeOut_kept
    | intro _
    | with_reducible apply kept_ite
    | with_reducible apply kept_ite_snd
    | split

/-- `runCollective` keeps the queue, canonical memory and canonical registers. -/
theorem runCollective_kept {pq : List Instr} (co : Coll) (k : Nat) (s : State) (hk : Kept pq s) :
    Kept pq (runCollective co k s) := by
  unfold runCollective
  try dsimp only
  repeat' first
    | with_reducible assumption
    | with_reducible apply noteWrite_kept
    | with_reducible apply pump_kept
    | with_reducible apply endCollective_kept
    | with_reducible apply loadInput_kept
    | intro _
    | with_reducible apply kept_ite
    | with_reducible apply kept_ite_snd
    | split

/-- `collStep` keeps the queue, canonical memory and canonical registers. -/
theorem collStep_kept {pq : List Instr} (i : Nat) (img : Image) (s : State) (hk : Kept pq s) :
    Kept pq (collStep i img s) := by
  unfold collStep
  try dsimp only
  repeat' first
    | with_reducible assumption
    | with_reducible apply bindCtx_kept
    | with_reducible apply endCollective_kept
    | with_reducible apply postAbort_kept
    | with_reducible apply takeEarly_kept
    | with_reducible apply openCtx_kept
    | with_reducible apply runCollective_kept
    | intro _
    | with_reducible apply kept_ite
    | with_reducible apply kept_ite_snd
    | split
    | (with_reducible apply kept_snd; focus assumption)

/-- `execAllReduce` keeps the queue, canonical memory and canonical registers. -/
theorem execAllReduce_kept {pq : List Instr} (step : Nat) (s : State) (hk : Kept pq s) :
    KeptOut pq (execAllReduce step s) := by
  unfold execAllReduce
  try dsimp only
  repeat' first
    | with_reducible assumption
    | with_reducible refine keptOut_next ?_
    | exact keptOut_fault
    | with_reducible refine keptOut_ite ?_ ?_
    | with_reducible apply startStep_kept
    | with_reducible apply collStep_kept
    | intro _

/-- `execReduceScatter` keeps the queue, canonical memory and canonical registers. -/
theorem execReduceScatter_kept {pq : List Instr} (step : Nat) (s : State) (hk : Kept pq s) :
    KeptOut pq (execReduceScatter step s) := by
  unfold execReduceScatter
  try dsimp only
  repeat' first
    | with_reducible assumption
    | with_reducible refine keptOut_next ?_
    | exact keptOut_fault
    | with_reducible refine keptOut_ite ?_ ?_
    | with_reducible apply startStep_kept
    | with_reducible apply collStep_kept
    | intro _

/-- `execAllGather` keeps the queue, canonical memory and canonical registers. -/
theorem execAllGather_kept {pq : List Instr} (step : Nat) (s : State) (hk : Kept pq s) :
    KeptOut pq (execAllGather step s) := by
  unfold execAllGather
  try dsimp only
  repeat' first
    | with_reducible assumption
    | with_reducible refine keptOut_next ?_
    | exact keptOut_fault
    | with_reducible refine keptOut_ite ?_ ?_
    | with_reducible apply startStep_kept
    | with_reducible apply collStep_kept
    | intro _

end Sys2Proof.Machine
end

