-- ==== Sys2Proof/Laws/KeepCircuits.lean ====
section
/-!
SUPPORT. Every operation of Machine/Circuits.lean leaves the queue alone and keeps memory and the lanes' registers canonical.
-/

namespace Sys2Proof.Machine

/-- `relayCircuit` keeps the queue, canonical memory and canonical registers. -/
theorem relayCircuit_kept {pq : List Instr} (n typ route : Nat) (payload : List Byte) (s : State) (hk : Kept pq s) :
    Kept pq (relayCircuit n typ route payload s) := by
  unfold relayCircuit
  try dsimp only
  repeat' first
    | with_reducible assumption
    | with_reducible apply State.modFab_kept
    | with_reducible apply State.modLink_kept
    | with_reducible apply dropCircuit_kept
    | with_reducible apply holdCut_kept
    | intro _
    | with_reducible apply kept_ite
    | with_reducible apply kept_ite_snd
    | split

/-- `circuitBlock` keeps the queue, canonical memory and canonical registers. -/
theorem circuitBlock_kept {pq : List Instr} (n typ route : Nat) (payload : List Byte) (here : State → State) (s : State) (hhere : ∀ x0, Kept pq x0 → Kept pq (here x0)) (hk : Kept pq s) :
    Kept pq (circuitBlock n typ route payload here s) := by
  unfold circuitBlock
  try dsimp only
  repeat' first
    | with_reducible assumption
    | with_reducible apply State.modTop_kept
    | with_reducible apply spillGate_kept
    | with_reducible apply relayCircuit_kept
    | apply hhere
    | intro _
    | with_reducible apply kept_ite

/-- `answerXfer` keeps the queue, canonical memory and canonical registers. -/
theorem answerXfer_kept {pq : List Instr} (route : Nat) (st : Status) (detail count : Nat) (s : State) (hk : Kept pq s) :
    Kept pq (answerXfer route st detail count s) := by
  unfold answerXfer
  try dsimp only
  repeat' first
    | with_reducible assumption
    | with_reducible apply sendAck_kept

/-- `openTransfer` keeps the queue, canonical memory and canonical registers. -/
theorem openTransfer_kept {pq : List Instr} (n route : Nat) (p : List Byte) (s : State) (hk : Kept pq s) :
    Kept pq (openTransfer n route p s) := by
  unfold openTransfer
  try dsimp only
  repeat' first
    | with_reducible assumption
    | with_reducible apply State.modFrm_kept
    | with_reducible apply State.modFab_kept
    | with_reducible apply arriveCheck_kept
    | with_reducible apply takeOpening_kept
    | with_reducible apply takeCreditOnly_kept
    | with_reducible apply takeAbort_kept
    | with_reducible apply answerXfer_kept
    | intro _
    | with_reducible apply kept_ite
    | with_reducible apply kept_ite_snd
    | split
    | (with_reducible apply kept_snd; focus assumption)

/-- `execCircuitOpen` keeps the queue, canonical memory and canonical registers. -/
theorem execCircuitOpen_kept {pq : List Instr} (strand : StrandId) (route : BitVec 56) (payload : List Byte) (s : State) (hk : Kept pq s) :
    KeptOut pq (execCircuitOpen strand route payload s) := by
  unfold execCircuitOpen
  try dsimp only
  repeat' first
    | with_reducible assumption
    | with_reducible refine keptOut_next ?_
    | exact keptOut_fault
    | with_reducible refine keptOut_ite ?_ ?_
    | with_reducible apply circuitBlock_kept
    | with_reducible apply openTransfer_kept

/-- `transferData` keeps the queue, canonical memory and canonical registers. -/
theorem transferData_kept {pq : List Instr} (n route : Nat) (payload : List Byte) (s : State) (hk : Kept pq s) :
    Kept pq (transferData n route payload s) := by
  unfold transferData
  try dsimp only
  repeat' first
    | with_reducible assumption
    | with_reducible apply State.modFab_kept
    | with_reducible apply targetWrite_kept
    | with_reducible apply answerXfer_kept
    | intro _
    | with_reducible apply kept_ite
    | with_reducible apply kept_ite_snd
    | split
    | (with_reducible apply kept_snd; focus assumption)

/-- `execCircuitData` keeps the queue, canonical memory and canonical registers. -/
theorem execCircuitData_kept {pq : List Instr} (strand : StrandId) (route : BitVec 56) (payload : List Byte) (s : State) (hk : Kept pq s) :
    KeptOut pq (execCircuitData strand route payload s) := by
  unfold execCircuitData
  try dsimp only
  repeat' first
    | with_reducible assumption
    | with_reducible refine keptOut_next ?_
    | exact keptOut_fault
    | with_reducible refine keptOut_ite ?_ ?_
    | with_reducible apply circuitBlock_kept
    | with_reducible apply transferData_kept

/-- `closeTransfer` keeps the queue, canonical memory and canonical registers. -/
theorem closeTransfer_kept {pq : List Instr} (n route : Nat) (p : List Byte) (s : State) (hk : Kept pq s) :
    Kept pq (closeTransfer n route p s) := by
  unfold closeTransfer
  try dsimp only
  repeat' first
    | with_reducible assumption
    | with_reducible apply State.modFab_kept
    | with_reducible apply markUndef_kept
    | with_reducible apply checkMismatch_kept
    | with_reducible apply takeChunk_kept
    | with_reducible apply answerXfer_kept
    | intro _
    | with_reducible apply kept_ite
    | with_reducible apply kept_ite_snd
    | split

/-- `execCircuitClose` keeps the queue, canonical memory and canonical registers. -/
theorem execCircuitClose_kept {pq : List Instr} (strand : StrandId) (route : BitVec 56) (payload : List Byte) (s : State) (hk : Kept pq s) :
    KeptOut pq (execCircuitClose strand route payload s) := by
  unfold execCircuitClose
  try dsimp only
  repeat' first
    | with_reducible assumption
    | with_reducible refine keptOut_next ?_
    | exact keptOut_fault
    | with_reducible refine keptOut_ite ?_ ?_
    | with_reducible apply circuitBlock_kept
    | with_reducible apply closeTransfer_kept

end Sys2Proof.Machine
end

