-- ==== Sys2Proof/Laws/KeepFrameCmds.lean ====
section
/-!
SUPPORT. Every operation of Machine/FrameCmds.lean leaves the queue alone and keeps memory and the lanes' registers canonical.
-/

namespace Sys2Proof.Machine

/-- `imageRefused` keeps the queue, canonical memory and canonical registers. -/
theorem imageRefused_kept {pq : List Instr} (m : Nat) (st : Status) (index info : Nat) (s : State) (hk : Kept pq s) :
    Kept pq (imageRefused m st index info s) := by
  unfold imageRefused
  try dsimp only
  repeat' first
    | with_reducible assumption
    | with_reducible apply State.modSec_kept
    | with_reducible apply completeMbx_kept
    | intro _
    | with_reducible apply kept_ite

/-- `keepImage` keeps the queue, canonical memory and canonical registers. -/
theorem keepImage_kept {pq : List Instr} (img : Image) (s : State) (hk : Kept pq s) :
    Kept pq (keepImage img s) := by
  unfold keepImage
  try dsimp only
  repeat' first
    | with_reducible assumption
    | with_reducible apply State.modFrm_kept
    | with_reducible apply State.modSec_kept

/-- `imageChecked` keeps the queue, canonical memory and canonical registers. -/
theorem imageChecked_kept {pq : List Instr} (m : Nat) (img : Image) (flaw : Option (Status × Nat × Nat)) (s : State) (hk : Kept pq s) :
    Kept pq (imageChecked m img flaw s) := by
  unfold imageChecked
  try dsimp only
  repeat' first
    | with_reducible assumption
    | with_reducible apply State.drawFree_kept
    | with_reducible apply completeMbx_kept
    | with_reducible apply imageRefused_kept
    | with_reducible apply keepImage_kept
    | intro _
    | with_reducible apply kept_ite
    | with_reducible apply kept_ite_snd
    | split

/-- `checkImage` keeps the queue, canonical memory and canonical registers. -/
theorem checkImage_kept {pq : List Instr} (m tenant length : Nat) (bs : List Byte) (s : State) (hk : Kept pq s) :
    Kept pq (checkImage m tenant length bs s) := by
  unfold checkImage
  try dsimp only
  repeat' first
    | with_reducible assumption
    | with_reducible apply imageChecked_kept

/-- `frameLoad` keeps the queue, canonical memory and canonical registers. -/
theorem frameLoad_kept {pq : List Instr} (m : Nat) (r : MbxReq) (s : State) (hk : Kept pq s) :
    Kept pq (frameLoad m r s) := by
  unfold frameLoad
  try dsimp only
  repeat' first
    | with_reducible assumption
    | with_reducible apply failMbx_kept
    | with_reducible apply flyerRead_kept
    | with_reducible apply checkImage_kept
    | intro _
    | with_reducible apply kept_ite
    | with_reducible apply kept_ite_snd
    | split

/-- `execFrameLoad` keeps the queue, canonical memory and canonical registers. -/
theorem execFrameLoad_kept {pq : List Instr} (mbx : MbxId) (s : State) (hk : Kept pq s) :
    KeptOut pq (execFrameLoad mbx s) := by
  unfold execFrameLoad
  try dsimp only
  repeat' first
    | with_reducible assumption
    | with_reducible refine keptOut_next ?_
    | exact keptOut_fault
    | with_reducible refine keptOut_ite ?_ ?_
    | with_reducible apply casbomi_kept
    | with_reducible apply frameLoad_kept

/-- `frameStart` keeps the queue, canonical memory and canonical registers. -/
theorem frameStart_kept {pq : List Instr} (m : Nat) (r : MbxReq) (s : State) (hk : Kept pq s) :
    Kept pq (frameStart m r s) := by
  unfold frameStart
  try dsimp only
  repeat' first
    | with_reducible assumption
    | with_reducible apply State.modFrm_kept
    | with_reducible apply completeMbx_kept
    | with_reducible apply failMbx_kept
    | intro _
    | with_reducible apply kept_ite

/-- `execFrameStart` keeps the queue, canonical memory and canonical registers. -/
theorem execFrameStart_kept {pq : List Instr} (mbx : MbxId) (s : State) (hk : Kept pq s) :
    KeptOut pq (execFrameStart mbx s) := by
  unfold execFrameStart
  try dsimp only
  repeat' first
    | with_reducible assumption
    | with_reducible refine keptOut_next ?_
    | exact keptOut_fault
    | with_reducible refine keptOut_ite ?_ ?_
    | with_reducible apply casbomi_kept
    | with_reducible apply frameStart_kept

/-- `framePreempt` keeps the queue, canonical memory and canonical registers. -/
theorem framePreempt_kept {pq : List Instr} (m : Nat) (r : MbxReq) (s : State) (hk : Kept pq s) :
    Kept pq (framePreempt m r s) := by
  unfold framePreempt
  try dsimp only
  repeat' first
    | with_reducible assumption
    | with_reducible apply State.modFrm_kept
    | with_reducible apply completeMbx_kept
    | with_reducible apply failMbx_kept
    | intro _
    | with_reducible apply kept_ite

/-- `execFramePreempt` keeps the queue, canonical memory and canonical registers. -/
theorem execFramePreempt_kept {pq : List Instr} (mbx : MbxId) (s : State) (hk : Kept pq s) :
    KeptOut pq (execFramePreempt mbx s) := by
  unfold execFramePreempt
  try dsimp only
  repeat' first
    | with_reducible assumption
    | with_reducible refine keptOut_next ?_
    | exact keptOut_fault
    | with_reducible refine keptOut_ite ?_ ?_
    | with_reducible apply casbomi_kept
    | with_reducible apply framePreempt_kept

/-- `frameUnload` keeps the queue, canonical memory and canonical registers. -/
theorem frameUnload_kept {pq : List Instr} (m : Nat) (_r : MbxReq) (s : State) (hk : Kept pq s) :
    Kept pq (frameUnload m _r s) := by
  unfold frameUnload
  try dsimp only
  repeat' first
    | with_reducible assumption
    | with_reducible apply State.modFrm_kept
    | with_reducible apply completeMbx_kept
    | with_reducible apply failMbx_kept
    | intro _
    | with_reducible apply kept_ite

/-- `execFrameUnload` keeps the queue, canonical memory and canonical registers. -/
theorem execFrameUnload_kept {pq : List Instr} (mbx : MbxId) (s : State) (hk : Kept pq s) :
    KeptOut pq (execFrameUnload mbx s) := by
  unfold execFrameUnload
  try dsimp only
  repeat' first
    | with_reducible assumption
    | with_reducible refine keptOut_next ?_
    | exact keptOut_fault
    | with_reducible refine keptOut_ite ?_ ?_
    | with_reducible apply casbomi_kept
    | with_reducible apply frameUnload_kept

end Sys2Proof.Machine
end

