-- ==== Sys2Proof/Laws/KeepVisibility.lean ====
section
/-!
SUPPORT. Every operation of Machine/Visibility.lean leaves the queue alone and keeps memory and the lanes' registers canonical.
-/

namespace Sys2Proof.Machine

/-- `execRelease` keeps the queue, canonical memory and canonical registers. -/
theorem execRelease_kept {pq : List Instr} (engine : Engine) (base len : Nat) (scope : Scope) (cells : CellFaults) (s : State) (hk : Kept pq s) :
    KeptOut pq (execRelease engine base len scope cells s) := by
  unfold execRelease
  try dsimp only
  repeat' first
    | with_reducible assumption
    | with_reducible refine keptOut_next ?_
    | exact keptOut_fault
    | with_reducible refine keptOut_ite ?_ ?_
    | with_reducible apply applyCells_kept
    | with_reducible apply spillGate_kept
    | with_reducible apply releaseOf_kept
    | intro _
    | with_reducible apply kept_ite

/-- `execAcquire` keeps the queue, canonical memory and canonical registers. -/
theorem execAcquire_kept {pq : List Instr} (engine : Engine) (base len : Nat) (_scope : Scope) (cells : CellFaults) (s : State) (hk : Kept pq s) :
    KeptOut pq (execAcquire engine base len _scope cells s) := by
  unfold execAcquire
  try dsimp only
  repeat' first
    | with_reducible assumption
    | with_reducible refine keptOut_next ?_
    | exact keptOut_fault
    | with_reducible refine keptOut_ite ?_ ?_
    | with_reducible apply applyCells_kept
    | with_reducible apply spillGate_kept
    | with_reducible apply acquireOf_kept

/-- `rlcCtrlWrite` keeps the queue, canonical memory and canonical registers. -/
theorem rlcCtrlWrite_kept {pq : List Instr} (d v : Nat) (s : State) (hk : Kept pq s) :
    Kept pq (rlcCtrlWrite d v s) := by
  unfold rlcCtrlWrite
  try dsimp only
  repeat' first
    | with_reducible assumption
    | with_reducible apply State.modRlc_kept
    | with_reducible apply flushDie_kept
    | intro _
    | with_reducible apply kept_ite

/-- `execVisRlcCtrlWrite` keeps the queue, canonical memory and canonical registers. -/
theorem execVisRlcCtrlWrite_kept {pq : List Instr} (die : CDie) (value : Word) (s : State) (hk : Kept pq s) :
    KeptOut pq (execVisRlcCtrlWrite die value s) := by
  unfold execVisRlcCtrlWrite
  try dsimp only
  repeat' first
    | with_reducible assumption
    | with_reducible refine keptOut_next ?_
    | exact keptOut_fault
    | with_reducible refine keptOut_ite ?_ ?_
    | with_reducible apply rlcCtrlWrite_kept
    | intro _
    | with_reducible apply kept_ite

end Sys2Proof.Machine
end

