-- ==== Sys2Proof/Laws/KeepOptics.lean ====
section
/-!
SUPPORT. Every operation of Machine/Optics.lean leaves the queue alone and keeps memory and the lanes' registers canonical.
-/

namespace Sys2Proof.Machine

/-- `execHeaterUpdate` keeps the queue, canonical memory and canonical registers. -/
theorem execHeaterUpdate_kept {pq : List Instr} (s : State) (hk : Kept pq s) :
    KeptOut pq (execHeaterUpdate s) := by
  unfold execHeaterUpdate
  try dsimp only
  repeat' first
    | with_reducible assumption
    | with_reducible refine keptOut_next ?_
    | exact keptOut_fault
    | with_reducible refine keptOut_ite ?_ ?_
    | with_reducible apply State.modOpt_kept
    | with_reducible apply State.drawFree_kept

/-- `retuneHeater` keeps the queue, canonical memory and canonical registers. -/
theorem retuneHeater_kept {pq : List Instr} (key code : Nat) (s : State) (hk : Kept pq s) :
    Kept pq (retuneHeater key code s) := by
  unfold retuneHeater
  try dsimp only
  repeat' first
    | with_reducible assumption
    | with_reducible apply State.modOpt_kept
    | with_reducible apply State.drawFree_kept
    | intro _
    | with_reducible apply kept_ite
    | with_reducible apply kept_ite_snd
    | split

/-- `retuneAll` keeps the queue, canonical memory and canonical registers. -/
theorem retuneAll_kept {pq : List Instr} (n : Nat) (y0 : List (LaneId × Bool × BitVec 12)) (y1 : State) (hk : Kept pq y1) :
    Kept pq (retuneAll n y0 y1) := by
  induction y0 generalizing n y1 with
  | nil => exact hk
  | cons x xs ih =>
    unfold retuneAll
    try dsimp only
    repeat' first
      | with_reducible assumption
      | apply ih
      | with_reducible apply retuneHeater_kept

/-- `modLaser` keeps the queue, canonical memory and canonical registers. -/
theorem modLaser_kept {pq : List Instr} (b w : Nat) (f : Laser → Laser) (s : State) (hk : Kept pq s) :
    Kept pq (modLaser b w f s) := by
  unfold modLaser
  try dsimp only
  repeat' first
    | with_reducible assumption
    | with_reducible apply State.modBank_kept

/-- `execLaserDriveAdjust` keeps the queue, canonical memory and canonical registers. -/
theorem execLaserDriveAdjust_kept {pq : List Instr} (power : List Half) (s : State) (hk : Kept pq s) :
    KeptOut pq (execLaserDriveAdjust power s) := by
  unfold execLaserDriveAdjust
  try dsimp only
  repeat' first
    | with_reducible assumption
    | with_reducible refine keptOut_next ?_
    | exact keptOut_fault
    | with_reducible refine keptOut_ite ?_ ?_
    | with_reducible apply State.modOpt_kept

/-- `clearMirrors` keeps the queue, canonical memory and canonical registers. -/
theorem clearMirrors_kept {pq : List Instr} (b : Nat) (s : State) (hk : Kept pq s) :
    Kept pq (clearMirrors b s) := by
  unfold clearMirrors
  try dsimp only
  repeat' first
    | with_reducible assumption
    | with_reducible apply State.modStrand_kept
    | (refine foldl_kept ?_ ?_; intro _ _ _)

/-- `startSwap` keeps the queue, canonical memory and canonical registers. -/
theorem startSwap_kept {pq : List Instr} (b w : Nat) (s : State) (hk : Kept pq s) :
    Kept pq (startSwap b w s) := by
  unfold startSwap
  try dsimp only
  repeat' first
    | with_reducible assumption
    | with_reducible apply State.modBank_kept
    | with_reducible apply modLaser_kept
    | with_reducible apply clearMirrors_kept

/-- `dropLaneAtFrame` keeps the queue, canonical memory and canonical registers. -/
theorem dropLaneAtFrame_kept {pq : List Instr} (lane : Nat) (y0 : List Nat) (y1 : State) (hk : Kept pq y1) :
    Kept pq (dropLaneAtFrame lane y0 y1) := by
  induction y0 generalizing lane y1 with
  | nil => exact hk
  | cons x xs ih =>
    unfold dropLaneAtFrame
    try dsimp only
    repeat' first
      | with_reducible assumption
      | apply ih
      | with_reducible apply changeAtFrame_kept
      | intro _
      | with_reducible apply kept_ite

/-- `failMirrored` keeps the queue, canonical memory and canonical registers. -/
theorem failMirrored_kept {pq : List Instr} (w : Nat) (y0 : List Nat) (y1 : State) (hk : Kept pq y1) :
    Kept pq (failMirrored w y0 y1) := by
  induction y0 generalizing w y1 with
  | nil => exact hk
  | cons x xs ih =>
    unfold failMirrored
    try dsimp only
    repeat' first
      | with_reducible assumption
      | apply ih
      | with_reducible apply State.modStrand_kept
      | with_reducible apply dropTx_kept
      | with_reducible apply mapAtOnce_kept
      | intro _
      | with_reducible apply kept_ite

/-- `dropLane` keeps the queue, canonical memory and canonical registers. -/
theorem dropLane_kept {pq : List Instr} (lane : Nat) (y0 : List Nat) (y1 : State) (hk : Kept pq y1) :
    Kept pq (dropLane lane y0 y1) := by
  induction y0 generalizing lane y1 with
  | nil => exact hk
  | cons x xs ih =>
    unfold dropLane
    try dsimp only
    repeat' first
      | with_reducible assumption
      | apply ih
      | with_reducible apply dropTx_kept

/-- `spareFailed` keeps the queue, canonical memory and canonical registers. -/
theorem spareFailed_kept {pq : List Instr} (b : Nat) (s : State) (hk : Kept pq s) :
    Kept pq (spareFailed b s) := by
  unfold spareFailed
  try dsimp only
  repeat' first
    | with_reducible assumption
    | with_reducible apply State.modBank_kept
    | with_reducible apply clearMirrors_kept
    | with_reducible apply dropLaneAtFrame_kept
    | with_reducible apply dropLane_kept
    | intro _
    | with_reducible apply kept_ite
    | with_reducible apply kept_ite_snd
    | split

/-- `wavelengthFailed` keeps the queue, canonical memory and canonical registers. -/
theorem wavelengthFailed_kept {pq : List Instr} (b w : Nat) (s : State) (hk : Kept pq s) :
    Kept pq (wavelengthFailed b w s) := by
  unfold wavelengthFailed
  try dsimp only
  repeat' first
    | with_reducible assumption
    | with_reducible apply advanceSwap_kept
    | with_reducible apply startSwap_kept
    | with_reducible apply failMirrored_kept
    | with_reducible apply dropLane_kept
    | with_reducible apply spareFailed_kept
    | intro _
    | with_reducible apply kept_ite

/-- `laserFailed` keeps the queue, canonical memory and canonical registers. -/
theorem laserFailed_kept {pq : List Instr} (b w : Nat) (s : State) (hk : Kept pq s) :
    Kept pq (laserFailed b w s) := by
  unfold laserFailed
  try dsimp only
  repeat' first
    | with_reducible assumption
    | with_reducible apply escalate_kept
    | with_reducible apply modLaser_kept
    | with_reducible apply wavelengthFailed_kept
    | intro _
    | with_reducible apply kept_ite

/-- `execLaserFailure` keeps the queue, canonical memory and canonical registers. -/
theorem execLaserFailure_kept {pq : List Instr} (bank : BankId) (laser : LaneId) (s : State) (hk : Kept pq s) :
    KeptOut pq (execLaserFailure bank laser s) := by
  unfold execLaserFailure
  try dsimp only
  repeat' first
    | with_reducible assumption
    | with_reducible refine keptOut_next ?_
    | exact keptOut_fault
    | with_reducible refine keptOut_ite ?_ ?_
    | with_reducible apply laserFailed_kept

/-- `beginPeriod` keeps the queue, canonical memory and canonical registers. -/
theorem beginPeriod_kept {pq : List Instr} (j : CalJob) (s : State) (hk : Kept pq s) :
    Kept pq (beginPeriod j s) := by
  unfold beginPeriod
  try dsimp only
  repeat' first
    | with_reducible assumption
    | with_reducible apply State.modOpt_kept
    | with_reducible apply State.modStrand_kept

/-- `execCalibrationStart` keeps the queue, canonical memory and canonical registers. -/
theorem execCalibrationStart_kept {pq : List Instr} (strand : StrandId) (s : State) (hk : Kept pq s) :
    KeptOut pq (execCalibrationStart strand s) := by
  unfold execCalibrationStart
  try dsimp only
  repeat' first
    | with_reducible assumption
    | with_reducible refine keptOut_next ?_
    | exact keptOut_fault
    | with_reducible refine keptOut_ite ?_ ?_
    | with_reducible apply sendControl_kept
    | with_reducible apply beginPeriod_kept
    | intro _
    | with_reducible apply kept_ite
    | with_reducible apply kept_ite_snd
    | split

/-- `execCalibrationRequest` keeps the queue, canonical memory and canonical registers. -/
theorem execCalibrationRequest_kept {pq : List Instr} (strand : StrandId) (request : CalRequest) (s : State) (hk : Kept pq s) :
    KeptOut pq (execCalibrationRequest strand request s) := by
  unfold execCalibrationRequest
  try dsimp only
  repeat' first
    | with_reducible assumption
    | with_reducible refine keptOut_next ?_
    | exact keptOut_fault
    | with_reducible refine keptOut_ite ?_ ?_
    | with_reducible apply sendControl_kept
    | with_reducible apply beginPeriod_kept
    | intro _
    | with_reducible apply kept_ite

/-- `execCalibrationAccept` keeps the queue, canonical memory and canonical registers. -/
theorem execCalibrationAccept_kept {pq : List Instr} (strand : StrandId) (s : State) (hk : Kept pq s) :
    KeptOut pq (execCalibrationAccept strand s) := by
  unfold execCalibrationAccept
  try dsimp only
  repeat' first
    | with_reducible assumption
    | with_reducible refine keptOut_next ?_
    | exact keptOut_fault
    | with_reducible refine keptOut_ite ?_ ?_
    | with_reducible apply State.modOpt_kept
    | intro _
    | with_reducible apply kept_ite

/-- `execCalibrationRefuse` keeps the queue, canonical memory and canonical registers. -/
theorem execCalibrationRefuse_kept {pq : List Instr} (strand : StrandId) (s : State) (hk : Kept pq s) :
    KeptOut pq (execCalibrationRefuse strand s) := by
  unfold execCalibrationRefuse
  try dsimp only
  repeat' first
    | with_reducible assumption
    | with_reducible refine keptOut_next ?_
    | exact keptOut_fault
    | with_reducible refine keptOut_ite ?_ ?_
    | with_reducible apply endCalibration_kept
    | intro _
    | with_reducible apply kept_ite

/-- `driftFound` keeps the queue, canonical memory and canonical registers. -/
theorem driftFound_kept {pq : List Instr} (n : Nat) (s : State) (hk : Kept pq s) :
    Kept pq (driftFound n s) := by
  unfold driftFound
  try dsimp only
  repeat' first
    | with_reducible assumption
    | with_reducible apply State.modStrand_kept
    | with_reducible apply winBump_kept
    | with_reducible apply escalate_kept

/-- `execCalibrationDue` keeps the queue, canonical memory and canonical registers. -/
theorem execCalibrationDue_kept {pq : List Instr} (strand : StrandId) (why : CalWhy) (s : State) (hk : Kept pq s) :
    KeptOut pq (execCalibrationDue strand why s) := by
  unfold execCalibrationDue
  try dsimp only
  repeat' first
    | with_reducible assumption
    | with_reducible refine keptOut_next ?_
    | exact keptOut_fault
    | with_reducible refine keptOut_ite ?_ ?_
    | with_reducible apply State.modStrand_kept
    | with_reducible apply driftFound_kept
    | intro _
    | with_reducible apply kept_ite
    | with_reducible apply kept_ite_snd
    | split

/-- `newLatency` keeps the queue, canonical memory and canonical registers. -/
theorem newLatency_kept {pq : List Instr} (n ns : Nat) (s : State) (hk : Kept pq s) :
    Kept pq (newLatency n ns s) := by
  unfold newLatency
  try dsimp only
  repeat' first
    | with_reducible assumption
    | with_reducible apply State.modFrm_kept
    | with_reducible apply State.modDisc_kept
    | intro _
    | with_reducible apply kept_ite

/-- `driftOutcome` keeps the queue, canonical memory and canonical registers. -/
theorem driftOutcome_kept {pq : List Instr} (n : Nat) (bad : List Nat) (s : State) (hk : Kept pq s) :
    Kept pq (driftOutcome n bad s) := by
  unfold driftOutcome
  try dsimp only
  repeat' first
    | with_reducible assumption
    | with_reducible apply winBump_kept
    | with_reducible apply escalate_kept
    | with_reducible apply loseAllRx_kept
    | intro _
    | with_reducible apply kept_ite

/-- `calibrationPassed` keeps the queue, canonical memory and canonical registers. -/
theorem calibrationPassed_kept {pq : List Instr} (n : Nat) (r : CalResult) (s : State) (hk : Kept pq s) :
    Kept pq (calibrationPassed n r s) := by
  unfold calibrationPassed
  try dsimp only
  repeat' first
    | with_reducible assumption
    | with_reducible apply State.modStrand_kept
    | with_reducible apply State.drawFree_kept
    | with_reducible apply driftOutcome_kept
    | intro _
    | with_reducible apply kept_ite

/-- `judgeLost` keeps the queue, canonical memory and canonical registers. -/
theorem judgeLost_kept {pq : List Instr} (n : Nat) (pass : List Nat) (s : State) (hk : Kept pq s) :
    Kept pq (judgeLost n pass s) := by
  unfold judgeLost
  try dsimp only
  repeat' first
    | with_reducible assumption
    | with_reducible apply State.modStrand_kept
    | with_reducible apply escalate_kept
    | intro _
    | with_reducible apply kept_ite

/-- `calibrationDone` keeps the queue, canonical memory and canonical registers. -/
theorem calibrationDone_kept {pq : List Instr} (n : Nat) (r : CalResult) (s : State) (hk : Kept pq s) :
    Kept pq (calibrationDone n r s) := by
  unfold calibrationDone
  try dsimp only
  repeat' first
    | with_reducible assumption
    | with_reducible apply State.modStrand_kept
    | with_reducible apply calibrationFailed_kept
    | with_reducible apply dropAllTx_kept
    | with_reducible apply loseAllRx_kept
    | with_reducible apply retuneAll_kept
    | with_reducible apply newLatency_kept
    | with_reducible apply calibrationPassed_kept
    | with_reducible apply judgeLost_kept
    | intro _
    | with_reducible apply kept_ite
    | with_reducible apply kept_ite_snd
    | split

/-- `execCalibrationComplete` keeps the queue, canonical memory and canonical registers. -/
theorem execCalibrationComplete_kept {pq : List Instr} (r : CalResult) (s : State) (hk : Kept pq s) :
    KeptOut pq (execCalibrationComplete r s) := by
  unfold execCalibrationComplete
  try dsimp only
  repeat' first
    | with_reducible assumption
    | with_reducible refine keptOut_next ?_
    | exact keptOut_fault
    | with_reducible refine keptOut_ite ?_ ?_
    | with_reducible apply endCalibration_kept
    | with_reducible apply calibrationDone_kept
    | intro _
    | with_reducible apply kept_ite
    | with_reducible apply kept_ite_snd
    | split

/-- `sendReport` keeps the queue, canonical memory and canonical registers. -/
theorem sendReport_kept {pq : List Instr} (n : Nat) (s : State) (hk : Kept pq s) :
    Kept pq (sendReport n s) := by
  unfold sendReport
  try dsimp only
  repeat' first
    | with_reducible assumption
    | with_reducible apply sendControl_kept

/-- `takeReading` keeps the queue, canonical memory and canonical registers. -/
theorem takeReading_kept {pq : List Instr} (x : Nat × Nat × Nat) (s : State) (hk : Kept pq s) :
    Kept pq (takeReading x s) := by
  unfold takeReading
  try dsimp only
  repeat' first
    | with_reducible assumption
    | with_reducible apply State.modOpt_kept
    | with_reducible apply State.modStrand_kept
    | with_reducible apply State.drawFree_kept

/-- `takeReadingsOf` keeps the queue, canonical memory and canonical registers. -/
theorem takeReadingsOf_kept {pq : List Instr} (y0 : List (Nat × Nat × Nat)) (y1 : State) (hk : Kept pq y1) :
    Kept pq (takeReadingsOf y0 y1) := by
  induction y0 generalizing y1 with
  | nil => exact hk
  | cons x xs ih =>
    unfold takeReadingsOf
    try dsimp only
    repeat' first
      | with_reducible assumption
      | apply ih
      | with_reducible apply takeReading_kept

/-- `confirmFade` keeps the queue, canonical memory and canonical registers. -/
theorem confirmFade_kept {pq : List Instr} (b w : Nat) (s : State) (hk : Kept pq s) :
    Kept pq (confirmFade b w s) := by
  unfold confirmFade
  try dsimp only
  repeat' first
    | with_reducible assumption
    | with_reducible apply escalate_kept
    | with_reducible apply modLaser_kept
    | with_reducible apply startSwap_kept
    | with_reducible apply dropLaneAtFrame_kept
    | intro _
    | with_reducible apply kept_ite

/-- `judgeMargin` keeps the queue, canonical memory and canonical registers. -/
theorem judgeMargin_kept {pq : List Instr} (b w : Nat) (s : State) (hk : Kept pq s) :
    Kept pq (judgeMargin b w s) := by
  unfold judgeMargin
  try dsimp only
  repeat' first
    | with_reducible assumption
    | with_reducible apply modLaser_kept
    | with_reducible apply confirmFade_kept
    | intro _
    | with_reducible apply kept_ite

/-- `judgeMargins` keeps the queue, canonical memory and canonical registers. -/
theorem judgeMargins_kept {pq : List Instr} (y0 : List (Nat × Nat)) (y1 : State) (hk : Kept pq y1) :
    Kept pq (judgeMargins y0 y1) := by
  induction y0 generalizing y1 with
  | nil => exact hk
  | cons x xs ih =>
    unfold judgeMargins
    try dsimp only
    repeat' first
      | with_reducible assumption
      | apply ih
      | with_reducible apply judgeMargin_kept

/-- `sendReports` keeps the queue, canonical memory and canonical registers. -/
theorem sendReports_kept {pq : List Instr} (s : State) (hk : Kept pq s) :
    Kept pq (sendReports s) := by
  unfold sendReports
  try dsimp only
  repeat' first
    | with_reducible assumption
    | with_reducible apply State.drawFree_kept
    | with_reducible apply sendReport_kept
    | (refine foldl_kept ?_ ?_; intro _ _ _)

/-- `execMarginReading` keeps the queue, canonical memory and canonical registers. -/
theorem execMarginReading_kept {pq : List Instr} (readings : List (Nat × Nat × Nat)) (s : State) (hk : Kept pq s) :
    KeptOut pq (execMarginReading readings s) := by
  unfold execMarginReading
  try dsimp only
  repeat' first
    | with_reducible assumption
    | with_reducible refine keptOut_next ?_
    | exact keptOut_fault
    | with_reducible refine keptOut_ite ?_ ?_
    | with_reducible apply State.modOpt_kept
    | with_reducible apply takeReadingsOf_kept
    | with_reducible apply judgeMargins_kept
    | with_reducible apply sendReports_kept

/-- `execMarginReport` keeps the queue, canonical memory and canonical registers. -/
theorem execMarginReport_kept {pq : List Instr} (strand : StrandId) (payload : List Byte) (s : State) (hk : Kept pq s) :
    KeptOut pq (execMarginReport strand payload s) := by
  unfold execMarginReport
  try dsimp only
  repeat' first
    | with_reducible assumption
    | with_reducible refine keptOut_next ?_
    | exact keptOut_fault
    | with_reducible refine keptOut_ite ?_ ?_
    | with_reducible apply State.modStrand_kept

/-- `execMarginReportTimeout` keeps the queue, canonical memory and canonical registers. -/
theorem execMarginReportTimeout_kept {pq : List Instr} (strand : StrandId) (s : State) (hk : Kept pq s) :
    KeptOut pq (execMarginReportTimeout strand s) := by
  unfold execMarginReportTimeout
  try dsimp only
  repeat' first
    | with_reducible assumption
    | with_reducible refine keptOut_next ?_
    | exact keptOut_fault
    | with_reducible refine keptOut_ite ?_ ?_
    | with_reducible apply State.modStrand_kept

/-- `execLaser8Locked` keeps the queue, canonical memory and canonical registers. -/
theorem execLaser8Locked_kept {pq : List Instr} (bank : BankId) (ok : Bool) (s : State) (hk : Kept pq s) :
    KeptOut pq (execLaser8Locked bank ok s) := by
  unfold execLaser8Locked
  try dsimp only
  repeat' first
    | with_reducible assumption
    | with_reducible refine keptOut_next ?_
    | exact keptOut_fault
    | with_reducible refine keptOut_ite ?_ ?_
    | with_reducible apply State.modStrand_kept
    | with_reducible apply State.modBank_kept
    | with_reducible apply advanceSwap_kept
    | with_reducible apply modLaser_kept
    | with_reducible apply laserFailed_kept
    | (refine foldl_kept ?_ ?_; intro _ _ _)
    | intro _
    | with_reducible apply kept_ite

/-- `trainedHere` keeps the queue, canonical memory and canonical registers. -/
theorem trainedHere_kept {pq : List Instr} (n : Nat) (s : State) (hk : Kept pq s) :
    Kept pq (trainedHere n s) := by
  unfold trainedHere
  try dsimp only
  repeat' first
    | with_reducible assumption
    | with_reducible apply State.modStrand_kept
    | with_reducible apply advanceSwap_kept

/-- `execL8Trained` keeps the queue, canonical memory and canonical registers. -/
theorem execL8Trained_kept {pq : List Instr} (strand : StrandId) (mirrored : Option LaneId) (s : State) (hk : Kept pq s) :
    KeptOut pq (execL8Trained strand mirrored s) := by
  unfold execL8Trained
  try dsimp only
  repeat' first
    | with_reducible assumption
    | with_reducible refine keptOut_next ?_
    | exact keptOut_fault
    | with_reducible refine keptOut_ite ?_ ?_
    | with_reducible apply State.modOpt_kept
    | with_reducible apply State.modStrand_kept
    | with_reducible apply sendControl_kept
    | with_reducible apply endCalibration_kept
    | with_reducible apply trainedHere_kept
    | intro _
    | with_reducible apply kept_ite
    | with_reducible apply kept_ite_snd
    | split

/-- `execMirrorVerified` keeps the queue, canonical memory and canonical registers. -/
theorem execMirrorVerified_kept {pq : List Instr} (strand : StrandId) (s : State) (hk : Kept pq s) :
    KeptOut pq (execMirrorVerified strand s) := by
  unfold execMirrorVerified
  try dsimp only
  repeat' first
    | with_reducible assumption
    | with_reducible refine keptOut_next ?_
    | exact keptOut_fault
    | with_reducible refine keptOut_ite ?_ ?_
    | with_reducible apply State.modStrand_kept
    | with_reducible apply advanceSwap_kept
    | intro _
    | with_reducible apply kept_ite

/-- `execMirrorTimeout` keeps the queue, canonical memory and canonical registers. -/
theorem execMirrorTimeout_kept {pq : List Instr} (strand : StrandId) (s : State) (hk : Kept pq s) :
    KeptOut pq (execMirrorTimeout strand s) := by
  unfold execMirrorTimeout
  try dsimp only
  repeat' first
    | with_reducible assumption
    | with_reducible refine keptOut_next ?_
    | exact keptOut_fault
    | with_reducible refine keptOut_ite ?_ ?_
    | with_reducible apply State.modStrand_kept
    | with_reducible apply advanceSwap_kept
    | intro _
    | with_reducible apply kept_ite

/-- `swapStrand` keeps the queue, canonical memory and canonical registers. -/
theorem swapStrand_kept {pq : List Instr} (w n : Nat) (s : State) (hk : Kept pq s) :
    Kept pq (swapStrand w n s) := by
  unfold swapStrand
  try dsimp only
  repeat' first
    | with_reducible assumption
    | with_reducible apply State.modStrand_kept
    | with_reducible apply mapAtOnce_kept
    | intro _
    | with_reducible apply kept_ite

/-- `swapStrands` keeps the queue, canonical memory and canonical registers. -/
theorem swapStrands_kept {pq : List Instr} (w : Nat) (y0 : List Nat) (y1 : State) (hk : Kept pq y1) :
    Kept pq (swapStrands w y0 y1) := by
  induction y0 generalizing w y1 with
  | nil => exact hk
  | cons x xs ih =>
    unfold swapStrands
    try dsimp only
    repeat' first
      | with_reducible assumption
      | apply ih
      | with_reducible apply swapStrand_kept

/-- `execSpareSwap` keeps the queue, canonical memory and canonical registers. -/
theorem execSpareSwap_kept {pq : List Instr} (bank : BankId) (s : State) (hk : Kept pq s) :
    KeptOut pq (execSpareSwap bank s) := by
  unfold execSpareSwap
  try dsimp only
  repeat' first
    | with_reducible assumption
    | with_reducible refine keptOut_next ?_
    | exact keptOut_fault
    | with_reducible refine keptOut_ite ?_ ?_
    | with_reducible apply State.modOpt_kept
    | with_reducible apply State.modBank_kept
    | with_reducible apply postEvent_kept
    | with_reducible apply modLaser_kept
    | with_reducible apply swapStrands_kept
    | intro _
    | with_reducible apply kept_ite
    | with_reducible apply kept_ite_snd
    | split

/-- `monSelWrite` keeps the queue, canonical memory and canonical registers. -/
theorem monSelWrite_kept {pq : List Instr} (v : Nat) (s : State) (hk : Kept pq s) :
    Kept pq (monSelWrite v s) := by
  unfold monSelWrite
  try dsimp only
  repeat' first
    | with_reducible assumption
    | with_reducible apply State.modOpt_kept

/-- `execOptMonGo` keeps the queue, canonical memory and canonical registers. -/
theorem execOptMonGo_kept {pq : List Instr} (value : Word) (s : State) (hk : Kept pq s) :
    KeptOut pq (execOptMonGo value s) := by
  unfold execOptMonGo
  try dsimp only
  repeat' first
    | with_reducible assumption
    | with_reducible refine keptOut_next ?_
    | exact keptOut_fault
    | with_reducible refine keptOut_ite ?_ ?_
    | with_reducible apply monSelWrite_kept
    | intro _
    | with_reducible apply kept_ite

/-- `execMonitorReadingDone` keeps the queue, canonical memory and canonical registers. -/
theorem execMonitorReadingDone_kept {pq : List Instr} (code : Half) (s : State) (hk : Kept pq s) :
    KeptOut pq (execMonitorReadingDone code s) := by
  unfold execMonitorReadingDone
  try dsimp only
  repeat' first
    | with_reducible assumption
    | with_reducible refine keptOut_next ?_
    | exact keptOut_fault
    | with_reducible refine keptOut_ite ?_ ?_
    | with_reducible apply State.modOpt_kept
    | intro _
    | with_reducible apply kept_ite
    | with_reducible apply kept_ite_snd
    | split

/-- `laserStatus` keeps the queue, canonical memory and canonical registers. -/
theorem laserStatus_kept {pq : List Instr} (m : Nat) (r : MbxReq) (s : State) (hk : Kept pq s) :
    Kept pq (laserStatus m r s) := by
  unfold laserStatus
  try dsimp only
  repeat' first
    | with_reducible assumption
    | with_reducible apply completeMbx_kept
    | with_reducible apply failMbx_kept
    | intro _
    | with_reducible apply kept_ite

/-- `execLaserStatus` keeps the queue, canonical memory and canonical registers. -/
theorem execLaserStatus_kept {pq : List Instr} (mbx : MbxId) (s : State) (hk : Kept pq s) :
    KeptOut pq (execLaserStatus mbx s) := by
  unfold execLaserStatus
  try dsimp only
  repeat' first
    | with_reducible assumption
    | with_reducible refine keptOut_next ?_
    | exact keptOut_fault
    | with_reducible refine keptOut_ite ?_ ?_
    | with_reducible apply casbomi_kept
    | with_reducible apply laserStatus_kept

end Sys2Proof.Machine
end

