-- ==== Sys2Proof/Laws/KeepTesting.lean ====
section
/-!
SUPPORT. Every operation of Machine/Testing.lean leaves the queue alone and keeps memory and the lanes' registers canonical.
-/

namespace Sys2Proof.Machine

/-- `loopbackFailed` keeps the queue, canonical memory and canonical registers. -/
theorem loopbackFailed_kept {pq : List Instr} (c : Nat) (s : State) (hk : Kept pq s) :
    Kept pq (loopbackFailed c s) := by
  unfold loopbackFailed
  try dsimp only
  repeat' first
    | with_reducible assumption
    | with_reducible apply winBump_kept
    | with_reducible apply escalate_kept
    | with_reducible apply queueAction_kept
    | with_reducible apply needPinRepair_kept
    | intro _
    | with_reducible apply kept_ite

/-- `strandTestFailed` keeps the queue, canonical memory and canonical registers. -/
theorem strandTestFailed_kept {pq : List Instr} (n lane dir : Nat) (s : State) (hk : Kept pq s) :
    Kept pq (strandTestFailed n lane dir s) := by
  unfold strandTestFailed
  try dsimp only
  repeat' first
    | with_reducible assumption
    | with_reducible apply calibrationFailed_kept
    | with_reducible apply dropTx_kept
    | with_reducible apply loseRx_kept
    | intro _
    | with_reducible apply kept_ite

/-- `testFailed` keeps the queue, canonical memory and canonical registers. -/
theorem testFailed_kept {pq : List Instr} (kind die unit : Nat) (at_ : Nat × Nat) (s : State) (hk : Kept pq s) :
    Kept pq (testFailed kind die unit at_ s) := by
  unfold testFailed
  try dsimp only
  repeat' first
    | with_reducible assumption
    | with_reducible apply localCorrected_kept
    | with_reducible apply dpuFailed_kept
    | with_reducible apply bankCorrected_kept
    | with_reducible apply coreEvents_kept
    | with_reducible apply corePatternFailed_kept
    | with_reducible apply rlcParity_kept
    | with_reducible apply loopbackFailed_kept
    | with_reducible apply strandTestFailed_kept
    | intro _
    | with_reducible apply kept_ite
    | with_reducible apply kept_ite_snd
    | split

/-- `noteSpindleTest` keeps the queue, canonical memory and canonical registers. -/
theorem noteSpindleTest_kept {pq : List Instr} (kind die unit : Nat) (pass : Bool) (s : State) (hk : Kept pq s) :
    Kept pq (noteSpindleTest kind die unit pass s) := by
  unfold noteSpindleTest
  try dsimp only
  repeat' first
    | with_reducible assumption
    | with_reducible apply State.modSpn_kept
    | intro _
    | with_reducible apply kept_ite
    | with_reducible apply kept_ite_snd
    | split

/-- `noteHostTest` keeps the queue, canonical memory and canonical registers. -/
theorem noteHostTest_kept {pq : List Instr} (key : Nat) (pass : Bool) (s : State) (hk : Kept pq s) :
    Kept pq (noteHostTest key pass s) := by
  unfold noteHostTest
  try dsimp only
  repeat' first
    | with_reducible assumption
    | with_reducible apply State.modTst_kept
    | with_reducible apply State.modMbx_kept
    | with_reducible apply completeMbx_kept
    | intro _
    | with_reducible apply kept_ite
    | with_reducible apply kept_ite_snd
    | split

/-- `testDone` keeps the queue, canonical memory and canonical registers. -/
theorem testDone_kept {pq : List Instr} (kind die unit : Nat) (bad : Option (Nat × Nat)) (s : State) (hk : Kept pq s) :
    Kept pq (testDone kind die unit bad s) := by
  unfold testDone
  try dsimp only
  repeat' first
    | with_reducible assumption
    | with_reducible apply State.modTst_kept
    | with_reducible apply State.modUnit_kept
    | with_reducible apply testFailed_kept
    | with_reducible apply noteSpindleTest_kept
    | with_reducible apply noteHostTest_kept
    | intro _
    | with_reducible apply kept_ite
    | with_reducible apply kept_ite_snd
    | split

/-- `clearWay` keeps the queue, canonical memory and canonical registers. -/
theorem clearWay_kept {pq : List Instr} (die way : Nat) (s : State) (hk : Kept pq s) :
    Kept pq (clearWay die way s) := by
  unfold clearWay
  try dsimp only
  repeat' first
    | with_reducible assumption
    | with_reducible apply rlcEvict_kept
    | (refine foldl_kept ?_ ?_; intro _ _ _)
    | intro _
    | with_reducible apply kept_ite

/-- `runSegment` keeps the queue, canonical memory and canonical registers. -/
theorem runSegment_kept {pq : List Instr} (kind die unit : Nat) (r : SegResult) (s : State) (hk : Kept pq s) :
    Kept pq (runSegment kind die unit r s) := by
  unfold runSegment
  try dsimp only
  repeat' first
    | with_reducible assumption
    | with_reducible apply State.modUnit_kept
    | with_reducible apply testDone_kept
    | with_reducible apply clearWay_kept
    | intro _
    | with_reducible apply kept_ite

/-- `execTestSegment` keeps the queue, canonical memory and canonical registers. -/
theorem execTestSegment_kept {pq : List Instr} (unit : UnitId) (r : SegResult) (s : State) (hk : Kept pq s) :
    KeptOut pq (execTestSegment unit r s) := by
  unfold execTestSegment
  try dsimp only
  repeat' first
    | with_reducible assumption
    | with_reducible refine keptOut_next ?_
    | exact keptOut_fault
    | with_reducible refine keptOut_ite ?_ ?_
    | with_reducible apply runSegment_kept
    | intro _
    | with_reducible apply kept_ite

end Sys2Proof.Machine
end

