-- ==== Sys2Proof/Laws/KeepFrames.lean ====
section
/-!
SUPPORT. Every operation of Machine/Frames.lean leaves the queue alone and keeps memory and the lanes' registers canonical.
-/

namespace Sys2Proof.Machine

/-- `sendTick` keeps the queue, canonical memory and canonical registers. -/
theorem sendTick_kept {pq : List Instr} (t : Tick) (n : Nat) (s : State) (hk : Kept pq s) :
    Kept pq (sendTick t n s) := by
  unfold sendTick
  try dsimp only
  repeat' first
    | with_reducible assumption
    | with_reducible apply State.modLink_kept

/-- `sendTicks` keeps the queue, canonical memory and canonical registers. -/
theorem sendTicks_kept {pq : List Instr} (t : Tick) (y0 : List Nat) (y1 : State) (hk : Kept pq y1) :
    Kept pq (sendTicks t y0 y1) := by
  induction y0 generalizing t y1 with
  | nil => exact hk
  | cons x xs ih =>
    unfold sendTicks
    try dsimp only
    repeat' first
      | with_reducible assumption
      | apply ih
      | with_reducible apply sendTick_kept

/-- `sendReply` keeps the queue, canonical memory and canonical registers. -/
theorem sendReply_kept {pq : List Instr} (r : Reply) (s : State) (hk : Kept pq s) :
    Kept pq (sendReply r s) := by
  unfold sendReply
  try dsimp only
  repeat' first
    | with_reducible assumption
    | with_reducible apply sendSequenced_kept
    | intro _
    | with_reducible apply kept_ite
    | with_reducible apply kept_ite_snd
    | split

/-- `checkStart` keeps the queue, canonical memory and canonical registers. -/
theorem checkStart_kept {pq : List Instr} (n0 tag : Nat) (s : State) (hk : Kept pq s) :
    Kept pq (checkStart n0 tag s) := by
  unfold checkStart
  try dsimp only
  repeat' first
    | with_reducible assumption
    | with_reducible apply State.modFrm_kept
    | with_reducible apply postEvent_kept
    | intro _
    | with_reducible apply kept_ite

/-- `announced` keeps the queue, canonical memory and canonical registers. -/
theorem announced_kept {pq : List Instr} (t : Tick) (s : State) (hk : Kept pq s) :
    Kept pq (announced t s) := by
  unfold announced
  try dsimp only
  repeat' first
    | with_reducible assumption
    | with_reducible apply State.modFrm_kept
    | with_reducible apply checkStart_kept
    | intro _
    | with_reducible apply kept_ite

/-- `beginDrain` keeps the queue, canonical memory and canonical registers. -/
theorem beginDrain_kept {pq : List Instr} (s : State) (hk : Kept pq s) :
    Kept pq (beginDrain s) := by
  unfold beginDrain
  try dsimp only
  repeat' first
    | with_reducible assumption
    | with_reducible apply State.modFrm_kept
    | with_reducible apply setDevState_kept
    | intro _
    | with_reducible apply kept_ite

/-- `frameFailed` keeps the queue, canonical memory and canonical registers. -/
theorem frameFailed_kept {pq : List Instr} (n : Nat) (s : State) (hk : Kept pq s) :
    Kept pq (frameFailed n s) := by
  unfold frameFailed
  try dsimp only
  repeat' first
    | with_reducible assumption
    | with_reducible apply State.modFrm_kept
    | with_reducible apply State.modFab_kept
    | with_reducible apply undefWrites_kept
    | with_reducible apply endRows_kept
    | with_reducible apply buddyFail_kept
    | with_reducible apply dropChunks_kept
    | with_reducible apply beginDrain_kept

/-- `noteOverrun` keeps the queue, canonical memory and canonical registers. -/
theorem noteOverrun_kept {pq : List Instr} (s : State) (hk : Kept pq s) :
    Kept pq (noteOverrun s) := by
  unfold noteOverrun
  try dsimp only
  repeat' first
    | with_reducible assumption
    | with_reducible apply failFrame_kept
    | with_reducible apply frameFailed_kept
    | intro _
    | with_reducible apply kept_ite

/-- `stopProgram` keeps the queue, canonical memory and canonical registers. -/
theorem stopProgram_kept {pq : List Instr} (mode : Nat) (s : State) (hk : Kept pq s) :
    Kept pq (stopProgram mode s) := by
  unfold stopProgram
  try dsimp only
  repeat' first
    | with_reducible assumption
    | with_reducible apply State.modFrm_kept
    | with_reducible apply endRows_kept
    | with_reducible apply beginDrain_kept
    | with_reducible apply noteOverrun_kept
    | intro _
    | with_reducible apply kept_ite
    | with_reducible apply kept_ite_snd
    | split

/-- `followDet` keeps the queue, canonical memory and canonical registers. -/
theorem followDet_kept {pq : List Instr} (det : Bool) (s : State) (hk : Kept pq s) :
    Kept pq (followDet det s) := by
  unfold followDet
  try dsimp only
  repeat' first
    | with_reducible assumption
    | with_reducible apply setDevState_kept
    | intro _
    | with_reducible apply kept_ite
    | with_reducible apply kept_ite_snd
    | split

/-- `noteTakeover` keeps the queue, canonical memory and canonical registers. -/
theorem noteTakeover_kept {pq : List Instr} (t : Tick) (s : State) (hk : Kept pq s) :
    Kept pq (noteTakeover t s) := by
  unfold noteTakeover
  try dsimp only
  repeat' first
    | with_reducible assumption
    | with_reducible apply State.modFrm_kept
    | intro _
    | with_reducible apply kept_ite

/-- `tickArrives` keeps the queue, canonical memory and canonical registers. -/
theorem tickArrives_kept {pq : List Instr} (t : Tick) (s : State) (hk : Kept pq s) :
    Kept pq (tickArrives t s) := by
  unfold tickArrives
  try dsimp only
  repeat' first
    | with_reducible assumption
    | with_reducible apply State.modFrm_kept
    | with_reducible apply announced_kept
    | with_reducible apply frameFailed_kept
    | with_reducible apply stopProgram_kept
    | with_reducible apply followDet_kept
    | with_reducible apply noteTakeover_kept
    | intro _
    | with_reducible apply kept_ite

/-- `execTick` keeps the queue, canonical memory and canonical registers. -/
theorem execTick_kept {pq : List Instr} (strand : StrandId) (payload : List Byte) (s : State) (hk : Kept pq s) :
    KeptOut pq (execTick strand payload s) := by
  unfold execTick
  try dsimp only
  repeat' first
    | with_reducible assumption
    | with_reducible refine keptOut_next ?_
    | exact keptOut_fault
    | with_reducible refine keptOut_ite ?_ ?_
    | with_reducible apply State.modFrm_kept
    | with_reducible apply State.modTop_kept
    | with_reducible apply sendTicks_kept
    | with_reducible apply tickArrives_kept
    | intro _
    | with_reducible apply kept_ite

/-- `carryFail` keeps the queue, canonical memory and canonical registers. -/
theorem carryFail_kept {pq : List Instr} (s : State) (hk : Kept pq s) :
    Kept pq (carryFail s) := by
  unfold carryFail
  try dsimp only
  repeat' first
    | with_reducible assumption
    | with_reducible apply State.modFrm_kept

/-- `reevaluateAll` keeps the queue, canonical memory and canonical registers. -/
theorem reevaluateAll_kept {pq : List Instr} (y0 : List Nat) (y1 : State) (hk : Kept pq y1) :
    Kept pq (reevaluateAll y0 y1) := by
  induction y0 generalizing y1 with
  | nil => exact hk
  | cons x xs ih =>
    unfold reevaluateAll
    try dsimp only
    repeat' first
      | with_reducible assumption
      | apply ih
      | with_reducible apply reevaluate_kept

/-- `switchConfig` keeps the queue, canonical memory and canonical registers. -/
theorem switchConfig_kept {pq : List Instr} (s : State) (hk : Kept pq s) :
    Kept pq (switchConfig s) := by
  unfold switchConfig
  try dsimp only
  repeat' first
    | with_reducible assumption
    | with_reducible apply State.modFab_kept
    | with_reducible apply State.modTop_kept
    | with_reducible apply noteTickStrands_kept
    | with_reducible apply reevaluateAll_kept

/-- `clearUnits` keeps the queue, canonical memory and canonical registers. -/
theorem clearUnits_kept {pq : List Instr} (s : State) (hk : Kept pq s) : Kept pq (clearUnits s) :=
  ⟨hk.1, hk.2.1, regsWf_map hk.2.2 fun _ hx => hx⟩

/-- `scrubs` keeps the queue, canonical memory and canonical registers. -/
theorem scrubs_kept {pq : List Instr} (s : State) (hk : Kept pq s) : Kept pq (scrubs s) := by
  refine ⟨hk.1, hk.2.1, ?_⟩
  unfold scrubs
  dsimp only
  split
  · exact regsWf_map hk.2.2 fun _ hx => hx
  · exact hk.2.2

/-- `freshStart` keeps the queue, canonical memory and canonical registers. -/
theorem freshStart_kept {pq : List Instr} (s : State) (hk : Kept pq s) :
    Kept pq (freshStart s) := by
  unfold freshStart
  try dsimp only
  repeat' first
    | with_reducible assumption
    | intro _
    | with_reducible apply kept_ite
    | with_reducible apply kept_ite_snd
    | split
    | (with_reducible apply kept_snd; focus assumption)
    | (with_reducible apply kept_trd; focus assumption)
    | dsimp only
    | assumption

/-- `startProgram` keeps the queue, canonical memory and canonical registers. -/
theorem startProgram_kept {pq : List Instr} (t : Tick) (s : State) (hk : Kept pq s) :
    Kept pq (startProgram t s) := by
  unfold startProgram
  try dsimp only
  repeat' first
    | with_reducible assumption
    | with_reducible apply State.modFrm_kept
    | with_reducible apply setDevState_kept
    | with_reducible apply freshStart_kept
    | intro _
    | with_reducible apply kept_ite

/-- `notePast` keeps the queue, canonical memory and canonical registers. -/
theorem notePast_kept {pq : List Instr} (s : State) (hk : Kept pq s) :
    Kept pq (notePast s) := by
  unfold notePast
  try dsimp only
  repeat' first
    | with_reducible assumption
    | with_reducible apply State.modFrm_kept

/-- `advanceIndex` keeps the queue, canonical memory and canonical registers. -/
theorem advanceIndex_kept {pq : List Instr} (t : Tick) (s : State) (hk : Kept pq s) :
    Kept pq (advanceIndex t s) := by
  unfold advanceIndex
  try dsimp only
  repeat' first
    | with_reducible assumption
    | with_reducible apply State.modFrm_kept
    | with_reducible apply startProgram_kept
    | with_reducible apply notePast_kept
    | intro _
    | with_reducible apply kept_ite

/-- `missStart` keeps the queue, canonical memory and canonical registers. -/
theorem missStart_kept {pq : List Instr} (t : Tick) (s : State) (hk : Kept pq s) :
    Kept pq (missStart t s) := by
  unfold missStart
  try dsimp only
  repeat' first
    | with_reducible assumption
    | with_reducible apply State.modFrm_kept
    | intro _
    | with_reducible apply kept_ite

/-- `fabricFrame` keeps the queue, canonical memory and canonical registers. -/
theorem fabricFrame_kept {pq : List Instr} (s : State) (hk : Kept pq s) :
    Kept pq (fabricFrame s) := by
  unfold fabricFrame
  try dsimp only
  repeat' first
    | with_reducible assumption
    | with_reducible apply State.modFab_kept
    | with_reducible apply State.modTop_kept

/-- `enterFrame` keeps the queue, canonical memory and canonical registers. -/
theorem enterFrame_kept {pq : List Instr} (t : Tick) (skew : Half) (s : State) (hk : Kept pq s) :
    Kept pq (enterFrame t skew s) := by
  unfold enterFrame
  try dsimp only
  repeat' first
    | with_reducible assumption
    | with_reducible apply State.modFrm_kept

/-- `frameBegin` keeps the queue, canonical memory and canonical registers. -/
theorem frameBegin_kept {pq : List Instr} (skew : Half) (t : Tick) (s : State) (hk : Kept pq s) :
    Kept pq (frameBegin skew t s) := by
  unfold frameBegin
  try dsimp only
  repeat' first
    | with_reducible assumption
    | with_reducible apply forgetSpill_kept
    | with_reducible apply hintFrame_kept
    | with_reducible apply powerFrame_kept
    | with_reducible apply snapFrame_kept
    | with_reducible apply captureRows_kept
    | with_reducible apply lanesAtFrame_kept
    | with_reducible apply buddyFrame_kept
    | with_reducible apply noteOverrun_kept
    | with_reducible apply carryFail_kept
    | with_reducible apply switchConfig_kept
    | with_reducible apply clearUnits_kept
    | with_reducible apply scrubs_kept
    | with_reducible apply advanceIndex_kept
    | with_reducible apply missStart_kept
    | with_reducible apply fabricFrame_kept
    | with_reducible apply enterFrame_kept
    | intro _
    | with_reducible apply kept_ite

/-- `execFrameBegin` keeps the queue, canonical memory and canonical registers. -/
theorem execFrameBegin_kept {pq : List Instr} (skew : Half) (s : State) (hk : Kept pq s) :
    KeptOut pq (execFrameBegin skew s) := by
  unfold execFrameBegin
  try dsimp only
  repeat' first
    | with_reducible assumption
    | with_reducible refine keptOut_next ?_
    | exact keptOut_fault
    | with_reducible refine keptOut_ite ?_ ?_
    | with_reducible apply frameBegin_kept
    | intro _
    | with_reducible apply kept_ite
    | with_reducible apply kept_ite_snd
    | split

/-- `markAsked` keeps the queue, canonical memory and canonical registers. -/
theorem markAsked_kept {pq : List Instr} (s : State) (p : Nat) (hk : Kept pq s) :
    Kept pq (markAsked s p) := by
  unfold markAsked
  try dsimp only
  repeat' first
    | with_reducible assumption
    | with_reducible apply State.modPkg_kept
    | with_reducible apply State.modHnk_kept
    | with_reducible apply State.modRes_kept
    | with_reducible apply State.modTst_kept
    | intro _
    | with_reducible apply kept_ite

/-- `noteSlack` keeps the queue, canonical memory and canonical registers. -/
theorem noteSlack_kept {pq : List Instr} (s : State) (hk : Kept pq s) :
    Kept pq (noteSlack s) := by
  unfold noteSlack
  try dsimp only
  repeat' first
    | with_reducible assumption
    | with_reducible apply State.modFrm_kept
    | intro _
    | with_reducible apply kept_ite
    | with_reducible apply kept_ite_snd
    | split

/-- `admitNext` keeps the queue, canonical memory and canonical registers. -/
theorem admitNext_kept {pq : List Instr} (s : State) (hk : Kept pq s) :
    Kept pq (admitNext s) := by
  unfold admitNext
  try dsimp only
  repeat' first
    | with_reducible assumption
    | with_reducible apply noRows_kept
    | with_reducible apply admission_kept
    | intro _
    | with_reducible apply kept_ite
    | with_reducible apply kept_ite_snd
    | split

/-- `forward` keeps the queue, canonical memory and canonical registers. -/
theorem forward_kept {pq : List Instr} (s : State) (hk : Kept pq s) :
    Kept pq (forward s) := by
  unfold forward
  try dsimp only
  repeat' first
    | with_reducible assumption
    | with_reducible apply State.modFrm_kept
    | with_reducible apply sendReply_kept
    | intro _
    | with_reducible apply kept_ite

/-- `cancelStart` keeps the queue, canonical memory and canonical registers. -/
theorem cancelStart_kept {pq : List Instr} (s : State) (hk : Kept pq s) :
    Kept pq (cancelStart s) := by
  unfold cancelStart
  try dsimp only
  repeat' first
    | with_reducible assumption
    | with_reducible apply State.modFrm_kept
    | with_reducible apply postEvent_kept
    | intro _
    | with_reducible apply kept_ite

/-- `holdPoint` keeps the queue, canonical memory and canonical registers. -/
theorem holdPoint_kept {pq : List Instr} (workNs nextNs : Nat) (s : State) (hk : Kept pq s) :
    Kept pq (holdPoint workNs nextNs s) := by
  unfold holdPoint
  try dsimp only
  repeat' first
    | with_reducible assumption
    | with_reducible apply State.modFrm_kept
    | with_reducible apply failFrame_kept
    | with_reducible apply stageLog_kept
    | with_reducible apply holdLeadRows_kept
    | with_reducible apply setDownDue_kept
    | with_reducible apply markAsked_kept
    | with_reducible apply noteSlack_kept
    | with_reducible apply admitNext_kept
    | with_reducible apply forward_kept
    | with_reducible apply cancelStart_kept
    | intro _
    | with_reducible apply kept_ite

/-- `execHoldPoint` keeps the queue, canonical memory and canonical registers. -/
theorem execHoldPoint_kept {pq : List Instr} (finishNs nextNs : Nat) (s : State) (hk : Kept pq s) :
    KeptOut pq (execHoldPoint finishNs nextNs s) := by
  unfold execHoldPoint
  try dsimp only
  repeat' first
    | with_reducible assumption
    | with_reducible refine keptOut_next ?_
    | exact keptOut_fault
    | with_reducible refine keptOut_ite ?_ ?_
    | with_reducible apply holdPoint_kept
    | intro _
    | with_reducible apply kept_ite

/-- `passSupplement` keeps the queue, canonical memory and canonical registers. -/
theorem passSupplement_kept {pq : List Instr} (mine : Bool) (r : Reply) (s : State) (hk : Kept pq s) :
    Kept pq (passSupplement mine r s) := by
  unfold passSupplement
  try dsimp only
  repeat' first
    | with_reducible assumption
    | with_reducible apply State.modFrm_kept
    | with_reducible apply sendReply_kept
    | intro _
    | with_reducible apply kept_ite

/-- `supplementaryReply` keeps the queue, canonical memory and canonical registers. -/
theorem supplementaryReply_kept {pq : List Instr} (holdUs : Nat) (s : State) (hk : Kept pq s) :
    Kept pq (supplementaryReply holdUs s) := by
  unfold supplementaryReply
  try dsimp only
  repeat' first
    | with_reducible assumption
    | with_reducible apply State.modFrm_kept
    | with_reducible apply failFrame_kept
    | with_reducible apply passSupplement_kept
    | intro _
    | with_reducible apply kept_ite

/-- `execSupplementaryReply` keeps the queue, canonical memory and canonical registers. -/
theorem execSupplementaryReply_kept {pq : List Instr} (holdUs : Nat) (s : State) (hk : Kept pq s) :
    KeptOut pq (execSupplementaryReply holdUs s) := by
  unfold execSupplementaryReply
  try dsimp only
  repeat' first
    | with_reducible assumption
    | with_reducible refine keptOut_next ?_
    | exact keptOut_fault
    | with_reducible refine keptOut_ite ?_ ?_
    | with_reducible apply supplementaryReply_kept
    | intro _
    | with_reducible apply kept_ite

/-- `childReply` keeps the queue, canonical memory and canonical registers. -/
theorem childReply_kept {pq : List Instr} (n : Nat) (r : Reply) (s : State) (hk : Kept pq s) :
    Kept pq (childReply n r s) := by
  unfold childReply
  try dsimp only
  repeat' first
    | with_reducible assumption
    | with_reducible apply State.modFrm_kept
    | with_reducible apply forward_kept
    | with_reducible apply cancelStart_kept
    | with_reducible apply passSupplement_kept
    | intro _
    | with_reducible apply kept_ite

/-- `execTickReply` keeps the queue, canonical memory and canonical registers. -/
theorem execTickReply_kept {pq : List Instr} (strand : StrandId) (payload : List Byte) (s : State) (hk : Kept pq s) :
    KeptOut pq (execTickReply strand payload s) := by
  unfold execTickReply
  try dsimp only
  repeat' first
    | with_reducible assumption
    | with_reducible refine keptOut_next ?_
    | exact keptOut_fault
    | with_reducible refine keptOut_ite ?_ ?_
    | with_reducible apply State.modTop_kept
    | with_reducible apply childReply_kept
    | intro _
    | with_reducible apply kept_ite

/-- `execReplyDeadline` keeps the queue, canonical memory and canonical registers. -/
theorem execReplyDeadline_kept {pq : List Instr} (s : State) (hk : Kept pq s) :
    KeptOut pq (execReplyDeadline s) := by
  unfold execReplyDeadline
  try dsimp only
  repeat' first
    | with_reducible assumption
    | with_reducible refine keptOut_next ?_
    | exact keptOut_fault
    | with_reducible refine keptOut_ite ?_ ?_
    | with_reducible apply forward_kept

/-- `emitTick` keeps the queue, canonical memory and canonical registers. -/
theorem emitTick_kept {pq : List Instr} (t : Tick) (s : State) (hk : Kept pq s) :
    Kept pq (emitTick t s) := by
  unfold emitTick
  try dsimp only
  repeat' first
    | with_reducible assumption
    | with_reducible apply State.modFrm_kept
    | with_reducible apply sendTicks_kept
    | with_reducible apply tickArrives_kept

/-- `execTickEmit` keeps the queue, canonical memory and canonical registers. -/
theorem execTickEmit_kept {pq : List Instr} (s : State) (hk : Kept pq s) :
    KeptOut pq (execTickEmit s) := by
  unfold execTickEmit
  try dsimp only
  repeat' first
    | with_reducible assumption
    | with_reducible refine keptOut_next ?_
    | exact keptOut_fault
    | with_reducible refine keptOut_ite ?_ ?_
    | with_reducible apply emitTick_kept
    | intro _
    | with_reducible apply kept_ite

/-- `takeWhorl` keeps the queue, canonical memory and canonical registers. -/
theorem takeWhorl_kept {pq : List Instr} (s : State) (hk : Kept pq s) :
    Kept pq (takeWhorl s) := by
  unfold takeWhorl
  try dsimp only
  repeat' first
    | with_reducible assumption
    | with_reducible apply State.modFrm_kept
    | with_reducible apply postDevice_kept
    | with_reducible apply sendTicks_kept
    | with_reducible apply tickArrives_kept

/-- `execWhorlTakeover` keeps the queue, canonical memory and canonical registers. -/
theorem execWhorlTakeover_kept {pq : List Instr} (s : State) (hk : Kept pq s) :
    KeptOut pq (execWhorlTakeover s) := by
  unfold execWhorlTakeover
  try dsimp only
  repeat' first
    | with_reducible assumption
    | with_reducible refine keptOut_next ?_
    | exact keptOut_fault
    | with_reducible refine keptOut_ite ?_ ?_
    | with_reducible apply takeWhorl_kept
    | intro _
    | with_reducible apply kept_ite

/-- `execDrainComplete` keeps the queue, canonical memory and canonical registers. -/
theorem execDrainComplete_kept {pq : List Instr} (s : State) (hk : Kept pq s) :
    KeptOut pq (execDrainComplete s) := by
  unfold execDrainComplete
  try dsimp only
  repeat' first
    | with_reducible assumption
    | with_reducible refine keptOut_next ?_
    | exact keptOut_fault
    | with_reducible refine keptOut_ite ?_ ?_
    | with_reducible apply State.modFrm_kept
    | with_reducible apply setDevState_kept
    | with_reducible apply clearUnits_kept
    | intro _
    | with_reducible apply kept_ite

end Sys2Proof.Machine
end

