-- ==== Sys2Proof/Laws/KeepHostPort.lean ====
section
/-!
SUPPORT. Every operation of Machine/HostPort.lean leaves the queue alone and keeps memory and the lanes' registers canonical.
-/

namespace Sys2Proof.Machine

/-- `sendPending` keeps the queue, canonical memory and canonical registers. -/
theorem sendPending_kept {pq : List Instr} (v : Nat) (s : State) (hk : Kept pq s) :
    Kept pq (sendPending v s) := by
  unfold sendPending
  try dsimp only
  repeat' first
    | with_reducible assumption
    | with_reducible apply State.modMsix_kept
    | with_reducible apply sendVector_kept
    | intro _
    | with_reducible apply kept_ite

/-- `sendAllPending` keeps the queue, canonical memory and canonical registers. -/
theorem sendAllPending_kept {pq : List Instr} (y0 : List Nat) (y1 : State) (hk : Kept pq y1) :
    Kept pq (sendAllPending y0 y1) := by
  induction y0 generalizing y1 with
  | nil => exact hk
  | cons x xs ih =>
    unfold sendAllPending
    try dsimp only
    repeat' first
      | with_reducible assumption
      | apply ih
      | with_reducible apply sendPending_kept

/-- `execMsixUnmask` keeps the queue, canonical memory and canonical registers. -/
theorem execMsixUnmask_kept {pq : List Instr} (vector : Option (BitVec 11)) (s : State) (hk : Kept pq s) :
    KeptOut pq (execMsixUnmask vector s) := by
  unfold execMsixUnmask
  try dsimp only
  repeat' first
    | with_reducible assumption
    | with_reducible refine keptOut_next ?_
    | exact keptOut_fault
    | with_reducible refine keptOut_ite ?_ ?_
    | with_reducible apply State.modHp_kept
    | with_reducible apply State.modMsix_kept
    | with_reducible apply sendPending_kept
    | with_reducible apply sendAllPending_kept
    | intro _
    | with_reducible apply kept_ite
    | with_reducible apply kept_ite_snd
    | split

/-- `sfAdd` keeps the queue, canonical memory and canonical registers. -/
theorem sfAdd_kept {pq : List Instr} (line : Nat) (own : Bool) (s : State) (hk : Kept pq s) :
    Kept pq (sfAdd line own s) := by
  unfold sfAdd
  try dsimp only
  repeat' first
    | with_reducible assumption
    | with_reducible apply State.modHp_kept

/-- `answerRead` keeps the queue, canonical memory and canonical registers. -/
theorem answerRead_kept {pq : List Instr} (line : Nat) (s : State) (hk : Kept pq s) :
    Kept pq (answerRead line s) := by
  unfold answerRead
  try dsimp only
  repeat' first
    | with_reducible assumption
    | with_reducible apply State.modHp_kept
    | with_reducible apply State.emit_kept
    | with_reducible apply State.drawFree_kept
    | with_reducible apply recordUe_kept
    | with_reducible apply wmbFlushBlock_kept
    | with_reducible apply takeLost_kept
    | intro _
    | with_reducible apply kept_ite

/-- `sfEvict` keeps the queue, canonical memory and canonical registers. -/
theorem sfEvict_kept {pq : List Instr} (line : Nat) (s : State) (hk : Kept pq s) :
    Kept pq (sfEvict line s) := by
  unfold sfEvict
  try dsimp only
  repeat' first
    | with_reducible assumption
    | with_reducible apply snoopLine_kept
    | intro _
    | with_reducible apply kept_ite
    | with_reducible apply kept_ite_snd
    | split

/-- `hostRead` keeps the queue, canonical memory and canonical registers. -/
theorem hostRead_kept {pq : List Instr} (line : Nat) (keep own : Bool) (s : State) (hk : Kept pq s) :
    Kept pq (hostRead line keep own s) := by
  unfold hostRead
  try dsimp only
  repeat' first
    | with_reducible assumption
    | with_reducible apply State.modHp_kept
    | with_reducible apply sfAdd_kept
    | with_reducible apply answerRead_kept
    | with_reducible apply sfEvict_kept
    | intro _
    | with_reducible apply kept_ite

/-- `execHostMemRead` keeps the queue, canonical memory and canonical registers. -/
theorem execHostMemRead_kept {pq : List Instr} (hpa : Quad) (keep own : Bool) (s : State) (hk : Kept pq s) :
    KeptOut pq (execHostMemRead hpa keep own s) := by
  unfold execHostMemRead
  try dsimp only
  repeat' first
    | with_reducible assumption
    | with_reducible refine keptOut_next ?_
    | exact keptOut_fault
    | with_reducible refine keptOut_ite ?_ ?_
    | with_reducible apply hostRead_kept
    | intro _
    | with_reducible apply kept_ite
    | with_reducible apply kept_ite_snd
    | split

/-- `writeMasked` keeps the queue, canonical memory and canonical registers. -/
theorem writeMasked_kept {pq : List Instr} (line mask : Nat) (data : List Byte) (y0 : List Nat) (y1 : State) (hk : Kept pq y1) :
    Kept pq (writeMasked line mask data y0 y1) := by
  induction y0 generalizing line mask data y1 with
  | nil => exact hk
  | cons x xs ih =>
    unfold writeMasked
    try dsimp only
    repeat' first
      | with_reducible assumption
      | apply ih
      | with_reducible apply memWriteAs_kept
      | intro _
      | with_reducible apply kept_ite

/-- `hostWrite` keeps the queue, canonical memory and canonical registers. -/
theorem hostWrite_kept {pq : List Instr} (line mask : Nat) (data : List Byte) (s : State) (hk : Kept pq s) :
    Kept pq (hostWrite line mask data s) := by
  unfold hostWrite
  try dsimp only
  repeat' first
    | with_reducible assumption
    | with_reducible apply State.emit_kept
    | with_reducible apply memWriteAs_kept
    | with_reducible apply writeMasked_kept
    | intro _
    | with_reducible apply kept_ite

/-- `execHostMemWrite` keeps the queue, canonical memory and canonical registers. -/
theorem execHostMemWrite_kept {pq : List Instr} (hpa mask : Quad) (data : List Byte) (s : State) (hk : Kept pq s) :
    KeptOut pq (execHostMemWrite hpa mask data s) := by
  unfold execHostMemWrite
  try dsimp only
  repeat' first
    | with_reducible assumption
    | with_reducible refine keptOut_next ?_
    | exact keptOut_fault
    | with_reducible refine keptOut_ite ?_ ?_
    | with_reducible apply hostWrite_kept
    | intro _
    | with_reducible apply kept_ite
    | with_reducible apply kept_ite_snd
    | split

/-- `sfServeAll` keeps the queue, canonical memory and canonical registers. -/
theorem sfServeAll_kept {pq : List Instr} (y0 : List Nat) (y1 : State) (hk : Kept pq y1) :
    Kept pq (sfServeAll y0 y1) := by
  induction y0 generalizing y1 with
  | nil => exact hk
  | cons x xs ih =>
    unfold sfServeAll
    try dsimp only
    repeat' first
      | with_reducible assumption
      | apply ih
      | with_reducible apply State.modHp_kept
      | with_reducible apply sfAdd_kept
      | with_reducible apply answerRead_kept
      | intro _
      | with_reducible apply kept_ite

/-- `sfServe` keeps the queue, canonical memory and canonical registers. -/
theorem sfServe_kept {pq : List Instr} (line : Nat) (s : State) (hk : Kept pq s) :
    Kept pq (sfServe line s) := by
  unfold sfServe
  try dsimp only
  repeat' first
    | with_reducible assumption
    | with_reducible apply sfEvict_kept
    | with_reducible apply sfServeAll_kept

/-- `execBirsp` keeps the queue, canonical memory and canonical registers. -/
theorem execBirsp_kept {pq : List Instr} (line : Nat) (data : Option (List Byte)) (s : State) (hk : Kept pq s) :
    KeptOut pq (execBirsp line data s) := by
  unfold execBirsp
  try dsimp only
  repeat' first
    | with_reducible assumption
    | with_reducible refine keptOut_next ?_
    | exact keptOut_fault
    | with_reducible refine keptOut_ite ?_ ?_
    | with_reducible apply State.modHp_kept
    | with_reducible apply memWrite_kept
    | with_reducible apply sendSnoop_kept
    | with_reducible apply flrServe_kept
    | with_reducible apply captureDue_kept
    | with_reducible apply sfServe_kept
    | intro _
    | with_reducible apply kept_ite
    | with_reducible apply kept_ite_snd
    | split

/-- `snooped` keeps the queue, canonical memory and canonical registers. -/
theorem snooped_kept {pq : List Instr} (kind : SnoopKind) (line : Nat) (s : State) (hk : Kept pq s) :
    Kept pq (snooped kind line s) := by
  unfold snooped
  try dsimp only
  repeat' first
    | with_reducible assumption
    | with_reducible apply State.modHp_kept
    | with_reducible apply State.emit_kept
    | intro _
    | with_reducible apply kept_ite
    | with_reducible apply kept_ite_snd
    | split

/-- `execHostSnoop` keeps the queue, canonical memory and canonical registers. -/
theorem execHostSnoop_kept {pq : List Instr} (kind : SnoopKind) (hpa : Quad) (s : State) (hk : Kept pq s) :
    KeptOut pq (execHostSnoop kind hpa s) := by
  unfold execHostSnoop
  try dsimp only
  repeat' first
    | with_reducible assumption
    | with_reducible refine keptOut_next ?_
    | exact keptOut_fault
    | with_reducible refine keptOut_ite ?_ ?_
    | with_reducible apply State.emit_kept
    | with_reducible apply snooped_kept
    | intro _
    | with_reducible apply kept_ite
    | with_reducible apply kept_ite_snd
    | split

/-- `askWaiting` keeps the queue, canonical memory and canonical registers. -/
theorem askWaiting_kept {pq : List Instr} (y0 : List MemAccess) (y1 : State) (hk : Kept pq y1) :
    Kept pq (askWaiting y0 y1) := by
  induction y0 generalizing y1 with
  | nil => exact hk
  | cons x xs ih =>
    unfold askWaiting
    try dsimp only
    repeat' first
      | with_reducible assumption
      | apply ih
      | with_reducible apply agentAskAll_kept
      | intro _
      | with_reducible apply kept_ite

/-- `spillFails` keeps the queue, canonical memory and canonical registers. -/
theorem spillFails_kept {pq : List Instr} (c : Client) (st : Status) (s : State) (hk : Kept pq s) :
    Kept pq (spillFails c st s) := by
  unfold spillFails
  try dsimp only
  repeat' first
    | with_reducible assumption
    | with_reducible apply State.modHp_kept
    | with_reducible apply clientError_kept

/-- `spillAccess` keeps the queue, canonical memory and canonical registers. -/
theorem spillAccess_kept {pq : List Instr} (a : MemAccess) (s : State) (hk : Kept pq s) :
    Kept pq (spillAccess a s) := by
  unfold spillAccess
  try dsimp only
  repeat' first
    | with_reducible assumption
    | with_reducible apply State.modHp_kept
    | with_reducible apply arrive_kept
    | with_reducible apply askWaiting_kept
    | with_reducible apply spillFails_kept
    | intro _
    | with_reducible apply kept_ite

/-- `execSpillAccess` keeps the queue, canonical memory and canonical registers. -/
theorem execSpillAccess_kept {pq : List Instr} (a : MemAccess) (s : State) (hk : Kept pq s) :
    KeptOut pq (execSpillAccess a s) := by
  unfold execSpillAccess
  try dsimp only
  repeat' first
    | with_reducible assumption
    | with_reducible refine keptOut_next ?_
    | exact keptOut_fault
    | with_reducible refine keptOut_ite ?_ ?_
    | with_reducible apply spillAccess_kept
    | intro _
    | with_reducible apply kept_ite

/-- `serveWaiting` keeps the queue, canonical memory and canonical registers. -/
theorem serveWaiting_kept {pq : List Instr} (y0 : List MemAccess) (y1 : State) (hk : Kept pq y1) :
    Kept pq (serveWaiting y0 y1) := by
  induction y0 generalizing y1 with
  | nil => exact hk
  | cons x xs ih =>
    unfold serveWaiting
    try dsimp only
    repeat' first
      | with_reducible assumption
      | apply ih
      | with_reducible apply State.modHp_kept
      | with_reducible apply arrive_kept
      | intro _
      | with_reducible apply kept_ite

/-- `failWaiting` keeps the queue, canonical memory and canonical registers. -/
theorem failWaiting_kept {pq : List Instr} (line : Nat) (st : Status) (y0 : List MemAccess) (y1 : State) (hk : Kept pq y1) :
    Kept pq (failWaiting line st y0 y1) := by
  induction y0 generalizing line st y1 with
  | nil => exact hk
  | cons x xs ih =>
    unfold failWaiting
    try dsimp only
    repeat' first
      | with_reducible assumption
      | apply ih
      | with_reducible apply State.modHp_kept
      | with_reducible apply spillFails_kept
      | intro _
      | with_reducible apply kept_ite

/-- `answerAskers` keeps the queue, canonical memory and canonical registers. -/
theorem answerAskers_kept {pq : List Instr} (line : Nat) (l : AgentLine) (st : Option Status) (s : State) (hk : Kept pq s) :
    Kept pq (answerAskers line l st s) := by
  unfold answerAskers
  try dsimp only
  repeat' first
    | with_reducible assumption
    | with_reducible apply State.modHp_kept

/-- `lineComes` keeps the queue, canonical memory and canonical registers. -/
theorem lineComes_kept {pq : List Instr} (line : Nat) (l : AgentLine) (bs : List Byte) (s : State) (hk : Kept pq s) :
    Kept pq (lineComes line l bs s) := by
  unfold lineComes
  try dsimp only
  repeat' first
    | with_reducible assumption
    | with_reducible apply State.modHp_kept
    | with_reducible apply writeBytes_kept
    | intro _
    | with_reducible apply kept_ite

/-- `lineFails` keeps the queue, canonical memory and canonical registers. -/
theorem lineFails_kept {pq : List Instr} (line : Nat) (st : Status) (s : State) (hk : Kept pq s) :
    Kept pq (lineFails line st s) := by
  unfold lineFails
  try dsimp only
  repeat' first
    | with_reducible assumption
    | with_reducible apply State.modHp_kept
    | with_reducible apply failWaiting_kept

/-- `poisonedFill` keeps the queue, canonical memory and canonical registers. -/
theorem poisonedFill_kept {pq : List Instr} (s : State) (hk : Kept pq s) :
    Kept pq (poisonedFill s) := by
  unfold poisonedFill
  try dsimp only
  repeat' first
    | with_reducible assumption
    | with_reducible apply State.modHp_kept
    | with_reducible apply winBump_kept
    | with_reducible apply escalate_kept

/-- `spillFill` keeps the queue, canonical memory and canonical registers. -/
theorem spillFill_kept {pq : List Instr} (line : Nat) (l : AgentLine) (answer : SpillAnswer) (s : State) (hk : Kept pq s) :
    Kept pq (spillFill line l answer s) := by
  unfold spillFill
  try dsimp only
  repeat' first
    | with_reducible assumption
    | with_reducible apply askWaiting_kept
    | with_reducible apply serveWaiting_kept
    | with_reducible apply answerAskers_kept
    | with_reducible apply lineComes_kept
    | with_reducible apply lineFails_kept
    | with_reducible apply poisonedFill_kept
    | intro _
    | with_reducible apply kept_ite
    | with_reducible apply kept_ite_snd
    | split

/-- `execSpillFill` keeps the queue, canonical memory and canonical registers. -/
theorem execSpillFill_kept {pq : List Instr} (addr : BitVec 40) (answer : SpillAnswer) (s : State) (hk : Kept pq s) :
    KeptOut pq (execSpillFill addr answer s) := by
  unfold execSpillFill
  try dsimp only
  repeat' first
    | with_reducible assumption
    | with_reducible refine keptOut_next ?_
    | exact keptOut_fault
    | with_reducible refine keptOut_ite ?_ ?_
    | with_reducible apply spillFill_kept
    | intro _
    | with_reducible apply kept_ite
    | with_reducible apply kept_ite_snd
    | split

/-- `agentFlush` keeps the queue, canonical memory and canonical registers. -/
theorem agentFlush_kept {pq : List Instr} (y0 : List Nat) (y1 : State) (hk : Kept pq y1) :
    Kept pq (agentFlush y0 y1) := by
  induction y0 generalizing y1 with
  | nil => exact hk
  | cons x xs ih =>
    unfold agentFlush
    try dsimp only
    repeat' first
      | with_reducible assumption
      | apply ih
      | with_reducible apply agentEvict_kept

/-- `execCacheWbInv` keeps the queue, canonical memory and canonical registers. -/
theorem execCacheWbInv_kept {pq : List Instr} (s : State) (hk : Kept pq s) :
    KeptOut pq (execCacheWbInv s) := by
  unfold execCacheWbInv
  try dsimp only
  repeat' first
    | with_reducible assumption
    | with_reducible refine keptOut_next ?_
    | exact keptOut_fault
    | with_reducible refine keptOut_ite ?_ ?_
    | with_reducible apply State.modHp_kept
    | intro _
    | with_reducible apply kept_ite

/-- `execCacheWbInvDone` keeps the queue, canonical memory and canonical registers. -/
theorem execCacheWbInvDone_kept {pq : List Instr} (s : State) (hk : Kept pq s) :
    KeptOut pq (execCacheWbInvDone s) := by
  unfold execCacheWbInvDone
  try dsimp only
  repeat' first
    | with_reducible assumption
    | with_reducible refine keptOut_next ?_
    | exact keptOut_fault
    | with_reducible refine keptOut_ite ?_ ?_
    | with_reducible apply State.modHp_kept
    | with_reducible apply agentFlush_kept
    | intro _
    | with_reducible apply kept_ite

/-- `hostWindow` keeps the queue, canonical memory and canonical registers. -/
theorem hostWindow_kept {pq : List Instr} (m : Nat) (r : MbxReq) (s : State) (hk : Kept pq s) :
    Kept pq (hostWindow m r s) := by
  unfold hostWindow
  try dsimp only
  repeat' first
    | with_reducible assumption
    | with_reducible apply State.modHp_kept
    | with_reducible apply completeMbx_kept
    | with_reducible apply failMbx_kept
    | intro _
    | with_reducible apply kept_ite

/-- `execHostWindow` keeps the queue, canonical memory and canonical registers. -/
theorem execHostWindow_kept {pq : List Instr} (mbx : MbxId) (s : State) (hk : Kept pq s) :
    KeptOut pq (execHostWindow mbx s) := by
  unfold execHostWindow
  try dsimp only
  repeat' first
    | with_reducible assumption
    | with_reducible refine keptOut_next ?_
    | exact keptOut_fault
    | with_reducible refine keptOut_ite ?_ ?_
    | with_reducible apply casbomi_kept
    | with_reducible apply hostWindow_kept

/-- `setSpill` keeps the queue, canonical memory and canonical registers. -/
theorem setSpill_kept {pq : List Instr} (z : Nat) (hpa : Option Nat) (s : State) (hk : Kept pq s) :
    Kept pq (setSpill z hpa s) := by
  unfold setSpill
  try dsimp only
  repeat' first
    | with_reducible assumption
    | with_reducible apply State.modHp_kept
    | with_reducible apply markUndef_kept
    | with_reducible apply agentFlush_kept

/-- `hostSpill` keeps the queue, canonical memory and canonical registers. -/
theorem hostSpill_kept {pq : List Instr} (m : Nat) (r : MbxReq) (s : State) (hk : Kept pq s) :
    Kept pq (hostSpill m r s) := by
  unfold hostSpill
  try dsimp only
  repeat' first
    | with_reducible assumption
    | with_reducible apply completeMbx_kept
    | with_reducible apply failMbx_kept
    | with_reducible apply setSpill_kept
    | intro _
    | with_reducible apply kept_ite

/-- `execHostSpill` keeps the queue, canonical memory and canonical registers. -/
theorem execHostSpill_kept {pq : List Instr} (mbx : MbxId) (s : State) (hk : Kept pq s) :
    KeptOut pq (execHostSpill mbx s) := by
  unfold execHostSpill
  try dsimp only
  repeat' first
    | with_reducible assumption
    | with_reducible refine keptOut_next ?_
    | exact keptOut_fault
    | with_reducible refine keptOut_ite ?_ ?_
    | with_reducible apply casbomi_kept
    | with_reducible apply hostSpill_kept

/-- `hostUnspill` keeps the queue, canonical memory and canonical registers. -/
theorem hostUnspill_kept {pq : List Instr} (m : Nat) (r : MbxReq) (s : State) (hk : Kept pq s) :
    Kept pq (hostUnspill m r s) := by
  unfold hostUnspill
  try dsimp only
  repeat' first
    | with_reducible assumption
    | with_reducible apply completeMbx_kept
    | with_reducible apply failMbx_kept
    | with_reducible apply setSpill_kept
    | intro _
    | with_reducible apply kept_ite

/-- `execHostUnspill` keeps the queue, canonical memory and canonical registers. -/
theorem execHostUnspill_kept {pq : List Instr} (mbx : MbxId) (s : State) (hk : Kept pq s) :
    KeptOut pq (execHostUnspill mbx s) := by
  unfold execHostUnspill
  try dsimp only
  repeat' first
    | with_reducible assumption
    | with_reducible refine keptOut_next ?_
    | exact keptOut_fault
    | with_reducible refine keptOut_ite ?_ ?_
    | with_reducible apply casbomi_kept
    | with_reducible apply hostUnspill_kept

/-- `execHdmDecoderCommit` keeps the queue, canonical memory and canonical registers. -/
theorem execHdmDecoderCommit_kept {pq : List Instr} (base size : Quad) (s : State) (hk : Kept pq s) :
    KeptOut pq (execHdmDecoderCommit base size s) := by
  unfold execHdmDecoderCommit
  try dsimp only
  repeat' first
    | with_reducible assumption
    | with_reducible refine keptOut_next ?_
    | exact keptOut_fault
    | with_reducible refine keptOut_ite ?_ ?_
    | with_reducible apply State.modHp_kept
    | intro _
    | with_reducible apply kept_ite

/-- `enterRecovery` keeps the queue, canonical memory and canonical registers. -/
theorem enterRecovery_kept {pq : List Instr} (l : Levels) (s : State) (hk : Kept pq s) :
    Kept pq (enterRecovery l s) := by
  unfold enterRecovery
  try dsimp only
  repeat' first
    | with_reducible assumption
    | with_reducible apply State.modHp_kept
    | with_reducible apply winBump_kept
    | with_reducible apply escalate_kept
    | intro _
    | with_reducible apply kept_ite

/-- `execLinkCorrectableError` keeps the queue, canonical memory and canonical registers. -/
theorem execLinkCorrectableError_kept {pq : List Instr} (s : State) (hk : Kept pq s) :
    KeptOut pq (execLinkCorrectableError s) := by
  unfold execLinkCorrectableError
  try dsimp only
  repeat' first
    | with_reducible assumption
    | with_reducible refine keptOut_next ?_
    | exact keptOut_fault
    | with_reducible refine keptOut_ite ?_ ?_
    | with_reducible apply State.modHp_kept
    | with_reducible apply State.emit_kept
    | with_reducible apply winBump_kept
    | with_reducible apply escalate_kept
    | with_reducible apply enterRecovery_kept
    | intro _
    | with_reducible apply kept_ite

/-- `execLinkRecovery` keeps the queue, canonical memory and canonical registers. -/
theorem execLinkRecovery_kept {pq : List Instr} (s : State) (hk : Kept pq s) :
    KeptOut pq (execLinkRecovery s) := by
  unfold execLinkRecovery
  try dsimp only
  repeat' first
    | with_reducible assumption
    | with_reducible refine keptOut_next ?_
    | exact keptOut_fault
    | with_reducible refine keptOut_ite ?_ ?_
    | with_reducible apply enterRecovery_kept
    | intro _
    | with_reducible apply kept_ite

/-- `trafficGoesOn` keeps the queue, canonical memory and canonical registers. -/
theorem trafficGoesOn_kept {pq : List Instr} (s : State) (hk : Kept pq s) :
    Kept pq (trafficGoesOn s) := by
  unfold trafficGoesOn
  try dsimp only
  repeat' first
    | with_reducible assumption
    | with_reducible apply sendSnoops_kept
    | with_reducible apply sendAllPending_kept
    | with_reducible apply askWaiting_kept

/-- `linkTrained` keeps the queue, canonical memory and canonical registers. -/
theorem linkTrained_kept {pq : List Instr} (rate width flit : Nat) (s : State) (hk : Kept pq s) :
    Kept pq (linkTrained rate width flit s) := by
  unfold linkTrained
  try dsimp only
  repeat' first
    | with_reducible assumption
    | with_reducible apply State.modHp_kept
    | with_reducible apply trafficGoesOn_kept

/-- `execHostLinkTrained` keeps the queue, canonical memory and canonical registers. -/
theorem execHostLinkTrained_kept {pq : List Instr} (rate width flit : Nat) (s : State) (hk : Kept pq s) :
    KeptOut pq (execHostLinkTrained rate width flit s) := by
  unfold execHostLinkTrained
  try dsimp only
  repeat' first
    | with_reducible assumption
    | with_reducible refine keptOut_next ?_
    | exact keptOut_fault
    | with_reducible refine keptOut_ite ?_ ?_
    | with_reducible apply linkTrained_kept
    | intro _
    | with_reducible apply kept_ite

/-- `execD3hotEntry` keeps the queue, canonical memory and canonical registers. -/
theorem execD3hotEntry_kept {pq : List Instr} (s : State) (hk : Kept pq s) :
    KeptOut pq (execD3hotEntry s) := by
  unfold execD3hotEntry
  try dsimp only
  repeat' first
    | with_reducible assumption
    | with_reducible refine keptOut_next ?_
    | exact keptOut_fault
    | with_reducible refine keptOut_ite ?_ ?_
    | with_reducible apply State.modHp_kept

/-- `execD3hotExit` keeps the queue, canonical memory and canonical registers. -/
theorem execD3hotExit_kept {pq : List Instr} (s : State) (hk : Kept pq s) :
    KeptOut pq (execD3hotExit s) := by
  unfold execD3hotExit
  try dsimp only
  repeat' first
    | with_reducible assumption
    | with_reducible refine keptOut_next ?_
    | exact keptOut_fault
    | with_reducible refine keptOut_ite ?_ ?_
    | with_reducible apply State.modHp_kept
    | with_reducible apply sendAllPending_kept

end Sys2Proof.Machine
end

