-- ==== Sys2Proof/Laws/KeepPackets.lean ====
section
/-!
SUPPORT. Every operation of Machine/Packets.lean leaves the queue alone and keeps memory and the lanes' registers canonical.
-/

namespace Sys2Proof.Machine

/-- `putEntry` keeps the queue, canonical memory and canonical registers. -/
theorem putEntry_kept {pq : List Instr} (h : PktHdr) (m : RxMsg) (s : State) (hk : Kept pq s) :
    Kept pq (putEntry h m s) := by
  unfold putEntry
  try dsimp only
  repeat' first
    | with_reducible assumption
    | with_reducible apply State.modFab_kept

/-- `answerMsg` keeps the queue, canonical memory and canonical registers. -/
theorem answerMsg_kept {pq : List Instr} (h : PktHdr) (ack : List Byte) (s : State) (hk : Kept pq s) :
    Kept pq (answerMsg h ack s) := by
  unfold answerMsg
  try dsimp only
  repeat' first
    | with_reducible assumption
    | with_reducible apply sendAck_kept

/-- `dropMessage` keeps the queue, canonical memory and canonical registers. -/
theorem dropMessage_kept {pq : List Instr} (h : PktHdr) (m : RxMsg) (st : Status) (detail : Nat) (s : State) (hk : Kept pq s) :
    Kept pq (dropMessage h m st detail s) := by
  unfold dropMessage
  try dsimp only
  repeat' first
    | with_reducible assumption
    | with_reducible apply putEntry_kept
    | with_reducible apply answerMsg_kept

/-- `finishMessage` keeps the queue, canonical memory and canonical registers. -/
theorem finishMessage_kept {pq : List Instr} (h : PktHdr) (m : RxMsg) (local_ : Nat) (bad : State → State) (s : State) (hbad : ∀ x0, Kept pq x0 → Kept pq (bad x0)) (hk : Kept pq s) :
    Kept pq (finishMessage h m local_ bad s) := by
  unfold finishMessage
  try dsimp only
  repeat' first
    | with_reducible assumption
    | with_reducible apply markUndef_kept
    | with_reducible apply checkMismatch_kept
    | with_reducible apply putEntry_kept
    | with_reducible apply answerMsg_kept
    | apply hbad
    | intro _
    | with_reducible apply kept_ite

/-- `receivePacket` keeps the queue, canonical memory and canonical registers. -/
theorem receivePacket_kept {pq : List Instr} (h : PktHdr) (marks : Nat) (local_ : Nat) (data : List Byte) (bad : State → State) (perform : State → Option (Status × Nat) × State) (s : State) (hbad : ∀ x0, Kept pq x0 → Kept pq (bad x0)) (hperform : ∀ x0, Kept pq x0 → Kept pq (perform x0).2) (hk : Kept pq s) :
    Kept pq (receivePacket h marks local_ data bad perform s) := by
  unfold receivePacket
  try dsimp only
  repeat' first
    | with_reducible assumption
    | with_reducible apply dropPacket_kept
    | with_reducible apply putEntry_kept
    | with_reducible apply answerMsg_kept
    | with_reducible apply dropMessage_kept
    | with_reducible apply finishMessage_kept
    | apply hbad
    | apply hperform
    | intro _
    | with_reducible apply kept_ite
    | with_reducible apply kept_ite_snd
    | split
    | (with_reducible apply kept_snd; focus assumption)

/-- `receiveOne` keeps the queue, canonical memory and canonical registers. -/
theorem receiveOne_kept {pq : List Instr} (h : PktHdr) (perform : State → List Byte × State) (answer : List Byte → State → State) (s : State) (hperform : ∀ x0, Kept pq x0 → Kept pq (perform x0).2) (hanswer : ∀ x0 x1, Kept pq x1 → Kept pq (answer x0 x1)) (hk : Kept pq s) :
    Kept pq (receiveOne h perform answer s) := by
  unfold receiveOne
  try dsimp only
  repeat' first
    | with_reducible assumption
    | with_reducible apply dropPacket_kept
    | with_reducible apply putEntry_kept
    | apply hperform
    | apply hanswer
    | intro _
    | with_reducible apply kept_ite
    | with_reducible apply kept_ite_snd
    | split

/-- `headed` keeps the queue, canonical memory and canonical registers. -/
theorem headed_kept {pq : List Instr} (payload : List Byte) (f : PktHdr → List Byte → State → State) (s : State) (hf : ∀ x0 x1 x2, Kept pq x2 → Kept pq (f x0 x1 x2)) (hk : Kept pq s) :
    KeptOut pq (headed payload f s) := by
  unfold headed
  try dsimp only
  repeat' first
    | with_reducible assumption
    | with_reducible refine keptOut_next ?_
    | exact keptOut_fault
    | with_reducible refine keptOut_ite ?_ ?_
    | with_reducible apply spillGate_kept
    | apply hf

/-- `putPacket` keeps the queue, canonical memory and canonical registers. -/
theorem putPacket_kept {pq : List Instr} (reduce : Bool) (marks : Nat) (h : PktHdr) (body : List Byte) (s : State) (hk : Kept pq s) :
    Kept pq (putPacket reduce marks h body s) := by
  unfold putPacket
  try dsimp only
  repeat' first
    | with_reducible assumption
    | with_reducible apply targetWrite_kept
    | with_reducible apply arriveCheck_kept
    | with_reducible apply receivePacket_kept
    | intro _
    | with_reducible apply kept_ite
    | with_reducible apply kept_ite_snd
    | split
    | (with_reducible apply kept_snd; focus assumption)
    | (with_reducible apply kept_trd; focus assumption)
    | dsimp only
    | assumption

/-- `execPutData` keeps the queue, canonical memory and canonical registers. -/
theorem execPutData_kept {pq : List Instr} (payload : List Byte) (marks : Fin 128) (s : State) (hk : Kept pq s) :
    KeptOut pq (execPutData payload marks s) := by
  unfold execPutData
  try dsimp only
  repeat' first
    | with_reducible assumption
    | with_reducible refine keptOut_next ?_
    | exact keptOut_fault
    | with_reducible refine keptOut_ite ?_ ?_
    | with_reducible apply headed_kept
    | with_reducible apply putPacket_kept

/-- `execPutReduceData` keeps the queue, canonical memory and canonical registers. -/
theorem execPutReduceData_kept {pq : List Instr} (payload : List Byte) (marks : Fin 128) (s : State) (hk : Kept pq s) :
    KeptOut pq (execPutReduceData payload marks s) := by
  unfold execPutReduceData
  try dsimp only
  repeat' first
    | with_reducible assumption
    | with_reducible refine keptOut_next ?_
    | exact keptOut_fault
    | with_reducible refine keptOut_ite ?_ ?_
    | with_reducible apply headed_kept
    | with_reducible apply putPacket_kept

/-- `sendGetData` keeps the queue, canonical memory and canonical registers. -/
theorem sendGetData_kept {pq : List Instr} (h : PktHdr) (reply : Nat) (data : List Byte) (s : State) (hk : Kept pq s) :
    Kept pq (sendGetData h reply data s) := by
  unfold sendGetData
  try dsimp only
  repeat' first
    | with_reducible assumption
    | with_reducible apply newOp_kept
    | with_reducible apply sendMessages_kept
    | intro _
    | with_reducible apply kept_ite

/-- `getPacket` keeps the queue, canonical memory and canonical registers. -/
theorem getPacket_kept {pq : List Instr} (marks : Nat) (h : PktHdr) (body : List Byte) (s : State) (hk : Kept pq s) :
    Kept pq (getPacket marks h body s) := by
  unfold getPacket
  try dsimp only
  repeat' first
    | with_reducible assumption
    | with_reducible apply clientError_kept
    | with_reducible apply fabricRead_kept
    | with_reducible apply arriveCheck_kept
    | with_reducible apply answerMsg_kept
    | with_reducible apply receiveOne_kept
    | with_reducible apply sendGetData_kept
    | intro _
    | with_reducible apply kept_ite
    | with_reducible apply kept_ite_snd
    | split
    | (with_reducible apply kept_snd; focus assumption)

/-- `execGetRequest` keeps the queue, canonical memory and canonical registers. -/
theorem execGetRequest_kept {pq : List Instr} (payload : List Byte) (marks : Fin 128) (s : State) (hk : Kept pq s) :
    KeptOut pq (execGetRequest payload marks s) := by
  unfold execGetRequest
  try dsimp only
  repeat' first
    | with_reducible assumption
    | with_reducible refine keptOut_next ?_
    | exact keptOut_fault
    | with_reducible refine keptOut_ite ?_ ?_
    | with_reducible apply headed_kept
    | with_reducible apply getPacket_kept

/-- `failGet` keeps the queue, canonical memory and canonical registers. -/
theorem failGet_kept {pq : List Instr} (k : Nat) (st : Status) (detail : Nat) (s : State) (hk : Kept pq s) :
    Kept pq (failGet k st detail s) := by
  unfold failGet
  try dsimp only
  repeat' first
    | with_reducible assumption
    | with_reducible apply State.modFab_kept

/-- `getBad` keeps the queue, canonical memory and canonical registers. -/
theorem getBad_kept {pq : List Instr} (k : Option Nat) (s : State) (hk : Kept pq s) :
    Kept pq (getBad k s) := by
  unfold getBad
  try dsimp only
  repeat' first
    | with_reducible assumption
    | with_reducible apply failGet_kept
    | intro _
    | with_reducible apply kept_ite
    | with_reducible apply kept_ite_snd
    | split

/-- `getDataPacket` keeps the queue, canonical memory and canonical registers. -/
theorem getDataPacket_kept {pq : List Instr} (marks : Nat) (h : PktHdr) (body : List Byte) (s : State) (hk : Kept pq s) :
    Kept pq (getDataPacket marks h body s) := by
  unfold getDataPacket
  try dsimp only
  repeat' first
    | with_reducible assumption
    | with_reducible apply State.modFab_kept
    | with_reducible apply targetWrite_kept
    | with_reducible apply settleOp_kept
    | with_reducible apply receivePacket_kept
    | with_reducible apply failGet_kept
    | with_reducible apply getBad_kept
    | intro _
    | with_reducible apply kept_ite
    | with_reducible apply kept_ite_snd
    | split
    | (with_reducible apply kept_snd; focus assumption)

/-- `execGetData` keeps the queue, canonical memory and canonical registers. -/
theorem execGetData_kept {pq : List Instr} (payload : List Byte) (marks : Fin 128) (s : State) (hk : Kept pq s) :
    KeptOut pq (execGetData payload marks s) := by
  unfold execGetData
  try dsimp only
  repeat' first
    | with_reducible assumption
    | with_reducible refine keptOut_next ?_
    | exact keptOut_fault
    | with_reducible refine keptOut_ite ?_ ?_
    | with_reducible apply headed_kept
    | with_reducible apply getDataPacket_kept

/-- `sendReplyAtomic` keeps the queue, canonical memory and canonical registers. -/
theorem sendReplyAtomic_kept {pq : List Instr} (h : PktHdr) (data : List Byte) (s : State) (hk : Kept pq s) :
    Kept pq (sendReplyAtomic h data s) := by
  unfold sendReplyAtomic
  try dsimp only
  repeat' first
    | with_reducible assumption
    | with_reducible apply injectPacket_kept

/-- `answerAtomic` keeps the queue, canonical memory and canonical registers. -/
theorem answerAtomic_kept {pq : List Instr} (h : PktHdr) (data : List Byte) (s : State) (hk : Kept pq s) :
    Kept pq (answerAtomic h data s) := by
  unfold answerAtomic
  try dsimp only
  repeat' first
    | with_reducible assumption
    | with_reducible apply answerMsg_kept
    | with_reducible apply sendReplyAtomic_kept
    | intro _
    | with_reducible apply kept_ite

/-- `atomicPacket` keeps the queue, canonical memory and canonical registers. -/
theorem atomicPacket_kept {pq : List Instr} (marks : Nat) (f : Nat → Nat) (h : PktHdr) (s : State) (hk : Kept pq s) :
    Kept pq (atomicPacket marks f h s) := by
  unfold atomicPacket
  try dsimp only
  repeat' first
    | with_reducible assumption
    | with_reducible apply targetAtomic_kept
    | with_reducible apply receiveOne_kept
    | with_reducible apply answerAtomic_kept
    | intro _
    | with_reducible apply kept_ite
    | with_reducible apply kept_ite_snd
    | split
    | (with_reducible apply kept_snd; focus assumption)
    | (with_reducible apply kept_trd; focus assumption)

/-- `execFetchAddPacket` keeps the queue, canonical memory and canonical registers. -/
theorem execFetchAddPacket_kept {pq : List Instr} (payload : List Byte) (marks : Fin 128) (s : State) (hk : Kept pq s) :
    KeptOut pq (execFetchAddPacket payload marks s) := by
  unfold execFetchAddPacket
  try dsimp only
  repeat' first
    | with_reducible assumption
    | with_reducible refine keptOut_next ?_
    | exact keptOut_fault
    | with_reducible refine keptOut_ite ?_ ?_
    | with_reducible apply headed_kept
    | with_reducible apply atomicPacket_kept
    | intro _

/-- `execCompareSwapPacket` keeps the queue, canonical memory and canonical registers. -/
theorem execCompareSwapPacket_kept {pq : List Instr} (payload : List Byte) (marks : Fin 128) (s : State) (hk : Kept pq s) :
    KeptOut pq (execCompareSwapPacket payload marks s) := by
  unfold execCompareSwapPacket
  try dsimp only
  repeat' first
    | with_reducible assumption
    | with_reducible refine keptOut_next ?_
    | exact keptOut_fault
    | with_reducible refine keptOut_ite ?_ ?_
    | with_reducible apply headed_kept
    | with_reducible apply atomicPacket_kept
    | intro _

/-- `signalPacket` keeps the queue, canonical memory and canonical registers. -/
theorem signalPacket_kept {pq : List Instr} (marks : Nat) (h : PktHdr) (body : List Byte) (s : State) (hk : Kept pq s) :
    Kept pq (signalPacket marks h body s) := by
  unfold signalPacket
  try dsimp only
  repeat' first
    | with_reducible assumption
    | with_reducible apply counterIncrement_kept
    | with_reducible apply answerMsg_kept
    | with_reducible apply receiveOne_kept
    | intro _
    | with_reducible apply kept_ite
    | with_reducible apply kept_ite_snd
    | split
    | (with_reducible apply kept_snd; focus assumption)

/-- `execSignalIncrement` keeps the queue, canonical memory and canonical registers. -/
theorem execSignalIncrement_kept {pq : List Instr} (payload : List Byte) (marks : Fin 128) (s : State) (hk : Kept pq s) :
    KeptOut pq (execSignalIncrement payload marks s) := by
  unfold execSignalIncrement
  try dsimp only
  repeat' first
    | with_reducible assumption
    | with_reducible refine keptOut_next ?_
    | exact keptOut_fault
    | with_reducible refine keptOut_ite ?_ ?_
    | with_reducible apply headed_kept
    | with_reducible apply signalPacket_kept

/-- `updateRate` keeps the queue, canonical memory and canonical registers. -/
theorem updateRate_kept {pq : List Instr} (dest packets marks : Nat) (s : State) (hk : Kept pq s) :
    Kept pq (updateRate dest packets marks s) := by
  unfold updateRate
  try dsimp only
  repeat' first
    | with_reducible assumption
    | with_reducible apply State.modFab_kept

/-- `messageAnswered` keeps the queue, canonical memory and canonical registers. -/
theorem messageAnswered_kept {pq : List Instr} (src msg : Nat) (st : Status) (detail : Nat) (s : State) (hk : Kept pq s) :
    Kept pq (messageAnswered src msg st detail s) := by
  unfold messageAnswered
  try dsimp only
  repeat' first
    | with_reducible assumption
    | with_reducible apply State.modFab_kept
    | with_reducible apply answerOp_kept
    | intro _
    | with_reducible apply kept_ite
    | with_reducible apply kept_ite_snd
    | split

/-- `transferAnswered` keeps the queue, canonical memory and canonical registers. -/
theorem transferAnswered_kept {pq : List Instr} (src key : Nat) (st : Status) (detail : Nat) (s : State) (hk : Kept pq s) :
    Kept pq (transferAnswered src key st detail s) := by
  unfold transferAnswered
  try dsimp only
  repeat' first
    | with_reducible assumption
    | with_reducible apply State.modFab_kept
    | with_reducible apply answerOp_kept
    | with_reducible apply xferFreed_kept
    | intro _
    | with_reducible apply kept_ite
    | with_reducible apply kept_ite_snd
    | split

/-- `ackPacket` keeps the queue, canonical memory and canonical registers. -/
theorem ackPacket_kept {pq : List Instr} (h : PktHdr) (body : List Byte) (s : State) (hk : Kept pq s) :
    Kept pq (ackPacket h body s) := by
  unfold ackPacket
  try dsimp only
  repeat' first
    | with_reducible assumption
    | with_reducible apply State.modFab_kept
    | with_reducible apply updateRate_kept
    | with_reducible apply messageAnswered_kept
    | with_reducible apply transferAnswered_kept
    | intro _
    | with_reducible apply kept_ite

/-- `execAcknowledgement` keeps the queue, canonical memory and canonical registers. -/
theorem execAcknowledgement_kept {pq : List Instr} (payload : List Byte) (_marks : Fin 128) (s : State) (hk : Kept pq s) :
    KeptOut pq (execAcknowledgement payload _marks s) := by
  unfold execAcknowledgement
  try dsimp only
  repeat' first
    | with_reducible assumption
    | with_reducible refine keptOut_next ?_
    | exact keptOut_fault
    | with_reducible refine keptOut_ite ?_ ?_
    | with_reducible apply headed_kept
    | with_reducible apply ackPacket_kept

/-- `replyPacket` keeps the queue, canonical memory and canonical registers. -/
theorem replyPacket_kept {pq : List Instr} (h : PktHdr) (body : List Byte) (s : State) (hk : Kept pq s) :
    Kept pq (replyPacket h body s) := by
  unfold replyPacket
  try dsimp only
  repeat' first
    | with_reducible assumption
    | with_reducible apply State.modFab_kept
    | with_reducible apply messageAnswered_kept
    | intro _
    | with_reducible apply kept_ite
    | with_reducible apply kept_ite_snd
    | split

/-- `execAtomicReply` keeps the queue, canonical memory and canonical registers. -/
theorem execAtomicReply_kept {pq : List Instr} (payload : List Byte) (_marks : Fin 128) (s : State) (hk : Kept pq s) :
    KeptOut pq (execAtomicReply payload _marks s) := by
  unfold execAtomicReply
  try dsimp only
  repeat' first
    | with_reducible assumption
    | with_reducible refine keptOut_next ?_
    | exact keptOut_fault
    | with_reducible refine keptOut_ite ?_ ?_
    | with_reducible apply headed_kept
    | with_reducible apply replyPacket_kept

/-- `resendMessage` keeps the queue, canonical memory and canonical registers. -/
theorem resendMessage_kept {pq : List Instr} (msg : Nat) (timed : Bool) (s : State) (hk : Kept pq s) :
    Kept pq (resendMessage msg timed s) := by
  unfold resendMessage
  try dsimp only
  repeat' first
    | with_reducible assumption
    | with_reducible apply State.modFab_kept
    | with_reducible apply injectAll_kept
    | intro _
    | with_reducible apply kept_ite
    | with_reducible apply kept_ite_snd
    | split

/-- `reRequestPacket` keeps the queue, canonical memory and canonical registers. -/
theorem reRequestPacket_kept {pq : List Instr} (h : PktHdr) (body : List Byte) (s : State) (hk : Kept pq s) :
    Kept pq (reRequestPacket h body s) := by
  unfold reRequestPacket
  try dsimp only
  repeat' first
    | with_reducible assumption
    | with_reducible apply resendMessage_kept
    | intro _
    | with_reducible apply kept_ite
    | with_reducible apply kept_ite_snd
    | split

/-- `execReRequest` keeps the queue, canonical memory and canonical registers. -/
theorem execReRequest_kept {pq : List Instr} (payload : List Byte) (_marks : Fin 128) (s : State) (hk : Kept pq s) :
    KeptOut pq (execReRequest payload _marks s) := by
  unfold execReRequest
  try dsimp only
  repeat' first
    | with_reducible assumption
    | with_reducible refine keptOut_next ?_
    | exact keptOut_fault
    | with_reducible refine keptOut_ite ?_ ?_
    | with_reducible apply headed_kept
    | with_reducible apply reRequestPacket_kept

/-- `syncArrived` keeps the queue, canonical memory and canonical registers. -/
theorem syncArrived_kept {pq : List Instr} (entry : Nat) (s : State) (hk : Kept pq s) :
    Kept pq (syncArrived entry s) := by
  unfold syncArrived
  try dsimp only
  repeat' first
    | with_reducible assumption
    | with_reducible apply failFrame_kept
    | with_reducible apply hostAcquire_kept
    | intro _
    | with_reducible apply kept_ite
    | with_reducible apply kept_ite_snd
    | split

/-- `syncPacket` keeps the queue, canonical memory and canonical registers. -/
theorem syncPacket_kept {pq : List Instr} (marks : Nat) (h : PktHdr) (body : List Byte) (s : State) (hk : Kept pq s) :
    Kept pq (syncPacket marks h body s) := by
  unfold syncPacket
  try dsimp only
  repeat' first
    | with_reducible assumption
    | with_reducible apply State.modFrm_kept
    | with_reducible apply answerMsg_kept
    | with_reducible apply syncArrived_kept
    | intro _
    | with_reducible apply kept_ite

/-- `execSynchronisation` keeps the queue, canonical memory and canonical registers. -/
theorem execSynchronisation_kept {pq : List Instr} (payload : List Byte) (marks : Fin 128) (s : State) (hk : Kept pq s) :
    KeptOut pq (execSynchronisation payload marks s) := by
  unfold execSynchronisation
  try dsimp only
  repeat' first
    | with_reducible assumption
    | with_reducible refine keptOut_next ?_
    | exact keptOut_fault
    | with_reducible refine keptOut_ite ?_ ?_
    | with_reducible apply headed_kept
    | with_reducible apply syncPacket_kept

/-- `noticePacket` keeps the queue, canonical memory and canonical registers. -/
theorem noticePacket_kept {pq : List Instr} (marks : Nat) (h : PktHdr) (body : List Byte) (s : State) (hk : Kept pq s) :
    Kept pq (noticePacket marks h body s) := by
  unfold noticePacket
  try dsimp only
  repeat' first
    | with_reducible assumption
    | with_reducible apply State.modFab_kept
    | with_reducible apply answerMsg_kept
    | with_reducible apply receiveOne_kept
    | intro _

/-- `execLaneNotice` keeps the queue, canonical memory and canonical registers. -/
theorem execLaneNotice_kept {pq : List Instr} (payload : List Byte) (marks : Fin 128) (s : State) (hk : Kept pq s) :
    KeptOut pq (execLaneNotice payload marks s) := by
  unfold execLaneNotice
  try dsimp only
  repeat' first
    | with_reducible assumption
    | with_reducible refine keptOut_next ?_
    | exact keptOut_fault
    | with_reducible refine keptOut_ite ?_ ?_
    | with_reducible apply headed_kept
    | with_reducible apply noticePacket_kept

/-- `execSyncResend` keeps the queue, canonical memory and canonical registers. -/
theorem execSyncResend_kept {pq : List Instr} (s : State) (hk : Kept pq s) :
    KeptOut pq (execSyncResend s) := by
  unfold execSyncResend
  try dsimp only
  repeat' first
    | with_reducible assumption
    | with_reducible refine keptOut_next ?_
    | exact keptOut_fault
    | with_reducible refine keptOut_ite ?_ ?_
    | with_reducible apply injectPacket_kept
    | (refine foldl_kept ?_ ?_; intro _ _ _)

/-- `giveUpMessage` keeps the queue, canonical memory and canonical registers. -/
theorem giveUpMessage_kept {pq : List Instr} (src msg : Nat) (s : State) (hk : Kept pq s) :
    Kept pq (giveUpMessage src msg s) := by
  unfold giveUpMessage
  try dsimp only
  repeat' first
    | with_reducible assumption
    | with_reducible apply State.modFab_kept
    | with_reducible apply winBump_kept
    | with_reducible apply escalate_kept

/-- `rerequest` keeps the queue, canonical memory and canonical registers. -/
theorem rerequest_kept {pq : List Instr} (src msg : Nat) (s : State) (hk : Kept pq s) :
    Kept pq (rerequest src msg s) := by
  unfold rerequest
  try dsimp only
  repeat' first
    | with_reducible assumption
    | with_reducible apply State.modFab_kept
    | with_reducible apply sendAnswer_kept
    | with_reducible apply giveUpMessage_kept
    | intro _
    | with_reducible apply kept_ite
    | with_reducible apply kept_ite_snd
    | split

/-- `execRerequestTimer` keeps the queue, canonical memory and canonical registers. -/
theorem execRerequestTimer_kept {pq : List Instr} (src : BitVec 14) (msg : Half) (s : State) (hk : Kept pq s) :
    KeptOut pq (execRerequestTimer src msg s) := by
  unfold execRerequestTimer
  try dsimp only
  repeat' first
    | with_reducible assumption
    | with_reducible refine keptOut_next ?_
    | exact keptOut_fault
    | with_reducible refine keptOut_ite ?_ ?_
    | with_reducible apply rerequest_kept

/-- `giveUpSending` keeps the queue, canonical memory and canonical registers. -/
theorem giveUpSending_kept {pq : List Instr} (msg : Nat) (m : TxMsg) (s : State) (hk : Kept pq s) :
    Kept pq (giveUpSending msg m s) := by
  unfold giveUpSending
  try dsimp only
  repeat' first
    | with_reducible assumption
    | with_reducible apply State.modFab_kept
    | with_reducible apply answerOp_kept

/-- `execResendTimer` keeps the queue, canonical memory and canonical registers. -/
theorem execResendTimer_kept {pq : List Instr} (msg : Half) (s : State) (hk : Kept pq s) :
    KeptOut pq (execResendTimer msg s) := by
  unfold execResendTimer
  try dsimp only
  repeat' first
    | with_reducible assumption
    | with_reducible refine keptOut_next ?_
    | exact keptOut_fault
    | with_reducible refine keptOut_ite ?_ ?_
    | with_reducible apply resendMessage_kept
    | with_reducible apply giveUpSending_kept
    | intro _
    | with_reducible apply kept_ite
    | with_reducible apply kept_ite_snd
    | split

end Sys2Proof.Machine
end

