-- ==== Sys2Proof/Laws/KeepPlans.lean ====
section
/-!
SUPPORT. Every operation of Machine/Plans.lean leaves the queue alone and keeps memory and the lanes' registers canonical.
-/

namespace Sys2Proof.Machine

/-- `planLoad` keeps the queue, canonical memory and canonical registers. -/
theorem planLoad_kept {pq : List Instr} (m : Nat) (r : MbxReq) (s : State) (hk : Kept pq s) :
    Kept pq (planLoad m r s) := by
  unfold planLoad
  try dsimp only
  repeat' first
    | with_reducible assumption
    | with_reducible apply State.modTop_kept
    | with_reducible apply completeMbx_kept
    | with_reducible apply failMbx_kept
    | with_reducible apply flyerRead_kept
    | intro _
    | with_reducible apply kept_ite
    | with_reducible apply kept_ite_snd
    | split

/-- `execPlanLoad` keeps the queue, canonical memory and canonical registers. -/
theorem execPlanLoad_kept {pq : List Instr} (mbx : MbxId) (s : State) (hk : Kept pq s) :
    KeptOut pq (execPlanLoad mbx s) := by
  unfold execPlanLoad
  try dsimp only
  repeat' first
    | with_reducible assumption
    | with_reducible refine keptOut_next ?_
    | exact keptOut_fault
    | with_reducible refine keptOut_ite ?_ ?_
    | with_reducible apply casbomi_kept
    | with_reducible apply planLoad_kept

/-- `sendAlign` keeps the queue, canonical memory and canonical registers. -/
theorem sendAlign_kept {pq : List Instr} (tree : Nat) (p : TreePos) (y0 : List Nat) (y1 : State) (hk : Kept pq y1) :
    Kept pq (sendAlign tree p y0 y1) := by
  induction y0 generalizing tree p y1 with
  | nil => exact hk
  | cons x xs ih =>
    unfold sendAlign
    try dsimp only
    repeat' first
      | with_reducible assumption
      | apply ih
      | with_reducible apply State.modDisc_kept
      | with_reducible apply sendDiscovery_kept

/-- `sendForm` keeps the queue, canonical memory and canonical registers. -/
theorem sendForm_kept {pq : List Instr} (y0 : List Nat) (y1 : State) (hk : Kept pq y1) :
    Kept pq (sendForm y0 y1) := by
  induction y0 generalizing y1 with
  | nil => exact hk
  | cons x xs ih =>
    unfold sendForm
    try dsimp only
    repeat' first
      | with_reducible assumption
      | apply ih
      | with_reducible apply sendDiscovery_kept

/-- `trySummary` keeps the queue, canonical memory and canonical registers. -/
theorem trySummary_kept {pq : List Instr} (tree : Nat) (s : State) (hk : Kept pq s) :
    Kept pq (trySummary tree s) := by
  unfold trySummary
  try dsimp only
  repeat' first
    | with_reducible assumption
    | with_reducible apply sendSummary_kept
    | intro _
    | with_reducible apply kept_ite
    | with_reducible apply kept_ite_snd
    | split

/-- `joinTree` keeps the queue, canonical memory and canonical registers. -/
theorem joinTree_kept {pq : List Instr} (tree : Nat) (p : TreePos) (s : State) (hk : Kept pq s) :
    Kept pq (joinTree tree p s) := by
  unfold joinTree
  try dsimp only
  repeat' first
    | with_reducible assumption
    | with_reducible apply State.modTop_kept
    | with_reducible apply sendAlign_kept
    | with_reducible apply trySummary_kept

/-- `takePlan` keeps the queue, canonical memory and canonical registers. -/
theorem takePlan_kept {pq : List Instr} (p : Plan) (s : State) (hk : Kept pq s) :
    Kept pq (takePlan p s) := by
  unfold takePlan
  try dsimp only
  repeat' first
    | with_reducible assumption
    | with_reducible apply State.modFrm_kept
    | with_reducible apply State.modFab_kept
    | with_reducible apply State.modTop_kept

/-- `beginForming` keeps the queue, canonical memory and canonical registers. -/
theorem beginForming_kept {pq : List Instr} (p : Plan) (s : State) (hk : Kept pq s) :
    Kept pq (beginForming p s) := by
  unfold beginForming
  try dsimp only
  repeat' first
    | with_reducible assumption
    | with_reducible apply joinTree_kept
    | intro _
    | with_reducible apply kept_ite

/-- `formPlan` keeps the queue, canonical memory and canonical registers. -/
theorem formPlan_kept {pq : List Instr} (p : Plan) (s : State) (hk : Kept pq s) :
    Kept pq (formPlan p s) := by
  unfold formPlan
  try dsimp only
  repeat' first
    | with_reducible assumption
    | with_reducible apply reevaluateAll_kept
    | with_reducible apply takePlan_kept
    | with_reducible apply beginForming_kept

/-- `finishAccept` keeps the queue, canonical memory and canonical registers. -/
theorem finishAccept_kept {pq : List Instr} (m : Nat) (p : Plan) (s : State) (hk : Kept pq s) :
    Kept pq (finishAccept m p s) := by
  unfold finishAccept
  try dsimp only
  repeat' first
    | with_reducible assumption
    | with_reducible apply State.modFab_kept
    | with_reducible apply State.modTop_kept
    | with_reducible apply completeMbx_kept
    | with_reducible apply formPlan_kept
    | intro _
    | with_reducible apply kept_ite

/-- `planAccept` keeps the queue, canonical memory and canonical registers. -/
theorem planAccept_kept {pq : List Instr} (m : Nat) (r : MbxReq) (s : State) (hk : Kept pq s) :
    Kept pq (planAccept m r s) := by
  unfold planAccept
  try dsimp only
  repeat' first
    | with_reducible assumption
    | with_reducible apply State.modTop_kept
    | with_reducible apply failMbx_kept
    | with_reducible apply finishAccept_kept
    | intro _
    | with_reducible apply kept_ite
    | with_reducible apply kept_ite_snd
    | split

/-- `execPlanAccept` keeps the queue, canonical memory and canonical registers. -/
theorem execPlanAccept_kept {pq : List Instr} (mbx : MbxId) (s : State) (hk : Kept pq s) :
    KeptOut pq (execPlanAccept mbx s) := by
  unfold execPlanAccept
  try dsimp only
  repeat' first
    | with_reducible assumption
    | with_reducible refine keptOut_next ?_
    | exact keptOut_fault
    | with_reducible refine keptOut_ite ?_ ?_
    | with_reducible apply casbomi_kept
    | with_reducible apply planAccept_kept

/-- `resumeAccept` keeps the queue, canonical memory and canonical registers. -/
theorem resumeAccept_kept {pq : List Instr} (s : State) (hk : Kept pq s) :
    Kept pq (resumeAccept s) := by
  unfold resumeAccept
  try dsimp only
  repeat' first
    | with_reducible assumption
    | with_reducible apply finishAccept_kept
    | intro _
    | with_reducible apply kept_ite
    | with_reducible apply kept_ite_snd
    | split

/-- `topoStatus` keeps the queue, canonical memory and canonical registers. -/
theorem topoStatus_kept {pq : List Instr} (m : Nat) (_r : MbxReq) (s : State) (hk : Kept pq s) :
    Kept pq (topoStatus m _r s) := by
  unfold topoStatus
  try dsimp only
  repeat' first
    | with_reducible assumption
    | with_reducible apply completeMbx_kept

/-- `execTopoStatus` keeps the queue, canonical memory and canonical registers. -/
theorem execTopoStatus_kept {pq : List Instr} (mbx : MbxId) (s : State) (hk : Kept pq s) :
    KeptOut pq (execTopoStatus mbx s) := by
  unfold execTopoStatus
  try dsimp only
  repeat' first
    | with_reducible assumption
    | with_reducible refine keptOut_next ?_
    | exact keptOut_fault
    | with_reducible refine keptOut_ite ?_ ?_
    | with_reducible apply casbomi_kept
    | with_reducible apply topoStatus_kept

end Sys2Proof.Machine
end

