-- ==== Sys2Proof/Laws/KeepSecurity.lean ====
section
/-!
SUPPORT. Every operation of Machine/Security.lean leaves the queue alone and keeps memory and the lanes' registers canonical.
-/

namespace Sys2Proof.Machine

/-- `execAttestMeasure` keeps the queue, canonical memory and canonical registers. -/
theorem execAttestMeasure_kept {pq : List Instr} (mbx : MbxId) (s : State) (hk : Kept pq s) :
    KeptOut pq (execAttestMeasure mbx s) := by
  unfold execAttestMeasure
  try dsimp only
  repeat' first
    | with_reducible assumption
    | with_reducible refine keptOut_next ?_
    | exact keptOut_fault
    | with_reducible refine keptOut_ite ?_ ?_
    | with_reducible apply completeMbx_kept
    | with_reducible apply casbomi_kept
    | intro _

/-- `tenantPolicy` keeps the queue, canonical memory and canonical registers. -/
theorem tenantPolicy_kept {pq : List Instr} (m : Nat) (r : MbxReq) (s : State) (hk : Kept pq s) :
    Kept pq (tenantPolicy m r s) := by
  unfold tenantPolicy
  try dsimp only
  repeat' first
    | with_reducible assumption
    | with_reducible apply State.modSec_kept
    | with_reducible apply completeMbx_kept
    | with_reducible apply failMbx_kept
    | intro _
    | with_reducible apply kept_ite

/-- `execTenantPolicy` keeps the queue, canonical memory and canonical registers. -/
theorem execTenantPolicy_kept {pq : List Instr} (mbx : MbxId) (s : State) (hk : Kept pq s) :
    KeptOut pq (execTenantPolicy mbx s) := by
  unfold execTenantPolicy
  try dsimp only
  repeat' first
    | with_reducible assumption
    | with_reducible refine keptOut_next ?_
    | exact keptOut_fault
    | with_reducible refine keptOut_ite ?_ ?_
    | with_reducible apply casbomi_kept
    | with_reducible apply tenantPolicy_kept

/-- `issueChallenge` keeps the queue, canonical memory and canonical registers. -/
theorem issueChallenge_kept {pq : List Instr} (m : Nat) (s : State) (hk : Kept pq s) :
    Kept pq (issueChallenge m s) := by
  unfold issueChallenge
  try dsimp only
  repeat' first
    | with_reducible assumption
    | with_reducible apply State.modSec_kept
    | with_reducible apply State.drawFree_kept
    | with_reducible apply completeMbx_kept
    | with_reducible apply failMbx_kept
    | intro _
    | with_reducible apply kept_ite

/-- `takeResponse` keeps the queue, canonical memory and canonical registers. -/
theorem takeResponse_kept {pq : List Instr} (m : Nat) (r : MbxReq) (s : State) (hk : Kept pq s) :
    Kept pq (takeResponse m r s) := by
  unfold takeResponse
  try dsimp only
  repeat' first
    | with_reducible assumption
    | with_reducible apply State.modSec_kept
    | with_reducible apply completeMbx_kept
    | with_reducible apply failMbx_kept
    | with_reducible apply triggerReset_kept
    | intro _
    | with_reducible apply kept_ite

/-- `execDebugUnlockChallenge` keeps the queue, canonical memory and canonical registers. -/
theorem execDebugUnlockChallenge_kept {pq : List Instr} (mbx : MbxId) (s : State) (hk : Kept pq s) :
    KeptOut pq (execDebugUnlockChallenge mbx s) := by
  unfold execDebugUnlockChallenge
  try dsimp only
  repeat' first
    | with_reducible assumption
    | with_reducible refine keptOut_next ?_
    | exact keptOut_fault
    | with_reducible refine keptOut_ite ?_ ?_
    | with_reducible apply casbomi_kept
    | with_reducible apply issueChallenge_kept
    | intro _
    | with_reducible apply kept_ite

/-- `execDebugUnlockResponse` keeps the queue, canonical memory and canonical registers. -/
theorem execDebugUnlockResponse_kept {pq : List Instr} (mbx : MbxId) (s : State) (hk : Kept pq s) :
    KeptOut pq (execDebugUnlockResponse mbx s) := by
  unfold execDebugUnlockResponse
  try dsimp only
  repeat' first
    | with_reducible assumption
    | with_reducible refine keptOut_next ?_
    | exact keptOut_fault
    | with_reducible refine keptOut_ite ?_ ?_
    | with_reducible apply failMbx_kept
    | with_reducible apply casbomi_kept
    | with_reducible apply takeResponse_kept
    | intro _
    | with_reducible apply kept_ite

/-- `execDebugChallengeExpiry` keeps the queue, canonical memory and canonical registers. -/
theorem execDebugChallengeExpiry_kept {pq : List Instr} (s : State) (hk : Kept pq s) :
    KeptOut pq (execDebugChallengeExpiry s) := by
  unfold execDebugChallengeExpiry
  try dsimp only
  repeat' first
    | with_reducible assumption
    | with_reducible refine keptOut_next ?_
    | exact keptOut_fault
    | with_reducible refine keptOut_ite ?_ ?_
    | with_reducible apply State.modSec_kept

/-- `execIdeIntegrityFail` keeps the queue, canonical memory and canonical registers. -/
theorem execIdeIntegrityFail_kept {pq : List Instr} (cachemem : Bool) (s : State) (hk : Kept pq s) :
    KeptOut pq (execIdeIntegrityFail cachemem s) := by
  unfold execIdeIntegrityFail
  try dsimp only
  repeat' first
    | with_reducible assumption
    | with_reducible refine keptOut_next ?_
    | exact keptOut_fault
    | with_reducible refine keptOut_ite ?_ ?_
    | with_reducible apply State.modHp_kept
    | with_reducible apply escalate_kept
    | intro _
    | with_reducible apply kept_ite

/-- `execDoeDiscovery` keeps the queue, canonical memory and canonical registers. -/
theorem execDoeDiscovery_kept {pq : List Instr} (index : Byte) (s : State) (hk : Kept pq s) :
    KeptOut pq (execDoeDiscovery index s) := by
  unfold execDoeDiscovery
  try dsimp only
  repeat' first
    | with_reducible assumption
    | with_reducible refine keptOut_next ?_
    | exact keptOut_fault
    | with_reducible refine keptOut_ite ?_ ?_
    | with_reducible apply State.emit_kept
    | intro _
    | with_reducible apply kept_ite

/-- `execCdatRead` keeps the queue, canonical memory and canonical registers. -/
theorem execCdatRead_kept {pq : List Instr} (s : State) (hk : Kept pq s) :
    KeptOut pq (execCdatRead s) := by
  unfold execCdatRead
  try dsimp only
  repeat' first
    | with_reducible assumption
    | with_reducible refine keptOut_next ?_
    | exact keptOut_fault
    | with_reducible refine keptOut_ite ?_ ?_
    | with_reducible apply State.emit_kept
    | intro _
    | with_reducible apply kept_ite

/-- `spdmError` keeps the queue, canonical memory and canonical registers. -/
theorem spdmError_kept {pq : List Instr} (code : Nat) (s : State) (hk : Kept pq s) :
    Kept pq (spdmError code s) := by
  unfold spdmError
  try dsimp only
  repeat' first
    | with_reducible assumption
    | with_reducible apply State.emit_kept

/-- `spdmSigned` keeps the queue, canonical memory and canonical registers. -/
theorem spdmSigned_kept {pq : List Instr} (code : Nat) (req content : List Byte) (s : State) (hk : Kept pq s) :
    Kept pq (spdmSigned code req content s) := by
  unfold spdmSigned
  try dsimp only
  repeat' first
    | with_reducible assumption
    | with_reducible apply State.emit_kept
    | with_reducible apply State.drawFree_kept

/-- `spdmReady` keeps the queue, canonical memory and canonical registers. -/
theorem spdmReady_kept {pq : List Instr} (req : List Byte) (f : State → State) (s : State) (hf : ∀ x0, Kept pq x0 → Kept pq (f x0)) (hk : Kept pq s) :
    Kept pq (spdmReady req f s) := by
  unfold spdmReady
  try dsimp only
  repeat' first
    | with_reducible assumption
    | with_reducible apply spdmError_kept
    | apply hf
    | intro _
    | with_reducible apply kept_ite

/-- `execGetVersion` keeps the queue, canonical memory and canonical registers. -/
theorem execGetVersion_kept {pq : List Instr} (req : List Byte) (s : State) (hk : Kept pq s) :
    KeptOut pq (execGetVersion req s) := by
  unfold execGetVersion
  try dsimp only
  repeat' first
    | with_reducible assumption
    | with_reducible refine keptOut_next ?_
    | exact keptOut_fault
    | with_reducible refine keptOut_ite ?_ ?_
    | with_reducible apply State.modHp_kept
    | with_reducible apply State.emit_kept
    | intro _
    | with_reducible apply kept_ite

/-- `execGetCapabilities` keeps the queue, canonical memory and canonical registers. -/
theorem execGetCapabilities_kept {pq : List Instr} (req : List Byte) (s : State) (hk : Kept pq s) :
    KeptOut pq (execGetCapabilities req s) := by
  unfold execGetCapabilities
  try dsimp only
  repeat' first
    | with_reducible assumption
    | with_reducible refine keptOut_next ?_
    | exact keptOut_fault
    | with_reducible refine keptOut_ite ?_ ?_
    | with_reducible apply State.emit_kept
    | with_reducible apply spdmError_kept
    | intro _
    | with_reducible apply kept_ite

/-- `execNegotiateAlgorithms` keeps the queue, canonical memory and canonical registers. -/
theorem execNegotiateAlgorithms_kept {pq : List Instr} (req : List Byte) (s : State) (hk : Kept pq s) :
    KeptOut pq (execNegotiateAlgorithms req s) := by
  unfold execNegotiateAlgorithms
  try dsimp only
  repeat' first
    | with_reducible assumption
    | with_reducible refine keptOut_next ?_
    | exact keptOut_fault
    | with_reducible refine keptOut_ite ?_ ?_
    | with_reducible apply State.modHp_kept
    | with_reducible apply State.emit_kept
    | with_reducible apply spdmError_kept
    | intro _
    | with_reducible apply kept_ite

/-- `execGetDigests` keeps the queue, canonical memory and canonical registers. -/
theorem execGetDigests_kept {pq : List Instr} (req : List Byte) (s : State) (hk : Kept pq s) :
    KeptOut pq (execGetDigests req s) := by
  unfold execGetDigests
  try dsimp only
  repeat' first
    | with_reducible assumption
    | with_reducible refine keptOut_next ?_
    | exact keptOut_fault
    | with_reducible refine keptOut_ite ?_ ?_
    | with_reducible apply State.emit_kept
    | with_reducible apply spdmReady_kept
    | intro _

/-- `execGetCertificate` keeps the queue, canonical memory and canonical registers. -/
theorem execGetCertificate_kept {pq : List Instr} (req : List Byte) (s : State) (hk : Kept pq s) :
    KeptOut pq (execGetCertificate req s) := by
  unfold execGetCertificate
  try dsimp only
  repeat' first
    | with_reducible assumption
    | with_reducible refine keptOut_next ?_
    | exact keptOut_fault
    | with_reducible refine keptOut_ite ?_ ?_
    | with_reducible apply State.emit_kept
    | with_reducible apply spdmError_kept
    | with_reducible apply spdmReady_kept
    | intro _
    | with_reducible apply kept_ite

/-- `execChallenge` keeps the queue, canonical memory and canonical registers. -/
theorem execChallenge_kept {pq : List Instr} (req : List Byte) (s : State) (hk : Kept pq s) :
    KeptOut pq (execChallenge req s) := by
  unfold execChallenge
  try dsimp only
  repeat' first
    | with_reducible assumption
    | with_reducible refine keptOut_next ?_
    | exact keptOut_fault
    | with_reducible refine keptOut_ite ?_ ?_
    | with_reducible apply State.drawFree_kept
    | with_reducible apply spdmError_kept
    | with_reducible apply spdmSigned_kept
    | with_reducible apply spdmReady_kept
    | intro _
    | with_reducible apply kept_ite

/-- `execGetMeasurements` keeps the queue, canonical memory and canonical registers. -/
theorem execGetMeasurements_kept {pq : List Instr} (req : List Byte) (s : State) (hk : Kept pq s) :
    KeptOut pq (execGetMeasurements req s) := by
  unfold execGetMeasurements
  try dsimp only
  repeat' first
    | with_reducible assumption
    | with_reducible refine keptOut_next ?_
    | exact keptOut_fault
    | with_reducible refine keptOut_ite ?_ ?_
    | with_reducible apply State.drawFree_kept
    | with_reducible apply spdmError_kept
    | with_reducible apply spdmSigned_kept
    | with_reducible apply spdmReady_kept
    | intro _
    | with_reducible apply kept_ite
    | with_reducible apply kept_ite_snd
    | split

/-- `execKeyExchange` keeps the queue, canonical memory and canonical registers. -/
theorem execKeyExchange_kept {pq : List Instr} (req : List Byte) (s : State) (hk : Kept pq s) :
    KeptOut pq (execKeyExchange req s) := by
  unfold execKeyExchange
  try dsimp only
  repeat' first
    | with_reducible assumption
    | with_reducible refine keptOut_next ?_
    | exact keptOut_fault
    | with_reducible refine keptOut_ite ?_ ?_
    | with_reducible apply State.modHp_kept
    | with_reducible apply State.drawFree_kept
    | with_reducible apply spdmError_kept
    | with_reducible apply spdmSigned_kept
    | with_reducible apply spdmReady_kept
    | intro _
    | with_reducible apply kept_ite

/-- `inSession` keeps the queue, canonical memory and canonical registers. -/
theorem inSession_kept {pq : List Instr} (id : Word) (f : Session → State → State) (s : State) (hf : ∀ x0 x1, Kept pq x1 → Kept pq (f x0 x1)) (hk : Kept pq s) :
    Kept pq (inSession id f s) := by
  unfold inSession
  try dsimp only
  repeat' first
    | with_reducible assumption
    | with_reducible apply spdmError_kept
    | apply hf
    | intro _
    | with_reducible apply kept_ite
    | with_reducible apply kept_ite_snd
    | split

/-- `modSession` keeps the queue, canonical memory and canonical registers. -/
theorem modSession_kept {pq : List Instr} (id : Word) (f : Session → Session) (s : State) (hk : Kept pq s) :
    Kept pq (modSession id f s) := by
  unfold modSession
  try dsimp only
  repeat' first
    | with_reducible assumption
    | with_reducible apply State.modHp_kept

/-- `execFinish` keeps the queue, canonical memory and canonical registers. -/
theorem execFinish_kept {pq : List Instr} (session : Word) (ok : Bool) (s : State) (hk : Kept pq s) :
    KeptOut pq (execFinish session ok s) := by
  unfold execFinish
  try dsimp only
  repeat' first
    | with_reducible assumption
    | with_reducible refine keptOut_next ?_
    | exact keptOut_fault
    | with_reducible refine keptOut_ite ?_ ?_
    | with_reducible apply State.modHp_kept
    | with_reducible apply State.emit_kept
    | with_reducible apply spdmError_kept
    | with_reducible apply modSession_kept
    | intro _
    | with_reducible apply kept_ite
    | with_reducible apply kept_ite_snd
    | split

/-- `execHeartbeat` keeps the queue, canonical memory and canonical registers. -/
theorem execHeartbeat_kept {pq : List Instr} (session : Word) (s : State) (hk : Kept pq s) :
    KeptOut pq (execHeartbeat session s) := by
  unfold execHeartbeat
  try dsimp only
  repeat' first
    | with_reducible assumption
    | with_reducible refine keptOut_next ?_
    | exact keptOut_fault
    | with_reducible refine keptOut_ite ?_ ?_
    | with_reducible apply State.emit_kept
    | with_reducible apply inSession_kept
    | intro _

/-- `execKeyUpdate` keeps the queue, canonical memory and canonical registers. -/
theorem execKeyUpdate_kept {pq : List Instr} (session : Word) (s : State) (hk : Kept pq s) :
    KeptOut pq (execKeyUpdate session s) := by
  unfold execKeyUpdate
  try dsimp only
  repeat' first
    | with_reducible assumption
    | with_reducible refine keptOut_next ?_
    | exact keptOut_fault
    | with_reducible refine keptOut_ite ?_ ?_
    | with_reducible apply State.emit_kept
    | with_reducible apply inSession_kept
    | with_reducible apply modSession_kept
    | intro _

/-- `execEndSession` keeps the queue, canonical memory and canonical registers. -/
theorem execEndSession_kept {pq : List Instr} (session : Word) (s : State) (hk : Kept pq s) :
    KeptOut pq (execEndSession session s) := by
  unfold execEndSession
  try dsimp only
  repeat' first
    | with_reducible assumption
    | with_reducible refine keptOut_next ?_
    | exact keptOut_fault
    | with_reducible refine keptOut_ite ?_ ?_
    | with_reducible apply State.modHp_kept
    | with_reducible apply State.emit_kept
    | with_reducible apply inSession_kept
    | intro _

/-- `execIdeKm` keeps the queue, canonical memory and canonical registers. -/
theorem execIdeKm_kept {pq : List Instr} (session : Word) (cachemem : Bool) (op : IdeKmOp) (s : State) (hk : Kept pq s) :
    KeptOut pq (execIdeKm session cachemem op s) := by
  unfold execIdeKm
  try dsimp only
  repeat' first
    | with_reducible assumption
    | with_reducible refine keptOut_next ?_
    | exact keptOut_fault
    | with_reducible refine keptOut_ite ?_ ?_
    | with_reducible apply State.modHp_kept
    | with_reducible apply State.emit_kept
    | with_reducible apply inSession_kept
    | intro _

end Sys2Proof.Machine
end

