-- ==== Sys2Proof/Laws/KeepThermal.lean ====
section
/-!
SUPPORT. Every operation of Machine/Thermal.lean leaves the queue alone and keeps memory and the lanes' registers canonical.
-/

namespace Sys2Proof.Machine

/-- `setBand` keeps the queue, canonical memory and canonical registers. -/
theorem setBand_kept {pq : List Instr} (h : Nat) (b : Band) (s : State) (hk : Kept pq s) :
    Kept pq (setBand h b s) := by
  unfold setBand
  try dsimp only
  repeat' first
    | with_reducible assumption
    | with_reducible apply State.modHank_kept

/-- `overtempShutdown` keeps the queue, canonical memory and canonical registers. -/
theorem overtempShutdown_kept {pq : List Instr} (h : Nat) (s : State) (hk : Kept pq s) :
    Kept pq (overtempShutdown h s) := by
  unfold overtempShutdown
  try dsimp only
  repeat' first
    | with_reducible assumption
    | with_reducible apply State.modPkg_kept
    | with_reducible apply State.modHnk_kept
    | with_reducible apply State.modHank_kept
    | with_reducible apply failFrame_kept
    | with_reducible apply escalate_kept
    | with_reducible apply endCommands_kept
    | with_reducible apply endHeld_kept

/-- `hankRead` keeps the queue, canonical memory and canonical registers. -/
theorem hankRead_kept {pq : List Instr} (h : Nat) (s : State) (hk : Kept pq s) :
    Kept pq (hankRead h s) := by
  unfold hankRead
  try dsimp only
  repeat' first
    | with_reducible assumption
    | with_reducible apply State.modHank_kept
    | with_reducible apply setBand_kept
    | with_reducible apply overtempShutdown_kept
    | intro _
    | with_reducible apply kept_ite
    | with_reducible apply kept_ite_snd
    | split

/-- `enterThrottle` keeps the queue, canonical memory and canonical registers. -/
theorem enterThrottle_kept {pq : List Instr} (d : Nat) (s : State) (hk : Kept pq s) :
    Kept pq (enterThrottle d s) := by
  unfold enterThrottle
  try dsimp only
  repeat' first
    | with_reducible assumption
    | with_reducible apply State.modThm_kept
    | with_reducible apply State.modPwrDie_kept
    | with_reducible apply State.modThmDie_kept
    | with_reducible apply winBump_kept
    | with_reducible apply escalate_kept
    | intro _
    | with_reducible apply kept_ite

/-- `beginStop` keeps the queue, canonical memory and canonical registers. -/
theorem beginStop_kept {pq : List Instr} (d : Nat) (s : State) (hk : Kept pq s) :
    Kept pq (beginStop d s) := by
  unfold beginStop
  try dsimp only
  repeat' first
    | with_reducible assumption
    | with_reducible apply State.modPkg_kept
    | with_reducible apply State.modThm_kept
    | with_reducible apply State.modThmDie_kept
    | with_reducible apply failFrame_kept
    | intro _
    | with_reducible apply kept_ite

/-- `dieRead` keeps the queue, canonical memory and canonical registers. -/
theorem dieRead_kept {pq : List Instr} (d v : Nat) (s : State) (hk : Kept pq s) :
    Kept pq (dieRead d v s) := by
  unfold dieRead
  try dsimp only
  repeat' first
    | with_reducible assumption
    | with_reducible apply enterThrottle_kept
    | with_reducible apply beginStop_kept
    | intro _
    | with_reducible apply kept_ite

/-- `regulatorRead` keeps the queue, canonical memory and canonical registers. -/
theorem regulatorRead_kept {pq : List Instr} (n v : Nat) (s : State) (hk : Kept pq s) :
    Kept pq (regulatorRead n v s) := by
  unfold regulatorRead
  try dsimp only
  repeat' first
    | with_reducible assumption
    | with_reducible apply State.modThmDie_kept
    | with_reducible apply enterThrottle_kept
    | intro _
    | with_reducible apply kept_ite

/-- `countFailedRead` keeps the queue, canonical memory and canonical registers. -/
theorem countFailedRead_kept {pq : List Instr} (ch : Nat) (s : State) (hk : Kept pq s) :
    Kept pq (countFailedRead ch s) := by
  unfold countFailedRead
  try dsimp only
  repeat' first
    | with_reducible assumption
    | with_reducible apply winBump_kept
    | intro _
    | with_reducible apply kept_ite

/-- `channelRead` keeps the queue, canonical memory and canonical registers. -/
theorem channelRead_kept {pq : List Instr} (r : Option (BitVec 10)) (s : State) (hk : Kept pq s) :
    Kept pq (channelRead r s) := by
  unfold channelRead
  try dsimp only
  repeat' first
    | with_reducible assumption
    | with_reducible apply State.modThm_kept
    | with_reducible apply State.modSensor_kept
    | with_reducible apply hankRead_kept
    | with_reducible apply dieRead_kept
    | with_reducible apply regulatorRead_kept
    | with_reducible apply countFailedRead_kept
    | intro _
    | with_reducible apply kept_ite
    | with_reducible apply kept_ite_snd
    | split

/-- `execThermalChannelRead` keeps the queue, canonical memory and canonical registers. -/
theorem execThermalChannelRead_kept {pq : List Instr} (reading : Option (BitVec 10)) (s : State) (hk : Kept pq s) :
    KeptOut pq (execThermalChannelRead reading s) := by
  unfold execThermalChannelRead
  try dsimp only
  repeat' first
    | with_reducible assumption
    | with_reducible refine keptOut_next ?_
    | exact keptOut_fault
    | with_reducible refine keptOut_ite ?_ ?_
    | with_reducible apply channelRead_kept

/-- `markFaulty` keeps the queue, canonical memory and canonical registers. -/
theorem markFaulty_kept {pq : List Instr} (y0 : List Nat) (y1 : State) (hk : Kept pq y1) :
    Kept pq (markFaulty y0 y1) := by
  induction y0 generalizing y1 with
  | nil => exact hk
  | cons x xs ih =>
    unfold markFaulty
    try dsimp only
    repeat' first
      | with_reducible assumption
      | apply ih
      | with_reducible apply State.modThm_kept
      | with_reducible apply State.modSensor_kept
      | with_reducible apply escalate_kept
      | intro _
      | with_reducible apply kept_ite

/-- `dieRound` keeps the queue, canonical memory and canonical registers. -/
theorem dieRound_kept {pq : List Instr} (d : Nat) (s : State) (hk : Kept pq s) :
    Kept pq (dieRound d s) := by
  unfold dieRound
  try dsimp only
  repeat' first
    | with_reducible assumption
    | with_reducible apply State.modPwrDie_kept
    | with_reducible apply State.modThmDie_kept
    | with_reducible apply enterThrottle_kept
    | intro _
    | with_reducible apply kept_ite

/-- `thermalRound` keeps the queue, canonical memory and canonical registers. -/
theorem thermalRound_kept {pq : List Instr} (s : State) (hk : Kept pq s) :
    Kept pq (thermalRound s) := by
  unfold thermalRound
  try dsimp only
  repeat' first
    | with_reducible assumption
    | with_reducible apply State.modThm_kept
    | with_reducible apply applyLimits_kept
    | with_reducible apply markFaulty_kept
    | with_reducible apply dieRound_kept
    | intro _
    | with_reducible apply kept_ite

/-- `execThermalRound` keeps the queue, canonical memory and canonical registers. -/
theorem execThermalRound_kept {pq : List Instr} (s : State) (hk : Kept pq s) :
    KeptOut pq (execThermalRound s) := by
  unfold execThermalRound
  try dsimp only
  repeat' first
    | with_reducible assumption
    | with_reducible refine keptOut_next ?_
    | exact keptOut_fault
    | with_reducible refine keptOut_ite ?_ ?_
    | with_reducible apply thermalRound_kept

/-- `cleanDie` keeps the queue, canonical memory and canonical registers. -/
theorem cleanDie_kept {pq : List Instr} (d : Nat) (s : State) (hk : Kept pq s) :
    Kept pq (cleanDie d s) := by
  unfold cleanDie
  try dsimp only
  repeat' first
    | with_reducible assumption
    | with_reducible apply rlcClean_kept
    | (refine foldl_kept ?_ ?_; intro _ _ _)

/-- `stopDone` keeps the queue, canonical memory and canonical registers. -/
theorem stopDone_kept {pq : List Instr} (d : Nat) (s : State) (hk : Kept pq s) :
    Kept pq (stopDone d s) := by
  unfold stopDone
  try dsimp only
  repeat' first
    | with_reducible assumption
    | with_reducible apply State.modPkg_kept
    | with_reducible apply State.modHnk_kept
    | with_reducible apply State.modThm_kept
    | with_reducible apply escalate_kept
    | with_reducible apply performHeld_kept
    | with_reducible apply cleanDie_kept
    | intro _
    | with_reducible apply kept_ite

/-- `execOrderlyStopComplete` keeps the queue, canonical memory and canonical registers. -/
theorem execOrderlyStopComplete_kept {pq : List Instr} (s : State) (hk : Kept pq s) :
    KeptOut pq (execOrderlyStopComplete s) := by
  unfold execOrderlyStopComplete
  try dsimp only
  repeat' first
    | with_reducible assumption
    | with_reducible refine keptOut_next ?_
    | exact keptOut_fault
    | with_reducible refine keptOut_ite ?_ ?_
    | with_reducible apply stopDone_kept
    | intro _
    | with_reducible apply kept_ite
    | with_reducible apply kept_ite_snd
    | split

/-- `analogTrip` keeps the queue, canonical memory and canonical registers. -/
theorem analogTrip_kept {pq : List Instr} (d : Nat) (s : State) (hk : Kept pq s) :
    Kept pq (analogTrip d s) := by
  unfold analogTrip
  try dsimp only
  repeat' first
    | with_reducible assumption
    | with_reducible apply State.modPkg_kept
    | with_reducible apply State.modVis_kept
    | with_reducible apply State.modThm_kept
    | with_reducible apply escalate_kept
    | with_reducible apply markUndef_kept

/-- `execAnalogTrip` keeps the queue, canonical memory and canonical registers. -/
theorem execAnalogTrip_kept {pq : List Instr} (die : Die) (s : State) (hk : Kept pq s) :
    KeptOut pq (execAnalogTrip die s) := by
  unfold execAnalogTrip
  try dsimp only
  repeat' first
    | with_reducible assumption
    | with_reducible refine keptOut_next ?_
    | exact keptOut_fault
    | with_reducible refine keptOut_ite ?_ ?_
    | with_reducible apply analogTrip_kept

end Sys2Proof.Machine
end

