-- ==== Sys2Proof/Laws/KeepRegRead.lean ====
section
/-!
SUPPORT. Every operation of Machine/RegRead.lean leaves the queue alone and keeps memory and the lanes' registers canonical.
-/

namespace Sys2Proof.Machine

/-- `latchRead` keeps the queue, canonical memory and canonical registers. -/
theorem latchRead_kept {pq : List Instr} (a : Nat) (s : State) (hk : Kept pq s) :
    Kept pq (latchRead a s).2 := by
  unfold latchRead
  try dsimp only
  repeat' first
    | with_reducible assumption
    | intro _
    | with_reducible apply kept_ite
    | with_reducible apply kept_ite_snd
    | split
    | (with_reducible apply kept_snd; focus assumption)
    | (with_reducible apply kept_trd; focus assumption)
    | dsimp only
    | assumption

end Sys2Proof.Machine
end

