-- ==== Sys2Proof/Laws/KeepRegisters.lean ====
section
/-!
SUPPORT. Every operation of Machine/Registers.lean leaves the queue alone and keeps memory and the lanes' registers canonical.
-/

namespace Sys2Proof.Machine

/-- `globalWrite` keeps the queue, canonical memory and canonical registers. -/
theorem globalWrite_kept {pq : List Instr} (o v : Nat) (s : State) (hk : Kept pq s) :
    Kept pq (globalWrite o v s) := by
  unfold globalWrite
  try dsimp only
  repeat' first
    | with_reducible assumption
    | with_reducible apply State.modPkg_kept
    | with_reducible apply State.modHp_kept
    | with_reducible apply State.modRes_kept
    | with_reducible apply State.modMdl_kept
    | intro _
    | with_reducible apply kept_ite
    | with_reducible apply kept_ite_snd
    | split

/-- `msixWrite` keeps the queue, canonical memory and canonical registers. -/
theorem msixWrite_kept {pq : List Instr} (o v : Nat) (s : State) (hk : Kept pq s) :
    Kept pq (msixWrite o v s) := by
  unfold msixWrite
  try dsimp only
  repeat' first
    | with_reducible assumption
    | with_reducible apply State.modMsix_kept
    | with_reducible apply sendPending_kept
    | intro _
    | with_reducible apply kept_ite
    | with_reducible apply kept_ite_snd
    | split

/-- `slackMinWrite` keeps the queue, canonical memory and canonical registers. -/
theorem slackMinWrite_kept {pq : List Instr} (s : State) (hk : Kept pq s) :
    Kept pq (slackMinWrite s) := by
  unfold slackMinWrite
  try dsimp only
  repeat' first
    | with_reducible assumption
    | with_reducible apply State.modFrm_kept

/-- `frmWrite` keeps the queue, canonical memory and canonical registers. -/
theorem frmWrite_kept {pq : List Instr} (o v : Nat) (s : State) (hk : Kept pq s) :
    Kept pq (frmWrite o v s) := by
  unfold frmWrite
  try dsimp only
  repeat' first
    | with_reducible assumption
    | with_reducible apply State.modFrm_kept
    | with_reducible apply slackMinWrite_kept
    | intro _
    | with_reducible apply kept_ite
    | with_reducible apply kept_ite_snd
    | split

/-- `bobWrite` keeps the queue, canonical memory and canonical registers. -/
theorem bobWrite_kept {pq : List Instr} (o v : Nat) (s : State) (hk : Kept pq s) :
    Kept pq (bobWrite o v s) := by
  unfold bobWrite
  try dsimp only
  repeat' first
    | with_reducible assumption
    | with_reducible apply State.modBob_kept
    | intro _
    | with_reducible apply kept_ite
    | with_reducible apply kept_ite_snd
    | split

/-- `mbxWrite` keeps the queue, canonical memory and canonical registers. -/
theorem mbxWrite_kept {pq : List Instr} (m o v : Nat) (s : State) (hk : Kept pq s) :
    Kept pq (mbxWrite m o v s) := by
  unfold mbxWrite
  try dsimp only
  repeat' first
    | with_reducible assumption
    | with_reducible apply State.modMbx_kept
    | with_reducible apply goMbx_kept
    | with_reducible apply cancelMbx_kept
    | with_reducible apply evtHeadWrite_kept
    | with_reducible apply writePayload_kept
    | intro _
    | with_reducible apply kept_ite
    | with_reducible apply kept_ite_snd
    | split

/-- `acceptMaxWrite` keeps the queue, canonical memory and canonical registers. -/
theorem acceptMaxWrite_kept {pq : List Instr} (s : State) (hk : Kept pq s) :
    Kept pq (acceptMaxWrite s) := by
  unfold acceptMaxWrite
  try dsimp only
  repeat' first
    | with_reducible assumption
    | with_reducible apply State.modFly_kept

/-- `flyWrite` keeps the queue, canonical memory and canonical registers. -/
theorem flyWrite_kept {pq : List Instr} (o v : Nat) (s : State) (hk : Kept pq s) :
    Kept pq (flyWrite o v s) := by
  unfold flyWrite
  try dsimp only
  repeat' first
    | with_reducible assumption
    | with_reducible apply State.modFly_kept
    | with_reducible apply acceptMaxWrite_kept
    | intro _
    | with_reducible apply kept_ite
    | with_reducible apply kept_ite_snd
    | split

/-- `hankWrite` keeps the queue, canonical memory and canonical registers. -/
theorem hankWrite_kept {pq : List Instr} (h o v : Nat) (s : State) (hk : Kept pq s) :
    Kept pq (hankWrite h o v s) := by
  unfold hankWrite
  try dsimp only
  repeat' first
    | with_reducible assumption
    | with_reducible apply State.modHank_kept
    | with_reducible apply loopbackWrite_kept
    | intro _
    | with_reducible apply kept_ite
    | with_reducible apply kept_ite_snd
    | split

/-- `pairLowWrite` keeps the queue, canonical memory and canonical registers. -/
theorem pairLowWrite_kept {pq : List Instr} (a v : Nat) (s : State) (hk : Kept pq s) :
    Kept pq (pairLowWrite a v s) := by
  unfold pairLowWrite
  try dsimp only
  repeat' first
    | with_reducible assumption
    | intro _
    | with_reducible apply kept_ite
    | with_reducible apply kept_ite_snd
    | split
    | (with_reducible apply kept_snd; focus assumption)
    | (with_reducible apply kept_trd; focus assumption)
    | dsimp only
    | assumption

/-- `hnkWrite` keeps the queue, canonical memory and canonical registers. -/
theorem hnkWrite_kept {pq : List Instr} (o v : Nat) (s : State) (hk : Kept pq s) :
    Kept pq (hnkWrite o v s) := by
  unfold hnkWrite
  try dsimp only
  repeat' first
    | with_reducible assumption
    | with_reducible apply probeWrite_kept
    | with_reducible apply pairLowWrite_kept
    | intro _
    | with_reducible apply kept_ite
    | with_reducible apply kept_ite_snd
    | split

/-- `optWrite` keeps the queue, canonical memory and canonical registers. -/
theorem optWrite_kept {pq : List Instr} (o v : Nat) (s : State) (hk : Kept pq s) :
    Kept pq (optWrite o v s) := by
  unfold optWrite
  try dsimp only
  repeat' first
    | with_reducible assumption
    | with_reducible apply State.modOpt_kept
    | with_reducible apply monSelWrite_kept
    | intro _
    | with_reducible apply kept_ite
    | with_reducible apply kept_ite_snd
    | split

/-- `cbufPeakWrite` keeps the queue, canonical memory and canonical registers. -/
theorem cbufPeakWrite_kept {pq : List Instr} (s : State) (hk : Kept pq s) :
    Kept pq (cbufPeakWrite s) := by
  unfold cbufPeakWrite
  try dsimp only
  repeat' first
    | with_reducible assumption
    | with_reducible apply State.modFab_kept

/-- `fabWrite` keeps the queue, canonical memory and canonical registers. -/
theorem fabWrite_kept {pq : List Instr} (o v : Nat) (s : State) (hk : Kept pq s) :
    Kept pq (fabWrite o v s) := by
  unfold fabWrite
  try dsimp only
  repeat' first
    | with_reducible assumption
    | with_reducible apply State.modFab_kept
    | with_reducible apply State.modLink_kept
    | with_reducible apply cbufPeakWrite_kept
    | intro _
    | with_reducible apply kept_ite
    | with_reducible apply kept_ite_snd
    | split

/-- `topWrite` keeps the queue, canonical memory and canonical registers. -/
theorem topWrite_kept {pq : List Instr} (o v : Nat) (s : State) (hk : Kept pq s) :
    Kept pq (topWrite o v s) := by
  unfold topWrite
  try dsimp only
  repeat' first
    | with_reducible assumption
    | with_reducible apply State.modTop_kept
    | intro _
    | with_reducible apply kept_ite
    | with_reducible apply kept_ite_snd
    | split

/-- `sknWrite` keeps the queue, canonical memory and canonical registers. -/
theorem sknWrite_kept {pq : List Instr} (o v : Nat) (s : State) (hk : Kept pq s) :
    Kept pq (sknWrite o v s) := by
  unfold sknWrite
  try dsimp only
  repeat' first
    | with_reducible assumption
    | with_reducible apply State.modSkn_kept
    | intro _
    | with_reducible apply kept_ite
    | with_reducible apply kept_ite_snd
    | split

/-- `pwrWrite` keeps the queue, canonical memory and canonical registers. -/
theorem pwrWrite_kept {pq : List Instr} (o v : Nat) (s : State) (hk : Kept pq s) :
    Kept pq (pwrWrite o v s) := by
  unfold pwrWrite
  try dsimp only
  repeat' first
    | with_reducible assumption
    | with_reducible apply State.modPkg_kept
    | with_reducible apply State.modPwr_kept
    | intro _
    | with_reducible apply kept_ite
    | with_reducible apply kept_ite_snd
    | split

/-- `thmWrite` keeps the queue, canonical memory and canonical registers. -/
theorem thmWrite_kept {pq : List Instr} (o v : Nat) (s : State) (hk : Kept pq s) :
    Kept pq (thmWrite o v s) := by
  unfold thmWrite
  try dsimp only
  repeat' first
    | with_reducible assumption
    | with_reducible apply State.modThm_kept
    | intro _
    | with_reducible apply kept_ite
    | with_reducible apply kept_ite_snd
    | split

/-- `secWrite` keeps the queue, canonical memory and canonical registers. -/
theorem secWrite_kept {pq : List Instr} (o v : Nat) (s : State) (hk : Kept pq s) :
    Kept pq (secWrite o v s) := by
  unfold secWrite
  try dsimp only
  repeat' first
    | with_reducible assumption
    | with_reducible apply State.modSec_kept
    | intro _
    | with_reducible apply kept_ite
    | with_reducible apply kept_ite_snd
    | split

/-- `tstWrite` keeps the queue, canonical memory and canonical registers. -/
theorem tstWrite_kept {pq : List Instr} (o v : Nat) (s : State) (hk : Kept pq s) :
    Kept pq (tstWrite o v s) := by
  unfold tstWrite
  try dsimp only
  repeat' first
    | with_reducible assumption
    | with_reducible apply State.modTst_kept
    | with_reducible apply dbgCtrlWrite_kept
    | with_reducible apply pairLowWrite_kept
    | intro _
    | with_reducible apply kept_ite
    | with_reducible apply kept_ite_snd
    | split

/-- `spnWrite` keeps the queue, canonical memory and canonical registers. -/
theorem spnWrite_kept {pq : List Instr} (i o v : Nat) (s : State) (hk : Kept pq s) :
    Kept pq (spnWrite i o v s) := by
  unfold spnWrite
  try dsimp only
  repeat' first
    | with_reducible assumption
    | with_reducible apply State.modSpn_kept
    | intro _
    | with_reducible apply kept_ite
    | with_reducible apply kept_ite_snd
    | split

/-- `vecWrite` keeps the queue, canonical memory and canonical registers. -/
theorem vecWrite_kept {pq : List Instr} (d o v : Nat) (s : State) (hk : Kept pq s) :
    Kept pq (vecWrite d o v s) := by
  unfold vecWrite
  try dsimp only
  repeat' first
    | with_reducible assumption
    | with_reducible apply State.modVec_kept
    | intro _
    | with_reducible apply kept_ite
    | with_reducible apply kept_ite_snd
    | split

/-- `visWrite` keeps the queue, canonical memory and canonical registers. -/
theorem visWrite_kept {pq : List Instr} (d o v : Nat) (s : State) (hk : Kept pq s) :
    Kept pq (visWrite d o v s) := by
  unfold visWrite
  try dsimp only
  repeat' first
    | with_reducible assumption
    | with_reducible apply State.modRlc_kept
    | with_reducible apply rlcCtrlWrite_kept
    | intro _
    | with_reducible apply kept_ite
    | with_reducible apply kept_ite_snd
    | split

/-- `componentWrite` keeps the queue, canonical memory and canonical registers. -/
theorem componentWrite_kept {pq : List Instr} (o v : Nat) (s : State) (hk : Kept pq s) :
    Kept pq (componentWrite o v s) := by
  unfold componentWrite
  try dsimp only
  repeat' first
    | with_reducible assumption
    | with_reducible apply State.modHp_kept
    | intro _
    | with_reducible apply kept_ite
    | with_reducible apply kept_ite_snd
    | split

/-- `blockWrite` keeps the queue, canonical memory and canonical registers. -/
theorem blockWrite_kept {pq : List Instr} (y0 : RegBlock) (y1 : Nat) (y2 : Nat) (y3 : State) (hk : Kept pq y3) :
    Kept pq (blockWrite y0 y1 y2 y3) := by
  unfold blockWrite
  try dsimp only
  repeat' first
    | with_reducible assumption
    | with_reducible apply globalWrite_kept
    | with_reducible apply msixWrite_kept
    | with_reducible apply frmWrite_kept
    | with_reducible apply bobWrite_kept
    | with_reducible apply mbxWrite_kept
    | with_reducible apply flyWrite_kept
    | with_reducible apply hankWrite_kept
    | with_reducible apply hnkWrite_kept
    | with_reducible apply optWrite_kept
    | with_reducible apply fabWrite_kept
    | with_reducible apply topWrite_kept
    | with_reducible apply sknWrite_kept
    | with_reducible apply pwrWrite_kept
    | with_reducible apply thmWrite_kept
    | with_reducible apply secWrite_kept
    | with_reducible apply tstWrite_kept
    | with_reducible apply spnWrite_kept
    | with_reducible apply vecWrite_kept
    | with_reducible apply visWrite_kept
    | with_reducible apply componentWrite_kept
    | intro _
    | with_reducible apply kept_ite
    | with_reducible apply kept_ite_snd
    | split

/-- `regWrite` keeps the queue, canonical memory and canonical registers. -/
theorem regWrite_kept {pq : List Instr} (a v : Nat) (s : State) (hk : Kept pq s) :
    Kept pq (regWrite a v s) := by
  unfold regWrite
  try dsimp only
  repeat' first
    | with_reducible assumption
    | with_reducible apply blockWrite_kept
    | intro _
    | with_reducible apply kept_ite

/-- `execRegisterWrite` keeps the queue, canonical memory and canonical registers. -/
theorem execRegisterWrite_kept {pq : List Instr} (offset value : Word) (s : State) (hk : Kept pq s) :
    KeptOut pq (execRegisterWrite offset value s) := by
  unfold execRegisterWrite
  try dsimp only
  repeat' first
    | with_reducible assumption
    | with_reducible refine keptOut_next ?_
    | exact keptOut_fault
    | with_reducible refine keptOut_ite ?_ ?_
    | with_reducible apply regWrite_kept
    | intro _
    | with_reducible apply kept_ite

/-- `execRegPairHighWrite` keeps the queue, canonical memory and canonical registers. -/
theorem execRegPairHighWrite_kept {pq : List Instr} (offset value : Word) (s : State) (hk : Kept pq s) :
    KeptOut pq (execRegPairHighWrite offset value s) := by
  unfold execRegPairHighWrite
  try dsimp only
  repeat' first
    | with_reducible assumption
    | with_reducible refine keptOut_next ?_
    | exact keptOut_fault
    | with_reducible refine keptOut_ite ?_ ?_
    | with_reducible apply regWrite_kept
    | intro _
    | with_reducible apply kept_ite

/-- `execRegLowRead` keeps the queue, canonical memory and canonical registers. -/
theorem execRegLowRead_kept {pq : List Instr} (offset : Word) (s : State) (hk : Kept pq s) :
    KeptOut pq (execRegLowRead offset s) := by
  unfold execRegLowRead
  try dsimp only
  repeat' first
    | with_reducible assumption
    | with_reducible refine keptOut_next ?_
    | exact keptOut_fault
    | with_reducible refine keptOut_ite ?_ ?_
    | with_reducible apply State.emit_kept
    | with_reducible apply latchRead_kept
    | intro _
    | with_reducible apply kept_ite

/-- `execFrmSlackMinWrite` keeps the queue, canonical memory and canonical registers. -/
theorem execFrmSlackMinWrite_kept {pq : List Instr} (_value : Word) (s : State) (hk : Kept pq s) :
    KeptOut pq (execFrmSlackMinWrite _value s) := by
  unfold execFrmSlackMinWrite
  try dsimp only
  repeat' first
    | with_reducible assumption
    | with_reducible refine keptOut_next ?_
    | exact keptOut_fault
    | with_reducible refine keptOut_ite ?_ ?_
    | with_reducible apply slackMinWrite_kept
    | intro _
    | with_reducible apply kept_ite

/-- `execMbxAcceptMaxWrite` keeps the queue, canonical memory and canonical registers. -/
theorem execMbxAcceptMaxWrite_kept {pq : List Instr} (_value : Word) (s : State) (hk : Kept pq s) :
    KeptOut pq (execMbxAcceptMaxWrite _value s) := by
  unfold execMbxAcceptMaxWrite
  try dsimp only
  repeat' first
    | with_reducible assumption
    | with_reducible refine keptOut_next ?_
    | exact keptOut_fault
    | with_reducible refine keptOut_ite ?_ ?_
    | with_reducible apply acceptMaxWrite_kept
    | intro _
    | with_reducible apply kept_ite

/-- `execFabCbufPeakWrite` keeps the queue, canonical memory and canonical registers. -/
theorem execFabCbufPeakWrite_kept {pq : List Instr} (_value : Word) (s : State) (hk : Kept pq s) :
    KeptOut pq (execFabCbufPeakWrite _value s) := by
  unfold execFabCbufPeakWrite
  try dsimp only
  repeat' first
    | with_reducible assumption
    | with_reducible refine keptOut_next ?_
    | exact keptOut_fault
    | with_reducible refine keptOut_ite ?_ ?_
    | with_reducible apply cbufPeakWrite_kept
    | intro _
    | with_reducible apply kept_ite

/-- `execSbRead` keeps the queue, canonical memory and canonical registers. -/
theorem execSbRead_kept {pq : List Instr} (offset : Word) (s : State) (hk : Kept pq s) :
    KeptOut pq (execSbRead offset s) := by
  unfold execSbRead
  try dsimp only
  repeat' first
    | with_reducible assumption
    | with_reducible refine keptOut_next ?_
    | exact keptOut_fault
    | with_reducible refine keptOut_ite ?_ ?_
    | with_reducible apply State.emit_kept
    | with_reducible apply latchRead_kept
    | intro _
    | with_reducible apply kept_ite

/-- `droopWindow` keeps the queue, canonical memory and canonical registers. -/
theorem droopWindow_kept {pq : List Instr} (d : Nat) (s : State) (hk : Kept pq s) :
    Kept pq (droopWindow d s) := by
  unfold droopWindow
  try dsimp only
  repeat' first
    | with_reducible assumption
    | with_reducible apply State.modPwrDie_kept

/-- `closeWindow` keeps the queue, canonical memory and canonical registers. -/
theorem closeWindow_kept {pq : List Instr} (row sub key : Nat) (s : State) (hk : Kept pq s) :
    Kept pq (closeWindow row sub key s) := by
  unfold closeWindow
  try dsimp only
  repeat' first
    | with_reducible assumption
    | with_reducible apply State.modTst_kept
    | with_reducible apply droopWindow_kept
    | intro _
    | with_reducible apply kept_ite
    | with_reducible apply kept_ite_snd
    | split
    | (with_reducible apply kept_snd; focus assumption)
    | (with_reducible apply kept_trd; focus assumption)
    | dsimp only
    | assumption

/-- `execErrorWindowClose` keeps the queue, canonical memory and canonical registers. -/
theorem execErrorWindowClose_kept {pq : List Instr} (row : Fin 49) (sub key : Nat) (s : State) (hk : Kept pq s) :
    KeptOut pq (execErrorWindowClose row sub key s) := by
  unfold execErrorWindowClose
  try dsimp only
  repeat' first
    | with_reducible assumption
    | with_reducible refine keptOut_next ?_
    | exact keptOut_fault
    | with_reducible refine keptOut_ite ?_ ?_
    | with_reducible apply closeWindow_kept

end Sys2Proof.Machine
end

