-- ==== Sys2Proof/Laws/KeepRestore.lean ====
section
/-!
SUPPORT. Every operation of Machine/Restore.lean leaves the queue alone and keeps memory and the lanes' registers canonical.
-/

namespace Sys2Proof.Machine

/-- `failRestore` keeps the queue, canonical memory and canonical registers. -/
theorem failRestore_kept {pq : List Instr} (m : Nat) (st : Status) (s : State) (hk : Kept pq s) :
    Kept pq (failRestore m st s) := by
  unfold failRestore
  try dsimp only
  repeat' first
    | with_reducible assumption
    | with_reducible apply failMbx_kept
    | with_reducible apply snapFailed_kept

/-- Putting entries one after the other keeps the canonical form. -/
theorem putAll_wf : ∀ (l : List (Nat × Byte)) {t : Tab Byte}, tabWf t = true →
    tabWf (l.foldl (fun m e => tput m e.1 e.2) t) = true
  | [], _, h => h
  | _ :: es, _, h => putAll_wf es (tput_wf h)

/-- `restoreData` keeps the queue and canonical memory. -/
theorem restoreData_kept {pq : List Instr} (x : Snap) (s : State) (hk : Kept pq s) : Kept pq (restoreData x s) :=
  ⟨hk.1, putAll_wf _ (filter_wf hk.2.1), hk.2.2⟩

/-- `restoreState` keeps the queue, canonical memory and canonical registers. -/
theorem restoreState_kept {pq : List Instr} (x : Snap) (s : State) (hk : Kept pq s) :
    Kept pq (restoreState x s) := by
  unfold restoreState
  try dsimp only
  repeat' first
    | with_reducible assumption
    | intro _
    | with_reducible apply kept_ite
    | with_reducible apply kept_ite_snd
    | split
    | (with_reducible apply kept_snd; focus assumption)
    | (with_reducible apply kept_trd; focus assumption)
    | dsimp only
    | assumption

/-- `restoreSnap` keeps the queue, canonical memory and canonical registers. -/
theorem restoreSnap_kept {pq : List Instr} (m : Nat) (x : Snap) (readable : Bool) (s : State) (hk : Kept pq s) :
    Kept pq (restoreSnap m x readable s) := by
  unfold restoreSnap
  try dsimp only
  repeat' first
    | with_reducible assumption
    | with_reducible apply completeMbx_kept
    | with_reducible apply endRows_kept
    | with_reducible apply failRestore_kept
    | with_reducible apply restoreData_kept
    | with_reducible apply restoreState_kept
    | intro _
    | with_reducible apply kept_ite

/-- `restoreShards` keeps the queue, canonical memory and canonical registers. -/
theorem restoreShards_kept {pq : List Instr} (img : Image) (y0 : List (Nat × Nat × List Byte)) (y1 : State) (hk : Kept pq y1) :
    Kept pq (restoreShards img y0 y1).2 := by
  induction y0 generalizing img y1 with
  | nil => exact hk
  | cons x xs ih =>
    unfold restoreShards
    try dsimp only
    repeat' first
      | with_reducible assumption
      | apply ih
      | with_reducible apply flyerWrite_kept
      | intro _
      | with_reducible apply kept_ite
      | with_reducible apply kept_ite_snd
      | split

/-- `askGeneration` keeps the queue, canonical memory and canonical registers. -/
theorem askGeneration_kept {pq : List Instr} (dev frame : Nat) (s : State) (hk : Kept pq s) :
    Kept pq (askGeneration dev frame s) := by
  unfold askGeneration
  try dsimp only
  repeat' first
    | with_reducible assumption
    | with_reducible apply sendAnswer_kept

/-- `restoreGen` keeps the queue, canonical memory and canonical registers. -/
theorem restoreGen_kept {pq : List Instr} (m dev frame : Nat) (fetched : Option Generation) (s : State) (hk : Kept pq s) :
    Kept pq (restoreGen m dev frame fetched s) := by
  unfold restoreGen
  try dsimp only
  repeat' first
    | with_reducible assumption
    | with_reducible apply completeMbx_kept
    | with_reducible apply failRestore_kept
    | with_reducible apply restoreShards_kept
    | with_reducible apply askGeneration_kept
    | intro _
    | with_reducible apply kept_ite
    | with_reducible apply kept_ite_snd
    | split
    | (with_reducible apply kept_snd; focus assumption)

/-- `snapshotRestore` keeps the queue, canonical memory and canonical registers. -/
theorem snapshotRestore_kept {pq : List Instr} (m : Nat) (readable : Bool) (fetched : Option Generation) (r : MbxReq) (s : State) (hk : Kept pq s) :
    Kept pq (snapshotRestore m readable fetched r s) := by
  unfold snapshotRestore
  try dsimp only
  repeat' first
    | with_reducible assumption
    | with_reducible apply failRestore_kept
    | with_reducible apply restoreSnap_kept
    | with_reducible apply restoreGen_kept
    | intro _
    | with_reducible apply kept_ite
    | with_reducible apply kept_ite_snd
    | split

/-- `execSnapshotRestore` keeps the queue, canonical memory and canonical registers. -/
theorem execSnapshotRestore_kept {pq : List Instr} (mbx : MbxId) (readable : Bool) (fetched : Option Generation) (s : State) (hk : Kept pq s) :
    KeptOut pq (execSnapshotRestore mbx readable fetched s) := by
  unfold execSnapshotRestore
  try dsimp only
  repeat' first
    | with_reducible assumption
    | with_reducible refine keptOut_next ?_
    | exact keptOut_fault
    | with_reducible refine keptOut_ite ?_ ?_
    | with_reducible apply casbomi_kept
    | with_reducible apply snapshotRestore_kept

/-- `sendBuddy` keeps the queue, canonical memory and canonical registers. -/
theorem sendBuddy_kept {pq : List Instr} (client : Client) (dest kind : Nat) (s : State) (hk : Kept pq s) :
    Kept pq (sendBuddy client dest kind s) := by
  unfold sendBuddy
  try dsimp only
  repeat' first
    | with_reducible assumption
    | with_reducible apply sendMessage_kept
    | with_reducible apply newOp_kept

/-- `releaseBuddy` keeps the queue, canonical memory and canonical registers. -/
theorem releaseBuddy_kept {pq : List Instr} (next : Nat) (s : State) (hk : Kept pq s) :
    Kept pq (releaseBuddy next s) := by
  unfold releaseBuddy
  try dsimp only
  repeat' first
    | with_reducible assumption
    | with_reducible apply State.modRes_kept
    | with_reducible apply sendBuddy_kept
    | intro _
    | with_reducible apply kept_ite

/-- `buddySet` keeps the queue, canonical memory and canonical registers. -/
theorem buddySet_kept {pq : List Instr} (m : Nat) (r : MbxReq) (s : State) (hk : Kept pq s) :
    Kept pq (buddySet m r s) := by
  unfold buddySet
  try dsimp only
  repeat' first
    | with_reducible assumption
    | with_reducible apply State.modRes_kept
    | with_reducible apply State.modMbx_kept
    | with_reducible apply completeMbx_kept
    | with_reducible apply failMbx_kept
    | with_reducible apply sendBuddy_kept
    | with_reducible apply releaseBuddy_kept
    | intro _
    | with_reducible apply kept_ite

/-- `execBuddySet` keeps the queue, canonical memory and canonical registers. -/
theorem execBuddySet_kept {pq : List Instr} (mbx : MbxId) (s : State) (hk : Kept pq s) :
    KeptOut pq (execBuddySet mbx s) := by
  unfold execBuddySet
  try dsimp only
  repeat' first
    | with_reducible assumption
    | with_reducible refine keptOut_next ?_
    | exact keptOut_fault
    | with_reducible refine keptOut_ite ?_ ?_
    | with_reducible apply casbomi_kept
    | with_reducible apply buddySet_kept
    | intro _
    | with_reducible apply kept_ite

/-- `takeProtected` keeps the queue, canonical memory and canonical registers. -/
theorem takeProtected_kept {pq : List Instr} (h : PktHdr) (s : State) (hk : Kept pq s) :
    Kept pq (takeProtected h s).2 := by
  unfold takeProtected
  try dsimp only
  repeat' first
    | with_reducible assumption
    | with_reducible apply State.modRes_kept
    | intro _
    | with_reducible apply kept_ite

/-- `dropProtected` keeps the queue, canonical memory and canonical registers. -/
theorem dropProtected_kept {pq : List Instr} (h : PktHdr) (s : State) (hk : Kept pq s) :
    Kept pq (dropProtected h s).2 := by
  unfold dropProtected
  try dsimp only
  repeat' first
    | with_reducible assumption
    | with_reducible apply State.modRes_kept

/-- `buddyAnswered` keeps the queue, canonical memory and canonical registers. -/
theorem buddyAnswered_kept {pq : List Instr} (m b : Nat) (accepted : Bool) (feed : Nat) (s : State) (hk : Kept pq s) :
    Kept pq (buddyAnswered m b accepted feed s) := by
  unfold buddyAnswered
  try dsimp only
  repeat' first
    | with_reducible assumption
    | with_reducible apply State.modRes_kept
    | with_reducible apply completeMbx_kept
    | with_reducible apply failMbx_kept
    | intro _
    | with_reducible apply kept_ite

/-- `buddyAnswer` keeps the queue, canonical memory and canonical registers. -/
theorem buddyAnswer_kept {pq : List Instr} (h : PktHdr) (body : List Byte) (s : State) (hk : Kept pq s) :
    Kept pq (buddyAnswer h body s) := by
  unfold buddyAnswer
  try dsimp only
  repeat' first
    | with_reducible assumption
    | with_reducible apply State.modFab_kept
    | with_reducible apply answerOp_kept
    | with_reducible apply buddyAnswered_kept
    | intro _
    | with_reducible apply kept_ite
    | with_reducible apply kept_ite_snd
    | split

/-- `execBuddyAssignment` keeps the queue, canonical memory and canonical registers. -/
theorem execBuddyAssignment_kept {pq : List Instr} (payload : List Byte) (s : State) (hk : Kept pq s) :
    KeptOut pq (execBuddyAssignment payload s) := by
  unfold execBuddyAssignment
  try dsimp only
  repeat' first
    | with_reducible assumption
    | with_reducible refine keptOut_next ?_
    | exact keptOut_fault
    | with_reducible refine keptOut_ite ?_ ?_
    | with_reducible apply sendAnswer_kept
    | with_reducible apply receiveOne_kept
    | with_reducible apply headed_kept
    | with_reducible apply takeProtected_kept
    | with_reducible apply dropProtected_kept
    | with_reducible apply buddyAnswer_kept
    | intro _
    | with_reducible apply kept_ite

end Sys2Proof.Machine
end

