-- ==== Sys2Proof/Laws/KeepTopology.lean ====
section
/-!
SUPPORT. Every operation of Machine/Topology.lean leaves the queue alone and keeps memory and the lanes' registers canonical.
-/

namespace Sys2Proof.Machine

/-- `takeSample` keeps the queue, canonical memory and canonical registers. -/
theorem takeSample_kept {pq : List Instr} (n : Nat) (p : List Byte) (t : Nat) (s : State) (hk : Kept pq s) :
    Kept pq (takeSample n p t s) := by
  unfold takeSample
  try dsimp only
  repeat' first
    | with_reducible assumption
    | with_reducible apply State.modDisc_kept
    | intro _
    | with_reducible apply kept_ite

/-- `welcome` keeps the queue, canonical memory and canonical registers. -/
theorem welcome_kept {pq : List Instr} (n : Nat) (s : State) (hk : Kept pq s) :
    Kept pq (welcome n s) := by
  unfold welcome
  try dsimp only
  repeat' first
    | with_reducible assumption
    | with_reducible apply State.modDisc_kept
    | with_reducible apply sendAlign_kept
    | with_reducible apply sendForm_kept
    | intro _
    | with_reducible apply kept_ite
    | with_reducible apply kept_ite_snd
    | split

/-- `strandChanged` keeps the queue, canonical memory and canonical registers. -/
theorem strandChanged_kept {pq : List Instr} (n : Nat) (s : State) (hk : Kept pq s) :
    Kept pq (strandChanged n s) := by
  unfold strandChanged
  try dsimp only
  repeat' first
    | with_reducible assumption
    | with_reducible apply reevaluate_kept
    | with_reducible apply noteTickStrands_kept
    | with_reducible apply resumeAccept_kept

/-- `takeHello` keeps the queue, canonical memory and canonical registers. -/
theorem takeHello_kept {pq : List Instr} (n : Nat) (p : List Byte) (t : Nat) (s : State) (hk : Kept pq s) :
    Kept pq (takeHello n p t s) := by
  unfold takeHello
  try dsimp only
  repeat' first
    | with_reducible assumption
    | with_reducible apply State.modDisc_kept
    | with_reducible apply takeSample_kept
    | with_reducible apply welcome_kept
    | with_reducible apply strandChanged_kept

/-- `execHello` keeps the queue, canonical memory and canonical registers. -/
theorem execHello_kept {pq : List Instr} (strand : StrandId) (payload : List Byte) (t : Quad) (s : State) (hk : Kept pq s) :
    KeptOut pq (execHello strand payload t s) := by
  unfold execHello
  try dsimp only
  repeat' first
    | with_reducible assumption
    | with_reducible refine keptOut_next ?_
    | exact keptOut_fault
    | with_reducible refine keptOut_ite ?_ ?_
    | with_reducible apply takeHello_kept
    | intro _
    | with_reducible apply kept_ite

/-- `execHelloSend` keeps the queue, canonical memory and canonical registers. -/
theorem execHelloSend_kept {pq : List Instr} (strand : StrandId) (t : Quad) (s : State) (hk : Kept pq s) :
    KeptOut pq (execHelloSend strand t s) := by
  unfold execHelloSend
  try dsimp only
  repeat' first
    | with_reducible assumption
    | with_reducible refine keptOut_next ?_
    | exact keptOut_fault
    | with_reducible refine keptOut_ite ?_ ?_
    | with_reducible apply sendSequenced_kept
    | intro _
    | with_reducible apply kept_ite

/-- `execNeighbourTimeout` keeps the queue, canonical memory and canonical registers. -/
theorem execNeighbourTimeout_kept {pq : List Instr} (strand : StrandId) (s : State) (hk : Kept pq s) :
    KeptOut pq (execNeighbourTimeout strand s) := by
  unfold execNeighbourTimeout
  try dsimp only
  repeat' first
    | with_reducible assumption
    | with_reducible refine keptOut_next ?_
    | exact keptOut_fault
    | with_reducible refine keptOut_ite ?_ ?_
    | with_reducible apply State.modDisc_kept
    | with_reducible apply strandChanged_kept
    | intro _
    | with_reducible apply kept_ite

/-- `execNeighbourLost` keeps the queue, canonical memory and canonical registers. -/
theorem execNeighbourLost_kept {pq : List Instr} (strand : StrandId) (s : State) (hk : Kept pq s) :
    KeptOut pq (execNeighbourLost strand s) := by
  unfold execNeighbourLost
  try dsimp only
  repeat' first
    | with_reducible assumption
    | with_reducible refine keptOut_next ?_
    | exact keptOut_fault
    | with_reducible refine keptOut_ite ?_ ?_
    | with_reducible apply State.modDisc_kept
    | with_reducible apply strandChanged_kept
    | intro _
    | with_reducible apply kept_ite

/-- `takeAlignment` keeps the queue, canonical memory and canonical registers. -/
theorem takeAlignment_kept {pq : List Instr} (n : Nat) (p : List Byte) (s : State) (hk : Kept pq s) :
    Kept pq (takeAlignment n p s) := by
  unfold takeAlignment
  try dsimp only
  repeat' first
    | with_reducible assumption
    | with_reducible apply State.modFrm_kept
    | with_reducible apply State.modTop_kept
    | with_reducible apply postDevice_kept
    | with_reducible apply joinTree_kept
    | intro _
    | with_reducible apply kept_ite

/-- `execAlignment` keeps the queue, canonical memory and canonical registers. -/
theorem execAlignment_kept {pq : List Instr} (strand : StrandId) (payload : List Byte) (s : State) (hk : Kept pq s) :
    KeptOut pq (execAlignment strand payload s) := by
  unfold execAlignment
  try dsimp only
  repeat' first
    | with_reducible assumption
    | with_reducible refine keptOut_next ?_
    | exact keptOut_fault
    | with_reducible refine keptOut_ite ?_ ?_
    | with_reducible apply takeAlignment_kept
    | intro _
    | with_reducible apply kept_ite

/-- `takeSummary` keeps the queue, canonical memory and canonical registers. -/
theorem takeSummary_kept {pq : List Instr} (n : Nat) (p : List Byte) (s : State) (hk : Kept pq s) :
    Kept pq (takeSummary n p s) := by
  unfold takeSummary
  try dsimp only
  repeat' first
    | with_reducible assumption
    | with_reducible apply State.modTop_kept
    | with_reducible apply State.modDisc_kept
    | with_reducible apply sendSummary_kept
    | with_reducible apply trySummary_kept
    | intro _
    | with_reducible apply kept_ite

/-- `execSummary` keeps the queue, canonical memory and canonical registers. -/
theorem execSummary_kept {pq : List Instr} (strand : StrandId) (payload : List Byte) (s : State) (hk : Kept pq s) :
    KeptOut pq (execSummary strand payload s) := by
  unfold execSummary
  try dsimp only
  repeat' first
    | with_reducible assumption
    | with_reducible refine keptOut_next ?_
    | exact keptOut_fault
    | with_reducible refine keptOut_ite ?_ ?_
    | with_reducible apply takeSummary_kept
    | intro _
    | with_reducible apply kept_ite

/-- `lateSummary` keeps the queue, canonical memory and canonical registers. -/
theorem lateSummary_kept {pq : List Instr} (tree : Nat) (s : State) (hk : Kept pq s) :
    Kept pq (lateSummary tree s) := by
  unfold lateSummary
  try dsimp only
  repeat' first
    | with_reducible assumption
    | with_reducible apply sendSummary_kept
    | intro _
    | with_reducible apply kept_ite
    | with_reducible apply kept_ite_snd
    | split

/-- `execSummaryTimeout` keeps the queue, canonical memory and canonical registers. -/
theorem execSummaryTimeout_kept {pq : List Instr} (s : State) (hk : Kept pq s) :
    KeptOut pq (execSummaryTimeout s) := by
  unfold execSummaryTimeout
  try dsimp only
  repeat' first
    | with_reducible assumption
    | with_reducible refine keptOut_next ?_
    | exact keptOut_fault
    | with_reducible refine keptOut_ite ?_ ?_
    | with_reducible apply lateSummary_kept

/-- `execSummaryRefresh` keeps the queue, canonical memory and canonical registers. -/
theorem execSummaryRefresh_kept {pq : List Instr} (s : State) (hk : Kept pq s) :
    KeptOut pq (execSummaryRefresh s) := by
  unfold execSummaryRefresh
  try dsimp only
  repeat' first
    | with_reducible assumption
    | with_reducible refine keptOut_next ?_
    | exact keptOut_fault
    | with_reducible refine keptOut_ite ?_ ?_
    | with_reducible apply freshSummaries_kept

/-- `formWith` keeps the queue, canonical memory and canonical registers. -/
theorem formWith_kept {pq : List Instr} (a : Nat) (a2 : Option Nat) (s : State) (hk : Kept pq s) :
    Kept pq (formWith a a2 s) := by
  unfold formWith
  try dsimp only
  repeat' first
    | with_reducible assumption
    | with_reducible apply State.modFrm_kept
    | with_reducible apply State.modTop_kept

/-- `formDomain` keeps the queue, canonical memory and canonical registers. -/
theorem formDomain_kept {pq : List Instr} (s : State) (hk : Kept pq s) :
    Kept pq (formDomain s) := by
  unfold formDomain
  try dsimp only
  repeat' first
    | with_reducible assumption
    | with_reducible apply State.modTop_kept
    | with_reducible apply sendForm_kept
    | with_reducible apply formWith_kept

/-- `execFormTimeout` keeps the queue, canonical memory and canonical registers. -/
theorem execFormTimeout_kept {pq : List Instr} (s : State) (hk : Kept pq s) :
    KeptOut pq (execFormTimeout s) := by
  unfold execFormTimeout
  try dsimp only
  repeat' first
    | with_reducible assumption
    | with_reducible refine keptOut_next ?_
    | exact keptOut_fault
    | with_reducible refine keptOut_ite ?_ ?_
    | with_reducible apply formDomain_kept
    | intro _
    | with_reducible apply kept_ite

/-- `takeForm` keeps the queue, canonical memory and canonical registers. -/
theorem takeForm_kept {pq : List Instr} (p : List Byte) (s : State) (hk : Kept pq s) :
    Kept pq (takeForm p s) := by
  unfold takeForm
  try dsimp only
  repeat' first
    | with_reducible assumption
    | with_reducible apply sendForm_kept
    | with_reducible apply formWith_kept

/-- `execForm` keeps the queue, canonical memory and canonical registers. -/
theorem execForm_kept {pq : List Instr} (strand : StrandId) (payload : List Byte) (s : State) (hk : Kept pq s) :
    KeptOut pq (execForm strand payload s) := by
  unfold execForm
  try dsimp only
  repeat' first
    | with_reducible assumption
    | with_reducible refine keptOut_next ?_
    | exact keptOut_fault
    | with_reducible refine keptOut_ite ?_ ?_
    | with_reducible apply takeForm_kept
    | intro _
    | with_reducible apply kept_ite

/-- `execTickZero` keeps the queue, canonical memory and canonical registers. -/
theorem execTickZero_kept {pq : List Instr} (s : State) (hk : Kept pq s) :
    KeptOut pq (execTickZero s) := by
  unfold execTickZero
  try dsimp only
  repeat' first
    | with_reducible assumption
    | with_reducible refine keptOut_next ?_
    | exact keptOut_fault
    | with_reducible refine keptOut_ite ?_ ?_
    | with_reducible apply State.modFrm_kept
    | with_reducible apply emitTick_kept
    | intro _
    | with_reducible apply kept_ite

/-- `ticksLost` keeps the queue, canonical memory and canonical registers. -/
theorem ticksLost_kept {pq : List Instr} (s : State) (hk : Kept pq s) :
    Kept pq (ticksLost s) := by
  unfold ticksLost
  try dsimp only
  repeat' first
    | with_reducible assumption
    | with_reducible apply State.modTop_kept
    | with_reducible apply winBump_kept
    | with_reducible apply escalate_kept
    | with_reducible apply frameFailed_kept

/-- `execTickLoss` keeps the queue, canonical memory and canonical registers. -/
theorem execTickLoss_kept {pq : List Instr} (s : State) (hk : Kept pq s) :
    KeptOut pq (execTickLoss s) := by
  unfold execTickLoss
  try dsimp only
  repeat' first
    | with_reducible assumption
    | with_reducible refine keptOut_next ?_
    | exact keptOut_fault
    | with_reducible refine keptOut_ite ?_ ?_
    | with_reducible apply ticksLost_kept
    | intro _
    | with_reducible apply kept_ite

/-- `trainDirection` keeps the queue, canonical memory and canonical registers. -/
theorem trainDirection_kept {pq : List Instr} (n : Nat) (receive : Bool) (failed : List Nat) (s : State) (hk : Kept pq s) :
    Kept pq (trainDirection n receive failed s) := by
  unfold trainDirection
  try dsimp only
  repeat' first
    | with_reducible assumption
    | with_reducible apply State.modStrand_kept
    | intro _
    | with_reducible apply kept_ite

/-- `restartLink` keeps the queue, canonical memory and canonical registers. -/
theorem restartLink_kept {pq : List Instr} (n : Nat) (receive : Bool) (s : State) (hk : Kept pq s) :
    Kept pq (restartLink n receive s) := by
  unfold restartLink
  try dsimp only
  repeat' first
    | with_reducible assumption
    | with_reducible apply State.modLink_kept

/-- `joinSwap` keeps the queue, canonical memory and canonical registers. -/
theorem joinSwap_kept {pq : List Instr} (n : Nat) (s : State) (hk : Kept pq s) :
    Kept pq (joinSwap n s) := by
  unfold joinSwap
  try dsimp only
  repeat' first
    | with_reducible assumption
    | with_reducible apply State.modStrand_kept
    | with_reducible apply State.modBank_kept
    | with_reducible apply advanceSwap_kept
    | intro _
    | with_reducible apply kept_ite

/-- `enterService` keeps the queue, canonical memory and canonical registers. -/
theorem enterService_kept {pq : List Instr} (n : Nat) (s : State) (hk : Kept pq s) :
    Kept pq (enterService n s) := by
  unfold enterService
  try dsimp only
  repeat' first
    | with_reducible assumption
    | with_reducible apply State.modDisc_kept
    | with_reducible apply joinSwap_kept

/-- `execStrandTrained` keeps the queue, canonical memory and canonical registers. -/
theorem execStrandTrained_kept {pq : List Instr} (strand : StrandId) (receive : Bool) (failed : List LaneId) (s : State) (hk : Kept pq s) :
    KeptOut pq (execStrandTrained strand receive failed s) := by
  unfold execStrandTrained
  try dsimp only
  repeat' first
    | with_reducible assumption
    | with_reducible refine keptOut_next ?_
    | exact keptOut_fault
    | with_reducible refine keptOut_ite ?_ ?_
    | with_reducible apply strandChanged_kept
    | with_reducible apply trainDirection_kept
    | with_reducible apply restartLink_kept
    | with_reducible apply enterService_kept
    | intro _
    | with_reducible apply kept_ite

end Sys2Proof.Machine
end

