-- ==== Sys2Proof/Laws/Registers.lean ====
section
/-!
SUPPORT. The lanes' registers: a write is read back, and every other register keeps its value.
-/

namespace Sys2Proof.Machine

/-- R109: the key of a register tells its core, ply, lane and number. -/
theorem regKey_inj {c c' : Fin 64} {p p' : Fin 256} {l l' : Fin 32} {r r' : Fin 256}
    (h : regKey c p l r = regKey c' p' l' r') : c = c' ∧ p = p' ∧ l = l' ∧ r = r' := by
  unfold regKey slotKey at h
  have h1 := c.isLt
  have h2 := c'.isLt
  refine ⟨Fin.ext ?_, Fin.ext ?_, Fin.ext ?_, Fin.ext ?_⟩ <;> omega

/-- A register that is written reads as the value's low 32 bits. -/
theorem readReg_writeReg_same {die : Nat} (hd : die < 4) (x : PlyRef) (l r v : Nat) {s : State}
    (hw : tabWf (vget s.vec die).regs = true) :
    readReg (writeReg die x.core x.slot l r v s) die x l r = v % 2 ^ 32 := by
  unfold readReg writeReg
  simp only [State.modVec_vec]
  rw [vget_vmod_same _ _ _ hd]
  simp only [tget_tput_same hw, Option.getD_some]

/-- A register with another key keeps its value. -/
theorem readReg_writeReg_other {die : Nat} (c p l r v : Nat) (y : PlyRef) (l' r' : Nat) {s : State}
    (hk : regKey y.core y.slot l' r' ≠ regKey c p l r) :
    readReg (writeReg die c p l r v s) die y l' r' = readReg s die y l' r' := by
  unfold readReg writeReg
  simp only [State.modVec_vec]
  by_cases hd : die < 4
  · rw [vget_vmod_same _ _ _ hd, tget_tput_other hk]
  · simp [vmod, hd]

/-- A write leaves the other dies' registers alone. -/
theorem writeReg_other_die {die d : Nat} (h : d ≠ die) (c p l r v : Nat) (s : State) :
    vget (writeReg die c p l r v s).vec d = vget s.vec d := by
  unfold writeReg
  simp only [State.modVec_vec]
  exact vget_vmod_other _ _ _ _ h

end Sys2Proof.Machine
end

