-- ==== Sys2Proof/Laws/Shapes.lean ====
section
/-!
SUPPORT. Which parts of the state the shared operations can change: each lemma says that the state after one differs from
the state before it in the parts it names and in nothing else.
-/

namespace Sys2Proof.Machine

/-- A message to the host changes the host port's table and the outputs. -/
theorem sendVector_shape (v : Nat) (s : State) :
    sendVector v s = { s with hp := (sendVector v s).hp, out := (sendVector v s).out } := by
  unfold sendVector
  split <;> rfl

/-- A record in a ring changes the mailboxes, and what a message to the host changes. -/
theorem ringPost_shape (m source : Nat) (st : Status) (obj : Nat) (tenant : Option Nat) (data : List Byte) (s : State) :
    ringPost m source st obj tenant data s =
      { s with fly := (ringPost m source st obj tenant data s).fly, hp := (ringPost m source st obj tenant data s).hp,
               out := (ringPost m source st obj tenant data s).out } := by
  unfold ringPost
  dsimp only
  split
  · rfl
  · split
    · conv => lhs; rw [sendVector_shape]
      rw [sendVector_shape]
      rfl
    · rfl

/-- Posting an event changes what a record in a ring changes. -/
theorem postEvent_shape (source : Nat) (st : Status) (obj : Nat) (tenant : Option Nat) (data : List Byte) (s : State) :
    postEvent source st obj tenant data s =
      { s with fly := (postEvent source st obj tenant data s).fly, hp := (postEvent source st obj tenant data s).hp,
               out := (postEvent source st obj tenant data s).out } := by
  unfold postEvent
  split
  · exact ringPost_shape _ _ _ _ _ _ _
  · rfl

/-- The posting of an error event changes what an event changes. -/
theorem levelPost_shape (l : Levels) (s : State) :
    levelPost l s = { s with fly := (levelPost l s).fly, hp := (levelPost l s).hp, out := (levelPost l s).out } := by
  unfold levelPost
  dsimp only
  split
  · rfl
  · split
    · exact postEvent_shape _ _ _ _ _ _
    · split
      · exact postEvent_shape _ _ _ _ _ _
      · rfl

/-- An error event below level 4 changes the counts of actions and what its posting changes. -/
theorem escalate_shape (l : Levels) (s : State) (h : l.l4 = false) :
    escalate l s = { s with res := (escalate l s).res, fly := (escalate l s).fly, hp := (escalate l s).hp,
                            out := (escalate l s).out } := by
  unfold escalate
  simp only [h, Bool.false_eq_true, if_false]
  rw [levelPost_shape]
  rfl

/-- An error event below level 4 counts its actions at levels 2 and 3, for good and for the health estimate. -/
theorem escalate_res (l : Levels) (s : State) (h : l.l4 = false) :
    (escalate l s).res = { s.res with level2 := if l.l2 then wrapInc 16 s.res.level2 else s.res.level2,
                                      level3 := if l.l3 then wrapInc 16 s.res.level3 else s.res.level3,
                                      recent2 := if l.l2 then s.res.recent2 ++ [0] else s.res.recent2,
                                      recent3 := if l.l3 then s.res.recent3 ++ [0] else s.res.recent3 } := by
  unfold escalate
  simp only [h, Bool.false_eq_true, if_false]
  rw [levelPost_shape]
  rfl

/-- A completion changes the mailboxes and what a message to the host changes. -/
theorem completeMbx_shape (m : Nat) (st : Status) (d : Nat) (fields : List Byte) (s : State) :
    completeMbx m st d fields s =
      { s with fly := (completeMbx m st d fields s).fly, hp := (completeMbx m st d fields s).hp,
               out := (completeMbx m st d fields s).out } := by
  unfold completeMbx
  split
  · rfl
  · rw [sendVector_shape]
    rfl

/-- The end of a command changes the bobbins. -/
theorem endCommand_shape (tag : Nat) (st : Status) (v d : Nat) (s : State) :
    endCommand tag st v d s = { s with bob := (endCommand tag st v d s).bob } := by
  unfold endCommand
  split
  · rfl
  · split <;> rfl

/-- An error of a client's work changes the frame's record and, for a command, the bobbins. -/
theorem clientError_shape (c : Client) (st : Status) (s : State) :
    clientError c st s = { s with frm := (clientError c st s).frm, bob := (clientError c st s).bob } := by
  cases c <;> rfl

/-! ### Error windows -/

/-- One more event in a window. -/
theorem winCount_winBump (row sub obj : Nat) (s : State) :
    winCount (winBump row sub obj s) row sub obj = winCount s row sub obj + 1 := by
  unfold winCount winBump winAdd
  simp only [tmod]
  exact tget_tput_value (by simp [default])

/-- Counting an event changes the windows alone. -/
theorem winBump_shape (row sub obj : Nat) (s : State) :
    winBump row sub obj s = { s with win := (winBump row sub obj s).win } :=
  rfl

/-- Windows are read from the windows' table. -/
theorem winCount_congr {s t : State} (h : t.win = s.win) (row sub obj : Nat) :
    winCount t row sub obj = winCount s row sub obj := by
  simp only [winCount, h]

/-! ### The parts that stay -/

@[simp] theorem sendVector_pending (v : Nat) (s : State) :
    (sendVector v s).pending = s.pending := by
  rw [sendVector_shape v s]
@[simp] theorem sendVector_free (v : Nat) (s : State) :
    (sendVector v s).free = s.free := by
  rw [sendVector_shape v s]
@[simp] theorem sendVector_mem (v : Nat) (s : State) :
    (sendVector v s).mem = s.mem := by
  rw [sendVector_shape v s]
@[simp] theorem sendVector_undef (v : Nat) (s : State) :
    (sendVector v s).undef = s.undef := by
  rw [sendVector_shape v s]
@[simp] theorem sendVector_win (v : Nat) (s : State) :
    (sendVector v s).win = s.win := by
  rw [sendVector_shape v s]
@[simp] theorem sendVector_latch (v : Nat) (s : State) :
    (sendVector v s).latch = s.latch := by
  rw [sendVector_shape v s]
@[simp] theorem sendVector_pairLow (v : Nat) (s : State) :
    (sendVector v s).pairLow = s.pairLow := by
  rw [sendVector_shape v s]
@[simp] theorem sendVector_pkg (v : Nat) (s : State) :
    (sendVector v s).pkg = s.pkg := by
  rw [sendVector_shape v s]
@[simp] theorem sendVector_frm (v : Nat) (s : State) :
    (sendVector v s).frm = s.frm := by
  rw [sendVector_shape v s]
@[simp] theorem sendVector_spn (v : Nat) (s : State) :
    (sendVector v s).spn = s.spn := by
  rw [sendVector_shape v s]
@[simp] theorem sendVector_vec (v : Nat) (s : State) :
    (sendVector v s).vec = s.vec := by
  rw [sendVector_shape v s]
@[simp] theorem sendVector_hnk (v : Nat) (s : State) :
    (sendVector v s).hnk = s.hnk := by
  rw [sendVector_shape v s]
@[simp] theorem sendVector_vis (v : Nat) (s : State) :
    (sendVector v s).vis = s.vis := by
  rw [sendVector_shape v s]
@[simp] theorem sendVector_bob (v : Nat) (s : State) :
    (sendVector v s).bob = s.bob := by
  rw [sendVector_shape v s]
@[simp] theorem sendVector_fly (v : Nat) (s : State) :
    (sendVector v s).fly = s.fly := by
  rw [sendVector_shape v s]
@[simp] theorem sendVector_opt (v : Nat) (s : State) :
    (sendVector v s).opt = s.opt := by
  rw [sendVector_shape v s]
@[simp] theorem sendVector_fab (v : Nat) (s : State) :
    (sendVector v s).fab = s.fab := by
  rw [sendVector_shape v s]
@[simp] theorem sendVector_top (v : Nat) (s : State) :
    (sendVector v s).top = s.top := by
  rw [sendVector_shape v s]
@[simp] theorem sendVector_skn (v : Nat) (s : State) :
    (sendVector v s).skn = s.skn := by
  rw [sendVector_shape v s]
@[simp] theorem sendVector_pwr (v : Nat) (s : State) :
    (sendVector v s).pwr = s.pwr := by
  rw [sendVector_shape v s]
@[simp] theorem sendVector_thm (v : Nat) (s : State) :
    (sendVector v s).thm = s.thm := by
  rw [sendVector_shape v s]
@[simp] theorem sendVector_res (v : Nat) (s : State) :
    (sendVector v s).res = s.res := by
  rw [sendVector_shape v s]
@[simp] theorem sendVector_sec (v : Nat) (s : State) :
    (sendVector v s).sec = s.sec := by
  rw [sendVector_shape v s]
@[simp] theorem sendVector_tst (v : Nat) (s : State) :
    (sendVector v s).tst = s.tst := by
  rw [sendVector_shape v s]
@[simp] theorem sendVector_mdl (v : Nat) (s : State) :
    (sendVector v s).mdl = s.mdl := by
  rw [sendVector_shape v s]

@[simp] theorem ringPost_pending (m source : Nat) (st : Status) (obj : Nat) (tenant : Option Nat) (data : List Byte) (s : State) :
    (ringPost m source st obj tenant data s).pending = s.pending := by
  rw [ringPost_shape m source st obj tenant data s]
@[simp] theorem ringPost_free (m source : Nat) (st : Status) (obj : Nat) (tenant : Option Nat) (data : List Byte) (s : State) :
    (ringPost m source st obj tenant data s).free = s.free := by
  rw [ringPost_shape m source st obj tenant data s]
@[simp] theorem ringPost_mem (m source : Nat) (st : Status) (obj : Nat) (tenant : Option Nat) (data : List Byte) (s : State) :
    (ringPost m source st obj tenant data s).mem = s.mem := by
  rw [ringPost_shape m source st obj tenant data s]
@[simp] theorem ringPost_undef (m source : Nat) (st : Status) (obj : Nat) (tenant : Option Nat) (data : List Byte) (s : State) :
    (ringPost m source st obj tenant data s).undef = s.undef := by
  rw [ringPost_shape m source st obj tenant data s]
@[simp] theorem ringPost_win (m source : Nat) (st : Status) (obj : Nat) (tenant : Option Nat) (data : List Byte) (s : State) :
    (ringPost m source st obj tenant data s).win = s.win := by
  rw [ringPost_shape m source st obj tenant data s]
@[simp] theorem ringPost_latch (m source : Nat) (st : Status) (obj : Nat) (tenant : Option Nat) (data : List Byte) (s : State) :
    (ringPost m source st obj tenant data s).latch = s.latch := by
  rw [ringPost_shape m source st obj tenant data s]
@[simp] theorem ringPost_pairLow (m source : Nat) (st : Status) (obj : Nat) (tenant : Option Nat) (data : List Byte) (s : State) :
    (ringPost m source st obj tenant data s).pairLow = s.pairLow := by
  rw [ringPost_shape m source st obj tenant data s]
@[simp] theorem ringPost_pkg (m source : Nat) (st : Status) (obj : Nat) (tenant : Option Nat) (data : List Byte) (s : State) :
    (ringPost m source st obj tenant data s).pkg = s.pkg := by
  rw [ringPost_shape m source st obj tenant data s]
@[simp] theorem ringPost_frm (m source : Nat) (st : Status) (obj : Nat) (tenant : Option Nat) (data : List Byte) (s : State) :
    (ringPost m source st obj tenant data s).frm = s.frm := by
  rw [ringPost_shape m source st obj tenant data s]
@[simp] theorem ringPost_spn (m source : Nat) (st : Status) (obj : Nat) (tenant : Option Nat) (data : List Byte) (s : State) :
    (ringPost m source st obj tenant data s).spn = s.spn := by
  rw [ringPost_shape m source st obj tenant data s]
@[simp] theorem ringPost_vec (m source : Nat) (st : Status) (obj : Nat) (tenant : Option Nat) (data : List Byte) (s : State) :
    (ringPost m source st obj tenant data s).vec = s.vec := by
  rw [ringPost_shape m source st obj tenant data s]
@[simp] theorem ringPost_hnk (m source : Nat) (st : Status) (obj : Nat) (tenant : Option Nat) (data : List Byte) (s : State) :
    (ringPost m source st obj tenant data s).hnk = s.hnk := by
  rw [ringPost_shape m source st obj tenant data s]
@[simp] theorem ringPost_vis (m source : Nat) (st : Status) (obj : Nat) (tenant : Option Nat) (data : List Byte) (s : State) :
    (ringPost m source st obj tenant data s).vis = s.vis := by
  rw [ringPost_shape m source st obj tenant data s]
@[simp] theorem ringPost_bob (m source : Nat) (st : Status) (obj : Nat) (tenant : Option Nat) (data : List Byte) (s : State) :
    (ringPost m source st obj tenant data s).bob = s.bob := by
  rw [ringPost_shape m source st obj tenant data s]
@[simp] theorem ringPost_opt (m source : Nat) (st : Status) (obj : Nat) (tenant : Option Nat) (data : List Byte) (s : State) :
    (ringPost m source st obj tenant data s).opt = s.opt := by
  rw [ringPost_shape m source st obj tenant data s]
@[simp] theorem ringPost_fab (m source : Nat) (st : Status) (obj : Nat) (tenant : Option Nat) (data : List Byte) (s : State) :
    (ringPost m source st obj tenant data s).fab = s.fab := by
  rw [ringPost_shape m source st obj tenant data s]
@[simp] theorem ringPost_top (m source : Nat) (st : Status) (obj : Nat) (tenant : Option Nat) (data : List Byte) (s : State) :
    (ringPost m source st obj tenant data s).top = s.top := by
  rw [ringPost_shape m source st obj tenant data s]
@[simp] theorem ringPost_skn (m source : Nat) (st : Status) (obj : Nat) (tenant : Option Nat) (data : List Byte) (s : State) :
    (ringPost m source st obj tenant data s).skn = s.skn := by
  rw [ringPost_shape m source st obj tenant data s]
@[simp] theorem ringPost_pwr (m source : Nat) (st : Status) (obj : Nat) (tenant : Option Nat) (data : List Byte) (s : State) :
    (ringPost m source st obj tenant data s).pwr = s.pwr := by
  rw [ringPost_shape m source st obj tenant data s]
@[simp] theorem ringPost_thm (m source : Nat) (st : Status) (obj : Nat) (tenant : Option Nat) (data : List Byte) (s : State) :
    (ringPost m source st obj tenant data s).thm = s.thm := by
  rw [ringPost_shape m source st obj tenant data s]
@[simp] theorem ringPost_res (m source : Nat) (st : Status) (obj : Nat) (tenant : Option Nat) (data : List Byte) (s : State) :
    (ringPost m source st obj tenant data s).res = s.res := by
  rw [ringPost_shape m source st obj tenant data s]
@[simp] theorem ringPost_sec (m source : Nat) (st : Status) (obj : Nat) (tenant : Option Nat) (data : List Byte) (s : State) :
    (ringPost m source st obj tenant data s).sec = s.sec := by
  rw [ringPost_shape m source st obj tenant data s]
@[simp] theorem ringPost_tst (m source : Nat) (st : Status) (obj : Nat) (tenant : Option Nat) (data : List Byte) (s : State) :
    (ringPost m source st obj tenant data s).tst = s.tst := by
  rw [ringPost_shape m source st obj tenant data s]
@[simp] theorem ringPost_mdl (m source : Nat) (st : Status) (obj : Nat) (tenant : Option Nat) (data : List Byte) (s : State) :
    (ringPost m source st obj tenant data s).mdl = s.mdl := by
  rw [ringPost_shape m source st obj tenant data s]

@[simp] theorem postEvent_pending (source : Nat) (st : Status) (obj : Nat) (tenant : Option Nat) (data : List Byte) (s : State) :
    (postEvent source st obj tenant data s).pending = s.pending := by
  rw [postEvent_shape source st obj tenant data s]
@[simp] theorem postEvent_free (source : Nat) (st : Status) (obj : Nat) (tenant : Option Nat) (data : List Byte) (s : State) :
    (postEvent source st obj tenant data s).free = s.free := by
  rw [postEvent_shape source st obj tenant data s]
@[simp] theorem postEvent_mem (source : Nat) (st : Status) (obj : Nat) (tenant : Option Nat) (data : List Byte) (s : State) :
    (postEvent source st obj tenant data s).mem = s.mem := by
  rw [postEvent_shape source st obj tenant data s]
@[simp] theorem postEvent_undef (source : Nat) (st : Status) (obj : Nat) (tenant : Option Nat) (data : List Byte) (s : State) :
    (postEvent source st obj tenant data s).undef = s.undef := by
  rw [postEvent_shape source st obj tenant data s]
@[simp] theorem postEvent_win (source : Nat) (st : Status) (obj : Nat) (tenant : Option Nat) (data : List Byte) (s : State) :
    (postEvent source st obj tenant data s).win = s.win := by
  rw [postEvent_shape source st obj tenant data s]
@[simp] theorem postEvent_latch (source : Nat) (st : Status) (obj : Nat) (tenant : Option Nat) (data : List Byte) (s : State) :
    (postEvent source st obj tenant data s).latch = s.latch := by
  rw [postEvent_shape source st obj tenant data s]
@[simp] theorem postEvent_pairLow (source : Nat) (st : Status) (obj : Nat) (tenant : Option Nat) (data : List Byte) (s : State) :
    (postEvent source st obj tenant data s).pairLow = s.pairLow := by
  rw [postEvent_shape source st obj tenant data s]
@[simp] theorem postEvent_pkg (source : Nat) (st : Status) (obj : Nat) (tenant : Option Nat) (data : List Byte) (s : State) :
    (postEvent source st obj tenant data s).pkg = s.pkg := by
  rw [postEvent_shape source st obj tenant data s]
@[simp] theorem postEvent_frm (source : Nat) (st : Status) (obj : Nat) (tenant : Option Nat) (data : List Byte) (s : State) :
    (postEvent source st obj tenant data s).frm = s.frm := by
  rw [postEvent_shape source st obj tenant data s]
@[simp] theorem postEvent_spn (source : Nat) (st : Status) (obj : Nat) (tenant : Option Nat) (data : List Byte) (s : State) :
    (postEvent source st obj tenant data s).spn = s.spn := by
  rw [postEvent_shape source st obj tenant data s]
@[simp] theorem postEvent_vec (source : Nat) (st : Status) (obj : Nat) (tenant : Option Nat) (data : List Byte) (s : State) :
    (postEvent source st obj tenant data s).vec = s.vec := by
  rw [postEvent_shape source st obj tenant data s]
@[simp] theorem postEvent_hnk (source : Nat) (st : Status) (obj : Nat) (tenant : Option Nat) (data : List Byte) (s : State) :
    (postEvent source st obj tenant data s).hnk = s.hnk := by
  rw [postEvent_shape source st obj tenant data s]
@[simp] theorem postEvent_vis (source : Nat) (st : Status) (obj : Nat) (tenant : Option Nat) (data : List Byte) (s : State) :
    (postEvent source st obj tenant data s).vis = s.vis := by
  rw [postEvent_shape source st obj tenant data s]
@[simp] theorem postEvent_bob (source : Nat) (st : Status) (obj : Nat) (tenant : Option Nat) (data : List Byte) (s : State) :
    (postEvent source st obj tenant data s).bob = s.bob := by
  rw [postEvent_shape source st obj tenant data s]
@[simp] theorem postEvent_opt (source : Nat) (st : Status) (obj : Nat) (tenant : Option Nat) (data : List Byte) (s : State) :
    (postEvent source st obj tenant data s).opt = s.opt := by
  rw [postEvent_shape source st obj tenant data s]
@[simp] theorem postEvent_fab (source : Nat) (st : Status) (obj : Nat) (tenant : Option Nat) (data : List Byte) (s : State) :
    (postEvent source st obj tenant data s).fab = s.fab := by
  rw [postEvent_shape source st obj tenant data s]
@[simp] theorem postEvent_top (source : Nat) (st : Status) (obj : Nat) (tenant : Option Nat) (data : List Byte) (s : State) :
    (postEvent source st obj tenant data s).top = s.top := by
  rw [postEvent_shape source st obj tenant data s]
@[simp] theorem postEvent_skn (source : Nat) (st : Status) (obj : Nat) (tenant : Option Nat) (data : List Byte) (s : State) :
    (postEvent source st obj tenant data s).skn = s.skn := by
  rw [postEvent_shape source st obj tenant data s]
@[simp] theorem postEvent_pwr (source : Nat) (st : Status) (obj : Nat) (tenant : Option Nat) (data : List Byte) (s : State) :
    (postEvent source st obj tenant data s).pwr = s.pwr := by
  rw [postEvent_shape source st obj tenant data s]
@[simp] theorem postEvent_thm (source : Nat) (st : Status) (obj : Nat) (tenant : Option Nat) (data : List Byte) (s : State) :
    (postEvent source st obj tenant data s).thm = s.thm := by
  rw [postEvent_shape source st obj tenant data s]
@[simp] theorem postEvent_res (source : Nat) (st : Status) (obj : Nat) (tenant : Option Nat) (data : List Byte) (s : State) :
    (postEvent source st obj tenant data s).res = s.res := by
  rw [postEvent_shape source st obj tenant data s]
@[simp] theorem postEvent_sec (source : Nat) (st : Status) (obj : Nat) (tenant : Option Nat) (data : List Byte) (s : State) :
    (postEvent source st obj tenant data s).sec = s.sec := by
  rw [postEvent_shape source st obj tenant data s]
@[simp] theorem postEvent_tst (source : Nat) (st : Status) (obj : Nat) (tenant : Option Nat) (data : List Byte) (s : State) :
    (postEvent source st obj tenant data s).tst = s.tst := by
  rw [postEvent_shape source st obj tenant data s]
@[simp] theorem postEvent_mdl (source : Nat) (st : Status) (obj : Nat) (tenant : Option Nat) (data : List Byte) (s : State) :
    (postEvent source st obj tenant data s).mdl = s.mdl := by
  rw [postEvent_shape source st obj tenant data s]

@[simp] theorem levelPost_pending (l : Levels) (s : State) :
    (levelPost l s).pending = s.pending := by
  rw [levelPost_shape l s]
@[simp] theorem levelPost_free (l : Levels) (s : State) :
    (levelPost l s).free = s.free := by
  rw [levelPost_shape l s]
@[simp] theorem levelPost_mem (l : Levels) (s : State) :
    (levelPost l s).mem = s.mem := by
  rw [levelPost_shape l s]
@[simp] theorem levelPost_undef (l : Levels) (s : State) :
    (levelPost l s).undef = s.undef := by
  rw [levelPost_shape l s]
@[simp] theorem levelPost_win (l : Levels) (s : State) :
    (levelPost l s).win = s.win := by
  rw [levelPost_shape l s]
@[simp] theorem levelPost_latch (l : Levels) (s : State) :
    (levelPost l s).latch = s.latch := by
  rw [levelPost_shape l s]
@[simp] theorem levelPost_pairLow (l : Levels) (s : State) :
    (levelPost l s).pairLow = s.pairLow := by
  rw [levelPost_shape l s]
@[simp] theorem levelPost_pkg (l : Levels) (s : State) :
    (levelPost l s).pkg = s.pkg := by
  rw [levelPost_shape l s]
@[simp] theorem levelPost_frm (l : Levels) (s : State) :
    (levelPost l s).frm = s.frm := by
  rw [levelPost_shape l s]
@[simp] theorem levelPost_spn (l : Levels) (s : State) :
    (levelPost l s).spn = s.spn := by
  rw [levelPost_shape l s]
@[simp] theorem levelPost_vec (l : Levels) (s : State) :
    (levelPost l s).vec = s.vec := by
  rw [levelPost_shape l s]
@[simp] theorem levelPost_hnk (l : Levels) (s : State) :
    (levelPost l s).hnk = s.hnk := by
  rw [levelPost_shape l s]
@[simp] theorem levelPost_vis (l : Levels) (s : State) :
    (levelPost l s).vis = s.vis := by
  rw [levelPost_shape l s]
@[simp] theorem levelPost_bob (l : Levels) (s : State) :
    (levelPost l s).bob = s.bob := by
  rw [levelPost_shape l s]
@[simp] theorem levelPost_opt (l : Levels) (s : State) :
    (levelPost l s).opt = s.opt := by
  rw [levelPost_shape l s]
@[simp] theorem levelPost_fab (l : Levels) (s : State) :
    (levelPost l s).fab = s.fab := by
  rw [levelPost_shape l s]
@[simp] theorem levelPost_top (l : Levels) (s : State) :
    (levelPost l s).top = s.top := by
  rw [levelPost_shape l s]
@[simp] theorem levelPost_skn (l : Levels) (s : State) :
    (levelPost l s).skn = s.skn := by
  rw [levelPost_shape l s]
@[simp] theorem levelPost_pwr (l : Levels) (s : State) :
    (levelPost l s).pwr = s.pwr := by
  rw [levelPost_shape l s]
@[simp] theorem levelPost_thm (l : Levels) (s : State) :
    (levelPost l s).thm = s.thm := by
  rw [levelPost_shape l s]
@[simp] theorem levelPost_res (l : Levels) (s : State) :
    (levelPost l s).res = s.res := by
  rw [levelPost_shape l s]
@[simp] theorem levelPost_sec (l : Levels) (s : State) :
    (levelPost l s).sec = s.sec := by
  rw [levelPost_shape l s]
@[simp] theorem levelPost_tst (l : Levels) (s : State) :
    (levelPost l s).tst = s.tst := by
  rw [levelPost_shape l s]
@[simp] theorem levelPost_mdl (l : Levels) (s : State) :
    (levelPost l s).mdl = s.mdl := by
  rw [levelPost_shape l s]

@[simp] theorem escalate_pending (l : Levels) (s : State) (h : l.l4 = false) :
    (escalate l s).pending = s.pending := by
  rw [escalate_shape l s h]
@[simp] theorem escalate_free (l : Levels) (s : State) (h : l.l4 = false) :
    (escalate l s).free = s.free := by
  rw [escalate_shape l s h]
@[simp] theorem escalate_mem (l : Levels) (s : State) (h : l.l4 = false) :
    (escalate l s).mem = s.mem := by
  rw [escalate_shape l s h]
@[simp] theorem escalate_undef (l : Levels) (s : State) (h : l.l4 = false) :
    (escalate l s).undef = s.undef := by
  rw [escalate_shape l s h]
@[simp] theorem escalate_win (l : Levels) (s : State) (h : l.l4 = false) :
    (escalate l s).win = s.win := by
  rw [escalate_shape l s h]
@[simp] theorem escalate_latch (l : Levels) (s : State) (h : l.l4 = false) :
    (escalate l s).latch = s.latch := by
  rw [escalate_shape l s h]
@[simp] theorem escalate_pairLow (l : Levels) (s : State) (h : l.l4 = false) :
    (escalate l s).pairLow = s.pairLow := by
  rw [escalate_shape l s h]
@[simp] theorem escalate_pkg (l : Levels) (s : State) (h : l.l4 = false) :
    (escalate l s).pkg = s.pkg := by
  rw [escalate_shape l s h]
@[simp] theorem escalate_frm (l : Levels) (s : State) (h : l.l4 = false) :
    (escalate l s).frm = s.frm := by
  rw [escalate_shape l s h]
@[simp] theorem escalate_spn (l : Levels) (s : State) (h : l.l4 = false) :
    (escalate l s).spn = s.spn := by
  rw [escalate_shape l s h]
@[simp] theorem escalate_vec (l : Levels) (s : State) (h : l.l4 = false) :
    (escalate l s).vec = s.vec := by
  rw [escalate_shape l s h]
@[simp] theorem escalate_hnk (l : Levels) (s : State) (h : l.l4 = false) :
    (escalate l s).hnk = s.hnk := by
  rw [escalate_shape l s h]
@[simp] theorem escalate_vis (l : Levels) (s : State) (h : l.l4 = false) :
    (escalate l s).vis = s.vis := by
  rw [escalate_shape l s h]
@[simp] theorem escalate_bob (l : Levels) (s : State) (h : l.l4 = false) :
    (escalate l s).bob = s.bob := by
  rw [escalate_shape l s h]
@[simp] theorem escalate_opt (l : Levels) (s : State) (h : l.l4 = false) :
    (escalate l s).opt = s.opt := by
  rw [escalate_shape l s h]
@[simp] theorem escalate_fab (l : Levels) (s : State) (h : l.l4 = false) :
    (escalate l s).fab = s.fab := by
  rw [escalate_shape l s h]
@[simp] theorem escalate_top (l : Levels) (s : State) (h : l.l4 = false) :
    (escalate l s).top = s.top := by
  rw [escalate_shape l s h]
@[simp] theorem escalate_skn (l : Levels) (s : State) (h : l.l4 = false) :
    (escalate l s).skn = s.skn := by
  rw [escalate_shape l s h]
@[simp] theorem escalate_pwr (l : Levels) (s : State) (h : l.l4 = false) :
    (escalate l s).pwr = s.pwr := by
  rw [escalate_shape l s h]
@[simp] theorem escalate_thm (l : Levels) (s : State) (h : l.l4 = false) :
    (escalate l s).thm = s.thm := by
  rw [escalate_shape l s h]
@[simp] theorem escalate_sec (l : Levels) (s : State) (h : l.l4 = false) :
    (escalate l s).sec = s.sec := by
  rw [escalate_shape l s h]
@[simp] theorem escalate_tst (l : Levels) (s : State) (h : l.l4 = false) :
    (escalate l s).tst = s.tst := by
  rw [escalate_shape l s h]
@[simp] theorem escalate_mdl (l : Levels) (s : State) (h : l.l4 = false) :
    (escalate l s).mdl = s.mdl := by
  rw [escalate_shape l s h]

@[simp] theorem completeMbx_pending (m : Nat) (st : Status) (d : Nat) (fs : List Byte) (s : State) :
    (completeMbx m st d fs s).pending = s.pending := by
  rw [completeMbx_shape m st d fs s]
@[simp] theorem completeMbx_free (m : Nat) (st : Status) (d : Nat) (fs : List Byte) (s : State) :
    (completeMbx m st d fs s).free = s.free := by
  rw [completeMbx_shape m st d fs s]
@[simp] theorem completeMbx_mem (m : Nat) (st : Status) (d : Nat) (fs : List Byte) (s : State) :
    (completeMbx m st d fs s).mem = s.mem := by
  rw [completeMbx_shape m st d fs s]
@[simp] theorem completeMbx_undef (m : Nat) (st : Status) (d : Nat) (fs : List Byte) (s : State) :
    (completeMbx m st d fs s).undef = s.undef := by
  rw [completeMbx_shape m st d fs s]
@[simp] theorem completeMbx_win (m : Nat) (st : Status) (d : Nat) (fs : List Byte) (s : State) :
    (completeMbx m st d fs s).win = s.win := by
  rw [completeMbx_shape m st d fs s]
@[simp] theorem completeMbx_latch (m : Nat) (st : Status) (d : Nat) (fs : List Byte) (s : State) :
    (completeMbx m st d fs s).latch = s.latch := by
  rw [completeMbx_shape m st d fs s]
@[simp] theorem completeMbx_pairLow (m : Nat) (st : Status) (d : Nat) (fs : List Byte) (s : State) :
    (completeMbx m st d fs s).pairLow = s.pairLow := by
  rw [completeMbx_shape m st d fs s]
@[simp] theorem completeMbx_pkg (m : Nat) (st : Status) (d : Nat) (fs : List Byte) (s : State) :
    (completeMbx m st d fs s).pkg = s.pkg := by
  rw [completeMbx_shape m st d fs s]
@[simp] theorem completeMbx_frm (m : Nat) (st : Status) (d : Nat) (fs : List Byte) (s : State) :
    (completeMbx m st d fs s).frm = s.frm := by
  rw [completeMbx_shape m st d fs s]
@[simp] theorem completeMbx_spn (m : Nat) (st : Status) (d : Nat) (fs : List Byte) (s : State) :
    (completeMbx m st d fs s).spn = s.spn := by
  rw [completeMbx_shape m st d fs s]
@[simp] theorem completeMbx_vec (m : Nat) (st : Status) (d : Nat) (fs : List Byte) (s : State) :
    (completeMbx m st d fs s).vec = s.vec := by
  rw [completeMbx_shape m st d fs s]
@[simp] theorem completeMbx_hnk (m : Nat) (st : Status) (d : Nat) (fs : List Byte) (s : State) :
    (completeMbx m st d fs s).hnk = s.hnk := by
  rw [completeMbx_shape m st d fs s]
@[simp] theorem completeMbx_vis (m : Nat) (st : Status) (d : Nat) (fs : List Byte) (s : State) :
    (completeMbx m st d fs s).vis = s.vis := by
  rw [completeMbx_shape m st d fs s]
@[simp] theorem completeMbx_bob (m : Nat) (st : Status) (d : Nat) (fs : List Byte) (s : State) :
    (completeMbx m st d fs s).bob = s.bob := by
  rw [completeMbx_shape m st d fs s]
@[simp] theorem completeMbx_opt (m : Nat) (st : Status) (d : Nat) (fs : List Byte) (s : State) :
    (completeMbx m st d fs s).opt = s.opt := by
  rw [completeMbx_shape m st d fs s]
@[simp] theorem completeMbx_fab (m : Nat) (st : Status) (d : Nat) (fs : List Byte) (s : State) :
    (completeMbx m st d fs s).fab = s.fab := by
  rw [completeMbx_shape m st d fs s]
@[simp] theorem completeMbx_top (m : Nat) (st : Status) (d : Nat) (fs : List Byte) (s : State) :
    (completeMbx m st d fs s).top = s.top := by
  rw [completeMbx_shape m st d fs s]
@[simp] theorem completeMbx_skn (m : Nat) (st : Status) (d : Nat) (fs : List Byte) (s : State) :
    (completeMbx m st d fs s).skn = s.skn := by
  rw [completeMbx_shape m st d fs s]
@[simp] theorem completeMbx_pwr (m : Nat) (st : Status) (d : Nat) (fs : List Byte) (s : State) :
    (completeMbx m st d fs s).pwr = s.pwr := by
  rw [completeMbx_shape m st d fs s]
@[simp] theorem completeMbx_thm (m : Nat) (st : Status) (d : Nat) (fs : List Byte) (s : State) :
    (completeMbx m st d fs s).thm = s.thm := by
  rw [completeMbx_shape m st d fs s]
@[simp] theorem completeMbx_res (m : Nat) (st : Status) (d : Nat) (fs : List Byte) (s : State) :
    (completeMbx m st d fs s).res = s.res := by
  rw [completeMbx_shape m st d fs s]
@[simp] theorem completeMbx_sec (m : Nat) (st : Status) (d : Nat) (fs : List Byte) (s : State) :
    (completeMbx m st d fs s).sec = s.sec := by
  rw [completeMbx_shape m st d fs s]
@[simp] theorem completeMbx_tst (m : Nat) (st : Status) (d : Nat) (fs : List Byte) (s : State) :
    (completeMbx m st d fs s).tst = s.tst := by
  rw [completeMbx_shape m st d fs s]
@[simp] theorem completeMbx_mdl (m : Nat) (st : Status) (d : Nat) (fs : List Byte) (s : State) :
    (completeMbx m st d fs s).mdl = s.mdl := by
  rw [completeMbx_shape m st d fs s]

@[simp] theorem endCommand_pending (tag : Nat) (st : Status) (v d : Nat) (s : State) :
    (endCommand tag st v d s).pending = s.pending := by
  rw [endCommand_shape tag st v d s]
@[simp] theorem endCommand_free (tag : Nat) (st : Status) (v d : Nat) (s : State) :
    (endCommand tag st v d s).free = s.free := by
  rw [endCommand_shape tag st v d s]
@[simp] theorem endCommand_out (tag : Nat) (st : Status) (v d : Nat) (s : State) :
    (endCommand tag st v d s).out = s.out := by
  rw [endCommand_shape tag st v d s]
@[simp] theorem endCommand_mem (tag : Nat) (st : Status) (v d : Nat) (s : State) :
    (endCommand tag st v d s).mem = s.mem := by
  rw [endCommand_shape tag st v d s]
@[simp] theorem endCommand_undef (tag : Nat) (st : Status) (v d : Nat) (s : State) :
    (endCommand tag st v d s).undef = s.undef := by
  rw [endCommand_shape tag st v d s]
@[simp] theorem endCommand_win (tag : Nat) (st : Status) (v d : Nat) (s : State) :
    (endCommand tag st v d s).win = s.win := by
  rw [endCommand_shape tag st v d s]
@[simp] theorem endCommand_latch (tag : Nat) (st : Status) (v d : Nat) (s : State) :
    (endCommand tag st v d s).latch = s.latch := by
  rw [endCommand_shape tag st v d s]
@[simp] theorem endCommand_pairLow (tag : Nat) (st : Status) (v d : Nat) (s : State) :
    (endCommand tag st v d s).pairLow = s.pairLow := by
  rw [endCommand_shape tag st v d s]
@[simp] theorem endCommand_pkg (tag : Nat) (st : Status) (v d : Nat) (s : State) :
    (endCommand tag st v d s).pkg = s.pkg := by
  rw [endCommand_shape tag st v d s]
@[simp] theorem endCommand_frm (tag : Nat) (st : Status) (v d : Nat) (s : State) :
    (endCommand tag st v d s).frm = s.frm := by
  rw [endCommand_shape tag st v d s]
@[simp] theorem endCommand_spn (tag : Nat) (st : Status) (v d : Nat) (s : State) :
    (endCommand tag st v d s).spn = s.spn := by
  rw [endCommand_shape tag st v d s]
@[simp] theorem endCommand_vec (tag : Nat) (st : Status) (v d : Nat) (s : State) :
    (endCommand tag st v d s).vec = s.vec := by
  rw [endCommand_shape tag st v d s]
@[simp] theorem endCommand_hnk (tag : Nat) (st : Status) (v d : Nat) (s : State) :
    (endCommand tag st v d s).hnk = s.hnk := by
  rw [endCommand_shape tag st v d s]
@[simp] theorem endCommand_vis (tag : Nat) (st : Status) (v d : Nat) (s : State) :
    (endCommand tag st v d s).vis = s.vis := by
  rw [endCommand_shape tag st v d s]
@[simp] theorem endCommand_hp (tag : Nat) (st : Status) (v d : Nat) (s : State) :
    (endCommand tag st v d s).hp = s.hp := by
  rw [endCommand_shape tag st v d s]
@[simp] theorem endCommand_fly (tag : Nat) (st : Status) (v d : Nat) (s : State) :
    (endCommand tag st v d s).fly = s.fly := by
  rw [endCommand_shape tag st v d s]
@[simp] theorem endCommand_opt (tag : Nat) (st : Status) (v d : Nat) (s : State) :
    (endCommand tag st v d s).opt = s.opt := by
  rw [endCommand_shape tag st v d s]
@[simp] theorem endCommand_fab (tag : Nat) (st : Status) (v d : Nat) (s : State) :
    (endCommand tag st v d s).fab = s.fab := by
  rw [endCommand_shape tag st v d s]
@[simp] theorem endCommand_top (tag : Nat) (st : Status) (v d : Nat) (s : State) :
    (endCommand tag st v d s).top = s.top := by
  rw [endCommand_shape tag st v d s]
@[simp] theorem endCommand_skn (tag : Nat) (st : Status) (v d : Nat) (s : State) :
    (endCommand tag st v d s).skn = s.skn := by
  rw [endCommand_shape tag st v d s]
@[simp] theorem endCommand_pwr (tag : Nat) (st : Status) (v d : Nat) (s : State) :
    (endCommand tag st v d s).pwr = s.pwr := by
  rw [endCommand_shape tag st v d s]
@[simp] theorem endCommand_thm (tag : Nat) (st : Status) (v d : Nat) (s : State) :
    (endCommand tag st v d s).thm = s.thm := by
  rw [endCommand_shape tag st v d s]
@[simp] theorem endCommand_res (tag : Nat) (st : Status) (v d : Nat) (s : State) :
    (endCommand tag st v d s).res = s.res := by
  rw [endCommand_shape tag st v d s]
@[simp] theorem endCommand_sec (tag : Nat) (st : Status) (v d : Nat) (s : State) :
    (endCommand tag st v d s).sec = s.sec := by
  rw [endCommand_shape tag st v d s]
@[simp] theorem endCommand_tst (tag : Nat) (st : Status) (v d : Nat) (s : State) :
    (endCommand tag st v d s).tst = s.tst := by
  rw [endCommand_shape tag st v d s]
@[simp] theorem endCommand_mdl (tag : Nat) (st : Status) (v d : Nat) (s : State) :
    (endCommand tag st v d s).mdl = s.mdl := by
  rw [endCommand_shape tag st v d s]

@[simp] theorem clientError_pending (c : Client) (st : Status) (s : State) :
    (clientError c st s).pending = s.pending := by
  rw [clientError_shape c st s]
@[simp] theorem clientError_free (c : Client) (st : Status) (s : State) :
    (clientError c st s).free = s.free := by
  rw [clientError_shape c st s]
@[simp] theorem clientError_out (c : Client) (st : Status) (s : State) :
    (clientError c st s).out = s.out := by
  rw [clientError_shape c st s]
@[simp] theorem clientError_mem (c : Client) (st : Status) (s : State) :
    (clientError c st s).mem = s.mem := by
  rw [clientError_shape c st s]
@[simp] theorem clientError_undef (c : Client) (st : Status) (s : State) :
    (clientError c st s).undef = s.undef := by
  rw [clientError_shape c st s]
@[simp] theorem clientError_win (c : Client) (st : Status) (s : State) :
    (clientError c st s).win = s.win := by
  rw [clientError_shape c st s]
@[simp] theorem clientError_latch (c : Client) (st : Status) (s : State) :
    (clientError c st s).latch = s.latch := by
  rw [clientError_shape c st s]
@[simp] theorem clientError_pairLow (c : Client) (st : Status) (s : State) :
    (clientError c st s).pairLow = s.pairLow := by
  rw [clientError_shape c st s]
@[simp] theorem clientError_pkg (c : Client) (st : Status) (s : State) :
    (clientError c st s).pkg = s.pkg := by
  rw [clientError_shape c st s]
@[simp] theorem clientError_spn (c : Client) (st : Status) (s : State) :
    (clientError c st s).spn = s.spn := by
  rw [clientError_shape c st s]
@[simp] theorem clientError_vec (c : Client) (st : Status) (s : State) :
    (clientError c st s).vec = s.vec := by
  rw [clientError_shape c st s]
@[simp] theorem clientError_hnk (c : Client) (st : Status) (s : State) :
    (clientError c st s).hnk = s.hnk := by
  rw [clientError_shape c st s]
@[simp] theorem clientError_vis (c : Client) (st : Status) (s : State) :
    (clientError c st s).vis = s.vis := by
  rw [clientError_shape c st s]
@[simp] theorem clientError_hp (c : Client) (st : Status) (s : State) :
    (clientError c st s).hp = s.hp := by
  rw [clientError_shape c st s]
@[simp] theorem clientError_fly (c : Client) (st : Status) (s : State) :
    (clientError c st s).fly = s.fly := by
  rw [clientError_shape c st s]
@[simp] theorem clientError_opt (c : Client) (st : Status) (s : State) :
    (clientError c st s).opt = s.opt := by
  rw [clientError_shape c st s]
@[simp] theorem clientError_fab (c : Client) (st : Status) (s : State) :
    (clientError c st s).fab = s.fab := by
  rw [clientError_shape c st s]
@[simp] theorem clientError_top (c : Client) (st : Status) (s : State) :
    (clientError c st s).top = s.top := by
  rw [clientError_shape c st s]
@[simp] theorem clientError_skn (c : Client) (st : Status) (s : State) :
    (clientError c st s).skn = s.skn := by
  rw [clientError_shape c st s]
@[simp] theorem clientError_pwr (c : Client) (st : Status) (s : State) :
    (clientError c st s).pwr = s.pwr := by
  rw [clientError_shape c st s]
@[simp] theorem clientError_thm (c : Client) (st : Status) (s : State) :
    (clientError c st s).thm = s.thm := by
  rw [clientError_shape c st s]
@[simp] theorem clientError_res (c : Client) (st : Status) (s : State) :
    (clientError c st s).res = s.res := by
  rw [clientError_shape c st s]
@[simp] theorem clientError_sec (c : Client) (st : Status) (s : State) :
    (clientError c st s).sec = s.sec := by
  rw [clientError_shape c st s]
@[simp] theorem clientError_tst (c : Client) (st : Status) (s : State) :
    (clientError c st s).tst = s.tst := by
  rw [clientError_shape c st s]
@[simp] theorem clientError_mdl (c : Client) (st : Status) (s : State) :
    (clientError c st s).mdl = s.mdl := by
  rw [clientError_shape c st s]

@[simp] theorem winBump_pending (row sub obj : Nat) (s : State) : (winBump row sub obj s).pending = s.pending := rfl
@[simp] theorem winBump_free (row sub obj : Nat) (s : State) : (winBump row sub obj s).free = s.free := rfl
@[simp] theorem winBump_out (row sub obj : Nat) (s : State) : (winBump row sub obj s).out = s.out := rfl
@[simp] theorem winBump_mem (row sub obj : Nat) (s : State) : (winBump row sub obj s).mem = s.mem := rfl
@[simp] theorem winBump_undef (row sub obj : Nat) (s : State) : (winBump row sub obj s).undef = s.undef := rfl
@[simp] theorem winBump_latch (row sub obj : Nat) (s : State) : (winBump row sub obj s).latch = s.latch := rfl
@[simp] theorem winBump_pairLow (row sub obj : Nat) (s : State) : (winBump row sub obj s).pairLow = s.pairLow := rfl
@[simp] theorem winBump_pkg (row sub obj : Nat) (s : State) : (winBump row sub obj s).pkg = s.pkg := rfl
@[simp] theorem winBump_frm (row sub obj : Nat) (s : State) : (winBump row sub obj s).frm = s.frm := rfl
@[simp] theorem winBump_spn (row sub obj : Nat) (s : State) : (winBump row sub obj s).spn = s.spn := rfl
@[simp] theorem winBump_vec (row sub obj : Nat) (s : State) : (winBump row sub obj s).vec = s.vec := rfl
@[simp] theorem winBump_hnk (row sub obj : Nat) (s : State) : (winBump row sub obj s).hnk = s.hnk := rfl
@[simp] theorem winBump_vis (row sub obj : Nat) (s : State) : (winBump row sub obj s).vis = s.vis := rfl
@[simp] theorem winBump_bob (row sub obj : Nat) (s : State) : (winBump row sub obj s).bob = s.bob := rfl
@[simp] theorem winBump_hp (row sub obj : Nat) (s : State) : (winBump row sub obj s).hp = s.hp := rfl
@[simp] theorem winBump_fly (row sub obj : Nat) (s : State) : (winBump row sub obj s).fly = s.fly := rfl
@[simp] theorem winBump_opt (row sub obj : Nat) (s : State) : (winBump row sub obj s).opt = s.opt := rfl
@[simp] theorem winBump_fab (row sub obj : Nat) (s : State) : (winBump row sub obj s).fab = s.fab := rfl
@[simp] theorem winBump_top (row sub obj : Nat) (s : State) : (winBump row sub obj s).top = s.top := rfl
@[simp] theorem winBump_skn (row sub obj : Nat) (s : State) : (winBump row sub obj s).skn = s.skn := rfl
@[simp] theorem winBump_pwr (row sub obj : Nat) (s : State) : (winBump row sub obj s).pwr = s.pwr := rfl
@[simp] theorem winBump_thm (row sub obj : Nat) (s : State) : (winBump row sub obj s).thm = s.thm := rfl
@[simp] theorem winBump_res (row sub obj : Nat) (s : State) : (winBump row sub obj s).res = s.res := rfl
@[simp] theorem winBump_sec (row sub obj : Nat) (s : State) : (winBump row sub obj s).sec = s.sec := rfl
@[simp] theorem winBump_tst (row sub obj : Nat) (s : State) : (winBump row sub obj s).tst = s.tst := rfl
@[simp] theorem winBump_mdl (row sub obj : Nat) (s : State) : (winBump row sub obj s).mdl = s.mdl := rfl

/-! ### Commands of mailboxes -/

/-- A mailbox command in turn, not cancelled and admitted, runs with its request, one step further. -/
theorem casbomi_inTurn {s : State} {code m : Nat} {r : MbxReq} (f : MbxReq → State → State)
    (h : mayStep s code m = some r) (hc : (s.mbxAt m).cancelReq = false) (ha : notAdmitted s code = false) :
    casbomi code m f s = f r (countStep m s) := by
  simp only [casbomi, h, hc, ha, Bool.false_eq_true, if_false]

@[simp] theorem countStep_mem (m : Nat) (s : State) : (countStep m s).mem = s.mem := by
  unfold countStep takeTurn; dsimp only; split <;> rfl
@[simp] theorem countStep_pkg (m : Nat) (s : State) : (countStep m s).pkg = s.pkg := by
  unfold countStep takeTurn; dsimp only; split <;> rfl
@[simp] theorem countStep_vec (m : Nat) (s : State) : (countStep m s).vec = s.vec := by
  unfold countStep takeTurn; dsimp only; split <;> rfl
@[simp] theorem countStep_vis (m : Nat) (s : State) : (countStep m s).vis = s.vis := by
  unfold countStep takeTurn; dsimp only; split <;> rfl
@[simp] theorem countStep_hnk (m : Nat) (s : State) : (countStep m s).hnk = s.hnk := by
  unfold countStep takeTurn; dsimp only; split <;> rfl
@[simp] theorem countStep_bob (m : Nat) (s : State) : (countStep m s).bob = s.bob := by
  unfold countStep takeTurn; dsimp only; split <;> rfl
@[simp] theorem countStep_hp (m : Nat) (s : State) : (countStep m s).hp = s.hp := by
  unfold countStep takeTurn; dsimp only; split <;> rfl
@[simp] theorem countStep_frm (m : Nat) (s : State) : (countStep m s).frm = s.frm := by
  unfold countStep takeTurn; dsimp only; split <;> rfl
@[simp] theorem countStep_res (m : Nat) (s : State) : (countStep m s).res = s.res := by
  unfold countStep takeTurn; dsimp only; split <;> rfl
@[simp] theorem countStep_top (m : Nat) (s : State) : (countStep m s).top = s.top := by
  unfold countStep takeTurn; dsimp only; split <;> rfl
@[simp] theorem countStep_fab (m : Nat) (s : State) : (countStep m s).fab = s.fab := by
  unfold countStep takeTurn; dsimp only; split <;> rfl
@[simp] theorem countStep_opt (m : Nat) (s : State) : (countStep m s).opt = s.opt := by
  unfold countStep takeTurn; dsimp only; split <;> rfl
@[simp] theorem countStep_pwr (m : Nat) (s : State) : (countStep m s).pwr = s.pwr := by
  unfold countStep takeTurn; dsimp only; split <;> rfl
@[simp] theorem countStep_thm (m : Nat) (s : State) : (countStep m s).thm = s.thm := by
  unfold countStep takeTurn; dsimp only; split <;> rfl
@[simp] theorem countStep_sec (m : Nat) (s : State) : (countStep m s).sec = s.sec := by
  unfold countStep takeTurn; dsimp only; split <;> rfl
@[simp] theorem countStep_tst (m : Nat) (s : State) : (countStep m s).tst = s.tst := by
  unfold countStep takeTurn; dsimp only; split <;> rfl
@[simp] theorem countStep_skn (m : Nat) (s : State) : (countStep m s).skn = s.skn := by
  unfold countStep takeTurn; dsimp only; split <;> rfl
@[simp] theorem countStep_win (m : Nat) (s : State) : (countStep m s).win = s.win := by
  unfold countStep takeTurn; dsimp only; split <;> rfl
@[simp] theorem countStep_undef (m : Nat) (s : State) : (countStep m s).undef = s.undef := by
  unfold countStep takeTurn; dsimp only; split <;> rfl
@[simp] theorem countStep_pending (m : Nat) (s : State) : (countStep m s).pending = s.pending := by
  unfold countStep takeTurn; dsimp only; split <;> rfl
@[simp] theorem countStep_out (m : Nat) (s : State) : (countStep m s).out = s.out := by
  unfold countStep takeTurn; dsimp only; split <;> rfl
@[simp] theorem countStep_spn (m : Nat) (s : State) : (countStep m s).spn = s.spn := by
  unfold countStep takeTurn; dsimp only; split <;> rfl
@[simp] theorem countStep_free (m : Nat) (s : State) : (countStep m s).free = s.free := by
  unfold countStep takeTurn; dsimp only; split <;> rfl

end Sys2Proof.Machine
end

