-- ==== Sys2Proof/WellFormed.lean ====
section
/-!
DEFINITION. Which commands can come from the hardware that surrounds the block: operands of the sizes and ranges that the
manual gives the blocks, lines, lanes and ranges they stand for. The meanings are total and do not depend on it.
-/

namespace Sys2Proof

/-- R136, R162: a range within the 40-bit local addresses. -/
def rangeFits (base len : Nat) : Bool :=
  base + len ≤ 2 ^ 40

/-- R136, R149: a 64-byte block of hank memory by its number. -/
def blockFits (b : Nat) : Bool :=
  b < 2 ^ 33

/-- R219: a 64-byte line of the window by its number. -/
def lineFits (l : Nat) : Bool :=
  l < 2 ^ 34

/-- R55: a step of an image of at most 64 MiB. -/
def stepFits (i : Nat) : Bool :=
  i < 2 ^ 24

/-- R23, R134: cells that have come to fail are words of the local stores and lines of hank memory. -/
def cellsFit (c : CellFaults) : Bool :=
  c.words.all (fun w => 2 ^ 36 ≤ w.1 && w.1 < 2 ^ 36 + 2 ^ 27) && c.lines.all (fun l => l.2 < 2 ^ 33)

/-- R142, R143: an access has at least one byte and brings as many as it writes. -/
def accessFits (a : MemAccess) : Bool :=
  cellsFit a.cells && 0 < a.len && rangeFits a.addr.toNat a.len && (a.write.map (·.length)).getD a.len == a.len

/-- R143: an access within one half burst. -/
def halfBlock (a : MemAccess) : Bool :=
  a.addr.toNat % 32 + a.len ≤ 32

/-- R115: a vector or scalar access names one offset and at most a sector's bytes for each lane. -/
def plyFits (a : PlyAccess) : Bool :=
  a.offs.length == 1 && 0 < a.width && a.width ≤ 64

/-- R116: a gather or scatter names an offset for each lane, and a width of 4, 8, 16 or 32 bytes to which the offset is
aligned. -/
def lanesFit (a : PlyAccess) : Bool :=
  a.offs.length == 32 && a.widths.length == 32 && a.widths.all ([4, 8, 16, 32].contains ·) &&
    (List.zipWith (fun (o : BitVec 40) w => o.toNat % w == 0) a.offs a.widths).all id

/-- R113: a local-store atomic names an offset for each lane, aligned to its operand. -/
def atomicFits (a : AtomicLanes) (wide : Bool) : Bool :=
  a.offs.length == 32 && a.offs.all fun o => o.toNat % (if wide then 8 else 4) == 0

/-- R119, R145: outside the kernels an atomic on a hank address is asked for by the flyer, the host or a remote device's
operation; a kernel names a region and an offset. -/
def atomicSrcFits : AtomicSrc → Bool
  | .unit (.vector _) _ => false
  | .unit _ _ => true
  | .ply r _ _ => stepFits r.step

/-- R223: a line that the host hands back. -/
def answerFits : SpillAnswer → Bool
  | .data bs => bs.length == 64
  | .poison | .failed => true

/-- A command with operands that the hardware can bring. -/
def Instr.wellFormed : Instr → Bool
  | .coldReset _ => true
  | .packageReset _ => true
  | .dieAnswerTimeout _ => true
  | .svnBitBlown _ => true
  | .flr => true
  | .hotReset => true
  | .inputUndervoltage => true
  | .inputLowDip => true
  | .inputHigh => true
  | .inputOvervoltage => true
  | .presentBreak => true
  | .stage1Start => true
  | .opTransitionRequest _ _ => true
  | .targetLoopLock _ => true
  | .opTransitionComplete _ => true
  | .referenceLoss => true
  | .referenceReturn => true
  | .holdoverExpiry => true
  | .loopLossOfLock _ => true
  | .relockComplete _ => true
  | .flitCrcFail _ => true
  | .d2dRetrainStart _ => true
  | .d2dRetrainComplete _ => true
  | .tick _ p => p.length == 32
  | .frameBegin _ => true
  | .holdPoint _ _ => true
  | .stepChoice => true
  | .supplementaryReply _ => true
  | .tickReply _ p => p.length == 24
  | .replyDeadline => true
  | .tickEmit => true
  | .whorlTakeover => true
  | .drainComplete => true
  | .stepComplete i => stepFits i
  | .syncRelease e => e < 2 ^ 32
  | .nmx2Barrier i => stepFits i
  | .matmul i _ es => stepFits i && es.all fun e => e.outputs.all fun o => o.1 < 2 ^ 16 && o.2 < 2 ^ 16
  | .kernel i => stepFits i
  | .attend a => stepFits a.step && cellsFit a.cells
  | .merge a => stepFits a.step && cellsFit a.cells
  | .xfer i => stepFits i
  | .allReduce i => stepFits i
  | .reduceScatter i => stepFits i
  | .allGather i => stepFits i
  | .post i => stepFits i
  | .flyerCopy i => stepFits i
  | .vectorLoad a => plyFits a
  | .vectorStore a => plyFits a
  | .scalarLoad a => plyFits a
  | .scalarStore a => plyFits a
  | .gather a => lanesFit a
  | .gatherEntryFree _ _ _ => true
  | .gatherDataReturn _ _ _ => true
  | .scatter a => lanesFit a
  | .localStoreAtomic _ _ a wide _ _ _ _ => atomicFits a wide
  | .hankAtomic src _ a _ _ => atomicSrcFits src && a.toNat % 8 == 0
  | .vectorArith _ => true
  | .plyReduction _ => true
  | .bsum32 _ => true
  | .release _ b n _ c => rangeFits b n && cellsFit c
  | .acquire _ b n _ c => rangeFits b n && cellsFit c
  | .streamAccess a => accessFits a
  | .narrowAccess a => accessFits a && halfBlock a
  | .wmbEntryTimeout b => blockFits b
  | .burstCrcMismatch _ ts _ => ts.all fun b => b.data.length == 64 || b.data.length == 32
  | .stackScrub b _ => blockFits b
  | .refresh _ => true
  | .rowRepair b => blockFits b
  | .rowRepairComplete => true
  | .channelActionStart => true
  | .retrainComplete _ m => m.length == 19
  | .pinRepairComplete _ m => m.length == 19
  | .stackNoAnswer _ => true
  | .thermalChannelRead _ => true
  | .orderlyStopComplete => true
  | .thermalRound => true
  | .analogTrip _ => true
  | .heaterUpdate => true
  | .memPlace _ => true
  | .loopbackGo _ _ => true
  | .loopbackDone _ _ => true
  | .hnkProbe _ => true
  | .visRlcCtrlWrite _ _ => true
  | .queuePage _ => true
  | .queueCreate _ => true
  | .queueRebind _ => true
  | .queueDestroy _ => true
  | .queueDestroyDone _ => true
  | .regionBind _ => true
  | .regionRebind _ _ => true
  | .regionFree _ _ => true
  | .regionRebindDone _ => true
  | .doorbellLowWrite _ _ => true
  | .doorbell _ _ _ => true
  | .commandSelect => true
  | .nop _ => true
  | .copy _ => true
  | .fill _ => true
  | .put _ => true
  | .get _ => true
  | .putReduce _ => true
  | .fetchAdd _ => true
  | .compareSwap _ => true
  | .signal _ => true
  | .row _ => true
  | .commandCompletion _ => true
  | .msixUnmask _ => true
  | .hostMemRead _ _ _ => true
  | .hostMemWrite _ _ d => d.length == 64
  | .birsp l d => lineFits l && (d.map (·.length)).getD 64 == 64
  | .hostSnoop _ _ => true
  | .spillAccess a => accessFits a
  | .spillFill _ a => answerFits a
  | .hostWindow _ => true
  | .hostSpill _ => true
  | .hostUnspill _ => true
  | .hdmDecoderCommit _ _ => true
  | .cacheWbInv => true
  | .cacheWbInvDone => true
  | .ideIntegrityFail _ => true
  | .linkCorrectableError => true
  | .linkRecovery => true
  | .d3hotEntry => true
  | .doeDiscovery _ => true
  | .cdatRead => true
  | .getVersion r => r.length ≤ 4096
  | .getCapabilities r => r.length ≤ 4096
  | .negotiateAlgorithms r => r.length ≤ 4096
  | .getDigests r => r.length ≤ 4096
  | .getCertificate r => r.length ≤ 4096
  | .challenge r => r.length ≤ 4096
  | .getMeasurements r => r.length ≤ 4096
  | .keyExchange r => r.length ≤ 4096
  | .finish _ _ => true
  | .heartbeat _ => true
  | .keyUpdate _ => true
  | .endSession _ => true
  | .ideKm _ _ _ => true
  | .mbxGo _ => true
  | .mbxCancel _ => true
  | .mbxAccept _ _ => true
  | .mailboxStep => true
  | .mbxEvtHeadWrite _ _ => true
  | .flyerHeartbeat => true
  | .standbyTakeover => true
  | .watchdogExpiry => true
  | .standbyLost => true
  | .flyerSramEcc _ _ => true
  | .devInfo _ => true
  | .mbxAssign _ => true
  | .devFeed _ => true
  | .resetCompute _ => true
  | .resetPackage _ => true
  | .frameLoad _ => true
  | .frameStart _ => true
  | .framePreempt _ => true
  | .frameUnload _ => true
  | .planLoad _ => true
  | .planAccept _ => true
  | .topoStatus _ => true
  | .laserStatus _ => true
  | .capSet _ => true
  | .powerStatus _ => true
  | .snapshotTake _ => true
  | .snapshotCopyDone _ => true
  | .snapshotRestore _ _ g => (g.map fun x => decide (x.tag < 2 ^ 64)).getD true
  | .buddySet _ => true
  | .buddyAssignment p => p.length == 256
  | .failFeed _ => true
  | .logRead _ => true
  | .fwUpdate _ => true
  | .attestMeasure _ => true
  | .tenantPolicy _ => true
  | .debugUnlockChallenge _ => true
  | .debugUnlockResponse _ => true
  | .debugChallengeExpiry => true
  | .testSchedule _ => true
  | .testStatus _ => true
  | .laserDriveAdjust p => p.length == 18
  | .laserFailure _ _ => true
  | .calibrationDue _ _ => true
  | .calibrationStart _ => true
  | .calibrationComplete _ => true
  | .calibrationRequest _ r => r.payload.length == 24
  | .calibrationAccept _ => true
  | .calibrationRefuse _ => true
  | .laneLoss _ _ => true
  | .dropRequest _ p => p.length == 24
  | .dropRequestRepeat _ => true
  | .mapAnnounce _ p => p.length == 24
  | .mapSwitch _ _ => true
  | .marginReport _ p => p.length == 24
  | .marginReportTimeout _ => true
  | .marginReading rs => rs.all fun r => r.1 < 64 && r.2.1 < 9 && r.2.2 < 2 ^ 16
  | .lossLocation _ _ _ => true
  | .laneRestore _ _ => true
  | .laser8Locked _ _ => true
  | .l8Trained _ _ => true
  | .mirrorVerified _ => true
  | .mirrorTimeout _ => true
  | .spareSwap _ => true
  | .optMonGo _ => true
  | .monitorReadingDone _ => true
  | .blockReceive _ b => b.length == 272
  | .replayTimeout _ => true
  | .circuitOpen _ _ p => p.length == 256
  | .circuitData _ _ p => p.length == 256
  | .circuitClose _ _ p => p.length == 256
  | .putData p _ => p.length == 256
  | .putReduceData p _ => p.length == 256
  | .getRequest p _ => p.length == 256
  | .getData p _ => p.length == 256
  | .fetchAddPacket p _ => p.length == 256
  | .compareSwapPacket p _ => p.length == 256
  | .atomicReply p _ => p.length == 256
  | .signalIncrement p _ => p.length == 256
  | .acknowledgement p _ => p.length == 256
  | .reRequest p _ => p.length == 256
  | .synchronisation p _ => p.length == 256
  | .laneNotice p _ => p.length == 256
  | .transitDeflect i => i < 2 ^ 16
  | .transitDrop i => i < 2 ^ 16
  | .rerequestTimer _ _ => true
  | .resendTimer _ => true
  | .syncResend => true
  | .hello _ p _ => p.length == 256
  | .helloSend _ _ => true
  | .neighbourTimeout _ => true
  | .neighbourLost _ => true
  | .alignment _ p => p.length == 256
  | .summary _ p => p.length == 256
  | .summaryTimeout => true
  | .summaryRefresh => true
  | .formTimeout => true
  | .form _ p => p.length == 256
  | .tickZero => true
  | .tickLoss => true
  | .collectiveChunk _ o d _ => o.length == 256 && d.length ≤ 32768
  | .creditOnly _ o => o.length == 256
  | .abortChunk _ o => o.length == 256
  | .regulatorReport _ => true
  | .budgetSend _ => true
  | .budgetMessage _ => true
  | .droopDetect _ _ => true
  | .droopRecover _ us _ => us < 2 ^ 16
  | .capReevaluation _ => true
  | .dutyGranule _ _ => true
  | .autoSnapshot => true
  | .healthRecompute _ _ _ => true
  | .logDrain => true
  | .flashError _ => true
  | .errorWindowClose _ sub key => sub < 4 && key < 2 ^ 34
  | .unitDue _ _ => true
  | .testSegment _ _ => true
  | .tstDbgGo _ => true
  | .moduleSensorRead _ => true
  | .sbRead _ => true
  | .sbCold => true
  | .sbPackage => true
  | .recoveryData _ d => d.length ≤ 240
  | .recoveryCommit _ => true
  | .regPairHighWrite _ _ => true
  | .regLowRead _ => true
  | .frmSlackMinWrite _ => true
  | .mbxAcceptMaxWrite _ => true
  | .fabCbufPeakWrite _ => true
  | .registerWrite _ _ => true
  | .strandTrained _ _ _ => true
  | .blockPosition _ _ p => p < 256
  | .stage1PeakComparator => true
  | .hostLinkTrained r w f => r ≤ 4 && [0, 4, 8, 15].contains w && f < 3
  | .d3hotExit => true
  | .computeResetComplete _ => true
  | .voltageRiseComplete _ => true
  | .clockSwitchPauseEnd _ => true

end Sys2Proof
end

