-- ==== Sys2Proof/Tests/Slice0.lean ====
section
/-!
SUPPORT. The model's own tests: small states, a witness for the premises of every obligation, ill-formed operands, the
manual's worked examples and single steps.
-/

namespace Sys2Proof.Tests

open Sys2Proof.Machine

set_option maxRecDepth 4000

/-! ### Small states -/

/-- READY, with power, firmware and BAR0. -/
def up : State :=
  State.reset.modPkg fun p => { p with powered := true, refOk := true, devState := .ready, clocksStopped := 0,
                                       flyerRuns := true, bar0Up := true, locked := 0x3F, bootCode := 0x2F }

/-- READY, a command with these parameters in turn in a host's mailbox 1. -/
def asked (code : Nat) (params : List Byte) : State :=
  { up with fly := { up.fly with
      mbx := [(1, { kind := .host, phase := .inProgress, req := some { command := code, user := 7, params := params } })],
      classQ := if cmdClass code = .none then [] else [(cmdClass code, 1)] } }

/-- A member of a formed domain with a parent on strand 3 and a child on strand 5. -/
def member : State :=
  { up with
    frm := { up.frm with role := .member, cur := { frame := 4 }, number := 4 },
    fab := { up.fab with deviceId := some 9 },
    opt := { up.opt with strand := [(3, { txOut := false, rxOut := false }), (5, { txOut := false, rxOut := false })] },
    top := { up.top with formed := true, inUse := 3, main := some { depth := 1, lat := 400 },
                         plan := some { deviceId := 9, domain := 7, domainSize := 2, parent := 3, children := 32 },
                         disc := [(3, { st := .matched, nb := .found }), (5, { st := .matched, nb := .found })] } }

/-- The whorl of a formed domain. -/
def whorl : State :=
  { up with
    frm := { up.frm with role := .whorl },
    fab := { up.fab with deviceId := some 9 },
    top := { up.top with formed := true, formSent := true,
                         plan := some { deviceId := 9, whorl := 9, domain := 7, domainSize := 1 } } }

/-- The standby of a formed domain. -/
def standby : State :=
  { whorl with frm := { whorl.frm with role := .standby } }

/-- An image of one rank and one frame that has one step, of a kind, an opcode and arguments, and these pairs. -/
def imageOf (kind opcode : Nat) (args : List Byte) (syncs : List SyncEntry) : Image :=
  { hdr := { frames := 1, ranks := 1, periodUs := 50 }, rankMap := [9], frameTable := [{ stepCount := 1 }],
    steps := [{ kind := kind, opcode := opcode, argLen := args.length }], args := args, syncs := syncs, tag := 5 }

/-- A frame of that image in progress. -/
def running (kind opcode : Nat) (args : List Byte) (syncs : List SyncEntry := []) : State :=
  { member with
    pkg := { member.pkg with devState := .running },
    frm := { member.frm with prog := .running, runFrame := true, image := some (imageOf kind opcode args syncs), past := [4] } }

/-- That frame with its step under way. -/
def stepping (kind opcode : Nat) (args : List Byte) : State :=
  (running kind opcode args).modFrm fun f => { f with ran := [0] }

/-- Region handle 2: 64 KiB of hank memory that may be read, written and run, of tenant 0. -/
def bound (s : State) : State :=
  s.modRegion 2 fun _ => { bound := true, base := 0x1000, size := 0x10000, access := 0x1F }

/-- These bytes from the region's start on. -/
def holding (bs : List Byte) (s : State) : State :=
  writeBytes 0x1000 bs (bound s)

/-! ### The premises of the obligations are met -/

/-- The premises of `Obligations.StepRunsTheFrontCommand` are met. -/
theorem witness_StepRunsTheFrontCommand :
    State.reset.pending = [] := by
  decide

/-- The premises of `Obligations.EveryStepKeepsTheCanonicalForm` are met. -/
theorem witness_EveryStepKeepsTheCanonicalForm :
    Memory.wf (holding [1, 2] up).mem = true ∧ tabWf (vget (holding [1, 2] up).vec 0).regs = true ∧
      (match step { up with pending := [.linkRecovery] } with | .next s => s.pending == [] | _ => false) = true := by
  decide

/-- The premises of `Obligations.OnlyAccessesToUnmappedAddressesStop` are met. -/
theorem witness_OnlyAccessesToUnmappedAddressesStop :
    mapped 0xFFFFFFFFFF 1 = false ∧ (isHank 0x8000000000 && mapped 0x8000000000 8) = false := by
  decide

/-- The premises of `Obligations.RepresentableNumbersAreUnchanged` are met. -/
theorem witness_RepresentableNumbersAreUnchanged :
    (match decodeNum bf16 0x3F80 with | .fin _ _ _ => true | _ => false) = true ∧ decodeNum bf16 0xFF80 = .inf true ∧
      decodeNum e4m3 0x7F = .nan ∧ 0x3F80 < 2 ^ (1 + bf16.exp + bf16.man) := by
  decide

/-- The premises of `Obligations.BlocksOfACollectivePartitionTheVector` are met. -/
theorem witness_BlocksOfACollectivePartitionTheVector :
    let a : CollArgs := collArgs (layoutBytes 0x44 [(1, 1, 2), (6, 2, 2), (8, 4, 5), (0x42, 2, 1)])
    0 < a.n ∧ a.elems ≠ 0 ∧ (ringChunks 0x10 a 0 0).length = 2 ∧ ({ a with elems := 1 } : CollArgs).elems < 2 := by
  decide

/-- The premises of `Obligations.SignatureOfACollectiveStep` are met. -/
theorem witness_SignatureOfACollectiveStep :
    let a : CollArgs := collArgs (layoutBytes 0x44 [(1, 1, 2), (4, 2, 6), (6, 2, 2), (8, 4, 5), (0x42, 2, 1)])
    a.skein < 2 ^ 16 ∧ a.redOp < 2 ^ 8 ∧ a.dtype < 2 ^ 8 ∧ a.elems < 2 ^ 32 ∧ (member.ctxAt 0).sig < 2 ^ 64 := by
  decide

/-- The premises of `Obligations.PowerEventsActAsTheManualSays` are met. -/
theorem witness_PowerEventsActAsTheManualSays :
    State.reset.pkg.powered = false ∧
    (State.reset.modPkg fun p => { p with powered := true }).pkg.powered = true ∧
    resetUnderway (State.reset.modPkg fun p => { p with powered := true }) = none := by
  decide

/-- The premises of `Obligations.DieThatDoesNotAnswerHaltsBoot` are met. -/
theorem witness_DieThatDoesNotAnswerHaltsBoot :
    let s := State.reset.modPkg fun p => { p with devState := .boot, bar0Up := true }
    s.pkg.devState = .boot ∧ s.pkg.bootCode = 0 ∧ s.pkg.bar0Up = true := by
  decide

/-- The premises of `Obligations.ResetsBootToReady` are met. -/
theorem witness_ResetsBootToReady :
    let s := State.reset.modPkg fun p => { p with powered := true, refOk := true, resetReq := some (.package, .sideband) }
    s.pkg.powered = true ∧ BootEnv.healthy {} ∧ s.bootsSlotA {} ∧ (∀ i, i < 8 → (vget s.spn i).pending = none) ∧
      s.pkg.resetReq = some (.package, .sideband) ∧ s.pkg.refOk = true := by
  unfold BootEnv.healthy State.bootsSlotA
  decide

/-- The premises of `Obligations.FunctionAndComputeResets` are met. -/
theorem witness_FunctionAndComputeResets :
    let s := State.reset.modPkg fun p => { p with computeReset := true }
    State.reset.pkg.resetReq = none ∧ State.reset.pkg.devState ≠ .boot ∧ hostReleasing State.reset = false ∧
    State.reset.hp.agent = [] ∧ State.reset.hp.spillWait = [] ∧
    s.pkg.computeReset = true ∧ s.pkg.stopInReset = none ∧
    (s.modHnk fun x => { x with selfRefresh := true }).hnk.selfRefresh = true ∧
    (State.reset.modSec fun x => { x with commit := some 3 }).sec.commit = some 3 := by
  decide

/-- The premises of `Obligations.OperatingPointChangesFollowTheirSteps` are met. -/
theorem witness_OperatingPointChangesFollowTheirSteps :
    (State.reset.opAt 1).phase = .steady ∧
    [OpPhase.upLock, .downLock, .upVolt, .upPause, .downPause, .downVolt].all (fun p =>
      let s := State.reset.modOp 1 fun o => { o with phase := p }
      (s.opAt 1).phase == p && (s.opAt 1).phase != .steady && (s.opAt 1).waiting.isNone) = true := by
  decide

/-- The premises of `Obligations.ReferenceAndLoopEvents` are met. -/
theorem witness_ReferenceAndLoopEvents :
    let s := State.reset.modPkg fun p => { p with holdover := true, relocking := 4 }
    State.reset.pkg.refOk = true ∧ s.pkg.holdover = true ∧ s.pkg.devState ≠ .failed ∧ winCount s 2 0 2 < 2 ∧
      s.pkg.relocking.getLsbD 2 = true := by
  decide

/-- The premises of `Obligations.DieToDieLinkEvents` are met. -/
theorem witness_DieToDieLinkEvents :
    let few := State.reset.modD2d 3 fun x => { x with retraining := true }
    let many := { State.reset with win := [(winKey 1 0 3, 15), (winKey 1 1 3, 2)],
                                   pkg := { State.reset.pkg with d2d := [(3, { queued := true, asked := true, retraining := true, sparesLeft := 1 })] } }
    winCount few 1 0 3 < 15 ∧ 15 ≤ winCount many 1 0 3 ∧ (many.d2dAt 3).queued = true ∧ (many.d2dAt 3).asked = true ∧
      (few.d2dAt 3).retraining = true ∧ winCount few 1 1 3 < 2 ∧ (many.d2dAt 3).retraining = true ∧
      2 ≤ winCount many 1 1 3 ∧ 0 < (many.d2dAt 3).sparesLeft := by
  decide

/-- The premises of `Obligations.SidebandCommandsAnswerAndAct` are met. -/
theorem witness_SidebandCommandsAnswerAndAct :
    let up := State.reset.modPkg fun p => { p with powered := true, devState := .ready, computeReset := true }
    let halted := State.reset.modPkg fun p => { p with powered := true, devState := .failed, wayOut := .cold, bootCode := 0x30 }
    up.pkg.powered = true ∧ resetUnderway up = some .compute ∧ halted.pkg.powered = true ∧ halted.pkg.devState = .failed ∧
      halted.pkg.wayOut = .cold ∧ State.reset.pkg.powered = false ∧
      sbResult up 0x100 = 0 ∧ recoveryOpen halted = true ∧ halted.sec.recovery.length < 2 ^ 32 := by
  decide

/-- The premises of `Obligations.ModuleSensorsAreRead` are met. -/
theorem witness_ModuleSensorsAreRead :
    (State.reset.modPkg fun p => { p with flyerRuns := true }).pkg.flyerRuns = true ∧
    State.reset.pkg.flyerRuns = false := by
  decide

/-- The premises of `Obligations.TicksAreTakenAndSent` are met. -/
theorem witness_TicksAreTakenAndSent :
    let p : List Byte := layoutBytes 32 [(0, 6, 5), (14, 2, 7)]
    let q := { member with top := { member.top with disc := [(3, { st := .quarantined })] } }
    (member.discAt 3).st ≠ .quarantined ∧ givesTicks member 3 (tickOf p) = true ∧ tickIsNew member (tickOf p) = true ∧
      (q.discAt 3).st = .quarantined ∧ whorl.top.formed = true ∧ whorl.frm.role = .whorl ∧ whorl.frm.next = none ∧
      whorl.top.formSent = true ∧ whorl.frm.cur = {} ∧ standby.top.formed = true ∧ standby.frm.role = .standby ∧
      standby.frm.next = none := by
  decide

/-- The premises of `Obligations.RepliesGoUpTheTree` are met. -/
theorem witness_RepliesGoUpTheTree :
    let r := member.modFrm fun f => { f with replied := true, own := { hold := 2 } }
    let q := { member with top := { member.top with disc := [(3, { st := .quarantined })] } }
    let p : List Byte := layoutBytes 24 [(0, 6, 4), (10, 2, 1)]
    member.top.formed = true ∧ member.frm.role ≠ .none ∧ member.frm.replied = false ∧ member.frm.next = none ∧
      r.frm.replied = true ∧ 0 < r.frm.own.hold ∧ r.frm.supplemented = false ∧ r.frm.own.hold < 3 ∧ r.frm.next = none ∧
      (member.discAt 5).st ≠ .quarantined ∧ (matchedChildren member (tickTree member.frm.cur)).contains 5 = true ∧
      (replyOf p).frame = member.frm.number ∧ (replyOf p).supplement = false ∧
      (q.discAt 3).st = .quarantined ∧ r.frm.forwarded = false ∧ r.frm.role ≠ .whorl := by
  decide

/-- The premises of `Obligations.FramesBeginAndDrain` are met. -/
theorem witness_FramesBeginAndDrain :
    let a := State.reset.modFrm fun f => { f with next := some { frame := 5, period := 50 } }
    let r := State.reset.modFrm fun f => { f with prog := .running }
    let d := (State.reset.modFrm fun f => { f with prog := .draining }).modPkg fun p => { p with devState := .draining }
    let m := { State.reset with frm := { State.reset.frm with role := .member }, top := { State.reset.top with formed := true } }
    a.frm.next = some { frame := 5, period := 50 } ∧ State.reset.frm.next = none ∧ r.frm.prog = .running ∧
      d.frm.prog = .draining ∧ d.frm.ann = none ∧ d.pkg.devState = .draining ∧ m.top.formed = true ∧
      m.frm.role = .member ∧ m.frm.next = none := by
  decide

/-- The premises of `Obligations.StepsWaitUntilTheyMayStart` are met. -/
theorem witness_StepsWaitUntilTheyMayStart :
    let y : SyncEntry := { prodKind := 3, consKind := 1, consStep := 0, region := 2, length := 64 }
    let u := bound (running 1 1 [] [y])
    startable up 0 1 1 = none ∧ startable up 0 2 1 = none ∧ startable up 0 2 2 = none ∧ startable up 0 2 3 = none ∧
      startable up 0 3 1 = none ∧ startable up 0 3 0x10 = none ∧ startable up 0 3 0x11 = none ∧
      startable up 0 3 0x12 = none ∧ startable up 0 4 1 = none ∧ startable up 0 4 2 = none ∧
      (startable (running 1 1 []) 0 1 1).isSome = true ∧
      (startable u 0 1 1).isSome = true ∧ consumed (imageOf 1 1 [] [y]) 0 0 = [(0, y)] ∧ rangeBad u y = none ∧
      hostWaits (hostParts [(0, y)] u) (0, y) = false ∧ (hostParts [(0, y)] u).hp.spill = [] ∧
      ([(2, 1), (2, 2), (2, 3), (3, 1), (3, 0x10), (3, 0x11), (3, 0x12), (4, 1), (4, 2)].all fun x =>
        (startable (running x.1 x.2 (leBytes 128 0)) 0 x.1 x.2).isSome) = true ∧
      xferRoom (running 3 1 (leBytes 128 0)) (imageOf 3 1 (leBytes 128 0) []) (xferArgs (leBytes 128 0)) = true := by
  decide

/-- The premises of `Obligations.MatrixAndFlyerStepsRun` are met. -/
theorem witness_MatrixAndFlyerStepsRun :
    let x : List Byte := layoutBytes 128 [(0, 1, 1), (1, 1, 1)]
    let y : List Byte := layoutBytes 128 [(0, 1, 1), (1, 1, 1), (3, 1, 2), (8, 4, 1), (12, 4, 1)]
    let z : List Byte := leBytes 48 0
    let c : List Byte := layoutBytes 32 [(0, 4, 2), (4, 4, 2), (16, 8, 64), (0x18, 4, 4)]
    let s := bound (running 4 2 c)
    let rd := flyerRead 0x1000 4 s
    s.hp.spill = [] ∧ (running 1 1 x).hp.spill = [] ∧
    (startable (running 1 1 x) 0 1 1).isSome = true ∧ (matArgs x).m = 0 ∧
    (pairKind (matArgs x).inFmt (matArgs x).wFmt).isSome = true ∧ (startable (running 1 1 y) 0 1 1).isSome = true ∧
    (matArgs y).m ≠ 0 ∧ (matArgs y).n ≠ 0 ∧ stepCheck (running 1 1 y) (matOperands (matArgs y) false) = none ∧
    (startable (running 4 1 z) 0 4 1).isSome = true ∧ consumed (imageOf 4 1 z []) 0 0 = [] ∧
    (startable (running 4 2 z) 0 4 2).isSome = true ∧ fieldOf z 0x18 4 = 0 ∧
    (startable s 0 4 2).isSome = true ∧ fieldOf c 0x18 4 ≠ 0 ∧
    stepCheck s [⟨1, 2, 0, 4, accRead⟩, ⟨2, 2, 64, 4, accWrite⟩] = none ∧ rd.err = none ∧
    (flyerWrite 0x1040 rd.bytes (noteWrite (.step 0) 0x1040 4 rd.s)).err = none := by
  decide

/-- The premises of `Obligations.VectorAndLinkStepsRun` are met. -/
theorem witness_VectorAndLinkStepsRun :
    let z : List Byte := leBytes 128 0
    let k : List Byte := layoutBytes 128 [(0, 4, 99), (0x10, 4, 1)]
    let q : List Byte := layoutBytes 128 [(8, 4, 1), (0x18, 8, 1)]
    let d : List Byte := layoutBytes 128 [(3, 1, 1), (4, 2, 1), (8, 4, 1), (0x10, 4, 2), (0x20, 4, 2), (0x28, 8, 64)]
    let desc : List Byte := layoutBytes 64 [(8, 4, 1), (12, 2, 32), (14, 1, 1), (15, 1, 1), (16, 2, 1)]
    let s := holding desc (running 2 2 d)
    let m : List Byte := layoutBytes 128 [(0, 1, 0x7F), (2, 2, 32), (4, 4, 1), (8, 2, 1), (10, 2, 1), (0x10, 4, 2), (0x20, 4, 2)]
    let w := bound (running 2 3 m)
    let rd := engineRead (.vector 0) 0x1000 (recLen 32) w
    s.hp.spill = [] ∧ w.hp.spill = [] ∧
    (startable (running 2 1 z) 0 2 1).isSome = true ∧ (kernelArgs z).threads = 0 ∧
    (startable (running 2 1 k) 0 2 1).isSome = true ∧ (kernelArgs k).threads ≠ 0 ∧
    (stepCheck (running 2 1 k) [⟨1, (kernelArgs k).code, (kernelArgs k).codeOff, 1, accRead⟩]).isSome = true ∧
    (startable (running 2 2 z) 0 2 2).isSome = true ∧ (attendArgs z).queries = 0 ∧
    (startable (running 2 2 q) 0 2 2).isSome = true ∧ (attendArgs q).queries ≠ 0 ∧ (attendArgs q).seqOff % 64 ≠ 0 ∧
    (startable s 0 2 2).isSome = true ∧ (attendArgs d).queries ≠ 0 ∧ (attendArgs d).seqOff % 64 = 0 ∧
    (startable (running 2 3 z) 0 2 3).isSome = true ∧ mergeRuns (mergeArgs z) = 0 ∧
    (startable w 0 2 3).isSome = true ∧ mergeRuns (mergeArgs m) ≠ 0 ∧ stepCheck w (mergeOperands (mergeArgs m)) = none ∧
    rd.err = none ∧ segsRise (runRecs (mergeArgs m) rd.bytes 0) = true ∧
    (startable (running 3 1 z) 0 3 1).isSome = true ∧ xferRoom (running 3 1 z) (imageOf 3 1 z []) (xferArgs z) = true ∧
    (xferArgs z).len = 0 ∧ (xferArgs z).op ≠ 4 ∧ consumed (imageOf 3 1 z []) 0 0 = [] ∧
    (startable (running 3 0x10 z) 0 3 0x10).isSome = true ∧ (startable (running 3 0x11 z) 0 3 0x11).isSome = true ∧
    (startable (running 3 0x12 z) 0 3 0x12).isSome = true := by
  decide

/-- The premises of `Obligations.StepsCompleteAndPairsRelease` are met. -/
theorem witness_StepsCompleteAndPairsRelease :
    let s := stepping 1 1 []
    let y : SyncEntry := { prodKind := 1, consKind := 1, consStep := 1 }
    let u := (running 1 1 [] [y]).modFrm fun f => { f with ran := [0] }
    let x : SyncEntry := { prodKind := 3, consKind := 2, consStep := 1, consRank := 1 }
    let v := running 1 1 [] [x]
    let img := { imageOf 1 1 [] [] with hdr := { frames := 1, ranks := 1, periodUs := 50, nmx2 := true } }
    let b := (running 1 1 []).modFrm fun f => { f with image := some img }
    (stepOf s 0).isSome = true ∧ s.frm.ran.contains 0 = true ∧ s.frm.done.contains 0 = false ∧ stepOpen s 0 = false ∧
      (running 1 1 []).frm.ran.contains 0 = false ∧ (runningImage u).isSome = true ∧ myRank u = some 0 ∧
      (imageOf 1 1 [] [y]).syncs[0]? = some y ∧ (stepOf u y.prodStep).isSome = true ∧ y.prodRank = 0 ∧ y.prodKind ≠ 3 ∧ s.hp.spill = [] ∧
      inHoldLead b = false ∧ barrierDue b img 0 = true ∧
      runningImage v = some (imageOf 1 1 [] [x]) ∧ myRank v = some 0 ∧ x.prodKind = 3 ∧ x.prodRank = 0 ∧ x.consRank ≠ 0 ∧
      u.frm.released.contains (0, u.frm.number) = false ∧ (running 1 1 []).frm.ran = [] ∧
      runningImage b = some img ∧ (stepOf b 0).isSome = true ∧ b.frm.barriered.contains 0 = false := by
  decide

/-- The premises of `Obligations.PlyArithmeticWritesItsLanes` are met. -/
theorem witness_PlyArithmeticWritesItsLanes :
    let s := (running 2 1 (layoutBytes 128 [(4, 1, 1), (0x10, 4, 8)])).modFrm fun f => { f with ran := [0] }
    (plyStep s {} 1).isSome = true ∧ s.hp.spill = [] ∧ srcOk (kernelArgs []) (.reg 0) = true ∧ plyStep up {} 1 = none ∧ s.canonical := by
  refine ⟨by decide, by decide, by decide, by decide, ?_⟩
  unfold State.canonical
  constructor
  · decide
  · intro d
    unfold vget
    match d with
    | 0 => rfl
    | 1 => rfl
    | 2 => rfl
    | 3 => rfl
    | n + 4 => rfl

/-- The premises of `Obligations.PlyMemoryInstructionsAccessTheirRegion` are met. -/
theorem witness_PlyMemoryInstructionsAccessTheirRegion :
    let z : List Byte := layoutBytes 128 [(4, 1, 1), (6, 2, 1), (0x10, 4, 8), (0x18, 4, 2)]
    let s := (bound (running 2 1 z)).modFrm fun f => { f with ran := [0] }
    let a : PlyAccess := { mask := 3, offs := [0, 0x40] }
    let b : PlyAccess := { mask := 3, offs := [0x20000, 0x40] }
    let k := kernelArgs z
    plyStep up a.ref (topReg a.reg a.width) = none ∧ plyStep up a.ref (lanesTop a) = none ∧
      (plyStep s a.ref (topReg a.reg a.width)).isSome = true ∧ (plyStep s a.ref (lanesTop a)).isSome = true ∧
      s.hp.spill = [] ∧ vectorSpan k a = 8 ∧ a.width ≠ 0 ∧ activeLanes k a.ref a.mask = [0, 1] ∧
      plyAddr s k 0 0x20000 (vectorSpan k b) accRead = .inr (.eBounds, 0) ∧
      plyAddr s k 0 0x20000 4 accWrite = .inr (.eBounds, 0) ∧
      plyAddr s k 0 0 8 accRead = .inl 0x1000 ∧ plyAddr s k 0 0 8 accWrite = .inl 0x1000 ∧
      plyAddr s k 0 0 4 accRead = .inl 0x1000 ∧ plyAddr s k 0 0 4 accWrite = .inl 0x1000 ∧
      ((gatherLanes {} k a accRead [0, 1] ([], s)).1.filter fun x => isHank x.addr) ≠ [] ∧
      ((gatherLanes {} k a accRead [] ([], s)).1.filter fun x => isHank x.addr) = [] := by
  decide

/-- The premises of `Obligations.MemoryAccessesAndAtomicsReachTheirBytes` are met. -/
theorem witness_MemoryAccessesAndAtomicsReachTheirBytes :
    let s := writeBytes 0x1000 [1, 2, 3, 4, 5, 6, 7, 8] up
    let w : MemAccess := { addr := 0x1000, len := 2, write := some [9, 9] }
    let u := s.modHnk fun h => { h with ue := [(0x40, true)] }
    let z := s.modPkg fun p => { p with relocking := 0x3F }
    let k := (running 2 1 (layoutBytes 128 [(4, 1, 1), (0x10, 4, 8)])).modFrm fun f => { f with ran := [0] }
    mapped 0xFFFFFFFFFF 2 = false ∧ mapped w.addr.toNat w.len = true ∧ s.hp.spill = [] ∧ accessStalled z .flyer 0x1000 2 = true ∧
      accessStalled s .flyer 0x1000 2 = false ∧ accessStalled u .flyer 0x1000 2 = false ∧
      s.vis.held = [] ∧ s.hnk.wmb = [] ∧ tableByte s 0x1000 = none ∧ tableByte s 0x1007 = none ∧
      accessRefused s 0x1000 8 = none ∧ accessRefused u 0x1000 2 = none ∧ isUe s 0x40 = false ∧ isUe u 0x40 = true ∧
      isHank 0x1000 = true ∧ isLocal 0x8000000000 = true ∧ mapped 0x8000000000 8 = true ∧ faultyWords s 0x8000000000 8 = [] ∧
      plyStep s {} 0 = none ∧ (plyStep k {} 0).isSome = true ∧ (plyStep k {} (atomicTop {})).isSome = true ∧
      Memory.wf s.mem = true := by
  decide

/-- The premises of `Obligations.MemoryReadsBackWhatWasWritten` are met. -/
theorem witness_MemoryReadsBackWhatWasWritten :
    Memory.wf (writeBytes 0x1000 [1, 0, 2] up).mem = true ∧ tableByte (writeBytes 0x1000 [1, 0, 2] up) 0x1002 = none := by
  decide

/-- The premises of `Obligations.ReleasesAndAcquiresMakeWritesVisible` are met. -/
theorem witness_ReleasesAndAcquiresMakeWritesVisible :
    let s := up.modPkg fun p => { p with pkgCap := 0x40 }
    let r := up.modFab fun f => { f with op := [(3, some { unit := 1049600, addr := 64, len := 64, client := .fabric })] }
    barUp s = true ∧ hasFeature s 6 = true ∧ s.pkg.devState = .ready ∧ s.frm.prog = .noImage ∧ s.hp.spill = [] ∧
      remoteOpen s [.transfer 0 0] 0 128 = false ∧ remoteOpen r [.transfer 0 0] 0 128 = true ∧
      ((4 : Word).toNat % 4 = 0) ∧ barUp up = true ∧ hasFeature up 6 = false := by
  decide

/-- The premises of `Obligations.GatherEntriesReturnTheirData` are met. -/
theorem witness_GatherEntriesReturnTheirData :
    let s := up.modVec 1 fun v => { v with gatherQ := [{ core := 2, ply := 3, half := 5 }],
                                           waiting := [{ core := 2, ply := 3, lanes := [{ addr := 160 }] }] }
    (vget s.vec 1).gatherQ[0]? ≠ none ∧ (vget s.vec 1).gatherQ[7]? = none ∧ plyWaits s 1 4 4 = false ∧
      ((vget s.vec 1).waiting.find? fun w => w.core == 2 && w.ply == 3).isSome = true ∧
      ((vget (gatherRest 1 2 3 (vget s.vec 1).gatherQ s).vec 1).waiting.find? fun w => w.core == 2 && w.ply == 3).isSome = true := by
  decide

/-- The premises of `Obligations.StackCheckAndRepairEvents` are met. -/
theorem witness_StackCheckAndRepairEvents :
    let s := up.modHnk fun h => { h with rowQueue := [7], queue := [(3, .retrain)] }
    let p := (up.modHnk fun h => { h with active := some (3, .pinRepair) })
    let bad : Burst := { data := [] }
    isHank (64 * 5) = true ∧ ((([bad].take 4).takeWhile burstBad).length = 1) ∧
      (([bad, bad, bad, bad].takeWhile burstBad).length = 4) ∧ winCount up 12 0 3 + 3 < 16 ∧
      up.hnk.selfRefresh = false ∧ 7 ∈ s.hnk.rowQueue ∧
      s.hnk.rowActive = none ∧ s.hnk.stopped = false ∧ windowFor s 2 20000 = true ∧ tget s.hnk.rowUsed (bankOf s 448) < 4 ∧
      (s.modHnk fun h => { h with rowActive := some 7 }).hnk.rowActive = some 7 ∧
      noProgram s = true ∧ s.hnk.active = none ∧ actedThisFrame s = false ∧
      winCount (refreshDue (resumeHeld ((applyBandDue 0 s).modChan 3 fun ch => { ch with margins := [] }))) 12 1 3 < 2 ∧
      (up.modHnk fun h => { h with active := some (3, .retrain) }).hnk.active = some (3, .retrain) ∧
      p.hnk.active = some (3, .pinRepair) := by
  decide

/-- The premises of `Obligations.LoopbackAndProbeRegisters` are met. -/
theorem witness_LoopbackAndProbeRegisters :
    barUp up = true ∧ barUp State.reset = false ∧ (0x80000100 : Word).toNat.testBit 31 = true ∧
      bitsOf (0x80000100 : Word).toNat 9 8 < 2 ∧ 2 ≤ bitsOf (0x80000200 : Word).toNat 9 8 ∧
      (0x100 : Word).toNat.testBit 31 = false ∧ up.pkg.devState = .ready ∧ up.frm.prog = .noImage ∧
      (running 2 1 []).pkg.devState ≠ .ready ∧ (up.hankAt 2).lbBusy = false ∧
      ((up.modHank 2 fun k => { k with lbBusy := true }).hankAt 2).lbBusy = true := by
  decide

/-- The premises of `Obligations.HousekeepingReadsTemperatures` are met. -/
theorem witness_HousekeepingReadsTemperatures :
    let s := up.modThm fun t => { t with channel := 64 }
    let h := up.modThm fun t => { t with channel := 0x147, stopping := some 2 }
    s.thm.channel = 64 * 1 ∧ (300 : BitVec 10).toNat + 12 < 360 ∧ (s.sensorAt 64).faulty = false ∧
      (400 : BitVec 10).toNat + 12 < 420 ∧ (s.thmDieAt 1).band = .normal ∧ h.thm.channel = 0x143 + 4 * 1 ∧
      420 < (430 : BitVec 10).toNat ∧ h.hnk.stopped = false ∧ h.frm.failStatus = none ∧ s.thm.stopping = none ∧
      h.thm.stopping = some 2 ∧ h.pkg.computeReset = false ∧ h.hnk.active = none ∧ h.hnk.rowActive = none ∧
      tableByte h 0 = none ∧ isHank 0 = true := by
  decide

/-- The premises of `Obligations.MailboxGoAcceptanceAndSteps` are met. -/
theorem witness_MailboxGoAcceptanceAndSteps :
    let g := (up.modMbx 4 fun b => { b with kind := .host }).modMbx 6 fun b => { b with kind := .host, phase := .queued }
    let s := asked 0x0001 []
    let c := (asked 0x0031 (List.replicate 32 0)).modMbx 1 fun b => { b with cancelReq := true }
    let w := (asked 0x0031 []).modFly fun f => { f with classQ := [(.queue, 9), (.queue, 1)] }
    let q := (up.modMbx 4 fun b => { b with kind := .host, phase := .queued, payload := [(0, 1)] }).modFly fun f =>
      { f with goOrder := [4] }
    mailboxesUp g = true ∧ takesCommands (g.mbxAt 4).kind = true ∧ (g.mbxAt 4).phase = .idle ∧
      takesCommands (g.mbxAt 5).kind = false ∧ (g.mbxAt 6).phase = .queued ∧ (s.mbxAt 1).phase = .inProgress ∧
      waitsClass s 1 = false ∧ (cmdInfo 0x0001).map (·.cancel) = some false ∧ waitsClass w 1 = true ∧
      q.fly.goOrder = [4] ∧ (q.mbxAt 4).torn = [] ∧ (q.mbxAt 4).cancelReq = false ∧
      acceptCheck q 4 (getBytes (q.mbxAt 4).payload 0 4096) = none ∧
      nextCommand up = none ∧ nextCommand s = some 1 ∧ (s.mbxAt 1).cancelReq = false ∧ nextCommand c = some 1 ∧
      (asked 0x0080 []).pkg.flyerRuns = true ∧ mailboxesUp (asked 0x0080 []) = true ∧
      waitsClass (asked 0x0080 []) 1 = false ∧ (cmdInfo 0x0080).map (·.cancel) = some true ∧
      (c.mbxAt 1).cancelReq = true ∧ (c.mbxAt 1).req.isSome = true ∧ (s.mbxAt 1).evtHead ≤ 0 ∧ (0 : Nat) ≤ (s.mbxAt 1).evtTail := by
  decide +kernel

/-- The premises of `Obligations.MailboxCommandsTakeTurnsAndEnd` are met. -/
theorem witness_MailboxCommandsTakeTurnsAndEnd :
    let c := (asked 0x0024 []).modMbx 1 fun b => { b with cancelReq := true }
    mayStep (asked 0x0001 []) 0x0002 1 = none ∧ mbxCommand (.mbxAssign 1) = some (0x0002, 1) ∧
      mbxCommand (.regionBind 1) = some (0x0024, 1) ∧ (mayStep c 0x0024 1).isSome = true ∧
      (c.mbxAt 1).cancelReq = true ∧ c.res.job = none ∧ c.res.buddyWait = none ∧ (c.mbxAt 1).req.isSome = true ∧
      (let f := (asked 0x0024 []).modPkg fun p => { p with devState := .failed }
       (mayStep f 0x0024 1).isSome = true ∧ (f.mbxAt 1).cancelReq = false ∧ notAdmitted f 0x0024 = true ∧
         f.res.job = none ∧ f.res.buddyWait = none) ∧
      tabWf (c.mbxAt 1).payload = true := by
  decide

/-- The premises of `Obligations.FlyerClusterEvents` are met. -/
theorem witness_FlyerClusterEvents :
    let s := up.modFly fun f => { f with noStandby := true }
    up.pkg.flyerRuns = true ∧ up.fly.noStandby = false ∧ s.pkg.flyerRuns = true ∧ s.fly.noStandby = true ∧
      (∀ d, resetUnderway s = some d → d.weight < 2) ∧ winCount s 23 1 0 = 0 ∧ 1 ≤ winCount (winBump 23 1 0 s) 23 1 0 := by
  decide

/-- The premises of `Obligations.DeviceCommandsOfMailboxes` are met. -/
theorem witness_DeviceCommandsOfMailboxes :
    let two : List Byte := [4, 2, 5, 0, 9, 0]
    let req (c : Nat) (p : List Byte) : MbxReq := { command := c, user := 7, params := p }
    mayStep (asked 0x0001 []) 0x0001 1 = some (req 0x0001 []) ∧ mayStep (asked 0x0052 []) 0x0052 1 = some (req 0x0052 []) ∧
      mayStep (asked 0x0058 [1]) 0x0058 1 = some (req 0x0058 [1]) ∧ mayStep (asked 0x0058 [3]) 0x0058 1 = some (req 0x0058 [3]) ∧
      mayStep (asked 0x0071 []) 0x0071 1 = some (req 0x0071 []) ∧ mayStep (asked 0x0091 []) 0x0091 1 = some (req 0x0091 []) ∧
      mayStep (asked 0x00A1 []) 0x00A1 1 = some (req 0x00A1 []) ∧ mayStep (asked 0x0002 two) 0x0002 1 = some (req 0x0002 two) ∧
      mbxKindOf 2 = some .tenant ∧ mbxBusy ((asked 0x0002 two).mbxAt 4) = false ∧
      mbxKindOf 9 = none ∧ mayStep (asked 0x0002 [4, 9]) 0x0002 1 = some (req 0x0002 [4, 9]) ∧
      namedUnits (asked 0x00A0 [8]) 8 ≠ [] ∧ notAdmitted (asked 0x0001 []) 0x0001 = false ∧
      mayStep (asked 0x0003 [1, 0]) 0x0003 1 = some (req 0x0003 [1, 0]) ∧
      mayStep (asked 0x0010 []) 0x0010 1 = some (req 0x0010 []) ∧ (asked 0x0010 []).pkg.devState ≠ .failed ∧
      mayStep (asked 0x0011 []) 0x0011 1 = some (req 0x0011 []) ∧ (asked 0x0011 []).pkg.resetReq = none ∧
      mayStep (asked 0x0070 [0xF4, 1]) 0x0070 1 = some (req 0x0070 [0xF4, 1]) ∧ fieldOf [0xF4, 1] 0 2 = 500 ∧
      mayStep (asked 0x00A0 [8]) 0x00A0 1 = some (req 0x00A0 [8]) ∧ ((asked 0x0001 []).mbxAt 1).cancelReq = false := by
  decide

/-- The premises of `Obligations.MemoryHostAndQueueCommandsOfMailboxes` are met. -/
theorem witness_MemoryHostAndQueueCommandsOfMailboxes :
    let p : List Byte := layoutBytes 20 [(0, 8, 0x10000), (8, 8, 0x1000), (16, 1, 0), (17, 1, 3)]
    let b := asked 0x0024 p
    let reqOf (c : Nat) (p : List Byte) : MbxReq := { command := c, user := 7, params := p }
    let u := countStep 1 b
    let f := bound (asked 0x0026 [2, 0, 0, 0])
    let qp : List Byte := layoutBytes 12 [(0, 2, 3), (4, 4, 1), (8, 4, 9)]
    let pl : List Byte := [5, 1, 1]
    let sp : List Byte := layoutBytes 16 [(0, 2, 9), (8, 8, 2 ^ 31)]
    let sm := (asked 0x0023 [9, 0]).modHp fun h => { h with spill := tput h.spill 9 (some 0) }
    let w : List Byte := layoutBytes 10 [(0, 8, 2 ^ 28), (8, 2, 4)]
    let dq : List Byte := layoutBytes 32 [(0, 4, 6), (8, 1, 2), (11, 1, 1), (15, 1, 4), (16, 4, 2)]
    let dr := (bound (asked 0x0031 dq)).modRegion 2 fun r => { r with access := 0x1F }
    let dd := (bound (asked 0x0033 [6, 0, 0, 0])).modQueue 6 fun q => { q with cls := .completion }
    mayStep b 0x0024 1 = some (reqOf 0x0024 p) ∧ reqTenant u 1 0 < 4096 ∧ bindCheck u none 0x10000 0x1000 0 3 = none ∧
      (freeRegion u).isSome = true ∧ regionRefusal (countStep 1 f) 1 2 2000 = none ∧ handleInFlight f 2 = false ∧
      mayStep f 0x0026 1 = some (reqOf 0x0026 [2, 0, 0, 0]) ∧ mayStep (asked 0x0030 qp) 0x0030 1 = some (reqOf 0x0030 qp) ∧
      mayStep (asked 0x0020 pl) 0x0020 1 = some (reqOf 0x0020 pl) ∧ groupBusy (asked 0x0020 pl) 5 = false ∧
      mayStep (asked 0x0022 sp) 0x0022 1 = some (reqOf 0x0022 sp) ∧ zoneBusy (asked 0x0022 sp) 9 = false ∧
      mayStep sm 0x0023 1 = some (reqOf 0x0023 [9, 0]) ∧ (tget sm.hp.spill 9).isSome = true ∧
      mayStep (asked 0x0021 w) 0x0021 1 = some (reqOf 0x0021 w) ∧ windowBusy (asked 0x0021 w) = false ∧
      mayStep dr 0x0031 1 = some (reqOf 0x0031 dq) ∧
      queueCheck (countStep 1 dr) 1 6 1 0 false (descriptorOf .completion 0 dq) = none ∧
      mayStep dd 0x0033 1 = some (reqOf 0x0033 [6, 0, 0, 0]) ∧ linkedTo dd 6 = false ∧ (dd.queueAt 6).inflight = 0 ∧
      startedReq (f.modMbx 1 fun b => { b with started := true }) 0x0026 1 = some (reqOf 0x0026 [2, 0, 0, 0]) ∧
      startedReq (dd.modMbx 1 fun b => { b with started := true }) 0x0033 1 = some (reqOf 0x0033 [6, 0, 0, 0]) := by
  decide

/-- The premises of `Obligations.FrameAndPlanCommandsOfMailboxes` are met. -/
theorem witness_FrameAndPlanCommandsOfMailboxes :
    let req (c : Nat) (p : List Byte) : MbxReq := { command := c, user := 7, params := p }
    let ld : List Byte := layoutBytes 18 [(0, 4, 2), (4, 4, 64)]
    let l := bound (asked 0x0040 ld)
    let st : List Byte := layoutBytes 17 [(0, 8, 5), (8, 6, 9)]
    let w := (asked 0x0041 st).modFrm fun f => { f with role := .whorl }
    let pr := (asked 0x0042 [1]).modFrm fun f => { f with role := .whorl, wRunning := some 5 }
    let un := (asked 0x0043 []).modFrm fun f => { f with prog := .loaded }
    let p := bound (asked 0x0050 ld)
    let a := (asked 0x0051 []).modTop fun t => { t with loaded := some {} }
    mayStep l 0x0040 1 = some (req 0x0040 ld) ∧ programHeld l = false ∧
      checkOperands (countStep 1 l) (anyTenant (countStep 1 l) 2) [{ num := 1, handle := 2, off := 0, len := 64 }] = none ∧
      (flyerRead (regionAddr (countStep 1 l) 2 0) 64 (countStep 1 l)).err = none ∧
      mayStep w 0x0041 1 = some (req 0x0041 st) ∧ w.frm.role = .whorl ∧ w.frm.number + 4 ≤ 9 ∧ w.frm.wStart = none ∧
      mayStep pr 0x0042 1 = some (req 0x0042 [1]) ∧ pr.frm.wRunning.isSome = true ∧
      mayStep un 0x0043 1 = some (req 0x0043 []) ∧ un.frm.prog = .loaded ∧ mayStep p 0x0050 1 = some (req 0x0050 ld) ∧
      mayStep a 0x0051 1 = some (req 0x0051 []) ∧ a.top.loaded = some {} ∧ fieldOf [] 0 8 = ({} : Plan).tag ∧
      programActive a = false := by
  decide

/-- The premises of `Obligations.ResilienceAndSecurityCommandsOfMailboxes` are met. -/
theorem witness_ResilienceAndSecurityCommandsOfMailboxes :
    let req (c : Nat) (p : List Byte) : MbxReq := { command := c, user := 7, params := p }
    let ff : List Byte := layoutBytes 10 [(0, 8, 1000), (8, 2, 4)]
    let s := asked 0x0080 []
    let x : Snap := { id := 3, complete := true, tag := 5 }
    let rp := leBytes 8 3
    let rs := (asked 0x0081 rp).modRes fun r => { r with snaps := [x] }
    let rt := rs.modFrm fun f => { f with prog := .loaded, image := some { tag := 5 } }
    let lg := (asked 0x0084 rp).modRes fun r => { r with log := [{ frame := 3 }] }
    let lr : List Byte := layoutBytes 18 [(0, 4, 2), (4, 4, 64)]
    let fw := bound (asked 0x0090 lr)
    mayStep s 0x0080 1 = some (req 0x0080 []) ∧ s.res.job = none ∧ s.res.flashRo = false ∧
      (makeRoom (extentBytes (snapExtents (countStep 1 s) false)) (countStep 1 s).res.snaps).isSome = true ∧
      mayStep rs 0x0081 1 = some (req 0x0081 rp) ∧ (rs.res.snaps.find? fun y => y.complete && y.id == fieldOf rp 0 8).isSome = true ∧
      restorable rt 5 = true ∧ mayStep (asked 0x0082 [0xFF, 0xFF]) 0x0082 1 = some (req 0x0082 [0xFF, 0xFF]) ∧
      mayStep (asked 0x0083 ff) 0x0083 1 = some (req 0x0083 ff) ∧ fieldOf ff 8 2 = 4 ∧
      mayStep lg 0x0084 1 = some (req 0x0084 rp) ∧ mayStep fw 0x0090 1 = some (req 0x0090 lr) ∧
      checkOperands (countStep 1 fw) (anyTenant (countStep 1 fw) 2) [{ num := 1, handle := 2, off := 0, len := 64 }] = none ∧
      mayStep (asked 0x0092 [1]) 0x0092 1 = some (req 0x0092 [1]) ∧ tenantLoaded (asked 0x0092 [1]) 1 = false ∧
      mayStep (asked 0x0093 [0]) 0x0093 1 = some (req 0x0093 [0]) ∧ mayStep (asked 0x0093 [1]) 0x0093 1 = some (req 0x0093 [1]) ∧
      (asked 0x0093 [0]).pkg.devState = .ready ∧ hasRoute (asked 0x0082 []) 5 = false ∧ isSelf (asked 0x0082 []) 5 = false := by
  decide

/-- The premises of `Obligations.DoorbellsAndCommandSelection` are met. -/
theorem witness_DoorbellsAndCommandSelection :
    let q : Queue := { cls := .request, enabled := true, log2 := 4, ringRegion := 2, tail := 3, head := 1, weight := 1, link := 6 }
    let cq : Queue := { cls := .completion, enabled := true, log2 := 4, ringRegion := 2, ringOff := 0x1000, tail := 2 }
    let s := ((bound up).modQueue 5 fun _ => q).modQueue 6 fun _ => cq
    let t := s.modPage 3 fun _ => { valid := true, first := 5, last := 6 }
    let b := s.modHnk fun h => { h with ue := [(0x41, true)] }
    let sel := selectQueue ((tkeys s.bob.queue).filter (canStart s)) s
    let z := ((bound up).modQueue 5 fun _ => { q with head := 3 }).modPage 3 fun _ => {}
    barUp t = true ∧ barUp State.reset = false ∧ doorbellCause t 3 5 4 = 0 ∧ doorbellCause t 3 6 1 = 0 ∧
      doorbellCause t 3 7 4 = 1 ∧ doorbellCause t 3 5 99 = 4 ∧ freeCommandTag s = some 0x1000 ∧ commandsRun s = true ∧
      sel.1 = some 5 ∧ headBad sel.2 (sel.2.queueAt 5) = false ∧
      headReadable b (b.queueAt 5) = true ∧ headBad b (b.queueAt 5) = true ∧
      (selectQueue ((tkeys z.bob.queue).filter (canStart z)) z).1 = none ∧ headReadable up (up.queueAt 5) = false ∧
      commandCheck (takeTag 0x1000 5 (headEntry sel.2 (sel.2.queueAt 5)) (consumeHead 5 sel.2)) 0
        (headEntry sel.2 (sel.2.queueAt 5)) = none ∧
      (selectQueue ((tkeys b.bob.queue).filter (canStart b)) b).1 = some 5 := by
  decide

/-- The premises of `Obligations.CommandsOfRequestQueues` are met. -/
theorem witness_CommandsOfRequestQueues :
    let cmd (op : Nat) (bs : List Byte) : State := (bound up).modTag 0x1000 fun _ =>
      some { queue := 5, entry := leBytes 1 op ++ List.replicate 15 0 ++ fitBytes 48 bs }
    let fl := cmd 0x02 (layoutBytes 24 [(0, 4, 2), (4, 4, 8), (16, 1, 9)])
    let cp := cmd 0x01 (layoutBytes 28 [(0, 4, 2), (4, 4, 2), (16, 8, 0x100), (24, 4, 16)])
    let x (st : Status) (fl : Nat) : Cmd := { queue := 5, result := some st, entry := [0, BitVec.ofNat 8 fl] }
    let en (c : Cmd) : State := ((((bound up).modTag 0x1000 fun _ => some c).modQueue 5 fun q => { q with link := 6 }).modQueue 6
      fun q => { q with cls := .completion, log2 := 4, ringRegion := 2 }).modBob fun b => { b with finished := [0x1000] }
    runnable up 0x1000 0x00 = none ∧ (runnable (cmd 0 []) 0x1000 0x00).isSome = true ∧ (runnable fl 0x1000 0x02).isSome = true ∧
      accessRefused fl 0x1000 8 = none ∧ Memory.wf fl.mem = true ∧ (runnable cp 0x1000 0x01).isSome = true ∧
      (engineRead (.transfer 0 0) 0x1000 16 cp).err = none ∧ fl.hp.spill = [] ∧
      (runnable (cmd 0x10 []) 0x1000 0x10).isSome = true ∧ (runnable (cmd 0x11 []) 0x1000 0x11).isSome = true ∧
      (runnable (cmd 0x12 []) 0x1000 0x12).isSome = true ∧ (runnable (cmd 0x13 []) 0x1000 0x13).isSome = true ∧
      (runnable (cmd 0x14 []) 0x1000 0x14).isSome = true ∧ (runnable (cmd 0x15 []) 0x1000 0x15).isSome = true ∧
      msgRoom up 1 = true ∧ isNextEnded (en (x .sOk 0)) 0x1000 (x .sOk 0) = true ∧ noEntry (x .sOk 0) = false ∧
      noEntry (x .sOk 2) = true ∧ ringUsed ((en (x .sOk 0)).queueAt 6) < 2 ^ 4 ∧
      accessRefused (en (x .sOk 0)) (entryAddr (en (x .sOk 0)) ((en (x .sOk 0)).queueAt 6) 0) 32 = none ∧
      up.tagAt 0x1000 = none := by
  decide

/-- The premises of `Obligations.HostWindowAndSpillTraffic` are met. -/
theorem witness_HostWindowAndSpillTraffic :
    let s := up.modHp fun h => { h with decoder := true, proto := 7, rate := 5, winBase := 0, winSize := 4, db := 0x100000000 }
    let u := s.modHnk fun h => { h with ue := [(2, true)] }
    let f := s.modHp fun h => { h with sf := (List.range 16).map fun i => (2 + 32768 * i, some { age := i }) }
    let b := s.modHp fun h => { h with sf := [(2, some { snooped := true })] }
    let a : MemAccess := { addr := 0xC0000000, len := 8 }
    let z := s.modHp fun h => { h with spill := [(3, some (2 ^ 40))], agent := [(0x3000000, some { st := .wanted })], wbinv := true }
    let o := z.modHp fun h => { h with rate := 0 }
    windowLine s 0x100000080 = some 2 ∧ memTraffic s = true ∧ accessRefused s 128 64 = none ∧ s.hnk.wmb = [] ∧
      s.hnk.lostBursts = [] ∧ isUe s 2 = false ∧ isUe u 2 = true ∧ tget s.hp.sf 2 = none ∧ (sfSet s 2).length < 16 ∧
      16 ≤ (sfSet f (2 + 32768 * 16)).length ∧ tget f.hp.sf (2 + 32768 * 16) = none ∧ windowLine s 0 = none ∧
      ((tget f.hp.sf 2).map (·.snooped)) = some false ∧ snoopSent s 2 = false ∧ snoopSent b 2 = true ∧ linkPasses b = true ∧
      memTraffic up = false ∧ cacheTraffic s = true ∧ (spillHpa z a.addr.toNat).isSome = true ∧ cacheOn o = false ∧
      cacheOn z = true ∧ accessServed z a = false ∧ accessServed z { a with len := 0 } = true ∧
      (tget z.hp.agent (0xC0000000 / 64)).isSome = true ∧ tget s.hp.agent 0 = none ∧ z.hp.wbinv = true ∧
      s.hp.wbinv = false ∧ barUp s = true ∧ barUp State.reset = false ∧ cacheTraffic up = false := by
  decide

/-- The premises of `Obligations.HostLinkAndItsErrors` are met. -/
theorem witness_HostLinkAndItsErrors :
    let s := up.modHp fun h => { h with rate := 4, ideCm := .secure, ideIo := .secure }
    up.pkg.powered = true ∧ s.hp.rate ≠ 0 ∧ s.hp.recovering = false ∧ up.hp.rate = 0 ∧ winCount s 19 0 0 < 63 ∧
      63 ≤ winCount (winAdd 19 0 0 63 s) 19 0 0 ∧ s.hp.ideCm = .secure ∧ s.hp.ideIo = .secure ∧ up.hp.ideCm ≠ .secure ∧
      up.hp.ideIo ≠ .secure := by
  decide

/-- The premises of `Obligations.SecurityMessages` are met. -/
theorem witness_SecurityMessages :
    let d := up.modHp fun h => { h with rate := 4 }
    let n := d.modHp fun h => { h with versioned := true, negotiated := true, sessions := [{ id := 5 }, { id := 6, open_ := true }] }
    doeUp up = false ∧ doeUp d = true ∧ doeTakes up [] = false ∧ doeTakes d [] = true ∧ doeTakes n [] = true ∧
      sessionOf n 9 = none ∧ (measurementBlocks n 9).isNone = true ∧ (measurementBlocks n 0).isSome = true ∧ d.hp.versioned = false ∧ n.hp.versioned = true ∧ doeUp n = true ∧
      n.hp.negotiated = true ∧ fieldOf [] 2 1 = 0 ∧ fieldOf [0, 0, 1] 2 1 ≠ 0 ∧ fieldOf [0, 0, 0, 0xFF] 3 1 = 0xFF ∧
      d.hp.sessions.length < 2 ∧ 2 ≤ n.hp.sessions.length ∧ (sessionOf n 5).map (·.open_) = some false ∧
      (sessionOf n 6).map (·.open_) = some true ∧ n.hp.ideCm ≠ .insecure ∧ n.hp.ideIo ≠ .insecure := by
  decide

/-- The premises of `Obligations.LaneLossAndLaneMaps` are met. -/
theorem witness_LaneLossAndLaneMaps :
    let st : Strand := { txOut := false, rxOut := false, lost := [2], passed := [2], dropReq := [3], rxMap := [0, 1, 2, 3, 4, 5],
                         txMap := [0, 1, 2, 3, 4, 5], rxNext := some { map := [0, 1, 2, 3], at_ := 9 } }
    let s := member.modStrand 3 fun _ => { st with rxNext := none }
    let u := member.modStrand 3 fun _ => { st with txNext := some { map := [0, 1, 2, 3], at_ := 9 } }
    let m := member.modStrand 3 fun _ => { st with rxNext := none, rxMirror := some 1 }
    (State.reset.strandAt 3).rxOut = true ∧ (State.reset.strandAt 3).txOut = true ∧ (s.strandAt 3).rxOut = false ∧
      1 ∈ rxPending (s.strandAt 3) ∧ 1 ∉ (s.strandAt 3).dropReq ∧ 7 ∉ rxPending (s.strandAt 3) ∧
      (s.strandAt 3).rxMirror ≠ some 1 ∧ (m.strandAt 3).rxMirror = some 1 ∧ (u.strandAt 3).rxNext.isSome = true ∧
      (u.strandAt 3).txNext.isSome = true ∧ (s.strandAt 3).txNext = none ∧ (s.strandAt 3).rxNext = none ∧
      (s.strandAt 3).dropReq ≠ [] ∧ (up.strandAt 3).dropReq = [] ∧ 2 ∈ (s.strandAt 3).lost ∧ 1 ∉ (s.strandAt 3).lost ∧
      2 ∈ (s.strandAt 3).passed ∧ (frameMap s 3).length < 8 ∧ 1 ∉ (s.strandAt 3).passed ∧
      tabWf u.opt.strand = true ∧ (s.strandAt 3).txOut = false ∧ (txPending (s.strandAt 3)).filter (fun l => !(lmapOf 0x10).contains l) ≠ [] := by
  decide

/-- The premises of `Obligations.LasersAndTheSpareWavelength` are met. -/
theorem witness_LasersAndTheSpareWavelength :
    let lit := up.modBank 0 fun k => { k with laser := k.laser.map fun l => { l with st := .lit, drive := 5, driveMax := 9 } }
    let ok := (lit.modBank 0 fun k => { k with laser := vmod k.laser 8 fun l => { l with st := .standby } })
    let bad := lit.modBank 0 fun k => { k with laser := Vector.ofFn fun i : Fin 9 => { st := if i.val < 5 then .failed else .lit } }
    let w := (up.modStrand 3 fun _ => { txOut := false }).modBank 0 fun k => { k with swap := .warming }
    let t := up.modStrand 3 fun t => { t with mirror := .trained }
    let c := up.modOpt fun o => { o with cal := some { strand := 3, accepted := true, train := true } }
    let p := up.modBank 0 fun k => { k with swap := .pending, spareFor := some 2 }
    isLit (laserAt lit 0 3) = true ∧ (laserAt lit 0 3).drive < (laserAt lit 0 3).driveMax ∧ isLit (laserAt ok 0 8) = false ∧
      (laserAt bad 0 1).st = .failed ∧ (laserAt bad 0 6).st = .lit ∧ bankSends bad 0 = [] ∧
      5 ≤ deadLasers bad 0 ∧ (laserAt bad 0 6).faded = false ∧ (w.bankAt 0).swap = .warming ∧ (up.bankAt 0).swap ≠ .warming ∧
      (t.strandAt 3).mirror = .trained ∧ (up.strandAt 3).mirror ≠ .trained ∧ up.opt.cal = none ∧ c.opt.cal.isSome = true ∧
      (p.bankAt 0).swap = .pending ∧ (p.bankAt 0).spareFor = some 2 ∧ p.frm.role = .none ∧ member.frm.role ≠ .none ∧
      member.frm.cur.stretch = 0 := by
  decide +kernel

/-- The premises of `Obligations.CalibrationAndMargins` are met. -/
theorem witness_CalibrationAndMargins :
    let h : Hello := { digest := 99 }
    let s := (member.modStrand 3 fun t => { t with calDue := true, lost := [1], rxMap := [0], rxLast := [(0, List.replicate 10 (-20))], baseline := [(0, some 5)] }).modDisc 3 fun d => { d with hello := some h }
    let f := s.modFrm fun f => { f with role := .none }
    let b := s.modFrm fun f => { f with prog := .running, runFrame := true }
    let c := s.modOpt fun o => { o with cal := some { strand := 3, starter := true }, monRun := some {} }
    inService up 3 = false ∧ inService s 3 = true ∧ (s.strandAt 3).lost ≠ [] ∧ drifted (s.strandAt 3) = true ∧
      s.opt.cal = none ∧ present f 3 = true ∧ (calStart f 3).isSome = true ∧ calStart up 3 = none ∧
      periodFree f 3 (periodNs f (jobAsked f 3 true false) false) = true ∧ asking c 3 = true ∧ asking s 3 = false ∧
      periodFree b 3 (periodNs b (jobAsked b 3 true false) false) = false ∧ c.opt.cal.isSome = true ∧
      c.opt.monRun.isSome = true ∧ up.opt.monRun = none ∧ barUp up = true ∧ barUp State.reset = false ∧
      (0x80000000 : Word).toNat.testBit 31 = true ∧ tabWf (s.strandAt 3).rxMargin = true ∧ tabWf (s.strandAt 3).rxLast = true := by
  decide

/-- The premises of `Obligations.BlocksAreAcknowledgedReplayedAndPlaced` are met. -/
theorem witness_BlocksAreAcknowledgedReplayedAndPlaced :
    let s := member.modLink 3 fun l => { l with held := [(0, { typ := 1 })], txSeq := 1, resend := [0] }
    let z := member.modLink 3 fun l => { l with ticks := [{ typ := 5 }] }
    let f := member.modLink 3 fun l => { l with held := (List.range 1024).map fun i => (i, { typ := 1 }) }
    let b := blockBytes (s.linkAt 3) 0 {}
    let c := blockBytes (s.linkAt 3) 0 { typ := 1 }
    let d := blockBytes (s.linkAt 3) 1 { typ := 1 }
    carriesTraffic State.reset 3 = false ∧ carriesTraffic s 3 = true ∧ ([] : List Byte).length ≠ 272 ∧ b.length = 272 ∧
      fieldOf b 268 4 = crc32c (b.take 268) ∧ fieldOf b 0 1 / 16 = 0 ∧ fieldOf c 268 4 = crc32c (c.take 268) ∧
      fieldOf c 0 1 / 16 = 1 ∧ fieldOf c 1 2 = (s.linkAt 3).rxSeq % 65536 ∧ fieldOf d 1 2 ≠ (s.linkAt 3).rxSeq % 65536 ∧
      uncovered (s.linkAt 3) 0xFFFF = 0 ∧ uncovered (s.linkAt 3) 0 = 1 ∧ (s.linkAt 3).lastNak = none ∧
      (member.linkAt 3).held = [] ∧ (s.linkAt 3).held ≠ [] ∧ (s.discAt 3).st ≠ .quarantined ∧
      ((s.modDisc 3 fun d => { d with st := .quarantined }).discAt 3).st = .quarantined ∧
      winCount (winBump 30 0 3 s) 30 0 3 ≠ 64 ∧ winCount (winBump 30 0 3 (winAdd 30 0 3 63 s)) 30 0 3 = 64 ∧
      winCount (winBump 30 1 3 (winAdd 30 1 3 2 s)) 30 1 3 = 3 ∧ lowestLane { txMap := [0, 1] } = some 0 ∧
      (z.linkAt 3).ticks ≠ [] ∧ carries z 3 5 = true ∧ (s.linkAt 3).ticks = [] ∧ (resendNext s 3).isSome = true ∧
      resendNext member 3 = none ∧ windowIsFull f 3 = true ∧ windowIsFull member 3 = false ∧ (member.linkAt 3).ctl = [] ∧
      (member.linkAt 3).seqd = [] ∧ circuitNext member 3 .free = none ∧ (member.linkAt 3).pkt = none := by
  decide +kernel

/-- The premises of `Obligations.CircuitBlocksAtARelayAndAtTheirDevice` are met. -/
theorem witness_CircuitBlocksAtARelayAndAtTheirDevice :
    let s := bound (running 2 0 [])
    let g := packBits [(63, 50, 9), (39, 0, 0x1000)]
    let open_ := layoutBytes 256 [(0, 1, 1), (4, 4, 1), (8, 8, g), (16, 4, 64)]
    let own : BitVec 56 := BitVec.ofNat 56 (circuitRoute 9 4 2 1 0)
    let far : BitVec 56 := BitVec.ofNat 56 (circuitRoute 8 4 2 1 0)
    let q := s.modDisc 3 fun d => { d with st := .quarantined }
    let e : RxXfer := { op := 1, count := 1, gaddr := g, len := 64 }
    let x := s.modFab fun f => { f with rxXfer := [(xferKey 3 own.toNat, some e)],
                                        tables := { transits := [{ inStrand := 3, resv := 2, outStrand := 5 },
                                                                 { inStrand := 4, resv := 2, outStrand := 9 }] } }
    let c := s.modFab fun f => { f with rxXfer := [(xferKey 3 own.toNat, some { e with op := 0x10 })] }
    let d := s.modFab fun f => { f with rxXfer := [(xferKey 3 own.toNat, some { e with dropped := true })] }
    let bs := blockPiece e 0 (List.replicate 64 1)
    let l := x.modHnk fun h => { h with lost := some 1 }
    (q.discAt 3).st = .quarantined ∧ (s.discAt 3).st ≠ .quarantined ∧ isSelf s (routeDest own.toNat) = true ∧
      isSelf s (routeDest far.toNat) = false ∧ fieldOf open_ 0 1 = 1 ∧
      remoteCheck s (fieldOf open_ 8 8) (fieldOf open_ 16 4) accRemoteWrite = none ∧
      remoteCheck s 0 64 accRemoteWrite ≠ none ∧ tget x.fab.rxXfer (xferKey 3 own.toNat) = some e ∧
      (tget c.fab.rxXfer (xferKey 3 own.toNat)).isSome = true ∧ (tget d.fab.rxXfer (xferKey 3 own.toNat)).isSome = true ∧
      bs.length = 64 ∧ accessRefused x 0x1000 64 = none ∧ accessRefused l 0x1000 64 = some .eHankLost ∧ x.hnk.wmb = [] ∧
      x.hp.spill = [] ∧ x.hnk.lostBursts = [] ∧ ((blocksOf 0x1000 64).all fun b => !isUe x b) = true ∧
      (List.range 64).all (fun i => (tableByte x (0x1000 + i)).isNone) = true ∧
      routeResv far.toNat = 2 ∧ carriesTraffic x 5 = true ∧ carriesTraffic x 9 = false ∧ s.fab.tables.transits = [] ∧
      tget s.fab.rxXfer (xferKey 3 own.toNat) = none ∧
      (let z := layoutBytes 256 [(0, 1, 0x10), (1, 1, 0xFE)]; fieldOf z 0 1 = 0x10 ∧ fieldOf z 1 1 = 0xFE) ∧
      (let z := layoutBytes 256 [(0, 1, 0x10), (1, 1, 0xFF)]; fieldOf z 0 1 = 0x10 ∧ fieldOf z 1 1 = 0xFF) ∧
      (let z := layoutBytes 256 [(0, 1, 0x10), (1, 1, 1)]; fieldOf z 0 1 = 0x10 ∧ fieldOf z 1 1 = 1) ∧
      (fieldOf (leBytes 4 1 ++ leBytes 4 (crc32c [])) 0 4 == e.count &&
        fieldOf (leBytes 4 1 ++ leBytes 4 (crc32c [])) 4 4 == crc32c e.data) = true ∧
      (fieldOf [] 0 4 == e.count && fieldOf [] 4 4 == crc32c e.data) = false := by
  decide +kernel

/-- The premises of `Obligations.PacketsArePerformedOnceAndAnswered` are met. -/
theorem witness_PacketsArePerformedOnceAndAnswered :
    let s := bound (running 2 0 [])
    let g := packBits [(63, 50, 9), (39, 0, 0x1000)]
    let put := pktBytes { src := 4, count := 1, last := true, dtype := 2, opLen := 4, gaddr := g,
                          check := crc32c [1, 2, 3, 4] } [1, 2, 3, 4]
    let h := pktHdr put
    let sig := pktBytes { src := 4 } (leBytes 8 g ++ leBytes 8 3)
    let counted := s.modFab fun f => { f with rx := [(rxKey h, some { got := [(0, some [1])] })] }
    let done := s.modFab fun f => { f with rx := [(rxKey h, some { answer := some [1] })] }
    let full := s.modFab fun f => { f with rx := (List.range 8192).map fun i => (rxKey h + 1 + i, some {}) }
    let o : RemOp := { op := 3, dest := 4, getAddr := g, getLeft := 4, getLen := 4, getRegion := 2 }
    let v := s.modFab fun f => { f with op := [(1, some o)] }
    let u := s.modQueue 1 fun d => { d with cls := .peer, enabled := true, log2 := 6 }
    tget s.fab.rx (rxKey h) = none ∧ openEntries s < 8192 ∧ h.last = true ∧ h.count = 1 ∧ h.index = 0 ∧
      h.check = crc32c ((put.drop 32).take (pieceLen h)) ∧ remoteCheck s h.gaddr 4 accRemoteWrite = none ∧
      remoteCheck s 0 4 accRemoteWrite ≠ none ∧ remoteCheck s h.gaddr 4 accRemoteRead = none ∧
      accessRefused s 0x1000 8 = none ∧ isUe s 0x40 = false ∧ s.hnk.wmb = [] ∧ s.hp.spill = [] ∧ s.hnk.lostBursts = [] ∧
      faultyWords s 0x1000 8 = [] ∧ ((blocksOf 0x1000 4).all fun b => !isUe s b) = true ∧
      (List.range 8).all (fun i => (tableByte s (0x1000 + i)).isNone) = true ∧ (elemFmt 2).isSome = true ∧
      entryFor h full = none ∧ ((entryFor h counted).any fun x => x.answer.isNone && (tget x.got h.index).isSome) = true ∧
      (entryFor { h with resent := true } done).any (fun x => x.answer.isSome) = true ∧
      ((entryFor h s).any fun x => x.answer.isNone) = true ∧ fieldOf (sig.drop 32) 0 8 = g ∧
      peerQueue (gaLocal g) = none ∧ peerQueue 0xC004000008 = some 1 ∧ peerCheck u 0xC004000008 1 = none ∧
      ((u.queueAt 1).peerTail + 2 ^ 32 - (u.queueAt 1).head) % 2 ^ 32 + 3 ≤ 2 ^ (u.queueAt 1).log2 ∧
      getOp v h = some (1, o) ∧ tget v.fab.op 1 = some o ∧ getCheck s 2 g 4 = none ∧ getOp s h = none ∧ (0, 0) ∉ s.frm.released ∧
      (1, 2) ∈ (s.modFrm fun f => { f with released := [(1, 2)] }).frm.released ∧ fieldOf [0, 0, 7] 2 1 < 8 ∧
      8 ≤ fieldOf [0, 0, 8] 2 1 := by
  decide +kernel

/-- The premises of `Obligations.AnswersResendsAndMessagesGivenUp` are met. -/
theorem witness_AnswersResendsAndMessagesGivenUp :
    let s := member.modFab fun f => { f with
      tx := [(7, some { op := 1, dest := 4, frames := 16 }), (8, some { op := 1, dest := 4, frames := 16, resends := 4 }),
             (9, some { op := 1, dest := 4 })]
      rx := [(4 * 65536 + 7, some { frames := 8 }), (4 * 65536 + 8, some { frames := 8, rereqs := 3 }),
             (4 * 65536 + 9, some { frames := 8, dropped := true }), (4 * 65536 + 10, some { frames := 8, answer := some [] })]
      txXfer := [(7, some { op := 1, dest := 4 })]
      transit := [{ dest := 8 }] }
    let r : Rate := { num := 8 }
    (tget s.fab.tx 7).isSome = true ∧ (tget s.fab.txXfer 7).isSome = true ∧ tget s.fab.tx 10 = none ∧
      tget s.fab.txXfer 8 = none ∧ framesPassed s 16 16 = true ∧ framesPassed s 0 16 = false ∧ framesPassed s 8 8 = true ∧
      (tget s.fab.rx (4 * 65536 + 7)).isSome = true ∧ (tget s.fab.rx (4 * 65536 + 8)).isSome = true ∧
      (tget s.fab.rx (4 * 65536 + 9)).isSome = true ∧ (tget s.fab.rx (4 * 65536 + 10)).isSome = true ∧
      tget s.fab.rx 0 = none ∧ s.fab.transit[0]?.isSome = true ∧ s.fab.transit[1]? = none ∧
      64 * ({} : Rate).den ≤ ({} : Rate).num + 2 * ({} : Rate).den ∧ r.num + 2 * r.den < 64 * r.den ∧
      r.den * (2 * 2) < 4 * (r.num * (2 * 2 - min 1 2)) ∧
      4 * (({ num := 1, den := 4 } : Rate).num * (2 * 2 - min 1 2)) ≤ ({ num := 1, den := 4 } : Rate).den * (2 * 2) ∧
      (firstFree s (pktHdr []) ((List.range 64).filter (packetCandidate s))).isSome = true ∧
      firstFree up (pktHdr []) ((List.range 64).filter (packetCandidate up)) = none := by
  decide +kernel

/-- The premises of `Obligations.HellosAndNeighbours` are met. -/
theorem witness_HellosAndNeighbours :
    let s := member
    let q := s.modTop fun x => { x with plan := x.plan.map fun p => { p with nbs := (List.range 64).map fun i =>
      if i = 3 then { role := 1, farStrand := 5, farDevice := 4, latMax := 1000, farDigest := 77 } else {} } }
    let h := (q.modDisc 3 fun d => { d with nb := .waiting, samples := List.replicate 63 8000 })
    let r := q.modLink 3 fun l => { l with replayed := true }
    let p := layoutBytes 48 [(0, 1, 1), (34, 8, 100)]
    carriesTraffic State.reset 3 = false ∧ carriesTraffic h 3 = true ∧ fieldOf p 34 8 ≠ 0 ∧ fieldOf ([] : List Byte) 34 8 = 0 ∧
      (h.linkAt 3).replayed = false ∧ (r.linkAt 3).replayed = true ∧ (h.discAt 3).nb = .waiting ∧ (h.discAt 3).hello = none ∧
      (q.discAt 3).nb = .found ∧ (q.discAt 3).nb ≠ .waiting ∧ (h.discAt 3).nb ≠ .found ∧
      inService (restartLink 3 true (trainDirection 3 true [] s)) 3 = true ∧
      inService (restartLink 3 true (trainDirection 3 true [0, 1, 2, 3, 4] s)) 3 = false ∧
      planNb (s.modTop fun x => { x with plan := none }) 3 = none ∧ inService s 3 = true ∧ inService State.reset 3 = false ∧ planNb State.reset 3 = none ∧
      (planNb q 3).isSome = true ∧ present q 3 = true ∧ present h 3 = false := by
  decide

/-- The premises of `Obligations.FormingTheDomain` are met. -/
theorem witness_FormingTheDomain :
    let s := member
    let u := member.modTop fun x => { x with formed := false, plan := x.plan.map fun p => { p with whorl := 4 } }
    let w := whorl.modTop fun x => { x with formed := false, formSent := false, main := some {} }
    let al := discoveryHead u 3 3 0 ++ layoutBytes 16 [(1, 1, 1), (4, 4, 400)]
    let deep := discoveryHead u 3 3 0 ++ layoutBytes 16 [(1, 1, 8), (4, 4, 400)]
    let sb := discoveryHead u 3 3 0 ++ layoutBytes 16 [(0, 1, 1), (1, 1, 1)]
    let q := u.modTop fun x => { x with plan := x.plan.map fun p => { p with sbParent := 3 } }
    let z := whorl.modTop fun x => { x with plan := x.plan.map fun p => { p with
      standby := 5, children := 32, nbs := (List.range 64).map fun i => if i = 5 then { role := 1, farDevice := 5 } else {} } }
    let same := s.modDisc 5 fun d => { d with sum0 := some (summaryFields al) }
    parentStrand up 0 3 al = false ∧ fieldOf al 48 1 = 0 ∧ parentStrand u 0 3 al = true ∧
      (placeBehind al 0).depth ≤ 8 ∧ 8 < (placeBehind deep 0).depth ∧ fieldOf sb 48 1 = 1 ∧ parentStrand q 1 3 sb = true ∧
      5 ∈ matchedChildren s 0 ∧ 3 ∉ matchedChildren s 0 ∧ fromStandby z 5 = true ∧ fromStandby s 5 = false ∧
      s.top.formed = true ∧ u.top.formed = false ∧ 5 ∈ matchedChildren u 0 ∧ 5 ∈ matchedChildren (whorl.modTop fun t =>
        { t with formed := false, plan := t.plan.map fun p => { p with children := 32 }, disc := member.top.disc }) 0 ∧
      5 ∈ matchedChildren (s.modTop fun t => { t with plan := t.plan.map fun p => { p with sbChildren := 32 } }) 1 ∧
      summaryOf (same.modDisc 5 fun d => { d with sum0 := some (summaryFields al) }) 0 = summaryOf same 0 ∧
      summaryOf (s.modDisc 5 fun d => { d with sum0 := some (3, 2, 900, true) }) 0 ≠ summaryOf s 0 ∧
      (treePos s 0).isSome = true ∧ treePos s 1 = none ∧ s.top.main.isSome = true ∧
      w.top.plan.map planRole = some .whorl ∧ w.top.main.isSome = true ∧
      w.top.formSent = false ∧ up.top.main = none := by
  decide

/-- The premises of `Obligations.CollectiveChunksCreditsAbortsAndBuddies` are met. -/
theorem witness_CollectiveChunksCreditsAbortsAndBuddies :
    let coll := layoutBytes 0x44 [(1, 1, 2), (4, 2, 6), (6, 2, 2), (8, 4, 4), (0x10, 1, 1), (0x11, 1, 1), (0x18, 4, 2),
      (0x1C, 4, 2), (0x42, 2, 1)]
    let s := stepping 3 0x12 coll
    let c := s.modCtx 2 fun _ => { bound := true, skein := 6 }
    let full := s.modSkn fun v => { v with ctx := (List.range 16).map fun i => (i, { bound := true, skein := 100 + i }) }
    let r := (bound s).modCtx 2 fun _ => { bound := true, skein := 6, started := true, sig := 77, cw := { toRecv := [(1, 0, 1, 0)] } }
    let ch := chunkOpening 1 0 1 6 0 1 0 0 0 77 2
    let u := takeCredit 2 0 0 r
    let co := (runningColl u 2).getD default
    let q := s.modDisc 3 fun d => { d with st := .quarantined }
    let st := c.modCtx 2 fun c => { c with stopped := true }
    let o := layoutBytes 256 [(0, 1, 0x10), (1, 1, 1), (8, 2, 6)]
    let a := outAddr co (chunkOff co.a 0 (1, 0, 1, 0)) u
    let b := pktBytes { src := 4, op := 0x80 } [0]
    (q.discAt 3).st = .quarantined ∧ (s.discAt 3).st ≠ .quarantined ∧ skeinInFrame s 7 = false ∧ skeinInFrame s 6 = true ∧
      ctxOf s 6 = none ∧ (bindCtx 6 s).1 = some 0 ∧ (bindCtx 6 full).1 = none ∧ skeinInFrame full 6 = true ∧
      ctxOf c (fieldOf o 8 2) = some 2 ∧ (c.ctxAt 2).stopped = false ∧ (st.ctxAt 2).stopped = true ∧ ctxOf st 6 = some 2 ∧
      fieldOf o 2 1 ≤ 1 ∧ runningColl c 2 = none ∧ (pktHdr b).op = 0x80 ∧ (pktHdr []).op ≠ 0x80 ∧
      fieldOf (b.drop 32) 0 1 = 0 ∧ [1, 2, 3, 4].map (fun k => fieldOf ((pktBytes { op := 0x80 } [k]).drop 32) 0 1) =
        [1, 2, 3, 4] ∧ runningImage s ≠ none ∧ runningImage up = none ∧
      myRank s = some 0 ∧ skeinInFrame r 6 = true ∧ (runningColl u 2).isSome = true ∧ fieldOf ch 8 2 = 6 ∧
      compareOpening u co (u.ctxAt 2) ch = .fits (1, 0, 1, 0) ∧ compareOpening u co (u.ctxAt 2) o = .differs 1 ∧
      co.a.elems ≠ 0 ∧ isFinal { co with a := { co.a with n := 3 } } (0, 0, 1, 0) = false ∧ accessRefused u a 4 = none ∧
      ((blocksOf a 4).all fun b => !isUe u b) = true ∧ (List.range 4).all (fun i => (tableByte u (a + i)).isNone) = true ∧
      r.hnk.wmb = [] ∧ r.hp.spill = [] ∧ r.hnk.lostBursts = [] ∧
      (collOf r (imageOf 3 0x12 coll []) (r.ctxAt 2).step).isSome = true ∧ r.skn.abortedSeq = [] := by
  decide +kernel

/-- The premises of `Obligations.PowerReportsBudgetsDroopsAndTheGuard` are met. -/
theorem witness_PowerReportsBudgetsDroopsAndTheGuard :
    let s := up.modPwr fun x => { x with sent := vmod x.sent 2 fun _ => some { power := 90 }, stretch := [.peak] }
    let d := up.modPwrDie 1 fun x => { x with droop := 25, step := 12 }
    let f := up.modPwr fun x => { x with floorW := 1600 }
    State.reset.pkg.powered = false ∧ up.pkg.powered = true ∧ GuardKind.peak ∈ s.pwr.stretch ∧
      GuardKind.peak ∉ up.pwr.stretch ∧ vget up.pwr.sent 2 = none ∧ (vget s.pwr.sent 2).isSome = true ∧
      (up.pwrDieAt 1).droop = 0 ∧ (d.pwrDieAt 1).droop ≠ 0 ∧ 12 ≤ (d.pwrDieAt 1).step ∧ 1400 < f.pwr.floorW ∧
      f.pwr.capUnreachable = false ∧ up.pwr.floorW ≤ 1400 := by
  decide

/-- The premises of `Obligations.HealthSnapshotsLogAndFlash` are met. -/
theorem witness_HealthSnapshotsLogAndFlash :
    let s := (running 2 0 []).modRes fun r => { r with autoDue := true, health := 100, healthArmed := true,
                                                       staged := [{ frame := 3 }] }
    let f := s.modRes fun r => { r with flashRo := true }
    let b := s.modRes fun r => { r with snaps := [{ size := 6080 * 2 ^ 30, complete := false }, { size := 1, complete := true }] }
    up.frm.prog ≠ .running ∧ s.frm.prog = .running ∧ s.res.job = none ∧ autoIsDue s = true ∧ f.res.flashRo = true ∧
      s.res.flashRo = false ∧ (makeRoom (extentBytes (snapExtents s false)) s.res.snaps).isSome = true ∧
      makeRoom (extentBytes (snapExtents (bound b) false)) [{ size := 6080 * 2 ^ 30, complete := true }] = none ∧
      s.res.staged ≠ [] ∧ s.pkg.flyerRuns = true ∧ areaMailbox s .snapshots = none ∧
      areaMailbox ((asked 0x0080 []).modMbx 1 fun m => { m with started := true }) .snapshots ≠ none := by
  decide

/-- The premises of `Obligations.UnitTestsAndDebugAccesses` are met. -/
theorem witness_UnitTestsAndDebugAccesses :
    let u : UnitId := { kind := 0, die := 1, unit := 1 }
    let s := up.modUnit (unitKey 0 1 1) fun x => { x with due := true, progress := 2 }
    let d := (up.modSec fun x => { x with debugUnlocked := true }).modTst fun t => { t with dbgAddr := 0x1002 }
    let f := d.modTst fun t => { t with dbgAddr := 0xFFFFFFFFFF }
    unitTested up 0 1 1 = true ∧ unitTested up 1 1 1 = true ∧ unitTested up 0 5 1 = false ∧ unitIsDue up 0 1 1 = false ∧
      s.pkg.flyerRuns = true ∧ s.pkg.devState ≠ .failed ∧ s.hnk.stopped = false ∧
      unitIsDue s u.kind.val u.die u.unit = true ∧ unitFree s 0 1 1 (segmentNs s 0 1 1 1) = true ∧
      isChosen s 0 1 1 = true ∧ unitTotal 0 1 ≤ (s.unitAt (unitKey 0 1 1)).progress + 1 ∧
      (up.unitAt (unitKey 0 1 1)).progress + 1 < unitTotal 0 1 ∧ barUp d = true ∧ barUp State.reset = false ∧
      d.sec.debugUnlocked = true ∧ up.sec.debugUnlocked = false ∧ (0xC0000000 : Word).toNat.testBit 31 = true ∧
      (0x40000000 : Word).toNat.testBit 31 = false ∧ mapped 0x1000 4 = true ∧ accessRefused d 0x1000 4 = none ∧
      isUe d 0x40 = false ∧ d.hnk.wmb = [] ∧ d.hp.spill = [] ∧ faultyWords d 0x1000 4 = [] ∧ d.tst.dbgWrite = false ∧
      (List.range 4).all (fun i => (tableByte d (0x1000 + i)).isNone) = true ∧
      mapped (f.tst.dbgAddr / 4 * 4) 4 = false := by
  decide

/-- The premises of `Obligations.RegisterAccessesByTheirTypes` are met. -/
theorem witness_RegisterAccessesByTheirTypes :
    let d := up.modSec fun x => { x with debugUnlocked := true }
    let l := { up with latch := [(0x880018, some 5)] }
    barUp State.reset = false ∧ barUp up = true ∧ barUp d = true ∧ d.sec.debugUnlocked = true ∧ up.sec.debugUnlocked = false ∧
      (blockOf 0x700000).1 = .none ∧ isPairHigh 0x80 = false ∧ isPairLow 0x880018 = true ∧ isPairLow 0x80 = false ∧
      isPairHigh 0x880018 = false ∧ isPairHigh 0x1C00108 = true ∧ (0x1400000 : Nat) % 4 = 0 ∧ tabWf up.pairLow = true ∧
      tget up.latch 0x880018 = none ∧ isPairLow 0x88001C = false ∧ isPairHigh 0x88001C = true ∧ tget l.latch (0x88001C - 4) = some 5 := by
  decide

/-! ### Ill-formed operands, one for each check of `WellFormed` -/

/-- R67, R68, R263, R255, R291: payloads of another length. -/
theorem test_illformed_payloads :
    (Instr.tick 0 []).wellFormed = false ∧ (Instr.tickReply 0 []).wellFormed = false ∧
      (Instr.hostMemWrite 0 0 []).wellFormed = false ∧ (Instr.birsp 0 (some [])).wellFormed = false ∧
      (Instr.spillFill 0 (.data [])).wellFormed = false ∧ (Instr.buddyAssignment []).wellFormed = false ∧
      (Instr.laserDriveAdjust []).wellFormed = false ∧ (Instr.calibrationRequest 0 {}).wellFormed = false ∧
      (Instr.dropRequest 0 []).wellFormed = false ∧ (Instr.mapAnnounce 0 []).wellFormed = false ∧
      (Instr.marginReport 0 []).wellFormed = false ∧ (Instr.blockReceive 0 []).wellFormed = false ∧
      (Instr.circuitOpen 0 0 []).wellFormed = false ∧ (Instr.circuitData 0 0 []).wellFormed = false ∧
      (Instr.circuitClose 0 0 []).wellFormed = false := by
  decide

/-- R289, R297, R301, R313, R335: packets, discovery blocks and open blocks of another length. -/
theorem test_illformed_blocks :
    (Instr.putData [] 0).wellFormed = false ∧ (Instr.putReduceData [] 0).wellFormed = false ∧
      (Instr.getRequest [] 0).wellFormed = false ∧ (Instr.getData [] 0).wellFormed = false ∧
      (Instr.fetchAddPacket [] 0).wellFormed = false ∧ (Instr.compareSwapPacket [] 0).wellFormed = false ∧
      (Instr.atomicReply [] 0).wellFormed = false ∧ (Instr.signalIncrement [] 0).wellFormed = false ∧
      (Instr.acknowledgement [] 0).wellFormed = false ∧ (Instr.reRequest [] 0).wellFormed = false ∧
      (Instr.synchronisation [] 0).wellFormed = false ∧ (Instr.laneNotice [] 0).wellFormed = false ∧
      (Instr.hello 0 [] 0).wellFormed = false ∧ (Instr.alignment 0 []).wellFormed = false ∧
      (Instr.summary 0 []).wellFormed = false ∧ (Instr.form 0 []).wellFormed = false ∧
      (Instr.collectiveChunk 0 [] [] 0).wellFormed = false ∧ (Instr.creditOnly 0 []).wellFormed = false ∧
      (Instr.abortChunk 0 []).wellFormed = false := by
  decide

/-- R55, R104, R115, R116, R136, R142, R143, R162, R168: numbers and accesses out of range. -/
theorem test_illformed_accesses :
    (Instr.stepComplete (2 ^ 24)).wellFormed = false ∧ (Instr.syncRelease (2 ^ 32)).wellFormed = false ∧
      (Instr.nmx2Barrier (2 ^ 24)).wellFormed = false ∧ (Instr.matmul (2 ^ 24) 0 []).wellFormed = false ∧
      (Instr.matmul 0 0 [{ outputs := [(2 ^ 16, 0)] }]).wellFormed = false ∧
      (Instr.kernel (2 ^ 24)).wellFormed = false ∧ (Instr.attend { step := 2 ^ 24 }).wellFormed = false ∧
      (Instr.merge { step := 2 ^ 24 }).wellFormed = false ∧ (Instr.xfer (2 ^ 24)).wellFormed = false ∧
      (Instr.allReduce (2 ^ 24)).wellFormed = false ∧ (Instr.reduceScatter (2 ^ 24)).wellFormed = false ∧
      (Instr.allGather (2 ^ 24)).wellFormed = false ∧ (Instr.post (2 ^ 24)).wellFormed = false ∧
      (Instr.flyerCopy (2 ^ 24)).wellFormed = false ∧ (Instr.vectorLoad {}).wellFormed = false ∧
      (Instr.vectorStore { offs := [0], width := 0 }).wellFormed = false ∧ (Instr.scalarLoad {}).wellFormed = false ∧
      (Instr.scalarStore { offs := [0], width := 65 }).wellFormed = false ∧
      (Instr.gather { offs := List.replicate 32 2, widths := List.replicate 32 4 }).wellFormed = false ∧
      (Instr.scatter {}).wellFormed = false ∧
      (Instr.localStoreAtomic {} 0 { offs := List.replicate 32 4 } true .add 0 0 none).wellFormed = false ∧
      (Instr.hankAtomic (.unit (.vector 0) .flyer) 0 0 (.fetchAdd 0) none).wellFormed = false ∧
      (Instr.hankAtomic (.unit .flyer .flyer) 0 4 (.fetchAdd 0) none).wellFormed = false ∧
      (Instr.attend { cells := { words := [(0, true)] } }).wellFormed = false ∧
      (Instr.release .flyer 0 1 .die { lines := [(0, 2 ^ 33)] }).wellFormed = false ∧
      (Instr.burstCrcMismatch 0 [{ data := [0] }] .flyer).wellFormed = false ∧ (Instr.release .flyer (2 ^ 40) 1 .die {}).wellFormed = false ∧
      (Instr.acquire .flyer (2 ^ 40) 1 .die {}).wellFormed = false ∧ (Instr.streamAccess {}).wellFormed = false ∧
      (Instr.streamAccess { len := 1, write := some [] }).wellFormed = false ∧
      (Instr.narrowAccess { addr := 31, len := 2 }).wellFormed = false ∧
      (Instr.spillAccess { addr := 0xFFFFFFFFFF, len := 2 }).wellFormed = false ∧
      (Instr.wmbEntryTimeout (2 ^ 33)).wellFormed = false ∧ (Instr.stackScrub (2 ^ 33) false).wellFormed = false ∧
      (Instr.rowRepair (2 ^ 33)).wellFormed = false ∧ (Instr.retrainComplete true []).wellFormed = false ∧
      (Instr.pinRepairComplete true []).wellFormed = false ∧ (Instr.birsp (2 ^ 34) none).wellFormed = false := by
  decide

/-- R213, R261, R280, R291, R358, R369, R380, R428: the other bounds. -/
theorem test_illformed_bounds :
    (Instr.marginReading [(64, 0, 0)]).wellFormed = false ∧ (Instr.transitDeflect (2 ^ 16)).wellFormed = false ∧
      (Instr.transitDrop (2 ^ 16)).wellFormed = false ∧ (Instr.droopRecover 0 (2 ^ 16) false).wellFormed = false ∧
      (Instr.errorWindowClose 0 4 0).wellFormed = false ∧
      (Instr.snapshotRestore 0 true (some { tag := 2 ^ 64 })).wellFormed = false ∧
      (Instr.recoveryData 0 (List.replicate 241 0)).wellFormed = false ∧
      (Instr.blockPosition 0 none 256).wellFormed = false ∧ (Instr.hostLinkTrained 5 15 1).wellFormed = false := by
  decide

/-- R398: an SPDM request of more than 4,096 bytes. -/
theorem test_illformed_spdm (r : List Byte) (h : r.length = 4097) :
    (Instr.getVersion r).wellFormed = false ∧ (Instr.getCapabilities r).wellFormed = false ∧
      (Instr.negotiateAlgorithms r).wellFormed = false ∧ (Instr.getDigests r).wellFormed = false ∧
      (Instr.getCertificate r).wellFormed = false ∧ (Instr.challenge r).wellFormed = false ∧
      (Instr.getMeasurements r).wellFormed = false ∧ (Instr.keyExchange r).wellFormed = false := by
  simp [Instr.wellFormed, h]

/-- What the hardware brings is well-formed. -/
theorem test_wellformed :
    (Instr.tick 0 (List.replicate 32 0)).wellFormed = true ∧ (Instr.vectorLoad { offs := [0] }).wellFormed = true ∧
      (Instr.narrowAccess { addr := 0x20, len := 32 }).wellFormed = true ∧
      (Instr.errorWindowClose 0 3 0).wellFormed = true := by
  decide

/-! ### The manual's worked examples -/

/-- Chapter 1, "A mixed package": MOD_PKG_CAP = 0x0011_1F1F, and 0x0012_1F7F with CD3 at A1 (R32 gives the words). -/
theorem test_package_capability :
    packageCap #v[0x1113007F, 0x1113007F, 0x1113007F, 0x1111001F, 0x20031F00, 0x20031F00] = 0x00111F1F ∧
      packageCap #v[0x1113007F, 0x1113007F, 0x1113007F, 0x1113007F, 0x20031F00, 0x20031F00] = 0x00121F7F := by
  decide

/-- Chapter 3, "Exact MXFP8": the register holds 0x1_0000 and the FP32 output is 0x2780_0000. -/
theorem test_exact_mxfp8 :
    let w := fun x y => mulNum (decodeNum e4m3 x) (decodeNum e4m3 y)
    let en := (exactElem 0 none [⟨[w 0x3C 0x40, w 0xBC 0x40], some 1⟩, ⟨[w 0x01 0x01], some (-30)⟩]).1
    en = .exact 0x10000 false false false ∧ encodeNum fp32 (entryValue 0 en) = 0x27800000 := by
  decide +kernel

/-- Chapter 3, "The sticky bit decides a tie": 0x3F80_0001 after block 0 and 0x3400_0000 at the end. -/
theorem test_sticky_bit :
    let w := fun x y => mulNum (decodeNum bf16 x) (decodeNum bf16 y)
    let b : BlockPair := ⟨[w 0x3F80 0x3F80, w 0x3380 0x3F80, w 0x2E00 0x2E00], some 0⟩
    canonicalSum 0 [b] = 0x3F800001 ∧ canonicalSum 0 [b, ⟨[w 0xBF80 0x3F80], some 0⟩] = 0x34000000 := by
  decide +kernel

/-- Chapter 3, "Stochastic rounding to BF16": 1 + 2^-9 + 2^-10 rounds down at 0x60_0000 and up at 0xA0_0000. -/
theorem test_stochastic_rounding :
    (convertNum bf16 (.random 0x600000 24) false (.fin false 1027 (-10))).code = 0x3F80 ∧
      (convertNum bf16 (.random 0xA00000 24) false (.fin false 1027 (-10))).code = 0x3F81 ∧
      (convertNum bf16 (.random 0x9FFFFF 24) false (.fin false 1027 (-10))).code = 0x3F80 := by
  decide +kernel

/-- Chapter 5, "One address, both modes". -/
theorem test_address_map :
    let a := 0x5234567800
    let near := State.reset.modHnk fun h => { h with place := 1 <<< 72 }
    chanOf State.reset a = 442 ∧ granuleOf State.reset a = 0x9168A ∧ chanOf State.reset (a + 0x100) = 0x1BB ∧
      chanOf near a = 1046 ∧ granuleOf near a = 0x91A2B := by
  decide +kernel

/-- Chapter 7: three queues with weights 3, 1 and 1 are picked in the order A, B, A, C, A, and so on again. -/
theorem test_queue_order :
    let s := [(1, 3), (2, 1), (3, 1)].foldl (fun s e => s.modQueue e.1 fun q => { q with weight := e.2 }) State.reset
    let pick := fun (r : List (Option Nat) × State) => (r.1 ++ [(selectQueue [1, 2, 3] r.2).1], (selectQueue [1, 2, 3] r.2).2)
    (pick (pick (pick (pick (pick (pick ([], s))))))).1 = [some 1, some 2, some 1, some 3, some 1, some 1] := by
  decide +kernel

/-- Chapter 8, "A host line in the default window". -/
theorem test_window_line :
    windowLine (State.reset.modHp fun h => { h with db := 0x4000000000 }) 0x4001234540 = some (0x7B01234540 / 64) := by
  decide

/-- Chapter 13, "The order decides the bits": the fold over positions 2, 3, 0, 1 ends at 0, the ascending one at 0x3C00. -/
theorem test_skein_order :
    let add := reduceElem (.float bf16) 0
    add (add (add 0x3F80 0x3B80) 0x3B80) 0xBF80 = 0x0000 ∧ add (add (add 0x3B80 0xBF80) 0x3F80) 0x3B80 = 0x3C00 := by
  decide +kernel

/-- Chapter 15: C = 4.9085 s of 128 GiB, DEVICES = 4,096 and 1.8e11 ms give T = 656,820 ms. -/
theorem test_snapshot_interval :
    intervalOf (2 * 137438953472 * 180000000000) (28000000 * 4096) = 656820 := by
  decide +kernel

/-- R276: the check value of CRC-32C over the nine digits, as the polynomial's definition gives it. -/
theorem test_crc32c :
    crc32c [0x31, 0x32, 0x33, 0x34, 0x35, 0x36, 0x37, 0x38, 0x39] = 0xE3069283 := by
  decide +kernel

/-! ### Single steps -/

/-- R82, R210, R250: registers read their reset values. -/
theorem test_reset_registers :
    regRead State.reset 0x100000 = 0x32 ∧ regRead State.reset 0x100028 = 0xFFFFFFFF := by
  decide

/-- R82: a write of any value restarts FRM_SLACK_MIN. -/
theorem test_slack_min :
    (match step { up with frm := { up.frm with slackMin := 5 }, pending := [.frmSlackMinWrite 1] } with
      | .next s => regRead s 0x100028 == 0xFFFFFFFF && s.pending.isEmpty
      | _ => false) = true := by
  decide

/-- R39: the loss of the reference sets REF_LOST and nothing fails yet. -/
theorem test_reference_loss :
    (match step { up with pending := [.referenceLoss, .flr] } with
      | .next s => !s.pkg.refOk && s.pkg.devState == .ready && s.pending == [.flr]
      | _ => false) = true := by
  decide

/-- R162: an access to an address that nothing is mapped to stops by name. -/
theorem test_unmapped :
    (match step { up with pending := [.streamAccess { addr := 0xFF00000000, len := 4 }] } with
      | .fault f => f == .unmappedAddress 0xFF00000000
      | _ => false) = true := by
  decide

/-- The queue is first in, first out, and empty at reset; an empty queue idles. -/
theorem test_idle :
    step State.reset = .next State.reset := by
  rfl

end Sys2Proof.Tests
end

/-!
PROOFS. Input power events, a die that does not answer, and operating-point transitions (R26, R38, R40, R347, R365,
R420).
-/

namespace Sys2Proof.Machine

/-! ### What the commands call -/

theorem exec_stage1Start (s : State) :
    exec .stage1Start s = .next (if s.pkg.powered then s else
      (s.modMdl fun x => { x with present := true }).modPkg fun p =>
        { p with powered := true, resetReq := some (.cold, .powerOn) }) := rfl

theorem exec_inputUndervoltage (s : State) :
    exec .inputUndervoltage s = .next (if s.pkg.powered then triggerReset .cold .undervoltage s else s) := rfl

theorem exec_inputLowDip (s : State) :
    exec .inputLowDip s =
      .next (if s.pkg.powered then escalate { row := 47 } (s.modPwr fun p => { p with inputLow := true }) else s) := rfl

theorem exec_inputHigh (s : State) :
    exec .inputHigh s = .next (if s.pkg.powered then s.modPwr fun p => { p with inputHigh := true } else s) := rfl

theorem exec_inputOvervoltage (s : State) :
    exec .inputOvervoltage s = .next (if s.pkg.powered then powerOff s else s) := rfl

theorem exec_presentBreak (s : State) :
    exec .presentBreak s =
      .next ((if s.pkg.powered then powerOff s else s).modMdl fun x => { x with present := false }) := rfl

theorem exec_dieAnswerTimeout (die : Die) (s : State) :
    exec (.dieAnswerTimeout die) s =
      .next (if s.pkg.devState = .boot && s.pkg.bootCode = 0 && s.pkg.bar0Up then bootHalt 0x13 die 0 s else s) := rfl

theorem exec_opTransitionRequest (d : CDie) (op : Fin 8) (s : State) :
    exec (.opTransitionRequest d op) s = .next (s.modOp d (opRequest op)) := rfl

theorem exec_targetLoopLock (d : CDie) (s : State) :
    exec (.targetLoopLock d) s = .next (s.modOp d opLocked) := rfl

theorem exec_voltageRiseComplete (d : CDie) (s : State) :
    exec (.voltageRiseComplete d) s = .next (s.modOp d opRisen) := rfl

theorem exec_clockSwitchPauseEnd (d : CDie) (s : State) :
    exec (.clockSwitchPauseEnd d) s = .next (s.modOp d opPaused) := rfl

theorem exec_opTransitionComplete (d : CDie) (s : State) :
    exec (.opTransitionComplete d) s = .next (s.modOp d opFallen) := rfl

/-! ### A triggered reset -/

/-- R43: no domain but COLD absorbs a COLD reset. -/
theorem cold_weight_le_iff (d : ResetDomain) : ResetDomain.cold.weight ≤ d.weight ↔ d = .cold := by
  cases d <;> decide

/-- R43: a reset that nothing as heavy absorbs is triggered, and ends a COMPUTE reset in progress. -/
theorem triggerReset_of_heavier (dom : ResetDomain) (src : ResetSource) (s : State)
    (h : ∀ d, resetUnderway s = some d → ¬ dom.weight ≤ d.weight) :
    triggerReset dom src s = s.modPkg fun p => { p with resetReq := some (dom, src), computeReset := false } := by
  unfold triggerReset
  cases hu : resetUnderway s with
  | none => rfl
  | some d => simp [h d hu]

/-- R40, R43: a COLD reset is triggered unless one is in progress. -/
theorem triggerReset_cold (src : ResetSource) (s : State) (h : resetUnderway s ≠ some .cold) :
    triggerReset .cold src s = s.modPkg fun p => { p with resetReq := some (.cold, src), computeReset := false } :=
  triggerReset_of_heavier .cold src s fun d hd hle => h (hd.trans (congrArg some ((cold_weight_le_iff d).mp hle)))

/-- R370, R434: an event that takes no level above 1, and that its row does not post, counts and posts nothing. -/
theorem escalate_level_one (row : Nat) (s : State) : escalate { row := row } s = s := rfl

/-! ### OFF -/

@[simp] theorem powerOff_powered (s : State) : (powerOff s).pkg.powered = false := rfl
@[simp] theorem powerOff_devState (s : State) : (powerOff s).pkg.devState = .off := rfl
@[simp] theorem powerOff_flyerRuns (s : State) : (powerOff s).pkg.flyerRuns = false := rfl
@[simp] theorem powerOff_bar0Up (s : State) : (powerOff s).pkg.bar0Up = false := rfl
@[simp] theorem powerOff_pending (s : State) : (powerOff s).pending = s.pending := rfl
@[simp] theorem powerOff_mem (s : State) : (powerOff s).mem = [] := rfl
@[simp] theorem powerOff_win (s : State) : (powerOff s).win = [] := rfl
@[simp] theorem powerOff_frm (s : State) : (powerOff s).frm = {} := rfl
@[simp] theorem powerOff_bob (s : State) : (powerOff s).bob = {} := rfl
@[simp] theorem powerOff_hp (s : State) : (powerOff s).hp = {} := rfl
@[simp] theorem powerOff_fly (s : State) : (powerOff s).fly = {} := rfl
@[simp] theorem powerOff_svnWord (s : State) : (powerOff s).sec.svnWord = s.sec.svnWord := rfl
@[simp] theorem powerOff_slot (s : State) : (powerOff s).sec.slot = s.sec.slot := rfl
@[simp] theorem powerOff_log (s : State) : (powerOff s).res.log = s.res.log := rfl

/-- Settles O8: each event is its call under the power that it needs; OFF is what `powerOff` leaves of each part. -/
theorem powerEventsActAsTheManualSays : Obligations.PowerEventsActAsTheManualSays := by
  unfold Obligations.PowerEventsActAsTheManualSays
  refine ⟨fun s hoff => ?start, fun s hon hcold => ?undervoltage, fun s hon => ?dip, fun s hon => ?high,
    fun s hon => ?overvoltage, fun s => ?present⟩
  case start =>
    rw [exec_stage1Start, hoff]
    rfl
  case undervoltage =>
    rw [exec_inputUndervoltage, if_pos hon, triggerReset_cold _ _ hcold]
    rfl
  case dip =>
    rw [exec_inputLowDip, if_pos hon, escalate_level_one]
    rfl
  case high =>
    rw [exec_inputHigh, if_pos hon]
    rfl
  case overvoltage =>
    refine ⟨powerOff s, ?_, by simp⟩
    rw [exec_inputOvervoltage, if_pos hon]
  case present =>
    refine ⟨_, exec_presentBreak s, ?_⟩
    cases hp : s.pkg.powered with
    | true => simp
    | false => exact ⟨hp, rfl, nofun, fun _ => rfl⟩

/-! ### A die that does not answer -/

/-- R27: what a halt of boot changes. -/
theorem bootHalt_eq (code a b : Nat) (s : State) :
    bootHalt code a b s =
      { s with pkg := { s.pkg with devState := .failed, bootCode := code, dieA := a, dieB := b, wayOut := .cold,
                                   flyerRuns := false },
               sec := { s.sec with challengeStale := s.sec.challengeStale || s.sec.challenge.isSome } } := rfl

/-- Settles O9: while boot waits for the dies the command is a halt of boot with CODE 0x13 at that die. -/
theorem dieThatDoesNotAnswerHaltsBoot : Obligations.DieThatDoesNotAnswerHaltsBoot := by
  unfold Obligations.DieThatDoesNotAnswerHaltsBoot
  intro die s hboot hcode hbar
  have hwaits : (s.pkg.devState = .boot && s.pkg.bootCode = 0 && s.pkg.bar0Up) = true := by
    simp [hboot, hcode, hbar]
  rw [exec_dieAnswerTimeout, if_pos hwaits, bootHalt_eq]

/-! ### Operating points -/

/-- Two updates of a die's operating point that agree on its value lead to the same state. -/
theorem next_modOp_congr {s : State} {i : Nat} {f g : OpState → OpState} (h : f (s.opAt i) = g (s.opAt i)) :
    (.next (s.modOp i f) : Host.Outcome State Fault Refusal) = .next (s.modOp i g) := by
  simp only [State.modOp, State.modPkg, vmod_congr s.pkg.op i f g h]

/-- R38: a request at a steady die starts the transition towards `op`. -/
theorem opRequest_of_steady (op : Fin 8) (o : OpState) (h : o.phase = .steady) :
    opRequest op o =
      if o.current < op then { o with target := op, phase := .upLock, waiting := none }
      else if op < o.current then { o with target := op, phase := .downLock, waiting := none }
      else { o with target := o.current, waiting := none } := by
  rw [opRequest, if_pos h, opStart, ← h]

/-- R38: a request during a transition waits. -/
theorem opRequest_of_transit (op : Fin 8) (o : OpState) (h : o.phase ≠ .steady) :
    opRequest op o = { o with waiting := some op } :=
  if_neg h

theorem opLocked_of_upLock (o : OpState) (h : o.phase = .upLock) : opLocked o = { o with phase := .upVolt } := by
  simp only [opLocked, h]

theorem opLocked_of_downLock (o : OpState) (h : o.phase = .downLock) :
    opLocked o = { o with phase := .downPause, clock := o.target } := by
  simp only [opLocked, h]

theorem opRisen_of_upVolt (o : OpState) (h : o.phase = .upVolt) :
    opRisen o = { o with phase := .upPause, clock := o.target } := by
  simp only [opRisen, h]

/-- R38: with no request waiting, a transition ends steady at its target. -/
theorem opFinish_of_none_waiting (o : OpState) (h : o.waiting = none) :
    opFinish o = { o with current := o.target, clock := o.target, phase := .steady } := by
  simp only [opFinish, h]

theorem opPaused_of_upPause (o : OpState) (h : o.phase = .upPause) : opPaused o = opFinish o := by
  simp only [opPaused, h]

theorem opPaused_of_downPause (o : OpState) (h : o.phase = .downPause) :
    opPaused o = { o with phase := .downVolt } := by
  simp only [opPaused, h]

theorem opFallen_of_downVolt (o : OpState) (h : o.phase = .downVolt) : opFallen o = opFinish o := by
  simp only [opFallen, h]

/-- Settles O12: each command updates its die's entry alone, so the update is compared on that entry's value. -/
theorem operatingPointChangesFollowTheirSteps : Obligations.OperatingPointChangesFollowTheirSteps := by
  unfold Obligations.OperatingPointChangesFollowTheirSteps
  refine ⟨fun d op s h => ?request, fun d op s h => ?wait, fun d s h => ?lockUp, fun d s h => ?lockDown,
    fun d s h => ?rise, fun d s h hw => ?pauseUp, fun d s h => ?pauseDown, fun d s h hw => ?fall⟩
  case request =>
    rw [exec_opTransitionRequest]
    exact next_modOp_congr (opRequest_of_steady op _ h)
  case wait =>
    rw [exec_opTransitionRequest]
    exact next_modOp_congr (opRequest_of_transit op _ h)
  case lockUp =>
    rw [exec_targetLoopLock]
    exact next_modOp_congr (opLocked_of_upLock _ h)
  case lockDown =>
    rw [exec_targetLoopLock]
    exact next_modOp_congr (opLocked_of_downLock _ h)
  case rise =>
    rw [exec_voltageRiseComplete]
    exact next_modOp_congr (opRisen_of_upVolt _ h)
  case pauseUp =>
    rw [exec_clockSwitchPauseEnd]
    exact next_modOp_congr ((opPaused_of_upPause _ h).trans (opFinish_of_none_waiting _ hw))
  case pauseDown =>
    rw [exec_clockSwitchPauseEnd]
    exact next_modOp_congr (opPaused_of_downPause _ h)
  case fall =>
    rw [exec_opTransitionComplete]
    exact next_modOp_congr ((opFallen_of_downVolt _ h).trans (opFinish_of_none_waiting _ hw))

end Sys2Proof.Machine

/-!
PROOFS. How the blocks of a collective and their halves cut the vector, and which chunks the ring sends of them (R331,
R332, R334).
-/

namespace Sys2Proof.Machine

/-! ### Blocks -/

@[simp] theorem blockStart_zero (a : CollArgs) : blockStart a 0 = 0 := by
  simp [blockStart]

@[simp] theorem blockStart_members (a : CollArgs) (h : 0 < a.n) : blockStart a a.n = a.elems :=
  Nat.mul_div_cancel_left a.elems h

theorem blockStart_mono (a : CollArgs) {i j : Nat} (h : i ≤ j) : blockStart a i ≤ blockStart a j :=
  Nat.div_le_div_right (Nat.mul_le_mul_right a.elems h)

/-- A block ends where the next one begins. -/
theorem blockStart_add_blockLen (a : CollArgs) (j : Nat) : blockStart a j + blockLen a j = blockStart a (j + 1) :=
  Nat.add_sub_of_le (blockStart_mono a (Nat.le_succ j))

/-- The first `m` blocks hold every element before block `m`. -/
theorem sum_blockLen_range (a : CollArgs) (m : Nat) : ((List.range m).map (blockLen a)).sum = blockStart a m := by
  induction m with
  | zero => simp
  | succ m ih =>
    rw [List.range_succ, List.map_append, List.sum_append, ih]
    simpa using blockStart_add_blockLen a m

/-- A vector of fewer elements than members leaves a member without a block. -/
theorem exists_blockLen_eq_zero (a : CollArgs) (h : a.elems < a.n) : ∃ j, j < a.n ∧ blockLen a j = 0 := by
  by_contra! hfull
  have hone : ∀ x ∈ (List.range a.n).map (blockLen a), 1 ≤ x := by
    intro x hx
    obtain ⟨j, hj, rfl⟩ := List.mem_map.mp hx
    exact Nat.one_le_iff_ne_zero.mpr (hfull j (List.mem_range.mp hj))
  have hsum := List.length_le_sum_of_one_le _ hone
  rw [sum_blockLen_range, blockStart_members a (by omega), List.length_map, List.length_range] at hsum
  omega

/-! ### Halves -/

@[simp] theorem halfLen_cw (a : CollArgs) (j : Nat) : halfLen a 0 j = (blockLen a j + 1) / 2 := rfl

@[simp] theorem halfLen_ccw (a : CollArgs) (j : Nat) : halfLen a 1 j = blockLen a j / 2 := rfl

@[simp] theorem halfFirst_cw (a : CollArgs) (j : Nat) : halfFirst a 0 j = blockStart a j := rfl

@[simp] theorem halfFirst_ccw (a : CollArgs) (j : Nat) :
    halfFirst a 1 j = halfFirst a 0 j + halfLen a 0 j := rfl

/-- The two halves are the whole block. -/
theorem halfLen_cw_add_ccw (a : CollArgs) (j : Nat) : halfLen a 0 j + halfLen a 1 j = blockLen a j := by
  rw [halfLen_cw, halfLen_ccw]
  omega

/-! ### Chunks -/

theorem lt_ceilDiv_iff {k n d : Nat} (hd : 0 < d) : k < ceilDiv n d ↔ d * k < n := by
  unfold ceilDiv
  rw [Nat.lt_iff_add_one_le, Nat.le_div_iff_mul_le hd, Nat.add_mul, Nat.mul_comm k d]
  omega

/-- R334: a chunk that the ring sends begins within its half. -/
theorem chunk_begins_in_half {op : Nat} {a : CollArgs} {d p : Nat} {x : ChunkId} (he : a.elems ≠ 0)
    (hx : x ∈ ringChunks op a d p) : chunkBytes * x.2.2.2 < a.elemSize * halfLen a d x.2.2.1 := by
  rw [ringChunks, if_neg he] at hx
  obtain ⟨ph, _, hx⟩ := List.mem_flatMap.mp hx
  obtain ⟨t, _, hx⟩ := List.mem_flatMap.mp hx
  obtain ⟨k, hk, rfl⟩ := List.mem_map.mp hx
  exact (lt_ceilDiv_iff (by decide)).mp (List.mem_range.mp hk)

/-- R334: a chunk that begins within its half ends within it. -/
theorem chunk_ends_in_half {a : CollArgs} {d : Nat} {x : ChunkId}
    (h : chunkBytes * x.2.2.2 < a.elemSize * halfLen a d x.2.2.1) :
    chunkOff a d x + chunkLen a d x ≤ a.elemSize * (halfFirst a d x.2.2.1 + halfLen a d x.2.2.1) := by
  unfold chunkOff chunkLen
  rw [Nat.mul_add]
  omega

/-- Settles O6: the blocks telescope from 0 to E, and the ring cuts each half into chunks from its first byte on. -/
theorem blocksOfACollectivePartitionTheVector : Obligations.BlocksOfACollectivePartitionTheVector := by
  unfold Obligations.BlocksOfACollectivePartitionTheVector
  refine ⟨fun a j hn => ?blocks, fun a hn => ?cover, fun op a d p x he hx => ?chunks⟩
  case blocks =>
    exact ⟨rfl, rfl, blockStart_add_blockLen a j, blockStart_zero a, blockStart_members a hn, halfLen_cw a j,
      halfFirst_cw a j, halfFirst_ccw a j, halfLen_cw_add_ccw a j⟩
  case cover =>
    exact ⟨(sum_blockLen_range a a.n).trans (blockStart_members a hn), exists_blockLen_eq_zero a⟩
  case chunks =>
    have hbegin := chunk_begins_in_half he hx
    refine ⟨fun hempty => ?_, hbegin, chunk_ends_in_half hbegin⟩
    simp [hempty] at hbegin

end Sys2Proof.Machine

/-!
PROOFS. The signature of a collective step in 64-bit arithmetic, and the open blocks that carry it (R11, R334-R336, R338).
-/

namespace Sys2Proof.Machine

/-! ### Fields of a layout -/

@[simp] theorem length_leBytes (n v : Nat) : (leBytes n v).length = n := by
  induction n generalizing v with
  | zero => rfl
  | succ n ih => simp [leBytes, ih]

/-- A value that fits its bytes reads back from them. -/
theorem leNat_leBytes {n v : Nat} (h : v < 256 ^ n) : leNat (leBytes n v) = v := by
  induction n generalizing v with
  | zero => simp [leBytes, leNat] at *; omega
  | succ n ih =>
    have hq : v / 256 < 256 ^ n := Nat.div_lt_of_lt_mul (by rwa [pow_succ'] at h)
    rw [leBytes, leNat, ih hq, BitVec.toNat_ofNat]
    omega

@[simp] theorem length_overlay (old new : List Byte) (off : Nat) : (overlay old off new).length = old.length := by
  simp only [overlay, List.length_append, List.length_take, List.length_drop]
  omega

@[simp] theorem length_layoutBytes (size : Nat) (fs : List (Nat × Nat × Nat)) :
    (layoutBytes size fs).length = size := by
  induction fs with
  | nil => exact List.length_replicate
  | cons f fs ih => exact (length_overlay _ _ _).trans ih

/-- A slice that lies within its bytes is cut out of them. -/
theorem sliceBytes_of_le {bs : List Byte} {off n : Nat} (h : off + n ≤ bs.length) :
    sliceBytes bs off n = (bs.drop off).take n := by
  have hpad : n - (bs.drop off).length = 0 := by rw [List.length_drop]; omega
  rw [sliceBytes, fitBytes, hpad, List.replicate_zero, List.append_nil]

/-- What is laid over reads back where it lies. -/
theorem sliceBytes_overlay_same {old new : List Byte} {off : Nat} (h : off + new.length ≤ old.length) :
    sliceBytes (overlay old off new) off new.length = new := by
  have htake : (old.take off).length = off := by rw [List.length_take]; omega
  have hnew : new.take (old.length - off) = new := List.take_of_length_le (by omega)
  rw [sliceBytes_of_le (by rwa [length_overlay]), overlay, hnew, List.append_assoc, List.drop_left' htake, List.take_left]

/-- What is laid over leaves every other byte. -/
theorem getElem?_overlay_outside {old new : List Byte} {off i : Nat} (h : i < off ∨ off + new.length ≤ i) :
    (overlay old off new)[i]? = old[i]? := by
  rcases Nat.lt_or_ge i old.length with hi | hi
  · rcases h with h | h
    · have hin : i < (old.take off).length := by rw [List.length_take]; omega
      rw [overlay, List.append_assoc, List.getElem?_append_left hin, List.getElem?_take_of_lt h]
    · have hlen : (old.take off ++ new.take (old.length - off)).length = off + new.length := by
        rw [List.length_append, List.length_take, List.length_take]
        omega
      rw [overlay, List.getElem?_append_right (by omega), hlen, List.getElem?_drop, Nat.add_sub_cancel' h]
  · rw [List.getElem?_eq_none (by rwa [length_overlay]), List.getElem?_eq_none hi]

/-- What is laid over beside a slice does not change it. -/
theorem sliceBytes_overlay_apart {old new : List Byte} {off off' n : Nat}
    (h : off + n ≤ off' ∨ off' + new.length ≤ off) (hlen : off + n ≤ old.length) :
    sliceBytes (overlay old off' new) off n = sliceBytes old off n := by
  rw [sliceBytes_of_le (by rwa [length_overlay]), sliceBytes_of_le hlen]
  apply List.ext_getElem?
  intro i
  rcases Nat.lt_or_ge i n with hi | hi
  · rw [List.getElem?_take_of_lt hi, List.getElem?_take_of_lt hi, List.getElem?_drop, List.getElem?_drop,
      getElem?_overlay_outside (by omega)]
  · rw [List.getElem?_take_eq_none hi, List.getElem?_take_eq_none hi]

/-- R11: a field laid out last reads back where its value fits its bytes. -/
theorem fieldOf_layoutBytes_head {size off n v : Nat} {fs : List (Nat × Nat × Nat)} (hsize : off + n ≤ size)
    (hv : v < 256 ^ n) : fieldOf (layoutBytes size ((off, n, v) :: fs)) off n = v := by
  have hslice := sliceBytes_overlay_same (old := layoutBytes size fs) (new := leBytes n v) (off := off) (by simpa)
  rw [length_leBytes] at hslice
  rw [layoutBytes, fieldOf, hslice, leNat_leBytes hv]

/-- R11: a field reads past a field that lies beside it. -/
theorem fieldOf_layoutBytes_skip {size off n off' n' v : Nat} {fs : List (Nat × Nat × Nat)} (hsize : off + n ≤ size)
    (h : off + n ≤ off' ∨ off' + n' ≤ off) :
    fieldOf (layoutBytes size ((off', n', v) :: fs)) off n = fieldOf (layoutBytes size fs) off n := by
  rw [layoutBytes, fieldOf, sliceBytes_overlay_apart (by rwa [length_leBytes]) (by rwa [length_layoutBytes]), fieldOf]

/-! ### The open block of a chunk -/

/-- R335: an open block carries the signature it is laid out with. -/
theorem chunkOpening_sig (phase d count skein step shard credit seq chunk sig bytes : Nat) (h : sig < 2 ^ 64) :
    fieldOf (chunkOpening phase d count skein step shard credit seq chunk sig bytes) 0x18 8 = sig := by
  unfold chunkOpening
  iterate 10 rw [fieldOf_layoutBytes_skip (by decide) (by decide)]
  exact fieldOf_layoutBytes_head (by decide) h

/-- R334: the only open block of a chunk is its first block. -/
theorem payload_of_open_chunkBlock {dest src resv x : Nat} {opening data : List Byte} {b : Blk}
    (hb : b ∈ chunkBlocks dest src resv x opening data) (ht : b.typ = 1) : b.payload = opening := by
  simp only [chunkBlocks, List.mem_append, List.mem_singleton, List.mem_map] at hb
  obtain (rfl | ⟨i, _, rfl⟩) | rfl := hb
  · rfl
  · exact absurd ht (show 2 ≠ 1 by decide)
  · exact absurd ht (show 3 ≠ 1 by decide)

theorem chunkBlocks_ne_nil (dest src resv x : Nat) (opening data : List Byte) :
    chunkBlocks dest src resv x opening data ≠ [] := by
  simp [chunkBlocks]

/-! ### Blocks that wait for a circuit -/

/-- R335: at least one block put behind a strand's own blocks stands there, whatever the table of links lists. -/
theorem queueBlocks_own (c : CircEntry) (blocks : Nat → List Blk) (s : State) (h : blocks (freeXfer s c.resv) ≠ []) :
    ((queueBlocks c blocks s).linkAt c.strand).own =
      (s.linkAt c.strand).own ++ (blocks (freeXfer s c.resv)).map fun b => (c.resv, b) := by
  have hown : ∀ l : Link, { l with own := l.own ++ (blocks (freeXfer s c.resv)).map fun b => (c.resv, b) } ≠ default := by
    intro l hl
    have hnil : l.own ++ (blocks (freeXfer s c.resv)).map (fun b => (c.resv, b)) = [] := congrArg Link.own hl
    exact h (List.map_eq_nil_iff.mp (List.append_eq_nil_iff.mp hnil).2)
  unfold queueBlocks State.linkAt
  rw [State.modLink_fab, State.modFab_fab]
  exact congrArg Link.own (tget_tput_value (hown _))

@[simp] theorem modSkn_linkAt (f : Skn → Skn) (i : Nat) (s : State) : (s.modSkn f).linkAt i = s.linkAt i := rfl

@[simp] theorem modCtx_linkAt (k : Nat) (f : Ctx → Ctx) (i : Nat) (s : State) :
    (s.modCtx k f).linkAt i = s.linkAt i := rfl

@[simp] theorem credited_linkAt (k d i : Nat) (s : State) : (credited k d s).linkAt i = s.linkAt i := rfl

/-- R338: the signature as it stands in the open blocks among blocks that wait. -/
def OpenBlocksCarry (sig : Nat) (bs : List (Nat × Blk)) : Prop :=
  ∀ q ∈ bs, q.2.typ = 1 → fieldOf q.2.payload 0x18 8 = sig

/-- Blocks that carry a signature in their open blocks carry it on their circuit. -/
theorem openBlocksCarry_map {sig : Nat} {bs : List Blk} (resv : Nat)
    (h : ∀ b ∈ bs, b.typ = 1 → fieldOf b.payload 0x18 8 = sig) :
    OpenBlocksCarry sig (bs.map fun b => (resv, b)) := by
  intro q hq
  obtain ⟨b, hb, rfl⟩ := List.mem_map.mp hq
  exact h b hb

/-- R338: the blocks of a chunk that a member sends wait behind its strand's own, and their open block carries the
context's signature. -/
theorem sendChunk_appends_signed_blocks (co : Coll) (k d : Nat) (x : ChunkId) (s : State)
    (h : (s.ctxAt k).sig < 2 ^ 64) : ∃ bs : List (Nat × Blk),
    ((sendChunk co k d x s).linkAt (co.circuit d x.2.2.2).strand).own =
      (s.linkAt (co.circuit d x.2.2.2).strand).own ++ bs ∧ bs ≠ [] ∧ OpenBlocksCarry (s.ctxAt k).sig bs := by
  simp only [sendChunk, credited_linkAt, modSkn_linkAt, modCtx_linkAt]
  refine ⟨_, queueBlocks_own (co.circuit d x.2.2.2) _ s ?_, ?_, openBlocksCarry_map _ ?_⟩
  · exact chunkBlocks_ne_nil _ _ _ _ _ _
  · exact fun hnil => chunkBlocks_ne_nil _ _ _ _ _ _ (List.map_eq_nil_iff.mp hnil)
  · intro b hb ht
    rw [payload_of_open_chunkBlock hb ht]
    exact chunkOpening_sig _ _ _ _ _ _ _ _ _ _ _ h

/-- R336, R338: what a member sends to return credit is no block, or an open block with the context's signature. -/
theorem returnCredit_appends_signed_blocks (co : Coll) (k d : Nat) (s : State) (h : (s.ctxAt k).sig < 2 ^ 64) :
    ∃ bs : List (Nat × Blk),
    ((returnCredit co k d s).linkAt (co.circuit (1 - d) 0).strand).own =
      (s.linkAt (co.circuit (1 - d) 0).strand).own ++ bs ∧ OpenBlocksCarry (s.ctxAt k).sig bs := by
  unfold returnCredit
  dsimp only
  split
  · exact ⟨[], (List.append_nil _).symm, fun q hq => absurd hq List.not_mem_nil⟩
  · rw [credited_linkAt]
    refine ⟨_, queueBlocks_own (co.circuit (1 - d) 0) _ s (List.cons_ne_nil _ _), openBlocksCarry_map _ ?_⟩
    intro b hb _
    rw [List.mem_singleton.mp hb]
    exact chunkOpening_sig _ _ _ _ _ _ _ _ _ _ _ h

/-! ### The context of a step that opens -/

/-- R327, R336, R338: the context of a step that opens is listed, since it has started. -/
theorem openCtx_ctxAt_seq_sig (co : Coll) (k : Nat) (s : State) :
    ((openCtx co k s).ctxAt k).seq = tget s.skn.seq co.a.skein ∧
      ((openCtx co k s).ctxAt k).sig = skeinSig co.a co.e.opcode (tget s.skn.seq co.a.skein) := by
  unfold openCtx State.ctxAt
  dsimp only
  rw [State.modCtx_skn]
  dsimp only [tmod]
  rw [tget_tput_value fun hc => Bool.noConfusion (congrArg Ctx.started hc)]
  exact ⟨rfl, rfl⟩

/-! ### 64-bit arithmetic -/

/-- A field shifted to its place loses no bit. -/
theorem toNat_ofNat_shiftLeft {v i : Nat} (h : v * 2 ^ i < 2 ^ 64) : (BitVec.ofNat 64 v <<< i).toNat = v <<< i := by
  have hv : v < 2 ^ 64 := lt_of_le_of_lt (Nat.le_mul_of_pos_right v (Nat.two_pow_pos i)) h
  rw [BitVec.toNat_shiftLeft, BitVec.toNat_ofNat, Nat.mod_eq_of_lt hv, Nat.mod_eq_of_lt (by rwa [Nat.shiftLeft_eq])]

/-- R338: w0 is the sum of its fields, each at its place. -/
theorem toNat_signature_fields {skein opc redOp dtype : Nat} (hs : skein < 2 ^ 16) (ho : opc < 2 ^ 8)
    (hr : redOp < 2 ^ 8) (hd : dtype < 2 ^ 8) :
    ((BitVec.ofNat 64 skein <<< 48) ||| (BitVec.ofNat 64 opc <<< 40) ||| (BitVec.ofNat 64 redOp <<< 32) |||
      (BitVec.ofNat 64 dtype <<< 24)).toNat = skein * 2 ^ 48 + opc * 2 ^ 40 + redOp * 2 ^ 32 + dtype * 2 ^ 24 := by
  rw [BitVec.toNat_or, BitVec.toNat_or, BitVec.toNat_or, toNat_ofNat_shiftLeft (by omega),
    toNat_ofNat_shiftLeft (by omega), toNat_ofNat_shiftLeft (by omega), toNat_ofNat_shiftLeft (by omega),
    Nat.or_assoc, Nat.or_assoc, ← Nat.shiftLeft_add_eq_or_of_lt (i := 32) (by omega),
    ← Nat.shiftLeft_add_eq_or_of_lt (i := 40) (by omega), ← Nat.shiftLeft_add_eq_or_of_lt (i := 48) (by omega)]
  omega

/-- R338: w1 is ELEMS above SEQ. -/
theorem toNat_signature_count {elems seq : Nat} (he : elems < 2 ^ 32) (hq : seq < 2 ^ 32) :
    ((BitVec.ofNat 64 elems <<< 32) ||| BitVec.ofNat 64 seq).toNat = elems * 2 ^ 32 + seq := by
  rw [BitVec.toNat_or, toNat_ofNat_shiftLeft (by omega), BitVec.toNat_ofNat, Nat.mod_eq_of_lt (by omega),
    ← Nat.shiftLeft_add_eq_or_of_lt hq, Nat.shiftLeft_eq]

/-- R338: what the two words of a signature are mixed to. C1 and C2 are arguments, so that no product with a numeral is
ever compared by evaluation. -/
def mixSignature (c1 c2 w0 w1 : BitVec 64) : BitVec 64 :=
  let h1 := w0 * c1
  let h2 := ((h1 ^^^ (h1 >>> 31)) ^^^ w1) * c2
  let h3 := (h2 ^^^ (h2 >>> 29)) * c1
  h3 ^^^ (h3 >>> 32)

/-- The mix in natural numbers reduces each product modulo 2^64. -/
theorem toNat_mixSignature (c1 c2 w0 w1 : BitVec 64) :
    let h1 := w0.toNat * c1.toNat % 2 ^ 64
    let h2 := ((h1 ^^^ (h1 >>> 31)) ^^^ w1.toNat) * c2.toNat % 2 ^ 64
    let h3 := (h2 ^^^ (h2 >>> 29)) * c1.toNat % 2 ^ 64
    (mixSignature c1 c2 w0 w1).toNat = h3 ^^^ (h3 >>> 32) := by
  simp only [mixSignature, BitVec.toNat_xor, BitVec.toNat_ushiftRight, BitVec.toNat_mul]

theorem toNat_C1 : (0xB5E32C974F1D8A63 : BitVec 64).toNat = hashC1 := by decide

theorem toNat_C2 : (0xE7A15D3B9C24F6C5 : BitVec 64).toNat = hashC2 := by decide

/-- R338: the signature is the mix of the two words that hold its fields. -/
theorem skeinSig_eq_mixSignature {a : CollArgs} {opc seq : Nat} {w0 w1 : BitVec 64}
    (hw0 : w0.toNat = a.skein * 2 ^ 48 + opc % 256 * 2 ^ 40 + a.redOp * 2 ^ 32 + a.dtype * 2 ^ 24)
    (hw1 : w1.toNat = a.elems * 2 ^ 32 + seq) :
    skeinSig a opc seq = (mixSignature 0xB5E32C974F1D8A63 0xE7A15D3B9C24F6C5 w0 w1).toNat := by
  rw [toNat_mixSignature, toNat_C1, toNat_C2, hw0, hw1]
  rfl

/-- Settles O7: 64-bit arithmetic is the model's arithmetic modulo 2^64 on words that are sums of their fields, and
what a member sends is laid out with its context's signature. -/
theorem signatureOfACollectiveStep : Obligations.SignatureOfACollectiveStep := by
  unfold Obligations.SignatureOfACollectiveStep
  refine ⟨fun a opc seq hs hr hd he hq => ?signature, openCtx_ctxAt_seq_sig, sendChunk_appends_signed_blocks,
    chunkOpening_sig, returnCredit_appends_signed_blocks⟩
  case signature =>
    have hopc : opc % 256 < 2 ^ 8 := Nat.mod_lt opc (by decide)
    exact skeinSig_eq_mixSignature (toNat_signature_fields hs hopc hr hd) (toNat_signature_count he hq)

end Sys2Proof.Machine

/-!
PROOFS. One step: which command it takes, what every command keeps, where the machine stops, and the state after reset
(R109, R141, R162; the reset values of the registers).
-/

namespace Sys2Proof.Machine

/-- Settles O1: a step is by definition the front command's effect on the rest of the queue. -/
theorem stepRunsTheFrontCommand : Obligations.StepRunsTheFrontCommand := by
  unfold Obligations.StepRunsTheFrontCommand
  refine ⟨fun _ _ _ => rfl, fun s hempty => ?_, fun _ _ _ => ⟨rfl, rfl⟩⟩
  simp [step, hempty]

/-! ### What every command keeps -/

/-- Every command of the table leaves the queue alone and keeps memory and the lanes' registers canonical. -/
theorem exec_kept {q : List Instr} (c : Instr) (s : State) (hk : Kept q s) : KeptOut q (exec c s) :=
  match c with
  | .coldReset env => execColdReset_kept env s hk
  | .packageReset env => execPackageReset_kept env s hk
  | .dieAnswerTimeout die => execDieAnswerTimeout_kept die s hk
  | .svnBitBlown ok => execSvnBitBlown_kept ok s hk
  | .flr => execFlr_kept s hk
  | .hotReset => execHotReset_kept s hk
  | .inputUndervoltage => execInputUndervoltage_kept s hk
  | .inputLowDip => execInputLowDip_kept s hk
  | .inputHigh => execInputHigh_kept s hk
  | .inputOvervoltage => execInputOvervoltage_kept s hk
  | .presentBreak => execPresentBreak_kept s hk
  | .stage1Start => execStage1Start_kept s hk
  | .opTransitionRequest die op => execOpTransitionRequest_kept die op s hk
  | .targetLoopLock die => execTargetLoopLock_kept die s hk
  | .opTransitionComplete die => execOpTransitionComplete_kept die s hk
  | .referenceLoss => execReferenceLoss_kept s hk
  | .referenceReturn => execReferenceReturn_kept s hk
  | .holdoverExpiry => execHoldoverExpiry_kept s hk
  | .loopLossOfLock die => execLoopLossOfLock_kept die s hk
  | .relockComplete die => execRelockComplete_kept die s hk
  | .flitCrcFail link => execFlitCrcFail_kept link s hk
  | .d2dRetrainStart link => execD2dRetrainStart_kept link s hk
  | .d2dRetrainComplete link => execD2dRetrainComplete_kept link s hk
  | .tick strand payload => execTick_kept strand payload s hk
  | .frameBegin skew => execFrameBegin_kept skew s hk
  | .holdPoint finishNs nextNs => execHoldPoint_kept finishNs nextNs s hk
  | .stepChoice => execStepChoice_kept s hk
  | .supplementaryReply holdUs => execSupplementaryReply_kept holdUs s hk
  | .tickReply strand payload => execTickReply_kept strand payload s hk
  | .replyDeadline => execReplyDeadline_kept s hk
  | .tickEmit => execTickEmit_kept s hk
  | .whorlTakeover => execWhorlTakeover_kept s hk
  | .drainComplete => execDrainComplete_kept s hk
  | .stepComplete step => execStepComplete_kept step s hk
  | .syncRelease entry => execSyncRelease_kept entry s hk
  | .nmx2Barrier step => execNmx2Barrier_kept step s hk
  | .matmul step reached errs => execMatmul_kept step reached errs s hk
  | .kernel step => execKernel_kept step s hk
  | .attend step => execAttend_kept step s hk
  | .merge step => execMerge_kept step s hk
  | .xfer step => execXfer_kept step s hk
  | .allReduce step => execAllReduce_kept step s hk
  | .reduceScatter step => execReduceScatter_kept step s hk
  | .allGather step => execAllGather_kept step s hk
  | .post step => execPost_kept step s hk
  | .flyerCopy step => execFlyerCopy_kept step s hk
  | .vectorLoad a => execVectorLoad_kept a s hk
  | .vectorStore a => execVectorStore_kept a s hk
  | .scalarLoad a => execScalarLoad_kept a s hk
  | .scalarStore a => execScalarStore_kept a s hk
  | .gather a => execGather_kept a s hk
  | .gatherEntryFree die index cycles => execGatherEntryFree_kept die index cycles s hk
  | .gatherDataReturn die core ply => execGatherDataReturn_kept die core ply s hk
  | .scatter a => execScatter_kept a s hk
  | .localStoreAtomic ref region lanes wide op a b dest => execLocalStoreAtomic_kept ref region lanes wide op a b dest s hk
  | .hankAtomic src region addr op dest => execHankAtomic_kept src region addr op dest s hk
  | .vectorArith a => execVectorArith_kept a s hk
  | .plyReduction a => execPlyReduction_kept a s hk
  | .bsum32 a => execBsum32_kept a s hk
  | .release engine base len scope cells => execRelease_kept engine base len scope cells s hk
  | .acquire engine base len scope cells => execAcquire_kept engine base len scope cells s hk
  | .streamAccess a => execStreamAccess_kept a s hk
  | .narrowAccess a => execNarrowAccess_kept a s hk
  | .wmbEntryTimeout block => execWmbEntryTimeout_kept block s hk
  | .burstCrcMismatch chan transfers client => execBurstCrcMismatch_kept chan transfers client s hk
  | .stackScrub block bad => execStackScrub_kept block bad s hk
  | .refresh hank => execRefresh_kept hank s hk
  | .rowRepair block => execRowRepair_kept block s hk
  | .rowRepairComplete => execRowRepairComplete_kept s hk
  | .channelActionStart => execChannelActionStart_kept s hk
  | .retrainComplete ok margins => execRetrainComplete_kept ok margins s hk
  | .pinRepairComplete ok margins => execPinRepairComplete_kept ok margins s hk
  | .stackNoAnswer chan => execStackNoAnswer_kept chan s hk
  | .thermalChannelRead reading => execThermalChannelRead_kept reading s hk
  | .orderlyStopComplete => execOrderlyStopComplete_kept s hk
  | .thermalRound => execThermalRound_kept s hk
  | .analogTrip die => execAnalogTrip_kept die s hk
  | .heaterUpdate => execHeaterUpdate_kept s hk
  | .memPlace mbx => execMemPlace_kept mbx s hk
  | .loopbackGo hank value => execLoopbackGo_kept hank value s hk
  | .loopbackDone hank pinFail => execLoopbackDone_kept hank pinFail s hk
  | .hnkProbe value => execHnkProbe_kept value s hk
  | .visRlcCtrlWrite die value => execVisRlcCtrlWrite_kept die value s hk
  | .queuePage mbx => execQueuePage_kept mbx s hk
  | .queueCreate mbx => execQueueCreate_kept mbx s hk
  | .queueRebind mbx => execQueueRebind_kept mbx s hk
  | .queueDestroy mbx => execQueueDestroy_kept mbx s hk
  | .queueDestroyDone mbx => execQueueDestroyDone_kept mbx s hk
  | .regionBind mbx => execRegionBind_kept mbx s hk
  | .regionRebind mbx sinceUs => execRegionRebind_kept mbx sinceUs s hk
  | .regionFree mbx sinceUs => execRegionFree_kept mbx sinceUs s hk
  | .regionRebindDone mbx => execRegionRebindDone_kept mbx s hk
  | .doorbellLowWrite page value => execDoorbellLowWrite_kept page value s hk
  | .doorbell page low high => execDoorbell_kept page low high s hk
  | .commandSelect => execCommandSelect_kept s hk
  | .nop tag => execNop_kept tag s hk
  | .copy tag => execCopy_kept tag s hk
  | .fill tag => execFill_kept tag s hk
  | .put tag => execPut_kept tag s hk
  | .get tag => execGet_kept tag s hk
  | .putReduce tag => execPutReduce_kept tag s hk
  | .fetchAdd tag => execFetchAdd_kept tag s hk
  | .compareSwap tag => execCompareSwap_kept tag s hk
  | .signal tag => execSignal_kept tag s hk
  | .row queue => execRow_kept queue s hk
  | .commandCompletion tag => execCommandCompletion_kept tag s hk
  | .msixUnmask vector => execMsixUnmask_kept vector s hk
  | .hostMemRead hpa keep own => execHostMemRead_kept hpa keep own s hk
  | .hostMemWrite hpa mask data => execHostMemWrite_kept hpa mask data s hk
  | .birsp line data => execBirsp_kept line data s hk
  | .hostSnoop kind hpa => execHostSnoop_kept kind hpa s hk
  | .spillAccess a => execSpillAccess_kept a s hk
  | .spillFill addr answer => execSpillFill_kept addr answer s hk
  | .hostWindow mbx => execHostWindow_kept mbx s hk
  | .hostSpill mbx => execHostSpill_kept mbx s hk
  | .hostUnspill mbx => execHostUnspill_kept mbx s hk
  | .hdmDecoderCommit base size => execHdmDecoderCommit_kept base size s hk
  | .cacheWbInv => execCacheWbInv_kept s hk
  | .cacheWbInvDone => execCacheWbInvDone_kept s hk
  | .ideIntegrityFail cachemem => execIdeIntegrityFail_kept cachemem s hk
  | .linkCorrectableError => execLinkCorrectableError_kept s hk
  | .linkRecovery => execLinkRecovery_kept s hk
  | .d3hotEntry => execD3hotEntry_kept s hk
  | .doeDiscovery index => execDoeDiscovery_kept index s hk
  | .cdatRead => execCdatRead_kept s hk
  | .getVersion req => execGetVersion_kept req s hk
  | .getCapabilities req => execGetCapabilities_kept req s hk
  | .negotiateAlgorithms req => execNegotiateAlgorithms_kept req s hk
  | .getDigests req => execGetDigests_kept req s hk
  | .getCertificate req => execGetCertificate_kept req s hk
  | .challenge req => execChallenge_kept req s hk
  | .getMeasurements req => execGetMeasurements_kept req s hk
  | .keyExchange req => execKeyExchange_kept req s hk
  | .finish session ok => execFinish_kept session ok s hk
  | .heartbeat session => execHeartbeat_kept session s hk
  | .keyUpdate session => execKeyUpdate_kept session s hk
  | .endSession session => execEndSession_kept session s hk
  | .ideKm session cachemem op => execIdeKm_kept session cachemem op s hk
  | .mbxGo mbx => execMbxGo_kept mbx s hk
  | .mbxCancel mbx => execMbxCancel_kept mbx s hk
  | .mbxAccept us steps => execMbxAccept_kept us steps s hk
  | .mailboxStep => execMailboxStep_kept s hk
  | .mbxEvtHeadWrite mbx value => execMbxEvtHeadWrite_kept mbx value s hk
  | .flyerHeartbeat => execFlyerHeartbeat_kept s hk
  | .standbyTakeover => execStandbyTakeover_kept s hk
  | .watchdogExpiry => execWatchdogExpiry_kept s hk
  | .standbyLost => execStandbyLost_kept s hk
  | .flyerSramEcc active uncorrectable => execFlyerSramEcc_kept active uncorrectable s hk
  | .devInfo mbx => execDevInfo_kept mbx s hk
  | .mbxAssign mbx => execMbxAssign_kept mbx s hk
  | .devFeed mbx => execDevFeed_kept mbx s hk
  | .resetCompute mbx => execResetCompute_kept mbx s hk
  | .resetPackage mbx => execResetPackage_kept mbx s hk
  | .frameLoad mbx => execFrameLoad_kept mbx s hk
  | .frameStart mbx => execFrameStart_kept mbx s hk
  | .framePreempt mbx => execFramePreempt_kept mbx s hk
  | .frameUnload mbx => execFrameUnload_kept mbx s hk
  | .planLoad mbx => execPlanLoad_kept mbx s hk
  | .planAccept mbx => execPlanAccept_kept mbx s hk
  | .topoStatus mbx => execTopoStatus_kept mbx s hk
  | .laserStatus mbx => execLaserStatus_kept mbx s hk
  | .capSet mbx => execCapSet_kept mbx s hk
  | .powerStatus mbx => execPowerStatus_kept mbx s hk
  | .snapshotTake mbx => execSnapshotTake_kept mbx s hk
  | .snapshotCopyDone ms => execSnapshotCopyDone_kept ms s hk
  | .snapshotRestore mbx readable fetched => execSnapshotRestore_kept mbx readable fetched s hk
  | .buddySet mbx => execBuddySet_kept mbx s hk
  | .buddyAssignment payload => execBuddyAssignment_kept payload s hk
  | .failFeed mbx => execFailFeed_kept mbx s hk
  | .logRead mbx => execLogRead_kept mbx s hk
  | .fwUpdate mbx => execFwUpdate_kept mbx s hk
  | .attestMeasure mbx => execAttestMeasure_kept mbx s hk
  | .tenantPolicy mbx => execTenantPolicy_kept mbx s hk
  | .debugUnlockChallenge mbx => execDebugUnlockChallenge_kept mbx s hk
  | .debugUnlockResponse mbx => execDebugUnlockResponse_kept mbx s hk
  | .debugChallengeExpiry => execDebugChallengeExpiry_kept s hk
  | .testSchedule mbx => execTestSchedule_kept mbx s hk
  | .testStatus mbx => execTestStatus_kept mbx s hk
  | .laserDriveAdjust power => execLaserDriveAdjust_kept power s hk
  | .laserFailure bank laser => execLaserFailure_kept bank laser s hk
  | .calibrationDue strand why => execCalibrationDue_kept strand why s hk
  | .calibrationStart strand => execCalibrationStart_kept strand s hk
  | .calibrationComplete r => execCalibrationComplete_kept r s hk
  | .calibrationRequest strand request => execCalibrationRequest_kept strand request s hk
  | .calibrationAccept strand => execCalibrationAccept_kept strand s hk
  | .calibrationRefuse strand => execCalibrationRefuse_kept strand s hk
  | .laneLoss strand lane => execLaneLoss_kept strand lane s hk
  | .dropRequest strand payload => execDropRequest_kept strand payload s hk
  | .dropRequestRepeat strand => execDropRequestRepeat_kept strand s hk
  | .mapAnnounce strand payload => execMapAnnounce_kept strand payload s hk
  | .mapSwitch strand receive => execMapSwitch_kept strand receive s hk
  | .marginReport strand payload => execMarginReport_kept strand payload s hk
  | .marginReportTimeout strand => execMarginReportTimeout_kept strand s hk
  | .marginReading readings => execMarginReading_kept readings s hk
  | .lossLocation strand lane codes => execLossLocation_kept strand lane codes s hk
  | .laneRestore strand lane => execLaneRestore_kept strand lane s hk
  | .laser8Locked bank ok => execLaser8Locked_kept bank ok s hk
  | .l8Trained strand mirrored => execL8Trained_kept strand mirrored s hk
  | .mirrorVerified strand => execMirrorVerified_kept strand s hk
  | .mirrorTimeout strand => execMirrorTimeout_kept strand s hk
  | .spareSwap bank => execSpareSwap_kept bank s hk
  | .optMonGo value => execOptMonGo_kept value s hk
  | .monitorReadingDone code => execMonitorReadingDone_kept code s hk
  | .blockReceive strand block => execBlockReceive_kept strand block s hk
  | .replayTimeout strand => execReplayTimeout_kept strand s hk
  | .circuitOpen strand route payload => execCircuitOpen_kept strand route payload s hk
  | .circuitData strand route payload => execCircuitData_kept strand route payload s hk
  | .circuitClose strand route payload => execCircuitClose_kept strand route payload s hk
  | .putData payload marks => execPutData_kept payload marks s hk
  | .putReduceData payload marks => execPutReduceData_kept payload marks s hk
  | .getRequest payload marks => execGetRequest_kept payload marks s hk
  | .getData payload marks => execGetData_kept payload marks s hk
  | .fetchAddPacket payload marks => execFetchAddPacket_kept payload marks s hk
  | .compareSwapPacket payload marks => execCompareSwapPacket_kept payload marks s hk
  | .atomicReply payload marks => execAtomicReply_kept payload marks s hk
  | .signalIncrement payload marks => execSignalIncrement_kept payload marks s hk
  | .acknowledgement payload marks => execAcknowledgement_kept payload marks s hk
  | .reRequest payload marks => execReRequest_kept payload marks s hk
  | .synchronisation payload marks => execSynchronisation_kept payload marks s hk
  | .laneNotice payload marks => execLaneNotice_kept payload marks s hk
  | .transitDeflect index => execTransitDeflect_kept index s hk
  | .transitDrop index => execTransitDrop_kept index s hk
  | .rerequestTimer src msg => execRerequestTimer_kept src msg s hk
  | .resendTimer msg => execResendTimer_kept msg s hk
  | .syncResend => execSyncResend_kept s hk
  | .hello strand payload t => execHello_kept strand payload t s hk
  | .helloSend strand t => execHelloSend_kept strand t s hk
  | .neighbourTimeout strand => execNeighbourTimeout_kept strand s hk
  | .neighbourLost strand => execNeighbourLost_kept strand s hk
  | .alignment strand payload => execAlignment_kept strand payload s hk
  | .summary strand payload => execSummary_kept strand payload s hk
  | .summaryTimeout => execSummaryTimeout_kept s hk
  | .summaryRefresh => execSummaryRefresh_kept s hk
  | .formTimeout => execFormTimeout_kept s hk
  | .form strand payload => execForm_kept strand payload s hk
  | .tickZero => execTickZero_kept s hk
  | .tickLoss => execTickLoss_kept s hk
  | .collectiveChunk strand opening data check => execCollectiveChunk_kept strand opening data check s hk
  | .creditOnly strand opening => execCreditOnly_kept strand opening s hk
  | .abortChunk strand opening => execAbortChunk_kept strand opening s hk
  | .regulatorReport r => execRegulatorReport_kept r s hk
  | .budgetSend die => execBudgetSend_kept die s hk
  | .budgetMessage die => execBudgetMessage_kept die s hk
  | .droopDetect die deep => execDroopDetect_kept die deep s hk
  | .droopRecover die us long => execDroopRecover_kept die us long s hk
  | .capReevaluation floorW => execCapReevaluation_kept floorW s hk
  | .dutyGranule die granule => execDutyGranule_kept die granule s hk
  | .autoSnapshot => execAutoSnapshot_kept s hk
  | .healthRecompute l2 l3 hour => execHealthRecompute_kept l2 l3 hour s hk
  | .logDrain => execLogDrain_kept s hk
  | .flashError area => execFlashError_kept area s hk
  | .errorWindowClose row sub key => execErrorWindowClose_kept row sub key s hk
  | .unitDue unit overdue => execUnitDue_kept unit overdue s hk
  | .testSegment unit r => execTestSegment_kept unit r s hk
  | .tstDbgGo value => execTstDbgGo_kept value s hk
  | .moduleSensorRead r => execModuleSensorRead_kept r s hk
  | .sbRead offset => execSbRead_kept offset s hk
  | .sbCold => execSbCold_kept s hk
  | .sbPackage => execSbPackage_kept s hk
  | .recoveryData offset data => execRecoveryData_kept offset data s hk
  | .recoveryCommit len => execRecoveryCommit_kept len s hk
  | .regPairHighWrite offset value => execRegPairHighWrite_kept offset value s hk
  | .regLowRead offset => execRegLowRead_kept offset s hk
  | .frmSlackMinWrite value => execFrmSlackMinWrite_kept value s hk
  | .mbxAcceptMaxWrite value => execMbxAcceptMaxWrite_kept value s hk
  | .fabCbufPeakWrite value => execFabCbufPeakWrite_kept value s hk
  | .registerWrite offset value => execRegisterWrite_kept offset value s hk
  | .strandTrained strand receive failed => execStrandTrained_kept strand receive failed s hk
  | .blockPosition strand slot position => execBlockPosition_kept strand slot position s hk
  | .stage1PeakComparator => execStage1PeakComparator_kept s hk
  | .hostLinkTrained rate width flit => execHostLinkTrained_kept rate width flit s hk
  | .d3hotExit => execD3hotExit_kept s hk
  | .computeResetComplete hankLost => execComputeResetComplete_kept hankLost s hk
  | .voltageRiseComplete die => execVoltageRiseComplete_kept die s hk
  | .clockSwitchPauseEnd die => execClockSwitchPauseEnd_kept die s hk

/-- The canonical form is what the Keep lemmas carry, for the state's own queue. -/
theorem kept_pending_iff_canonical (s : State) : Kept s.pending s ↔ s.canonical :=
  ⟨fun h => h.2, fun h => ⟨rfl, h⟩⟩

/-- Settles O2: taking the front command off the queue changes neither memory nor registers, and the command keeps them
canonical and the rest of the queue as it is. -/
theorem everyStepKeepsTheCanonicalForm : Obligations.EveryStepKeepsTheCanonicalForm := by
  unfold Obligations.EveryStepKeepsTheCanonicalForm
  intro s t hcanon hstep
  unfold step at hstep
  split at hstep
  case h_1 hempty =>
    cases hstep
    exact ⟨hcanon, by rw [hempty]; rfl⟩
  case h_2 c rest hqueue =>
    have hkept : Kept rest t := exec_kept c { s with pending := rest } ⟨rfl, hcanon⟩ t hstep
    exact ⟨hkept.2, by rw [hqueue]; exact hkept.1⟩

/-! ### Where the machine stops -/

theorem exec_streamAccess_of_unmapped (x : MemAccess) (s : State) (h : mapped x.addr.toNat x.len = false) :
    exec (.streamAccess x) s = .fault (.unmappedAddress x.addr.toNat) := by
  simp [exec, execStreamAccess, h]

theorem exec_narrowAccess_of_unmapped (x : MemAccess) (s : State) (h : mapped x.addr.toNat x.len = false) :
    exec (.narrowAccess x) s = .fault (.unmappedAddress x.addr.toNat) := by
  simp [exec, execNarrowAccess, h]

theorem exec_hankAtomic_of_unmapped (e : Engine) (cl : Client) (g : Fin 16) (addr : BitVec 40) (op : AtomicOp)
    (d : Option (Fin 256)) (s : State) (h : (isHank addr.toNat && mapped addr.toNat 8) = false) :
    exec (.hankAtomic (.unit e cl) g addr op d) s = .fault (.unmappedAddress addr.toNat) := by
  simp [exec, execHankAtomic, h]

/-- R162: the accesses whose bytes may be unmapped, and the address they then stop with. -/
def StopsUnmapped (c : Instr) (a : Nat) : Prop :=
  (∃ x, (c = .streamAccess x ∨ c = .narrowAccess x) ∧ a = x.addr.toNat ∧ mapped a x.len = false) ∨
    ∃ e cl g addr op d, c = .hankAtomic (.unit e cl) g addr op d ∧ a = addr.toNat ∧ (isHank a && mapped a 8) = false

/-- A command is carried out, or it stops at an unmapped address that it accesses. -/
theorem exec_next_or_unmapped (c : Instr) (s : State) :
    (∃ t, exec c s = .next t) ∨ ∃ a, exec c s = .fault (.unmappedAddress a) ∧ StopsUnmapped c a := by
  cases c with
  | streamAccess x =>
    by_cases h : mapped x.addr.toNat x.len = true
    · exact .inl ⟨_, if_pos h⟩
    · have h := Bool.eq_false_of_not_eq_true h
      exact .inr ⟨_, exec_streamAccess_of_unmapped x s h, .inl ⟨x, .inl rfl, rfl, h⟩⟩
  | narrowAccess x =>
    by_cases h : mapped x.addr.toNat x.len = true
    · exact .inl ⟨_, if_pos h⟩
    · have h := Bool.eq_false_of_not_eq_true h
      exact .inr ⟨_, exec_narrowAccess_of_unmapped x s h, .inl ⟨x, .inr rfl, rfl, h⟩⟩
  | hankAtomic src g addr op d =>
    cases src with
    | ply r lane err => exact .inl ⟨_, rfl⟩
    | unit e cl =>
      by_cases h : (isHank addr.toNat && mapped addr.toNat 8) = true
      · exact .inl ⟨_, if_pos h⟩
      · have h := Bool.eq_false_of_not_eq_true h
        exact .inr ⟨_, exec_hankAtomic_of_unmapped e cl g addr op d s h, .inr ⟨e, cl, g, addr, op, d, rfl, rfl, h⟩⟩
  | _ => exact .inl ⟨_, rfl⟩

/-- Settles O3: every command but the three kinds of access answers a next state by its definition, and these stop
exactly where their bytes are not mapped. -/
theorem onlyAccessesToUnmappedAddressesStop : Obligations.OnlyAccessesToUnmappedAddressesStop := by
  unfold Obligations.OnlyAccessesToUnmappedAddressesStop
  refine ⟨exec_next_or_unmapped, fun x s h => ⟨exec_streamAccess_of_unmapped x s h, exec_narrowAccess_of_unmapped x s h⟩,
    exec_hankAtomic_of_unmapped, fun c s r hr => ?never, fun s => ?steps⟩
  case never =>
    obtain ⟨t, ht⟩ | ⟨a, ha, -⟩ := exec_next_or_unmapped c s
    · exact nomatch hr.symm.trans ht
    · exact nomatch hr.symm.trans ha
  case steps =>
    unfold step
    split
    · exact .inl ⟨s, rfl⟩
    · next c rest _ =>
      obtain h | ⟨a, ha, -⟩ := exec_next_or_unmapped c { s with pending := rest }
      · exact .inl h
      · exact .inr ⟨a, ha⟩

/-! ### The state after reset -/

/-- No die's register file lists a register after reset. -/
theorem regs_reset_wf (d : Nat) : tabWf (vget State.reset.vec d).regs = true := by
  have hempty : (vget State.reset.vec d).regs = [] := by
    by_cases hd : d < 4
    · interval_cases d <;> rfl
    · have hdefault : vget State.reset.vec d = default := by simp [vget, Vector.getD, hd]
      rw [hdefault]
      rfl
  rw [hempty]
  rfl

/-- Settles O4: the reset state is closed, so that its parts and each of its registers are read off. -/
theorem resetIsCanonicalAndHoldsTheResetValues : Obligations.ResetIsCanonicalAndHoldsTheResetValues := by
  unfold Obligations.ResetIsCanonicalAndHoldsTheResetValues
  refine ⟨⟨rfl, regs_reset_wf⟩, rfl, rfl, rfl, rfl, rfl, rfl, ?values, ?zeros⟩
  case values => decide +kernel
  case zeros => decide +kernel

end Sys2Proof.Machine

/-!
PROOFS. A number that an encoding represents converts to that encoding unchanged (R85, R88, R96, R97).
-/

namespace Sys2Proof.Machine

/-- R85: the fields of a code: sign, exponent and mantissa put together again. -/
theorem signCode_add_fields {f : Fmt} {n : Nat} (hn : n < 2 ^ (1 + f.exp + f.man)) :
    signCode f (n.testBit (f.exp + f.man)) + (n / 2 ^ f.man % 2 ^ f.exp * 2 ^ f.man + n % 2 ^ f.man) = n := by
  have hsplit : 2 ^ (f.exp + f.man) = 2 ^ f.exp * 2 ^ f.man := pow_add ..
  have hlow : n % 2 ^ (f.exp + f.man) = n / 2 ^ f.man % 2 ^ f.exp * 2 ^ f.man + n % 2 ^ f.man := by
    rw [hsplit, Nat.mul_comm (2 ^ f.exp), Nat.mod_mul]
    ring
  have htop : n / 2 ^ (f.exp + f.man) < 2 := by
    rw [Nat.div_lt_iff_lt_mul (by positivity), ← pow_succ']
    exact lt_of_lt_of_eq hn (by congr 1; omega)
  have hsign : signCode f (n.testBit (f.exp + f.man)) = 2 ^ (f.exp + f.man) * (n / 2 ^ (f.exp + f.man)) := by
    have hbit : n.testBit (f.exp + f.man) = decide (n / 2 ^ (f.exp + f.man) = 1) := by
      rw [Nat.testBit_eq_decide_div_mod_eq, Nat.mod_eq_of_lt htop]
    unfold signCode
    rw [hbit]
    obtain h | h := Nat.le_one_iff_eq_zero_or_eq_one.mp (Nat.le_of_lt_succ htop)
    · simp [h]
    · simp [h]
  rw [hsign, ← hlow]
  exact Nat.div_add_mod ..

/-- R96: a magnitude that is a whole number of units in its last place is not rounded. -/
theorem roundMag_of_ulpExp_eq {f : Fmt} {rule : Rounding} {m : Nat} {e : Int} (hm : m ≠ 0) (hu : ulpExp f m e = e) :
    roundMag f rule m e = (e + f.man + f.bias - 1).toNat * 2 ^ f.man + m := by
  simp [roundMag, hm, hu]

/-- R85, R96: a subnormal is a whole number of the smallest units. -/
theorem roundMag_subnormal {f : Fmt} (rule : Rounding) {m : Nat} (hm : m < 2 ^ f.man) :
    roundMag f rule m (1 - (f.bias : Int) - f.man) = m := by
  by_cases h0 : m = 0
  · simp [roundMag, h0]
  · have hlog : m.log2 < f.man := (Nat.log2_lt h0).mpr hm
    rw [roundMag_of_ulpExp_eq h0 (by unfold ulpExp; omega)]
    simp

/-- R85, R96: a normal number's leading bit stands at its binade. -/
theorem roundMag_normal {f : Fmt} (rule : Rounding) {e m : Nat} (he : e ≠ 0) (hm : m < 2 ^ f.man) :
    roundMag f rule (2 ^ f.man + m) ((e : Int) - f.bias - f.man) = e * 2 ^ f.man + m := by
  have hne : 2 ^ f.man + m ≠ 0 := by positivity
  have hlog : (2 ^ f.man + m).log2 = f.man :=
    (Nat.log2_eq_iff hne).mpr ⟨by omega, by rw [pow_succ]; omega⟩
  rw [roundMag_of_ulpExp_eq hne (by unfold ulpExp; rw [hlog]; omega)]
  have hpred : ((e : Int) - f.bias - f.man + f.man + f.bias - 1).toNat = e - 1 := by omega
  obtain ⟨k, rfl⟩ := Nat.exists_eq_succ_of_ne_zero he
  rw [hpred]
  simp only [Nat.succ_eq_add_one, Nat.add_sub_cancel]
  ring

/-- R85: fields below the special codes of an encoding lie within its finite magnitudes. -/
theorem fields_le_maxCode {f : Fmt} {e m : Nat} (he : e < 2 ^ f.exp) (hm : m < 2 ^ f.man)
    (hinf : f.sp = .ieee → e ≠ 2 ^ f.exp - 1) (hnan : f.sp = .nanOnly → e = 2 ^ f.exp - 1 → m ≠ 2 ^ f.man - 1) :
    e * 2 ^ f.man + m ≤ maxCode f := by
  have hsplit : 2 ^ (f.exp + f.man) = 2 ^ f.exp * 2 ^ f.man := pow_add ..
  have hbelow : ∀ k, e < k → e * 2 ^ f.man + 2 ^ f.man ≤ k * 2 ^ f.man := fun k hk => by
    rw [← Nat.succ_mul]
    exact Nat.mul_le_mul_right _ hk
  unfold maxCode
  cases hsp : f.sp with
  | ieee =>
    have hlt : e < 2 ^ f.exp - 1 := by
      have := hinf hsp
      omega
    have := hbelow _ hlt
    simp only [infCode]
    omega
  | nanOnly =>
    have := hbelow _ he
    simp only [hsplit]
    by_cases hm' : m = 2 ^ f.man - 1
    · have hlt : e < 2 ^ f.exp - 1 := by
        have : e ≠ 2 ^ f.exp - 1 := fun h => hnan hsp h hm'
        omega
      have := hbelow _ hlt
      rw [Nat.sub_mul] at this
      have : 2 ^ f.man ≤ 2 ^ f.exp * 2 ^ f.man := Nat.le_mul_of_pos_left _ (by positivity)
      omega
    · omega
  | none =>
    have := hbelow _ he
    simp only [hsplit]
    omega

/-- R85, R96: a finite number of an encoding converts to its own code. -/
theorem convertNum_decodeNum_fin {f : Fmt} {n : Nat} (hn : n < 2 ^ (1 + f.exp + f.man)) {neg : Bool} {m : Nat} {x : Int}
    (hd : decodeNum f n = .fin neg m x) (rule : Rounding) (sat : Bool) :
    convertNum f rule sat (.fin neg m x) = ⟨n, false⟩ := by
  have hm : n % 2 ^ f.man < 2 ^ f.man := Nat.mod_lt _ (by positivity)
  have he : n / 2 ^ f.man % 2 ^ f.exp < 2 ^ f.exp := Nat.mod_lt _ (by positivity)
  have hmag : neg = n.testBit (f.exp + f.man) ∧
      roundMag f rule m x = n / 2 ^ f.man % 2 ^ f.exp * 2 ^ f.man + n % 2 ^ f.man ∧
      roundMag f rule m x ≤ maxCode f := by
    unfold decodeNum at hd
    dsimp only at hd
    split at hd
    · split at hd <;> cases hd
    · next hinf =>
      split at hd
      · cases hd
      · next hnan =>
        have hle := fields_le_maxCode he hm (fun hs hx => hinf (by simp [hs, hx]))
          (fun hs hx hy => hnan (by simp [hs, hx, hy]))
        split at hd
        · next h0 =>
          cases hd
          rw [roundMag_subnormal rule hm]
          rw [h0] at hle ⊢
          simpa using hle
        · next h0 =>
          cases hd
          rw [roundMag_normal rule h0 hm]
          exact ⟨rfl, rfl, hle⟩
  obtain ⟨hneg, hcode, hle⟩ := hmag
  simp only [convertNum, if_pos hle]
  rw [hneg, hcode, signCode_add_fields hn]

/-- R85, R96: an infinity of an encoding converts to its own code. -/
theorem convertNum_decodeNum_inf {f : Fmt} {n : Nat} (hn : n < 2 ^ (1 + f.exp + f.man)) {neg : Bool}
    (hd : decodeNum f n = .inf neg) (rule : Rounding) : convertNum f rule false (.inf neg) = ⟨n, false⟩ := by
  unfold decodeNum at hd
  dsimp only at hd
  split at hd
  · next hinf =>
    simp only [Bool.and_eq_true, decide_eq_true_eq] at hinf
    obtain ⟨hsp, he⟩ := hinf
    split at hd
    · next hm =>
      cases hd
      have hcode := signCode_add_fields hn
      rw [he, hm, Nat.add_zero] at hcode
      simp only [convertNum, hsp, if_true, Bool.false_eq_true, if_false, infCode, hcode]
    · cases hd
  · split at hd
    · cases hd
    · split at hd <;> cases hd

/-- Settles O5: in every encoding a finite number's rounding finds its own binade, where it is exact; an infinity and a
NaN are their own codes. -/
theorem representableNumbersAreUnchanged : Obligations.RepresentableNumbersAreUnchanged := by
  unfold Obligations.RepresentableNumbersAreUnchanged
  intro f _ rule sat n hn
  cases hd : decodeNum f n with
  | fin neg m e => exact convertNum_decodeNum_fin hn hd rule sat
  | inf neg => exact convertNum_decodeNum_inf hn hd rule
  | nan => rfl

end Sys2Proof.Machine

/-!
PROOFS. Memory reads back what was written (R141, R162, R187, R190): the rules that say what a read returns after a
write, and what an update that leaves memory alone leaves of every read.
-/

namespace Sys2Proof.Machine

/-! ### Tables -/

/-- Putting at a key what it already reads as changes nothing. -/
theorem tput_of_tget_eq {α : Type} [Inhabited α] [DecidableEq α] {k : Nat} {v : α} :
    ∀ {t : Tab α}, tabWf t = true → tget t k = v → tput t k v = t
  | [], _, h => if_pos h.symm
  | (a, w) :: t, hw, h => by
    obtain ⟨hne, habove, hwf⟩ := tabWf_cons.1 hw
    unfold tput
    by_cases hlt : a < k
    · rw [if_pos hlt, tput_of_tget_eq hwf (by simpa [tget, Nat.ne_of_lt hlt] using h)]
    · rw [if_neg hlt]
      by_cases heq : a = k
      · have hv : w = v := by simpa [tget, heq] using h
        rw [if_pos heq, if_neg (hv ▸ hne), ← heq, hv]
      · have hv : v = default := by
          rw [← h]
          simpa [tget, heq] using tget_default hwf habove (by omega)
        rw [if_neg heq, if_pos hv]

/-- A byte outside the bytes put reads as before. -/
theorem tget_putBytes_outside {x : Nat} : ∀ {t : Tab Byte} {a : Nat} {bs : List Byte}, x < a ∨ a + bs.length ≤ x →
    tget (putBytes t a bs) x = tget t x
  | _, _, [], _ => rfl
  | t, a, b :: bs, h => by
    rw [List.length_cons] at h
    unfold putBytes
    rw [tget_putBytes_outside (by omega), tget_tput_other (by omega)]

/-- Each byte put reads back. -/
theorem tget_putBytes_inside : ∀ {t : Tab Byte} {a : Nat} {bs : List Byte} {i : Nat} (h : i < bs.length),
    tabWf t = true → tget (putBytes t a bs) (a + i) = bs[i]
  | t, a, b :: bs, 0, _, hw => by
    unfold putBytes
    rw [tget_putBytes_outside (by omega), Nat.add_zero, tget_tput_same hw]
    rfl
  | t, a, b :: bs, i + 1, h, hw => by
    have hrest := tget_putBytes_inside (a := a + 1) (Nat.lt_of_succ_lt_succ h) (tput_wf hw (k := a) (v := b))
    rw [Nat.add_right_comm] at hrest
    exact hrest

/-- Putting bytes that a canonical table already reads changes nothing. -/
theorem putBytes_of_reads : ∀ {t : Tab Byte} {a : Nat} {bs : List Byte}, tabWf t = true →
    (∀ i (h : i < bs.length), tget t (a + i) = bs[i]) → putBytes t a bs = t
  | _, _, [], _, _ => rfl
  | t, a, b :: bs, hw, h => by
    unfold putBytes
    have hfirst : tput t a b = t := tput_of_tget_eq hw (h 0 (Nat.zero_lt_succ _))
    rw [hfirst]
    refine putBytes_of_reads hw fun i hi => ?_
    have hread := h (i + 1) (Nat.succ_lt_succ hi)
    rw [Nat.add_assoc, Nat.add_comm 1, hread]
    rfl

/-! ### Undefined contents -/

/-- The number of the range of undefined contents at an address: all that a read sees of it. -/
def undefId (us : List UndefExt) (a : Nat) : Option Nat :=
  (undefAt us a).map (·.id)

theorem undefId_cons (u : UndefExt) (us : List UndefExt) (a : Nat) :
    undefId (u :: us) a = if u.base ≤ a ∧ a < u.base + u.len then some u.id else undefId us a := by
  unfold undefId undefAt
  by_cases h : u.base ≤ a ∧ a < u.base + u.len
  · simp [h]
  · rw [if_neg h, List.find?_cons_of_neg (by simpa using h)]

theorem undefId_append (us vs : List UndefExt) (a : Nat) :
    undefId (us ++ vs) a = (undefId us a).or (undefId vs a) := by
  induction us with
  | nil => rfl
  | cons u us ih =>
    rw [List.cons_append, undefId_cons, undefId_cons, ih]
    split <;> rfl

/-- What is left of a range that was cut: its number outside the cut, none inside. -/
theorem undefId_cutExt (lo hi : Nat) (u : UndefExt) (x : Nat) (hlo : lo ≤ hi) :
    undefId (cutExt lo hi u) x = if lo ≤ x ∧ x < hi then none else undefId [u] x := by
  have hnil : ∀ y, undefId [] y = none := fun _ => rfl
  unfold cutExt
  split
  · next h =>
    simp only [Bool.or_eq_true, decide_eq_true_eq] at h
    rw [undefId_cons, hnil]
    grind
  · next h =>
    simp only [Bool.or_eq_true, decide_eq_true_eq, not_or] at h
    rw [undefId_append]
    by_cases hl : u.base < lo <;> by_cases hr : hi < u.base + u.len <;>
      simp only [hl, hr, if_true, if_false, undefId_cons, hnil] <;> grind

theorem undefId_flatMap_cutExt (lo hi : Nat) (hlo : lo ≤ hi) (us : List UndefExt) (x : Nat) :
    undefId (us.flatMap (cutExt lo hi)) x = if lo ≤ x ∧ x < hi then none else undefId us x := by
  induction us with
  | nil => simp [undefId, undefAt]
  | cons u us ih =>
    rw [List.flatMap_cons, undefId_append, ih, undefId_cutExt lo hi u x hlo]
    split
    · rfl
    · rw [← undefId_append, List.singleton_append]

/-! ### Reads -/

/-- R162: a byte is a table's own, a free value by its range's number, or memory's. -/
theorem readByte_eq (s : State) (a : Nat) :
    readByte s a = (tableByte s a).getD (((undefId s.undef a).map fun i => Config.freeByte i a).getD (tget s.mem a)) := by
  unfold readByte undefId
  cases tableByte s a with
  | some b => rfl
  | none => cases undefAt s.undef a <;> rfl

theorem tableByte_congr {s t : State} (hq : t.bob.queue = s.bob.queue) (hr : t.bob.region = s.bob.region) (a : Nat) :
    tableByte t a = tableByte s a := by
  simp only [tableByte, State.queueAt, State.regionAt, hq, hr]

/-- An update that changes neither memory nor the tables leaves every byte as it was. -/
theorem readByte_congr {s t : State} (hm : t.mem = s.mem) (hu : t.undef = s.undef)
    (hq : t.bob.queue = s.bob.queue) (hr : t.bob.region = s.bob.region) (a : Nat) : readByte t a = readByte s a := by
  rw [readByte_eq, readByte_eq, hm, hu, tableByte_congr hq hr]

/-- Reads of a range depend on its bytes alone. -/
theorem readBytes_congr {s t : State} {a n : Nat} (h : ∀ i, i < n → readByte t (a + i) = readByte s (a + i)) :
    readBytes t a n = readBytes s a n :=
  List.map_congr_left fun i hi => h i (List.mem_range.mp hi)

@[simp] theorem length_readBytes (s : State) (a n : Nat) : (readBytes s a n).length = n := by
  simp [readBytes]

/-! ### Writes -/

@[simp] theorem writeBytes_nil (a : Nat) (s : State) : writeBytes a [] s = s := rfl

theorem writeBytes_of_ne_nil {bs : List Byte} (h : bs ≠ []) (a : Nat) (s : State) :
    writeBytes a bs s =
      { s with mem := putBytes s.mem a bs, undef := s.undef.flatMap (cutExt a (a + bs.length)) } := by
  unfold writeBytes
  rw [if_neg (by simpa using h)]

/-- A write changes memory and what is undefined there, and nothing else. -/
theorem writeBytes_shape (a : Nat) (bs : List Byte) (s : State) :
    writeBytes a bs s = { s with mem := (writeBytes a bs s).mem, undef := (writeBytes a bs s).undef } := by
  unfold writeBytes
  split <;> rfl

@[simp] theorem writeBytes_mem (a : Nat) (bs : List Byte) (s : State) :
    (writeBytes a bs s).mem = putBytes s.mem a bs := by
  cases bs <;> rfl

@[simp] theorem writeBytes_tableByte (a : Nat) (bs : List Byte) (s : State) (x : Nat) :
    tableByte (writeBytes a bs s) x = tableByte s x := by
  rw [writeBytes_shape]
  rfl

theorem writeBytes_undefId (a : Nat) (bs : List Byte) (s : State) (x : Nat) :
    undefId (writeBytes a bs s).undef x = if a ≤ x ∧ x < a + bs.length then none else undefId s.undef x := by
  by_cases h : bs = []
  · subst h
    rw [writeBytes_nil, List.length_nil, if_neg (by omega)]
  · rw [writeBytes_of_ne_nil h]
    exact undefId_flatMap_cutExt _ _ (by omega) _ _

/-- A byte that is not written reads as before. -/
theorem readByte_writeBytes_outside {a x : Nat} {bs : List Byte} (s : State) (h : x < a ∨ a + bs.length ≤ x) :
    readByte (writeBytes a bs s) x = readByte s x := by
  rw [readByte_eq, readByte_eq, writeBytes_tableByte, writeBytes_undefId, if_neg (by omega), writeBytes_mem,
    tget_putBytes_outside h]

/-- A byte that is written outside the tables reads back. -/
theorem readByte_writeBytes_inside {a i : Nat} {bs : List Byte} {s : State} (hw : Memory.wf s.mem = true)
    (hi : i < bs.length) (ht : tableByte s (a + i) = none) : readByte (writeBytes a bs s) (a + i) = bs[i] := by
  rw [readByte_eq, writeBytes_tableByte, ht, writeBytes_undefId, if_pos (by omega), writeBytes_mem]
  exact tget_putBytes_inside hi hw

/-- What is written outside the tables is read back. -/
theorem readBytes_writeBytes_same {a : Nat} {bs : List Byte} {s : State} (hw : Memory.wf s.mem = true)
    (ht : ∀ i, i < bs.length → tableByte s (a + i) = none) : readBytes (writeBytes a bs s) a bs.length = bs := by
  refine List.ext_getElem (by simp) fun i h _ => ?_
  have hi : i < bs.length := by simpa using h
  simpa [readBytes] using readByte_writeBytes_inside hw hi (ht i hi)

theorem writeBytes_wf {a : Nat} {bs : List Byte} {s : State} (hw : Memory.wf s.mem = true) :
    Memory.wf (writeBytes a bs s).mem = true := by
  rw [writeBytes_mem]
  exact putBytes_wf a bs hw

/-- Writing the same bytes again leaves memory as it is. -/
theorem writeBytes_writeBytes_mem {a : Nat} {bs : List Byte} {s : State} (hw : Memory.wf s.mem = true) :
    (writeBytes a bs (writeBytes a bs s)).mem = (writeBytes a bs s).mem := by
  simp only [writeBytes_mem]
  exact putBytes_of_reads (putBytes_wf a bs hw) fun i hi => tget_putBytes_inside hi hw

/-- Settles O27, by the rules for a write above. -/
theorem memoryReadsBackWhatWasWritten : Obligations.MemoryReadsBackWhatWasWritten := by
  unfold Obligations.MemoryReadsBackWhatWasWritten
  exact fun s a bs hw => ⟨readBytes_writeBytes_same hw, writeBytes_wf hw, fun x => readByte_writeBytes_outside s,
    writeBytes_writeBytes_mem hw⟩

end Sys2Proof.Machine

/-!
PROOFS. Error events and their levels (R370), the reference and the loops, and the die-to-die links (R19, R39, R44,
R76, R373).
-/

namespace Sys2Proof.Machine

/-! ### Levels -/

/-- R370: the counts of an action at level 2. -/
def countLevel2 (s : State) : State :=
  { s with res := { s.res with level2 := wrapInc 16 s.res.level2, recent2 := s.res.recent2 ++ [0] } }

/-- R370: the counts of an action at level 3. -/
def countLevel3 (s : State) : State :=
  { s with res := { s.res with level3 := wrapInc 16 s.res.level3, recent3 := s.res.recent3 ++ [0] } }

/-- An event at level 1 is at most posted. -/
theorem escalate_of_level1 {l : Levels} (s : State) (h2 : l.l2 = false) (h3 : l.l3 = false) (h4 : l.l4 = false) :
    escalate l s = levelPost l s := by
  simp [escalate, State.modRes, h2, h3, h4]

theorem escalate_of_level2 {l : Levels} (s : State) (h2 : l.l2 = true) (h3 : l.l3 = false) (h4 : l.l4 = false) :
    escalate l s = levelPost l (countLevel2 s) := by
  simp [escalate, State.modRes, countLevel2, h2, h3, h4]

theorem escalate_of_level3 {l : Levels} (s : State) (h2 : l.l2 = false) (h3 : l.l3 = true) (h4 : l.l4 = false) :
    escalate l s = levelPost l (countLevel3 s) := by
  simp [escalate, State.modRes, countLevel3, h2, h3, h4]

theorem escalate_of_level4 {l : Levels} (s : State) (h2 : l.l2 = false) (h3 : l.l3 = false) (h4 : l.l4 = true) :
    escalate l s = enterFailed l.way .eDeviceFailed (levelPost l s) := by
  simp [escalate, State.modRes, h2, h3, h4]

/-- An event that its row does not post, below level 2, leaves no trace. -/
theorem levelPost_of_unposted {l : Levels} (s : State) (htop : l.top = 1) (hown : l.own = none) (hp : l.posted = false) :
    levelPost l s = s := by
  simp [levelPost, htop, hown, hp]

@[simp] theorem winCount_modPkg (f : Pkg → Pkg) (s : State) (row sub obj : Nat) :
    winCount (s.modPkg f) row sub obj = winCount s row sub obj := rfl

@[simp] theorem winCount_noteHold (cause : Nat) (s : State) (row sub obj : Nat) :
    winCount (noteHold cause s) row sub obj = winCount s row sub obj := rfl

/-! ### Entering FAILED -/

@[simp] theorem enterFailed_devState (way : WayOut) (st : Status) (s : State) :
    (enterFailed way st s).pkg.devState = .failed := rfl

@[simp] theorem enterFailed_mem (way : WayOut) (st : Status) (s : State) : (enterFailed way st s).mem = s.mem := rfl

@[simp] theorem enterFailed_bob (way : WayOut) (st : Status) (s : State) : (enterFailed way st s).bob = s.bob := rfl

/-- R370: a device that was not FAILED leaves FAILED by the way named. -/
theorem enterFailed_wayOut (way : WayOut) (st : Status) {s : State} (h : s.pkg.devState ≠ .failed) :
    (enterFailed way st s).pkg.wayOut = way := by
  simp [enterFailed, h]

/-! ### The reference and the loops -/

theorem execHoldoverExpiry_of_holdover {s : State} (h : s.pkg.holdover = true) :
    exec .holdoverExpiry s = .next
      ((enterFailed .package .eDeviceFailed (levelPost { row := 3, l4 := true } s)).modPkg fun p =>
        { p with holdover := false, clocksStopped := 0x3F, locked := 0, flyerRuns := false, bar0Up := false,
                 op := p.op.map opAbandon }) := by
  simp only [exec, execHoldoverExpiry, holdoverExpired, h, if_true]
  rw [escalate_of_level4 s rfl rfl rfl]

/-- Settles O13: each event is its update with the levels that R373 gives its row. -/
theorem referenceAndLoopEvents : Obligations.ReferenceAndLoopEvents := by
  unfold Obligations.ReferenceAndLoopEvents
  refine ⟨fun s hok => ?loss, fun _ => rfl, fun s hhold => ⟨?expiry, fun hnot => ?failed⟩, fun d s hcount => ?unlock,
    fun d s hrelock => ?relock⟩
  case loss =>
    simp only [exec, execReferenceLoss, referenceLost, hok, if_true]
    rw [escalate_of_level2 _ rfl rfl rfl]
    rfl
  case expiry => exact execHoldoverExpiry_of_holdover hhold
  case failed => exact ⟨rfl, enterFailed_wayOut _ _ (by simpa using hnot), by simp, by simp⟩
  case unlock =>
    have hlevel4 : ¬ 3 ≤ winCount s 2 0 d + 1 := by omega
    simp only [exec, execLoopLossOfLock, loopLost, winCount_winBump, winCount_modPkg, winCount_noteHold, hlevel4,
      decide_false]
    rw [escalate_of_level2 _ rfl rfl rfl]
    rfl
  case relock =>
    simp only [exec, execRelockComplete, hrelock, if_true]
    rfl

/-! ### The die-to-die links -/

/-- Settles O14: the count of the window, the event counted in it included, decides the levels. -/
theorem dieToDieLinkEvents : Obligations.DieToDieLinkEvents := by
  unfold Obligations.DieToDieLinkEvents
  refine ⟨fun l s hcount => ?below, fun l s hcount => ?from16, fun l s hqueued hmay => ?start,
    fun l s hretrain hcount => ?complete, fun l s hretrain hcount hspare => ?spare⟩
  case below =>
    have hlow : ¬ 16 ≤ winCount s 1 0 l + 1 := by omega
    simp only [exec, execFlitCrcFail, flitReplayed, winCount_winBump, hlow, if_false, decide_false]
    rw [escalate_of_level1 _ rfl rfl rfl, levelPost_of_unposted _ rfl rfl rfl]
  case from16 =>
    have hhigh : 16 ≤ winCount s 1 0 l + 1 := by omega
    simp only [exec, execFlitCrcFail, flitReplayed, winCount_winBump, hhigh, if_true, decide_true]
    rw [escalate_of_level2 _ rfl rfl rfl]
    rfl
  case start =>
    have hstart : ((s.d2dAt l).queued && ((s.d2dAt l).asked || noProgram s)) = true := by
      simpa [hqueued, noProgram] using hmay
    simp only [exec, execD2dRetrainStart, hstart, if_true]
  case complete =>
    have hlow : ¬ 3 ≤ winCount s 1 1 l + 1 := by omega
    simp only [exec, execD2dRetrainComplete, hretrain, if_true, retrained, winCount_winBump, hlow, if_false,
      decide_false, Bool.false_and]
    rw [escalate_of_level1 _ rfl rfl rfl, levelPost_of_unposted _ rfl rfl rfl]
    rfl
  case spare =>
    have hhigh : 3 ≤ winCount s 1 1 l + 1 := by omega
    have hleft : decide (0 < (State.d2dAt (winBump 1 1 l s) l).sparesLeft) = true := decide_eq_true hspare
    simp only [exec, execD2dRetrainComplete, hretrain, if_true, retrained, winCount_winBump, hhigh, decide_true, hleft,
      Bool.true_and, Bool.not_true]
    rw [escalate_of_level3 _ rfl rfl rfl]
    rfl

end Sys2Proof.Machine

/-!
PROOFS. The management sideband and the module's sensors (R40, R241, R391, R396, R417, R418, R427, R428, R430).
-/

namespace Sys2Proof.Machine

/-! ### The management sideband -/

@[simp] theorem resetUnderway_modSec (f : Sec → Sec) (s : State) : resetUnderway (s.modSec f) = resetUnderway s := rfl

/-- R43: a COMPUTE reset and an FLR are lighter than a PACKAGE reset. -/
theorem package_weight_le_iff (d : ResetDomain) :
    ResetDomain.package.weight ≤ d.weight ↔ d = .cold ∨ d = .package := by
  cases d <;> decide

/-- R40, R43: a PACKAGE reset is triggered unless one or a COLD reset is in progress. -/
theorem triggerReset_package (src : ResetSource) (s : State) (hcold : resetUnderway s ≠ some .cold)
    (hpackage : resetUnderway s ≠ some .package) :
    triggerReset .package src s =
      s.modPkg fun p => { p with resetReq := some (.package, src), computeReset := false } := by
  refine triggerReset_of_heavier .package src s fun d hd hle => ?_
  obtain rfl | rfl := (package_weight_le_iff d).mp hle
  · exact hcold hd
  · exact hpackage hd

/-- A reading of a register changes the latches alone. -/
theorem latchRead_shape (a : Nat) (s : State) : (latchRead a s).2 = { s with latch := (latchRead a s).2.latch } := by
  unfold latchRead
  split
  · rfl
  · split
    · split <;> rfl
    · rfl

/-- R428: where it may act, SB_COLD triggers its reset from the sideband. -/
theorem exec_sbCold_of_powered {s : State} (hon : s.pkg.powered = true) (hcold : resetUnderway s ≠ some .cold) :
    exec .sbCold s = .next (((s.modSec fun x => { x with recovery := [] }).modPkg fun p =>
      { p with resetReq := some (.cold, .sideband), computeReset := false }).emit (.sideband 0 [])) := by
  simp only [exec, execSbCold, hon, if_true]
  rw [triggerReset_cold _ _ (by simpa using hcold)]
  rfl

theorem exec_sbPackage_of_powered {s : State} (hon : s.pkg.powered = true) (hcold : resetUnderway s ≠ some .cold)
    (hpackage : resetUnderway s ≠ some .package) (hway : ¬(s.pkg.devState = .failed ∧ s.pkg.wayOut = .cold)) :
    exec .sbPackage s = .next (((s.modSec fun x => { x with recovery := [] }).modPkg fun p =>
      { p with resetReq := some (.package, .sideband), computeReset := false }).emit (.sideband 0 [])) := by
  have hway : (s.pkg.devState == .failed && s.pkg.wayOut == .cold) = false := by
    rw [← Bool.not_eq_true]
    simpa using hway
  simp only [exec, execSbPackage, hon, hway, Bool.not_true, Bool.false_eq_true, if_false]
  rw [triggerReset_package _ _ (by simpa using hcold) (by simpa using hpackage)]
  rfl

/-- R428: an offset or a length below 2^32 is its 32-bit operand's value. -/
theorem toNat_ofNat_of_lt {n : Nat} (h : n < 2 ^ 32) : (BitVec.ofNat 32 n).toNat = n := by
  rw [BitVec.toNat_ofNat, Nat.mod_eq_of_lt h]

/-- Settles O15: each command by the checks that its premises pass. -/
theorem sidebandCommandsAnswerAndAct : Obligations.SidebandCommandsAnswerAndAct := by
  unfold Obligations.SidebandCommandsAnswerAndAct
  refine ⟨fun s hon hcold => ?cold, fun s hon hcold hpackage hway => ?package, fun s hon hfailed hway => ?refused,
    fun s hoff => ?dark, fun off s hread => ?read, fun data s hon hopen hlen hlt => ?data,
    fun s hon hopen hlt hgood => ?commit⟩
  case cold => exact exec_sbCold_of_powered hon hcold
  case package => exact exec_sbPackage_of_powered hon hcold hpackage hway
  case refused => simp [exec, execSbPackage, hon, hfailed, hway, sbAnswer, State.emit]
  case dark =>
    refine ⟨?_, ?_, fun off data len => ⟨?_, ?_⟩⟩
    · simp [exec, execSbCold, hoff, sbAnswer, State.emit]
    · simp [exec, execSbPackage, hoff, sbAnswer, State.emit]
    · simp [exec, execRecoveryData, hoff, sbAnswer, State.emit]
    · simp [exec, execRecoveryCommit, hoff, sbAnswer, State.emit]
  case read =>
    refine ⟨(latchRead off.toNat s).2.emit (.sideband 0 (leBytes 4 (latchRead off.toNat s).1)),
      by simp only [exec, execSbRead, hread, if_true], ?_, ?_⟩
    · rw [latchRead_shape]
      rfl
    · rw [latchRead_shape]
      rfl
  case data =>
    have hlen' : ¬ 240 < data.length := by omega
    have hoff := toNat_ofNat_of_lt hlt
    simp [exec, execRecoveryData, hon, hopen, -BitVec.toNat_ofNat, hoff, hlen', sbAnswer, State.emit, State.modSec]
  case commit =>
    have hlen := toNat_ofNat_of_lt hlt
    simp [exec, execRecoveryCommit, hon, hopen, -BitVec.toNat_ofNat, hlen, hgood, sbAnswer, State.emit, State.modSec,
      State.modSlot]

/-! ### The module's sensors -/

/-- R418: two reads in a row without a reading are this one and at least one before it. -/
theorem two_le_missCount (none_ : Bool) (n : Nat) : decide (2 ≤ missCount none_ n) = (none_ && decide (1 ≤ n)) := by
  cases none_
  · simp [missCount]
  · have h : 2 ≤ min (n + 1) 3 ↔ 1 ≤ n := by omega
    simp [missCount, h]

/-- Settles O16: a reading is `moduleRead`, whose fields are read off. -/
theorem moduleSensorsAreRead : Obligations.ModuleSensorsAreRead := by
  unfold Obligations.ModuleSensorsAreRead
  refine ⟨fun r s hruns => ?runs, fun r s hstopped => ?stopped⟩
  case runs =>
    refine ⟨by simp only [exec, execModuleSensorRead, hruns, Bool.not_true, Bool.false_eq_true, if_false], rfl, rfl, rfl,
      rfl, rfl, rfl, rfl, ?cooling, rfl, rfl, rfl⟩
    have hcool : (moduleRead r s.mdl).coolSensor =
      (decide (2 ≤ missCount r.inlet.isNone (vget s.mdl.missed 0)) ||
        decide (2 ≤ missCount r.outlet.isNone (vget s.mdl.missed 1)) ||
        decide (2 ≤ missCount r.flow.isNone (vget s.mdl.missed 2))) := rfl
    rw [hcool]
    simp only [two_le_missCount, List.any_cons, List.any_nil, Bool.or_false, Bool.or_assoc]
  case stopped => simp only [exec, execModuleSensorRead, hstopped, Bool.not_false, if_true]

end Sys2Proof.Machine

/-!
PROOFS. Boot of a healthy package, and the resets of the function and of the compute dies (R34, R40-R43, R156, R203,
R209, R227, R229, R393-R395).
-/

namespace Sys2Proof.Machine

/-! ### Boot -/

theorem vget_map {α β : Type} {n : Nat} [Inhabited α] [Inhabited β] (v : Vector α n) (f : α → β) {i : Nat} (h : i < n) :
    vget (v.map f) i = f (vget v i) := by
  simp [vget, Vector.getD, h]

/-- R410: where no spindle of a list waits for a re-fuse, none is carried out. -/
theorem applyRefuses_of_none (env : BootEnv) (s : State) :
    ∀ is : List Nat, (∀ i ∈ is, (vget s.spn i).pending = none) → applyRefuses env is s = s
  | [], _ => rfl
  | i :: is, h => by
    have hi : applyRefuse i (vget env.refuseFail i) s = s := by
      unfold applyRefuse
      rw [h i List.mem_cons_self]
    unfold applyRefuses
    rw [hi]
    exact applyRefuses_of_none env s is fun j hj => h j (List.mem_cons_of_mem i hj)

/-- What the updates of a list's hanks change. -/
theorem foldl_modHank_shape (f : Nat → Hank → Hank) (l : List Nat) (s : State) :
    l.foldl (fun (s : State) h => s.modHank h (f h)) s =
      { s with hnk := (l.foldl (fun (s : State) h => s.modHank h (f h)) s).hnk } :=
  List.foldlRecOn l _ (motive := fun t : State => t = { s with hnk := t.hnk }) rfl fun t ht _ _ => by
    rw [ht]
    rfl

/-- What the updates of a list's strands change. -/
theorem foldl_modStrand_shape (g : Nat → Nat) (f : Nat → Strand → Strand) (l : List Nat) (s : State) :
    l.foldl (fun (s : State) i => s.modStrand (g i) (f i)) s =
      { s with opt := (l.foldl (fun (s : State) i => s.modStrand (g i) (f i)) s).opt } :=
  List.foldlRecOn l _ (motive := fun t : State => t = { s with opt := t.opt }) rfl fun t ht _ _ => by
    rw [ht]
    rfl

theorem registerTables_shape (s : State) :
    registerTables s = { s with bob := { s.bob with region := (registerTables s).bob.region } } := rfl

/-- R156, R395: where every hank comes back, training and the reserved range change the hanks and the regions. -/
theorem trainHanks_shape {env : BootEnv} (h : env.hankLost = none) (s : State) :
    trainHanks env s = { s with hnk := (trainHanks env s).hnk,
                                bob := { s.bob with region := (trainHanks env s).bob.region } } := by
  have htrain : trainHanks env s =
      registerTables ((List.range 8).foldl (fun s h => s.modHank h fun k => { k with activity := 2 }) s) := by
    unfold trainHanks
    rw [h]
  have hfold := foldl_modHank_shape (fun _ k => { k with activity := 2 }) (List.range 8) s
  rw [htrain]
  generalize List.foldl _ _ _ = t at hfold ⊢
  rw [registerTables_shape, hfold]

/-- R425: a bank's check changes the optics and the module's record. -/
theorem checkBank_shape (b serial : Nat) (s : State) :
    checkBank b serial s = { s with opt := (checkBank b serial s).opt, mdl := (checkBank b serial s).mdl } := by
  unfold checkBank
  split
  · rfl
  · dsimp only
    rw [foldl_modStrand_shape]
    rfl

theorem lightLasers_shape (env : BootEnv) (s : State) :
    lightLasers env s = { s with opt := (lightLasers env s).opt, mdl := (lightLasers env s).mdl } := by
  unfold lightLasers
  rw [checkBank_shape, checkBank_shape]
  rfl

/-- The parts of the state that boot may change are those of `t`, and every other part is that of `s`. -/
def BootOnly (s t : State) : Prop :=
  t = { s with pkg := t.pkg, bob := t.bob, hnk := t.hnk, fly := t.fly, opt := t.opt, sec := t.sec, mdl := t.mdl }

theorem BootOnly.trans {s t u : State} (hst : BootOnly s t) (htu : BootOnly t u) : BootOnly s u := by
  unfold BootOnly at *
  rw [htu, hst]

theorem bootOnly_modPkg (f : Pkg → Pkg) (s : State) : BootOnly s (s.modPkg f) := rfl

theorem bootOnly_modFly (f : Fly → Fly) (s : State) : BootOnly s (s.modFly f) := rfl

theorem bootOnly_trainHanks {env : BootEnv} (h : env.hankLost = none) (s : State) : BootOnly s (trainHanks env s) := by
  unfold BootOnly
  rw [trainHanks_shape h]

theorem bootOnly_lightLasers (env : BootEnv) (s : State) : BootOnly s (lightLasers env s) := by
  unfold BootOnly
  rw [lightLasers_shape]

section
variable {env : BootEnv} (im : FwImage) {s : State} (hspn : ∀ i, i < 8 → (vget s.spn i).pending = none)
include hspn

/-- R395: bringing up the units of a package where no spindle waits for a re-fuse and every hank comes back. -/
theorem bringUnits_eq : bringUnits env im s =
    (lightLasers env (trainHanks env
      ((s.modFly fun f => { f with noStandby := !env.standby, fwMajor := im.major, fwMinor := im.minor }).modPkg fun p =>
        { p with pkgCap := packageCap p.dieCap }))).modPkg fun p => { p with bootCode := 0x2F } := by
  have hnone : ∀ t : State, t.spn = s.spn → applyRefuses env (List.range 8) t = t := fun t ht =>
    applyRefuses_of_none env t _ fun i hi => ht ▸ hspn i (List.mem_range.mp hi)
  unfold bringUnits
  dsimp only
  rw [hnone]
  exact (State.modPkg_spn _ _).trans (State.modFly_spn _ _)

theorem bootOnly_bringUnits (hhank : env.hankLost = none) : BootOnly s (bringUnits env im s) := by
  rw [bringUnits_eq im hspn]
  exact (((bootOnly_modFly _ _).trans (bootOnly_modPkg _ _)).trans (bootOnly_trainHanks hhank _)).trans
    ((bootOnly_lightLasers env _).trans (bootOnly_modPkg _ _))

theorem bringUnits_pkg (hhank : env.hankLost = none) : (bringUnits env im s).pkg =
    { s.pkg with pkgCap := packageCap s.pkg.dieCap, bootCode := 0x2F } := by
  rw [bringUnits_eq im hspn, State.modPkg_pkg, lightLasers_shape, trainHanks_shape hhank, State.modPkg_pkg,
    State.modFly_pkg]

theorem bringUnits_noStandby (hhank : env.hankLost = none) : (bringUnits env im s).fly.noStandby = !env.standby := by
  rw [bringUnits_eq im hspn, State.modPkg_fly, lightLasers_shape, trainHanks_shape hhank, State.modPkg_fly,
    State.modFly_fly]

theorem bringUnits_queue (hhank : env.hankLost = none) : (bringUnits env im s).bob.queue = s.bob.queue := by
  rw [bringUnits_eq im hspn, State.modPkg_bob, lightLasers_shape, trainHanks_shape hhank, State.modPkg_bob,
    State.modFly_bob]

theorem bringUnits_sec (hhank : env.hankLost = none) : (bringUnits env im s).sec = s.sec := by
  rw [bringUnits_eq im hspn, State.modPkg_sec, lightLasers_shape, trainHanks_shape hhank, State.modPkg_sec,
    State.modFly_sec]

end

/-! ### The slot that boots -/

theorem setDevState_pkg (d : DevState) (s : State) : (setDevState d s).pkg = { s.pkg with devState := d } := by
  unfold setDevState
  split <;> rfl

theorem setDevState_shape (d : DevState) (s : State) :
    setDevState d s = { s with pkg := (setDevState d s).pkg,
                               sec := { s.sec with challengeStale := (setDevState d s).sec.challengeStale } } := by
  unfold setDevState
  split <;> rfl

theorem slotReady_shape (i : Nat) (s : State) :
    slotReady i s = { s with sec := { s.sec with slot := (slotReady i s).sec.slot, commit := (slotReady i s).sec.commit } } :=
  rfl

/-- R392: the slot on which READY was reached is ACTIVE. -/
theorem slotReady_active {i : Nat} (hi : i < 2) (s : State) : (vget (slotReady i s).sec.slot i).st = .active := by
  have hslot : (slotReady i s).sec.slot = vmod (vmod s.sec.slot (1 - i) fun sl =>
      { sl with st := if sl.st = .active then .valid else sl.st }) i fun sl =>
      { sl with st := .active, reason := 0, attempted := false } := rfl
  rw [hslot, vget_vmod_same _ _ _ hi]

theorem bootOnly_setDevState (d : DevState) (s : State) : BootOnly s (setDevState d s) := by
  unfold BootOnly
  rw [setDevState_shape]

theorem bootOnly_slotReady (i : Nat) (s : State) : BootOnly s (slotReady i s) := by
  unfold BootOnly
  rw [slotReady_shape]

/-- R393: with slot A ACTIVE and no slot PENDING, slot A boots where it passes its checks. -/
theorem chooseSlot_of_active {s : State} (h0 : (s.slotAt 0).st = .active) (h1 : (s.slotAt 1).st = .empty)
    (hpass : slotReason s (s.slotAt 0) = 0) : chooseSlot 0 s = (some 0, s) := by
  have hpending : slotIn s .pending = none := by
    simp [slotIn, h0, h1]
  have hactive : slotIn s .active = some 0 := by
    simp [slotIn, h0]
  simp [chooseSlot, tryPending, trySlot, hpending, hactive, hpass]

/-- The checks of a slot read the blown version and the dies' words alone. -/
theorem slotReason_congr {s t : State} (hw : t.sec.svnWord = s.sec.svnWord) (hc : t.pkg.dieCap = s.pkg.dieCap)
    (sl : Slot) : slotReason t sl = slotReason s sl := by
  simp only [slotReason, hw, hc]

/-- R395: boot has begun, and the fuses have passed. -/
def fusesPassed (env : BootEnv) (dom : ResetDomain) (src : ResetSource) (s : State) : State :=
  (((((setDevState .boot s).modPkg fun p =>
    { p with resetDomain := dom, resetSource := src, resetReq := none, bootCode := 0 }).modMdl fun x =>
    { x with hostB := env.hostB }).modSec fun x => { x with fuseOk := true }).modPkg fun p => { p with bar0Up := true })

/-- R25-R31: the dies have passed their checks with these strap and capability words, and a slot is chosen. -/
def diesPassed (straps caps : Vector Word 6) (s : State) : State :=
  ((s.modPkg fun p => { p with dieStrap := straps, dieCap := caps }).modPkg fun p =>
    { p with bootCode := 0x01, locked := 0x3F }).modPkg fun p => { p with bootCode := 0x20 }

section
variable (env : BootEnv) (dom : ResetDomain) (src : ResetSource) (straps caps : Vector Word 6) (s : State)

/-- The firmware of slot A has started on dies with these words. -/
def slotAStarted : State :=
  startFirmware env 0 (diesPassed straps caps (fusesPassed env dom src s))

theorem slotAStarted_pkg : (slotAStarted env dom src straps caps s).pkg =
    { s.pkg with devState := .boot, resetDomain := dom, resetSource := src, resetReq := none, bootCode := 0x28,
                 bar0Up := true, dieStrap := straps, dieCap := caps, locked := 0x3F, flyerRuns := !env.hangs } := by
  cases s
  rfl

theorem slotAStarted_spn : (slotAStarted env dom src straps caps s).spn = s.spn := by
  cases s
  rfl

theorem slotAStarted_bob : (slotAStarted env dom src straps caps s).bob = s.bob := by
  cases s
  rfl

theorem slotAStarted_booted : (slotAStarted env dom src straps caps s).sec.booted = 0 := by
  cases s
  rfl

theorem bootOnly_slotAStarted : BootOnly s (slotAStarted env dom src straps caps s) := by
  cases s
  rfl

theorem slotReason_diesPassed (sl : Slot) : slotReason (diesPassed straps caps (fusesPassed env dom src s)) sl =
    slotReason (s.modPkg fun p => { p with dieCap := caps }) sl :=
  slotReason_congr (by cases s; rfl) (by cases s; rfl) sl

theorem slotAt_diesPassed (i : Nat) : (diesPassed straps caps (fusesPassed env dom src s)).slotAt i = s.slotAt i := by
  cases s
  rfl

end

section
variable {env : BootEnv} (dom : ResetDomain) (src : ResetSource) {s : State} (henv : BootEnv.healthy env)
  (h0 : (s.slotAt 0).st = .active) (h1 : (s.slotAt 1).st = .empty)
  (hpass : slotReason (s.modPkg fun p => { p with dieCap := capsShown env.caps }) (s.slotAt 0) = 0)
  (hspn : ∀ i, i < 8 → (vget s.spn i).pending = none)

include henv h0 h1 hpass

/-- R25-R31, R393, R395: the dies of a healthy package pass, and it boots slot A where that passes. -/
theorem boot_bringUp : boot env dom src s =
    bringUp env 0 (diesPassed (env.straps.map strapWord) (capsShown env.caps) (fusesPassed env dom src s)) := by
  obtain ⟨hfuse, hanswers, hstrap, hd2d, hnumgen, hflash, hunread, hhangs, hhank⟩ := henv
  have hchoose : chooseSlot 0 (diesPassed (env.straps.map strapWord) (capsShown env.caps) (fusesPassed env dom src s)) =
      (some 0, diesPassed (env.straps.map strapWord) (capsShown env.caps) (fusesPassed env dom src s)) :=
    chooseSlot_of_active (by rw [slotAt_diesPassed, h0]) (by rw [slotAt_diesPassed, h1])
      (by rw [slotReason_diesPassed, slotAt_diesPassed, hpass])
  unfold boot bootDies bootFirmware
  simp only [hfuse, hanswers, hstrap, hd2d, hnumgen, hflash, hunread, Bool.not_true, Bool.false_eq_true, if_false,
    ne_eq, not_true_eq_false]
  unfold diesPassed fusesPassed at hchoose ⊢
  rw [hchoose]

include hspn

/-- R395: a healthy package reaches READY on slot A. -/
theorem boot_slotReady : boot env dom src s = slotReady 0 (setDevState .ready
    (bringUnits env (((s.slotAt 0).image).getD {})
      (slotAStarted env dom src (env.straps.map strapWord) (capsShown env.caps) s))) := by
  rw [boot_bringUp dom src henv h0 h1 hpass]
  obtain ⟨-, -, -, -, -, -, -, hhangs, hhank⟩ := henv
  have hdev (im : FwImage) : (bringUnits env im
      (slotAStarted env dom src (env.straps.map strapWord) (capsShown env.caps) s)).pkg.devState ≠ .failed := by
    rw [bringUnits_pkg im (by rwa [slotAStarted_spn]) hhank, slotAStarted_pkg]
    nofun
  unfold bringUp
  rw [slotAt_diesPassed]
  simp only [hhangs, Bool.false_eq_true, if_false]
  exact if_neg (hdev _)

theorem boot_pkg : (boot env dom src s).pkg =
    { s.pkg with devState := .ready, resetDomain := dom, resetSource := src, resetReq := none, bootCode := 0x2F,
                 bar0Up := true, dieStrap := env.straps.map strapWord, dieCap := capsShown env.caps, locked := 0x3F,
                 flyerRuns := true, pkgCap := packageCap (capsShown env.caps) } := by
  rw [boot_slotReady dom src henv h0 h1 hpass hspn]
  obtain ⟨-, -, -, -, -, -, -, hhangs, hhank⟩ := henv
  rw [slotReady_shape, setDevState_pkg, bringUnits_pkg _ (by rwa [slotAStarted_spn]) hhank, slotAStarted_pkg, hhangs]
  rfl

theorem boot_standby : (boot env dom src s).fly.noStandby = !env.standby := by
  rw [boot_slotReady dom src henv h0 h1 hpass hspn]
  obtain ⟨-, -, -, -, -, -, -, -, hhank⟩ := henv
  rw [slotReady_shape, setDevState_shape, bringUnits_noStandby _ (by rwa [slotAStarted_spn]) hhank]

theorem boot_queue : (boot env dom src s).bob.queue = s.bob.queue := by
  rw [boot_slotReady dom src henv h0 h1 hpass hspn]
  obtain ⟨-, -, -, -, -, -, -, -, hhank⟩ := henv
  rw [slotReady_shape, setDevState_shape, bringUnits_queue _ (by rwa [slotAStarted_spn]) hhank, slotAStarted_bob]

theorem boot_booted : (boot env dom src s).sec.booted = 0 := by
  rw [boot_slotReady dom src henv h0 h1 hpass hspn]
  obtain ⟨-, -, -, -, -, -, -, -, hhank⟩ := henv
  rw [slotReady_shape, setDevState_shape, bringUnits_sec _ (by rwa [slotAStarted_spn]) hhank, slotAStarted_booted]

theorem boot_slot : (vget (boot env dom src s).sec.slot 0).st = .active := by
  rw [boot_slotReady dom src henv h0 h1 hpass hspn]
  exact slotReady_active (by decide) _

theorem bootOnly_boot : BootOnly s (boot env dom src s) := by
  rw [boot_slotReady dom src henv h0 h1 hpass hspn]
  obtain ⟨-, -, -, -, -, -, -, -, hhank⟩ := henv
  exact ((bootOnly_slotAStarted env dom src _ _ s).trans (bootOnly_bringUnits _ (by rwa [slotAStarted_spn]) hhank)).trans
    ((bootOnly_setDevState _ _).trans (bootOnly_slotReady _ _))

end

/-- The part of the state that boots from what the reset of a domain leaves (R41). -/
theorem boots_clearedState {keep : Bool} {env : BootEnv} {s : State} (hA : s.bootsSlotA env)
    (hspn : ∀ i, i < 8 → (vget s.spn i).pending = none) :
    ((clearedState keep s).slotAt 0).st = .active ∧ ((clearedState keep s).slotAt 1).st = .empty ∧
    slotReason ((clearedState keep s).modPkg fun p => { p with dieCap := capsShown env.caps })
      ((clearedState keep s).slotAt 0) = 0 ∧
    ∀ i, i < 8 → (vget (clearedState keep s).spn i).pending = none := by
  obtain ⟨h0, h1, hpass⟩ := hA
  refine ⟨h0, h1, (slotReason_congr ?_ ?_ _).trans hpass, fun i hi => ?_⟩
  · cases s
    rfl
  · cases s
    rfl
  · have hmap : (clearedState keep s).spn = s.spn.map (clearSpindle false) := rfl
    rw [hmap, vget_map _ _ hi]
    exact hspn i hi

theorem exec_coldReset_of_powered {s : State} (env : BootEnv) (hon : s.pkg.powered = true) :
    ∃ src, exec (.coldReset env) s = .next (boot env .cold src (clearedState false s)) :=
  ⟨_, congrArg Host.Outcome.next (if_pos hon)⟩

theorem exec_packageReset_of_triggered {s : State} (env : BootEnv) {src : ResetSource}
    (hreq : s.pkg.resetReq = some (.package, src)) (hon : s.pkg.powered = true) (href : s.pkg.refOk = true) :
    exec (.packageReset env) s = .next (boot env .package src (clearedState true s)) := by
  simp only [exec, execPackageReset, hreq, hon, href, Bool.and_true, if_true]

/-- Settles O10: both resets clear their domain's state and then boot it. -/
theorem resetsBootToReady : Obligations.ResetsBootToReady := by
  unfold Obligations.ResetsBootToReady
  refine ⟨fun env s hon henv hA hspn => ?cold, fun env src s hreq hon href henv hA hspn => ?package⟩
  case cold =>
    obtain ⟨h0, h1, hpass, hpend⟩ := boots_clearedState (keep := false) hA hspn
    obtain ⟨src, hexec⟩ := exec_coldReset_of_powered env hon
    have hpkg := boot_pkg .cold src henv h0 h1 hpass hpend
    have honly := bootOnly_boot .cold src henv h0 h1 hpass hpend
    exact ⟨_, hexec, by rw [hpkg], by rw [hpkg], by rw [hpkg], by rw [hpkg], by rw [hpkg], by rw [hpkg], by rw [hpkg],
      boot_standby .cold src henv h0 h1 hpass hpend, boot_booted .cold src henv h0 h1 hpass hpend,
      boot_slot .cold src henv h0 h1 hpass hpend, congrArg State.mem honly,
      boot_queue .cold src henv h0 h1 hpass hpend, honly⟩
  case package =>
    obtain ⟨h0, h1, hpass, hpend⟩ := boots_clearedState (keep := true) hA hspn
    have hpkg := boot_pkg .package src henv h0 h1 hpass hpend
    have honly := bootOnly_boot .package src henv h0 h1 hpass hpend
    exact ⟨_, exec_packageReset_of_triggered env hreq hon href, by rw [hpkg], by rw [hpkg], by rw [hpkg], by rw [hpkg],
      by rw [hpkg], by rw [hpkg], by rw [hpkg], by rw [hpkg], boot_standby .package src henv h0 h1 hpass hpend,
      boot_booted .package src henv h0 h1 hpass hpend, boot_slot .package src henv h0 h1 hpass hpend,
      congrArg State.mem honly, boot_queue .package src henv h0 h1 hpass hpend, honly⟩

end Sys2Proof.Machine

/-!
PROOFS. The resets of the function and of the host port, the end of a COMPUTE reset, and a blown SVN bit (R42, R43, R156,
R203, R209, R227, R229, R394).
-/

namespace Sys2Proof.Machine

/-! ### Hot reset -/

theorem markUndef_shape (base len : Nat) (s : State) :
    markUndef base len s = { s with free := (markUndef base len s).free, undef := (markUndef base len s).undef } := by
  unfold markUndef
  split <;> rfl

/-- R224: the spill accesses that fail change neither the host port nor what they do not record. -/
theorem failSpillWaits_hp (s : State) : (failSpillWaits s).hp =
    { s.hp with spillWait := [], spillErr := s.hp.spillErr || !s.hp.spillWait.isEmpty } := by
  unfold failSpillWaits
  rw [foldl_keeps State.hp _ (fun s a => clientError_hp ..)]
  rfl

theorem dropAgent_hp (s : State) : (dropAgent s).hp =
    { s.hp with agent := [], got := s.hp.got ++ s.hp.agent.flatMap fun e => (e.2.map (lineLost e.1)).getD [] } := by
  unfold dropAgent
  dsimp only
  rw [foldl_keeps State.hp _ (fun s a => by rw [markUndef_shape])]
  rfl

/-- R227: without a line in the spill agent nothing is dropped. -/
theorem dropAgent_of_nil {s : State} (h : s.hp.agent = []) : dropAgent s = s := by
  have hsame : (s.modHp fun x => { x with agent := [], got := x.got ++ [] }) = s := by
    simp only [List.append_nil, ← h]
    rfl
  unfold dropAgent
  rw [h]
  exact hsame

/-- R224: without a spill access that waits none fails. -/
theorem failSpillWaits_of_nil {s : State} (h : s.hp.spillWait = []) : failSpillWaits s = s := by
  have hsame : (s.modHp fun x => { x with spillWait := [], spillErr := x.spillErr || !x.spillWait.isEmpty }) = s := by
    simp only [State.modHp, h, List.isEmpty_nil, Bool.not_true, Bool.or_false]
    rw [← h]
  unfold failSpillWaits
  rw [h]
  exact hsame

theorem resetFunction_hp (s : State) : (resetFunction s).hp =
    { s.hp with msix := tmap s.hp.msix (fun e => { e with unmasked := false, pending := false }), msixOn := false,
                doeBusy := false, d3 := false } := rfl

/-- R203, R209: the queues that an FLR empties, as the statement writes them. -/
theorem emptyHostQueues_eq (s : State) : emptyHostQueues s =
    { s with bob := { s.bob with
      queue := tmap s.bob.queue (fun q =>
        if q.cls = .request ∨ q.cls = .completion then { q with head := 0, tail := 0, credit := 0, headRung := false }
        else q)
      tag := tmap s.bob.tag (fun o => o.map fun c =>
        if (tget s.bob.queue c.queue).cls = .request then { c with discard := true } else c)
      low := [], qSel := 0, pageSel := 0 } } := by
  simp only [emptyHostQueues, State.modBob, Bool.or_eq_true, decide_eq_true_eq]

/-- R227, R229: what the host port shows once the link is down. -/
theorem linkDownEffect_msix (s : State) : (linkDownEffect s).hp.msix =
    tmap s.hp.msix (fun e => { e with unmasked := false, pending := false }) := by
  have hmsix : (failSpillWaits (dropAgent (resetFunction (emptyHostQueues s)))).hp.msix =
      tmap s.hp.msix (fun e => { e with unmasked := false, pending := false }) := by
    rw [failSpillWaits_hp, dropAgent_hp, resetFunction_hp]
    rfl
  exact hmsix

theorem linkDownEffect_spillWait (s : State) : (linkDownEffect s).hp.spillWait = [] := by
  have hwait : (failSpillWaits (dropAgent (resetFunction (emptyHostQueues s)))).hp.spillWait = [] := by
    rw [failSpillWaits_hp]
  exact hwait

/-- R227: with no line in the spill agent and no access waiting only the host port and the queues change. -/
theorem linkDownEffect_of_nil {s : State} (ha : s.hp.agent = []) (hw : s.hp.spillWait = []) :
    linkDownEffect s = { s with hp := (linkDownEffect s).hp, bob := (emptyHostQueues s).bob } := by
  have ha' : (resetFunction (emptyHostQueues s)).hp.agent = [] := ha
  have hw' : (resetFunction (emptyHostQueues s)).hp.spillWait = [] := hw
  unfold linkDownEffect
  rw [dropAgent_of_nil ha', failSpillWaits_of_nil hw']
  rfl

/-! ### The end of a COMPUTE reset -/

/-- R42, R156: a COMPUTE reset whose hanks all come back, with no orderly stop, leaves READY. -/
theorem computeDone_of_no_stop {s : State} (hstop : s.pkg.stopInReset = none) :
    let s0 : State :=
      { s with pkg := { s.pkg with devState := .ready, computeReset := false, locked := s.pkg.locked ||| 0xF },
               hnk := { s.hnk with selfRefresh := false, stopped := false } }
    computeDone none s = completeAll .sOk (computeWaiters s0) (resumeHeld s0) := by
  simp only [computeDone, hstop, Option.isSome_none, Bool.and_false, Bool.or_false, Bool.false_eq_true, if_false,
    setDevState, if_true, State.modPkg, State.modHnk, State.modThm]

/-- Settles O11: each reset is its clearing of the parts named; the folds over lines and accesses that wait leave the host
port's other fields alone. -/
theorem functionAndComputeResets : Obligations.FunctionAndComputeResets := by
  unfold Obligations.FunctionAndComputeResets
  refine ⟨fun s hreq hboot hrel => ?flr, fun s => ?hot, fun s hreset hstop hrefresh => ?compute,
    fun s n hcommit => ?blown, fun s => ?unverified⟩
  case flr =>
    have harrives : (s.pkg.resetReq.isSome || s.pkg.devState == .boot) = false := by simpa [hreq] using hboot
    simp only [exec, execFlr, harrives, Bool.false_eq_true, if_false, flrArrives, hrel, flrEffect, emptyHostQueues_eq]
    rfl
  case hot =>
    exact ⟨linkDownEffect s, rfl, rfl, rfl, rfl, rfl, rfl, rfl, rfl, rfl, rfl, rfl, rfl, rfl,
      linkDownEffect_spillWait s, linkDownEffect_msix s, linkDownEffect_of_nil⟩
  case compute =>
    simp only [exec, execComputeResetComplete, hreset, hrefresh, Bool.and_true, if_true]
    exact congrArg Host.Outcome.next (computeDone_of_no_stop hstop)
  case blown =>
    simp only [exec, execSvnBitBlown, hcommit]
    rfl
  case unverified =>
    simp only [exec, execSvnBitBlown]
    cases s.sec.commit <;> rfl

end Sys2Proof.Machine

/-!
PROOFS. What an operation leaves alone: the state with some of its parts taken away. Each operation has one lemma, that it
leaves the state beside the parts it may change as it was; the lemmas compose by rewriting.
-/

namespace Sys2Proof.Machine

/-! ### The state beside some parts -/

/-- Parts of the state. `work` stands for the fields of the frame record that a tick does not set (`tickPart`), `tags` for
the fields of the bobbins beside their tables in memory (`tablePart`). -/
structure Parts where
  pending : Bool := false
  free : Bool := false
  out : Bool := false
  mem : Bool := false
  undef : Bool := false
  win : Bool := false
  winHide : Bool := false
  latch : Bool := false
  pairLow : Bool := false
  pkg : Bool := false
  frm : Bool := false
  spn : Bool := false
  vec : Bool := false
  hnk : Bool := false
  vis : Bool := false
  bob : Bool := false
  hp : Bool := false
  fly : Bool := false
  opt : Bool := false
  fab : Bool := false
  top : Bool := false
  skn : Bool := false
  pwr : Bool := false
  thm : Bool := false
  res : Bool := false
  sec : Bool := false
  tst : Bool := false
  mdl : Bool := false
  work : Bool := false
  tags : Bool := false

/-- R67, R75, R77: the fields of the frame record that a tick, the reply and the failure of a frame set. -/
def tickPart (f : Frm) : Frm :=
  { cur := f.cur, next := f.next, number := f.number, period := f.period, stretch := f.stretch, held := f.held,
    pause := f.pause, replied := f.replied, failNum := f.failNum, failedFrame := f.failedFrame }

/-- R187, R190: the fields of the bobbins' record that lie in memory. -/
def tablePart (b : Bob) : Bob :=
  { queue := b.queue, region := b.region }

/-- The state beside the parts `w`. -/
def State.beside (s : State) (w : Parts) : State :=
  { pending := cond w.pending [] s.pending,
    free := cond w.free 0 s.free,
    out := cond w.out [] s.out,
    mem := cond w.mem [] s.mem,
    undef := cond w.undef [] s.undef,
    win := cond w.win [] s.win,
    winHide := cond w.winHide [] s.winHide,
    latch := cond w.latch [] s.latch,
    pairLow := cond w.pairLow [] s.pairLow,
    pkg := cond w.pkg {} s.pkg,
    frm := cond w.frm {} (cond w.work (tickPart s.frm) s.frm),
    spn := cond w.spn (.replicate 8 {}) s.spn,
    vec := cond w.vec (.replicate 4 {}) s.vec,
    hnk := cond w.hnk {} s.hnk,
    vis := cond w.vis {} s.vis,
    bob := cond w.bob {} (cond w.tags (tablePart s.bob) s.bob),
    hp := cond w.hp {} s.hp,
    fly := cond w.fly {} s.fly,
    opt := cond w.opt {} s.opt,
    fab := cond w.fab {} s.fab,
    top := cond w.top {} s.top,
    skn := cond w.skn {} s.skn,
    pwr := cond w.pwr {} s.pwr,
    thm := cond w.thm {} s.thm,
    res := cond w.res {} s.res,
    sec := cond w.sec {} s.sec,
    tst := cond w.tst {} s.tst,
    mdl := cond w.mdl {} s.mdl }

section
variable {w : Parts} {s t : State}

@[simp] theorem ite_beside (c : Prop) [Decidable c] :
    (if c then s else t).beside w = if c then s.beside w else t.beside w :=
  apply_ite (State.beside · w) ..

/-- An update of the frame record that leaves the tick's fields. -/
theorem beside_frm_of_work (h : w.work = true) (f : Frm → Frm) (hf : tickPart (f s.frm) = tickPart s.frm) :
    (s.modFrm f).beside w = s.beside w := by
  simp [State.beside, State.modFrm, h, hf]

/-- An update of the bobbins' record that leaves its tables. -/
theorem beside_bob_of_tags (h : w.tags = true) (f : Bob → Bob) (hf : tablePart (f s.bob) = tablePart s.bob) :
    (s.modBob f).beside w = s.beside w := by
  simp [State.beside, State.modBob, h, hf]

end

section
variable {w : Parts}

/-! ### The parts -/

@[simp] theorem modPkg_beside (h : w.pkg = true) (f : Pkg → Pkg) (s : State) :
    (s.modPkg f).beside w = s.beside w := by
  simp [State.beside, State.modPkg, h]

@[simp] theorem modFrm_beside (h : w.frm = true) (f : Frm → Frm) (s : State) :
    (s.modFrm f).beside w = s.beside w := by
  simp [State.beside, State.modFrm, h]

@[simp] theorem modHnk_beside (h : w.hnk = true) (f : Hnk → Hnk) (s : State) :
    (s.modHnk f).beside w = s.beside w := by
  simp [State.beside, State.modHnk, h]

@[simp] theorem modVis_beside (h : w.vis = true) (f : Vis → Vis) (s : State) :
    (s.modVis f).beside w = s.beside w := by
  simp [State.beside, State.modVis, h]

@[simp] theorem modBob_beside (h : w.bob = true) (f : Bob → Bob) (s : State) :
    (s.modBob f).beside w = s.beside w := by
  simp [State.beside, State.modBob, h]

@[simp] theorem modHp_beside (h : w.hp = true) (f : Hp → Hp) (s : State) :
    (s.modHp f).beside w = s.beside w := by
  simp [State.beside, State.modHp, h]

@[simp] theorem modFly_beside (h : w.fly = true) (f : Fly → Fly) (s : State) :
    (s.modFly f).beside w = s.beside w := by
  simp [State.beside, State.modFly, h]

@[simp] theorem modOpt_beside (h : w.opt = true) (f : Opt → Opt) (s : State) :
    (s.modOpt f).beside w = s.beside w := by
  simp [State.beside, State.modOpt, h]

@[simp] theorem modFab_beside (h : w.fab = true) (f : Fab → Fab) (s : State) :
    (s.modFab f).beside w = s.beside w := by
  simp [State.beside, State.modFab, h]

@[simp] theorem modTop_beside (h : w.top = true) (f : Top → Top) (s : State) :
    (s.modTop f).beside w = s.beside w := by
  simp [State.beside, State.modTop, h]

@[simp] theorem modSkn_beside (h : w.skn = true) (f : Skn → Skn) (s : State) :
    (s.modSkn f).beside w = s.beside w := by
  simp [State.beside, State.modSkn, h]

@[simp] theorem modPwr_beside (h : w.pwr = true) (f : Pwr → Pwr) (s : State) :
    (s.modPwr f).beside w = s.beside w := by
  simp [State.beside, State.modPwr, h]

@[simp] theorem modThm_beside (h : w.thm = true) (f : Thm → Thm) (s : State) :
    (s.modThm f).beside w = s.beside w := by
  simp [State.beside, State.modThm, h]

@[simp] theorem modRes_beside (h : w.res = true) (f : Res → Res) (s : State) :
    (s.modRes f).beside w = s.beside w := by
  simp [State.beside, State.modRes, h]

@[simp] theorem modSec_beside (h : w.sec = true) (f : Sec → Sec) (s : State) :
    (s.modSec f).beside w = s.beside w := by
  simp [State.beside, State.modSec, h]

@[simp] theorem modTst_beside (h : w.tst = true) (f : Tst → Tst) (s : State) :
    (s.modTst f).beside w = s.beside w := by
  simp [State.beside, State.modTst, h]

@[simp] theorem modMdl_beside (h : w.mdl = true) (f : Mdl → Mdl) (s : State) :
    (s.modMdl f).beside w = s.beside w := by
  simp [State.beside, State.modMdl, h]

@[simp] theorem modSpn_beside (h : w.spn = true) (i : Nat) (f : Spindle → Spindle) (s : State) :
    (s.modSpn i f).beside w = s.beside w := by
  simp [State.beside, State.modSpn, h]

@[simp] theorem modVec_beside (h : w.vec = true) (i : Nat) (f : VecDie → VecDie) (s : State) :
    (s.modVec i f).beside w = s.beside w := by
  simp [State.beside, State.modVec, h]

@[simp] theorem emit_beside (h : w.out = true) (e : Emit) (s : State) : (s.emit e).beside w = s.beside w := by
  simp [State.beside, State.emit, h]

@[simp] theorem drawFree_beside (h : w.free = true) (s : State) : s.drawFree.beside w = s.beside w := by
  simp [State.beside, State.drawFree, h]

@[simp] theorem drawFrees_beside (h : w.free = true) (n : Nat) (s : State) : (s.drawFrees n).beside w = s.beside w := by
  simp [State.beside, State.drawFrees, h]

@[simp] theorem modHank_beside (h : w.hnk = true) (i : Nat) (f : Hank → Hank) (s : State) :
    (s.modHank i f).beside w = s.beside w :=
  modHnk_beside h _ s

@[simp] theorem modChan_beside (h : w.hnk = true) (i : Nat) (f : Chan → Chan) (s : State) :
    (s.modChan i f).beside w = s.beside w :=
  modHnk_beside h _ s

@[simp] theorem modQueue_beside (h : w.bob = true) (i : Nat) (f : Queue → Queue) (s : State) :
    (s.modQueue i f).beside w = s.beside w :=
  modBob_beside h _ s

@[simp] theorem modRegion_beside (h : w.bob = true) (i : Nat) (f : Region → Region) (s : State) :
    (s.modRegion i f).beside w = s.beside w :=
  modBob_beside h _ s

@[simp] theorem modPage_beside (h : w.bob = true) (i : Nat) (f : DbPage → DbPage) (s : State) :
    (s.modPage i f).beside w = s.beside w :=
  modBob_beside h _ s

@[simp] theorem modTag_beside (h : w.tags = true) (i : Nat) (f : Option Cmd → Option Cmd) (s : State) :
    (s.modTag i f).beside w = s.beside w :=
  beside_bob_of_tags h _ rfl

@[simp] theorem modMbx_beside (h : w.fly = true) (i : Nat) (f : Mbx → Mbx) (s : State) :
    (s.modMbx i f).beside w = s.beside w :=
  modFly_beside h _ s

@[simp] theorem modStrand_beside (h : w.opt = true) (i : Nat) (f : Strand → Strand) (s : State) :
    (s.modStrand i f).beside w = s.beside w :=
  modOpt_beside h _ s

@[simp] theorem modBank_beside (h : w.opt = true) (i : Nat) (f : Bank → Bank) (s : State) :
    (s.modBank i f).beside w = s.beside w :=
  modOpt_beside h _ s

@[simp] theorem modLink_beside (h : w.fab = true) (i : Nat) (f : Link → Link) (s : State) :
    (s.modLink i f).beside w = s.beside w :=
  modFab_beside h _ s

@[simp] theorem modDisc_beside (h : w.top = true) (i : Nat) (f : Disc → Disc) (s : State) :
    (s.modDisc i f).beside w = s.beside w :=
  modTop_beside h _ s

@[simp] theorem modCtx_beside (h : w.skn = true) (i : Nat) (f : Ctx → Ctx) (s : State) :
    (s.modCtx i f).beside w = s.beside w :=
  modSkn_beside h _ s

@[simp] theorem modPwrDie_beside (h : w.pwr = true) (i : Nat) (f : PwrDie → PwrDie) (s : State) :
    (s.modPwrDie i f).beside w = s.beside w :=
  modPwr_beside h _ s

@[simp] theorem modThmDie_beside (h : w.thm = true) (i : Nat) (f : ThmDie → ThmDie) (s : State) :
    (s.modThmDie i f).beside w = s.beside w :=
  modThm_beside h _ s

@[simp] theorem modOp_beside (h : w.pkg = true) (i : Nat) (f : OpState → OpState) (s : State) :
    (s.modOp i f).beside w = s.beside w :=
  modPkg_beside h _ s

@[simp] theorem modD2d_beside (h : w.pkg = true) (i : Nat) (f : D2dLink → D2dLink) (s : State) :
    (s.modD2d i f).beside w = s.beside w :=
  modPkg_beside h _ s

@[simp] theorem modSlot_beside (h : w.sec = true) (i : Nat) (f : Slot → Slot) (s : State) :
    (s.modSlot i f).beside w = s.beside w :=
  modSec_beside h _ s

@[simp] theorem modRlc_beside (h : w.vis = true) (i : Nat) (f : VisDie → VisDie) (s : State) :
    (s.modRlc i f).beside w = s.beside w :=
  modVis_beside h _ s

@[simp] theorem modSensor_beside (h : w.thm = true) (i : Nat) (f : Sensor → Sensor) (s : State) :
    (s.modSensor i f).beside w = s.beside w :=
  modThm_beside h _ s

@[simp] theorem modUnit_beside (h : w.tst = true) (i : Nat) (f : TestUnit → TestUnit) (s : State) :
    (s.modUnit i f).beside w = s.beside w :=
  modTst_beside h _ s

@[simp] theorem modMsix_beside (h : w.hp = true) (i : Nat) (f : MsixEntry → MsixEntry) (s : State) :
    (s.modMsix i f).beside w = s.beside w :=
  modHp_beside h _ s

end

end Sys2Proof.Machine

/-!
PROOFS. Chapter 2: ticks taken and sent (O17), replies on their way up the tree (O18).
-/

namespace Sys2Proof.Machine

/-! ### Ticks -/

theorem tickArrives_next (t : Tick) (s : State) : (tickArrives t s).frm.next = some t := rfl

theorem execTick_of_quarantined {n : StrandId} {s : State} (h : (s.discAt n).st = .quarantined) (p : List Byte) :
    exec (.tick n p) s = .next { s with top := { s.top with discards := wrapInc 32 s.top.discards } } :=
  congrArg Host.Outcome.next (if_pos h)

theorem execTick_of_new {n : StrandId} {p : List Byte} {s : State} (hq : (s.discAt n).st ≠ .quarantined)
    (hg : givesTicks s n (tickOf p) = true) (hn : tickIsNew s (tickOf p) = true) :
    exec (.tick n p) s = .next (tickArrives (tickOf p)
      ((sendTicks (tickOf p) (tickChildren s (tickTree (tickOf p))) s).modFrm fun f =>
        { f with nextLate := (s.linkAt n).late })) := by
  simp only [exec, execTick, hq, hg, hn, if_false, Bool.and_self, if_true]

/-- R74: HELD and STRETCH of the whorl's next tick. -/
theorem nextTick_bounds (s : State) :
    (nextTick s).held ≤ s.frm.period - s.frm.stretch ∧ (nextTick s).stretch ≤ (nextTick s).period :=
  ⟨Nat.min_le_right _ _, Nat.min_le_right _ _⟩

/-- Settles O17: each command is the tick that it sends and takes; `nextTick`'s HELD and STRETCH are minima. -/
theorem ticksAreTakenAndSent : Obligations.TicksAreTakenAndSent := by
  refine ⟨?_, ?_, ?_, ?_, ?_⟩
  · intro n p s hq hg hn
    exact ⟨_, execTick_of_new hq hg hn, rfl, rfl⟩
  · intro n p s hq
    exact execTick_of_quarantined hq p
  · intro s hf hr hn
    refine ⟨emitTick (nextTick s) s, ?_, rfl, rfl, rfl, nextTick_bounds s⟩
    simp [exec, execTickEmit, hf, hr, hn]
  · intro s hf hr hn hc
    refine ⟨_, ?_, tickZero s, rfl, rfl, rfl, rfl, rfl, rfl, rfl⟩
    simp [exec, execTickZero, hf, hr, hn, hc]
  · intro s hf hr hn
    refine ⟨takeWhorl s, ?_, takeoverTick s, rfl, rfl, rfl, rfl, rfl⟩
    simp [exec, execWhorlTakeover, hf, hr, hn]

/-! ### Replies -/

@[simp] theorem sendReply_frm (r : Reply) (s : State) : (sendReply r s).frm = s.frm := by
  unfold sendReply
  split
  · exact State.modLink_frm _ _ _
  · rfl

theorem forward_of_not_due {s : State} (h : s.frm.forwarded = true ∨ s.frm.replied = false ∨ s.frm.role = .whorl) :
    forward s = s := by
  rcases h with h | h | h <;> simp [forward, h]

theorem forward_of_due {s : State} (hf : s.frm.forwarded = false) (hr : s.frm.replied = true)
    (hw : s.frm.role ≠ .whorl) :
    forward s = sendReply (combined s) (s.modFrm fun f => { f with forwarded := true }) := by
  simp [forward, hf, hr, hw]

/-- Forwarding a reply sets FORWARDED at most. -/
theorem forward_frm (s : State) : (forward s).frm = s.frm ∨ (forward s).frm = { s.frm with forwarded := true } := by
  unfold forward
  split
  · exact .inl rfl
  · exact .inr (sendReply_frm _ _)

/-- R60: cancelling a start ends the whorl's announcement at most. -/
theorem cancelStart_frm (s : State) :
    (cancelStart s).frm = s.frm ∨ (cancelStart s).frm = { s.frm with wStart := none } := by
  unfold cancelStart
  split
  · exact .inr (postEvent_frm _ _ _ _ _ _)
  · exact .inl rfl

/-- What the reply of a hold point leaves in the frame record. -/
def repliedAs (r : Reply) (f : Frm) : Prop :=
  f.replied = true ∧ f.own = r ∧ f.reqHold = r.hold ∧ f.reqNext = r.nextReq ∧ f.cause = r.cause ∧ f.planned = 0 ∧
    f.plannedCause = 0 ∧ f.pauseWanted = false

theorem forward_repliedAs {r : Reply} {s : State} (h : repliedAs r s.frm) : repliedAs r (forward s).frm := by
  rcases forward_frm s with he | he <;> rw [he] <;> exact h

theorem cancelStart_repliedAs {r : Reply} {s : State} (h : repliedAs r s.frm) : repliedAs r (cancelStart s).frm := by
  rcases cancelStart_frm s with he | he <;> rw [he] <;> exact h

theorem repliedAs_ite {r : Reply} {c : Prop} [Decidable c] {s t : State} (hs : repliedAs r s.frm)
    (ht : repliedAs r t.frm) : repliedAs r (if c then s else t).frm := by
  split <;> assumption

theorem holdPoint_repliedAs (w n : Nat) (s : State) : ∃ r, r.count = 1 ∧ repliedAs r (holdPoint w n s).frm := by
  unfold holdPoint
  extract_lets finish s1 hold s2 r s3 s4 s5
  have h4 : repliedAs r s4.frm := ⟨rfl, rfl, rfl, rfl, rfl, rfl, rfl, rfl⟩
  have h5 : repliedAs r s5.frm := repliedAs_ite (cancelStart_repliedAs h4) h4
  exact ⟨r, rfl, repliedAs_ite (forward_repliedAs h5) h5⟩

/-- What a supplementary reply leaves in the frame record of a device that gives its own. -/
theorem passSupplement_frm (r : Reply) (s : State) :
    (passSupplement true r s).frm = lastReply (supplement s r) { s.frm with supp := some (supplement s r) } := by
  simp [passSupplement, apply_ite State.frm]

theorem ite_forward_kids (c : Prop) [Decidable c] (s : State) :
    (if c then forward s else s).frm.kids = s.frm.kids := by
  split
  · rcases forward_frm s with he | he <;> rw [he]
  · rfl

theorem childReply_kid {n : Nat} {r : Reply} (hr : r.supplement = false) (s : State) :
    tget (childReply n r s).frm.kids n = some r := by
  simp only [childReply, hr, Bool.false_eq_true, if_false, ite_forward_kids]
  exact tget_tput_value (by simp)

/-- R73: a device's supplementary reply is the one noted and the last one sent, with its HOLD at least the need clipped
to the cap. -/
theorem supplementaryReply_frm (h : Nat) (s : State) : ∃ (x : Reply) (f : Frm), min h (holdCap s) ≤ x.hold ∧ x.supplement = true ∧
    f.supplemented = true ∧ (supplementaryReply h s).frm = lastReply x { f with supp := some x } := by
  unfold supplementaryReply
  extract_lets hold above s1 r s2
  exact ⟨supplement s2 r, s2.frm, Nat.le_max_right _ _, rfl, rfl, passSupplement_frm r s2⟩

/-- Settles O18: after the reply is set down only FORWARDED and the whorl's announcement may still change. -/
theorem repliesGoUpTheTree : Obligations.RepliesGoUpTheTree := by
  refine ⟨?_, ?_, ?_, ?_, ?_, ?_⟩
  · intro f n s hf hr hp hn
    obtain ⟨r, hc, hrep, hown, hh, hx, hcs, hpl, hpc, hpw⟩ := holdPoint_repliedAs f n s
    refine ⟨holdPoint f n s, ?_, hrep, by rw [hown, hc], by rw [hown, hh], by rw [hown, hx], by rw [hown, hcs], hpl, hpc, hpw⟩
    simp [exec, execHoldPoint, hf, hr, hp, hn]
  · intro h s hr ho hs hlt hn
    refine ⟨supplementaryReply h s, by simp [exec, execSupplementaryReply, hr, ho, hs, hlt, hn], ?_⟩
    obtain ⟨x, f, hmin, hx, hf, he⟩ := supplementaryReply_frm h s
    rw [he]
    exact ⟨hf, x, rfl, hmin, hx, rfl, rfl, rfl⟩
  · intro n p s hq hc hfr hsup
    refine ⟨childReply n (replyOf p) s, ?_, childReply_kid hsup s⟩
    simp only [exec, execTickReply, hq, hc, hfr, if_false, if_true, Bool.true_and, beq_self_eq_true]
  · intro n p s hq
    exact congrArg Host.Outcome.next (if_pos hq)
  · intro s hf hr hw
    exact congrArg Host.Outcome.next (forward_of_due hf hr hw)
  · intro s h
    exact congrArg Host.Outcome.next (forward_of_not_due h)

end Sys2Proof.Machine

/-!
PROOFS. Steps of a frame program: when they start (O20), what they do (O21, O22), and how they complete and release their
pairs (O23).
-/

namespace Sys2Proof.Machine

/-! ### Starting a step -/

theorem spillGate_of_unspilled {s : State} (h : s.hp.spill = []) (c : Client) (f : State → State) :
    spillGate c f s = f s := by
  simp [spillGate, h]

theorem startStep_of_not_startable {i k o : Nat} {s : State} (h : startable s i k o = none)
    (run : Image → StepEntry → List Byte → State → State) : startStep i k o run s = s := by
  simp only [startStep, h]

/-- A step that can start, with the ranges of its pairs in their regions, no host pair waiting and no address spilled,
does its work. -/
theorem startStep_of_startable {i k o : Nat} {s : State} {img : Image} {r : Nat} {e : StepEntry}
    (h : startable s i k o = some (img, r, e))
    (hbad : ∀ p ∈ consumed img r i, rangeHere r p.2 = true → rangeBad s p.2 = none)
    (hwait : ∀ p ∈ consumed img r i, hostWaits (hostParts (consumed img r i) s) p = false)
    (hsp : (hostParts (consumed img r i) s).hp.spill = []) (run : Image → StepEntry → List Byte → State → State) :
    startStep i k o run s = startWork img r i e (consumed img r i) run (hostParts (consumed img r i) s) := by
  have hnone : (((consumed img r i).filter fun p => rangeHere r p.2).findSome? fun p => rangeBad s p.2) = none := by
    simp only [List.findSome?_eq_none_iff, List.mem_filter]
    exact fun p hp => hbad p hp.1 hp.2
  have hany : (consumed img r i).any (hostWaits (hostParts (consumed img r i) s)) = false := by
    simpa using hwait
  simp only [startStep, h, hnone, hany, Bool.false_eq_true, if_false, spillGate_of_unspilled hsp]

/-- A step that can start is of the kind and opcode asked for, and has not run. -/
theorem startable_facts {s : State} {i k o r : Nat} {img : Image} {e : StepEntry}
    (h : startable s i k o = some (img, r, e)) : e.kind = k ∧ e.opcode = o ∧ s.frm.ran.contains i = false := by
  unfold startable at h
  split at h
  · split at h
    · rename_i hc
      obtain ⟨rfl, rfl, rfl⟩ : _ ∧ _ ∧ _ := by simpa using h
      simp only [Bool.and_eq_true, beq_iff_eq, stepReady, Bool.not_eq_true'] at hc
      tauto
    · cases h
  · cases h

/-- Settles O20: the ten commands are `startStep` with their work; XFER also asks for its message numbers. -/
theorem stepsWaitUntilTheyMayStart : Obligations.StepsWaitUntilTheyMayStart := by
  intro i s
  refine ⟨?_, ?_, ?_, ?_, ?_, ?_, ?_, ?_, ?_, ?_, ?_, ?_⟩
  · exact fun _ _ h => congrArg Host.Outcome.next (startStep_of_not_startable h _)
  · exact fun h => congrArg Host.Outcome.next (startStep_of_not_startable h _)
  · exact fun _ _ h => congrArg Host.Outcome.next (startStep_of_not_startable h _)
  · exact fun _ _ h => congrArg Host.Outcome.next (startStep_of_not_startable h _)
  · intro h
    simp only [exec, execXfer, h]
  · exact fun h => congrArg Host.Outcome.next (startStep_of_not_startable h _)
  · exact fun h => congrArg Host.Outcome.next (startStep_of_not_startable h _)
  · exact fun h => congrArg Host.Outcome.next (startStep_of_not_startable h _)
  · exact fun h => congrArg Host.Outcome.next (startStep_of_not_startable h _)
  · exact fun h => congrArg Host.Outcome.next (startStep_of_not_startable h _)
  · exact fun k o e img r h => startable_facts h
  · intro img r e ps t hbad hwait hsp
    have run {k o : Nat} (h : startable s i k o = some (img, r, e)) :=
      fun w => congrArg (Host.Outcome.next (φ := Fault) (ρ := Refusal)) (startStep_of_startable h hbad hwait hsp w)
    refine ⟨fun _ _ h => run h _, fun h => run h _, fun _ _ h => run h _, fun _ _ h => run h _, ?_, fun h => run h _,
      fun h => run h _, fun h => run h _, fun h => run h _, fun h => run h _⟩
    intro h hroom
    simp only [exec, execXfer, h, hroom, if_true]
    exact run h _

/-! ### The work of a step -/

/-- A step that consumes no pair takes its unit and does its work. -/
theorem startStep_of_no_pairs {i k o : Nat} {s : State} {img : Image} {r : Nat} {e : StepEntry}
    (h : startable s i k o = some (img, r, e)) (hp : consumed img r i = []) (hsp : s.hp.spill = [])
    (run : Image → StepEntry → List Byte → State → State) :
    startStep i k o run s = run img e (argsOf img e) (takeUnit i e s) := by
  rw [startStep_of_startable h (by simp [hp]) (by simp [hp]) (by simpa [hp, hostParts] using hsp)]
  simp [hp, hostParts, startWork, acquireParts, logHostParts, State.modFrm]

theorem checkedStep_of_ok {i : Nat} {os : List Operand} {s : State} (h : stepCheck s os = none) (work : State → State) :
    checkedStep i os work s = work s := by
  simp only [checkedStep, h]

theorem checkedStep_of_bad {i : Nat} {os : List Operand} {s : State} {x : Status × Nat} (h : stepCheck s os = some x)
    (work : State → State) : checkedStep i os work s = stepError i x.1 x.2 s := by
  simp only [checkedStep, h]

/-- Settles O21: each command is its step's work on the state in which the unit is taken. -/
theorem matrixAndFlyerStepsRun : Obligations.MatrixAndFlyerStepsRun := by
  refine ⟨?_, ?_, ?_⟩
  · intro i reached errs s img r e pk h hp hsp hpk
    have run := congrArg (Host.Outcome.next (φ := Fault) (ρ := Refusal)) (startStep_of_no_pairs h hp hsp
      fun _ e args => matmulStep i reached.val errs e args)
    refine ⟨fun h0 => run.trans ?_, fun hm hn hok => run.trans ?_⟩
    · simp only [matmulStep, hpk, Bool.or_eq_true, decide_eq_true_eq, h0, if_true]
    · simp only [matmulStep, hpk, hm, hn, decide_false, Bool.or_self, Bool.false_eq_true, if_false, checkedStep_of_ok hok]
  · intro i s img r e h hp hsp
    exact congrArg Host.Outcome.next (startStep_of_no_pairs h hp hsp _)
  · intro i s img r e h hp hsp x n src dst u rd a w
    have run := congrArg (Host.Outcome.next (φ := Fault) (ρ := Refusal)) (startStep_of_no_pairs h hp hsp
      fun _ _ args => flyerCopy i args)
    refine ⟨fun h0 => run.trans (congrArg _ (if_pos h0)), fun h0 hok hrd hw => run.trans (congrArg _ ?_)⟩
    refine (if_neg h0).trans ((checkedStep_of_ok hok _).trans ?_)
    show (match rd.err with | some st => _ | none => _) = _
    rw [hrd]
    show (match w.err with | some st => _ | none => _) = _
    rw [hw]

/-- R130: ATTEND whose descriptor, positions and page tables are read and right, and whose operands pass their check,
reads its heads and leaves its rows' outputs. -/
theorem attendStep_of_reads {i : Nat} {e : StepEntry} {args ds ps : List Byte} {a : AttendArgs} {u u1 u2 u3 : State}
    {tabs : List (List Nat)} (ha : attendArgs args = a) (h0 : a.queries ≠ 0) (h1 : a.seqOff % 64 = 0)
    (hds : attnRead i e false a.seqRegion a.seqOff 64 u = (some ds, u1)) (hok : descOk a (seqDesc ds) = true)
    (hps : attnRead i e false a.posRegion a.posOff (4 * a.queries) u1 = (some ps, u2)) {sd : SeqDesc} (hsd : seqDesc ds = sd)
    {ws : List Nat} (hws : ((List.range a.queries).map fun j => fieldOf ps (4 * j) 4) = ws) {lim n : Nat}
    (hlim : presentEnd a sd (ws.foldl max 0) = lim) (hn : ceilDiv (lim - sd.first) 256 = n)
    (hpos : positionsOk a sd ws = true)
    (htab : readTables i e a sd n (if n = 0 then [] else List.range sd.kvHeads) [] u2 = (some tabs, u3))
    (hpg : pagesOk sd lim tabs = true) (hck : stepCheck u3 (attendOperands a sd tabs) = none) :
    attendStep i e args u = attnFinish e i (attendRows e a sd ws (readHeads e sd lim tabs ([], none, u3)).1 0 a.queries
      ({}, (readHeads e sd lim tabs ([], none, u3)).2.1, (readHeads e sd lim tabs ([], none, u3)).2.2)) := by
  subst hsd
  simp only [attendStep, attendPositions, attendPages, attendCompute, ha, h0, h1, hds, hok, hps, hws, hlim, hn, hpos, htab,
    hpg, hck, if_true, if_false, ne_eq, not_true]

/-- R132, R133: MERGE whose operands pass their check, whose records are read and whose segments rise leaves what they
fold to. -/
theorem mergeStep_of_reads {i : Nat} {e : StepEntry} {args : List Byte} {a : MergeArgs} {u : State} {rd : Access}
    (ha : mergeArgs args = a) (h0 : mergeRuns a ≠ 0) (hck : stepCheck u (mergeOperands a) = none)
    (hread : engineRead (attnCore e) (regionAddr u a.part a.partOff) (mergeRuns a * a.segs * recLen a.d) u = rd)
    (hrd : rd.err = none) (hseg : (List.range (mergeRuns a)).all (fun k => segsRise (runRecs a rd.bytes k)) = true) :
    mergeStep i e args u = attnFinish e i (mergeOut rd.s a rd.bytes, none, rd.s) := by
  simp only [mergeStep, ha, h0, hck, hread, hrd, hseg, if_false, Bool.not_true, Bool.and_false, Bool.false_eq_true]

/-- Settles O22: each command is its step's work on the state in which the unit is taken; the reads and checks given
decide the branches. -/
theorem vectorAndLinkStepsRun : Obligations.VectorAndLinkStepsRun := by
  refine ⟨?_, ?_, ?_, ?_, ?_⟩
  · intro i s img r e h hp hsp k u
    have run := congrArg (Host.Outcome.next (φ := Fault) (ρ := Refusal)) (startStep_of_no_pairs h hp hsp
      fun _ _ args => kernelStep i args)
    refine ⟨fun h0 => run.trans (congrArg _ ?_), fun x h0 hx => run.trans (congrArg _ ?_)⟩
    · by_cases ht : k.threads = 0
      · exact if_pos ht
      · exact (if_neg ht).trans (checkedStep_of_ok (h0.resolve_left ht) _)
    · exact (if_neg h0).trans (checkedStep_of_bad hx _)
  · intro i par cells s img r e h hp hsp a u
    have run := congrArg (Host.Outcome.next (φ := Fault) (ρ := Refusal)) (startStep_of_no_pairs h hp hsp
      fun _ e args s => attendStep i e args (attnErrors i e par cells s))
    refine ⟨fun h0 => run.trans (congrArg _ (if_pos h0)), fun h0 h1 => run.trans (congrArg _ ?_), ?_⟩
    · exact (if_neg h0).trans (if_pos h1)
    · intro ds u1 ps u2 tabs u3 h0 h1 hds hok hps sd ws lim n hpos htab hpg hck kv
      exact run.trans (congrArg _ (attendStep_of_reads rfl h0 h1 hds hok hps rfl rfl rfl rfl hpos htab hpg hck))
  · intro i par cells s img r e h hp hsp a u
    have run := congrArg (Host.Outcome.next (φ := Fault) (ρ := Refusal)) (startStep_of_no_pairs h hp hsp
      fun _ e args s => mergeStep i e args (attnErrors i e par cells s))
    refine ⟨fun h0 => run.trans (congrArg _ (if_pos h0)), ?_⟩
    intro h0 hck rd hrd hseg
    exact run.trans (congrArg _ (mergeStep_of_reads rfl h0 hck rfl hrd hseg))
  · intro i s img r e h hp hsp hroom
    have run := congrArg (Host.Outcome.next (φ := Fault) (ρ := Refusal)) (startStep_of_no_pairs h hp hsp (xferStep i))
    have hx : exec (.xfer i) s = .next (xferStep i img e (argsOf img e) (takeUnit i e s)) := by
      simp only [exec, execXfer, h, hroom, if_true]
      exact run
    exact ⟨fun h0 h4 => hx.trans (congrArg _ ((if_pos h0).trans (if_neg h4))), hx⟩
  · intro i s img r e hp hsp
    exact ⟨fun h => congrArg Host.Outcome.next (startStep_of_no_pairs h hp hsp _),
      fun h => congrArg Host.Outcome.next (startStep_of_no_pairs h hp hsp _),
      fun h => congrArg Host.Outcome.next (startStep_of_no_pairs h hp hsp _)⟩

/-! ### Completion and release -/

/-- Where no step has run, no pair of a producer step is released. -/
theorem execSyncRelease_of_none_ran {k : Nat} {s : State} (hran : s.frm.ran = [])
    (h3 : ∀ img e, runningImage s = some img → img.syncs[k]? = some e → e.prodKind ≠ 3) :
    execSyncRelease k s = .next s := by
  unfold execSyncRelease
  cases hi : runningImage s with
  | none => rfl
  | some img =>
    cases hm : myRank s with
    | none => rfl
    | some r =>
      cases hk : img.syncs[k]? with
      | none => simp only [hk]
      | some e =>
        simp only [hk, h3 img e hi hk, if_false, hran, List.contains_nil, Bool.false_eq_true]
        split
        · rfl
        · split <;> rfl

/-- Settles O23: each command's guards are the hypotheses given, and its work runs where no address is spilled. -/
theorem stepsCompleteAndPairsRelease : Obligations.StepsCompleteAndPairsRelease := by
  refine ⟨?_, ?_, ?_, ?_, ?_, ?_⟩
  · intro i s e he hr hd ho hsp
    simp only [exec, execStepComplete, he, hr, hd, ho, Bool.not_false, Bool.and_self, if_true, spillGate_of_unspilled hsp,
      completeStep]
  · intro i s hr
    simp only [exec, execStepComplete, hr, Bool.false_and, Bool.false_eq_true, if_false]
    split <;> rfl
  · intro k s img r e d hi hm hk hd hr h3 hran hrel hsp
    simp only [exec, execSyncRelease, hi, hm, hk, hd, hr, h3, hran, hrel, bne_self_eq_false, Bool.or_self,
      Bool.false_eq_true, if_false, if_true, spillGate_of_unspilled hsp]
  · intro k s img r e hi hm hk h3 hr hc hrel
    simp only [exec, execSyncRelease, hi, hm, hk, h3, hr, Ne.symm hc, hrel, bne_self_eq_false, Bool.or_self,
      Bool.false_eq_true, if_false, if_true]
  · intro k s hran h3
    exact execSyncRelease_of_none_ran hran h3
  · intro i s img e hi he hn hl hb hsp
    simp [exec, execNmx2Barrier, hi, he, hn, hl, hb, spillGate_of_unspilled hsp]

end Sys2Proof.Machine

/-!
PROOFS. Plies: arithmetic, reductions and the block sum (O24), and the memory accesses of a ply (O25).
-/

namespace Sys2Proof.Machine

/-! ### A ply in its slot -/

theorem plyIssue_of_idle {r : PlyRef} {top : Nat} {s : State} (h : plyStep s r top = none)
    (run : StepEntry → KernelArgs → State → State) : plyIssue r top run s = s := by
  simp only [plyIssue, h]

theorem plyIssue_of_issue {r : PlyRef} {top : Nat} {s : State} {e : StepEntry} {k : KernelArgs}
    (h : plyStep s r top = some (e, k)) (hsp : s.hp.spill = []) (run : StepEntry → KernelArgs → State → State) :
    plyIssue r top run s = run e k (placePly e.die r s) := by
  simp only [plyIssue, h, spillGate_of_unspilled hsp]

theorem placePly_shape (die : Nat) (r : PlyRef) (s : State) :
    placePly die r s = { s with vec := (placePly die r s).vec } := by
  unfold placePly
  extract_lets key
  split <;> rfl

theorem placePly_pkg (die : Nat) (r : PlyRef) (s : State) : (placePly die r s).pkg = s.pkg := by
  rw [placePly_shape]

theorem placePly_other_die {die d : Nat} (h : d ≠ die) (r : PlyRef) (s : State) :
    vget (placePly die r s).vec d = vget s.vec d := by
  unfold placePly
  extract_lets key
  split
  · rfl
  · exact vget_vmod_other _ _ _ _ h

theorem placePly_regsWf {s : State} (h : s.canonical) (die : Nat) (r : PlyRef) : RegsWf (placePly die r s).vec :=
  (placePly_kept die r s ⟨rfl, h⟩).2.2

theorem plyErrors_of_none (e : StepEntry) (r : PlyRef) (s : State) : plyErrors e r { regParity := false } s = s := rfl

theorem plyErrors_of_parity (e : StepEntry) (r : PlyRef) (s : State) : plyErrors e r { regParity := true } s =
    clientError (.step r.step) .eDataError (registerParity e.die r.core s) := rfl

theorem activeLanes_lt {k : KernelArgs} {r : PlyRef} {m : BitVec 32} {l : Nat} (h : l ∈ activeLanes k r m) : l < 32 :=
  List.mem_range.mp (List.mem_filter.mp h).1

theorem activeLanes_nodup (k : KernelArgs) (r : PlyRef) (m : BitVec 32) : (activeLanes k r m).Nodup :=
  List.nodup_range.filter _

/-! ### One register of several lanes -/

/-- R109: the value `f l` goes to a register of each lane `l` of a list. -/
def writeLanes (die : Nat) (x : PlyRef) (dst : Nat) (f : Nat → Nat) (ls : List Nat) (s : State) : State :=
  ls.foldl (fun t l => writeReg die x.core x.slot l dst (f l) t) s

/-- From `s` to `t`, the register `dst` of each lane of `ls` of a ply takes `f` of the lane, and nothing else changes. -/
def RegsWritten (die : Nat) (x : PlyRef) (dst : Fin 256) (f : Nat → Nat) (ls : List Nat) (s t : State) : Prop :=
  (∀ l : Fin 32, l.val ∈ ls → readReg t die x l dst = f l % 2 ^ 32) ∧
  (∀ (y : PlyRef) (l : Fin 32) (r : Fin 256), ¬(y.core = x.core ∧ y.slot = x.slot ∧ l.val ∈ ls ∧ r = dst) →
    readReg t die y l r = readReg s die y l r) ∧
  (∀ d, d ≠ die → vget t.vec d = vget s.vec d) ∧ t = { s with vec := t.vec }

/-- A register of another ply's place, lane or number keeps its value. -/
theorem readReg_writeReg_of_ne (die : Nat) (x y : PlyRef) (l m : Fin 32) (dst r : Fin 256) (v : Nat) {s : State}
    (h : ¬(y.core = x.core ∧ y.slot = x.slot ∧ m = l ∧ r = dst)) :
    readReg (writeReg die x.core x.slot l dst v s) die y m r = readReg s die y m r :=
  readReg_writeReg_other _ _ _ _ _ _ _ _ fun hk => h (regKey_inj hk)

theorem writeReg_regsWf {s : State} (h : RegsWf s.vec) (die core slot lane reg v : Nat) :
    RegsWf (writeReg die core slot lane reg v s).vec :=
  regsWf_mod _ h fun _ => tput_wf

theorem writeLanes_written {die : Nat} (hd : die < 4) (x : PlyRef) (dst : Fin 256) (f : Nat → Nat) {ls : List Nat}
    (hlt : ∀ l ∈ ls, l < 32) (hnd : ls.Nodup) {s : State} (hw : RegsWf s.vec) :
    RegsWritten die x dst f ls s (writeLanes die x dst f ls s) := by
  induction ls generalizing s with
  | nil => exact ⟨by simp, fun _ _ _ _ => rfl, fun _ _ => rfl, rfl⟩
  | cons l ls ih =>
    obtain ⟨hl, hnd⟩ := List.nodup_cons.mp hnd
    have hl32 : l < 32 := hlt l (List.mem_cons_self ..)
    obtain ⟨hin, hout, hdie, hshape⟩ := ih (fun m hm => hlt m (List.mem_cons_of_mem _ hm)) hnd
      (writeReg_regsWf hw die x.core x.slot l dst (f l))
    refine ⟨?_, ?_, ?_, hshape⟩
    · intro m hm
      rcases List.mem_cons.mp hm with he | hm
      · refine (hout x m dst fun h => hl (he ▸ h.2.2.1)).trans ?_
        rw [he]
        exact readReg_writeReg_same hd x _ _ _ (hw die)
      · exact hin m hm
    · intro y m r hne
      refine (hout y m r fun h => hne ⟨h.1, h.2.1, List.mem_cons_of_mem _ h.2.2.1, h.2.2.2⟩).trans ?_
      refine readReg_writeReg_of_ne die x y ⟨l, hl32⟩ m dst r (f l) fun h => hne ⟨h.1, h.2.1, ?_, h.2.2.2⟩
      rw [h.2.2.1]
      exact List.mem_cons_self ..
    · exact fun d h => (hdie d h).trans (writeReg_other_die h ..)

theorem writeLanes_congr {die : Nat} {x : PlyRef} {dst : Nat} {f g : Nat → Nat} {ls : List Nat}
    (h : ∀ l ∈ ls, f l = g l) (s : State) : writeLanes die x dst f ls s = writeLanes die x dst g ls s :=
  List.foldl_ext _ _ _ fun t l hl => by rw [h l hl]

/-! ### Arithmetic -/

/-- R112: the result of an arithmetic instruction in one lane. -/
def arithResult (die : Nat) (k : KernelArgs) (a : PlyArith) (numgen : Nat) (s : State) (l : Nat) : Nat :=
  laneResult a.fmt a.op numgen (laneValue s die k a.ref l a.a) (laneValue s die k a.ref l a.b)
    (laneValue s die k a.ref l a.c)

/-- An operand of another lane keeps its value. -/
theorem laneValue_writeReg_other {l m : Nat} (hl : l < 32) (hm : m < 32) (h : m ≠ l) (die : Nat) (k : KernelArgs)
    (x : PlyRef) (dst : Fin 256) (v : Nat) (src : LaneSrc) (s : State) :
    laneValue (writeReg die x.core x.slot l dst v s) die k x m src = laneValue s die k x m src := by
  cases src with
  | reg r =>
    exact readReg_writeReg_of_ne die x x ⟨l, hl⟩ ⟨m, hm⟩ dst r v fun hk => h (congrArg Fin.val hk.2.2.1)
  | param w => rfl
  | thread => rfl

/-- Without a parity error each lane takes the result of its own operands, as they were before the instruction. -/
theorem arithLanes_eq_writeLanes {a : PlyArith} (hp : a.regParity = false) (die : Nat) (k : KernelArgs) (numgen free : Nat)
    {ls : List Nat} (hlt : ∀ l ∈ ls, l < 32) (hnd : ls.Nodup) (s : State) :
    arithLanes die k a numgen free ls s = writeLanes die a.ref a.dst (arithResult die k a numgen s) ls s := by
  induction ls generalizing s with
  | nil => rfl
  | cons l ls ih =>
    obtain ⟨hl, hnd⟩ := List.nodup_cons.mp hnd
    have hl32 : l < 32 := hlt l (List.mem_cons_self ..)
    have hlt' : ∀ m ∈ ls, m < 32 := fun m hm => hlt m (List.mem_cons_of_mem _ hm)
    simp only [arithLanes, hp, Bool.false_eq_true, if_false]
    refine (ih hlt' hnd _).trans (writeLanes_congr (fun m hm => ?_) _)
    have hne : m ≠ l := fun h => hl (h ▸ hm)
    simp only [arithResult, laneValue_writeReg_other hl32 (hlt' m hm) hne]

/-- With a parity error each lane takes a free value. -/
theorem arithLanes_of_parity {a : PlyArith} (hp : a.regParity = true) (die : Nat) (k : KernelArgs) (numgen free : Nat)
    (ls : List Nat) (s : State) : arithLanes die k a numgen free ls s = ls.foldl (fun t l =>
      writeReg die a.ref.core a.ref.slot l a.dst (Config.freeNat (free + l)) t) s := by
  induction ls generalizing s with
  | nil => rfl
  | cons l ls ih => simp only [arithLanes, hp, if_true, List.foldl_cons, ih]

/-- What is written in a ply's slot, seen from before the ply was placed there. -/
theorem RegsWritten.of_placed {die : Nat} {x : PlyRef} {dst : Fin 256} {f : Nat → Nat} {ls : List Nat} {s t : State}
    (h : RegsWritten die x dst f ls (placePly die x s) t) :
    (∀ d, d ≠ die → vget t.vec d = vget s.vec d) ∧ t = { s with vec := t.vec } := by
  obtain ⟨-, -, hdie, hshape⟩ := h
  refine ⟨fun d hd => (hdie d hd).trans (placePly_other_die hd x s), ?_⟩
  rw [hshape, placePly_shape]

/-- A reduction or block sum without a parity error writes its value in every lane that takes part. -/
theorem plyIssue_reduceLanes {a : PlyReduce} {s : State} {e : StepEntry} {k : KernelArgs}
    (h : plyStep s a.ref (reduceTop a) = some (e, k)) (hd : e.die < 4) (hsp : s.hp.spill = [])
    (hp : a.regParity = false) (hc : s.canonical) (f : List Nat → Nat) :
    RegsWritten e.die a.ref a.dst (fun _ => f ((List.range 32).map fun l => readReg (placePly e.die a.ref s) e.die a.ref l a.src))
      (activeLanes k a.ref a.mask) (placePly e.die a.ref s) (plyIssue a.ref (reduceTop a) (reduceLanes a f) s) := by
  rw [plyIssue_of_issue h hsp]
  simp only [reduceLanes, hp, plyErrors_of_none, Bool.false_eq_true, if_false]
  exact writeLanes_written hd a.ref a.dst _ (fun _ => activeLanes_lt) (activeLanes_nodup ..) (placePly_regsWf hc e.die a.ref)

theorem plyIssue_reduceLanes_of_parity {a : PlyReduce} {s : State} {e : StepEntry} {k : KernelArgs}
    (h : plyStep s a.ref (reduceTop a) = some (e, k)) (hsp : s.hp.spill = []) (hp : a.regParity = true)
    (f : List Nat → Nat) :
    let u := clientError (.step a.ref.step) .eDataError (registerParity e.die a.ref.core (placePly e.die a.ref s))
    plyIssue a.ref (reduceTop a) (reduceLanes a f) s =
      broadcast e.die a (Config.freeNat u.free) (activeLanes k a.ref a.mask) u.drawFree := by
  rw [plyIssue_of_issue h hsp]
  simp only [reduceLanes, hp, plyErrors_of_parity, if_true]

/-- Settles O24: lane by lane an instruction writes its own lane's register, so each lane computes on the operands as
they were before the instruction. -/
theorem plyArithmeticWritesItsLanes : Obligations.PlyArithmeticWritesItsLanes := by
  refine ⟨?_, ?_, ?_, ?_, ?_⟩
  · intro a s e k h hd hsp ha hb hc hp hcan u ls
    have hrun : exec (.vectorArith a) s =
        .next (writeLanes e.die a.ref a.dst (arithResult e.die k a (bitsOf u.pkg.pkgCap.toNat 23 20) u) ls u) := by
      refine congrArg Host.Outcome.next ((plyIssue_of_issue h hsp _).trans ?_)
      simp only [vectorArith, ha, hb, hc, hp, Bool.and_self, Bool.not_true, Bool.false_eq_true, if_false, plyErrors_of_none]
      exact arithLanes_eq_writeLanes hp _ _ _ _ (fun _ => activeLanes_lt) (activeLanes_nodup ..) _
    have hpkg : u.pkg = s.pkg := placePly_pkg e.die a.ref s
    have hw := writeLanes_written hd a.ref a.dst (arithResult e.die k a (bitsOf u.pkg.pkgCap.toNat 23 20) u)
      (fun _ => activeLanes_lt) (activeLanes_nodup k a.ref a.mask) (placePly_regsWf hcan e.die a.ref)
    obtain ⟨hdie, hshape⟩ := hw.of_placed
    obtain ⟨hin, hout, -, -⟩ := hw
    rw [hpkg] at hrun hin hout hdie hshape
    exact ⟨placePly_shape .., fun d h => placePly_other_die h .., _, hrun, hin, hout, hdie, hshape⟩
  · intro a s e k h hd hsp hp hcan u ls src
    have hred := plyIssue_reduceLanes h hd hsp hp hcan
    exact ⟨⟨_, rfl, (hred _).1, (hred _).2.1, (hred _).of_placed⟩, ⟨_, rfl, (hred _).1, (hred _).2.1, (hred _).of_placed⟩⟩
  · intro a s e k h hsp hp u t
    exact ⟨congrArg Host.Outcome.next (plyIssue_reduceLanes_of_parity h hsp hp _),
      congrArg Host.Outcome.next (plyIssue_reduceLanes_of_parity h hsp hp _)⟩
  · intro a s e k h hsp ha hb hc hp u
    refine congrArg Host.Outcome.next ((plyIssue_of_issue h hsp _).trans ?_)
    simp only [vectorArith, ha, hb, hc, hp, Bool.and_self, Bool.not_true, Bool.false_eq_true, if_false, if_true,
      plyErrors_of_parity]
    exact arithLanes_of_parity hp ..
  · intro a b s
    exact ⟨fun h => congrArg Host.Outcome.next (plyIssue_of_idle h _), fun h =>
      ⟨congrArg Host.Outcome.next (plyIssue_of_idle h _), congrArg Host.Outcome.next (plyIssue_of_idle h _)⟩⟩

/-! ### Memory accesses of a ply -/

/-- A gather or a scatter whose lanes lie in local store alone ends there; half bursts of other lanes enter the queue. -/
theorem gather_eq (a : PlyAccess) (e : StepEntry) (k : KernelArgs) (s : State) :
    let r := gatherLanes e k a accRead (activeLanes k a.ref a.mask) ([], plyErrors e a.ref a.err s)
    let gh := r.1.filter fun x => isHank x.addr
    let gl := gatherLocal e a (r.1.filter fun x => !isHank x.addr) r.2
    gather a e k s = if gh.isEmpty then gl else gatherIssue e.die
      { core := a.ref.core, ply := a.ref.slot, lanes := gh, reg := a.reg, client := .step a.ref.step } (halvesOf gh) gl := rfl

theorem scatter_eq (a : PlyAccess) (e : StepEntry) (k : KernelArgs) (s : State) :
    let w := gatherLanes e k a accWrite (activeLanes k a.ref a.mask) ([], plyErrors e a.ref a.err s)
    let data := scatterData w.2 e.die a w.1
    let sh := data.filter fun x => isHank x.addr
    let sl := scatterLocal e a (data.filter fun x => !isHank x.addr) w.2
    scatter a e k s = if sh.isEmpty then sl else gatherIssue e.die
      { core := a.ref.core, ply := a.ref.slot, lanes := sh, scatter := true, client := .step a.ref.step } (halvesOf sh) sl :=
  rfl

/-- Settles O25: each command is its access in the ply's place, and the region's check decides its branch. -/
theorem plyMemoryInstructionsAccessTheirRegion : Obligations.PlyMemoryInstructionsAccessTheirRegion := by
  refine ⟨?_, ?_, ?_⟩
  · intro a s
    have idle {top : Nat} (h : plyStep s a.ref top = none) := fun run =>
      congrArg (Host.Outcome.next (φ := Fault) (ρ := Refusal)) (plyIssue_of_idle h run)
    exact ⟨fun h => ⟨idle h _, idle h _, idle h _, idle h _⟩, fun h => ⟨idle h _, idle h _⟩⟩
  · intro a s e k h hsp u v ls n off
    have issue := fun run => congrArg (Host.Outcome.next (φ := Fault) (ρ := Refusal)) (plyIssue_of_issue h hsp run)
    refine ⟨fun hn => ⟨?_, ?_, ?_, ?_⟩, fun hw l ms (hls : activeLanes k a.ref a.mask = l :: ms) => ?_⟩
    · intro x hx
      refine (issue (vectorLoad a)).trans (congrArg _ ((if_neg hn).trans ?_))
      rw [hx]
    · intro x hx
      refine (issue (vectorStore a)).trans (congrArg _ ((if_neg hn).trans ?_))
      rw [hx]
    · intro addr hx r d
      refine (issue (vectorLoad a)).trans (congrArg _ ((if_neg hn).trans ?_))
      rw [hx]
    · intro addr hx
      refine (issue (vectorStore a)).trans (congrArg _ ((if_neg hn).trans ?_))
      rw [hx]
    · have hsome : ¬(a.width = 0 || (activeLanes k a.ref a.mask).isEmpty) = true := by simp [hw, hls]
      refine ⟨?_, ?_, ?_, ?_⟩
      · intro x hx
        refine (issue (scalarLoad a)).trans (congrArg _ ((if_neg hsome).trans ?_))
        rw [hx]
      · intro x hx
        refine (issue (scalarStore a)).trans (congrArg _ ?_)
        simp only [scalarStore, hls, hw, if_false]
        rw [hx]
      · intro addr hx r d
        refine (issue (scalarLoad a)).trans (congrArg _ ((if_neg hsome).trans ?_))
        rw [hx]
      · intro addr hx
        refine (issue (scalarStore a)).trans (congrArg _ ?_)
        simp only [scalarStore, hls, hw, if_false]
        rw [hx]
  · intro a s e k h hsp v r w data gl sl gh sh wait
    have issue := fun run => congrArg (Host.Outcome.next (φ := Fault) (ρ := Refusal)) (plyIssue_of_issue h hsp run)
    refine ⟨fun h0 => ?_, fun h0 => ?_, fun h0 => ?_, fun h0 => ?_⟩
    · exact (issue (gather a)).trans (congrArg _ ((gather_eq ..).trans (if_pos (List.isEmpty_iff.mpr h0))))
    · exact (issue (gather a)).trans (congrArg _ ((gather_eq ..).trans (if_neg (mt List.isEmpty_iff.mp h0))))
    · exact (issue (scatter a)).trans (congrArg _ ((scatter_eq ..).trans (if_pos (List.isEmpty_iff.mpr h0))))
    · exact (issue (scatter a)).trans (congrArg _ ((scatter_eq ..).trans (if_neg (mt List.isEmpty_iff.mp h0))))

end Sys2Proof.Machine

/-!
PROOFS. Releases and acquires (O28), gathers (O29), re-sends (O30), the loop-back test and the probe (O31).
-/

namespace Sys2Proof.Machine

/-! ### Releases and acquires -/

/-- Cells that fail their check are a matter of the caches and the local stores alone. -/
theorem applyCells_hp (c : CellFaults) (s : State) : (applyCells c s).hp = s.hp := by
  simp only [applyCells]
  rw [foldl_keeps State.hp, foldl_keeps State.hp] <;> exact fun _ _ => rfl

theorem execVisRlcCtrlWrite_of_taken {d : CDie} {v : Word} {s : State} (hup : barUp s = true) (hf : hasFeature s 6 = true)
    (hr : s.pkg.devState = .ready) (hp : s.frm.prog = .noImage) (hv : v.toNat % 4 = 0 ∨ v.toNat % 4 = 2) :
    exec (.visRlcCtrlWrite d v) s = .next (if (s.rlcAt d).flyerWays = v.toNat % 4 then s
      else (flushDie d false s).modRlc d fun x => { x with flyerWays := v.toNat % 4 }) := by
  have hbits : (v.toNat % 4 == 0 || v.toNat % 4 == 2) = true := by simpa using hv
  simp only [exec, execVisRlcCtrlWrite, hup, if_true, rlcCtrlWrite, hf, hr, hp, beq_self_eq_true, hbits, Bool.and_self]

theorem execVisRlcCtrlWrite_of_refused {d : CDie} {v : Word} {s : State} (hup : barUp s = true)
    (h : hasFeature s 6 = false ∨ s.pkg.devState ≠ .ready ∨ s.frm.prog ≠ .noImage ∨ v.toNat % 2 = 1) :
    exec (.visRlcCtrlWrite d v) s = .next (s.modRlc d fun x => { x with ctrlRefused := true }) := by
  have hno : ¬(hasFeature s 6 && s.pkg.devState == .ready && s.frm.prog == .noImage &&
      (v.toNat % 4 == 0 || v.toNat % 4 == 2)) = true := by
    simp only [Bool.and_eq_true, Bool.or_eq_true, beq_iff_eq]
    rintro ⟨⟨⟨hf, hr⟩, hp⟩, hv⟩
    rcases h with h | h | h | h
    · rw [hf] at h
      cases h
    · exact h hr
    · exact h hp
    · omega
  exact congrArg Host.Outcome.next ((if_pos hup).trans (if_neg hno))

/-- Settles O28: a release and an acquire are the model's `releaseOf` and `acquireOf` for the engine alone. -/
theorem releasesAndAcquiresMakeWritesVisible : Obligations.ReleasesAndAcquiresMakeWritesVisible := by
  refine ⟨?_, ?_, ?_, ?_⟩
  · intro e base len sc c s u
    have hsp : s.hp.spill = [] → u.hp.spill = [] := fun h => by rw [applyCells_hp, h]
    refine ⟨hsp, fun h hopen => ?_, fun hd hopen => ?_, fun h => ?_⟩
    · have hno : ¬(decide (sc = .domain) && remoteOpen u [e] base len) = true := by
        simp only [Bool.and_eq_true, decide_eq_true_eq, not_and]
        intro hd
        rw [hopen hd]
        exact Bool.false_ne_true
      exact congrArg Host.Outcome.next ((if_neg hno).trans (spillGate_of_unspilled (hsp h) _ _))
    · refine congrArg Host.Outcome.next (if_pos ?_)
      simp only [hd, decide_true, Bool.true_and]
      exact hopen
    · exact congrArg Host.Outcome.next (spillGate_of_unspilled (hsp h) _ _)
  · intro base len u
    exact ⟨fun _ => ⟨rfl, rfl⟩, fun _ => ⟨rfl, rfl⟩, fun _ _ => ⟨rfl, rfl⟩, rfl, rfl, rfl, rfl⟩
  · exact fun d v s hup hf hr hp hv => execVisRlcCtrlWrite_of_taken hup hf hr hp hv
  · exact fun d v s hup h => execVisRlcCtrlWrite_of_refused hup h

/-! ### Gathers -/

/-- Settles O29: each command's `match` is decided by the entry or the ply given. -/
theorem gatherEntriesReturnTheirData : Obligations.GatherEntriesReturnTheirData := by
  refine ⟨?_, ?_, ?_, ?_⟩
  · intro d i n s h
    simp only [exec, execGatherEntryFree, h]
  · intro d i n s g h
    simp only [exec, execGatherEntryFree, h]
  · intro d c p n s h
    have hnone : (vget s.vec d).waiting.find? (fun w => w.core == c.val && w.ply == p.val) = none := by
      simpa [plyWaits, List.any_eq_false, List.find?_eq_none] using h
    simp only [exec, execGatherDataReturn, hnone]
  · intro d c p n s w x q mine t hw hneed hx u v
    simp only [exec, execGatherDataReturn, hw, hneed, List.isEmpty_nil, Bool.not_true, Bool.false_eq_true, if_false]
    rw [show (vget (gatherRest d c p q s).vec d).waiting.find? _ = some x from hx]
    simp only [List.isEmpty_iff]
    rfl

/-! ### Re-sends -/

/-- A window table that is not in canonical form: the window of row 12 on channel 0 is listed twice. -/
def doubledWindow : State :=
  { win := [(winKey 12 0 0, 0), (winKey 12 0 0, 16)] }

/-- Refutes O30: in a window table that lists one window twice, no re-send at all uncovers a count of 16, and a retrain
is queued. -/
theorem not_stackCheckAndRepairEvents : ¬ Obligations.StackCheckAndRepairEvents := by
  intro h
  obtain ⟨-, -, -, hresent, -⟩ := h
  have heq := congrArg (fun t : State => t.hnk.queue.length) (hresent 0 0 doubledWindow (by decide))
  exact absurd heq (by decide)

/-! ### Loop-back and probe -/

/-- Settles O31: each write's branches are decided by the bits and the device state given. -/
theorem loopbackAndProbeRegisters : Obligations.LoopbackAndProbeRegisters := by
  refine ⟨?_, ?_, ?_, ?_⟩
  · intro h v s hup u
    have run : exec (.loopbackGo h v) s = .next (loopbackWrite h v.toNat s) := congrArg Host.Outcome.next (if_pos hup)
    refine ⟨fun h31 => run.trans (congrArg _ ?_), fun h31 hno => run.trans (congrArg _ ?_),
      fun h31 hr hp hm => run.trans (congrArg _ ?_), fun h31 hr hp hm => run.trans (congrArg _ ?_)⟩
    · simp only [loopbackWrite, h31, Bool.not_false, if_true]
      rfl
    · have hno' : (s.pkg.devState != .ready || s.frm.prog != .noImage) = true := by
        simpa using hno
      simp [loopbackWrite, h31, hno']
      rfl
    · simp [loopbackWrite, h31, hr, hp, hm]
      rfl
    · simp [loopbackWrite, h31, hr, hp, Nat.not_le.mpr hm]
      rfl
  · intro h p s
    exact ⟨fun hb => congrArg Host.Outcome.next (if_pos hb), fun hb => by simp [exec, execLoopbackDone, hb]⟩
  · exact fun v s hup => congrArg Host.Outcome.next (if_pos hup)
  · exact fun h v s hup => ⟨by simp [exec, execLoopbackGo, hup], by simp [exec, execHnkProbe, hup]⟩

end Sys2Proof.Machine

/-!
PROOFS. The committing steps of the device commands of mailboxes (O36).
-/

namespace Sys2Proof.Machine

/-! ### A command in turn -/

theorem casbomi_of_inTurn {s : State} {code m : Nat} {r : MbxReq} (h : InTurn s code m r) (f : MbxReq → State → State) :
    casbomi code m f s = f r (countStep m s) := by
  obtain ⟨hstep, hcancel, hadm⟩ := h
  exact casbomi_inTurn f hstep hcancel hadm

/-- A command in turn runs on the state after its step is counted; `h` says what it does there. -/
theorem next_of_inTurn {s : State} {code m : Nat} {r : MbxReq} (hin : InTurn s code m r) {f : MbxReq → State → State}
    {t : State} (h : f r (countStep m s) = t) :
    (Host.Outcome.next (casbomi code m f s) : Host.Outcome State Fault Refusal) = .next t :=
  congrArg Host.Outcome.next ((casbomi_of_inTurn hin f).trans h)

/-! ### mbx.assign -/

theorem mbxAssign_of_kind {m : Nat} {r : MbxReq} {k : MbxKind} (h : mbxKindOf (fieldOf r.params 1 1) = some k) (s : State) :
    mbxAssign m r s =
      let t := fieldOf r.params 0 1
      if 63 < t then failMbx m .eCommand 0x10 s
      else if t = 0 || t = 63 || t = m then failMbx m .ePermission 0 s
      else if mbxBusy (s.mbxAt t) then failMbx m .eState 0 s
      else completeMbx m .sOk 0 [] (s.modMbx t fun b => { b with
        kind := k, tenant := fieldOf r.params 2 2 % 4096, vector := some (fieldOf r.params 4 2 % 2048), phase := .idle }) := by
  simp only [mbxAssign, h]

/-! ### cap.set -/

theorem capSet_of_range {m : Nat} {r : MbxReq} (h1 : 300 ≤ fieldOf r.params 0 2) (h2 : fieldOf r.params 0 2 ≤ 1600)
    (s : State) : capSet m r s = judgeCap (fieldOf r.params 0 2) (completeMbx m
      (if fieldOf r.params 0 2 < s.pwr.floorW then .sCapUnreachable else .sOk) 0
      (leBytes 2 (fieldOf r.params 0 2) ++ leBytes 2 s.pwr.floorW)
      (s.modPwr fun x => if noProgram s then { x with capW := fieldOf r.params 0 2, capNext := none }
        else { x with capNext := some (fieldOf r.params 0 2) })) := by
  have hfloor : (s.modPwr fun x => if noProgram s then { x with capW := fieldOf r.params 0 2, capNext := none }
        else { x with capNext := some (fieldOf r.params 0 2) }).pwr.floorW = s.pwr.floorW := by
    simp only [State.modPwr_pwr]
    split <;> rfl
  simp only [capSet, Nat.not_lt.mpr h1, Nat.not_lt.mpr h2, decide_false, Bool.or_self, Bool.false_eq_true, if_false, hfloor]

/-- Settles O36: each command's branch is decided by its parameters and the device state, after its step is counted. -/
theorem deviceCommandsOfMailboxes : Obligations.DeviceCommandsOfMailboxes := by
  refine ⟨?_, ?_, ?_, ?_, ?_, ?_, ?_, ?_⟩
  · intro m r s u
    exact ⟨fun h => next_of_inTurn h rfl, fun h => next_of_inTurn h rfl, fun h => next_of_inTurn h rfl,
      fun h => next_of_inTurn h rfl, fun h => next_of_inTurn h rfl, fun h => next_of_inTurn h rfl⟩
  · intro m r s h hk
    exact next_of_inTurn h (by simp only [mbxAssign, hk])
  · intro m r k s h hk u x
    refine ⟨fun h63 => ?_, fun h63 hown => ?_, fun h63 h0 hx hm hb => ?_, fun h63 h0 hx hm hb => ?_⟩ <;>
      refine next_of_inTurn h ((mbxAssign_of_kind hk _).trans ?_)
    · exact if_pos h63
    · exact (if_neg (Nat.not_lt.mpr h63)).trans (if_pos (by simpa [or_assoc] using hown))
    · exact (if_neg (Nat.not_lt.mpr h63)).trans ((if_neg (by simpa using ⟨⟨h0, hx⟩, hm⟩)).trans (if_pos hb))
    · exact (if_neg (Nat.not_lt.mpr h63)).trans ((if_neg (by simpa using ⟨⟨h0, hx⟩, hm⟩)).trans (if_neg (by simpa using hb)))
  · intro m r s h u
    exact ⟨fun hf => next_of_inTurn h (if_neg hf), fun hf => next_of_inTurn h (if_pos hf)⟩
  · intro m r s h u
    have hp : u.pkg = s.pkg := countStep_pkg m s
    refine ⟨fun hs => next_of_inTurn h ?_, fun hs hw => next_of_inTurn h ?_, fun hs hw => next_of_inTurn h ?_⟩
    · simp only [resetCompute, countStep_pkg, hs, decide_false, Bool.false_and, Bool.false_eq_true, if_false]
      rfl
    · simp [resetCompute, hs, hw]
      rfl
    · simp [resetCompute, hs, hw]
      rfl
  · intro m r s h
    exact next_of_inTurn h rfl
  · intro m r s h u cap
    refine ⟨fun hc => next_of_inTurn h (if_pos (by simpa using hc)), fun h1 h2 => next_of_inTurn h ?_⟩
    refine (capSet_of_range h1 h2 _).trans ?_
    rw [countStep_pwr]
  · intro m r s h u n
    refine ⟨fun hn => next_of_inTurn h (if_pos (by simpa using hn)), fun h0 h16 hnil => ?_, fun h0 h16 hne => ?_⟩
    · refine next_of_inTurn h ((if_neg (by simpa using ⟨h0, h16⟩)).trans (if_pos ?_))
      exact List.length_eq_zero_iff.mpr hnil
    · refine next_of_inTurn h ((if_neg (by simpa using ⟨h0, h16⟩)).trans (if_neg ?_))
      exact mt List.length_eq_zero_iff.mp hne

end Sys2Proof.Machine

/-!
PROOFS. The committing steps of the placement, window, spill, region and queue commands of mailboxes (O37).
-/

namespace Sys2Proof.Machine

/-! ### Placement -/

theorem memPlace_of_fields {m : Nat} {r : MbxReq} (h2 : fieldOf r.params 2 1 < 2)
    (h128 : fieldOf r.params 0 1 + fieldOf r.params 1 1 ≤ 128) (s : State) :
    memPlace m r s =
      let g := (placeGroups r).filter fun k => placeBit s k != (fieldOf r.params 2 1 == 1)
      if s.frm.prog != .noImage then failMbx m .eState 0 s
      else if g.any (groupBusy s) then failMbx m .ePlaceBusy 0 s
      else completeMbx m .sOk 0 [] (placeAll (fieldOf r.params 2 1 == 1) g s) :=
  (if_neg (Nat.not_le.mpr h2)).trans (if_neg (Nat.not_lt.mpr h128))

/-- The image that counts for a command in turn is the one loaded before its step is counted. -/
theorem countStep_noImage {m : Nat} {s : State} (h : s.frm.prog = .noImage) :
    ¬((countStep m s).frm.prog != .noImage) = true := by simp [h]

theorem countStep_image {m : Nat} {s : State} (h : s.frm.prog ≠ .noImage) :
    ((countStep m s).frm.prog != .noImage) = true := by simpa using h

/-! ### Queues -/

/-- R188: `queue.destroy` of a queue in use that no other names: it is disabled, and gone once nothing is in flight. -/
theorem queueDestroy_of_good {m : Nat} {r : MbxReq} {s : State} (ho : otherQueue s m (fieldOf r.params 0 4) = false)
    (hu : (s.queueAt (fieldOf r.params 0 4)).cls ≠ .unused) (hl : linkedTo s (fieldOf r.params 0 4) = false) :
    queueDestroy m r s =
      let v := s.modQueue (fieldOf r.params 0 4) fun d => { d with enabled := false }
      if (v.queueAt (fieldOf r.params 0 4)).inflight = 0
        then completeMbx m .sOk 0 [] (v.modQueue (fieldOf r.params 0 4) fun _ => {})
        else v.modMbx m fun b => { b with started := true } :=
  (if_neg (by rw [ho]; exact Bool.false_ne_true)).trans (if_neg (by simpa using ⟨hu, hl⟩))

/-- Settles O37: each command's branch is decided by its parameters, its checks and the device state, after its step is
counted. -/
theorem memoryHostAndQueueCommandsOfMailboxes : Obligations.MemoryHostAndQueueCommandsOfMailboxes := by
  refine ⟨?_, ?_, ?_, ?_, ?_, ?_, ?_, ?_, ?_, ?_⟩
  · intro m r s h u g
    refine ⟨fun h2 => next_of_inTurn h (if_pos h2), fun h2 h128 => ?_, fun h2 h128 => ⟨fun hp => ?_, fun hp hb => ?_,
      fun hp hb => ?_⟩⟩
    · exact next_of_inTurn h ((if_neg (Nat.not_le.mpr h2)).trans (if_pos h128))
    all_goals refine next_of_inTurn h ((memPlace_of_fields h2 h128 _).trans ?_)
    · exact if_pos (countStep_image hp)
    · exact (if_neg (countStep_noImage hp)).trans (if_pos hb)
    · exact (if_neg (countStep_noImage hp)).trans (if_neg (by rw [hb]; exact Bool.false_ne_true))
  · intro m r s h u wb n bad
    refine ⟨fun hno => next_of_inTurn h (if_pos (by simpa using hno)), fun hp hd => ⟨fun hb => ?_, fun hb => ?_⟩⟩ <;>
      refine next_of_inTurn h ((if_neg (by simp [hp, hd])).trans ?_)
    · exact if_pos (by simpa [bad, or_assoc, wb, n] using hb)
    · exact if_neg (by simpa [bad, or_assoc, wb, n] using hb)
  · intro m r s h u z
    refine ⟨fun hp => next_of_inTurn h (if_pos (countStep_image hp)), fun hp hb => ?_, fun hp hb => ?_⟩ <;>
      refine next_of_inTurn h ((if_neg (countStep_noImage hp)).trans ?_)
    · exact if_pos (by simpa [z] using hb)
    · exact if_neg (by simpa [z] using hb)
  · intro m r s h u z hpa bad
    refine ⟨fun hp => next_of_inTurn h (if_pos (countStep_image hp)), fun hp hb => ?_, fun hp hb => ?_⟩ <;>
      refine next_of_inTurn h ((if_neg (countStep_noImage hp)).trans ?_)
    · exact if_pos (by simpa [bad, or_assoc, z, hpa] using hb)
    · exact if_neg (by simpa [bad, or_assoc, z, hpa] using hb)
  · intro m r s h
    dsimp only
    refine ⟨fun ht => next_of_inTurn h (if_pos ht), fun ht => ⟨fun st d hc => ?_, fun hc hf => ?_, fun i hc hf => ?_⟩⟩ <;>
      refine next_of_inTurn h ((if_neg (Nat.not_le.mpr ht)).trans ?_)
    · simp only [hc]
    · simp only [hc, hf]
    · simp only [hc, hf]
  · intro m us r s
    dsimp only
    refine ⟨fun h st d hc => next_of_inTurn h ?_, fun h hr hc => next_of_inTurn h ?_, fun h hr => next_of_inTurn h ?_,
      fun h st d hr => next_of_inTurn h ?_, fun h => ?_, fun h1 h2 => ?_, fun h1 h2 => ?_⟩
    · rcases hc with hr | ⟨hr, hc⟩
      · simp only [regionRebind, hr]
      · simp only [regionRebind, hr, hc]
    · simp only [regionRebind, hr, hc]
    · simp only [regionFree, hr]
    · simp only [regionFree, hr]
    · simp only [exec, execRegionRebindDone, h]
    · simp only [exec, execRegionRebindDone, h1, h2]
    · simp only [exec, execRegionRebindDone, h1, h2]
  · intro m r s h u p t lo hi bad
    refine ⟨fun hb => next_of_inTurn h (if_pos ?_), fun hb => next_of_inTurn h (if_neg ?_)⟩
    · simpa [bad, or_assoc, p, lo, hi, t] using hb
    · simpa [bad, or_assoc, p, lo, hi, t] using hb
  · intro m r s hc u st
    exact ⟨fun h => next_of_inTurn h (by simp only [queueCreate, hc]; rfl),
      fun h => next_of_inTurn h (by simp only [queueRebind, hc]; rfl)⟩
  · intro m r c s hc
    dsimp only
    refine ⟨fun h => ⟨fun st n hk => next_of_inTurn h ?_, fun hk => next_of_inTurn h ?_⟩,
      fun h => ⟨fun st n hk => next_of_inTurn h ?_, fun hk => next_of_inTurn h ?_⟩⟩
    · simp only [queueCreate, hc, hk]
    · simp only [queueCreate, hc, hk]
    · simp only [queueRebind, hc, hk]
    · simp only [queueRebind, hc, hk]
  · intro m r s u q
    refine ⟨fun h => ⟨fun ho => next_of_inTurn h (if_pos ho), fun ho hb => ?_, fun ho hu hl => ?_⟩, fun h => ?_, fun h => ?_⟩
    · refine next_of_inTurn h ((if_neg (by rw [ho]; exact Bool.false_ne_true)).trans (if_pos ?_))
      simpa using hb
    · exact next_of_inTurn h (queueDestroy_of_good ho hu hl)
    · simp only [exec, execQueueDestroyDone, h]
      rfl
    · simp only [exec, execQueueDestroyDone, h]

end Sys2Proof.Machine

/-!
PROOFS. The committing steps of the frame and plan commands of mailboxes (O38).
-/

namespace Sys2Proof.Machine

/-! ### frame.load -/

/-- R57: `frame.load` outside a program whose region may be read and whose bytes come is the check of those bytes. -/
theorem frameLoad_of_read {m : Nat} {r : MbxReq} {s : State} (hp : programHeld s = false)
    (hc : checkOperands s (anyTenant s (fieldOf r.params 0 4))
      [{ num := 1, handle := fieldOf r.params 0 4, off := fieldOf r.params 8 8, len := fieldOf r.params 4 4 }] = none)
    (hr : (flyerRead (regionAddr s (fieldOf r.params 0 4) (fieldOf r.params 8 8)) (fieldOf r.params 4 4) s).err = none) :
    frameLoad m r s =
      let rd := flyerRead (regionAddr s (fieldOf r.params 0 4) (fieldOf r.params 8 8)) (fieldOf r.params 4 4) s
      checkImage m (fieldOf r.params 16 2) (fieldOf r.params 4 4) rd.bytes rd.s := by
  simp only [frameLoad, hp, hc, hr, Bool.false_eq_true, if_false]

/-! ### frame.start -/

theorem startRefused_iff {tag n0 : Nat} {resume : Bool} {s : State} :
    startRefused tag n0 resume s = true ↔ n0 < s.frm.number + 4 ∨ s.frm.wStart ≠ none ∨ s.frm.wRunning ≠ none ∨
      (resume = true ∧ s.frm.suspended.map (·.2) ≠ some tag) := by
  simp [startRefused, Option.isSome_iff_ne_none, or_assoc]

theorem frameStart_of_whorl {m : Nat} {r : MbxReq} {s : State} (h : s.frm.role = .whorl) :
    frameStart m r s =
      if startRefused (fieldOf r.params 0 8) (fieldOf r.params 8 6) ((fieldOf r.params 16 1).testBit 0) s
      then failMbx m .eState 0 s
      else completeMbx m .sOk 0 [] (s.modFrm fun f =>
        { f with wStart := some { n0 := fieldOf r.params 8 6, tag := fieldOf r.params 0 8,
                                  resume := (fieldOf r.params 16 1).testBit 0 },
                 wResume := (fieldOf r.params 16 1).testBit 0 }) :=
  if_neg (not_not_intro h)

/-! ### frame.preempt -/

theorem framePreempt_of_mode {m : Nat} {r : MbxReq} (h : fieldOf r.params 0 1 = 1 ∨ fieldOf r.params 0 1 = 2) (s : State) :
    framePreempt m r s =
      if s.frm.role ≠ .whorl then failMbx m .eRole 0 s
      else if s.frm.wRunning.isNone then failMbx m .eState 0 s
      else completeMbx m .sOk 0 (leBytes 8 (lastTick s + 1)) (s.modFrm fun f => { f with wStop := some (fieldOf r.params 0 1) }) :=
  if_neg (by rcases h with h | h <;> simp [h])

/-! ### plan.accept -/

theorem planAccept_of_tag {m : Nat} {r : MbxReq} {p : Plan} {s : State} (hl : s.top.loaded = some p)
    (ht : fieldOf r.params 0 8 = p.tag) : planAccept m r s =
      if !isRevision s p && programActive s then failMbx m .eState 0 s
      else if discovering s then s.modTop fun t => { t with accepting := some m }
      else finishAccept m p s := by
  simp only [planAccept, hl, ht, ne_eq, not_true, if_false]

/-- Settles O38: each command's branch is decided by its parameters, its checks, the bytes read and the device state, after
its step is counted. -/
theorem frameAndPlanCommandsOfMailboxes : Obligations.FrameAndPlanCommandsOfMailboxes := by
  refine ⟨?_, ?_, ?_, ?_, ?_, ?_⟩
  · intro m r s h
    dsimp only
    refine ⟨fun hp => next_of_inTurn h (if_pos hp), fun hp st d hc => next_of_inTurn h ?_,
      fun hp hc st hr => next_of_inTurn h ?_, fun hp hc hr => ⟨fun st i f hf => next_of_inTurn h ?_,
        fun hf => next_of_inTurn h ?_⟩⟩
    · simp only [frameLoad, hp, hc, Bool.false_eq_true, if_false]
    · simp only [frameLoad, hp, hc, hr, Bool.false_eq_true, if_false]
    · exact (frameLoad_of_read hp hc hr).trans (by simp only [checkImage, hf, imageChecked])
    · exact (frameLoad_of_read hp hc hr).trans (by simp only [checkImage, hf, imageChecked])
  · intro m r s h u tag n0
    refine ⟨fun hr => next_of_inTurn h (if_pos (by simpa using hr)), fun hr hbad => ?_, fun hr h1 h2 h3 h4 => ?_⟩ <;>
      refine next_of_inTurn h ((frameStart_of_whorl (by simpa using hr)).trans ?_)
    · exact if_pos (startRefused_iff.mpr (by simpa using hbad))
    · refine if_neg fun hbad => ?_
      rcases startRefused_iff.mp hbad with hb | hb | hb | ⟨hres, hb⟩
      · exact Nat.not_le.mpr hb (by simpa using h1)
      · exact hb (by simpa using h2)
      · exact hb (by simpa using h3)
      · exact hb (by simpa using h4 hres)
  · intro m r s h u mode
    refine ⟨fun h1 h2 => next_of_inTurn h (if_pos (by simpa using ⟨h1, h2⟩)), fun hm hr => ?_, fun hm hr hw => ?_,
      fun hm hr hw => ?_⟩ <;> refine next_of_inTurn h ((framePreempt_of_mode hm _).trans ?_)
    · exact if_pos (by simpa using hr)
    · exact (if_neg (by simpa using hr)).trans (if_neg (by simpa using hw))
    · exact (if_neg (by simpa using hr)).trans (if_pos (by simpa using hw))
  · intro m r s h u
    exact ⟨fun hp => next_of_inTurn h (if_neg (by simpa using hp)), fun hp => next_of_inTurn h (if_pos (by simpa using hp))⟩
  · intro m r s h
    dsimp only
    refine ⟨fun st d hc => next_of_inTurn h ?_, fun st hc hf => next_of_inTurn h ?_, fun hc hr hf => next_of_inTurn h ?_⟩
    · simp only [planLoad, hc]
    · rcases hf with hr | ⟨hr, hf⟩
      · simp only [planLoad, hc, hr, Option.orElse_eq_orElse, Option.orElse_some]
      · simp only [planLoad, hc, hr, hf, Option.orElse_eq_orElse, Option.orElse_none]
    · simp only [planLoad, hc, hr, hf, Option.orElse_eq_orElse, Option.orElse_none]
  · intro m r s h u
    refine ⟨fun hl => next_of_inTurn h ?_, fun p hl => ?_⟩
    · simp only [planAccept, countStep_top, hl, u]
    have hl' : (countStep m s).top.loaded = some p := by simpa using hl
    refine ⟨fun ht => next_of_inTurn h ?_, fun ht hrev hact => ?_, fun ht hok => ?_⟩
    · simp only [planAccept, hl', ht, ne_eq, not_false_eq_true, if_true, u]
    · exact next_of_inTurn h ((planAccept_of_tag hl' ht).trans (if_pos (by simpa [u] using ⟨hrev, hact⟩)))
    · exact next_of_inTurn h ((planAccept_of_tag hl' ht).trans (if_neg (by rcases hok with hok | hok <;> simp_all [u])))

end Sys2Proof.Machine

/-!
PROOFS. The committing steps of the snapshot, buddy, log, firmware, tenant and debug commands of mailboxes (O39).
-/

namespace Sys2Proof.Machine

/-! ### Snapshots -/

theorem takeSnapshot_refused {m : Nat} {r : MbxReq} {s u : State} {st : Status}
    (h : beginSnapshot ((fieldOf r.params 0 2).testBit 0) false (fieldOf r.params 8 8) (some m) s = (some st, u)) :
    snapshotTake m r s = failMbx m st 0 u := by
  simp only [snapshotTake, h]

theorem takeSnapshot_begun {m : Nat} {r : MbxReq} {s u : State}
    (h : beginSnapshot ((fieldOf r.params 0 2).testBit 0) false (fieldOf r.params 8 8) (some m) s = (none, u)) :
    snapshotTake m r s = u.modMbx m fun b => { b with started := true } := by
  simp only [snapshotTake, h]

theorem beginSnapshot_of_writable {full auto : Bool} {label : Nat} {m : Option Nat} {s : State} (h : s.res.flashRo = false) :
    beginSnapshot full auto label m s = match makeRoom (extentBytes (snapExtents s full)) s.res.snaps with
      | none => (some .eFlashFull, snapFailed s)
      | some ss => (none, s.modRes fun r =>
          { r with snaps := ss, job := some { full := full, label := label, auto := auto, mbx := m, asked := noProgram s } }) :=
  if_neg (by rw [h]; exact Bool.false_ne_true)

/-- A mailbox command that waits while its place is taken runs as `casbomi` where it is free. -/
theorem next_of_free {α : Type} {o : Option α} (h : o = none) {s t u : State} (hu : u = t) :
    (Host.Outcome.next (if o.isSome then s else u) : Host.Outcome State Fault Refusal) = .next t := by
  simp only [h, Option.isSome_none, Bool.false_eq_true, if_false, hu]

theorem next_of_taken {α : Type} {o : Option α} (h : o ≠ none) {s u : State} :
    (Host.Outcome.next (if o.isSome then s else u) : Host.Outcome State Fault Refusal) = .next s :=
  congrArg Host.Outcome.next (if_pos (Option.isSome_iff_ne_none.mpr h))

@[simp] theorem countStep_fwMajor (m : Nat) (s : State) : (countStep m s).fly.fwMajor = s.fly.fwMajor := by
  unfold countStep takeTurn; dsimp only; split <;> rfl

theorem snapshotRestore_of_held {m : Nat} {ok : Bool} {g : Option Generation} {r : MbxReq} {s : State} {x : Snap}
    (hid : (fieldOf r.params 0 8).testBit 63 = false)
    (hx : (s.res.snaps.find? fun x => x.complete && x.id == fieldOf r.params 0 8) = some x) :
    snapshotRestore m ok g r s = restoreSnap m x ok s := by
  simp only [snapshotRestore, hid, hx, Bool.false_eq_true, if_false]

theorem restoreSnap_of_restorable {m : Nat} {x : Snap} {ok : Bool} {s : State} (hr : restorable s x.tag = true)
    (hf : x.fwMajor = s.fly.fwMajor) : restoreSnap m x ok s =
      if x.numgen ≠ bitsOf s.pkg.pkgCap.toNat 23 20 then failRestore m .eNumgenMismatch s
      else if !ok then failRestore m .eSnapshotCorrupt s
      else completeMbx m .sOk 0 (leBytes 8 x.size) (restoreState x (restoreData x (endRows .ePreempted s))) :=
  if_neg (by simp [hr, hf])

/-! ### The log -/

theorem logRead_of_region {m : Nat} {r : MbxReq} {s : State}
    (hl : (s.res.log.dropWhile fun x => x.frame != fieldOf r.params 0 8) ≠ []) (hh : fieldOf r.params 12 4 ≠ 0) :
    logRead m r s =
      let h := fieldOf r.params 12 4
      let off := fieldOf r.params 16 8
      let why := handleReason s h (anyTenant s h) accWrite
      let rs := logTake (fieldOf r.params 8 4) (((handleRegion s h).map (·.size)).getD 0 - off)
        (s.res.log.dropWhile fun x => x.frame != fieldOf r.params 0 8)
      if why ≠ 0 then failMbx m .eRegion (256 + why) s
      else if fieldOf r.params 8 4 ≠ 0 && rs.isEmpty then failMbx m .eBounds 1 s
      else
        let w := flyerWrite (regionAddr s h off) (rs.flatMap (·.bytes)) s
        match w.err with
        | some st => failMbx m st 0 w.s
        | none => completeMbx m .sOk 0 (logReply rs) w.s :=
  (if_neg (by simpa using hl)).trans (if_neg hh)

theorem logRead_to_cache {m : Nat} {r : MbxReq} {s : State}
    (hl : (s.res.log.dropWhile fun x => x.frame != fieldOf r.params 0 8) ≠ []) (hh : fieldOf r.params 12 4 = 0) :
    logRead m r s =
      let rs := (s.res.log.dropWhile fun x => x.frame != fieldOf r.params 0 8).take (fieldOf r.params 8 4)
      if !cacheOn s then failMbx m .eHostLink 0 s
      else completeMbx m .sOk 0 (logReply rs) (s.emit (.cacheReq 5 (fieldOf r.params 16 8) (rs.flatMap (·.bytes)))) :=
  (if_neg (by simpa using hl)).trans (if_pos hh)

/-! ### The debug unlock -/

theorem phase_of_inTurn {s : State} {code m : Nat} {r : MbxReq} (h : InTurn s code m r) : (s.mbxAt m).req = some r := by
  obtain ⟨hstep, -, -⟩ := h
  unfold mayStep at hstep
  split at hstep
  · cases hstep
  next hreq =>
    split at hstep
    · exact hreq.trans hstep
    · cases hstep

theorem issueChallenge_of_not_ready {m : Nat} {s : State} (h : s.pkg.devState ≠ .ready ∨ s.frm.prog ≠ .noImage) :
    issueChallenge m s = failMbx m .eState 0 s :=
  if_neg (by simpa [← not_or, imp_iff_not_or] using h)

theorem issueChallenge_of_ready {m : Nat} {s : State} (hd : s.pkg.devState = .ready) (hp : s.frm.prog = .noImage) :
    issueChallenge m s = completeMbx m .sOk 0 (challengeBytes s)
      (s.drawFree.modSec fun x => { x with challenge := some (challengeBytes s), challengeStale := false }) :=
  if_pos (by simp [hd, hp])

theorem takeResponse_of_bad {m : Nat} {r : MbxReq} {s : State} (h : responseGood s (sliceBytes r.params 8 512) = false) :
    takeResponse m r s = failMbx m .eDebugDenied 0
      ((s.modSec fun x => { x with challenge := none, challengeStale := false }).modSec fun x =>
        { x with debugDenied := true, failed := satInc 15 x.failed }) :=
  if_neg (by rw [h]; exact Bool.false_ne_true)

theorem unlockChallenge_of_phase {m : MbxId} {r : MbxReq} {s t : State} (h : InTurn s 0x0093 m r)
    (hp : fieldOf r.params 0 1 = 0) (ht : issueChallenge m (countStep m s) = t) :
    exec (.debugUnlockChallenge m) s = .next t :=
  (congrArg Host.Outcome.next (if_pos (by simp [phase_of_inTurn h, hp]))).trans (next_of_inTurn h ht)

theorem unlockResponse_of_phase {m : MbxId} {r : MbxReq} {s t : State} (h : InTurn s 0x0093 m r)
    (hp : fieldOf r.params 0 1 ≠ 0)
    (ht : (if fieldOf r.params 0 1 = 1 then takeResponse m r (countStep m s) else failMbx m .eCommand 0x10 (countStep m s)) = t) :
    exec (.debugUnlockResponse m) s = .next t :=
  (congrArg Host.Outcome.next (if_neg (by simp [phase_of_inTurn h, hp]))).trans
    (next_of_inTurn (f := fun r s => if fieldOf r.params 0 1 = 1 then takeResponse m r s else failMbx m .eCommand 0x10 s) h ht)

/-- Settles O39: each command's branch is decided by its parameters, its checks, the bytes read or written and the device
state, after its step is counted. -/
theorem resilienceAndSecurityCommandsOfMailboxes : Obligations.ResilienceAndSecurityCommandsOfMailboxes := by
  refine ⟨?_, fun m s hj => next_of_taken hj, ?_, ?_, ?_, ?_, fun m s hj => next_of_taken hj, ?_, ?_, ?_, ?_, ?_,
    fun s => rfl⟩
  · intro m r s h hj
    dsimp only
    refine ⟨fun hro => next_of_free hj ((casbomi_of_inTurn h _).trans (takeSnapshot_refused (if_pos (by simpa using hro)))),
      fun hro hroom => next_of_free hj ((casbomi_of_inTurn h _).trans (takeSnapshot_refused ?_)),
      fun xs hro hroom => next_of_free hj ((casbomi_of_inTurn h _).trans (takeSnapshot_begun ?_))⟩ <;>
    · refine (beginSnapshot_of_writable (by simpa using hro)).trans ?_
      rw [hroom]
  · intro ms j id s hj hc
    dsimp only
    refine ⟨fun hm => ?_, fun m hm => ?_⟩ <;> simp only [exec, execSnapshotCopyDone, hj, hc, hm]
  · intro ms s hnone
    cases hj : s.res.job with
    | none => simp only [exec, execSnapshotCopyDone, hj]
    | some j =>
      have hc : j.copying = none := by simpa [hj] using hnone
      simp only [exec, execSnapshotCopyDone, hj, hc]
  · intro m ok g r s h
    dsimp only
    refine ⟨fun hid => next_of_inTurn h (if_pos hid), fun hid hx => next_of_inTurn h ?_, fun x hid hx => ?_⟩
    · simp only [snapshotRestore, hid, countStep_res, hx, Bool.false_eq_true, if_false, failRestore]
    refine ⟨fun hbad => next_of_inTurn h ?_, fun hr hf => ⟨fun hn => ?_, fun hn hok => ?_, fun hn hok => ?_⟩⟩
    · refine (snapshotRestore_of_held hid (by simpa using hx)).trans (if_pos ?_)
      simpa using hbad
    all_goals
      refine next_of_inTurn h ((snapshotRestore_of_held hid (by simpa using hx)).trans
        ((restoreSnap_of_restorable hr (by simpa using hf)).trans ?_))
    · exact if_pos (by simpa using hn)
    · exact (if_neg (by simpa using hn)).trans (if_pos (by simp [hok]))
    · exact (if_neg (by simpa using hn)).trans (if_neg (by simp [hok]))
  · intro m r s h hw u b
    refine ⟨fun hb => ?_, fun hb hself => ?_, fun hb hself hbad => ?_, fun hb hself hroute => ?_⟩ <;>
      refine next_of_free hw ((casbomi_of_inTurn h _).trans ?_)
    · exact if_pos hb
    · exact (if_neg hb).trans (if_pos hself)
    · exact (if_neg hb).trans ((if_neg (by rw [hself]; exact Bool.false_ne_true)).trans (if_pos (by simpa using hbad)))
    · have hb' : b ≠ 0xFFFF := by omega
      refine (if_neg hb').trans ((if_neg (by rw [hself]; exact Bool.false_ne_true)).trans (if_neg ?_))
      simpa using ⟨hb, hroute⟩
  · intro m r s h u mtbf n
    refine ⟨fun hm => next_of_inTurn h (if_pos hm), fun hm hn => next_of_inTurn h ((if_neg hm).trans (if_pos hn)),
      fun hm hn hro => ?_, fun hm hn hro => ?_⟩ <;> refine next_of_inTurn h ((if_neg hm).trans ((if_neg hn).trans ?_))
    · exact if_pos (by simpa using hro)
    · exact if_neg (by simpa using hro)
  · intro m r s h u count hd off held
    have held' : ((countStep m s).res.log.dropWhile fun x => x.frame != fieldOf r.params 0 8) = held := by simp [held]
    refine ⟨fun hl => next_of_inTurn h (if_pos ?_), fun hl hh hc => ?_, fun hl hh hc => ?_, fun hl hh => ?_⟩
    · simpa [held] using hl
    · exact next_of_inTurn h ((logRead_to_cache (by rwa [held']) hh).trans (if_pos (by simpa using hc)))
    · refine next_of_inTurn h ((logRead_to_cache (by rwa [held']) hh).trans ((if_neg (by simpa using hc)).trans ?_))
      rw [held']
    intro why rs w
    have run := logRead_of_region (m := m) (r := r) (s := countStep m s) (by rwa [held']) hh
    rw [held'] at run
    refine ⟨fun hw => next_of_inTurn h (run.trans (if_pos hw)), fun hw hn hr => next_of_inTurn h
      (run.trans ((if_neg (not_not_intro hw)).trans (if_pos (by simpa [rs] using ⟨hn, hr⟩)))), fun hw hroom => ?_⟩
    have go := run.trans ((if_neg (not_not_intro hw)).trans (if_neg (by simpa [rs, imp_iff_not_or] using hroom)))
    refine ⟨fun st he => next_of_inTurn h (go.trans ?_), fun he => next_of_inTurn h (go.trans ?_)⟩
    · simp only [w, rs, off, hd, count, u] at he ⊢
      simp only [he]
    · simp only [w, rs, off, hd, count, u] at he ⊢
      simp only [he]
  · intro m r s h
    dsimp only
    refine ⟨fun hro => next_of_inTurn h (if_pos (by simpa using hro)), fun st d hro hc => ?_, fun st hro hc hr => ?_,
      fun hro hc hr => ?_⟩ <;> refine next_of_inTurn h ((if_neg (by simpa using hro)).trans ?_)
    · simp only [hc]
    · simp only [hc, hr]
    · simp only [hc, hr]
  · intro m r s h u x
    refine ⟨fun hl => next_of_inTurn h (if_pos hl), fun hl hro => ?_, fun hl hro => ?_⟩ <;>
      refine next_of_inTurn h ((if_neg (by rw [hl]; exact Bool.false_ne_true)).trans ?_)
    · exact if_pos (by simpa using hro)
    · exact if_neg (by simpa using hro)
  · intro m r s h u good v
    refine ⟨fun hp hd hi => unlockChallenge_of_phase h hp (issueChallenge_of_ready (by simpa using hd) (by simpa using hi)),
      fun hp hbad => unlockChallenge_of_phase h hp (issueChallenge_of_not_ready (by simpa using hbad)),
      fun hp hg => ?_, fun hp hg => ?_, fun h0 h1 => unlockResponse_of_phase h h0 (if_neg h1)⟩
    · exact unlockResponse_of_phase h (by omega) ((if_pos hp).trans (if_pos hg))
    · exact unlockResponse_of_phase h (by omega) ((if_pos hp).trans (takeResponse_of_bad hg))

end Sys2Proof.Machine

/-!
PROOFS. Discovery, table and SPDM messages, sessions and stream keys (O44).
-/

namespace Sys2Proof.Machine

/-! ### Requests of the connection -/

theorem spdmReady_of_refused {req : List Byte} {s : State} (h : doeTakes s req = false) (f : State → State) :
    spdmReady req f s = s :=
  if_pos (by simp [h])

theorem spdmReady_of_new {req : List Byte} {s : State} (h : doeTakes s req = true) (hn : s.hp.negotiated = false)
    (f : State → State) : spdmReady req f s = spdmError 0x04 s :=
  (if_neg (by simp [h])).trans (if_neg (by simp [hn]))

theorem spdmReady_of_negotiated {req : List Byte} {s : State} (h : doeTakes s req = true) (hn : s.hp.negotiated = true)
    (f : State → State) : spdmReady req f s = f s :=
  (if_neg (by simp [h])).trans (if_pos hn)

/-! ### Messages inside a session -/

theorem inSession_of_down {w : Word} {s : State} (h : doeUp s = false) (f : Session → State → State) : inSession w f s = s :=
  if_pos (by simp [h])

theorem inSession_of_unknown {w : Word} {s : State} (h : doeUp s = true) (hx : sessionOf s w.toNat = none)
    (f : Session → State → State) : inSession w f s = spdmError 0x02 s := by
  simp only [inSession, h, hx, Bool.not_true, Bool.false_eq_true, if_false]

theorem inSession_of_unestablished {w : Word} {s : State} {x : Session} (h : doeUp s = true)
    (hx : sessionOf s w.toNat = some x) (ho : x.open_ = false) (f : Session → State → State) :
    inSession w f s = spdmError 0x04 s := by
  simp only [inSession, h, hx, ho, Bool.not_true, Bool.false_eq_true, if_false]

theorem inSession_of_established {w : Word} {s : State} {x : Session} (h : doeUp s = true)
    (hx : sessionOf s w.toNat = some x) (ho : x.open_ = true) (f : Session → State → State) : inSession w f s = f x s := by
  simp only [inSession, h, hx, ho, Bool.not_true, Bool.false_eq_true, if_false, if_true]

/-- Settles O44: whether the DOE mailbox is up, the request short enough, the connection versioned and negotiated, and the
session known and established decide each answer. -/
theorem securityMessages : Obligations.SecurityMessages := by
  refine ⟨?_, ?_, ?_, ?_, ?_, ?_, ?_, ?_, fun c h => ⟨rfl, rfl, fun cm => rfl⟩⟩
  · intro i req w ok cm op s h
    have down : ∀ t : State, (if doeUp s then t else s) = s := fun t => if_neg (by simp [h])
    have quiet := fun f => congrArg (Host.Outcome.next (φ := Fault) (ρ := Refusal)) (inSession_of_down (w := w) h f)
    exact ⟨congrArg _ (down _), congrArg _ (down _), congrArg _ (if_pos (by simp [h])), quiet _, quiet _, quiet _, quiet _⟩
  · intro req s h
    have ready := fun f => congrArg (Host.Outcome.next (φ := Fault) (ρ := Refusal)) (spdmReady_of_refused h f)
    exact ⟨congrArg _ (if_neg (by simp [h])), congrArg _ (if_pos (by simp [h])), congrArg _ (if_pos (by simp [h])),
      ready _, ready _, ready _, ready _, ready _⟩
  · exact fun i s h => ⟨congrArg _ (if_pos h), congrArg _ (if_pos h)⟩
  · intro req s h
    have taken : ¬(!doeTakes s req) = true := by simp [h]
    refine ⟨congrArg _ (if_pos h), fun hv => ⟨?_, ?_⟩, fun hv => ⟨?_, ?_⟩, fun hn => ?_⟩
    · exact congrArg _ ((if_neg taken).trans (if_pos hv))
    · exact congrArg _ ((if_neg taken).trans (if_pos hv))
    · exact congrArg _ ((if_neg taken).trans (if_neg (by simp [hv])))
    · exact congrArg _ ((if_neg taken).trans (if_neg (by simp [hv])))
    · have new := fun f => congrArg (Host.Outcome.next (φ := Fault) (ρ := Refusal)) (spdmReady_of_new h hn f)
      exact ⟨new _, new _, new _, new _, new _⟩
  · intro req s h hn off part id
    have go := fun f => congrArg (Host.Outcome.next (φ := Fault) (ρ := Refusal)) (spdmReady_of_negotiated h hn f)
    refine ⟨go _, fun hbad => (go _).trans (congrArg _ (if_pos (by simpa using hbad))),
      fun h0 hoff => (go _).trans (congrArg _ (if_neg ?_)), fun h0 => (go _).trans (congrArg _ (if_pos h0)),
      fun h0 => (go _).trans (congrArg _ (if_neg (not_not_intro h0))), fun hm => (go _).trans (congrArg _ ?_),
      fun bs hm => (go _).trans (congrArg _ ?_), fun hlen => (go _).trans (congrArg _ (if_neg (Nat.not_le.mpr hlen))),
      fun hlen => (go _).trans (congrArg _ (if_pos hlen))⟩
    · simpa using ⟨h0, hoff⟩
    · simp only [hm]
    · simp only [hm]
  · intro w ok cm op s h hx
    have unknown := fun f => congrArg (Host.Outcome.next (φ := Fault) (ρ := Refusal)) (inSession_of_unknown h hx f)
    refine ⟨congrArg _ ((if_neg (by simp [h])).trans ?_), unknown _, unknown _, unknown _, unknown _⟩
    simp only [hx]
  · intro w x cm op s h hx ho
    have early := fun f => congrArg (Host.Outcome.next (φ := Fault) (ρ := Refusal)) (inSession_of_unestablished h hx ho f)
    refine ⟨congrArg _ ((if_neg (by simp [h])).trans ?_), congrArg _ ((if_neg (by simp [h])).trans ?_),
      early _, early _, early _, early _⟩ <;> simp only [hx, ho, Bool.false_eq_true, if_false, if_true]
  · intro w x ok cm op s h hx ho
    have run := fun f => congrArg (Host.Outcome.next (φ := Fault) (ρ := Refusal)) (inSession_of_established h hx ho f)
    refine ⟨congrArg _ ((if_neg (by simp [h])).trans ?_), run _, run _, run _, run _⟩
    simp only [hx, ho, if_true]

end Sys2Proof.Machine

/-!
PROOFS. Lost lanes, drop requests, lane maps and restored lanes (O45).
-/

namespace Sys2Proof.Machine

/-! ### One strand of the table -/

theorem strandAt_modStrand_same {s : State} (h : tabWf s.opt.strand = true) (n : Nat) (f : Strand → Strand) :
    (s.modStrand n f).strandAt n = f (s.strandAt n) :=
  tget_tput_same h

theorem strandTable_modStrand {s : State} (h : tabWf s.opt.strand = true) (n : Nat) (f : Strand → Strand) :
    tabWf (s.modStrand n f).opt.strand = true :=
  tput_wf h

@[simp] theorem laneCause_strandTable (s : State) : (laneCause s).opt.strand = s.opt.strand := rfl
@[simp] theorem laneCause_strandAt (s : State) (n : Nat) : (laneCause s).strandAt n = s.strandAt n := rfl

/-! ### Maps coming into force -/

theorem strandTable_withdraw {s : State} (h : tabWf s.opt.strand = true) (n : Nat) :
    tabWf (withdraw n s).opt.strand = true :=
  strandTable_modStrand h n _

theorem rxOut_withdraw {s : State} (h : tabWf s.opt.strand = true) (n : Nat) :
    ((withdraw n s).strandAt n).rxOut = (s.strandAt n).rxOut := by
  rw [withdraw, strandAt_modStrand_same h]

/-- R265, R267: a return to packet routing changes neither map nor service. -/
theorem strandAt_maybeReturn {s : State} (h : tabWf s.opt.strand = true) (n : Nat) :
    ∃ w, (maybeReturn n s).strandAt n = { s.strandAt n with withdrawn := w } := by
  rw [maybeReturn, strandAt_modStrand_same h]
  split
  · exact ⟨false, rfl⟩
  · exact ⟨(s.strandAt n).withdrawn, rfl⟩

/-- R252, R253: a receive map of at least four lanes comes into force, and the direction stays as it is. -/
theorem applyRx_of_enough {n : Nat} {m : List Nat} {s : State} (hlen : 4 ≤ m.length) (hwf : tabWf s.opt.strand = true) :
    let t := applyRx n m s
    (t.strandAt n).rxMap = m ∧ (t.strandAt n).rxNext = none ∧ (t.strandAt n).rxOut = (s.strandAt n).rxOut ∧
      t.opt.laneEvent = true := by
  intro t
  have hshort : decide (m.length < 4) = false := by simpa using hlen
  obtain ⟨u, hu, hout, happly⟩ : ∃ u : State, tabWf u.opt.strand = true ∧ (u.strandAt n).rxOut = (s.strandAt n).rxOut ∧
      t = maybeReturn n (laneCause (u.modStrand n fun t =>
        { t with rxMap := m, rxNext := none, rxOut := t.rxOut || m.length < 4 })) := by
    refine ⟨if m.length < (s.strandAt n).rxMap.length then withdraw n s else s, ?_, ?_,
      if_neg (Nat.not_lt.mpr hlen)⟩ <;> split
    · exact strandTable_withdraw hwf n
    · exact hwf
    · exact rxOut_withdraw hwf n
    · rfl
  obtain ⟨w, hw⟩ := strandAt_maybeReturn (s := laneCause (u.modStrand n fun t =>
    { t with rxMap := m, rxNext := none, rxOut := t.rxOut || m.length < 4 }))
    (by rw [laneCause_strandTable]; exact strandTable_modStrand hu n _) n
  rw [← happly, laneCause_strandAt, strandAt_modStrand_same hu] at hw
  refine ⟨?_, ?_, ?_, by rw [happly]; rfl⟩ <;> rw [hw]
  exact (by simp [hshort] : ((u.strandAt n).rxOut || decide (m.length < 4)) = (u.strandAt n).rxOut).trans hout

/-! ### Lost receive lanes -/

theorem loseRx_of_pending {n l : Nat} {s : State} (h1 : l ∈ rxPending (s.strandAt n)) (h2 : l ∉ (s.strandAt n).dropReq) :
    loseRx n l s =
      let t := s.strandAt n
      let u := withdraw n (countLoss n (breakCalibration n s))
      if t.rxMirror = some l then applyRx n ((rxPending t).map fun x => if x = l then 8 else x) u
      else
        let v := requestDrop n (u.modStrand n fun t => { t with dropReq := t.dropReq ++ [l] })
        let left := (rxPending t).filter fun x => x != l && !t.dropReq.contains x
        if left.length < 4 then applyRx n left v else v :=
  if_neg (by simp [h1, h2])

/-- Settles O45: the maps to come, the drop request and the service of a direction decide each branch; a receive map of at
least four lanes comes into force. -/
theorem laneLossAndLaneMaps : Obligations.LaneLossAndLaneMaps := by
  refine ⟨?_, ?_, ?_, ?_, ?_, ?_, ?_, ?_⟩
  · intro n l bs s
    refine ⟨fun h => ⟨congrArg _ (if_pos h), congrArg _ (if_pos h)⟩, fun h => congrArg _ (if_neg (by simp [h])),
      fun h => congrArg _ (if_pos h)⟩
  · intro n l s t u
    refine ⟨fun h => if_pos ?_, fun h1 h2 hm => (loseRx_of_pending h1 h2).trans (if_pos hm),
      fun h1 h2 hm => (loseRx_of_pending h1 h2).trans (if_neg hm)⟩
    simpa [t, imp_iff_not_or, or_comm] using h
  · intro n bs s hs gone
    have inService : ¬(s.strandAt n).txOut = true := by simp [hs]
    exact ⟨fun hg => congrArg _ ((if_neg inService).trans (if_pos (by simpa [gone] using hg))),
      fun hg => congrArg _ ((if_neg inService).trans (if_neg (by simpa [gone] using hg)))⟩
  · exact fun n s => ⟨fun h => congrArg _ (if_pos (by simp [h])), fun h => congrArg _ (if_neg (by simpa using h))⟩
  · intro n bs s hs m
    exact congrArg _ (if_neg (by simp [hs]))
  · intro n c s
    have rx : (s.strandAt n).rxNext = some c → exec (.mapSwitch n true) s = .next (applyRx n c.map s) := fun h => by
      simp only [exec, execMapSwitch, h, if_true]
    refine ⟨rx, fun h => ?_, fun h => ?_, fun h => ?_, fun h hlen hwf => ⟨_, rx h, applyRx_of_enough hlen hwf⟩⟩
    · simp only [exec, execMapSwitch, h, Bool.false_eq_true, if_false]
    · simp only [exec, execMapSwitch, h, if_true]
    · simp only [exec, execMapSwitch, h, Bool.false_eq_true, if_false]
  · exact fun n l c s => ⟨fun h => congrArg _ (if_pos (by simpa using h)), fun h => congrArg _ (if_neg (by simpa using h))⟩
  · intro n l s
    refine ⟨fun h => congrArg _ (if_pos ?_), fun h1 h2 => congrArg _ (if_neg ?_)⟩
    · simpa using h
    · simpa using ⟨h1, h2⟩

end Sys2Proof.Machine

/-!
PROOFS. What posting, counting, sending on strands and losing lanes leave alone.
-/

namespace Sys2Proof.Machine

/-! ### The parts that these operations may change -/

/-- The parts that posting an event, counting it, failing a frame, ending a command, sending on a strand and changing a
strand may change are set aside; memory, the tables in it, the package and the engines are not among them. -/
structure Aside (w : Parts) : Prop where
  out : w.out = true
  free : w.free = true
  win : w.win = true
  frm : w.frm = true
  hp : w.hp = true
  fly : w.fly = true
  opt : w.opt = true
  fab : w.fab = true
  top : w.top = true
  res : w.res = true
  sec : w.sec = true
  tags : w.tags = true

section
variable {w : Parts} (h : Aside w)
include h

@[simp] theorem Aside.out_eq : w.out = true := h.out
@[simp] theorem Aside.free_eq : w.free = true := h.free
@[simp] theorem Aside.win_eq : w.win = true := h.win
@[simp] theorem Aside.frm_eq : w.frm = true := h.frm
@[simp] theorem Aside.hp_eq : w.hp = true := h.hp
@[simp] theorem Aside.fly_eq : w.fly = true := h.fly
@[simp] theorem Aside.opt_eq : w.opt = true := h.opt
@[simp] theorem Aside.fab_eq : w.fab = true := h.fab
@[simp] theorem Aside.top_eq : w.top = true := h.top
@[simp] theorem Aside.res_eq : w.res = true := h.res
@[simp] theorem Aside.sec_eq : w.sec = true := h.sec
@[simp] theorem Aside.tags_eq : w.tags = true := h.tags

/-! ### Posting and counting -/

@[simp] theorem sendVector_beside (v : Nat) (s : State) : (sendVector v s).beside w = s.beside w := by
  simp [sendVector, h]

@[simp] theorem ringPost_beside (m source : Nat) (st : Status) (obj : Nat) (tenant : Option Nat) (data : List Byte)
    (s : State) : (ringPost m source st obj tenant data s).beside w = s.beside w := by
  simp [ringPost, h]

@[simp] theorem postEvent_beside (source : Nat) (st : Status) (obj : Nat) (tenant : Option Nat) (data : List Byte)
    (s : State) : (postEvent source st obj tenant data s).beside w = s.beside w := by
  simp [postEvent, h]

@[simp] theorem postDevice_beside (source : Nat) (st : Status) (obj : Nat) (s : State) :
    (postDevice source st obj s).beside w = s.beside w := by
  simp [postDevice, h]

@[simp] theorem levelPost_beside (l : Levels) (s : State) : (levelPost l s).beside w = s.beside w := by
  unfold levelPost
  split
  · rfl
  · split <;> simp [h]

@[simp] theorem winAdd_beside (row sub obj n : Nat) (s : State) : (winAdd row sub obj n s).beside w = s.beside w := by
  simp [winAdd, State.beside, h]

@[simp] theorem winBump_beside (row sub obj : Nat) (s : State) : (winBump row sub obj s).beside w = s.beside w := by
  simp [winBump, h]

@[simp] theorem failFrame_beside (st : Status) (s : State) : (failFrame st s).beside w = s.beside w := by
  simp [failFrame, h]

@[simp] theorem noteHold_beside (cause : Nat) (s : State) : (noteHold cause s).beside w = s.beside w := by
  simp [noteHold, h]

/-- R370: below level 4 the package stays as it was. -/
@[simp] theorem escalate_beside {l : Levels} (h4 : l.l4 = false) (s : State) : (escalate l s).beside w = s.beside w := by
  simp [escalate, h, h4]

/-! ### Commands that end -/

@[simp] theorem endCommand_beside (tag : Nat) (st : Status) (value detail : Nat) (s : State) :
    (endCommand tag st value detail s).beside w = s.beside w := by
  unfold endCommand
  split
  · rfl
  · split
    · rfl
    · exact beside_bob_of_tags h.tags _ rfl

@[simp] theorem endCommands_beside (st : Status) (tags : List Nat) (s : State) :
    (endCommands st tags s).beside w = s.beside w := by
  induction tags generalizing s with
  | nil => rfl
  | cons t ts ih => simp [endCommands, ih, h]

/-! ### Packets and blocks of this device -/

@[simp] theorem injectAll_beside (dest : Nat) (ps : List (List Byte)) (s : State) :
    (injectAll dest ps s).beside w = s.beside w := by
  induction ps generalizing s with
  | nil => rfl
  | cons p ps ih => simp [injectAll, injectPacket, ih, h]

@[simp] theorem sendMessage_beside (op dest : Nat) (hd : PktHdr) (data : List Byte) (s : State) :
    (sendMessage op dest hd data s).beside w = s.beside w := by
  simp [sendMessage, h]

@[simp] theorem sendAnswer_beside (dest : Nat) (hd : PktHdr) (data : List Byte) (s : State) :
    (sendAnswer dest hd data s).beside w = s.beside w := by
  simp [sendAnswer, h]

@[simp] theorem sendAck_beside (dest : Nat) (transfer : Bool) (data : List Byte) (s : State) :
    (sendAck dest transfer data s).beside w = s.beside w := by
  simp [sendAck, h]

@[simp] theorem sendMessages_beside (k dest : Nat) (hd : PktHdr) (data : List Byte) (is : List Nat) (s : State) :
    (sendMessages k dest hd data is s).beside w = s.beside w := by
  induction is generalizing s with
  | nil => rfl
  | cons i is ih => simp [sendMessages, ih, h]

@[simp] theorem sendControl_beside (n : Nat) (msg : List Byte) (s : State) :
    (sendControl n msg s).beside w = s.beside w := by
  simp [sendControl, h]

@[simp] theorem sendDiscovery_beside (n kind : Nat) (tail : List Byte) (s : State) :
    (sendDiscovery n kind tail s).beside w = s.beside w := by
  simp [sendDiscovery, sendSequenced, h]

/-! ### The strand's state towards the plan -/

@[simp] theorem sendSummary_beside (tree : Nat) (s : State) : (sendSummary tree s).beside w = s.beside w := by
  unfold sendSummary
  split
  · rfl
  · extract_lets x s1 s2
    have h2 : s2.beside w = s.beside w := by simp [s2, s1, h]
    split <;> simp [h, h2]

@[simp] theorem freshSummaries_beside (s : State) : (freshSummaries s).beside w = s.beside w := by
  simp [freshSummaries, h]

@[simp] theorem stateChanged_beside (n : Nat) (old new : DiscState) (s : State) :
    (stateChanged n old new s).beside w = s.beside w := by
  simp [stateChanged, h]

@[simp] theorem refreshSummary_beside (tree : Nat) (before : Nat × Nat × Nat × Bool) (s : State) :
    (refreshSummary tree before s).beside w = s.beside w := by
  simp [refreshSummary, h]

@[simp] theorem reevaluate_beside (n : Nat) (s : State) : (reevaluate n s).beside w = s.beside w := by
  simp [reevaluate, h]

@[simp] theorem planLaneChange_beside (s : State) : (planLaneChange s).beside w = s.beside w := by
  simp [planLaneChange, h]

@[simp] theorem advanceSwap_beside (b : Nat) (s : State) : (advanceSwap b s).beside w = s.beside w := by
  simp [advanceSwap, h]

@[simp] theorem noteTickStrands_beside (s : State) : (noteTickStrands s).beside w = s.beside w := by
  unfold noteTickStrands
  extract_lets s1 s2
  have h1 : s1.beside w = s.beside w := by
    unfold s1
    split <;> simp [h]
  have h2 : s2.beside w = s1.beside w := by
    unfold s2
    split <;> simp [h]
  simp [h, h2, h1]

@[simp] theorem leaveService_beside (n : Nat) (s : State) : (leaveService n s).beside w = s.beside w := by
  simp [leaveService, h]

@[simp] theorem sendNotices_beside (n : Nat) (xs : List (Nat × Nat × Nat)) (s : State) :
    (sendNotices n xs s).beside w = s.beside w := by
  induction xs generalizing s with
  | nil => rfl
  | cons x xs ih => simp [sendNotices, ih, h]

@[simp] theorem laneNotices_beside (n : Nat) (s : State) : (laneNotices n s).beside w = s.beside w := by
  simp [laneNotices, h]

/-! ### Lanes -/

@[simp] theorem laneCause_beside (s : State) : (laneCause s).beside w = s.beside w := by
  simp [laneCause, h]

@[simp] theorem announceMap_beside (n : Nat) (m : List Nat) (seq : Nat) (ack : Bool) (s : State) :
    (announceMap n m seq ack s).beside w = s.beside w := by
  simp [announceMap, h]

@[simp] theorem maybeReturn_beside (n : Nat) (s : State) : (maybeReturn n s).beside w = s.beside w := by
  simp [maybeReturn, h]

@[simp] theorem withdraw_beside (n : Nat) (s : State) : (withdraw n s).beside w = s.beside w := by
  simp [withdraw, h]

@[simp] theorem applyTx_beside (n : Nat) (m : List Nat) (s : State) : (applyTx n m s).beside w = s.beside w := by
  simp [applyTx, h]

@[simp] theorem applyRx_beside (n : Nat) (m : List Nat) (s : State) : (applyRx n m s).beside w = s.beside w := by
  simp [applyRx, h]

@[simp] theorem countLoss_beside (n : Nat) (s : State) : (countLoss n s).beside w = s.beside w := by
  simp [countLoss, h]

@[simp] theorem calibrationFailed_beside (n : Nat) (s : State) : (calibrationFailed n s).beside w = s.beside w := by
  simp [calibrationFailed, h]

@[simp] theorem endCalibration_beside (s : State) : (endCalibration s).beside w = s.beside w := by
  unfold endCalibration
  split <;> simp [h]

@[simp] theorem breakCalibration_beside (n : Nat) (s : State) : (breakCalibration n s).beside w = s.beside w := by
  simp [breakCalibration, h]

@[simp] theorem dropTx_beside (n lane : Nat) (ack : Bool) (s : State) : (dropTx n lane ack s).beside w = s.beside w := by
  unfold dropTx
  extract_lets waits s1 t m s2 stays s3 seq
  have h1 : s1.beside w = s.beside w := by simp [s1, dropAtFrame, h]
  have h3 : s3.beside w = s.beside w := by simp [s3, s2, h, h1]
  split
  · split <;> simp [h, h1]
  · split <;> simp [h, h3]

@[simp] theorem dropAllTx_beside (n : Nat) (ack : Bool) (ls : List Nat) (s : State) :
    (dropAllTx n ack ls s).beside w = s.beside w := by
  induction ls generalizing s with
  | nil => rfl
  | cons l ls ih => simp [dropAllTx, ih, h]

@[simp] theorem requestDrop_beside (n : Nat) (s : State) : (requestDrop n s).beside w = s.beside w := by
  simp [requestDrop, h]

@[simp] theorem loseRx_beside (n lane : Nat) (s : State) : (loseRx n lane s).beside w = s.beside w := by
  simp [loseRx, h]

@[simp] theorem loseAllRx_beside (n : Nat) (ls : List Nat) (s : State) : (loseAllRx n ls s).beside w = s.beside w := by
  induction ls generalizing s with
  | nil => rfl
  | cons l ls ih => simp [loseAllRx, ih, h]

@[simp] theorem mapAtOnce_beside (n : Nat) (m : List Nat) (s : State) : (mapAtOnce n m s).beside w = s.beside w := by
  simp [mapAtOnce, h]

@[simp] theorem changeAtFrame_beside (n : Nat) (m : List Nat) (s : State) :
    (changeAtFrame n m s).beside w = s.beside w := by
  simp [changeAtFrame, h]

/-! ### Lasers -/

@[simp] theorem modLaser_beside (b i : Nat) (f : Laser → Laser) (s : State) : (modLaser b i f s).beside w = s.beside w := by
  simp [modLaser, h]

@[simp] theorem clearMirrors_beside (b : Nat) (s : State) : (clearMirrors b s).beside w = s.beside w :=
  foldl_keeps (State.beside · w) _ (fun _ _ => modStrand_beside h.opt ..) _ _

@[simp] theorem startSwap_beside (b i : Nat) (s : State) : (startSwap b i s).beside w = s.beside w := by
  simp [startSwap, h]

@[simp] theorem dropLaneAtFrame_beside (lane : Nat) (ns : List Nat) (s : State) :
    (dropLaneAtFrame lane ns s).beside w = s.beside w := by
  induction ns generalizing s with
  | nil => rfl
  | cons n ns ih => simp [dropLaneAtFrame, ih, h]

@[simp] theorem dropLane_beside (lane : Nat) (ns : List Nat) (s : State) : (dropLane lane ns s).beside w = s.beside w := by
  induction ns generalizing s with
  | nil => rfl
  | cons n ns ih => simp [dropLane, ih, h]

@[simp] theorem failMirrored_beside (i : Nat) (ns : List Nat) (s : State) : (failMirrored i ns s).beside w = s.beside w := by
  induction ns generalizing s with
  | nil => rfl
  | cons n ns ih => simp [failMirrored, ih, h]

@[simp] theorem spareFailed_beside (b : Nat) (s : State) : (spareFailed b s).beside w = s.beside w := by
  unfold spareFailed
  extract_lets k i s1
  have h1 : s1.beside w = s.beside w := by simp [s1, h]
  split
  · simp [h, h1]
  · unfold i
    split
    · split <;> simp [h, h1]
    · exact h1

/-- R269, R271: what a failed laser brings about stays within strands, frames and their records. -/
@[simp] theorem wavelengthFailed_beside (b i : Nat) (s : State) : (wavelengthFailed b i s).beside w = s.beside w := by
  simp [wavelengthFailed, h]

end

end Sys2Proof.Machine

/-!
PROOFS. Lasers and the spare wavelength (O46).
-/

namespace Sys2Proof.Machine

/-! ### One laser of a bank -/

theorem vget_ofFn {α : Type} {n : Nat} [Inhabited α] (f : Fin n → α) {i : Nat} (h : i < n) :
    vget (Vector.ofFn f) i = f ⟨i, h⟩ := by
  simp [vget, Vector.getD, h]

theorem vget_of_lt {α : Type} {n : Nat} [Inhabited α] (v : Vector α n) {i : Nat} (h : i < n) : vget v i = v[i] := by
  simp [vget, Vector.getD, h]

theorem bankAt_modBank {b : Nat} (hb : b < 2) (f : Bank → Bank) (s : State) : (s.modBank b f).bankAt b = f (s.bankAt b) :=
  vget_vmod_same _ _ _ hb

theorem lasers_modLaser {b : Nat} (hb : b < 2) (i : Nat) (f : Laser → Laser) (s : State) :
    ((modLaser b i f s).bankAt b).laser = vmod (s.bankAt b).laser i f :=
  congrArg Bank.laser (bankAt_modBank hb _ s)

/-- R271: a laser fails that was not dead: the bank has one dead laser more. -/
theorem deadLasers_modLaser_failed {b i : Nat} (hb : b < 2) (hi : i < 9) {s : State} (h1 : (laserAt s b i).st ≠ .failed)
    (h2 : (laserAt s b i).st ≠ .retired) (h3 : (laserAt s b i).faded = false) :
    deadLasers (modLaser b i (fun l => { l with st := .failed }) s) b = deadLasers s b + 1 := by
  have hat : laserAt s b i = (s.bankAt b).laser[i] := vget_of_lt _ hi
  rw [hat] at h1 h2 h3
  have hlive : ¬(((s.bankAt b).laser[i].st == .failed || (s.bankAt b).laser[i].st == .retired ||
      (s.bankAt b).laser[i].faded) = true) := by simp [h1, h2, h3]
  unfold deadLasers
  rw [lasers_modLaser hb, vmod, dif_pos hi, ← List.countP_eq_length_filter, ← List.countP_eq_length_filter,
    Vector.toList_set, List.countP_set (by simpa using hi)]
  simp [hlive]

/-! ### The drive of a laser -/

theorem countLit_drive (l : Laser) : (countLit l).drive = l.drive := by
  unfold countLit
  split <;> rfl

theorem countLit_driveMax (l : Laser) : (countLit l).driveMax = l.driveMax := by
  unfold countLit
  split <;> rfl

/-- R255: the drive of a lit laser after a reading. -/
theorem adjustDrive_drive {x : Nat} {l : Laser} (h : isLit l = true) : (adjustDrive x l).drive =
    if x < laserTarget then min (l.drive + 1) (max l.drive l.driveMax)
    else if laserTarget < x then l.drive - 1 else l.drive := by
  simp only [adjustDrive, h, Bool.not_true, Bool.false_eq_true, if_false, countLit_drive, countLit_driveMax]

theorem adjustDrive_le_max {x : Nat} {l : Laser} (h : isLit l = true) (hle : l.drive ≤ l.driveMax) :
    (adjustDrive x l).drive ≤ l.driveMax := by
  rw [adjustDrive_drive h]
  split
  · omega
  · split <;> omega

/-! ### A laser that fails -/

theorem laserFailed_of_working {b i : Nat} {s : State} (h1 : (laserAt s b i).st ≠ .failed)
    (h2 : (laserAt s b i).st ≠ .retired) :
    laserFailed b i s =
      let u := modLaser b i (fun l => { l with st := .failed }) s
      wavelengthFailed b i (escalate { row := 29, obj := b, l3 := true, l4 := 6 ≤ deadLasers u b } u) :=
  if_neg (by simp [h1, h2])

/-- The parts beside the package. -/
def besidePkg : Parts :=
  { out := true, free := true, win := true, frm := true, hp := true, fly := true, opt := true, fab := true, top := true,
    res := true, sec := true, tags := true }

theorem aside_besidePkg : Aside besidePkg :=
  ⟨rfl, rfl, rfl, rfl, rfl, rfl, rfl, rfl, rfl, rfl, rfl, rfl⟩

@[simp] theorem wavelengthFailed_pkg (b i : Nat) (s : State) : (wavelengthFailed b i s).pkg = s.pkg :=
  have kept := wavelengthFailed_beside aside_besidePkg b i s
  (congrArg State.pkg kept : ((wavelengthFailed b i s).beside besidePkg).pkg = (s.beside besidePkg).pkg)

/-- R370: level 4 takes the device to FAILED. -/
theorem escalate_failed {l : Levels} (h : l.l4 = true) (s : State) : (escalate l s).pkg.devState = .failed := by
  simp [escalate, h]

/-- Settles O46: a laser's state and the phase of the swap decide each branch; the sixth dead laser of a bank takes the
device to FAILED, where what a lost wavelength brings about leaves it. -/
theorem lasersAndTheSpareWavelength : Obligations.LasersAndTheSpareWavelength := by
  refine ⟨?_, ?_, ?_, ?_, ?_, ?_, ?_⟩
  · refine fun p s => ⟨_, rfl, fun b w => ?_, rfl⟩
    simp only [laserAt, State.bankAt, State.modOpt_opt, vget_ofFn _ b.isLt, vget_ofFn _ w.isLt, vget_of_lt _ b.isLt,
      vget_of_lt _ w.isLt]
    rfl
  · intro x l
    refine ⟨fun h => if_pos (by simp [h]), fun h hx hd => ?_, fun h hx => ?_, fun h hx => ?_, adjustDrive_le_max⟩ <;>
      rw [adjustDrive_drive h]
    · rw [if_pos hx]
      omega
    · rw [if_neg (by omega), if_pos hx]
    · rw [if_neg (by omega), if_neg (by omega)]
  · intro b w s st u
    refine ⟨fun h => congrArg _ (if_pos (by simpa [st] using h)), fun h1 h2 => congrArg Host.Outcome.next (laserFailed_of_working h1 h2),
      fun h1 h2 h3 h5 _ => ⟨_, congrArg Host.Outcome.next (laserFailed_of_working h1 h2), ?_⟩⟩
    dsimp only
    rw [wavelengthFailed_pkg]
    refine escalate_failed ?_ _
    have := deadLasers_modLaser_failed (s := s) b.isLt w.isLt h1 h2 h3
    simpa [this] using h5
  · intro b ok s
    refine ⟨fun h => congrArg _ (if_pos h), fun h => ?_, fun h => ?_⟩
    · exact congrArg _ ((if_neg (not_not_intro h)).trans (if_pos rfl))
    · exact congrArg _ ((if_neg (not_not_intro h)).trans (if_neg Bool.false_ne_true))
  · intro n s
    exact ⟨fun h => congrArg _ (if_pos h), fun h => congrArg _ (if_pos h),
      fun h => ⟨congrArg _ (if_neg h), congrArg _ (if_neg h)⟩⟩
  · intro n o s
    refine ⟨fun h => ?_, fun j h hj => ?_, fun j h hn ha => ⟨?_, fun l => ?_⟩⟩
    · simp only [exec, execL8Trained, h]
    · simp only [exec, execL8Trained, h]
      exact congrArg _ (if_pos (by simpa using hj))
    · simp only [exec, execL8Trained, h]
      exact congrArg _ (if_neg (by simp [hn, ha]))
    · simp only [exec, execL8Trained, h]
      exact congrArg _ (if_neg (by simp [hn, ha]))
  · intro b s
    refine ⟨fun h => ?_, fun w hp hs hr hz => ?_, fun w hp hs hr => ?_⟩
    · simp only [exec, execSpareSwap]
      split
      next hp hs => exact absurd h (by simp [hp, hs])
      next => rfl
    · simp only [exec, execSpareSwap, hp, hs]
      exact congrArg _ (if_pos (by simp [hr, hz]))
    · simp only [exec, execSpareSwap, hp, hs]
      exact congrArg _ (if_neg (by simpa [imp_iff_not_or] using hr))

end Sys2Proof.Machine

/-!
PROOFS. Calibration, margins and the stage monitors (O47).
-/

namespace Sys2Proof.Machine

/-- A strand changed to a value other than an unlisted one's holds that value. -/
theorem strandAt_modStrand_value {s : State} {n : Nat} {f : Strand → Strand} (h : f (s.strandAt n) ≠ default) :
    (s.modStrand n f).strandAt n = f (s.strandAt n) :=
  tget_tput_value h

/-- R261, R268: a strand with a receive margin, after a reading of a lane. -/
def withReading (l : Nat) (m : Int) (t : Strand) : Strand :=
  { t with rxMargin := tput t.rxMargin l (some m), rxLast := tput t.rxLast l ((m :: tget t.rxLast l).take 10) }

theorem withReading_margin {l : Nat} {m : Int} {t : Strand} (h : tabWf t.rxMargin = true) :
    tget (withReading l m t).rxMargin l = some m :=
  tget_tput_same h

theorem withReading_ne_default {l : Nat} {m : Int} {t : Strand} (h : tabWf t.rxMargin = true) :
    withReading l m t ≠ default := by
  intro hd
  have hm := withReading_margin (l := l) (m := m) h
  rw [hd] at hm
  cases hm

theorem strandAt_takeReading {n l c : Nat} {s : State} (h : tabWf (s.strandAt n).rxMargin = true) :
    (takeReading (n, l, c) s).strandAt n = withReading l (marginOf s.free c) (s.strandAt n) :=
  strandAt_modStrand_value (s := s.drawFree.modOpt fun o => { o with reading := tput o.reading ((3 * 64 + n) * 16 + l) c })
    (f := withReading l (marginOf s.free c)) (withReading_ne_default h)

theorem execCalibrationDue_of_service {n : StrandId} {s : State} (h : inService s n = true) (why : CalWhy) :
    exec (.calibrationDue n why) s = .next (match why with
      | .age => if s.opt.clock - (s.strandAt n).calAt < 60000 then s else s.modStrand n fun t => { t with calDue := true }
      | .lane => if (s.strandAt n).lost.isEmpty && (s.strandAt n).dropReq.isEmpty then s
          else s.modStrand n fun t => { t with calDue := true }
      | .drift => if (s.strandAt n).drift || !drifted (s.strandAt n) then s else driftFound n s
      | .overdue => if (s.strandAt n).calDue then s.modStrand n fun t => { t with calOverdue := true } else s) :=
  congrArg _ (if_neg (by simp [h]))

/-- Settles O47: service, the period under way and the far end's request decide each branch; a reading is the lane's margin
and the latest of its last ten. -/
theorem calibrationAndMargins : Obligations.CalibrationAndMargins := by
  refine ⟨?_, ?_, ?_, ?_, ?_, fun xs s => rfl, ?_, fun n bs s => ⟨rfl, rfl⟩, ?_, ?_⟩
  · intro n s t
    refine ⟨fun w h => congrArg _ (if_pos (by simp [h])), fun h => ?_⟩
    refine ⟨execCalibrationDue_of_service h .age, (execCalibrationDue_of_service h .lane).trans ?_,
      (execCalibrationDue_of_service h .drift).trans ?_, execCalibrationDue_of_service h .overdue⟩
    · simp only [t, Bool.and_eq_true, List.isEmpty_iff]
    · simp only [t, Bool.or_eq_true, Bool.not_eq_true']
  · intro n s
    refine ⟨fun h => ?_, fun j h => ?_⟩ <;> simp only [exec, execCalibrationStart, h]
  · intro n bs c t s j
    refine ⟨fun h => congrArg _ (if_pos h), fun h hc hp hf => ?_, fun h hbad => ?_⟩ <;>
      refine congrArg _ ((if_neg (not_not_intro h)).trans ?_)
    · exact if_pos (by simpa [hc, hp] using hf)
    · refine if_neg ?_
      simpa [Option.isNone_iff_eq_none, imp_iff_not_or, or_assoc, j] using hbad
  · intro n s
    exact ⟨fun h => ⟨congrArg _ (if_pos h), congrArg _ (if_pos h)⟩,
      fun h => ⟨congrArg _ (if_neg (by simp [h])), congrArg _ (if_neg (by simp [h]))⟩⟩
  · intro r s
    refine ⟨fun h => ?_, fun j h ha => ?_, fun j h ha => ?_⟩ <;> simp only [exec, execCalibrationComplete, h]
    · exact congrArg _ (if_pos (by simp [ha]))
    · exact congrArg _ (if_neg (by simp [ha]))
  · intro n l c s t m h1 h2
    have ht : t = withReading l.val m (s.strandAt n) := strandAt_takeReading h1
    rw [ht]
    exact ⟨withReading_margin h1, tget_tput_same h2⟩
  · intro v s n x
    refine ⟨fun h => congrArg _ (if_neg (by simp [h])), fun h hg hi => ?_, fun h hbad => ?_⟩ <;>
      refine congrArg _ ((if_pos h).trans (congrArg s.modOpt (funext fun o => ?_)))
    · exact if_pos (by simpa [n, x] using ⟨hg, hi⟩)
    · exact if_neg (by simpa [n, x, imp_iff_not_or] using hbad)
  · intro c s
    refine ⟨fun h => ?_, fun x h => ?_⟩ <;> simp only [exec, execMonitorReadingDone, h]

end Sys2Proof.Machine

/-!
PROOFS. Hellos, neighbours and the state of a strand (O52).
-/

namespace Sys2Proof.Machine

/-! ### The state of a strand towards the plan (R309) -/

theorem strandState_of_noPlan {s : State} {n : Nat} (h : planNb s n = none) (hs : inService s n = true) :
    strandState s n = (match (s.discAt n).nb with
      | .waiting => (.discovering, 0)
      | .found => (.found, 0)
      | .lost | .none => (.none, 0)) := by
  simp only [strandState, h, hs, Bool.not_true, Bool.false_eq_true, if_false] <;> rfl

theorem strandState_of_present {s : State} {n : Nat} {e : PlanNb} (h : planNb s n = some e) (hp : present s n = true) :
    strandState s n =
      match mismatchReason e ((s.top.plan.map (·.domDigest)).getD 0) (s.discAt n).latency ((s.discAt n).hello.getD {}) with
      | 0 => (.matched, 0)
      | r => (.quarantined, r) := by
  simp only [strandState, h, hp, Bool.not_true, Bool.false_eq_true, if_false] <;> rfl

/-- Settles O52: service, the neighbour's state and the hello's echo decide each branch. -/
theorem hellosAndNeighbours : Obligations.HellosAndNeighbours := by
  refine ⟨?_, fun n p w s => rfl, ?_, fun n s => rfl, ?_, ?_, fun n l s => ⟨rfl, rfl⟩, ?_⟩
  · intro n p w s
    exact ⟨fun h => ⟨congrArg _ (if_neg (by simp [h])), congrArg _ (if_neg (by simp [h]))⟩,
      fun h => ⟨congrArg _ (if_pos h), congrArg _ (if_pos h)⟩⟩
  · intro n p w s
    refine ⟨fun h => if_pos (by simpa using h), fun h0 hr => if_neg ?_⟩
    simpa [h0] using hr
  · intro n s d
    refine ⟨fun h => congrArg _ (if_neg ?_), fun h hh => congrArg _ (if_pos (by simp [d] at h hh; simp [h, hh])),
      fun h => congrArg _ (if_neg h), fun h => congrArg _ (if_pos h)⟩
    rcases h with h | h
    · simp [show ¬(s.discAt n).nb = .waiting from h]
    · simp [Option.isNone_eq_false_iff.mpr (show (s.discAt n).hello.isSome = true from h)]
  · intro n rx l s u
    have run : exec (.strandTrained n rx l) s = .next (strandChanged n (if inService u n then enterService n u else u)) := rfl
    refine ⟨fun h => run.trans ?_, fun h => run.trans ?_⟩
    · rw [if_neg (by simp [h])]
    · rw [if_pos h]
      rfl
  · intro n s
    refine ⟨fun h hs => ?_, fun h hs => (strandState_of_noPlan h hs).trans ?_, fun e h hp => ?_,
      fun e h hp => (strandState_of_present h hp).trans ?_⟩
    · simp only [strandState, h, hs, Bool.not_false, if_true]
    · cases (s.discAt n).nb <;> rfl
    · simp only [strandState, h, hp, Bool.not_false, if_true]
    · generalize mismatchReason e _ _ _ = why
      cases why <;> rfl

end Sys2Proof.Machine

/-!
PROOFS. A device takes its place in a tree, sums up its children, and the domain forms (O53).
-/

namespace Sys2Proof.Machine

/-! ### Alignment -/

theorem alignment_of_parent {n : StrandId} {p : List Byte} {s : State} (h2 : fieldOf p 48 1 < 2)
    (hp : parentStrand s (fieldOf p 48 1) n p = true) : exec (.alignment n p) s = .next (takeAlignment n p s) :=
  congrArg _ (if_pos (by simp [h2, hp]))

theorem takeAlignment_of_depth {n : Nat} {p : List Byte} {s : State}
    (hd : (placeBehind p (s.discAt n).latency).depth ≤ 8) : takeAlignment n p s =
      let tree := fieldOf p 48 1
      let pos := placeBehind p (s.discAt n).latency
      joinTree tree pos ((s.modFrm fun f =>
        if tree = 0 then { f with latL := pos.lat, latNew := pos.lat }
        else { f with latL2 := pos.lat, latNew2 := pos.lat }).modTop fun t =>
          if tree = 0 then { t with inUse := n } else { t with sbInUse := n }) :=
  if_neg (Nat.not_lt.mpr hd)

/-! ### Summaries -/

theorem summary_of_tree {n : StrandId} {p : List Byte} (s : State) (h : fieldOf p 48 1 < 2) :
    exec (.summary n p) s = .next (takeSummary n p s) :=
  congrArg _ (if_pos h)

/-- R313, R315: a summary of a MATCHED child, after it has been kept as `u`. -/
theorem takeSummary_of_child {n : Nat} {p : List Byte} {s u : State}
    (hs : ¬(fieldOf p 48 1 = 1 && fromStandby s n) = true) (hm : n ∈ matchedChildren s (fieldOf p 48 1))
    (hu : u = s.modDisc n fun d => if fieldOf p 48 1 = 0 then { d with sum0 := some (summaryFields p) }
      else { d with sum1 := some (summaryFields p) }) :
    takeSummary n p s =
      let tree := fieldOf p 48 1
      let w := if ((treePos u tree).map (·.sent)).getD false && summaryOf u tree != summaryOf s tree then sendSummary tree u
        else trySummary tree u
      if s.top.formed then (if summaryOf u tree = summaryOf s tree then u else sendSummary tree u)
      else if tree = 0 && (w.top.plan.map planRole) == some .whorl then
        w.modTop fun t => { t with sumCount := (summaryOf w 0).1, sumMatch := (summaryOf w 0).2.2.2 }
      else w := by
  subst hu
  exact (if_neg hs).trans (if_neg (by simp [hm]))

/-! ### Forming -/

@[simp] theorem sendDiscovery_frm (n kind : Nat) (tail : List Byte) (s : State) :
    (sendDiscovery n kind tail s).frm = s.frm := rfl

@[simp] theorem sendDiscovery_top (n kind : Nat) (tail : List Byte) (s : State) :
    (sendDiscovery n kind tail s).top = s.top := rfl

@[simp] theorem sendForm_frm (ns : List Nat) (s : State) : (sendForm ns s).frm = s.frm := by
  induction ns generalizing s with
  | nil => rfl
  | cons n ns ih => exact (ih _).trans (sendDiscovery_frm ..)

@[simp] theorem sendForm_top (ns : List Nat) (s : State) : (sendForm ns s).top = s.top := by
  induction ns generalizing s with
  | nil => rfl
  | cons n ns ih => exact (ih _).trans (sendDiscovery_top ..)

/-- R70: A is the largest latency and 200 ns, rounded up to 100 ns. -/
theorem alignDelay_bounds (m : Nat) : m + 200 ≤ alignDelay m ∧ alignDelay m < m + 300 ∧ alignDelay m % 100 = 0 := by
  unfold alignDelay roundUp ceilDiv
  omega

theorem parentStrand_plan {s : State} {tree n : Nat} {p : List Byte} (h : parentStrand s tree n p = true) :
    ∃ q, s.top.plan = some q := by
  unfold parentStrand at h
  split at h
  · cases h
  next q hq => exact ⟨q, hq⟩

/-- Settles O53: the tree, the parent, the children's summaries and the plan's role decide each branch; A is a rounding up. -/
theorem formingTheDomain : Obligations.FormingTheDomain := by
  refine ⟨?_, ?_, fun q s => ⟨rfl, rfl⟩, ?_, ?_, ?_, ?_, ?_, ?_, alignDelay_bounds, ?_⟩
  · intro n p s h
    refine congrArg _ (if_neg ?_)
    rcases h with h | h
    · simp [Nat.not_lt.mpr h]
    · simp [h]
  · intro n p s h2 hp pos
    have run := alignment_of_parent h2 hp
    refine ⟨fun hd => run.trans (congrArg _ (if_pos hd)), fun hd ht => run.trans (congrArg _ ?_),
      fun hd ht => run.trans (congrArg _ ?_)⟩
    · exact (takeAlignment_of_depth hd).trans (by simp [ht, pos])
    · exact (takeAlignment_of_depth hd).trans (by simp [ht, pos])
  · intro p x
    refine ⟨rfl, fun h => ?_, fun h => ?_⟩ <;> simp [placeBehind, h]
  · intro n p s
    refine ⟨fun h => congrArg _ (if_neg (Nat.not_lt.mpr h)), fun h hf => ?_, fun h hs hm => ?_⟩
    · exact (summary_of_tree s (by omega)).trans (congrArg _ (if_pos (by simp [h, hf])))
    · refine (summary_of_tree s h).trans (congrArg _ ((if_neg ?_).trans (if_pos (by simp [hm]))))
      rcases hs with hs | hs <;> simp [hs]
  · intro n p s tree h2 hs hm u w
    have hs' : ¬(fieldOf p 48 1 = 1 && fromStandby s n) = true := by
      rcases hs with hs | hs
      · simp [show fieldOf p 48 1 = 0 from hs]
      · simp [hs]
    have run := (summary_of_tree s h2).trans (congrArg _ (takeSummary_of_child (u := u) hs' hm rfl))
    refine ⟨fun hf he => run.trans ?_, fun hf he => run.trans ?_, fun hf ht => run.trans ?_, fun hf ht hr => run.trans ?_,
      fun hf ht hr => run.trans ?_⟩ <;> refine congrArg _ ?_
    · exact (if_pos hf).trans (if_pos he)
    · exact (if_pos hf).trans (if_neg he)
    · exact (if_neg (by simp [hf])).trans (if_neg (by simp [show fieldOf p 48 1 = 1 from ht]))
    · refine (if_neg (by simp [hf])).trans (if_neg ?_)
      simpa [tree, w] using fun _ => hr
    · refine (if_neg (by simp [hf])).trans (if_pos ?_)
      rw [Bool.and_eq_true, decide_eq_true_eq, beq_iff_eq]
      exact ⟨ht, hr⟩
  · exact fun s => ⟨rfl, fun h => congrArg _ (if_neg (by simp [h])), fun h => congrArg _ (if_pos h)⟩
  · intro tree s
    refine ⟨fun h => ⟨?_, ?_, ?_⟩, fun q h => ?_, fun q h => ?_⟩
    · simp only [lateSummary, h]
    · simp only [trySummary, h]
    · simp only [sendSummary, h]
    · simp only [lateSummary, h]
    · simp only [trySummary, h]
  · intro s
    refine ⟨fun h => congrArg _ (if_neg ?_), fun hr hm hs => ⟨_, congrArg Host.Outcome.next (if_pos (by simp [hr, hm, hs])), ?_⟩⟩
    · rcases h with h | h | h <;> simp [h]
    · simp [formDomain, formWith, hr, holdLeadOf]
  · intro n p s
    refine ⟨fun h => congrArg _ (if_neg ?_), fun hp hm => ⟨_, congrArg Host.Outcome.next (if_pos (by simp [hp, hm])), ?_⟩⟩
    · rcases h with h | h <;> simp [h]
    · obtain ⟨q, hq⟩ := parentStrand_plan hp
      simp only [takeForm, formWith, sendForm_frm, sendForm_top, State.modTop_top, State.modTop_frm, State.modFrm_frm,
        State.modFrm_top, hq, Option.map_some, Option.getD_some, true_and]
      split <;> simp [*]

end Sys2Proof.Machine

/-!
PROOFS. Regulator reports, budgets, droops, the fast guard and duty granules (O55).
-/

namespace Sys2Proof.Machine

theorem guardTrigger_of_new {k : GuardKind} {s : State} (h : k ∉ s.pwr.stretch) :
    guardTrigger k s =
      let u := s.modPwr fun x =>
        { x with stretch := x.stretch ++ [k], guard_ := true, guards := wrapInc 16 x.guards, guardDue := true,
                 die := x.die.map fun d => { d with lower := d.lower + 2 } }
      let v := winBump 41 0 0 (noteHold 0x01 u)
      escalate { row := 41, count := winCount v 41 0 0, l2 := true } v :=
  if_neg (by simpa using h)

theorem pwrDieAt_computeBudgets {i : Nat} (h : i < 4) (s : State) :
    (computeBudgets s).pwrDieAt i = { s.pwrDieAt i with budgetNext := budgetOf s i } := by
  have hat : s.pwrDieAt i = s.pwr.die[i] := vget_of_lt _ h
  rw [hat]
  exact vget_ofFn _ h

/-- R352: from step 12 on no granule is left out. -/
theorem stepDuty_full {n : Nat} (h : 12 ≤ n) : stepDuty n = 16 :=
  if_pos h

/-- Settles O55: the readings, the messages and the steps in force decide each branch. -/
theorem powerReportsBudgetsDroopsAndTheGuard : Obligations.PowerReportsBudgetsDroopsAndTheGuard := by
  refine ⟨?_, fun r x => ⟨rfl, rfl, rfl, rfl, rfl, rfl, rfl, rfl, rfl, ?_⟩, fun s => rfl, fun s => rfl, ?_, fun d s => rfl,
    ?_, ?_, fun d deep s => rfl, ?_, fun w s => rfl, ?_, ?_⟩
  · exact fun r s => ⟨fun h => congrArg _ (if_neg (by simp [h])), fun h => congrArg _ (if_pos h)⟩
  · simp only [takeReadings]
  · exact fun k s => ⟨fun h => if_pos (by simpa using h), guardTrigger_of_new⟩
  · intro d s
    refine ⟨fun h => ?_, fun m h => ?_⟩ <;> simp only [exec, execBudgetMessage, h]
  · intro c s
    rw [pwrDieAt_computeBudgets c.isLt]
    exact ⟨rfl, rfl⟩
  · intro d us s
    exact ⟨fun long h => congrArg _ (if_pos h), fun h => ⟨congrArg _ (if_neg h), congrArg _ (if_neg h)⟩⟩
  · intro cap s u
    refine ⟨fun h hu => if_pos (by simp [h, hu]), fun h => if_neg ?_⟩
    rcases h with h | h
    · simp [Nat.not_lt.mpr h]
    · simp [h]
  · intro d g s pause turn
    refine ⟨rfl, fun h => ?_⟩
    simp [pause, stepDuty_full h]

end Sys2Proof.Machine

/-!
PROOFS. The health estimate, automatic snapshots, the log's drain, flash errors and closing windows (O56).
-/

namespace Sys2Proof.Machine

@[simp] theorem winCount_modRes (f : Res → Res) (s : State) (row sub obj : Nat) :
    winCount (s.modRes f) row sub obj = winCount s row sub obj := rfl

/-- Settles O56: the state of the flash, of the job and of the staged records decides each branch. -/
theorem healthSnapshotsLogAndFlash : Obligations.HealthSnapshotsLogAndFlash := by
  refine ⟨fun s => rfl, fun s => rfl, ?_, ?_, ?_, ?_, ?_, ?_⟩
  · intro s
    refine ⟨fun h => congrArg _ (if_neg ?_), fun hp hj hd => congrArg _ (if_pos ?_)⟩
    · rcases h with h | h | h
      · simp [h]
      · simp [Option.isNone_eq_false_iff.mpr h]
      · simp [h]
    · simp [hp, hj, hd]
  · intro full auto label m s b fails room
    refine ⟨fun h => if_pos h, fun h hr => (beginSnapshot_of_writable h).trans ?_,
      fun ss h hr => (beginSnapshot_of_writable h).trans ?_⟩
    · simp only [show makeRoom (extentBytes (snapExtents s full)) s.res.snaps = none from hr]
      rfl
    · simp only [show makeRoom (extentBytes (snapExtents s full)) s.res.snaps = some ss from hr]
  · intro s
    refine ⟨fun h => ?_, fun x xs hs hr hf => ?_⟩
    · simp only [exec, execLogDrain]
      split
      · rfl
      next hs => exact congrArg _ (if_pos (by rcases h with h | h | h <;> simp_all))
    · simp only [exec, execLogDrain, hs]
      exact congrArg _ (if_neg (by simp [hr, hf]))
  · intro a s u
    refine ⟨fun h => ?_, fun h => ?_⟩
    · simp only [u] at h ⊢
      simp only [exec, execFlashError, h, decide_true, Bool.not_true, Bool.or_false, if_true, winCount_modRes]
    · have hno := Nat.not_lt.mpr h
      simp only [u] at hno ⊢
      simp only [exec, execFlashError, hno, decide_false, Bool.not_false, Bool.or_true, if_false, winCount_modRes]
  · intro a s cut ended
    refine ⟨fun h => ?_, fun m h => ?_⟩ <;> simp only [flashOperation, h] <;> rfl
  · intro row sub key s u
    refine ⟨fun h0 h40 => ?_, fun h => ?_, fun h => ?_⟩
    · exact congrArg _ ((if_neg h0).trans (if_neg h40))
    · exact congrArg _ (if_pos h)
    · exact congrArg _ ((if_neg (by omega)).trans (if_pos h))

end Sys2Proof.Machine

/-!
PROOFS. Register accesses by their types (O58).
-/

namespace Sys2Proof.Machine

theorem registerWrite_of_up {o v : Word} {s : State} (hb : barUp s = true) (ho : o.toNat % 4 = 0) :
    exec (.registerWrite o v) s = .next (blockWrite (blockOf o.toNat).1 (blockOf o.toNat).2 v.toNat s) :=
  congrArg _ ((if_pos hb).trans (if_pos ho))

theorem regPairHighWrite_of_high {o v : Word} {s : State} (hb : barUp s = true) (ho : isPairHigh o.toNat = true) :
    exec (.regPairHighWrite o v) s = .next (regWrite o.toNat v.toNat s) :=
  congrArg _ (if_pos (by simp [hb, ho]))

theorem regLowRead_of_up {o : Word} {s : State} (hb : barUp s = true) :
    exec (.regLowRead o) s = .next ((latchRead o.toNat s).2.emit (.regValue (w32 (latchRead o.toNat s).1))) :=
  congrArg _ (if_pos hb)

/-- Settles O58: BAR0, the offset's block, the debug unlock and the latch decide each access. -/
theorem registerAccessesByTheirTypes : Obligations.RegisterAccessesByTheirTypes := by
  refine ⟨?_, ?_, ?_, ?_, ?_, ?_, ?_⟩
  · intro o v s h
    have down : ∀ t : State, (if barUp s then t else s) = s := fun t => if_neg (by simp [h])
    exact ⟨congrArg _ (down _), congrArg _ (if_neg (by simp [h])), congrArg _ (down _), congrArg _ (down _),
      congrArg _ (down _), congrArg _ (down _)⟩
  · intro o v s hb b
    refine ⟨fun h => ?_, fun h => registerWrite_of_up hb h, fun h => congrArg _ (if_neg (by simp [h])), fun h => ?_⟩
    · refine congrArg _ ((if_pos hb).trans ?_)
      rcases h with h | h
      · exact if_neg h
      · simp only [regWrite, show (blockOf o.toNat).1 = .none from h, blockWrite, ite_self]
    · exact (regPairHighWrite_of_high hb h).trans (congrArg _ (if_pos hb).symm)
  · intro v s hb
    exact ⟨registerWrite_of_up hb rfl, registerWrite_of_up hb rfl, registerWrite_of_up hb rfl, registerWrite_of_up hb rfl⟩
  · intro v w s hb hd t
    refine ⟨(registerWrite_of_up hb rfl).trans (congrArg _ (if_pos hd)),
      (regPairHighWrite_of_high (s := t) hb rfl).trans (congrArg _ (if_pos hd)), fun h => ?_⟩
    rcases h with h | h
    · exact tget_tput_value (by simpa [BitVec.toNat_eq] using h)
    · exact tget_tput_same h
  · intro w s hb hd
    have locked : ¬s.sec.debugUnlocked = true := by simp [hd]
    exact ⟨(registerWrite_of_up hb rfl).trans (congrArg _ (if_neg locked)),
      (regPairHighWrite_of_high hb rfl).trans (congrArg _ (if_neg locked))⟩
  · intro o s hb
    refine ⟨fun hl => ⟨_, regLowRead_of_up hb, ?_⟩, fun hl hh => (regLowRead_of_up hb).trans ?_,
      fun x hl hh hx => (regLowRead_of_up hb).trans ?_, fun hl hh hx => (regLowRead_of_up hb).trans ?_⟩
    · simp only [latchRead, hl, if_true]
      exact ⟨rfl, tget_tput_value (Option.some_ne_none _), rfl⟩
    · simp only [latchRead, hl, hh, Bool.false_eq_true, if_false]
    · simp only [latchRead, hl, hh, hx, Bool.false_eq_true, if_false, if_true]
    · simp only [latchRead, hl, hh, hx, Bool.false_eq_true, if_false, if_true]
  · exact fun v s hb => ⟨congrArg _ (if_pos hb), congrArg _ (if_pos hb), congrArg _ (if_pos hb)⟩

end Sys2Proof.Machine

/-!
PROOFS. A GO, a CANCEL, an acceptance, an intermediate step and a write of an event head (O33).
-/

namespace Sys2Proof.Machine

/-! ### One mailbox of the table -/

/-- A mailbox changed to a value other than an unlisted one's holds that value. -/
theorem mbxAt_modMbx_value {s : State} {m : Nat} {f : Mbx → Mbx} (h : f (s.mbxAt m) ≠ default) :
    (s.modMbx m f).mbxAt m = f (s.mbxAt m) :=
  tget_tput_value h

theorem mbxAt_modMbx_other {s : State} {m n : Nat} (h : n ≠ m) (f : Mbx → Mbx) : (s.modMbx m f).mbxAt n = s.mbxAt n :=
  tget_tput_other h

theorem mbx_ne_default_of_req {b : Mbx} {r : MbxReq} (h : b.req = some r) : b ≠ default := by
  rintro rfl
  cases h

theorem mbx_ne_default_of_phase {b : Mbx} (h : b.phase ≠ .idle) : b ≠ default := by
  rintro rfl
  exact h rfl

/-! ### Acceptance -/

/-- R236: the checks at acceptance look at the issuer's kind and tenant, at the tables of regions and queues and at the
device state. -/
theorem acceptCheck_congr {s t : State} {m : Nat} (hk : (t.mbxAt m).kind = (s.mbxAt m).kind)
    (ht : (t.mbxAt m).tenant = (s.mbxAt m).tenant) (hb : t.bob = s.bob) (hp : t.pkg = s.pkg) (p : List Byte) :
    acceptCheck t m p = acceptCheck s m p := by
  have act : ∀ x, mayActOn t m x = mayActOn s m x := fun x => by simp only [mayActOn, hk, ht]
  have region : ∀ x, otherRegion t m x = otherRegion s m x := fun x => by
    have hr : handleRegion t x = handleRegion s x := by unfold handleRegion; rw [show t.regionAt = s.regionAt from by
      funext i; simp only [State.regionAt, hb]]
    simp only [otherRegion, hr, act]
  have queue : ∀ x, otherQueue t m x = otherQueue s m x := fun x => by simp only [otherQueue, State.queueAt, hb, act]
  have foreign : namesForeign t m p = namesForeign s m p := by
    simp only [namesForeign, foreignNamed, region, queue]
  simp only [acceptCheck, hk, foreign, hp]

/-- R236: without a torn byte the flyer reads the payload. -/
theorem acceptedPayload_of_whole {s : State} {m : Nat} (ht : (s.mbxAt m).torn = []) :
    acceptedPayload s m = getBytes (s.mbxAt m).payload 0 4096 := by
  simp only [acceptedPayload, ht, List.foldl_nil]

/-- R236: a mailbox's command leaves the order of GOs with its request. -/
def takeRequest (m us : Nat) (r : MbxReq) (s : State) : State :=
  (s.modFly fun f => { f with goOrder := f.goOrder.erase m, acceptMax := max f.acceptMax us }).modMbx m fun b =>
    { b with req := some r, stepsDone := 0, stepsTotal := 0, started := false }

theorem mbxAt_takeRequest (m us : Nat) (r : MbxReq) (s : State) : (takeRequest m us r s).mbxAt m =
    { s.mbxAt m with req := some r, stepsDone := 0, stepsTotal := 0, started := false } :=
  mbxAt_modMbx_value (s := s.modFly fun f => { f with goOrder := f.goOrder.erase m, acceptMax := max f.acceptMax us })
    (mbx_ne_default_of_req rfl)

/-- R237: a command that has been accepted, in progress. -/
def beginCommand (m steps : Nat) (s : State) : State :=
  s.modMbx m fun b => { b with phase := .inProgress, stepsTotal := max steps 1 }

/-- R239: a command of a class joins those that wait for it. -/
def joinClass (m : Nat) (r : MbxReq) (s : State) : State :=
  if cmdClass r.command = .none then s
  else s.modFly fun f => { f with classQ := f.classQ ++ [(cmdClass r.command, m)] }

theorem mbxAt_beginCommand {m steps : Nat} {s : State} {r : MbxReq} (h : (s.mbxAt m).req = some r) :
    (beginCommand m steps s).mbxAt m = { s.mbxAt m with phase := .inProgress, stepsTotal := max steps 1 } :=
  mbxAt_modMbx_value (mbx_ne_default_of_req h)

/-- R239: joining a class changes the flyer's record of classes alone. -/
theorem joinClass_shape (m : Nat) (r : MbxReq) (s : State) : ∃ q, joinClass m r s = s.modFly fun f => { f with classQ := q } := by
  unfold joinClass
  split
  · exact ⟨s.fly.classQ, rfl⟩
  · exact ⟨_, rfl⟩

/-- R236, R237: a command without a torn byte, a cancel request or a fault is in progress with its request. -/
theorem acceptMbx_of_good {m us steps : Nat} {p : List Byte} {s : State} (ht : (s.mbxAt m).torn = [])
    (hp : getBytes (s.mbxAt m).payload 0 4096 = p) (hc : (s.mbxAt m).cancelReq = false) (hok : acceptCheck s m p = none) :
    acceptMbx m us steps s =
      joinClass m (requestOf p) (beginCommand m steps (takeRequest m us (requestOf p) s)) := by
  have hpay : acceptedPayload s m = p := (acceptedPayload_of_whole ht).trans hp
  have hcheck : acceptCheck (takeRequest m us (requestOf p) s) m p = none :=
    (acceptCheck_congr (s := s) (t := takeRequest m us (requestOf p) s) (by rw [mbxAt_takeRequest])
      (by rw [mbxAt_takeRequest]) rfl rfl _).trans hok
  have hcancel : ((takeRequest m us (requestOf p) s).mbxAt m).cancelReq = false := by rw [mbxAt_takeRequest]; exact hc
  have hwhole : (if (s.mbxAt m).torn.isEmpty then s else s.drawFree.modMbx m fun b => { b with torn := [] }) = s :=
    if_pos (by rw [ht]; rfl)
  unfold acceptMbx
  rw [hpay, hwhole]
  refine (if_neg (by rw [← takeRequest, hcancel]; exact Bool.false_ne_true)).trans ?_
  rw [← takeRequest, hcheck]
  rfl

/-- Settles O33: the state of the mailbox, its request and the classes decide each branch; an acceptance leaves the command in
progress with its request. -/
theorem mailboxGoAcceptanceAndSteps : Obligations.MailboxGoAcceptanceAndSteps := by
  refine ⟨?_, ?_, ?_, ?_, ?_, ?_, ?_, ?_, ?_, ?_, ?_, ?_, ?_⟩
  · intro m s hup hk hph
    refine congrArg _ ((if_neg (by simp [hup])).trans (if_neg ?_))
    rcases hph with hph | hph <;> simp [hk, hph]
  · intro m s hup hbad
    refine congrArg _ ((if_neg (by simp [hup])).trans (if_pos ?_))
    rcases hbad with h | h | h <;> simp [h]
  · intro m s hup hph
    refine congrArg _ ((if_pos hup).trans ?_)
    simp only [cancelMbx, hph]
  · intro m s hup hph
    refine congrArg _ ((if_pos hup).trans ?_)
    rcases hph with hph | hph <;> simp only [cancelMbx, hph]
  · intro m r i s hup hph hw hr hi hc
    refine congrArg _ ((if_pos hup).trans ?_)
    simp [cancelMbx, hph, hw, hr, hi, hc]
  · intro m s hup hph hw
    refine congrArg _ ((if_pos hup).trans ?_)
    simp only [cancelMbx, hph, hw, if_true]
  · intro m r i s hup hph hw hr hi hc
    refine congrArg _ ((if_pos hup).trans ?_)
    simp [cancelMbx, hph, hw, hr, hi, hc]
  · intro us k m q s hq hf hb
    simp only [exec, execMbxAccept, hq]
    exact congrArg _ (if_pos (by simp [hf, hb]))
  · intro us k m q s hq hf hb ht hc hok
    have run : exec (.mbxAccept us k) s = .next (acceptMbx m us.toNat k.toNat s) := by
      simp only [exec, execMbxAccept, hq]
      exact congrArg _ (if_pos (by simp [hf, hb]))
    refine ⟨_, run.trans (congrArg _ (acceptMbx_of_good ht rfl hc hok)), ?_⟩
    generalize requestOf (getBytes (s.mbxAt m).payload 0 4096) = r
    obtain ⟨c, hjoin⟩ := joinClass_shape m r (beginCommand m k.toNat (takeRequest m us.toNat r s))
    have hreq : ((takeRequest m us.toNat r s).mbxAt m).req = some r := by rw [mbxAt_takeRequest]
    have hat : (joinClass m r (beginCommand m k.toNat (takeRequest m us.toNat r s))).mbxAt m =
        { s.mbxAt m with req := some r, stepsDone := 0, phase := .inProgress, stepsTotal := max k.toNat 1, started := false } := by
      rw [hjoin]
      exact (mbxAt_beginCommand hreq).trans (by rw [mbxAt_takeRequest])
    rw [hat]
    refine ⟨?_, rfl, rfl, rfl, rfl, ?_, ?_⟩ <;> rw [hjoin]
    · exact (congrArg (List.erase · m.val) hq).trans (List.erase_cons_head ..)
    · rfl
    · rfl
  · intro s h
    simp only [exec, execMailboxStep, h]
  · intro m s h hc
    simp only [exec, execMailboxStep, h, hc, Bool.false_eq_true, if_false]
  · intro m r s h hc hr
    simp [exec, execMailboxStep, h, hc, hr]
  · intro m v s hup h1 h2 h3
    refine congrArg _ (if_pos ?_)
    rw [Bool.and_eq_true, decide_eq_true_eq]
    exact ⟨hup, by omega⟩

end Sys2Proof.Machine

/-!
PROOFS. Mailbox commands take turns and end (O34).
-/

namespace Sys2Proof.Machine

/-! ### A command of the block that carries out a mailbox command -/

/-- R237, R239: the committing step of a mailbox command, unless it waits for the flash, for a buddy's answer, or for the
other phase of the debug unlock. -/
theorem exec_mbxCommand {c : Instr} {code : Nat} {m : MbxId} (h : mbxCommand c = some (code, m)) (s : State) :
    (∃ f, exec c s = .next (casbomi code m f s)) ∨
      (exec c s = .next s ∧ (s.res.job ≠ none ∨ s.res.buddyWait ≠ none ∨ code = 0x0093)) := by
  unfold mbxCommand at h
  split at h <;> cases h
  case h_27 =>
    by_cases hj : s.res.job = none
    · exact .inl ⟨_, next_of_free hj rfl⟩
    · exact .inr ⟨next_of_taken hj, .inl hj⟩
  case h_29 =>
    by_cases hw : s.res.buddyWait = none
    · exact .inl ⟨_, next_of_free hw rfl⟩
    · exact .inr ⟨next_of_taken hw, .inr (.inl hw)⟩
  case h_35 =>
    by_cases hp : ((s.mbxAt m).req.map fun r => fieldOf r.params 0 1) == some 0
    · exact .inl ⟨_, congrArg Host.Outcome.next (if_pos hp)⟩
    · exact .inr ⟨congrArg Host.Outcome.next (if_neg hp), .inr (.inr rfl)⟩
  case h_36 =>
    by_cases hp : ((s.mbxAt m).req.map fun r => fieldOf r.params 0 1) == some 0
    · exact .inr ⟨congrArg Host.Outcome.next (if_pos hp), .inr (.inr rfl)⟩
    · exact .inl ⟨_, congrArg Host.Outcome.next (if_neg hp)⟩
  all_goals exact .inl ⟨_, rfl⟩

/-- Where nothing is waited for, a mailbox command is its committing step. -/
theorem exec_mbxCommand_of_free {c : Instr} {code : Nat} {m : MbxId} (h : mbxCommand c = some (code, m)) {s : State}
    (hj : s.res.job = none) (hw : s.res.buddyWait = none) (hc : code ≠ 0x0093) :
    ∃ f, exec c s = .next (casbomi code m f s) := by
  rcases exec_mbxCommand h s with hf | ⟨-, h1 | h1 | h1⟩
  · exact hf
  · exact absurd hj h1
  · exact absurd hw h1
  · exact absurd h1 hc

theorem casbomi_of_cancelled {code m : Nat} {s : State} (f : MbxReq → State → State) (h : (mayStep s code m).isSome = true)
    (hc : (s.mbxAt m).cancelReq = true) : casbomi code m f s = failMbx m .eCancelled 0 (undoCommand code s) := by
  obtain ⟨r, hr⟩ := Option.isSome_iff_exists.mp h
  simp only [casbomi, hr, hc, if_true]

theorem casbomi_of_notAdmitted {code m : Nat} {s : State} (f : MbxReq → State → State)
    (h : (mayStep s code m).isSome = true) (hc : (s.mbxAt m).cancelReq = false) (ha : notAdmitted s code = true) :
    casbomi code m f s = failMbx m .eDeviceFailed 0 (countStep m s) := by
  obtain ⟨r, hr⟩ := Option.isSome_iff_exists.mp h
  simp only [casbomi, hr, hc, ha, Bool.false_eq_true, if_false, if_true]

/-! ### Completion -/

/-- R235: a mailbox whose command has completed with this reply. -/
def completedMbx (st : Status) (d : Nat) (r : MbxReq) (reply : List Byte) (b : Mbx) : Mbx :=
  { b with payload := putBytes b.payload 0 reply, replyLen := reply.length, detail := d % 2 ^ 32,
           status := st, answered := r.command, phase := .done, req := none, cancelReq := false, started := false }

/-- R235: the reply to a request: USER, then its fields, but for most failures. -/
def replyTo (st : Status) (r : MbxReq) (fields : List Byte) : List Byte :=
  leBytes 8 r.user ++ if st.failure && r.command != 0x0040 then [] else fields

theorem completeMbx_of_req {m : Nat} {r : MbxReq} {s : State} (h : (s.mbxAt m).req = some r) (st : Status) (d : Nat)
    (fields : List Byte) : ∃ v, completeMbx m st d fields s = sendVector v
      ((s.modMbx m (completedMbx st d r (replyTo st r fields))).modFly fun f =>
        { f with cmdCount := wrapInc 32 f.cmdCount, classQ := f.classQ.filter (fun e => e.2 != m),
                 taken := f.taken.erase m }) := by
  simp only [completeMbx, h]
  exact ⟨_, rfl⟩

theorem fly_completeMbx {m : Nat} {r : MbxReq} {s : State} (h : (s.mbxAt m).req = some r) (st : Status) (d : Nat)
    (fields : List Byte) : (completeMbx m st d fields s).fly =
      ((s.modMbx m (completedMbx st d r (replyTo st r fields))).modFly fun f =>
        { f with cmdCount := wrapInc 32 f.cmdCount, classQ := f.classQ.filter (fun e => e.2 != m),
                 taken := f.taken.erase m }).fly := by
  obtain ⟨v, hv⟩ := completeMbx_of_req h st d fields
  rw [hv, sendVector_fly]

theorem mbxAt_completeMbx {m : Nat} {r : MbxReq} {s : State} (h : (s.mbxAt m).req = some r) (st : Status) (d : Nat)
    (fields : List Byte) :
    (completeMbx m st d fields s).mbxAt m = completedMbx st d r (replyTo st r fields) (s.mbxAt m) := by
  rw [State.mbxAt, fly_completeMbx h]
  exact mbxAt_modMbx_value (mbx_ne_default_of_phase MbxPhase.noConfusion)

theorem mbxAt_completeMbx_other {m n : Nat} {r : MbxReq} {s : State} (h : (s.mbxAt m).req = some r) (hn : n ≠ m)
    (st : Status) (d : Nat) (fields : List Byte) : (completeMbx m st d fields s).mbxAt n = s.mbxAt n := by
  rw [State.mbxAt, fly_completeMbx h]
  exact mbxAt_modMbx_other hn _

/-- Settles O34: a mailbox command is its committing step, which `mayStep`, the cancel request and the device state decide;
a completion is one change of its mailbox and of the flyer's counts. -/
theorem mailboxCommandsTakeTurnsAndEnd : Obligations.MailboxCommandsTakeTurnsAndEnd := by
  refine ⟨?_, ?_, ?_, ?_⟩
  · intro c code m s h hstep
    rcases exec_mbxCommand h s with ⟨f, hf⟩ | ⟨hs, -⟩
    · exact hf.trans (congrArg _ (by simp only [casbomi, hstep]))
    · exact hs
  · intro c code m s h hstep hc hj hw hcode
    obtain ⟨f, hf⟩ := exec_mbxCommand_of_free h hj hw hcode
    exact hf.trans (congrArg _ (casbomi_of_cancelled f hstep hc))
  · intro c code m s h hstep hc ha hj hw hcode
    obtain ⟨f, hf⟩ := exec_mbxCommand_of_free h hj hw hcode
    exact hf.trans (congrArg _ (casbomi_of_notAdmitted f hstep hc ha))
  · intro m st d fields r s h t reply
    have hreply : reply = replyTo st r fields := by simp [reply, replyTo]
    have hm : t.mbxAt m = completedMbx st d r reply (s.mbxAt m) := by rw [hreply]; exact mbxAt_completeMbx h st d fields
    have hfly := fly_completeMbx h st d fields
    rw [hm]
    refine ⟨rfl, rfl, rfl, rfl, rfl, rfl, fun hw i hi => ?_, ?_, fun e he => ?_,
      fun n hn => mbxAt_completeMbx_other h hn st d fields, completeMbx_shape m st d fields s⟩
    · have := tget_putBytes_inside (a := 0) hi hw
      rw [Nat.zero_add] at this
      exact this.trans (List.getD_eq_getElem _ _ hi).symm
    · exact congrArg Fly.cmdCount hfly
    · have he' : e ∈ s.fly.classQ.filter fun e => e.2 != m := by
        rw [congrArg Fly.classQ hfly] at he
        exact he
      simpa using (List.mem_filter.mp he').2

end Sys2Proof.Machine

/-!
PROOFS. Heartbeats, the clusters' takeover, the watchdog and errors of flyer memory (O35).
-/

namespace Sys2Proof.Machine

/-! ### What posting changes of the flyer -/

/-- R244: of the flyer's record, posting an event changes the mailboxes alone. -/
theorem ringPost_fly (m source : Nat) (st : Status) (obj : Nat) (tenant : Option Nat) (data : List Byte) (s : State) :
    ∃ x, (ringPost m source st obj tenant data s).fly = { s.fly with mbx := x } := by
  unfold ringPost
  dsimp only
  split
  · exact ⟨_, rfl⟩
  · split
    · exact ⟨_, sendVector_fly ..⟩
    · exact ⟨_, rfl⟩

theorem postEvent_fly (source : Nat) (st : Status) (obj : Nat) (tenant : Option Nat) (data : List Byte) (s : State) :
    ∃ x, (postEvent source st obj tenant data s).fly = { s.fly with mbx := x } := by
  unfold postEvent
  split
  · exact ringPost_fly ..
  · exact ⟨s.fly.mbx, rfl⟩

theorem levelPost_fly (l : Levels) (s : State) : ∃ x, (levelPost l s).fly = { s.fly with mbx := x } := by
  unfold levelPost
  dsimp only
  split
  · exact ⟨s.fly.mbx, rfl⟩
  · split
    · exact postEvent_fly ..
    · split
      · exact postEvent_fly ..
      · exact ⟨s.fly.mbx, rfl⟩

theorem escalate_fly {l : Levels} (h : l.l4 = false) (s : State) : ∃ x, (escalate l s).fly = { s.fly with mbx := x } := by
  obtain ⟨x, hx⟩ := levelPost_fly l (s.modRes fun r =>
    { r with level2 := if l.l2 then wrapInc 16 r.level2 else r.level2,
             level3 := if l.l3 then wrapInc 16 r.level3 else r.level3
             recent2 := if l.l2 then r.recent2 ++ [0] else r.recent2
             recent3 := if l.l3 then r.recent3 ++ [0] else r.recent3 })
  exact ⟨x, (congrArg State.fly (if_neg (by simp [h]))).trans hx⟩

/-! ### Taking over -/

/-- R232: what a takeover leaves of the flyer, the package and the frame. -/
theorem takeOver_fields (row n : Nat) (s : State) :
    (takeOver row n s).fly.activeLd1 = true ∧ (takeOver row n s).fly.takeover = true ∧
    (takeOver row n s).fly.noStandby = true ∧ (takeOver row n s).fly.taken = [] ∧
    (takeOver row n s).fly.mirrored = s.fly.mirrored ∧ (takeOver row n s).pkg = s.pkg ∧
    (takeOver row n s).frm = (if flyerStepOpen s then (noteHold 0x80 s).frm else s.frm) := by
  let u := (if flyerStepOpen s then noteHold 0x80 s else s).modFly fun f =>
    { f with activeLd1 := true, takeover := true, noStandby := true, taken := []
             scrubDue := if f.scrubDue.contains 1 then [0] else [] }
  let l : Levels := { row := row, count := n, l3 := true, own := some (0x01, .sFlyerTakeover, 0xFFFFFFFF) }
  obtain ⟨x, hx⟩ := escalate_fly (l := l) rfl u
  have hfly : (takeOver row n s).fly = { u.fly with mbx := x } := hx
  have hmirrored : u.fly.mirrored = s.fly.mirrored := by
    simp only [u]
    split <;> rfl
  have hpkg : u.pkg = s.pkg := by
    simp only [u]
    split <;> rfl
  have hfrm : u.frm = if flyerStepOpen s then (noteHold 0x80 s).frm else s.frm := by
    simp only [u]
    split <;> rfl
  rw [hfly]
  exact ⟨rfl, rfl, rfl, rfl, hmirrored, (escalate_pkg l u rfl).trans hpkg, (escalate_frm l u rfl).trans hfrm⟩

/-! ### Windows -/

theorem winCount_winBump_other {row sub obj row' sub' obj' : Nat} (h : winKey row' sub' obj' ≠ winKey row sub obj)
    (s : State) : winCount (winBump row sub obj s) row' sub' obj' = winCount s row' sub' obj' :=
  tget_tput_other h

/-- R248: both windows of row 23 count the watchdog's expiry without a standby. -/
theorem winCount_watchdog (s : State) : winCount (winBump 23 1 0 (winBump 23 0 0 s)) 23 1 0 = winCount s 23 1 0 + 1 := by
  rw [winCount_winBump, winCount_winBump_other (by decide)]

/-! ### Errors of flyer memory -/

/-- R248: an error of the standby's memory changes neither the package, the frame nor the clusters' roles. -/
theorem sramError_of_standby (bad : Bool) (s : State) : let t := sramError false bad s
    t.pkg = s.pkg ∧ t.frm = s.frm ∧ t.fly.noStandby = s.fly.noStandby ∧ t.fly.activeLd1 = s.fly.activeLd1 := by
  intro t
  obtain ⟨l, u, h4, ht, hp, hf, hn, ha⟩ : ∃ (l : Levels) (u : State), l.l4 = false ∧ t = escalate l u ∧ u.pkg = s.pkg ∧
      u.frm = s.frm ∧ u.fly.noStandby = s.fly.noStandby ∧ u.fly.activeLd1 = s.fly.activeLd1 := by
    simp only [t, sramError, Bool.false_and, Bool.false_eq_true, if_false]
    generalize (if false = s.fly.activeLd1 then 1 else 0) = key
    refine ⟨_, _, ?_, rfl, ?_, ?_, ?_, ?_⟩
    · rfl
    all_goals split <;> rfl
  obtain ⟨x, hx⟩ := escalate_fly h4 u
  rw [ht, hx, escalate_pkg l u h4, escalate_frm l u h4]
  exact ⟨hp, hf, hn, ha⟩

/-- R248: the register of the active cluster's uncorrectable memory errors. -/
def activeKey (s : State) : Nat :=
  if true = s.fly.activeLd1 then 1 else 0

theorem sramError_of_active_alone {s : State} (hn : s.fly.noStandby = true) : sramError true true s =
    let u := winBump 24 1 (activeKey s) s
    triggerReset .package .sramError (escalate { row := 24, obj := activeKey s, count := winCount u 24 1 (activeKey s) } u) := by
  simp [sramError, hn, bit, activeKey]

theorem sramError_of_active_standby {s : State} (hn : s.fly.noStandby = false) : sramError true true s =
    let u := winBump 24 1 (activeKey s) s
    takeOver 24 (winCount u 24 1 (activeKey s)) u := by
  simp [sramError, hn, bit, activeKey]

/-- Settles O35: the flyer's state, the standby and the windows of row 23 decide each branch; a takeover posts and counts, and
changes the roles alone. -/
theorem flyerClusterEvents : Obligations.FlyerClusterEvents := by
  refine ⟨fun s h => congrArg _ (if_pos h), ?_, takeOver_fields, ?_, ?_, ?_, ?_, ?_, ?_, ?_⟩
  · intro s hf hn
    have hboth : (s.pkg.flyerRuns && !s.fly.noStandby) = true := by simp [hf, hn]
    exact ⟨congrArg _ (if_pos hboth), congrArg _ (if_pos hboth)⟩
  · intro s h
    refine congrArg _ (if_neg ?_)
    rcases h with h | h <;> simp [h]
  · intro s hf hn h0
    refine congrArg _ ((if_neg (by simp [hn])).trans ((if_pos (by simp [hf])).trans (if_neg ?_)))
    rw [winCount_watchdog, h0]
    decide
  · intro s hf hn h1
    refine ⟨_, congrArg Host.Outcome.next ((if_neg (by simp [hn])).trans ((if_pos (by simp [hf])).trans (if_pos ?_))), ?_⟩
    · rw [winCount_watchdog]
      omega
    · exact escalate_failed rfl _
  · exact fun s h => congrArg _ (if_neg (by simp [h]))
  · intro s hf hn hreset
    refine ⟨_, congrArg Host.Outcome.next ((if_pos hf).trans (sramError_of_active_alone hn)), ?_⟩
    dsimp only
    rw [escalate_of_level1 _ rfl rfl rfl, levelPost_of_unposted _ rfl rfl rfl, triggerReset_of_heavier]
    · rfl
    · exact fun d hd => Nat.not_le.mpr (hreset d hd)
  · intro s hf hn
    refine ⟨_, congrArg Host.Outcome.next ((if_pos hf).trans (sramError_of_active_standby hn)), ?_⟩
    obtain ⟨hactive, -, hstandby, -, -, hpkg, -⟩ := takeOver_fields 24
      (winCount (winBump 24 1 (activeKey s) s) 24 1 (activeKey s)) (winBump 24 1 (activeKey s) s)
    exact ⟨hactive, hstandby, hpkg⟩
  · exact fun bad s hf => ⟨_, congrArg Host.Outcome.next (if_pos hf), sramError_of_standby bad s⟩

end Sys2Proof.Machine

/-!
PROOFS. What accesses to memory leave alone beside the bytes that they store to.
-/

namespace Sys2Proof.Machine

/-! ### The parts beside memory -/

/-- Every part but memory, the tables in it and what waits in a queue or a latch is set aside. -/
structure Quiet (w : Parts) : Prop extends Aside w where
  pkg : w.pkg = true
  spn : w.spn = true
  vec : w.vec = true
  hnk : w.hnk = true
  vis : w.vis = true
  skn : w.skn = true
  pwr : w.pwr = true
  thm : w.thm = true
  tst : w.tst = true
  mdl : w.mdl = true

/-- Memory, its undefined contents and the tables in it, and what waits in a queue or a latch. -/
def memoryKept : Parts :=
  { out := true, free := true, win := true, frm := true, hp := true, fly := true, opt := true, fab := true, top := true,
    res := true, sec := true, tags := true, pkg := true, spn := true, vec := true, hnk := true, vis := true, skn := true,
    pwr := true, thm := true, tst := true, mdl := true }

theorem quiet_memoryKept : Quiet memoryKept :=
  { out := rfl, free := rfl, win := rfl, frm := rfl, hp := rfl, fly := rfl, opt := rfl, fab := rfl, top := rfl, res := rfl,
    sec := rfl, tags := rfl, pkg := rfl, spn := rfl, vec := rfl, hnk := rfl, vis := rfl, skn := rfl, pwr := rfl, thm := rfl,
    tst := rfl, mdl := rfl }

section
variable {s t : State} (h : t.beside memoryKept = s.beside memoryKept)
include h

theorem mem_of_beside : t.mem = s.mem :=
  (congrArg State.mem h : (t.beside memoryKept).mem = (s.beside memoryKept).mem)

theorem undef_of_beside : t.undef = s.undef :=
  (congrArg State.undef h : (t.beside memoryKept).undef = (s.beside memoryKept).undef)

theorem queue_of_beside : t.bob.queue = s.bob.queue :=
  (congrArg (fun x : State => x.bob.queue) h : (t.beside memoryKept).bob.queue = (s.beside memoryKept).bob.queue)

theorem region_of_beside : t.bob.region = s.bob.region :=
  (congrArg (fun x : State => x.bob.region) h : (t.beside memoryKept).bob.region = (s.beside memoryKept).bob.region)

/-- What leaves memory and its tables alone leaves every byte as it reads. -/
theorem readByte_of_beside (x : Nat) : readByte t x = readByte s x :=
  readByte_congr (mem_of_beside h) (undef_of_beside h) (queue_of_beside h) (region_of_beside h) x

end

/-- The host port, what goes out of the device and the free values are set aside. -/
structure HostSide (w : Parts) : Prop where
  hp : w.hp = true
  out : w.out = true
  free : w.free = true

section
variable {w : Parts} (h : HostSide w)
include h

/-! ### The spill agent -/

@[simp] theorem agentEvict_beside (line : Nat) (s : State) : (agentEvict line s).beside w = s.beside w := by
  unfold agentEvict
  dsimp only
  split
  · rfl
  · split
    · simp [h.hp, h.out]
    · split
      · simp [h.hp]
      · split <;> simp [h.hp, h.out, h.free]

@[simp] theorem agentRoom_beside (line : Nat) (s : State) : (agentRoom line s).beside w = s.beside w := by
  simp [agentRoom, h, h.free]

@[simp] theorem agentAsk_beside (who : Option Client) (m : SpillMiss) (s : State) :
    (agentAsk who m s).beside w = s.beside w := by
  unfold agentAsk
  extract_lets old asked s1 l s2
  have h1 : s1.beside w = s.beside w := by simp [s1, h]
  have h2 : s2.beside w = s.beside w := by simp [s2, h1, h.hp]
  split
  · rfl
  · split <;> simp [h2, h.out]

@[simp] theorem agentAskAll_beside (who : Option Client) (ms : List SpillMiss) (s : State) :
    (agentAskAll who ms s).beside w = s.beside w := by
  induction ms generalizing s with
  | nil => rfl
  | cons m ms ih => simp [agentAskAll, ih, h]

@[simp] theorem agentTouch_beside (line : Nat) (write full : Bool) (s : State) :
    (agentTouch line write full s).beside w = s.beside w := by
  unfold agentTouch
  split
  · simp [agentTake, h.hp]
  · split <;> simp [agentFetch, h, h.hp]

@[simp] theorem touchSpilled_beside (write : Bool) (a n : Nat) (bs : List Nat) (s : State) :
    (touchSpilled write a n bs s).beside w = s.beside w := by
  induction bs generalizing s with
  | nil => rfl
  | cons b bs ih => simp [touchSpilled, ih, h]

@[simp] theorem forgetSpill_beside (p : Client → Bool) (s : State) : (forgetSpill p s).beside w = s.beside w := by
  simp [forgetSpill, h.hp]

@[simp] theorem noteSpill_beside (st : Status) (s : State) : (noteSpill st s).beside w = s.beside w := by
  simp [noteSpill, h.hp]

end

section
variable {w : Parts} (h : Quiet w)
include h

@[simp] theorem Quiet.pkg_eq : w.pkg = true := h.pkg
@[simp] theorem Quiet.spn_eq : w.spn = true := h.spn
@[simp] theorem Quiet.vec_eq : w.vec = true := h.vec
@[simp] theorem Quiet.hnk_eq : w.hnk = true := h.hnk
@[simp] theorem Quiet.vis_eq : w.vis = true := h.vis
@[simp] theorem Quiet.skn_eq : w.skn = true := h.skn
@[simp] theorem Quiet.pwr_eq : w.pwr = true := h.pwr
@[simp] theorem Quiet.thm_eq : w.thm = true := h.thm
@[simp] theorem Quiet.tst_eq : w.tst = true := h.tst
@[simp] theorem Quiet.mdl_eq : w.mdl = true := h.mdl

@[simp] theorem Quiet.hostSide : HostSide w := ⟨h.hp, h.out, h.free⟩

/-! ### Errors and their levels -/

@[simp] theorem setDevState_beside (d : DevState) (s : State) : (setDevState d s).beside w = s.beside w := by
  simp [setDevState, h, h.toAside]

@[simp] theorem enterFailed_beside (way : WayOut) (st : Status) (s : State) :
    (enterFailed way st s).beside w = s.beside w := by
  simp [enterFailed, h, h.toAside]

/-- R370: at every level. -/
@[simp] theorem escalate_quiet (l : Levels) (s : State) : (escalate l s).beside w = s.beside w := by
  simp [escalate, h, h.toAside]

@[simp] theorem clientError_beside (c : Client) (st : Status) (s : State) :
    (clientError c st s).beside w = s.beside w := by
  cases c <;> simp [clientError, h.toAside]

@[simp] theorem clientsError_beside (st : Status) (cs : List Client) (s : State) :
    (clientsError st cs s).beside w = s.beside w := by
  induction cs generalizing s with
  | nil => rfl
  | cons c cs ih => simp [clientsError, ih, h]

@[simp] theorem stepError_beside (i : Nat) (st : Status) (d : Nat) (s : State) :
    (stepError i st d s).beside w = s.beside w := by
  simp [stepError, h.toAside]

@[simp] theorem localCorrected_beside (die b k : Nat) (s : State) : (localCorrected die b k s).beside w = s.beside w := by
  simp [localCorrected, h, h.toAside]

@[simp] theorem localUncorrectable_beside (die : Nat) (s : State) : (localUncorrectable die s).beside w = s.beside w := by
  simp [localUncorrectable, h, h.toAside]

/-! ### Uncorrectable blocks and lost hanks -/

@[simp] theorem endHeld_beside (st : Status) (s : State) : (endHeld st s).beside w = s.beside w := by
  unfold endHeld
  rw [foldl_keeps (State.beside · w) _ (fun _ _ => clientError_beside h ..), modHnk_beside h.hnk]

@[simp] theorem loseHank_beside (i : Nat) (s : State) : (loseHank i s).beside w = s.beside w := by
  simp [loseHank, h, h.toAside]

@[simp] theorem recordUe_beside (block : Nat) (s : State) : (recordUe block s).beside w = s.beside w := by
  simp [recordUe, h, h.toAside]

@[simp] theorem recordUes_beside (bs : List Nat) (s : State) : (recordUes bs s).beside w = s.beside w := by
  induction bs generalizing s with
  | nil => rfl
  | cons b bs ih => simp [recordUes, ih, h]

/-! ### Cells of the compute dies -/

@[simp] theorem meetWords_beside (ws : List Nat) (r : Bool × State) : (meetWords ws r).2.beside w = r.2.beside w := by
  induction ws generalizing r with
  | nil => rfl
  | cons x xs ih =>
    unfold meetWords
    dsimp only
    split <;> simp [ih, h]

@[simp] theorem freshWords_beside (a n : Nat) (s : State) : (freshWords a n s).beside w = s.beside w := by
  simp [freshWords, h]

@[simp] theorem applyCells_beside (c : CellFaults) (s : State) : (applyCells c s).beside w = s.beside w := by
  unfold applyCells
  rw [foldl_keeps (State.beside · w) _ (fun _ _ => modRlc_beside h.vis ..),
    foldl_keeps (State.beside · w) _ (fun _ _ => modVis_beside h.vis ..)]

/-! ### The write-merging buffers -/

@[simp] theorem wmbFlush_beside (e : WmbEntry) (s : State) : (wmbFlush e s).beside w = s.beside w := by
  simp [wmbFlush, h]

@[simp] theorem wmbFlushBlock_beside (block : Nat) (s : State) : (wmbFlushBlock block s).beside w = s.beside w := by
  unfold wmbFlushBlock
  split <;> simp [h]

@[simp] theorem wmbFlushAll_beside (bs : List Nat) (s : State) : (wmbFlushAll bs s).beside w = s.beside w := by
  induction bs generalizing s with
  | nil => rfl
  | cons b bs ih => simp [wmbFlushAll, ih, h]

@[simp] theorem wmbMerge_beside (c : Client) (block a n : Nat) (s : State) :
    (wmbMerge c block a n s).beside w = s.beside w := by
  unfold wmbMerge
  extract_lets ch old full s1 mask had new s2
  have h1 : s1.beside w = s.beside w := by
    unfold s1
    split
    · cases full.head? <;> simp [h]
    · rfl
  have h2 : s2.beside w = s.beside w := by simp [s2, h, h1]
  split <;> simp [h, h2]

/-! ### Reads -/

@[simp] theorem memRead_beside (a n : Nat) (s : State) : (memRead a n s).s.beside w = s.beside w := by
  unfold memRead
  split
  · simp [h]
  · dsimp only
    split <;> simp [h]

@[simp] theorem narrowRead_beside (a n : Nat) (s : State) : (narrowRead a n s).s.beside w = s.beside w := by
  simp [narrowRead, h]

@[simp] theorem narrowSpan_beside (a n : Nat) (s : State) : (narrowSpan a n s).s.beside w = s.beside w := by
  simp [narrowSpan, h]

@[simp] theorem takeLost_beside (c : Client) (a n : Nat) (s : State) : (takeLost c a n s).2.beside w = s.beside w := by
  unfold takeLost
  dsimp only
  split <;> simp [h]

@[simp] theorem fabricRead_beside (a n : Nat) (s : State) : (fabricRead a n s).s.beside w = s.beside w := by
  unfold fabricRead
  dsimp only
  split <;> simp [h]

/-! ### Writes, up to their bytes -/

@[simp] theorem streamBlock_beside (c : Client) (block a n : Nat) (s : State) :
    (streamBlock c block a n s).beside w = s.beside w := by
  simp [streamBlock, h]

@[simp] theorem streamBlocks_beside (c : Client) (a n : Nat) (bs : List Nat) (s : State) :
    (streamBlocks c a n bs s).beside w = s.beside w := by
  induction bs generalizing s with
  | nil => rfl
  | cons b bs ih => simp [streamBlocks, ih, h]

@[simp] theorem noteWrite_beside (c : Client) (a n : Nat) (s : State) : (noteWrite c a n s).beside w = s.beside w := by
  cases c <;> simp [noteWrite, h.toAside]

@[simp] theorem blocksFail_beside (bs : List Nat) (s : State) : (blocksFail bs s).beside w = s.beside w := by
  induction bs generalizing s with
  | nil => rfl
  | cons b bs ih => simp [blocksFail, ih, h]

@[simp] theorem countCorrected_beside (bs : List Nat) (s : State) : (countCorrected bs s).beside w = s.beside w := by
  induction bs generalizing s with
  | nil => rfl
  | cons b bs ih => simp [countCorrected, stackCorrected, ih, h.toAside]

@[simp] theorem noteCells_beside (a : MemAccess) (s : State) : (noteCells a s).beside w = s.beside w := by
  simp [noteCells, h]

end

end Sys2Proof.Machine

/-!
PROOFS. Doorbells and the selection of commands (O40).
-/

namespace Sys2Proof.Machine

/-! ### Queues and tags -/

theorem queueAt_modQueue_value {s : State} {i : Nat} {f : Queue → Queue} (h : f (s.queueAt i) ≠ default) :
    (s.modQueue i f).queueAt i = f (s.queueAt i) :=
  tget_tput_value h

theorem tagAt_modTag_value {s : State} {i : Nat} {f : Option Cmd → Option Cmd} (h : f (s.tagAt i) ≠ none) :
    (s.modTag i f).tagAt i = f (s.tagAt i) :=
  tget_tput_value h

theorem queue_ne_default {q : Queue} (h : q.cls ≠ .unused) : q ≠ default := by
  rintro rfl
  exact h rfl

theorem used_of_headReadable {s : State} {q : Queue} (h : headReadable s q = true) : q.cls ≠ .unused := by
  intro hcls
  simp [headReadable, hcls] at h

/-- R200: ending a command that has not ended gives it its result. -/
theorem tagAt_endCommand {tag : Nat} {c : Cmd} {s : State} (hc : s.tagAt tag = some c) (hopen : c.result = none)
    (st : Status) (v d : Nat) :
    (endCommand tag st v d s).tagAt tag = some { c with result := some st, value := v, detail := d } := by
  simp only [endCommand, hc, hopen, Option.isSome_none, Bool.false_eq_true, if_false]
  exact tget_tput_value (Option.some_ne_none _)

theorem queueAt_endCommand (tag : Nat) (st : Status) (v d : Nat) (s : State) (i : Nat) :
    (endCommand tag st v d s).queueAt i = s.queueAt i := by
  unfold endCommand
  split
  · rfl
  · split <;> rfl

/-! ### A head entry that is consumed -/

/-- The queue that `consumeHead` leaves. -/
def headConsumed (q : Queue) : Queue :=
  let q := { q with head := wrapInc 32 q.head }
  if ringUsed q = 0 then { q with credit := 0 } else q

@[simp] theorem headConsumed_cls (q : Queue) : (headConsumed q).cls = q.cls :=
  (apply_ite Queue.cls ..).trans (ite_self _)

@[simp] theorem headConsumed_head (q : Queue) : (headConsumed q).head = wrapInc 32 q.head :=
  (apply_ite Queue.head ..).trans (ite_self _)

theorem queueAt_consumeHead {i : Nat} {s : State} (h : (s.queueAt i).cls ≠ .unused) :
    (consumeHead i s).queueAt i = headConsumed (s.queueAt i) :=
  queueAt_modQueue_value (f := headConsumed) (queue_ne_default (by simpa using h))

theorem head_consumeHead {i : Nat} {s : State} (h : (s.queueAt i).cls ≠ .unused) :
    ((consumeHead i s).queueAt i).head = wrapInc 32 (s.queueAt i).head := by
  rw [queueAt_consumeHead h, headConsumed_head]

theorem head_takeTag {tag i : Nat} {e : List Byte} {s : State} (h : (s.queueAt i).cls ≠ .unused) :
    ((takeTag tag i e s).queueAt i).head = (s.queueAt i).head := by
  have heq : (takeTag tag i e s).queueAt i = { s.queueAt i with inflight := (s.queueAt i).inflight + 1 } :=
    queueAt_modQueue_value (s := s.modTag tag _) (f := fun q => { q with inflight := q.inflight + 1 }) (queue_ne_default h)
  rw [heq]

theorem tagAt_takeTag (tag i : Nat) (e : List Byte) (s : State) :
    (takeTag tag i e s).tagAt tag =
      some { queue := i, epoch := (s.queueAt i).epoch, entry := e, wroteEpoch := epochWritten s e } :=
  tagAt_modTag_value (s := s) (f := fun _ => some _) (Option.some_ne_none _)

/-- R433: what `startBad` leaves of the command, the queue and memory. -/
theorem startBad_spec {tag i : Nat} {s : State} (h : (s.queueAt i).cls ≠ .unused) :
    (∃ c, (startBad tag i s).tagAt tag = some c ∧ c.result = some .eDataError ∧ c.ringError = true) ∧
    ((startBad tag i s).queueAt i).head = wrapInc 32 (s.queueAt i).head ∧ (startBad tag i s).mem = s.mem := by
  unfold startBad
  extract_lets u v
  have hkept : u.beside memoryKept = s.beside memoryKept := recordUe_beside quiet_memoryKept ..
  have hq : u.queueAt i = s.queueAt i := congrArg (tget · i) (queue_of_beside hkept)
  have hused : ((consumeHead i u).queueAt i).cls ≠ .unused := by
    rw [queueAt_consumeHead (hq ▸ h), headConsumed_cls, hq]
    exact h
  clear_value u
  obtain ⟨c, htag, hopen⟩ : ∃ c, v.tagAt tag = some c ∧ c.result = none := ⟨_, tagAt_takeTag .., rfl⟩
  have hvmem : v.mem = u.mem := rfl
  have hv : (v.queueAt i).head = ((consumeHead i u).queueAt i).head := head_takeTag hused
  clear_value v
  have hmarked : ∀ f : Cmd → Cmd, (v.modTag tag fun o => o.map f).tagAt tag = (v.tagAt tag).map f :=
    fun f => tagAt_modTag_value (by simp [htag])
  refine ⟨?_, ?_, ?_⟩
  · have hc := (hmarked fun c => { c with ringError := true, wroteEpoch := 0 }).trans (by rw [htag, Option.map_some])
    exact ⟨_, tagAt_endCommand hc hopen .., rfl, rfl⟩
  · rw [queueAt_endCommand, show (v.modTag tag _).queueAt i = v.queueAt i from rfl, hv, head_consumeHead (hq ▸ h), hq]
  · rw [endCommand_mem]
    exact hvmem.trans (mem_of_beside hkept)

/-- Settles O40: the BAR, the doorbell's cause, the free tag and the queue selected decide each branch. -/
theorem doorbellsAndCommandSelection : Obligations.DoorbellsAndCommandSelection := by
  refine ⟨?_, ?_, ?_, ?_, ?_, ?_, ?_, ?_, ?_, ?_⟩
  · exact fun p v s h => congrArg _ (if_pos h)
  · exact fun p v lo s h => ⟨congrArg _ (if_neg (by simp [h])), congrArg _ (if_neg (by simp [h]))⟩
  · exact fun p lo hi s h hcause => congrArg _ ((if_pos h).trans (if_pos hcause))
  · intro p lo hi s h hcause n q
    have run : exec (.doorbell p (some lo) hi) s = .next (commitDoorbell p.toNat lo.toNat hi.toNat s) :=
      congrArg Host.Outcome.next (if_pos h)
    refine ⟨fun hq => run.trans (congrArg _ ?_), fun hq => run.trans (congrArg _ ?_)⟩
    · exact (if_neg (not_not.mpr hcause)).trans (if_neg (show ¬q.cls = .request by rw [hq]; decide))
    · exact (if_neg (not_not.mpr hcause)).trans (if_pos hq)
  · exact fun p hi s h => congrArg _ (if_pos h)
  · intro s h
    simp only [exec, execCommandSelect]
    cases htag : freeCommandTag s with
    | none => rfl
    | some tag =>
      have hstill : commandsRun s = false := by
        simpa [commandsRun, htag, imp_iff_not_or, or_comm, or_assoc, or_left_comm] using h
      exact congrArg _ (if_pos (by rw [hstill]; rfl))
  · intro tag u s htag hrun hsel
    simp only [exec, execCommandSelect, htag, hrun, hsel, Bool.not_true, Bool.false_eq_true, if_false]
  · intro tag i u s htag hrun hsel
    have run : exec .commandSelect s = .next (startCommand tag i u) := by
      simp only [exec, execCommandSelect, htag, hrun, hsel, Bool.not_true, Bool.false_eq_true, if_false]
    rw [run]
    refine ⟨fun hbad => congrArg _ (if_pos hbad), fun hgood => ?_⟩
    intro e v
    refine ⟨fun st d hcheck => ?_, fun hcheck => ?_⟩ <;>
    · refine congrArg _ ((if_neg (show ¬headBad u (u.queueAt i) = true by simp [hgood])).trans ?_)
      simp only [show commandCheck (takeTag tag i (headEntry u (u.queueAt i)) (consumeHead i u)) (u.queueAt i).tenant
        (headEntry u (u.queueAt i)) = _ from hcheck]
      rfl
  · intro q tag s htag hrun hread hbad
    refine ⟨startBad tag q s, ?_, startBad_spec (used_of_headReadable hread)⟩
    simp only [exec, execRow, htag, hrun, hread, hbad, Bool.and_self, if_true]
  · intro q s h
    simp only [exec, execRow]
    cases htag : freeCommandTag s with
    | none => rfl
    | some tag =>
      have hstill : (commandsRun s && headReadable s (s.queueAt q) && headBad s (s.queueAt q)) = false := by
        simp only [htag, reduceCtorEq, false_or] at h
        rcases h with h | h | h <;> simp [h]
      exact congrArg _ (if_neg (by rw [hstill]; decide))

end Sys2Proof.Machine

/-!
PROOFS. What accesses to memory write and read, up to the records that they keep.
-/

namespace Sys2Proof.Machine

/-! ### The bytes written -/

theorem writeBytes_beside_memoryKept (a : Nat) (bs : List Byte) (s : State) :
    (writeBytes a bs s).beside memoryKept = writeBytes a bs (s.beside memoryKept) := by
  unfold writeBytes
  split <;> rfl

/-- `t` is `s` with bytes written at `a`, up to the records outside memory and its tables. -/
def Wrote (a : Nat) (bs : List Byte) (s t : State) : Prop :=
  t.beside memoryKept = (writeBytes a bs s).beside memoryKept

theorem wrote_writeBytes (a : Nat) (bs : List Byte) (s : State) : Wrote a bs s (writeBytes a bs s) := rfl

section
variable {a : Nat} {bs : List Byte} {s t u : State}

theorem Wrote.after (h : Wrote a bs s t) (ht : u.beside memoryKept = t.beside memoryKept) : Wrote a bs s u :=
  Eq.trans ht h

theorem Wrote.before (h : Wrote a bs u t) (hu : u.beside memoryKept = s.beside memoryKept) : Wrote a bs s t := by
  unfold Wrote at h ⊢
  rw [h, writeBytes_beside_memoryKept, hu, ← writeBytes_beside_memoryKept]

theorem Wrote.mem (h : Wrote a bs s t) : t.mem = (writeBytes a bs s).mem :=
  mem_of_beside h

theorem Wrote.wf (h : Wrote a bs s t) (hw : Memory.wf s.mem = true) : Memory.wf t.mem = true :=
  h.mem ▸ writeBytes_wf hw

theorem Wrote.queueAt (h : Wrote a bs s t) (i : Nat) : t.queueAt i = s.queueAt i := by
  refine congrArg (tget · i) ((queue_of_beside h).trans ?_)
  rw [writeBytes_shape]

/-- A byte that is not written reads as before. -/
theorem Wrote.outside (h : Wrote a bs s t) {x : Nat} (hx : x < a ∨ a + bs.length ≤ x) : readByte t x = readByte s x :=
  (readByte_of_beside h x).trans (readByte_writeBytes_outside s hx)

/-- Bytes written outside the tables read back. -/
theorem Wrote.readBytes (h : Wrote a bs s t) (hw : Memory.wf s.mem = true)
    (ht : ∀ i, i < bs.length → tableByte s (a + i) = none) : readBytes t a bs.length = bs :=
  (readBytes_congr fun i _ => readByte_of_beside h (a + i)).trans (readBytes_writeBytes_same hw ht)

end

/-! ### Writes -/

theorem spillHpa_of_unspilled {s : State} (h : s.hp.spill = []) (x : Nat) : spillHpa s x = none := by
  simp [spillHpa, h, tget, show (default : Option Nat) = none from rfl]

section
variable {a : Nat} {bs : List Byte} {s : State}

theorem memWriteAs_of_accepted (c : Client) (h : accessRefused s a bs.length = none) :
    (memWriteAs c a bs s).err = none ∧ Wrote a bs s (memWriteAs c a bs s).s := by
  unfold memWriteAs
  rw [h]
  exact ⟨rfl, (wrote_writeBytes ..).before (by simp [quiet_memoryKept])⟩

theorem memWrite_of_accepted (h : accessRefused s a bs.length = none) :
    (memWrite a bs s).err = none ∧ Wrote a bs s (memWrite a bs s).s :=
  memWriteAs_of_accepted .flyer h

/-- R224: without a spilled zone, no loss and no stop every access is let through. -/
theorem accessRefused_of_plain (hspill : s.hp.spill = []) (hlost : s.hnk.lost = none) (hstop : s.hnk.stopped = false)
    (hserving : s.hp.serving = none) (a n : Nat) : accessRefused s a n = none := by
  simp [accessRefused, spillError, hlost, hstop, hserving, spillHpa_of_unspilled hspill]

end

/-! ### Plain accesses: no spilled zone, no merging entry, correct blocks and words -/

theorem touchSpilled_of_unspilled {s : State} (h : s.hp.spill = []) (write : Bool) (a n : Nat) (bs : List Nat) :
    touchSpilled write a n bs s = s := by
  induction bs with
  | nil => rfl
  | cons b bs ih => simpa [touchSpilled, spillHpa_of_unspilled h] using ih

theorem wmbFlushBlock_of_unmerged {s : State} (h : s.hnk.wmb = []) (block : Nat) : wmbFlushBlock block s = s := by
  simp [wmbFlushBlock, h]

theorem wmbFlushAll_of_unmerged {s : State} (h : s.hnk.wmb = []) (bs : List Nat) : wmbFlushAll bs s = s := by
  induction bs with
  | nil => rfl
  | cons b bs ih => rw [wmbFlushAll, wmbFlushBlock_of_unmerged h, ih]

/-- A range within a block touches that block alone. -/
theorem blocksOf_within {a n : Nat} (hn : 0 < n) (h : (a + n - 1) / 64 = a / 64) : blocksOf a n = [a / 64] := by
  simp [blocksOf, h, Nat.ne_of_gt hn]

theorem memRead_of_good {a n : Nat} {s : State} (hspill : s.hp.spill = []) (h : accessRefused s a n = none)
    (hue : ∀ b ∈ blocksOf a n, isUe s b = false) (hw : faultyWords s a n = []) :
    memRead a n s = { bytes := readBytes s a n, s := s } := by
  have hbad : (blocksOf a n).filter (fun b => isUe s b && (spillHpa s (64 * b)).isNone) = [] :=
    List.filter_eq_nil_iff.mpr fun b hb => by simp [hue b hb]
  simp [memRead, h, hbad, touchSpilled_of_unspilled hspill, hw, meetWords]

theorem narrowRead_of_good {a n : Nat} {s : State} (hspill : s.hp.spill = []) (hwmb : s.hnk.wmb = [])
    (h : accessRefused s a n = none) (hue : ∀ b ∈ blocksOf a n, isUe s b = false) (hw : faultyWords s a n = []) :
    narrowRead a n s = { bytes := readBytes s a n, s := s } := by
  rw [narrowRead, wmbFlushBlock_of_unmerged hwmb, ite_self, memRead_of_good hspill h hue hw]

/-- A narrow write to a correct block writes its bytes. -/
theorem narrowWrite_of_good {a : Nat} {bs : List Byte} {s : State} (hspill : s.hp.spill = []) (hwmb : s.hnk.wmb = [])
    (h : accessRefused s a bs.length = none) (hue : isUe s (a / 64) = false) :
    narrowWrite a bs s = { s := writeBytes a bs (if isHank a then s else freshWords a bs.length s) } := by
  cases hhank : isHank a <;> simp [narrowWrite, h, hhank, spillHpa_of_unspilled hspill, wmbFlushBlock_of_unmerged hwmb, hue]

/-! ### Reads -/

section
variable {a n : Nat} {s : State}

theorem memRead_bytes (h : accessRefused s a n = none) : (memRead a n s).bytes = readBytes s a n := by
  have hsame : ∀ t : State, t.beside memoryKept = s.beside memoryKept → readBytes t a n = readBytes s a n :=
    fun t ht => readBytes_congr fun i _ => readByte_of_beside ht (a + i)
  unfold memRead
  rw [h]
  dsimp only
  split <;> exact hsame _ (by simp [quiet_memoryKept])

end

end Sys2Proof.Machine

/-!
PROOFS. Commands of request queues (O41).
-/

namespace Sys2Proof.Machine

/-- A FILL of one byte with 0xFF, at the start of region 1. -/
def tableFill : List Byte :=
  layoutBytes 64 [(0, 1, 2), (0x10, 4, 1), (0x14, 4, 1), (0x20, 1, 0xFF)]

/-- Region 1 lies over the queue descriptor table, whose bytes are its fields and not memory; tag 0x1000 holds a FILL of
its first byte. -/
def fillOfTable : State :=
  { bob := { region := [(1, { bound := true, base := queueTable, size := 4096 })],
             tag := [(0x1000, some { entry := tableFill })] } }

theorem fillOfTable_canonical : fillOfTable.canonical := by
  obtain ⟨⟨hmem, hregs⟩, -⟩ := resetIsCanonicalAndHoldsTheResetValues
  exact ⟨hmem, hregs⟩

theorem queueAt_finishWrite {tag a : Nat} {bs : List Byte} {s : State} (h : accessRefused s a bs.length = none) (i : Nat) :
    (finishWrite tag a bs s).queueAt i = s.queueAt i := by
  obtain ⟨herr, hwrote⟩ := memWriteAs_of_accepted (s := noteWrote tag (a, bs.length) s) (a := a) (bs := bs) (.command tag) h
  simp only [finishWrite, herr]
  exact (queueAt_endCommand ..).trans (hwrote.queueAt i)

/-- R187: the first byte of an unused queue's descriptor is zero, whatever was written there. -/
theorem readByte_queueTable {t : State} (h : t.queueAt 0 = {}) : readByte t queueTable = 0 := by
  have hfirst : (descriptorBytes {}).getD 0 0 = 0 := by decide +kernel
  rw [readByte_eq, show tableByte t queueTable = some ((descriptorBytes (t.queueAt 0)).getD 0 0) from rfl, h, hfirst]
  rfl

/-- Refutes O41: a FILL over the queue table leaves the table's bytes as the descriptors give them (R187). -/
theorem not_commandsOfRequestQueues : ¬ Obligations.CommandsOfRequestQueues := by
  intro h
  obtain ⟨-, hrun, hfill, -⟩ := h
  have hheld : runnable fillOfTable (0x1000 : TagId).val 2 = some tableFill := by decide +kernel
  have hto : regionAddr fillOfTable (fieldOf tableFill 0x10 4) (fieldOf tableFill 0x18 8) = queueTable := by decide +kernel
  have hone : fieldOf tableFill 0x14 4 = 1 := by decide +kernel
  have hopen : ∀ a n, accessRefused fillOfTable a n = none := accessRefused_of_plain rfl rfl rfl rfl
  obtain ⟨-, -, hgate, -⟩ := hrun 0x1000 tableFill fillOfTable
  obtain ⟨u, hu, hin, -⟩ := hfill 0x1000 tableFill fillOfTable hheld rfl (hopen ..) fillOfTable_canonical
  obtain rfl : _ = u := Host.Outcome.next.inj ((hgate hheld).symm.trans hu)
  have hread := hin 0 (by rw [hone]; exact Nat.one_pos)
  rw [hto, hone, spillGate_of_unspilled rfl] at hread
  rw [Nat.add_zero, readByte_queueTable (queueAt_finishWrite (hopen ..) 0)] at hread
  exact absurd hread (by decide +kernel)

end Sys2Proof.Machine

/-!
PROOFS. The host's window (O42).
-/

namespace Sys2Proof.Machine

/-- A committed window whose first line lies in the queue descriptor table, with the link up for CXL.mem traffic. -/
def windowOfTable : State :=
  { hp := { winBase := queueTable, winSize := 1, decoder := true, proto := 7, rate := 4 } }

theorem windowOfTable_canonical : windowOfTable.canonical := by
  obtain ⟨⟨hmem, hregs⟩, -⟩ := resetIsCanonicalAndHoldsTheResetValues
  exact ⟨hmem, hregs⟩

theorem hostWrite_full (line : Nat) (data : List Byte) (s : State) : hostWrite line (2 ^ 64 - 1) data s =
    (memWriteAs .host (64 * line) (fitBytes 64 data) s).s.emit .hostDone :=
  congrArg (State.emit · .hostDone) (if_pos rfl)

/-- R187: the descriptor of an unused queue is not all ones. -/
theorem queueTable_ne_ones {t : State} (h : t.queueAt 0 = {}) :
    readBytes t queueTable 64 ≠ fitBytes 64 (List.replicate 64 0xFF) := by
  intro heq
  have hfirst : (readBytes t queueTable 64).head? = some (readByte t queueTable) := rfl
  rw [heq, readByte_queueTable h] at hfirst
  exact absurd hfirst (by decide +kernel)

/-- Refutes O42: a host write to a line of the queue table leaves the table's bytes as the descriptors give them
(R187). -/
theorem not_hostWindowAndSpillTraffic : ¬ Obligations.HostWindowAndSpillTraffic := by
  intro h
  obtain ⟨-, -, -, -, -, hfull, -⟩ := h
  have hopen : ∀ a n, accessRefused windowOfTable a n = none := accessRefused_of_plain rfl rfl rfl rfl
  have hline : windowLine windowOfTable (0 : Quad).toNat = some (queueTable / 64) := by decide +kernel
  have hpass : memTraffic windowOfTable = true := by decide +kernel
  obtain ⟨t, ht, hread, -⟩ :=
    hfull 0 (List.replicate 64 0xFF) (queueTable / 64) windowOfTable hline hpass (hopen ..) windowOfTable_canonical
  have run : exec (.hostMemWrite 0 (BitVec.allOnes 64) (List.replicate 64 0xFF)) windowOfTable =
      .next (hostWrite (queueTable / 64) (2 ^ 64 - 1) (List.replicate 64 0xFF) windowOfTable) := by
    simp only [exec, execHostMemWrite, hline, hpass, hopen, Option.isNone_none, Bool.and_self, if_true]
    rfl
  obtain rfl : _ = t := Host.Outcome.next.inj (run.symm.trans ht)
  have hstart : 64 * (queueTable / 64) = queueTable := by decide +kernel
  have hwrote := (memWriteAs_of_accepted (a := queueTable) (bs := fitBytes 64 (List.replicate 64 0xFF)) .host (hopen ..)).2
  rw [hostWrite_full, hstart] at hread
  exact queueTable_ne_ones ((hwrote.after (emit_beside rfl .hostDone _)).queueAt 0) hread

end Sys2Proof.Machine

/-!
PROOFS. The host link and its errors (O43).
-/

namespace Sys2Proof.Machine

/-! ### What messages and requests to the host leave of the link -/

/-- R213, R225, R228: the fields of the host port that describe the link and its streams. -/
def linkPart (h : Hp) : Hp :=
  { rate := h.rate, width := h.width, flit := h.flit, proto := h.proto, recovering := h.recovering, rateCap := h.rateCap,
    ideIo := h.ideIo, ideCm := h.ideCm, heldIo := h.heldIo, heldCm := h.heldCm, ideFail := h.ideFail }

theorem stream_fields {a b : Hp} (h : linkPart a = linkPart b) : a.recovering = b.recovering ∧
    a.ideIo = b.ideIo ∧ a.ideCm = b.ideCm ∧ a.heldIo = b.heldIo ∧ a.heldCm = b.heldCm ∧ a.ideFail = b.ideFail :=
  ⟨(congrArg Hp.recovering h : (linkPart a).recovering = _), (congrArg Hp.ideIo h : (linkPart a).ideIo = _),
    (congrArg Hp.ideCm h : (linkPart a).ideCm = _), (congrArg Hp.heldIo h : (linkPart a).heldIo = _),
    (congrArg Hp.heldCm h : (linkPart a).heldCm = _), (congrArg Hp.ideFail h : (linkPart a).ideFail = _)⟩

@[simp] theorem linkPart_sendVector (v : Nat) (s : State) : linkPart (sendVector v s).hp = linkPart s.hp := by
  unfold sendVector
  split <;> rfl

@[simp] theorem linkPart_ringPost (m source : Nat) (st : Status) (obj : Nat) (tenant : Option Nat) (data : List Byte)
    (s : State) : linkPart (ringPost m source st obj tenant data s).hp = linkPart s.hp := by
  unfold ringPost
  dsimp only
  split
  · rfl
  · split
    · exact linkPart_sendVector ..
    · rfl

@[simp] theorem linkPart_postEvent (source : Nat) (st : Status) (obj : Nat) (tenant : Option Nat) (data : List Byte)
    (s : State) : linkPart (postEvent source st obj tenant data s).hp = linkPart s.hp := by
  unfold postEvent
  split
  · exact linkPart_ringPost ..
  · rfl

@[simp] theorem linkPart_levelPost (l : Levels) (s : State) : linkPart (levelPost l s).hp = linkPart s.hp := by
  unfold levelPost
  dsimp only
  split
  · rfl
  · split
    · exact linkPart_postEvent ..
    · split
      · exact linkPart_postEvent ..
      · rfl

/-- R370: an action below level 4 leaves the link as it is. -/
theorem linkPart_escalate {l : Levels} (h : l.l4 = false) (s : State) : linkPart (escalate l s).hp = linkPart s.hp := by
  simp only [escalate, h, Bool.false_eq_true, if_false]
  exact linkPart_levelPost ..

theorem linkPart_sendPending (v : Nat) (s : State) : linkPart (sendPending v s).hp = linkPart s.hp := by
  unfold sendPending
  dsimp only
  split
  · exact linkPart_sendVector ..
  · rfl

theorem linkPart_sendAllPending (vs : List Nat) (s : State) : linkPart (sendAllPending vs s).hp = linkPart s.hp := by
  induction vs generalizing s with
  | nil => rfl
  | cons v vs ih => exact (ih _).trans (linkPart_sendPending ..)

theorem linkPart_sendSnoop (s : State) : linkPart (sendSnoop s).hp = linkPart s.hp := by
  unfold sendSnoop
  split
  · rfl
  · split <;> rfl

theorem linkPart_sendSnoops (ls : List Nat) (s : State) : linkPart (sendSnoops ls s).hp = linkPart s.hp := by
  induction ls generalizing s with
  | nil => rfl
  | cons l ls ih => exact (ih _).trans (linkPart_sendSnoop ..)

theorem linkPart_agentEvict (line : Nat) (s : State) : linkPart (agentEvict line s).hp = linkPart s.hp := by
  unfold agentEvict
  dsimp only
  split
  · rfl
  · split
    · rfl
    · split
      · rfl
      · split <;> rfl

theorem linkPart_agentRoom (line : Nat) (s : State) : linkPart (agentRoom line s).hp = linkPart s.hp := by
  unfold agentRoom
  dsimp only
  split
  · rfl
  · exact linkPart_agentEvict ..

theorem linkPart_agentAsk (who : Option Client) (m : SpillMiss) (s : State) :
    linkPart (agentAsk who m s).hp = linkPart s.hp := by
  unfold agentAsk
  extract_lets old asked s1 l s2
  have hroom : linkPart s1.hp = linkPart s.hp := by
    unfold s1
    split
    · exact linkPart_agentRoom ..
    · rfl
  split
  · rfl
  · split <;> exact hroom

theorem linkPart_agentAskAll (who : Option Client) (ms : List SpillMiss) (s : State) :
    linkPart (agentAskAll who ms s).hp = linkPart s.hp := by
  induction ms generalizing s with
  | nil => rfl
  | cons m ms ih => exact (ih _).trans (linkPart_agentAsk ..)

theorem linkPart_askWaiting (as : List MemAccess) (s : State) : linkPart (askWaiting as s).hp = linkPart s.hp := by
  induction as generalizing s with
  | nil => rfl
  | cons a as ih =>
    refine (ih _).trans ?_
    split
    · exact linkPart_agentAskAll ..
    · rfl

/-! ### Traffic that goes on -/

section
variable {w : Parts} (h : HostSide w)
include h

@[simp] theorem sendPending_beside (v : Nat) (s : State) : (sendPending v s).beside w = s.beside w := by
  simp [sendPending, sendVector, h.hp, h.out]

@[simp] theorem sendAllPending_beside (vs : List Nat) (s : State) : (sendAllPending vs s).beside w = s.beside w := by
  induction vs generalizing s with
  | nil => rfl
  | cons v vs ih => simp [sendAllPending, ih, h]

@[simp] theorem sendSnoop_beside (s : State) : (sendSnoop s).beside w = s.beside w := by
  unfold sendSnoop
  split <;> simp [h.hp, h.out]

@[simp] theorem sendSnoops_beside (ls : List Nat) (s : State) : (sendSnoops ls s).beside w = s.beside w := by
  induction ls generalizing s with
  | nil => rfl
  | cons l ls ih => simp [sendSnoops, ih, h]

@[simp] theorem askWaiting_beside (as : List MemAccess) (s : State) : (askWaiting as s).beside w = s.beside w := by
  induction as generalizing s with
  | nil => rfl
  | cons a as ih => simp [askWaiting, ih, h]

@[simp] theorem trafficGoesOn_beside (s : State) : (trafficGoesOn s).beside w = s.beside w := by
  simp [trafficGoesOn, h]

end

theorem linkPart_trafficGoesOn (s : State) : linkPart (trafficGoesOn s).hp = linkPart s.hp :=
  (linkPart_askWaiting ..).trans ((linkPart_sendSnoops ..).trans (linkPart_sendAllPending ..))

/-- Everything but the host port, what goes out and the free values. -/
def hostSide : Parts :=
  { hp := true, out := true, free := true }

/-! ### Recovery -/

/-- R228: the rate that a recovery asks for. -/
theorem enterRecovery_up {l : Levels} {s : State} (hup : s.hp.rate ≠ 0) (hopen : s.hp.recovering = false)
    (h4 : l.l4 = false) : let t := enterRecovery l s
    t.hp.recovering = true ∧ winCount t 19 1 0 = winCount s 19 1 0 + 1 ∧ winCount t 19 0 0 = winCount s 19 0 0 ∧
    t.pkg = s.pkg ∧ t.mem = s.mem ∧ t.res.level2 = (if l.l2 then wrapInc 16 s.res.level2 else s.res.level2) ∧
    t.hp.rateCap = (if 2 ≤ winCount s 19 1 0 ∧ 1 < s.hp.rate then some (s.hp.rate - 1) else s.hp.rateCap) := by
  unfold enterRecovery
  rw [if_neg (by simp [hup, hopen])]
  extract_lets u lower v t
  have hcount : winCount u 19 1 0 = winCount s 19 1 0 + 1 := winCount_winBump ..
  have hother : winCount u 19 0 0 = winCount s 19 0 0 := winCount_winBump_other (by decide) _
  have hrec : u.hp.recovering = true := rfl
  have hrate : u.hp.rate = s.hp.rate := rfl
  have hcap : u.hp.rateCap = s.hp.rateCap := rfl
  have hrest : u.pkg = s.pkg ∧ u.mem = s.mem ∧ u.res = s.res := ⟨rfl, rfl, rfl⟩
  clear_value u
  obtain ⟨hpkg, hmem, hres⟩ := hrest
  have hlower : lower = decide (2 ≤ winCount s 19 1 0 ∧ 1 < s.hp.rate) := by
    simp only [lower, hcount, hrate, Bool.decide_and, Nat.reduceLeDiff]
  have hv : v = if 2 ≤ winCount s 19 1 0 ∧ 1 < s.hp.rate then u.modHp fun h => { h with rateCap := some (h.rate - 1) } else u := by
    unfold v
    rw [hlower]
    simp only [decide_eq_true_eq]
  clear_value v
  have h4' : { l with l3 := lower }.l4 = false := h4
  have hlink := linkPart_escalate h4' v
  have hwin : v.win = u.win := by rw [hv, apply_ite State.win]; exact ite_self _
  refine ⟨(congrArg Hp.recovering hlink).trans ?_, ?_, ?_, ?_, ?_, ?_, (congrArg Hp.rateCap hlink).trans ?_⟩
  · change v.hp.recovering = true
    rw [hv, apply_ite State.hp, apply_ite Hp.recovering]
    exact (ite_self _).trans hrec
  · exact (winCount_congr ((escalate_win _ _ h4').trans hwin) ..).trans hcount
  · exact (winCount_congr ((escalate_win _ _ h4').trans hwin) ..).trans hother
  · refine (escalate_pkg _ _ h4').trans (Eq.trans ?_ hpkg)
    rw [hv, apply_ite State.pkg]
    exact ite_self _
  · refine (escalate_mem _ _ h4').trans (Eq.trans ?_ hmem)
    rw [hv, apply_ite State.mem]
    exact ite_self _
  · have hvres : v.res = s.res := by
      rw [hv, apply_ite State.res]
      exact (ite_self _).trans hres
    exact (congrArg Res.level2 (escalate_res _ _ h4')).trans (by rw [hvres])
  · change v.hp.rateCap = _
    rw [hv, apply_ite State.hp, apply_ite Hp.rateCap, ← hrate, ← hcap]
    rfl

/-- Settles O43: the link's state, the windows and the streams' states decide each branch. -/
theorem hostLinkAndItsErrors : Obligations.HostLinkAndItsErrors := by
  refine ⟨?_, ?_, ?_, ?_, ?_, ?_, fun s => rfl, fun s => rfl, ?_⟩
  · intro r w f s hp h1 h4 hw hf hslow
    refine congrArg _ (if_pos ?_)
    rcases hw with rfl | rfl | rfl <;> rcases hslow with h | h <;> simp [hp, h1, h4, hf, h]
  · intro r w f s t
    have hlink := linkPart_trafficGoesOn (s.modHp fun h =>
      let r := (h.rateCap.map (min r)).getD r
      { h with rate := r, width := w, flit := f, proto := if f = 0 then 1 else 7, recovering := false,
               downgrade := h.downgrade || (h.rateCap.isSome && r < h.rate) })
    have hrest : t.beside hostSide = s.beside hostSide :=
      (trafficGoesOn_beside ⟨rfl, rfl, rfl⟩ _).trans (modHp_beside rfl ..)
    exact ⟨congrArg Hp.rate hlink, congrArg Hp.width hlink, congrArg Hp.flit hlink, congrArg Hp.proto hlink,
      congrArg Hp.recovering hlink, (congrArg State.mem hrest : (t.beside hostSide).mem = (s.beside hostSide).mem),
      (congrArg State.pkg hrest : (t.beside hostSide).pkg = (s.beside hostSide).pkg)⟩
  · intro r w f s h
    refine congrArg _ (if_neg ?_)
    simp only [Bool.and_eq_true, Bool.or_eq_true, decide_eq_true_eq, List.contains_eq_mem, List.mem_cons,
      List.not_mem_nil, or_false, bne_iff_ne]
    rintro ⟨⟨⟨⟨⟨hp, h1⟩, h4⟩, hw⟩, hf⟩, hslow⟩
    have := h.resolve_left (by simp [hp])
    omega
  · intro s hup hopen
    obtain ⟨hrec, hcount, -, hpkg, hmem, -, hcap⟩ :=
      enterRecovery_up (l := { row := 19, count := winCount s 19 0 0 }) hup hopen rfl
    exact ⟨_, congrArg Host.Outcome.next (if_neg (by simp [hup, hopen])), hrec, hcount, hpkg, hmem, hcap⟩
  · exact fun s h => congrArg _ (if_pos (by simpa using h))
  · intro s
    have hn : winCount (winBump 19 0 0 s) 19 0 0 = winCount s 19 0 0 + 1 := winCount_winBump ..
    let u := ((winBump 19 0 0 s).modHp fun h => { h with aerLogged := true }).emit (.aer true)
    have hu : winCount u 19 0 0 = winCount s 19 0 0 + 1 := hn
    have hhp : u.hp.rate = s.hp.rate ∧ u.hp.recovering = s.hp.recovering := ⟨rfl, rfl⟩
    have run : exec .linkCorrectableError s = .next (if 64 ≤ winCount u 19 0 0 then
        enterRecovery { row := 19, count := winCount u 19 0 0, l2 := true } u
      else escalate { row := 19, count := winCount u 19 0 0 } u) := rfl
    rw [hu] at run
    refine ⟨_, run, ?_⟩
    by_cases hmany : 63 ≤ winCount s 19 0 0
    · rw [if_pos (by omega)]
      by_cases hopen : s.hp.rate ≠ 0 ∧ s.hp.recovering = false
      · obtain ⟨hrec, -, hcount, hpkg, -, hlevel, -⟩ :=
          enterRecovery_up (l := { row := 19, count := winCount s 19 0 0 + 1, l2 := true }) (s := u) hopen.1 hopen.2 rfl
        exact ⟨hcount.trans hu, hpkg, by omega, fun _ _ => ⟨hrec, hlevel⟩⟩
      · rw [enterRecovery, if_pos (show (decide (u.hp.rate = 0) || u.hp.recovering) = true by
          simpa [hhp, imp_iff_not_or] using hopen)]
        have hlink := linkPart_escalate (l := { row := 19, count := winCount s 19 0 0 + 1, l2 := true }) rfl u
        exact ⟨(winCount_congr (escalate_win _ _ rfl) ..).trans hu, escalate_pkg _ _ rfl, by omega, fun _ hup =>
          ⟨(congrArg Hp.recovering hlink).trans (by simpa [hup] using hopen : s.hp.recovering = true), congrArg Res.level2 (escalate_res _ _ rfl)⟩⟩
    · rw [if_neg (by omega)]
      have hlink := linkPart_escalate (l := { row := 19, count := winCount s 19 0 0 + 1 }) rfl u
      exact ⟨(winCount_congr (escalate_win _ _ rfl) ..).trans hu, escalate_pkg _ _ rfl,
        fun _ => ⟨(stream_fields hlink).1, escalate_res _ _ rfl⟩, fun h => absurd h hmany⟩
  · intro s
    have hsecure : ∀ f : Hp → Hp, let t := escalate { row := 20, l2 := true } (s.modHp f)
        linkPart t.hp = linkPart (f s.hp) ∧ t.res.level2 = wrapInc 16 s.res.level2 ∧ t.pkg = s.pkg := fun f =>
      ⟨linkPart_escalate rfl _, congrArg Res.level2 (escalate_res _ _ rfl), escalate_pkg _ _ rfl⟩
    refine ⟨fun h => ?_, fun h => ?_, fun h => congrArg _ (if_neg h), fun h => congrArg _ (if_neg h)⟩
    · obtain ⟨hlink, hlevel, hpkg⟩ := hsecure fun h => { h with ideCm := .insecure, heldCm := true, ideFail := true, rasIde := true }
      obtain ⟨-, hio, hcm, -, hheld, hfail⟩ := stream_fields hlink
      exact ⟨_, congrArg Host.Outcome.next (if_pos h), hcm, hheld, hfail, hio, hlevel, hpkg⟩
    · obtain ⟨hlink, hlevel, hpkg⟩ := hsecure fun h => { h with ideIo := .insecure, heldIo := true, ideFail := true }
      obtain ⟨-, hio, hcm, hheld, -, hfail⟩ := stream_fields hlink
      exact ⟨_, congrArg Host.Outcome.next (if_pos h), hio, hheld, hfail, hcm, hlevel, hpkg⟩

end Sys2Proof.Machine

/-!
PROOFS. Unit tests and the debug access (O57).
-/

namespace Sys2Proof.Machine

/-! ### The debug access -/

/-- The aligned word at the debug address. -/
def debugWord (s : State) : Nat :=
  s.tst.dbgAddr / 4 * 4

theorem blocksOf_debugWord (s : State) : blocksOf (debugWord s) 4 = [debugWord s / 64] :=
  blocksOf_within (by decide) (by unfold debugWord; omega)

section
variable {s : State} (hmap : mapped (debugWord s) 4 = true) (hspill : s.hp.spill = [])
  (href : accessRefused s (debugWord s) 4 = none) (hue : isUe s (debugWord s / 64) = false) (hwmb : s.hnk.wmb = [])
include hmap hspill href hue hwmb

theorem debugAccess_read (hw : faultyWords s (debugWord s) 4 = []) (hread : s.tst.dbgWrite = false) : debugAccess s =
    s.modTst fun t => { t with dbgDone := true, dbgError := false, dbgData := leNat (readBytes s (debugWord s) 4) } := by
  have hgood := narrowRead_of_good hspill hwmb href (by simp [blocksOf_debugWord, hue]) hw
  have haccess : debugAccess s = ((narrowRead (debugWord s) 4 s).s.modTst fun t =>
      { t with dbgDone := true, dbgError := (narrowRead (debugWord s) 4 s).err.isSome,
               dbgData := if t.dbgWrite || (narrowRead (debugWord s) 4 s).err.isSome then t.dbgData
                 else leNat (narrowRead (debugWord s) 4 s).bytes }) := by
    unfold debugAccess
    rw [if_neg (by simpa [debugWord] using hmap)]
    simp only [hread, Bool.false_eq_true, if_false]
    rfl
  rw [haccess, hgood]
  simp only [State.modTst, hread, Option.isSome_none, Bool.or_self, Bool.false_eq_true, if_false]

theorem debugAccess_write (hwrite : s.tst.dbgWrite = true) : Wrote (debugWord s) (leBytes 4 s.tst.dbgData) s (debugAccess s) ∧
    (debugAccess s).tst.dbgDone = true ∧ (debugAccess s).tst.dbgError = false := by
  have hgood := narrowWrite_of_good (bs := leBytes 4 s.tst.dbgData) hspill hwmb (by simpa [length_leBytes] using href) hue
  have haccess : debugAccess s = ((narrowWrite (debugWord s) (leBytes 4 s.tst.dbgData) s).s.modTst fun t =>
      { t with dbgDone := true, dbgError := (narrowWrite (debugWord s) (leBytes 4 s.tst.dbgData) s).err.isSome,
               dbgData := if t.dbgWrite || (narrowWrite (debugWord s) (leBytes 4 s.tst.dbgData) s).err.isSome then t.dbgData
                 else leNat (narrowWrite (debugWord s) (leBytes 4 s.tst.dbgData) s).bytes }) := by
    unfold debugAccess
    rw [if_neg (by simpa [debugWord] using hmap)]
    simp only [hwrite, if_true]
    rfl
  rw [haccess, hgood]
  refine ⟨Wrote.after (t := writeBytes _ _ _) (Wrote.before (wrote_writeBytes ..) ?_) (modTst_beside rfl ..), rfl, rfl⟩
  split
  · rfl
  · exact freshWords_beside quiet_memoryKept ..

end

/-- Settles O57: the unit's kind and its segments, the unlock and the word at the debug address decide each branch. -/
theorem unitTestsAndDebugAccesses : Obligations.UnitTestsAndDebugAccesses := by
  refine ⟨?_, ?_, ?_, ?_, ?_, ?_⟩
  · intro u o s k h v
    refine ⟨fun hno => congrArg _ (if_neg (by simpa using hno)), fun ht hk => ?_, fun ht hk => ?_⟩
    · exact congrArg _ ((if_pos ht).trans (if_neg hk))
    · exact congrArg _ ((if_pos ht).trans (if_pos hk))
  · intro u r s k free
    refine ⟨fun h => congrArg _ (if_neg ?_), fun hrun hdev hstop hdue hfree hchosen => congrArg _ (if_pos ?_)⟩
    · simp only [Bool.and_eq_true, Bool.or_eq_true, bne_iff_ne, ne_eq, Bool.not_eq_true']
      rintro ⟨⟨⟨⟨⟨hrun, hdev⟩, hstop⟩, hdue⟩, hfree⟩, hchosen⟩
      rcases h with h | h | h | h | h | h
      · exact absurd hrun (by simp [h])
      · exact hdev h
      · exact absurd hstop (by simp [h])
      · exact absurd hdue (by simp [k, h])
      · exact h hfree
      · exact absurd hchosen (by simp [k, h])
    · simp only [Bool.and_eq_true, Bool.or_eq_true, bne_iff_ne, ne_eq, Bool.not_eq_true']
      exact ⟨⟨⟨⟨⟨hrun, hdev⟩, hstop⟩, hdue⟩, hfree⟩, hchosen⟩
  · intro k die unit r s u x bad
    exact ⟨fun h => if_neg (Nat.not_le.mpr h), fun h => if_pos h⟩
  · intro k die unit s key u w
    refine ⟨?_, fun p => ?_⟩ <;>
    simp only [testDone, Option.isNone_none, Option.isNone_some, Bool.not_true, Bool.not_false, Bool.or_false, Bool.or_true,
      if_true, Bool.false_eq_true, if_false] <;>
    rfl
  · intro v s u
    refine ⟨fun h => ?_, fun hup hun hgo => ?_, fun hup hun hgo => ?_⟩
    · by_cases hup : barUp s = true
      · have hun : s.sec.debugUnlocked = false := h.resolve_left (by simp [hup])
        exact congrArg _ ((if_pos hup).trans (if_neg (by simp [hun])))
      · exact congrArg _ (if_neg hup)
    · exact congrArg _ ((if_pos hup).trans ((if_pos hun).trans (if_neg (by simp [hgo]))))
    · exact congrArg _ ((if_pos hup).trans ((if_pos hun).trans (if_pos hgo)))
  · intro s a t
    refine ⟨fun hmap => if_pos (congrArg (!·) hmap), fun hmap hspill href hue hwmb hw =>
      ⟨fun hread => ?_, fun hwrite hc ht => ?_⟩⟩
    · have hrun : t = _ := debugAccess_read hmap hspill href hue hwmb hw hread
      rw [hrun]
      exact ⟨rfl, rfl, rfl, rfl, rfl⟩
    · obtain ⟨hwrote, hdone, herror⟩ := debugAccess_write hmap hspill href hue hwmb hwrite
      have hlen : (leBytes 4 s.tst.dbgData).length = 4 := length_leBytes ..
      refine ⟨?_, hdone, herror, fun y hy => hwrote.outside (by rw [hlen]; exact hy)⟩
      have hback := hwrote.readBytes hc.1 (by rw [hlen]; exact ht)
      rwa [hlen] at hback

end Sys2Proof.Machine

/-!
PROOFS. Circuit blocks at their device (O49).
-/

namespace Sys2Proof.Machine

/-- A table of uncorrectable blocks that is not in canonical form: block 0 is listed twice, first as correct. A transfer
of 64 bytes to it is open. -/
def hiddenUe : State :=
  { hnk := { ue := [(0, false), (0, true)] },
    fab := { rxXfer := [(0, some { op := 1, len := 64 })] } }

theorem hiddenUe_canonical : hiddenUe.canonical := by
  obtain ⟨⟨hmem, hregs⟩, -⟩ := resetIsCanonicalAndHoldsTheResetValues
  exact ⟨hmem, hregs⟩

/-- Where block 0 is undefined, what a read of it finds is the free value, whatever was written. -/
theorem freeByte_of_readBytes {t : State} {b : Byte} (hu : t.undef = [{ base := 0, len := 64, id := 0 }])
    (h : readBytes t 0 64 = List.replicate 64 b) : Config.freeByte 0 0 = b := by
  have hfirst : some (readByte t 0) = some b := congrArg List.head? h
  rw [Option.some_inj, readByte_eq, hu] at hfirst
  exact hfirst

/-- Refutes O49: a write of the whole of block 0 uncovers its second entry, and the block data counts as lost: the bytes are
undefined, whatever the block carried. -/
theorem not_circuitBlocksAtARelayAndAtTheirDevice : ¬ Obligations.CircuitBlocksAtARelayAndAtTheirDevice := by
  intro h
  obtain ⟨-, -, -, -, -, -, -, -, hdata, -⟩ := h
  have hfree : ∀ b : Byte, (transferData 0 0 (List.replicate 64 b) hiddenUe).undef = [{ base := 0, len := 64, id := 0 }] →
      Config.freeByte 0 0 = b := by
    intro b hu
    have hpiece : blockPiece { op := 1, len := 64 } (routeIndex 0) (List.replicate 64 b) = List.replicate 64 b := rfl
    obtain ⟨hread, -⟩ := hdata 0 0 (List.replicate 64 b) { op := 1, len := 64 } hiddenUe rfl rfl rfl hiddenUe_canonical rfl
      rfl rfl (accessRefused_of_plain rfl rfl rfl rfl ..) (by rw [hpiece, List.length_replicate]; decide +kernel)
      (by rw [hpiece, List.length_replicate]; decide +kernel)
    rw [hpiece, List.length_replicate] at hread
    exact freeByte_of_readBytes hu hread
  have hzero := hfree 0 (by decide +kernel)
  have hone := hfree 1 (by decide +kernel)
  exact absurd (hzero.symm.trans hone) (by decide)

end Sys2Proof.Machine

/-!
PROOFS. Packets at their target (O50).
-/

namespace Sys2Proof.Machine

/-- A table of uncorrectable blocks that is not in canonical form: block 0 is listed twice, first as correct. It lies in
region 1, to which a GET of 448 bytes from device 0 is under way. -/
def hiddenUeGet : State :=
  { hnk := { ue := [(0, false), (0, true)] },
    bob := { region := [(1, { bound := true, size := 4096, access := 0x1F })] },
    fab := { op := [(0, some { op := 3, open_ := 1, getLeft := 448, getRegion := 1, getLen := 448 })] } }

/-- The first packet of the GET's data: 224 zero bytes for address 0. -/
def getDataOfBlock : List Byte :=
  pktBytes { op := 4, opLen := 448 } (List.replicate 224 0)

/-- Refutes O50: the write of the whole of block 0 uncovers its second entry, and the bytes of the GET are undefined. -/
theorem not_packetsArePerformedOnceAndAnswered : ¬ Obligations.PacketsArePerformedOnceAndAnswered := by
  intro h
  obtain ⟨hrun, hgate, -, -, -, -, hget, -⟩ := h
  have hdata : (getDataOfBlock.drop 32).take (pieceLen (pktHdr getDataOfBlock)) = List.replicate 224 0 := by decide +kernel
  have hat : gaLocal (pktHdr getDataOfBlock).gaddr + (pktHdr getDataOfBlock).msgOff = 0 := by decide +kernel
  obtain ⟨t, ht, -, hundef⟩ := hget getDataOfBlock 0 0
    { op := 3, open_ := 1, getLeft := 448, getRegion := 1, getLen := 448 } hiddenUeGet rfl (by decide +kernel)
    (by decide +kernel) (fun hlast => absurd hlast (by decide +kernel)) (by decide +kernel) rfl rfl (by decide +kernel)
    (accessRefused_of_plain rfl rfl rfl rfl ..) rfl rfl rfl (by rw [hdata, hat]; decide +kernel)
  obtain ⟨-, -, -, hexec, -⟩ := hrun getDataOfBlock 0 hiddenUeGet
  obtain rfl : _ = t := Host.Outcome.next.inj (hexec.symm.trans ht)
  rw [hgate _ _ _ rfl] at hundef
  exact absurd hundef (by decide +kernel)

end Sys2Proof.Machine

/-!
PROOFS. Chunks of a collective (O54).
-/

namespace Sys2Proof.Machine

/-- A collective of one element whose output region is not bound, so that its output lies at address 0. -/
def unboundColl : Coll :=
  { (default : Coll) with a := { (default : CollArgs) with elems := 1 } }

/-- Refutes O54: with block 0 listed twice, first as correct, the write of a gather's chunk to the whole block uncovers the
second entry, and the output bytes are undefined, whatever the chunk carried. -/
theorem not_collectiveChunksCreditsAbortsAndBuddies : ¬ Obligations.CollectiveChunksCreditsAbortsAndBuddies := by
  intro h
  obtain ⟨-, -, -, -, hchunk, -⟩ := h
  have hfree : ∀ b : Byte, (consumeChunk unboundColl 0 0 (1, 0, 0, 0) (List.replicate 64 b) hiddenUe).undef =
      [{ base := 0, len := 64, id := 0 }] → Config.freeByte 0 0 = b := by
    intro b hu
    have hat : outAddr unboundColl (chunkOff unboundColl.a 0 (1, 0, 0, 0)) hiddenUe = 0 := by decide +kernel
    obtain ⟨hgather, -⟩ := hchunk unboundColl 0 0 (1, 0, 0, 0) (List.replicate 64 b) hiddenUe
    rw [hat] at hgather
    obtain ⟨hread, -⟩ := hgather rfl Nat.one_ne_zero hiddenUe_canonical rfl rfl rfl (accessRefused_of_plain rfl rfl rfl rfl ..)
      (by rw [List.length_replicate]; decide +kernel) (by rw [List.length_replicate]; decide +kernel)
    rw [List.length_replicate] at hread
    exact freeByte_of_readBytes hu hread
  have hzero := hfree 0 (by decide +kernel)
  have hone := hfree 1 (by decide +kernel)
  exact absurd (hzero.symm.trans hone) (by decide)

end Sys2Proof.Machine

/-!
PROOFS. Answers, resends and messages given up (O51).
-/

namespace Sys2Proof.Machine

/-! ### Rates -/

theorem Rate.reduce_same (r : Rate) : r.reduce.num * r.den = r.num * r.reduce.den := by
  change r.num / Nat.gcd r.num r.den * r.den = r.num * (r.den / Nat.gcd r.num r.den)
  rw [← Nat.mul_div_assoc _ (Nat.gcd_dvd_right ..), Nat.div_mul_right_comm (Nat.gcd_dvd_left ..)]

/-! ### Packets that wait for a strand -/

/-- R291: packets that this device injects wait behind those that do, and nothing else changes. -/
theorem injectAll_eq (dest : Nat) (ps : List (List Byte)) (s : State) : injectAll dest ps s =
    s.modFab fun f => { f with inject := f.inject ++ ps.map fun p => { dest := dest, payload := p } } := by
  induction ps generalizing s with
  | nil => simp [injectAll, State.modFab]
  | cons p ps ih => simp [injectAll, ih, injectPacket, State.modFab]

theorem resendMessage_of_sent {k : Nat} {timed : Bool} {x : TxMsg} {s : State} (h : tget s.fab.tx k = some x) :
    resendMessage k timed s = s.modFab fun f =>
      { f with resends := wrapInc 16 f.resends,
               tx := tput f.tx k (some { x with frames := 0, resends := x.resends + bit timed }),
               inject := f.inject ++ x.packets.map fun b => { dest := x.dest, payload := resentPacket b } } := by
  simp [resendMessage, h, injectAll_eq, State.modFab]

/-- The packet that carries a synchronisation packet again. -/
def syncAgain (src : Nat) (y : SyncOut) : Pkt :=
  let data := leBytes 4 y.entry ++ leBytes 8 y.frame
  { dest := y.dest, payload := pktBytes { src := src, msg := y.msg, count := 1, op := 0x0B, last := true,
                                          check := crc32c data } data }

theorem syncResend_eq (ys : List SyncOut) (s : State) :
    ys.foldl (fun s y =>
      let data := leBytes 4 y.entry ++ leBytes 8 y.frame
      injectPacket y.dest (pktBytes { src := selfId s, msg := y.msg, count := 1, op := 0x0B, last := true,
                                      check := crc32c data } data) s) s =
    s.modFab fun f => { f with inject := f.inject ++ ys.map (syncAgain (selfId s)) } := by
  induction ys generalizing s with
  | nil => simp [State.modFab]
  | cons y ys ih =>
    rw [List.foldl_cons, ih]
    simp [injectPacket, State.modFab, selfId, syncAgain]

/-- Settles O51: the message, transfer or entry named, and how long it has waited, decide each branch. -/
theorem answersResendsAndMessagesGivenUp : Obligations.AnswersResendsAndMessagesGivenUp := by
  refine ⟨fun p m s => ⟨rfl, rfl, rfl⟩, ?_, ?_, ?_, ?_, ?_, ?_, ?_, ?_, ?_⟩
  · intro r packets marks
    refine ⟨fun h => if_pos h, fun h => if_neg (Nat.not_le.mpr h), fun hm hp => ?_, r.reduce_same⟩
    intro x
    have hx : rateAfter r packets marks = if 4 * x.num ≤ x.den then { num := 1, den := 4 } else x.reduce := by
      simp only [rateAfter, Nat.ne_of_gt hm, Nat.ne_of_gt hp, if_false, x]
    exact ⟨fun h => hx.trans (if_pos h), fun h => hx.trans (if_neg (Nat.not_le.mpr h))⟩
  · intro h b s k st u
    have hfar : h.redOp ≠ 1 → ackPacket h b s = messageAnswered h.src k st (fieldOf b 4 4) u := fun hne => if_neg hne
    have hxfer : h.redOp = 1 → ackPacket h b s = transferAnswered h.src k st (fieldOf b 4 4) u := fun heq => if_pos heq
    refine ⟨fun hne hk => ?_, fun x hne hk => ?_, fun heq hk => ?_, fun x heq hk => ?_⟩
    · rw [hfar hne]
      simp only [messageAnswered, show tget u.fab.tx k = none from hk]
    · rw [hfar hne]
      simp only [messageAnswered, show tget u.fab.tx k = some x from hk]
    · rw [hxfer heq]
      simp only [transferAnswered, show tget u.fab.txXfer k = none from hk]
    · rw [hxfer heq]
      simp only [transferAnswered, show tget u.fab.txXfer k = some x from hk]
  · intro h b s
    refine ⟨fun hk => ?_, fun x hk => ?_⟩
    · simp only [replyPacket, hk]
    · intro u
      simp only [replyPacket, hk, messageAnswered, u, State.modFab_fab]
  · intro h b s k
    refine ⟨fun hk => ?_, fun x hk => ?_⟩ <;> simp only [reRequestPacket, show tget s.fab.tx (fieldOf b 0 2) = _ from hk, k]
  · intro k timed x s hk t
    have ht : t = _ := resendMessage_of_sent hk
    rw [ht]
    exact ⟨rfl, rfl, tget_tput_value (Option.some_ne_none _), rfl⟩
  · intro src msg s k
    refine ⟨fun hk => ?_, fun x hk hstay => ?_, fun x hk hopen hlate => ⟨fun hd => ?_, fun hd hr => ?_, fun hd hr => ?_⟩⟩
    · simp only [exec, execRerequestTimer, rerequest, show tget s.fab.rx (src.toNat * 65536 + msg.toNat) = none from hk]
    · simp only [exec, execRerequestTimer, rerequest, show tget s.fab.rx (src.toNat * 65536 + msg.toNat) = some x from hk]
      exact congrArg _ (if_pos (by rcases hstay with h | h <;> simp [h]))
    all_goals
      have run : exec (.rerequestTimer src msg) s = .next (if x.dropped then s.modFab fun f => { f with rx := tput f.rx k none }
          else if 3 ≤ x.rereqs then giveUpMessage src.toNat msg.toNat s
          else sendAnswer src.toNat { op := 0x0A } (leBytes 2 msg.toNat) (s.modFab fun f =>
            { f with rereqs := wrapInc 16 f.rereqs,
                     rx := tput f.rx k (some { x with frames := 0, rereqs := x.rereqs + 1 }) })) := by
        simp only [exec, execRerequestTimer, rerequest, show tget s.fab.rx (src.toNat * 65536 + msg.toNat) = some x from hk]
        exact congrArg _ (if_neg (by simp [hopen, hlate]))
    · exact run.trans (congrArg _ (if_pos hd))
    · exact run.trans (congrArg _ ((if_neg (by simp [hd])).trans (if_neg (Nat.not_le.mpr hr))))
    · exact run.trans (congrArg _ ((if_neg (by simp [hd])).trans (if_pos hr)))
  · intro msg s
    refine ⟨fun hk => ?_, fun x hk hearly => ?_, fun x hk hlate => ⟨fun hr => ?_, fun hr => ?_⟩⟩ <;>
      simp only [exec, execResendTimer, hk]
    · exact congrArg _ (if_pos (by simp [hearly]))
    · exact congrArg _ ((if_neg (by simp [hlate])).trans (if_pos hr))
    · exact congrArg _ ((if_neg (by simp [hlate])).trans (if_neg (Nat.not_lt.mpr hr)))
  · intro s
    exact ⟨_, congrArg Host.Outcome.next (syncResend_eq ..), rfl, rfl, rfl⟩
  · intro i s
    refine ⟨fun hi => ⟨?_, ?_⟩, fun p hi => ⟨?_, fun hn => ?_, fun n hn => ?_⟩⟩
    · simp only [exec, execTransitDeflect, hi]
    · simp only [exec, execTransitDrop, hi]
    · simp only [exec, execTransitDrop, hi]
    · simp only [exec, execTransitDeflect, hi, hn]
    · simp only [exec, execTransitDeflect, hi, hn]
      rfl

end Sys2Proof.Machine

/-!
PROOFS. Blocks received, acknowledged and replayed, and one block at each position (O48).
-/

namespace Sys2Proof.Machine

/-! ### What a block that goes out leaves alone -/

/-- The link layer's records are set aside: the fabric, the optics and the skeins. -/
structure LinkSide (w : Parts) : Prop where
  fab : w.fab = true
  opt : w.opt = true
  skn : w.skn = true

section
variable {w : Parts} (h : LinkSide w)
include h

theorem sendTransfer_beside (r : XferRest) (i : Nat) (s : State) : (sendTransfer r i s).beside w = s.beside w := by
  simp [sendTransfer, h.fab]

theorem sendTransfers_beside (r : XferRest) (is : List Nat) (s : State) :
    (sendTransfers r is s).beside w = s.beside w := by
  induction is generalizing s with
  | nil => rfl
  | cons i is ih =>
    unfold sendTransfers
    split
    · rw [ih, sendTransfer_beside h]
    · simp [h.fab]

theorem resumeTransfers_beside (rs : List XferRest) (s : State) : (resumeTransfers rs s).beside w = s.beside w := by
  induction rs generalizing s with
  | nil => rfl
  | cons r rs ih => exact (ih _).trans (sendTransfers_beside h ..)

theorem xferFreed_beside (s : State) : (xferFreed s).beside w = s.beside w := by
  simp [xferFreed, resumeTransfers_beside h, h.fab]

theorem takeCircuit_beside (n : Nat) (relayed : Bool) (q : Nat × Blk) (s : State) :
    (takeCircuit n relayed q s).beside w = s.beside w := by
  simp [takeCircuit, xferFreed_beside h, h.fab, h.skn]

theorem placeWaiting_beside (own : Bool) (ps : List Pkt) (s : State) :
    (placeWaiting own ps s).2.beside w = s.beside w := by
  induction ps generalizing s with
  | nil => rfl
  | cons p ps ih =>
    unfold placeWaiting
    split
    · rw [ih, choosePacket, modLink_beside h.fab]
    · exact ih _

theorem placePackets_beside (s : State) : (placePackets s).beside w = s.beside w := by
  simp [placePackets, placeWaiting_beside h, h.fab]

theorem acceptSent_beside (n : Nat) (m : List Byte) (s : State) : (acceptSent n m s).beside w = s.beside w := by
  simp [acceptSent, h.opt]

end

/-- The link layer's records are set aside. -/
def linkSide : Parts :=
  { fab := true, opt := true, skn := true }

theorem linkSide_linkSide : LinkSide linkSide := ⟨rfl, rfl, rfl⟩

/-! ### One block goes out -/

/-- What goes out is one block of a strand, and nothing else changes beside the link layer's records. -/
def SendsOne (n : Nat) (s t : State) : Prop :=
  ∃ bs, t.beside linkSide = (s.emit (.block n bs)).beside linkSide

theorem emit_beside_linkSide (e : Emit) {s t : State} (h : t.beside linkSide = s.beside linkSide) :
    (t.emit e).beside linkSide = (s.emit e).beside linkSide :=
  congrArg (State.emit · e) h

section
variable {n : Nat} {s t u : State}

theorem SendsOne.before (h : SendsOne n u t) (hu : u.beside linkSide = s.beside linkSide) : SendsOne n s t := by
  obtain ⟨bs, hbs⟩ := h
  exact ⟨bs, hbs.trans (emit_beside_linkSide _ hu)⟩

theorem SendsOne.after (h : SendsOne n s t) (hu : u.beside linkSide = t.beside linkSide) : SendsOne n s u := by
  obtain ⟨bs, hbs⟩ := h
  exact ⟨bs, hu.trans hbs⟩

theorem sendBlock_sendsOne (n : Nat) (b : Blk) (s : State) : SendsOne n s (sendBlock n b s) := by
  refine ⟨blockBytes (s.linkAt n) (s.linkAt n).txSeq b, ?_⟩
  unfold sendBlock
  dsimp only
  split
  · exact modLink_beside rfl ..
  · rfl

theorem resendBlock_sendsOne (n seq : Nat) (b : Blk) (s : State) : SendsOne n s (resendBlock n seq b s) :=
  ⟨_, modLink_beside rfl ..⟩

theorem sendIdle_sendsOne (n : Nat) (s : State) : SendsOne n s (sendIdle n s) := by
  unfold sendIdle
  split
  · exact ((sendBlock_sendsOne ..).before (modLink_beside rfl ..)).after (acceptSent_beside linkSide_linkSide ..)
  · exact sendBlock_sendsOne ..

theorem sendClass_sendsOne (n : Nat) (k : PosKind) (s : State) : SendsOne n s (sendClass n k s) := by
  unfold sendClass
  split
  · exact (sendBlock_sendsOne ..).before (takeCircuit_beside linkSide_linkSide ..)
  · split
    · split
      · exact ((sendBlock_sendsOne ..).before (modLink_beside rfl ..)).after (placePackets_beside linkSide_linkSide ..)
      · exact sendBlock_sendsOne ..
    · exact sendBlock_sendsOne ..

theorem sendRest_sendsOne (n : Nat) (k : PosKind) (s : State) : SendsOne n s (sendRest n k s) := by
  unfold sendRest
  dsimp only
  split
  · exact (sendIdle_sendsOne ..).before (modLink_beside rfl ..)
  · split
    · exact sendIdle_sendsOne ..
    · split
      · split
        · exact (sendBlock_sendsOne ..).before (modLink_beside rfl ..)
        · exact (sendClass_sendsOne ..).before (modLink_beside rfl ..)
      · exact sendClass_sendsOne ..

theorem sendResent_sendsOne (n : Nat) (k : PosKind) (e : Nat × Blk) (s : State) : SendsOne n s (sendResent n k e s) := by
  unfold sendResent
  split
  · exact sendBlock_sendsOne ..
  · exact resendBlock_sendsOne ..

/-- R277, R280: every position carries exactly one block. -/
theorem position_sendsOne (n : Nat) (k : PosKind) (s : State) : SendsOne n s (position n k s) := by
  unfold position
  split
  · dsimp only
    split
    · exact (sendBlock_sendsOne ..).before (modLink_beside rfl ..)
    · exact (sendRest_sendsOne ..).before (modLink_beside rfl ..)
  · split
    · exact sendResent_sendsOne ..
    · exact sendRest_sendsOne ..

end

/-- Settles O48: the block's check and sequence number, the replay buffer and what waits decide each branch. -/
theorem blocksAreAcknowledgedReplayedAndPlaced : Obligations.BlocksAreAcknowledgedReplayedAndPlaced := by
  refine ⟨?_, ?_, ?_, ?_, ?_, ?_, ?_, ?_, ?_, ?_⟩
  · intro n b slot pos s h
    exact ⟨congrArg _ (if_neg (by simp [h])), congrArg _ (if_pos (by simp [h]))⟩
  · intro n b s h hbad
    exact congrArg _ ((if_pos h).trans (if_pos (by simpa [or_assoc] using hbad)))
  · intro n b s h hcrc hlen htyp typ seq u blk
    have run : exec (.blockReceive n b) s = .next (if !blk.sequenced then noteSeen n seq false u
        else if seq = (u.linkAt n).rxSeq % 65536 then acceptBlock n typ (fieldOf b 5 7) (sliceBytes b 12 256) u
        else noteSeen n seq true (u.modLink n fun l => { l with nak := true })) :=
      congrArg Host.Outcome.next ((if_pos h).trans (if_neg (by simp [hcrc, hlen, htyp])))
    rw [run]
    refine ⟨fun hseq => congrArg _ (if_pos (by simp [hseq])), fun hseq heq => congrArg _ ?_, fun hseq hne => congrArg _ ?_⟩
    · exact (if_neg (by simp [hseq])).trans (if_pos heq)
    · exact (if_neg (by simp [hseq])).trans (if_neg hne)
  · intro n low s q v
    have run : takeAck n true low s =
        if (v.linkAt n).lastNak = some q && 0 < (v.linkAt n).nakQuiet || (v.linkAt n).held.isEmpty then v
        else replayBegun n (v.modLink n fun l =>
          { l with lastNak := some q, nakQuiet := nakPositions v n, resend := l.held.map (·.1) }) := rfl
    refine ⟨rfl, fun h => run.trans (if_pos ?_), fun hheld h => run.trans (if_neg ?_)⟩
    · rcases h with h | ⟨hnak, hquiet⟩
      · rw [h]
        exact Bool.or_true _
      · rw [hnak, decide_eq_true hquiet, decide_eq_true rfl]
        rfl
    · simp only [Bool.or_eq_true, Bool.and_eq_true, decide_eq_true_eq, List.isEmpty_iff, not_or, not_and]
      exact ⟨fun hnak => by have := h.resolve_left (not_not.mpr hnak); omega, hheld⟩
  · intro n typ route p s v
    refine ⟨fun h => if_pos h, fun h => ?_, fun h => ?_⟩
    · exact if_pos h
    · exact if_neg h
  · intro n s
    exact ⟨fun h => congrArg _ (if_pos (by simp [h])), fun h => congrArg _ (if_neg (by simp [h]))⟩
  · intro n s a b
    refine ⟨fun h => if_pos h, fun h hfew => ?_, fun l h hmany hl => ?_⟩
    · unfold replayBegun
      extract_lets count third v
      have hv : v = b := by
        unfold v
        split
        · exact if_neg (Nat.not_le.mpr hfew)
        · rfl
      rw [if_neg (not_not.mpr h), hv, decide_eq_false (Nat.not_le.mpr hfew), show count = 64 from h]
    · unfold replayBegun
      extract_lets count third v
      have hv : v = dropTx n l false b := by
        simp only [v, hl]
        exact if_pos hmany
      rw [if_neg (not_not.mpr h), hv, decide_eq_true hmany, show count = 64 from h]
  · intro n slot pos s h k u
    exact congrArg _ (if_neg (by simp [h]))
  · intro n k s
    obtain ⟨bs, hbs⟩ := position_sendsOne n k s
    exact ⟨bs, (congrArg State.out hbs : ((position n k s).beside linkSide).out = _),
      (congrArg State.mem hbs : ((position n k s).beside linkSide).mem = _),
      (congrArg State.frm hbs : ((position n k s).beside linkSide).frm = _),
      (congrArg State.pkg hbs : ((position n k s).beside linkSide).pkg = _)⟩
  · intro n k s
    refine ⟨fun b bs ht hc => ?_, fun e ht hr => ?_, fun ht hr => ?_, fun hfull => if_pos hfull, fun hroom hctl hseqd hnext hpkt => ?_⟩
    · simp only [position, ht]
      exact if_pos hc
    · simp only [position, ht, hr]
    · simp only [position, ht, hr]
    · simp only [sendRest, hroom, hctl, hseqd, sendClass, hnext, hpkt, List.isEmpty_nil, Bool.not_true, Bool.false_eq_true,
        if_false]

end Sys2Proof.Machine

/-!
PROOFS. Memory accesses and atomics (O26).
-/

namespace Sys2Proof.Machine

/-- The table of uncorrectable blocks of hank memory lists the first block of the local stores. -/
def localUe : State :=
  { hnk := { ue := [(hankTop / 64, true)] } }

theorem localUe_canonical : localUe.canonical := by
  obtain ⟨⟨hmem, hregs⟩, -⟩ := resetIsCanonicalAndHoldsTheResetValues
  exact ⟨hmem, hregs⟩

/-- Refutes O26: a local-store atomic on a block that the table of uncorrectable blocks lists fails with its words
correct, and answers no bytes. -/
theorem not_memoryAccessesAndAtomicsReachTheirBytes : ¬ Obligations.MemoryAccessesAndAtomicsReachTheirBytes := by
  intro h
  obtain ⟨-, -, -, -, -, -, hlocal, -⟩ := h
  obtain ⟨hbytes, -⟩ := hlocal .flyer 0 hankTop false .add 0 0 localUe (by decide +kernel) (by decide +kernel) rfl rfl
    localUe_canonical
  have hlength := congrArg List.length hbytes
  rw [length_readBytes] at hlength
  exact absurd hlength (by decide +kernel)

end Sys2Proof.Machine

/-!
PROOFS. What no access to memory changes, whatever errors it meets: the writes that are held, a COMPUTE reset under way
and the tick of the frame in progress.
-/

namespace Sys2Proof.Machine

/-! ### What lasts -/

/-- R62, R67, R163: the held writes, whether a COMPUTE reset is under way, and the fields of the frame record that a tick
sets (`tickPart`). -/
def State.lasting (s : State) : List HeldWrite × Bool × Frm :=
  (s.vis.held, s.pkg.computeReset, tickPart s.frm)

theorem held_of_lasting {s t : State} (h : t.lasting = s.lasting) : t.vis.held = s.vis.held :=
  congrArg Prod.fst h

theorem computeReset_of_lasting {s t : State} (h : t.lasting = s.lasting) : t.pkg.computeReset = s.pkg.computeReset :=
  congrArg (·.2.1) h

theorem tickPart_of_lasting {s t : State} (h : t.lasting = s.lasting) : tickPart t.frm = tickPart s.frm :=
  congrArg (·.2.2) h

@[simp] theorem ite_lasting (c : Prop) [Decidable c] (s t : State) :
    (if c then s else t).lasting = if c then s.lasting else t.lasting :=
  apply_ite State.lasting ..

theorem modVis_lasting {s : State} {f : Vis → Vis} (h : (f s.vis).held = s.vis.held) : (s.modVis f).lasting = s.lasting := by
  simp [State.lasting, h]

theorem modPkg_lasting {s : State} {f : Pkg → Pkg} (h : (f s.pkg).computeReset = s.pkg.computeReset) :
    (s.modPkg f).lasting = s.lasting := by
  simp [State.lasting, h]

theorem modFrm_lasting {s : State} {f : Frm → Frm} (h : tickPart (f s.frm) = tickPart s.frm) :
    (s.modFrm f).lasting = s.lasting := by
  simp [State.lasting, h]

section
variable (s : State)

@[simp] theorem modSpn_lasting (i : Nat) (f : Spindle → Spindle) : (s.modSpn i f).lasting = s.lasting := rfl
@[simp] theorem modVec_lasting (i : Nat) (f : VecDie → VecDie) : (s.modVec i f).lasting = s.lasting := rfl
@[simp] theorem modHnk_lasting (f : Hnk → Hnk) : (s.modHnk f).lasting = s.lasting := rfl
@[simp] theorem modHank_lasting (i : Nat) (f : Hank → Hank) : (s.modHank i f).lasting = s.lasting := rfl
@[simp] theorem modRlc_lasting (i : Nat) (f : VisDie → VisDie) : (s.modRlc i f).lasting = s.lasting := rfl
@[simp] theorem modBob_lasting (f : Bob → Bob) : (s.modBob f).lasting = s.lasting := rfl
@[simp] theorem modTag_lasting (i : Nat) (f : Option Cmd → Option Cmd) : (s.modTag i f).lasting = s.lasting := rfl
@[simp] theorem modHp_lasting (f : Hp → Hp) : (s.modHp f).lasting = s.lasting := rfl
@[simp] theorem modOpt_lasting (f : Opt → Opt) : (s.modOpt f).lasting = s.lasting := rfl
@[simp] theorem modFab_lasting (f : Fab → Fab) : (s.modFab f).lasting = s.lasting := rfl
@[simp] theorem modLink_lasting (i : Nat) (f : Link → Link) : (s.modLink i f).lasting = s.lasting := rfl
@[simp] theorem modStrand_lasting (i : Nat) (f : Strand → Strand) : (s.modStrand i f).lasting = s.lasting := rfl
@[simp] theorem modTop_lasting (f : Top → Top) : (s.modTop f).lasting = s.lasting := rfl
@[simp] theorem modDisc_lasting (i : Nat) (f : Disc → Disc) : (s.modDisc i f).lasting = s.lasting := rfl
@[simp] theorem modPwr_lasting (f : Pwr → Pwr) : (s.modPwr f).lasting = s.lasting := rfl
@[simp] theorem modPwrDie_lasting (i : Nat) (f : PwrDie → PwrDie) : (s.modPwrDie i f).lasting = s.lasting := rfl
@[simp] theorem modThm_lasting (f : Thm → Thm) : (s.modThm f).lasting = s.lasting := rfl
@[simp] theorem modOp_lasting (i : Nat) (f : OpState → OpState) : (s.modOp i f).lasting = s.lasting := rfl
@[simp] theorem modRes_lasting (f : Res → Res) : (s.modRes f).lasting = s.lasting := rfl
@[simp] theorem modSec_lasting (f : Sec → Sec) : (s.modSec f).lasting = s.lasting := rfl
@[simp] theorem winAdd_lasting (row sub obj n : Nat) : (winAdd row sub obj n s).lasting = s.lasting := rfl
@[simp] theorem winBump_lasting (row sub obj : Nat) : (winBump row sub obj s).lasting = s.lasting := rfl
@[simp] theorem failFrame_lasting (st : Status) : (failFrame st s).lasting = s.lasting := rfl

end

/-! ### Errors and their levels -/

@[simp] theorem postEvent_lasting (source : Nat) (st : Status) (obj : Nat) (tenant : Option Nat) (data : List Byte)
    (s : State) : (postEvent source st obj tenant data s).lasting = s.lasting := by
  simp [State.lasting]

@[simp] theorem setDevState_lasting (d : DevState) (s : State) : (setDevState d s).lasting = s.lasting := by
  rw [setDevState, modPkg_lasting (by rfl)]
  simp

@[simp] theorem enterFailed_lasting (way : WayOut) (st : Status) (s : State) :
    (enterFailed way st s).lasting = s.lasting := by
  rw [enterFailed, modPkg_lasting (by rfl)]
  simp

/-- R370: at every level. -/
@[simp] theorem escalate_lasting (l : Levels) (s : State) : (escalate l s).lasting = s.lasting := by
  have h (u : State) : (levelPost l u).lasting = u.lasting := by simp [State.lasting]
  simp [escalate, h]

@[simp] theorem clientError_lasting (c : Client) (st : Status) (s : State) :
    (clientError c st s).lasting = s.lasting := by
  cases c <;> rfl

@[simp] theorem clientsError_lasting (st : Status) (cs : List Client) (s : State) :
    (clientsError st cs s).lasting = s.lasting := by
  induction cs generalizing s with
  | nil => rfl
  | cons c cs ih => simp [clientsError, ih]

@[simp] theorem endCommands_lasting (st : Status) (tags : List Nat) (s : State) :
    (endCommands st tags s).lasting = s.lasting := by
  induction tags generalizing s with
  | nil => rfl
  | cons t ts ih =>
    have h (u : State) : (endCommand t st 0 0 u).lasting = u.lasting := by simp [State.lasting]
    rw [endCommands, ih, h]

@[simp] theorem localCorrected_lasting (die b k : Nat) (s : State) : (localCorrected die b k s).lasting = s.lasting := by
  simp [localCorrected]

@[simp] theorem localUncorrectable_lasting (die : Nat) (s : State) : (localUncorrectable die s).lasting = s.lasting := by
  simp [localUncorrectable]

/-! ### Uncorrectable blocks and lost hanks -/

@[simp] theorem loseHank_lasting (h : Nat) (s : State) : (loseHank h s).lasting = s.lasting := by
  have held (u : State) : (endHeld .eHankLost u).lasting = u.lasting :=
    foldl_keeps State.lasting _ (fun _ _ => clientError_lasting ..) _ _
  rw [loseHank, enterFailed_lasting, modPkg_lasting (by rfl)]
  simp [held]

@[simp] theorem recordUe_lasting (block : Nat) (s : State) : (recordUe block s).lasting = s.lasting := by
  simp [recordUe]

@[simp] theorem recordUes_lasting (bs : List Nat) (s : State) : (recordUes bs s).lasting = s.lasting := by
  induction bs generalizing s with
  | nil => rfl
  | cons b bs ih => simp [recordUes, ih]

@[simp] theorem freshWords_lasting (a n : Nat) (s : State) : (freshWords a n s).lasting = s.lasting :=
  modVis_lasting rfl

/-! ### The write-merging buffers and the spill agent -/

@[simp] theorem wmbFlush_lasting (e : WmbEntry) (s : State) : (wmbFlush e s).lasting = s.lasting := by
  simp [wmbFlush]

@[simp] theorem wmbFlushBlock_lasting (block : Nat) (s : State) : (wmbFlushBlock block s).lasting = s.lasting := by
  unfold wmbFlushBlock
  split <;> simp

@[simp] theorem wmbMerge_lasting (c : Client) (block a n : Nat) (s : State) :
    (wmbMerge c block a n s).lasting = s.lasting := by
  unfold wmbMerge
  extract_lets ch old full s1 mask had new s2
  have h1 : s1.lasting = s.lasting := by
    unfold s1
    split
    · cases full.head? <;> simp
    · rfl
  have h2 : s2.lasting = s.lasting := by simp [s2, h1]
  split <;> simp [h2]

/-- What the spill agent may change is set aside. -/
def besideHost : Parts :=
  { hp := true, out := true, free := true }

theorem hostSide_besideHost : HostSide besideHost :=
  ⟨rfl, rfl, rfl⟩

theorem lasting_of_besideHost {s t : State} (h : t.beside besideHost = s.beside besideHost) : t.lasting = s.lasting :=
  (congrArg State.lasting h : (t.beside besideHost).lasting = (s.beside besideHost).lasting)

@[simp] theorem touchSpilled_lasting (write : Bool) (a n : Nat) (bs : List Nat) (s : State) :
    (touchSpilled write a n bs s).lasting = s.lasting :=
  lasting_of_besideHost (touchSpilled_beside hostSide_besideHost ..)

@[simp] theorem noteSpill_lasting (st : Status) (s : State) : (noteSpill st s).lasting = s.lasting :=
  lasting_of_besideHost (noteSpill_beside hostSide_besideHost ..)

@[simp] theorem forgetSpill_lasting (p : Client → Bool) (s : State) : (forgetSpill p s).lasting = s.lasting :=
  lasting_of_besideHost (forgetSpill_beside hostSide_besideHost ..)

/-! ### Writes -/

@[simp] theorem writeBytes_lasting (a : Nat) (bs : List Byte) (s : State) : (writeBytes a bs s).lasting = s.lasting := by
  unfold writeBytes
  split <;> rfl

@[simp] theorem streamBlocks_lasting (c : Client) (a n : Nat) (bs : List Nat) (s : State) :
    (streamBlocks c a n bs s).lasting = s.lasting := by
  induction bs generalizing s with
  | nil => rfl
  | cons b bs ih => simp [streamBlocks, streamBlock, ih]

@[simp] theorem memWriteAs_lasting (c : Client) (a : Nat) (bs : List Byte) (s : State) :
    (memWriteAs c a bs s).s.lasting = s.lasting := by
  unfold memWriteAs
  split <;> simp

@[simp] theorem narrowWrite_lasting (a : Nat) (bs : List Byte) (s : State) :
    (narrowWrite a bs s).s.lasting = s.lasting := by
  unfold narrowWrite
  split
  · simp
  · split
    · simp
    · split
      · simp
      · dsimp only
        split <;> simp

/-! ### Held writes and the lines of the caches -/

@[simp] theorem performWrite_lasting (w : HeldWrite) (s : State) : (performWrite w s).lasting = s.lasting := by
  have noted (u : State) : (noteWrite w.client w.addr w.bytes.length u).lasting = u.lasting := by
    cases h : w.client <;> rfl
  unfold performWrite
  extract_lets u r
  have hr : r.s.lasting = s.lasting := by
    unfold r u
    split <;> simp [noted]
  split <;> simp [hr]

@[simp] theorem performAll_lasting (ws : List HeldWrite) (s : State) : (performAll ws s).lasting = s.lasting := by
  induction ws generalizing s with
  | nil => rfl
  | cons w ws ih => simp [performAll, ih]

@[simp] theorem rlcPut_lasting (d line : Nat) (l : Option RlcLine) (s : State) : (rlcPut d line l s).lasting = s.lasting :=
  rfl

@[simp] theorem rlcBack_lasting (d line : Nat) (l : RlcLine) (s : State) : (rlcBack d line l s).lasting = s.lasting := by
  simp [rlcBack, memWrite]

@[simp] theorem rlcLose_lasting (d line : Nat) (l : RlcLine) (s : State) : (rlcLose d line l s).lasting = s.lasting := by
  simp [rlcLose]

@[simp] theorem rlcEmptyWay_lasting (d way : Nat) (ls : List (Nat × Option RlcLine)) (s : State) :
    (rlcEmptyWay d way ls s).lasting = s.lasting := by
  induction ls generalizing s with
  | nil => rfl
  | cons e ls ih =>
    obtain ⟨line, o⟩ := e
    cases o <;> simp [rlcEmptyWay, ih]

@[simp] theorem rlcClean_lasting (d line : Nat) (s : State) : (rlcClean d line s).lasting = s.lasting := by
  have parity (k : Nat) (b : Bool) (set way : Nat) (u : State) : (rlcParity d set way k b u).lasting = u.lasting := by
    simp [rlcParity]
  unfold rlcClean
  split
  · split
    · unfold rlcParityHit
      split <;> simp [parity]
    · simp
  · rfl

end Sys2Proof.Machine

/-!
PROOFS. Chapter 14, heat: temperature readings, the orderly stop and the analog trip (O32).
-/

namespace Sys2Proof.Machine

/-! ### What level 4 leaves -/

/-- R370: at every level the thermal record, hank memory and the caches stay. -/
theorem escalate_parts (l : Levels) (s : State) : (escalate l s).thm = s.thm ∧ (escalate l s).hnk = s.hnk ∧
    (escalate l s).mem = s.mem ∧ (escalate l s).undef = s.undef ∧ (escalate l s).vis = s.vis ∧
    (escalate l s).bob = s.bob := by
  cases h : l.l4 <;> simp [escalate, h, enterFailed, setDevState, failFrame]

/-- R62, R370: level 4 sets the device state and the way out. -/
theorem escalate_pkg_of_level4 {l : Levels} (h : l.l4 = true) (s : State) : (escalate l s).pkg =
    { s.pkg with devState := .failed,
                 wayOut := if s.pkg.devState = .failed then s.pkg.wayOut.heavier l.way else l.way } := by
  simp [escalate, h, enterFailed, setDevState, failFrame]

/-- R62, R77: level 4 fails the frame, whose first cause is kept. -/
theorem escalate_failStatus {l : Levels} {st : Status} {s : State} (h4 : l.l4 = true) (h : s.frm.failStatus = some st) :
    (escalate l s).frm.failStatus = some st := by
  simp [escalate, h4, enterFailed, setDevState, failFrame, h]

theorem heavier_cold (w : WayOut) : w.heavier .cold = .cold := by
  cases w <;> rfl

/-! ### Readings of dies -/

theorem thmDieAt_modThmDie {d : Nat} (hd : d < 6) (f : ThmDie → ThmDie) (s : State) :
    (s.modThmDie d f).thmDieAt d = f (s.thmDieAt d) :=
  vget_vmod_same _ _ _ hd

theorem pwrDieAt_modPwrDie {d : Nat} (hd : d < 4) (f : PwrDie → PwrDie) (s : State) :
    (s.modPwrDie d f).pwrDieAt d = f (s.pwrDieAt d) :=
  vget_vmod_same _ _ _ hd

theorem sensorAt_modSensor_value {i : Nat} {f : Sensor → Sensor} {s : State} (h : f (s.sensorAt i) ≠ default) :
    (s.modSensor i f).sensorAt i = f (s.sensorAt i) :=
  tget_tput_value h

theorem sensorUpdate_ne_default (v : BitVec 10) (x : Sensor) : sensorUpdate (some v) x ≠ default := fun h =>
  Bool.noConfusion (congrArg Sensor.valid h : true = false)

/-- R360: the state in which channel `ch` has been read and the round has moved on. -/
def sensed (v : BitVec 10) (ch : Nat) (s : State) : State :=
  (s.modThm fun t => { t with channel := (ch + 1) % 384 }).modSensor ch (sensorUpdate (some v))

theorem sensorAt_sensed (v : BitVec 10) (ch : Nat) (s : State) :
    (sensed v ch s).sensorAt ch = sensorUpdate (some v) (s.sensorAt ch) :=
  sensorAt_modSensor_value (sensorUpdate_ne_default v _)

theorem channelRead_of_die {v : BitVec 10} {s : State} (d : Fin 4) (hc : s.thm.channel = 64 * d.val)
    (hf : (s.sensorAt (64 * d.val)).faulty = false) :
    channelRead (some v) s = dieRead d v.toNat (sensed v (64 * d.val) s) := by
  have hs : ((sensed v (64 * d.val) s).sensorAt (64 * d.val)).faulty = false := by
    rw [sensorAt_sensed]
    exact hf
  have hdie : sensorDie (64 * d.val) = some d.val := by
    rw [sensorDie, if_pos (by omega), Nat.mul_div_cancel_left _ (by decide)]
  have hhank : (0x140 ≤ 64 * d.val && 64 * d.val < 0x160) = false := by
    rw [decide_eq_false (by omega), Bool.false_and]
  rw [sensed] at hs ⊢
  simp only [channelRead, hc, hhank, hs, hdie, Option.isNone_some, Bool.false_eq_true, if_false]
  rw [if_neg (by omega)]

theorem faultyRise_le (s : State) (d : Nat) : faultyRise s d ≤ 12 := by
  unfold faultyRise
  split <;> decide

/-- R361: below 87 °C a compute die's reading crosses into no band. -/
theorem dieRead_of_cool {d v : Nat} (hd : d < 4) (hv : v + 12 < 360) (s : State) : dieRead d v s = s := by
  have hr := faultyRise_le s d
  have hthr : throttleAt d = 360 := if_pos hd
  rw [dieRead, if_neg (by omega), hthr, decide_eq_false (by omega : ¬360 ≤ v + faultyRise s d), Bool.false_and]
  rfl

/-- R361: from 90 °C to 102 °C a compute die in the Normal band enters Throttle. -/
theorem dieRead_of_warm {d v : Nat} {s : State} (hd : d < 4) (hv : 360 ≤ v) (hv' : v + 12 < 420)
    (hb : (s.thmDieAt d).band = .normal) : dieRead d v s = enterThrottle d s := by
  have hr := faultyRise_le s d
  have hthr : throttleAt d = 360 := if_pos hd
  rw [dieRead, if_neg (by omega), hthr, decide_eq_true (by omega : 360 ≤ v + faultyRise s d), hb]
  rfl

theorem enterThrottle_of_compute {d : Nat} (hd : d < 4) (s : State) :
    ((enterThrottle d s).thmDieAt d).band = .throttle ∧
    ((enterThrottle d s).pwrDieAt d).thermal = (s.pwrDieAt d).step - 2 ∧ (enterThrottle d s).thm.throttle = true ∧
    (enterThrottle d s).pkg = s.pkg ∧ (enterThrottle d s).frm = s.frm := by
  let u := (s.modThm fun t => { t with throttle := true }).modThmDie d fun x => { x with band := .throttle, entered := true }
  have hthm : (enterThrottle d s).thm = u.thm := by simp [enterThrottle, hd, u]
  have hpwr : (enterThrottle d s).pwr = (u.modPwrDie d fun p => { p with thermal := p.step - 2 }).pwr := by
    simp [enterThrottle, hd, u]
  refine ⟨?_, ?_, ?_, ?_, ?_⟩
  · rw [State.thmDieAt, hthm]
    exact congrArg ThmDie.band (thmDieAt_modThmDie (by omega) _ _)
  · rw [State.pwrDieAt, hpwr]
    exact congrArg PwrDie.thermal (pwrDieAt_modPwrDie hd _ _)
  · rw [hthm]
    rfl
  · simp [enterThrottle, hd]
  · simp [enterThrottle, hd]

/-! ### Readings of hanks -/

theorem hankAt_modHank_value {h : Nat} {f : Hank → Hank} {s : State} (hv : f (s.hankAt h) ≠ default) :
    (s.modHank h f).hankAt h = f (s.hankAt h) :=
  tget_tput_value hv

/-- R151: above 105 °C every band gives way to Stop. -/
theorem nextBand_of_hot {v : Nat} (hv : 420 < v) (b : Band) : nextBand b v = .stop := by
  have hb : bandAt v = .stop := if_pos hv
  cases b <;> simp [nextBand, hb, Band.rank]

theorem clientError_failStatus {st : Status} {s : State} (c : Client) (h : (s.frm.failStatus <|> some st) = some st) :
    ((clientError c st s).frm.failStatus <|> some st) = some st := by
  cases c <;> simpa [clientError, failFrame] using h

theorem endHeld_failStatus {st : Status} {s : State} (h : s.frm.failStatus = none) :
    ((endHeld st s).frm.failStatus <|> some st) = some st := by
  unfold endHeld
  refine List.foldlRecOn _ _ (motive := fun u : State => (u.frm.failStatus <|> some st) = some st) ?_ ?_
  · simp [h]
  · exact fun u hu x _ => clientError_failStatus x.2.client hu

theorem endHeld_hnk (st : Status) (s : State) : (endHeld st s).hnk = { s.hnk with held := [] } :=
  foldl_keeps State.hnk _ (fun u x => by cases h : x.2.client <;> rfl) _ _

theorem endHeld_mem (st : Status) (s : State) : (endHeld st s).mem = s.mem :=
  foldl_keeps State.mem _ (fun u x => by cases h : x.2.client <;> rfl) _ _

/-- What ending commands leaves alone. -/
theorem endCommands_parts (st : Status) (tags : List Nat) (s : State) : (endCommands st tags s).hnk = s.hnk ∧
    (endCommands st tags s).mem = s.mem ∧ (endCommands st tags s).frm = s.frm ∧ (endCommands st tags s).thm = s.thm := by
  induction tags generalizing s with
  | nil => exact ⟨rfl, rfl, rfl, rfl⟩
  | cons t ts ih =>
    obtain ⟨h1, h2, h3, h4⟩ := ih (endCommand t st 0 0 s)
    rw [endCommands, h1, h2, h3, h4]
    simp

/-- R153: what the orderly shutdown of hank memory leaves. -/
theorem overtempShutdown_fields (h : Nat) {s : State} (hf : s.frm.failStatus = none) :
    let t := overtempShutdown h s
    t.hnk.stopped = true ∧ t.hnk.selfRefresh = true ∧ (t.hankAt h).overtemp = true ∧ (t.hankAt h).band = .stop ∧
    t.frm.failStatus = some .eHankOvertemp ∧ t.pkg.devState = .failed ∧ t.mem = s.mem := by
  intro t
  let u := s.modHank h fun k => { k with overtemp := true, band := .stop, bandDue := none }
  have hu : u.hankAt h = { s.hankAt h with overtemp := true, band := .stop, bandDue := none } :=
    hankAt_modHank_value fun hd => Bool.noConfusion (congrArg Hank.overtemp hd : true = false)
  have hhnk : t.hnk = { u.hnk with held := [], stopped := true, selfRefresh := true, active := none, rowActive := none } := by
    simp [t, overtempShutdown, escalate_parts, endCommands_parts, endHeld_hnk, failFrame, u]
  have hhank : t.hankAt h = u.hankAt h := by rw [State.hankAt, hhnk, State.hankAt]
  refine ⟨by rw [hhnk], by rw [hhnk], by rw [hhank, hu], by rw [hhank, hu], escalate_failStatus rfl ?_, escalate_failed rfl _, ?_⟩
  · have hh : ((endHeld .eHankOvertemp u).frm.failStatus <|> some .eHankOvertemp) = some .eHankOvertemp := endHeld_failStatus hf
    simpa [endCommands_parts, failFrame] using hh
  · simp [t, overtempShutdown, escalate_parts, endCommands_parts, endHeld_mem, failFrame]

/-- R152, R153: a hank whose hottest reading is above 105 °C, while memory runs. -/
theorem hankRead_of_hot {h v : Nat} {s : State} (hmax : (hankReadings s h).max? = some v) (hv : 420 < v)
    (hs : s.hnk.stopped = false) : hankRead h s =
      overtempShutdown h (s.modHank h fun k => { k with misses := 0, temp := v / 4, tempMax := max k.tempMax (v / 4) }) := by
  simp only [hankRead, hmax, nextBand_of_hot hv, if_true, State.modHank_hnk, hs, Bool.false_eq_true, if_false]

theorem channelRead_of_lastHank {v : BitVec 10} {s : State} (h : Fin 8) (hc : s.thm.channel = 0x143 + 4 * h.val) :
    channelRead (some v) s = hankRead h.val (sensed v (0x143 + 4 * h.val) s) := by
  have hhank : (0x140 ≤ 0x143 + 4 * h.val && 0x143 + 4 * h.val < 0x160) = true := by
    rw [decide_eq_true (by omega), decide_eq_true (by omega), Bool.true_and]
  have hdiv : (0x143 + 4 * h.val - 0x140) / 4 = h.val := by omega
  simp only [channelRead, hc, hhank, Option.isNone_some, Bool.false_eq_true, if_false, if_true]
  rw [if_pos (by omega), hdiv]
  rfl

/-- R360: a reading of a hank's fourth channel is among the hank's readings. -/
theorem mem_hankReadings_sensed (v : BitVec 10) (h : Nat) (s : State) :
    v.toNat ∈ hankReadings (sensed v (0x143 + 4 * h) s) h := by
  refine List.mem_filterMap.2 ⟨3, by decide, ?_⟩
  have hch : 0x140 + 4 * h + 3 = 0x143 + 4 * h := by omega
  simp only [hch, sensorAt_sensed]
  rfl

theorem channelRead_of_hotHank {v : BitVec 10} {s : State} (h : Fin 8) (hc : s.thm.channel = 0x143 + 4 * h.val)
    (hv : 420 < v.toNat) (hs : s.hnk.stopped = false) : ∃ f : Hank → Hank,
      channelRead (some v) s = overtempShutdown h.val ((sensed v (0x143 + 4 * h.val) s).modHank h.val f) := by
  have hmem := mem_hankReadings_sensed v h.val s
  obtain ⟨m, hm⟩ := Option.isSome_iff_exists.1 (List.isSome_max?_of_mem hmem)
  have hle : v.toNat ≤ m := (List.max?_eq_some_iff.1 hm).2 _ hmem
  exact ⟨_, (channelRead_of_lastHank h hc).trans (hankRead_of_hot hm (by omega) hs)⟩

/-! ### The channel of the round -/

theorem enterThrottle_channel (d : Nat) (s : State) : (enterThrottle d s).thm.channel = s.thm.channel := by
  rw [enterThrottle, (escalate_parts _ _).1]
  split <;> rfl

theorem beginStop_channel (d : Nat) (s : State) : (beginStop d s).thm.channel = s.thm.channel := by
  unfold beginStop
  dsimp only
  split <;> rfl

theorem dieRead_channel (d v : Nat) (s : State) : (dieRead d v s).thm.channel = s.thm.channel := by
  unfold dieRead
  dsimp only
  split
  · split
    · rfl
    · exact beginStop_channel d s
  · split
    · exact enterThrottle_channel d s
    · rfl

theorem regulatorRead_channel (n v : Nat) (s : State) : (regulatorRead n v s).thm.channel = s.thm.channel := by
  unfold regulatorRead
  split
  · rfl
  · dsimp only
    split
    · exact enterThrottle_channel n _
    · rfl

theorem endHeld_thm (st : Status) (s : State) : (endHeld st s).thm = s.thm :=
  foldl_keeps State.thm _ (fun u x => by cases h : x.2.client <;> rfl) _ _

theorem hankRead_thm (h : Nat) (s : State) : (hankRead h s).thm = s.thm := by
  have shut (u : State) : (overtempShutdown h u).thm = u.thm := by
    simp [overtempShutdown, escalate_parts, endCommands_parts, endHeld_thm, failFrame]
  have band (b : Band) (u : State) : (setBand h b u).thm = u.thm := rfl
  unfold hankRead
  split
  · dsimp only
    split
    · split
      · rfl
      · exact shut _
    · exact band _ _
  · simp [apply_ite State.thm, band]

theorem channelRead_channel (r : Option (BitVec 10)) (s : State) :
    (channelRead r s).thm.channel = (s.thm.channel + 1) % 384 := by
  unfold channelRead
  extract_lets ch s1 s2 s3
  have h3 : s3.thm.channel = (s.thm.channel + 1) % 384 := by
    simp [s3, s2, s1, ch, countFailedRead, apply_ite State.thm]
  clear_value s3
  split
  · split
    · rw [hankRead_thm, h3]
    · exact h3
  · split
    · exact h3
    · split
      · rw [regulatorRead_channel, h3]
      · split
        · exact h3
        · split
          · rw [dieRead_channel, h3]
          · exact h3

/-! ### The end of a round -/

/-- What a round leaves alone: its count, memory, the hanks, the frame record and the device state. -/
def roundPart (s : State) : Nat × Tab Byte × Hnk × Frm × DevState :=
  (s.thm.rounds, s.mem, s.hnk, s.frm, s.pkg.devState)

theorem enterThrottle_roundPart (d : Nat) (s : State) : roundPart (enterThrottle d s) = roundPart s := by
  unfold enterThrottle
  split <;> simp [roundPart]

theorem markFaulty_roundPart (cs : List Nat) (s : State) : roundPart (markFaulty cs s) = roundPart s := by
  induction cs generalizing s with
  | nil => rfl
  | cons c cs ih =>
    unfold markFaulty
    dsimp only
    split
    · rw [ih]
      simp [roundPart]
    · exact ih s

theorem dieRound_roundPart (d : Nat) (s : State) : roundPart (dieRound d s) = roundPart s := by
  have limit (c : Prop) [Decidable c] (u : State) (f : PwrDie → PwrDie) (g : ThmDie → ThmDie) :
      roundPart ((if c then u.modPwrDie d f else u).modThmDie d g) = roundPart u := by
    split <;> rfl
  unfold dieRound
  extract_lets hot regs s1 b s2
  have h2 : roundPart s2 = roundPart s := by
    unfold s2
    split
    · exact enterThrottle_roundPart d s1
    · split
      · exact enterThrottle_roundPart d s1
      · rfl
  exact (limit ..).trans h2

theorem takeStep_roundPart (i : Nat) (s : State) : roundPart (takeStep i s) = roundPart s := by
  unfold takeStep
  split <;> rfl

/-- R360, R361: a round is counted, and leaves the rest of `roundPart` alone. -/
theorem thermalRound_roundPart (s : State) : roundPart (thermalRound s) =
    (wrapInc 32 s.thm.rounds, s.mem, s.hnk, s.frm, s.pkg.devState) := by
  have counted (u v : State) (e m : Nat) (h : roundPart u = roundPart v) :
      roundPart (u.modThm fun t => { t with rounds := wrapInc 32 t.rounds, engine := e, engineMax := m }) =
        (wrapInc 32 v.thm.rounds, v.mem, v.hnk, v.frm, v.pkg.devState) := by
    simp only [roundPart, Prod.mk.injEq] at h
    simp [roundPart, h]
  have limits (u : State) : roundPart (applyLimits u) = roundPart u := by
    simp only [applyLimits, takeSteps, takeStep_roundPart]
    rfl
  unfold thermalRound
  extract_lets s1 s2 s3
  have h3 := counted s2 s (engineMaximum s2).1 (engineMaximum s2).2
    (by simp only [s2, s1, dieRound_roundPart, markFaulty_roundPart])
  split
  · exact (limits _).trans h3
  · exact h3

/-! ### The orderly stop and the analog trip -/

theorem cleanDie_lasting (d : Nat) (s : State) : (cleanDie d s).lasting = s.lasting :=
  foldl_keeps State.lasting _ (fun _ _ => rlcClean_lasting ..) _ _

theorem or_and_low (x : BitVec 6) : (x ||| 0xF) &&& 0xF = 0xF := by
  decide +revert

/-- R362: what the orderly stop leaves outside a COMPUTE reset. -/
theorem stopDone_fields (d : Nat) {s : State} (hr : s.pkg.computeReset = false) :
    let t := stopDone d s
    t.vis.held = [] ∧ t.hnk.selfRefresh = true ∧ t.pkg.clocksStopped &&& 0xF = 0xF ∧ t.thm.stopping = none ∧
    t.thm.stopped = true ∧ t.pkg.devState = .failed := by
  unfold stopDone
  extract_lets w u1 u2 u t
  let p := s.modVis fun v => { v with held := v.held.filter fun _ => !true }
  have hw : w.lasting = p.lasting := by
    simp only [w, performHeld, cleanDie_lasting, performAll_lasting, p]
  clear_value w
  have hheld : w.vis.held = [] := (held_of_lasting hw).trans (List.filter_eq_nil_iff.2 fun _ _ => by decide)
  have hreset : u.pkg.computeReset = false := (computeReset_of_lasting hw).trans hr
  obtain ⟨hthm, hhnk, -, -, hvis, -⟩ := escalate_parts { row := 45, obj := d, l4 := true, way := .compute } u
  have ht : t = escalate { row := 45, obj := d, l4 := true, way := .compute } u := if_neg (by simp [hreset])
  rw [ht, hthm, hhnk, hvis, escalate_pkg_of_level4 rfl]
  exact ⟨hheld, rfl, or_and_low _, rfl, rfl, rfl⟩

theorem undefAt_hank {x : Nat} (hx : isHank x = true) (f : Nat) (us : List UndefExt) :
    undefAt ({ base := 0, len := hankTop, id := f } :: us) x = some { base := 0, len := hankTop, id := f } := by
  have hlt : x < hankTop := of_decide_eq_true hx
  exact List.find?_cons_of_pos (by simp [hlt])

/-- R363: what an analog trip leaves. -/
theorem analogTrip_fields (d : Die) (s : State) :
    let t := analogTrip d s
    t.thm.trip = s.thm.trip ||| BitVec.ofNat 6 (2 ^ d.val) ∧ t.vis.held = [] ∧ (∀ e : Fin 4, (t.rlcAt e).lines = []) ∧
    (∀ x, isHank x = true → tableByte s x = none → readByte t x = Config.freeByte s.free x) ∧ t.pkg.devState = .failed ∧
    t.pkg.flyerRuns = (s.pkg.flyerRuns && decide (d.val < 4)) ∧
    t.pkg.clocksStopped = (if d.val < 4 then s.pkg.clocksStopped ||| 0xF else 0x3F) ∧
    (4 ≤ d.val → t.pkg.wayOut = .cold) := by
  intro t
  let u := (markUndef 0 hankTop ((s.modThm fun t =>
    { t with trip := t.trip ||| BitVec.ofNat 6 (2 ^ d.val), stopDies := t.stopDies ||| BitVec.ofNat 6 (2 ^ d.val),
             stopping := none }).modVis fun v => { die := v.die.map fun x => { x with lines := [] }, held := [] })).modPkg
    fun p => { p with op := p.op.map opAbandon, clocksStopped := if d.val < 4 then p.clocksStopped ||| 0xF else 0x3F,
                      flyerRuns := p.flyerRuns && decide (d.val < 4), bar0Up := p.bar0Up && decide (d.val < 4) }
  let l : Levels := { row := 46, obj := d.val, l4 := true, way := if d.val < 4 then .package else .cold }
  have ht : t = escalate l u := rfl
  obtain ⟨hthm, -, hmem, hundef, hvis, hbob⟩ := escalate_parts l u
  have hpkg := escalate_pkg_of_level4 (l := l) rfl u
  rw [ht]
  refine ⟨by rw [hthm]; rfl, by rw [hvis]; rfl, fun e => ?_, fun x hx hs => ?_, by rw [hpkg], by rw [hpkg]; rfl,
    by rw [hpkg]; rfl, fun hd => ?_⟩
  · rw [State.rlcAt, hvis, vget_of_lt _ e.isLt]
    simp [u, markUndef, hankTop]
  · have htab : tableByte (escalate l u) x = none := by
      rw [← hs]
      simp only [tableByte, State.queueAt, State.regionAt, hbob]
      rfl
    have hat : undefAt (escalate l u).undef x = some { base := 0, len := hankTop, id := s.free } := by
      rw [hundef]
      exact undefAt_hank hx s.free s.undef
    simp only [readByte, htab, hat]
  · have hway : l.way = .cold := if_neg (by omega)
    rw [hpkg, hway, heavier_cold]
    exact ite_self _

/-- Settles O32: a die's reading is `dieRead` below and in Throttle, a hank's hottest reading its orderly shutdown; the
orderly stop keeps what `lasting` says until it ends, and level 4 leaves memory and the caches as the trip leaves them. -/
theorem housekeepingReadsTemperatures : Obligations.HousekeepingReadsTemperatures := by
  refine ⟨fun r s => ⟨channelRead r s, rfl, channelRead_channel r s⟩, ?_, ?_, ?_, ?_, ?_, ?_, ?_, fun _ => rfl⟩
  · intro v s d hc hv hf
    have hn : (64 * d.val + 1) % 384 = 64 * d.val + 1 := Nat.mod_eq_of_lt (by omega)
    refine congrArg Host.Outcome.next ((channelRead_of_die d hc hf).trans ((dieRead_of_cool d.isLt hv _).trans ?_))
    rw [sensed, hn]
    rfl
  · intro v s d hc hv hv' hf hb
    refine ⟨_, congrArg Host.Outcome.next ((channelRead_of_die d hc hf).trans (dieRead_of_warm d.isLt hv hv' hb)), ?_⟩
    exact enterThrottle_of_compute d.isLt _
  · intro v s h hc hv hs hf
    obtain ⟨f, hread⟩ := channelRead_of_hotHank h hc hv hs
    exact ⟨_, congrArg Host.Outcome.next hread, overtempShutdown_fields h.val hf⟩
  · intro s
    have hround := thermalRound_roundPart s
    simp only [roundPart, Prod.mk.injEq] at hround
    exact ⟨thermalRound s, rfl, hround⟩
  · intro s h
    simp only [exec, execOrderlyStopComplete, h]
  · intro d s h hr ha hrow
    refine ⟨stopDone d s, ?_, stopDone_fields d hr⟩
    simp [exec, execOrderlyStopComplete, h, ha, hrow]
  · intro d s
    exact ⟨analogTrip d s, rfl, analogTrip_fields d s⟩

end Sys2Proof.Machine

/-!
PROOFS. Chapter 2: the start of a frame, the dies' choices, draining and the loss of ticks (O19).
-/

namespace Sys2Proof.Machine

/-! ### What the start of a frame leaves of the tick -/

section
variable (s : State)

@[simp] theorem drawFree_lasting : s.drawFree.lasting = s.lasting := rfl
@[simp] theorem modBank_lasting (i : Nat) (f : Bank → Bank) : (s.modBank i f).lasting = s.lasting := rfl
@[simp] theorem noteHold_lasting (cause : Nat) : (noteHold cause s).lasting = s.lasting := rfl
@[simp] theorem planLaneChange_lasting : (planLaneChange s).lasting = s.lasting := rfl
@[simp] theorem sendSequenced_lasting (n typ : Nat) (p : List Byte) : (sendSequenced n typ p s).lasting = s.lasting := rfl
@[simp] theorem laneCause_lasting : (laneCause s).lasting = s.lasting := rfl
@[simp] theorem maybeReturn_lasting (n : Nat) : (maybeReturn n s).lasting = s.lasting := rfl
@[simp] theorem announceMap_lasting (n : Nat) (m : List Nat) (seq : Nat) (ack : Bool) :
    (announceMap n m seq ack s).lasting = s.lasting := rfl
@[simp] theorem clearUnits_lasting : (clearUnits s).lasting = s.lasting := rfl
@[simp] theorem fabricFrame_lasting : (fabricFrame s).lasting = s.lasting := rfl
@[simp] theorem hintFrame_lasting : (hintFrame s).lasting = s.lasting := rfl

end

/-! #### Strands -/

@[simp] theorem sendSummary_lasting (tree : Nat) (s : State) : (sendSummary tree s).lasting = s.lasting := by
  unfold sendSummary
  split
  · rfl
  · extract_lets x s1 s2
    have h2 : s2.lasting = s.lasting := by simp [s2, s1]
    split <;> simp [h2, sendDiscovery]

@[simp] theorem stateChanged_lasting (n : Nat) (old new : DiscState) (s : State) :
    (stateChanged n old new s).lasting = s.lasting := by
  have gone (f : State) : (f.modFrm fun x => { x with noStandby := true }).lasting = f.lasting := rfl
  simp [stateChanged, freshSummaries, gone]

@[simp] theorem reevaluate_lasting (n : Nat) (s : State) : (reevaluate n s).lasting = s.lasting := by
  simp [reevaluate, refreshSummary]

@[simp] theorem reevaluateAll_lasting (ns : List Nat) (s : State) : (reevaluateAll ns s).lasting = s.lasting := by
  induction ns generalizing s with
  | nil => rfl
  | cons n ns ih => simp [reevaluateAll, ih]

@[simp] theorem noteTickStrands_lasting (s : State) : (noteTickStrands s).lasting = s.lasting := by
  unfold noteTickStrands
  extract_lets s1 s2
  have h1 : s1.lasting = s.lasting := by
    unfold s1
    split
    · split <;> rfl
    · rfl
  have h2 : s2.lasting = s1.lasting := by
    unfold s2
    split
    · split <;> rfl
    · rfl
  exact h2.trans h1

@[simp] theorem switchConfig_lasting (s : State) : (switchConfig s).lasting = s.lasting := by
  simp [switchConfig]

@[simp] theorem injectAll_lasting (dest : Nat) (ps : List (List Byte)) (s : State) :
    (injectAll dest ps s).lasting = s.lasting := by
  induction ps generalizing s with
  | nil => rfl
  | cons p ps ih => simp [injectAll, injectPacket, ih]

@[simp] theorem sendNotices_lasting (n : Nat) (xs : List (Nat × Nat × Nat)) (s : State) :
    (sendNotices n xs s).lasting = s.lasting := by
  induction xs generalizing s with
  | nil => rfl
  | cons x xs ih => simp [sendNotices, sendMessage, ih]

@[simp] theorem leaveService_lasting (n : Nat) (s : State) : (leaveService n s).lasting = s.lasting := by
  simp [leaveService, advanceSwap]

@[simp] theorem laneNotices_lasting (n : Nat) (s : State) : (laneNotices n s).lasting = s.lasting :=
  sendNotices_lasting ..

@[simp] theorem mapAtOnce_lasting (n : Nat) (m : List Nat) (s : State) : (mapAtOnce n m s).lasting = s.lasting := by
  simp [mapAtOnce, applyTx]

@[simp] theorem lanesAtFrame_lasting (s : State) : (lanesAtFrame s).lasting = s.lasting := by
  have all (es : List (Nat × List Nat)) (u : State) : (applyAll es u).lasting = u.lasting := by
    induction es generalizing u with
    | nil => rfl
    | cons e es ih => simp [applyAll, ih]
  simp [lanesAtFrame, all]

/-! #### The program, the rows and the snapshots -/

@[simp] theorem advanceIndex_lasting (t : Tick) (s : State) : (advanceIndex t s).lasting = s.lasting := by
  have past (u : State) : (notePast u).lasting = u.lasting := rfl
  have index (n : Nat) (u : State) : (u.modFrm fun f => { f with index := (f.index + 1) % n }).lasting = u.lasting := rfl
  have start (u : State) : (startProgram t u).lasting = u.lasting := by
    unfold startProgram
    extract_lets r i n u1 u2
    have h2 : u2.lasting = u.lasting := by
      unfold u2 u1
      split <;> rfl
    split <;> simp [h2]
  simp [advanceIndex, past, index, start]

@[simp] theorem missStart_lasting (t : Tick) (s : State) : (missStart t s).lasting = s.lasting := by
  unfold missStart
  split <;> rfl

@[simp] theorem captureRows_lasting (s : State) : (captureRows s).lasting = s.lasting := by
  simp [captureRows, setDownRows]

@[simp] theorem abandonGens_lasting (bad : BuddyGen → Bool) (ps : List Protected) (s : State) :
    (abandonGens bad ps s).lasting = s.lasting := by
  induction ps generalizing s with
  | nil => rfl
  | cons p ps ih => simp [abandonGens, abandonGen, ih]

@[simp] theorem buddyFrame_lasting (s : State) : (buddyFrame s).lasting = s.lasting := by
  unfold buddyFrame
  split <;> simp

@[simp] theorem powerFrame_lasting (s : State) : (powerFrame s).lasting = s.lasting := by
  have take (i : Nat) (u : State) : (takeStep i u).lasting = u.lasting := by
    unfold takeStep
    split <;> simp
  have release (u : State) : (guardRelease u).lasting = u.lasting := by
    simp [guardRelease]
  simp [powerFrame, release, takeSteps, take]

@[simp] theorem snapFrame_lasting (s : State) : (snapFrame s).lasting = s.lasting := by
  have lines (d : Nat) (ls : List Nat) (u : State) : (cleanLines d ls u).lasting = u.lasting := by
    induction ls generalizing u with
    | nil => rfl
    | cons l ls ih => simp [cleanLines, ih]
  unfold snapFrame
  split <;> simp [captureSnapshot, cleanAll, lines]

@[simp] theorem scrubs_lasting (s : State) : (scrubs s).lasting = s.lasting := by
  have words : (scrubWords s).held = s.vis.held := rfl
  simp only [State.lasting, scrubs]
  split
  · rw [words]
  · rfl

/-- A field of the frame record that `tickPart` keeps. -/
theorem field_of_tickPart {β : Type} {f g : Frm} (p : Frm → β) (hp : ∀ x, p (tickPart x) = p x)
    (h : tickPart f = tickPart g) : p f = p g := by
  rw [← hp, h, hp]

/-- R47, R67: the tick that begins a frame is in force when the frame has begun. -/
theorem frameBegin_tick (k : Half) (a : Tick) (s : State) : ∃ f : Frm,
    tickPart (frameBegin k a s).frm = tickPart f ∧ f.cur = a ∧ f.number = a.frame ∧ f.period = a.period ∧
    f.stretch = a.stretch ∧ f.held = a.held ∧ f.pause = a.pause ∧ f.next = none ∧ f.replied = false := by
  let u := enterFrame a k (noteOverrun (carryFail s))
  have h : (frameBegin k a s).lasting = u.lasting := by
    simp [frameBegin, u]
  exact ⟨u.frm, tickPart_of_lasting h, rfl, rfl, rfl, rfl, rfl, rfl, rfl, rfl⟩

/-! ### Steps chosen -/

theorem chooseStep_same {i : Nat} (hi : i < 4) (s : State) : ((chooseStep i s).pwrDieAt i).next.isSome = true := by
  unfold chooseStep
  extract_lets d p u
  have hu : (u.pwrDieAt i).next.isSome = true := congrArg (·.next.isSome) (pwrDieAt_modPwrDie hi _ s)
  clear_value u
  split
  · exact hu
  · exact hu

theorem chooseStep_other {i j : Nat} (hj : j ≠ i) (s : State) : (chooseStep i s).pwrDieAt j = s.pwrDieAt j := by
  unfold chooseStep
  extract_lets d p u
  have hu : u.pwrDieAt j = s.pwrDieAt j := vget_vmod_other _ _ _ _ hj
  clear_value u
  split
  · exact hu
  · exact hu

theorem chooseStep_memory (i : Nat) (s : State) : (chooseStep i s).mem = s.mem ∧ (chooseStep i s).bob = s.bob := by
  unfold chooseStep
  extract_lets d p u
  split
  · exact ⟨rfl, rfl⟩
  · exact ⟨rfl, rfl⟩

theorem pwrDieAt_setGuardDue (b : Bool) (d : Nat) (s : State) :
    (s.modPwr fun x => { x with guardDue := b }).pwrDieAt d = s.pwrDieAt d :=
  rfl

theorem chooseSteps_next (s : State) (d : CDie) : ((chooseSteps s).pwrDieAt d).next.isSome = true := by
  rw [chooseSteps, pwrDieAt_setGuardDue]
  obtain hd | hd | hd | hd : d.val = 0 ∨ d.val = 1 ∨ d.val = 2 ∨ d.val = 3 := by omega
  · rw [hd, chooseStep_other (by decide), chooseStep_other (by decide), chooseStep_other (by decide)]
    exact chooseStep_same (by decide) _
  · rw [hd, chooseStep_other (by decide), chooseStep_other (by decide)]
    exact chooseStep_same (by decide) _
  · rw [hd, chooseStep_other (by decide)]
    exact chooseStep_same (by decide) _
  · rw [hd]
    exact chooseStep_same (by decide) _

theorem chooseSteps_memory (s : State) : (chooseSteps s).mem = s.mem ∧ (chooseSteps s).bob = s.bob := by
  have mem (i : Nat) (u : State) : (chooseStep i u).mem = u.mem := (chooseStep_memory i u).1
  have bob (i : Nat) (u : State) : (chooseStep i u).bob = u.bob := (chooseStep_memory i u).2
  constructor
  · rw [chooseSteps, State.modPwr_mem, mem, mem, mem, mem]
  · rw [chooseSteps, State.modPwr_bob, bob, bob, bob, bob]

/-! ### Draining -/

theorem leaveSpindle_busy (p : Spindle) : (leaveSpindle p).busy = none := by
  unfold leaveSpindle
  split <;> rfl

/-- R62: with no start announced and the device draining, the drain ends in a loaded program and READY. -/
theorem execDrainComplete_of_draining {s : State} (hp : s.frm.prog = .draining) (ha : s.frm.ann = none)
    (hd : s.pkg.devState = .draining) : exec .drainComplete s = .next (setDevState .ready
      (clearUnits (s.modFrm fun f => { f with prog := .loaded }))) := by
  have hd' (u : State) (hu : u.pkg = s.pkg) : u.pkg.devState = .draining := by rw [hu, hd]
  simp only [exec, execDrainComplete, hp, ha, if_true, Option.map_none, Option.getD_none, Bool.false_eq_true, if_false]
  exact congrArg Host.Outcome.next (if_pos (hd' _ rfl))

/-! ### Ticks lost -/

theorem endRows_lasting (st : Status) (s : State) : (endRows st s).lasting = s.lasting := by
  unfold endRows
  extract_lets rows u
  rw [foldl_keeps State.lasting _ (fun _ _ => writeBytes_lasting ..)]
  simp [u]

theorem beginDrain_lasting (s : State) : (beginDrain s).lasting = s.lasting := by
  have stop (u : State) : (u.modFrm fun f => { f with prog := .draining, runFrame := false }).lasting = u.lasting := rfl
  simp [beginDrain, stop]

/-- R75, R77: the frame is recorded as failed. -/
theorem frameFailed_record (n : Nat) (s : State) : ∃ f : Frm,
    tickPart (frameFailed n s).frm = tickPart f ∧ f.failedFrame = true ∧ f.failNum = n := by
  unfold frameFailed
  extract_lets s1 u v
  have hv : v.lasting = u.lasting := by
    simp [v, buddyFail, dropChunks]
  have h : (beginDrain (endRows .eFrameFailed v)).lasting = u.lasting := by
    rw [beginDrain_lasting, endRows_lasting, hv]
  exact ⟨u.frm, tickPart_of_lasting h, rfl, rfl⟩

theorem ticksLost_fields (s : State) : (ticksLost s).top.tickLost = true ∧ (ticksLost s).frm.failedFrame = true ∧
    (ticksLost s).frm.failNum = s.frm.cur.frame := by
  obtain ⟨f, htick, hfailed, hnum⟩ := frameFailed_record s.frm.cur.frame s
  have hfrm : (ticksLost s).frm = (frameFailed s.frm.cur.frame s).frm := by
    simp [ticksLost]
  have htop : (ticksLost s).top.tickLost = true := by
    simp [ticksLost]
  rw [hfrm, field_of_tickPart Frm.failedFrame (fun _ => rfl) htick, field_of_tickPart Frm.failNum (fun _ => rfl) htick]
  exact ⟨htop, hfailed, hnum⟩

/-- Settles O19: after a frame is entered nothing changes the fields of its tick; the choices change the power record
alone; and after a lost tick's frame is recorded as failed nothing changes that record. -/
theorem framesBeginAndDrain : Obligations.FramesBeginAndDrain := by
  refine ⟨?_, ?_, ?_, ?_, ?_⟩
  · intro k a s hn
    obtain ⟨f, ht, hcur, hnum, hper, hstr, hheld, hpause, hnext, hrep⟩ := frameBegin_tick k a s
    refine ⟨frameBegin k a s, by simp only [exec, execFrameBegin, hn], rfl, ?_, ?_, ?_, ?_, ?_, ?_, ?_, ?_⟩
    · exact (field_of_tickPart Frm.cur (fun _ => rfl) ht).trans hcur
    · exact (field_of_tickPart Frm.number (fun _ => rfl) ht).trans hnum
    · exact (field_of_tickPart Frm.period (fun _ => rfl) ht).trans hper
    · exact (field_of_tickPart Frm.stretch (fun _ => rfl) ht).trans hstr
    · exact (field_of_tickPart Frm.held (fun _ => rfl) ht).trans hheld
    · exact (field_of_tickPart Frm.pause (fun _ => rfl) ht).trans hpause
    · exact (field_of_tickPart Frm.next (fun _ => rfl) ht).trans hnext
    · exact (field_of_tickPart Frm.replied (fun _ => rfl) ht).trans hrep
  · intro k s hn
    simp only [exec, execFrameBegin, hn]
  · intro s hp
    refine ⟨chooseSteps s, ?_, chooseSteps_next s, rfl, chooseSteps_memory s⟩
    simp [exec, execStepChoice, noProgram, hp]
  · intro s hp ha hd
    refine ⟨_, execDrainComplete_of_draining hp ha hd, rfl, rfl, fun i hi => ?_, fun d hd => ?_, rfl, rfl, rfl⟩
    · exact (congrArg Spindle.busy (vget_map s.spn (fun p => rampEnded (leaveSpindle p)) hi)).trans (leaveSpindle_busy _)
    · exact congrArg VecDie.group (vget_map s.vec (fun v => { v with group := [], plies := [], ended := [] }) hd)
  · intro s hf hr hn
    refine ⟨ticksLost s, ?_, ticksLost_fields s⟩
    rcases hr with hr | hr <;> simp [exec, execTickLoss, hf, hr, hn]

end Sys2Proof.Machine
